-- ==== Sys2Proof/Word.lean ====
section
/-! DEFINITION. The word types of the block: a byte, the dword of a register access, the qword of the fabric and the
512-bit vector of a processing element. -/

namespace Sys2Proof

/-- One byte. -/
abbrev Byte := BitVec 8
/-- A dword, the unit of a BAR0 access (R99). -/
abbrev Dword := BitVec 32
/-- A qword, the value of a scalar port, a token VALUE or a Latch word. -/
abbrev Qword := BitVec 64
/-- A vector port of 32 lanes of 16 bits (R340). -/
abbrev Vec := BitVec 512

/-- A chip of the tray, E0 to E3 (R24). -/
abbrev ChipId := Fin 4
/-- A pack of a chip. -/
abbrev PackId := Fin 12
/-- A processing element of a pack. -/
abbrev PeId := Fin 16

end Sys2Proof
end

