-- ==== Sys2Proof/Syntax.lean ====
section
/-! DEFINITION. The commands of the block, one constructor for each row of the command table, and the types of their
operands. -/

namespace Sys2Proof

/-- Who made a register access: the host over BAR0 or the Steward (R100 gives each its own holding registers). -/
inductive Requester where
  | host
  | steward
  deriving DecidableEq, Repr

/-- The high-water clear fields of R21. -/
inductive HwmReg where
  | kennel (k : Fin 64)
  | mosaic
  | inn (p : PackId)
  | annex (p : PackId)
  | syncMax
  deriving DecidableEq, Repr

/-- What one sample of a stop loop reads: the return current of R697 sorted into the three ranges of R700. -/
inductive LoopReading where
  | closed
  | openLoop
  | kept
  deriving DecidableEq, Repr

/-- How a read the chip made of host memory, or of another chip, came back: the failing part if any (R117, R157),
whether any part carried EP, and the bytes received. -/
inductive ReadFail where
  | none
  | ur
  | timeout
  deriving DecidableEq, Repr

structure ReadResult where
  fail : ReadFail
  ep : Bool
  data : List Byte
  deriving DecidableEq, Repr

/-- Errors of the PCIe link layer (R117). -/
inductive LinkErr where
  | receiverError
  | badTlp
  | badDllp
  | replayTimeout
  | replayRollover
  | dataLinkProtocol
  | receiverOverflow
  | flowControl
  deriving DecidableEq, Repr

/-- An access of BAR2 (R105): a read of `n` bytes, or a write of the bytes with their enables. -/
inductive WindowAccess where
  | read (n : Nat)
  | write (ep : Bool) (data : List (Option Byte))
  deriving DecidableEq, Repr

/-- The AtomicOps of PCIe 4.0. -/
inductive AtomicKind where
  | fetchAdd
  | swap
  | cas
  deriving DecidableEq, Repr

/-- AtomicOp operand sizes: 32, 64 or 128 bits. -/
inductive AtomicSize where
  | s4
  | s8
  | s16
  deriving DecidableEq, Repr
/-- The header fields of a flit beside VC and KIND (R557). -/
structure FlitHdr where
  hop : Bool
  seq : BitVec 8
  ack : BitVec 8
  nak : Bool
  cpool : Fin 8
  cred : Fin 16
  dest : Fin 4
  deriving DecidableEq, Repr

/-- A Trail flit (R543, R557, R558): header and 56 payload bytes; the CRC is computed. -/
structure Flit where
  vc : Nat
  kind : Nat
  hdr : FlitHdr
  payload : List Byte
  deriving DecidableEq, Repr

/-- What the receiver finds wrong with a flit: its CRC, its place in the sequence (R544), or a KIND that R558 does not list. -/
inductive BadFlit where
  | crc
  | sequence (seq : BitVec 8)
  | unlisted (h : FlitHdr) (vc : Fin 4) (kind : Fin 8)
  deriving DecidableEq, Repr

/-- A codelet core: a PE of a pack, or the Steward pair (R372). -/
inductive CoreId where
  | pe (p : PackId) (n : PeId)
  | steward
  deriving DecidableEq, Repr

/-- A Latch operation's requester: a core through its LSU ports, with the address it computed (R357). -/
structure LatchReq where
  core : CoreId
  addr : BitVec 64
  deriving DecidableEq, Repr

/-- The blocks that take jobs from a Common Room work queue (R415, R445, R554). -/
inductive QueueBlock where
  | sieve
  | hound
  | coachman
  | dma
  deriving DecidableEq, Repr

/-- An access unit that the bitstream shows complete at a session's read point (R201, R208): bytes before its start, its
length, and whether it carries a reference picture. If it is skipped (R187), `place` is its place in output order among the entries
that await output and `out` how many of them then reach output order (R204). -/
structure AuHead where
  sess : Fin 64
  skip : Nat
  len : Nat
  isRef : Bool
  place : Nat
  out : Nat
  deriving DecidableEq, Repr

/-- A PDM period: its sample index and the 64 bits of each of the 16 channels, bit 0 the first (R238, R240). -/
structure PdmIn where
  n : Nat
  bits : List (BitVec 64)
  deriving DecidableEq, Repr

/-- A pack's tensor engine, and how many tiles it may run before anything else happens. -/
structure TenSteps where
  pack : PackId
  tiles : Nat
  deriving DecidableEq, Repr

/-- A Porch period: its sample index and the 150 bits of each of the four microphones, bit 0 the first (R255). -/
structure PorchIn where
  m : Nat
  bits : List (BitVec 150)
  deriving DecidableEq, Repr

/-- A coding feature that R196 names, or another one outside R195. -/
inductive CodecFeature where
  | hevcRange
  | hevcScreenContent
  | hevcScalable
  | hevcMultiview
  | avcFieldPictures
  | avcMbaff
  | avcFmo
  | avcAso
  | avcRedundantSlices
  | avcAboveHigh
  | av1High
  | av1Professional
  | av1LargeScaleTile
  | av1AnnexB
  | av1FilmGrain
  | jpegProgressive
  | jpegLossless
  | jpegHierarchical
  | jpegArithmetic
  | jpeg12Bit
  | jpeg444
  | jpegComponents
  | other
  deriving DecidableEq, Repr

/-- What a parameter set that an access unit activates declares, for the checks of R200: sizes, depths, pictures that the DPB must
hold, and the features of R196 that it selects. `legal`: every value lies in its range in the codec standard. -/
structure ParamSet where
  cropW : Nat
  cropH : Nat
  codedW : Nat
  codedH : Nat
  lumaBits : Nat
  chromaBits : Nat
  dpb : Nat
  features : List CodecFeature
  legal : Bool
  deriving DecidableEq, Repr

/-- What decoding an access unit showed (R203 to R206): features met in its slices, size, FORMAT and buffer of its picture, the 16 ×
16 blocks concealed in raster order, whether a reference was absent, the buffers it references and those still referenced after it,
whether a read of a reference returned poison, whether it is a RASL picture after the resync point, its place in output order among
the entries that await output, and how many entries reach output order now. -/
structure AuResult where
  rap : Bool
  sets : List ParamSet
  features : List CodecFeature
  w : Nat
  h : Nat
  format : Nat
  buf : Nat
  concealed : List Nat
  missingRef : Bool
  refs : List Nat
  keep : List Nat
  refPoison : Bool
  rasl : Bool
  place : Nat
  out : Nat
  deriving DecidableEq, Repr

/-- What a line suffered between its writing and its decoding (R505): the bits of the 64 data bytes (0 to 511) and of the check
word (512 to 575) that flipped, and the difference between the TAG it was encoded with and the expected one; `link`: the link's own
ECC corrected the transfer of the read (R510). -/
structure LineErr where
  flips : List (Fin 576)
  tag : BitVec 32
  link : Bool
  deriving DecidableEq, Repr

/-- A DRAM line with the class of its request (R511): `safety` for one of the Steward or the Coachman; `link`: the link's own ECC
corrects the transfer of a write (R510). -/
structure LineReq where
  line : BitVec 28
  safety : Bool
  link : Bool
  deriving DecidableEq, Repr

/-- A fault event that a unit raises by itself, such as an SRAM error found by an island's code (R590, R592). -/
structure FaultIn where
  row : Fin 35
  source : BitVec 16
  detail : BitVec 128
  deriving DecidableEq, Repr

/-- How a management request reached the Bupin (R674, R677): over SMBus to a 7-bit address, or over the service UART. -/
inductive Transport where
  | smbus (addr : BitVec 7)
  | uart
  deriving DecidableEq, Repr

/-- What a cold start samples (R50): smb_addr1 and smb_addr0, var_id (true: OL4-AC), vsel of banks 0 to 3, sv_recover_n low;
and whether the image in code bank A or B fails its verification (R657). -/
structure BootPins where
  smbAddr : BitVec 2
  varAc : Bool
  vsel : BitVec 4
  recover : Bool
  badA : Bool
  badB : Bool
  deriving DecidableEq, Repr

/-- An event on the tray's own pins: sv_present_n changes (true: low), or the straps are moved while 12 V is present (R50). -/
inductive PinEvent where
  | svPresent (low : Bool)
  | straps (pins : BootPins)
  deriving DecidableEq, Repr

/-- The commands. Each names the rule of the manual that its row cites. -/
inductive Instr where
  /-- REGISTER_WRITE (R10). A BAR0 or Steward write to a register that has no row of its own applies each field by its access code, including W1C clears, RWL locking and discards. -/
  | registerWrite (c : ChipId) (r : Requester) (off : BitVec 24) (be : BitVec 4) (ep : Bool) (v : Dword)
  /-- LOW_DWORD_READ (R100). A read of the low dword of a 64-bit quantity returns it and copies the high dword into the requester's holding register. -/
  | lowDwordRead (c : ChipId) (r : Requester) (off : BitVec 24)
  /-- LOW_DWORD_WRITE (R100). A write of the low dword of a 64-bit quantity places the value in the requester's holding register and changes nothing else. -/
  | lowDwordWrite (c : ChipId) (r : Requester) (off : BitVec 24) (be : BitVec 4) (ep : Bool) (v : Dword)
  /-- HIGH_DWORD_WRITE (R100). A write of the high dword commits the held low value and the written high value together in one cycle. -/
  | highDwordWrite (c : ChipId) (r : Requester) (off : BitVec 24) (be : BitVec 4) (ep : Bool) (v : Dword)
  /-- HWM_CLR (R21). Writing 1 to a high-water clear field loads the current live level into the high-water register. -/
  | hwmClr (c : ChipId) (w : HwmReg)
  /-- POWER_VALID (R49). 12 V held at or above 10.8 V for 100 ms in Off begins a cold start and moves the supervisor to Powered. -/
  | powerValid (pins : BootPins)
  /-- POWER_FAULT (R49). 12 V outside 10.4 to 13.6 V for 1 ms opens both safe-stop channels, asserts every chip reset, turns off connector supplies, logs VOLT and moves to Held. -/
  | powerFault (mv : BitVec 16)
  /-- POWER_RESTORE (R49). 12 V back inside 10.8 to 13.2 V for 100 ms in Held begins a cold start. -/
  | powerRestore (pins : BootPins)
  /-- POWER_LOSS (R49). 12 V below 9.0 V in Held stops the Bupin with its log kept, moving to Off. -/
  | powerLoss
  /-- SUPPLY_TRIP (R31). A connector supply above its current limit for 100 µs is turned off and stays off, with the trip logged. -/
  | supplyTrip (n : Fin 13)
  /-- BOARD_SYNC_EDGE (R181). A board_sync rising edge at a chip loads board time on the first edge or measures the error e and slews or steps board time. -/
  | boardSyncEdge (c : ChipId)
  /-- SYNC_LOSS_TIMEOUT (R182). 3 ms without a board_sync edge puts the Timekeeper in HOLD and raises TIME_LOSS. -/
  | syncLossTimeout (c : ChipId)
  /-- SEN_FSYNC_EDGE (R184). At each board time matching PHASE and PERIOD the Timekeeper raises sen_fsync for its pulse width. -/
  | senFsyncEdge (c : ChipId) (p : Fin 2)
  /-- STOP_LOOP_SAMPLE (R47). E0 samples each external stop loop every 1 ms and, on two consecutive open readings, opens both safe-stop channels. -/
  | stopLoopSample (a : LoopReading) (b : LoopReading)
  /-- PERST_ASSERT (R119). perst_n asserted for at least 100 µs causes a chip warm reset of that chip. -/
  | perstAssert (c : ChipId)
  /-- CHIP_RESET_RELEASE (R626). A chip leaves reset at the later of Bupin release and perst_n deassertion, then trains DRAM, restores ranks, wipes memory, loads board time and applies configuration. -/
  | chipResetRelease (c : ChipId) (bad : List (Fin 32))
  /-- FIRMWARE_READY (R121). Verified firmware running ends CRS, sets MODE FIRMWARE and READY 1. -/
  | firmwareReady (c : ChipId)
  /-- ROM_FALLBACK (R120). When no verified firmware reaches the chip by the latest step-5 time, CRS ends with MODE ROM and READY 0. -/
  | romFallback (c : ChipId)
  /-- FLR (R121). A Function Level Reset is a chip warm reset that keeps the link in L0. -/
  | flr (c : ChipId)
  /-- CONFIG_REQUEST (R119). A PCIe configuration request is answered, or gets Configuration Request Retry Status until the chip is ready. -/
  | configRequest (c : ChipId) (wr : Bool) (off : BitVec 12) (be : BitVec 4) (v : Dword)
  /-- PM_STATE_CHANGE (R122). A write of the Power Management state moves the function between D0 and D3hot without reset. -/
  | pmStateChange (c : ChipId) (d3hot : Bool)
  /-- UNEXPECTED_COMPLETION (R117). A completion matching no outstanding tag is discarded and reported. -/
  | unexpectedCompletion (c : ChipId) (tag : BitVec 8)
  /-- COMPLETION_TIMEOUT (R117). A chip read unanswered within the completion timeout range is abandoned and its requester handles the failure. -/
  | completionTimeout (c : ChipId) (tag : BitVec 8)
  /-- IMAGE_WINDOW_WRITE (R105). A BAR2 write to the firmware image window stores bytes in ROM mode and is otherwise discarded with IMAGE_SEEN. -/
  | imageWindowWrite (c : ChipId) (off : BitVec 24) (ep : Bool) (data : List Byte)
  /-- DEBUG_WINDOW_ACCESS (R105). A BAR2 debug window access in DEVELOP reaches the Steward flat address HIF_DBG_BASE plus offset, and reads 0 elsewhere. -/
  | debugWindowAccess (c : ChipId) (off : BitVec 26) (acc : WindowAccess)
  /-- PTM_DIALOGUE (R109). Every PERIOD ms the chip starts a two-dialogue PTM exchange and records t1. -/
  | ptmDialogue (c : ChipId)
  /-- PTM_GO (R122). Writing HIF_PTM_CTL.GO runs one PTM dialogue now if PTM Enable is set. -/
  | ptmGo (c : ChipId)
  /-- PTM_RESPONSE (R109). A PTM ResponseD computes link delay and offset, commits HIF_PTM_OFF and sets VALID. -/
  | ptmResponse (c : ChipId) (masterT2 : Qword) (propDelay : Dword)
  /-- PTM_TIMEOUT (R111). No dialogue completing within 4 × PERIOD ms clears VALID, sets LOST_SEEN and raises vector 129. -/
  | ptmTimeout (c : ChipId)
  /-- PTM_DISABLE (R122). Clearing PTM Enable while VALID is 1 clears VALID at once, sets LOST_SEEN and raises vector 129. -/
  | ptmDisable (c : ChipId)
  /-- LNR_ENABLE (R113). Setting LNR Enable registers each doorbell line of an enabled ring with an LN Read, up to the registration limit. -/
  | lnrEnable (c : ChipId) (cls : Bool) (limit : Fin 32)
  /-- LN_MESSAGE (R113). An LN Message for a registered line issues a fresh LN Read that re-registers the line. -/
  | lnMessage (c : ChipId) (line : BitVec 64)
  /-- HOST_ATOMICOP (R537). A host AtomicOp in the Latch host window executes as a Latch operation, or completes with Unsupported Request. -/
  | hostAtomicop (c : ChipId) (bar2 : Bool) (off : BitVec 26) (op : AtomicKind) (size : AtomicSize) (v : Qword) (cmp : Qword)
  /-- LATCH_WINDOW_ACCESS (R116). A host plain read or write of the Latch host window reaches the mapped Common Room or DRAM word. -/
  | latchWindowAccess (c : ChipId) (off : BitVec 15) (size8 : Bool) (wr : Bool) (be : BitVec 8) (ep : Bool) (v : Qword)
  /-- RING_ENABLE (R155). Writing ENABLE 1 checks readiness, size, type and bases, and either enables the ring with indexes 0 or refuses with an RNG_ERR bit. -/
  | ringEnable (c : ChipId) (n : Fin 128)
  /-- RING_DISABLE (R154). Writing ENABLE 0 stops fetching and moves the ring to DRAINING. -/
  | ringDisable (c : ChipId) (n : Fin 128)
  /-- RING_DRAINED (R154). The last fetched descriptor of a DRAINING ring completes, the registration lapses and the ring becomes DISABLED. -/
  | ringDrained (c : ChipId) (n : Fin 128)
  /-- RING_RESET (R154). Writing RESET stops all reads and writes of the ring, returns buffers to the host and sets indexes to 0. -/
  | ringReset (c : ChipId) (n : Fin 128)
  /-- DOORBELL_POLL (R132). Every RNG_POLL.PERIOD µs the chip reads each unregistered doorbell line. -/
  | doorbellPoll (c : ChipId)
  /-- DOORBELL_FALLBACK_POLL (R132). With PERIOD 0, a line neither registered nor polled is read every 1,000 µs and FALLBACK_SEEN is set. -/
  | doorbellFallbackPoll (c : ChipId)
  /-- DOORBELL_SWEEP (R132). Every RNG_POLL.SWEEP ms the chip reads every line of enabled rings. -/
  | doorbellSweep (c : ChipId)
  /-- DOZE_DOORBELL_POLL (R133). In Doze the wake logic polls unregistered lines every RNG_POLL.DOZE ms, and an advance is a host doorbell wake. -/
  | dozeDoorbellPoll (c : ChipId)
  /-- DOORBELL_READ_COMPLETE (R134). A returned doorbell line is compared per ring by generation and index, starting fetches, freeing OUTPUT slots or stopping a ring on OVERRUN. -/
  | doorbellReadComplete (c : ChipId) (line : Nat) (res : ReadResult)
  /-- DESCRIPTOR_FETCH_COMPLETE (R154). A descriptor read returns and its descriptors are decoded by opcode, or the ring stops on UR, timeout or EP. -/
  | descriptorFetchComplete (c : ChipId) (n : Fin 128) (res : ReadResult)
  /-- NOP (R147). A NOP descriptor completes with OK. -/
  | nop (c : ChipId) (n : Fin 128)
  /-- GRAPH_LOAD (R148). A GRAPH_LOAD descriptor starts reading a graph image into a slot, or completes BUSY or EMPTY. -/
  | graphLoad (c : ChipId) (n : Fin 128)
  /-- GRAPH_IMAGE_READ_COMPLETE (R298). The read graph image is checked and installed, the slot enters WAITING and the chip announces it over Trail, or the load is refused. -/
  | graphImageReadComplete (c : ChipId) (slot : Fin 16) (res : ReadResult)
  /-- GRAPH_UNLOAD (R148). A GRAPH_UNLOAD descriptor aborts the slot's graph, a fabric reset, and tells the other chips of CHIPS. -/
  | graphUnload (c : ChipId) (n : Fin 128)
  /-- GRAPH_ABORT_COMPLETE (R298). Once every pack has freed the graph's rooms and the slot wipe is done, the slot becomes EMPTY and a pending GRAPH_UNLOAD completes. -/
  | graphAbortComplete (c : ChipId) (slot : Fin 16)
  /-- STREAM_OPEN (R148). A STREAM_OPEN descriptor opens a bitstream, raw sensor or audio stream, allocating its session, Kennel, pool or beam set, or refuses. -/
  | streamOpen (c : ChipId) (n : Fin 128)
  /-- STREAM_CLOSE (R148). A STREAM_CLOSE descriptor stops new BUFs and completes when the stream's last frame is released or dropped. -/
  | streamClose (c : ChipId) (n : Fin 128)
  /-- STREAM_SET (R148). A STREAM_SET descriptor changes the staleness budget for frames stamped from its completion. -/
  | streamSet (c : ChipId) (n : Fin 128)
  /-- FLOW_BIND (R148). A FLOW_BIND descriptor binds a flow to an enabled OUTPUT ring. -/
  | flowBind (c : ChipId) (n : Fin 128)
  /-- EPOCH_SET (R148). An EPOCH_SET descriptor sets the chip's epoch offset and returns the previous one. -/
  | epochSet (c : ChipId) (n : Fin 128)
  /-- FAULT_ACK (R604). A FAULT_ACK descriptor acknowledges a fault record, clearing SEEN and LEVEL and freeing it if LIVE is 0. -/
  | faultAck (c : ChipId) (n : Fin 128)
  /-- POWER_REQ (R618). A POWER_REQ with MODE 1 requests Doze entry on the chip, or completes BUSY or BAD_DESC. -/
  | powerReq (c : ChipId) (n : Fin 128)
  /-- BUF (R150). A BUF descriptor hands a bitstream buffer to a kind-1 stream and starts its payload reads. -/
  | buf (c : ChipId) (n : Fin 128)
  /-- PAYLOAD_READ_COMPLETE (R161). Returned payload bytes are written into the Kennel in stream order, advancing W, stamping the buffer record and completing the BUF after its last byte. -/
  | payloadReadComplete (c : ChipId) (k : Fin 64) (res : ReadResult)
  /-- IRQ_MODERATION_TIMER (R139). The oldest unsignalled record of a ring reaching RNG_IRQ.TIME µs signals the ring's MSI-X vector. -/
  | irqModerationTimer (c : ChipId) (n : Fin 128)
  /-- OUTPUT_OVERFLOW_TIMEOUT (R143). An OUTPUT ring full for RNG_OUT.HOLD ms enters OVERFLOW and discards and counts its waiting and new records. -/
  | outputOverflowTimeout (c : ChipId) (n : Fin 128)
  /-- RECORD_CQ_WRITE (R495). A released record is written to its bound ring's CQ with PHASE, or discarded as unbound or overflowed. -/
  | recordCqWrite (c : ChipId) (f : Fin 256)
  /-- KENNEL_READ (R163). READ returns up to n bytes from R and advances R, waiting while R equals W and returning END after an EOS buffer. -/
  | kennelRead (c : ChipId) (k : Fin 64) (n : Nat)
  /-- KENNEL_MARK (R163). MARK sets the mark at R with length N. -/
  | kennelMark (c : ChipId) (k : Fin 64) (n : Nat)
  /-- KENNEL_REWIND (R163). REWIND sets R back to the live mark. -/
  | kennelRewind (c : ChipId) (k : Fin 64)
  /-- KENNEL_RELEASE (R163). RELEASE moves L up to min(o, R), freeing banks and buffer records and resuming a waiting writer. -/
  | kennelRelease (c : ChipId) (k : Fin 64) (o : Nat)
  /-- KENNEL_FORCED_RELEASE (R165). When the writer waits FULL and the reader waits at W together, the Kennel sets L to R, ends the mark and sets FORCE_SEEN. -/
  | kennelForcedRelease (c : ChipId) (k : Fin 64)
  /-- CSI_ENABLE (R194). Writing CSI_CTL.ENABLE enables the port, or is overridden to 0 with CFG_SEEN when LANES is invalid. -/
  | csiEnable (c : ChipId) (p : Fin 2)
  /-- CSI_FRAME_START (R172). A Frame Start packet on an open VC starts a frame, takes its capture stamp, truncates any unfinished frame and claims a picture buffer or drops for POOL. -/
  | csiFrameStart (c : ChipId) (p : Fin 2) (vc : Fin 4)
  /-- CSI_FRAME_END (R172). A Frame End packet ends the frame and writes the raw picture at checkpoint 3, or is ignored and counted without a Frame Start. -/
  | csiFrameEnd (c : ChipId) (p : Fin 2) (vc : Fin 4)
  /-- CSI_PICTURE_LINE (R173). A long packet of the stream's data type is checked, concealed if damaged, processed by the raw front end and written as one picture line. -/
  | csiPictureLine (c : ChipId) (p : Fin 2) (vc : Fin 4) (dt : BitVec 6) (crcOk : Bool) (samples : List Nat)
  /-- CSI_OTHER_PACKET (R172). A packet of another type or on an unopened VC is ignored, counted in CSI_IGN where the table says so. -/
  | csiOtherPacket (c : ChipId) (p : Fin 2) (vc : Fin 4) (dt : BitVec 6)
  /-- CSI_HEADER_ECC_ERROR (R172). A packet header with an uncorrectable ECC error is discarded and counted in CSI_CRC. -/
  | csiHeaderEccError (c : ChipId) (p : Fin 2) (line : Option (Fin 4))
  /-- CSI_FRAME_TIMEOUT (R174). No packet for a frame for FRAME_TO ms truncates and discards it, counted in CSI_TRUNC. -/
  | csiFrameTimeout (c : ChipId) (p : Fin 2) (vc : Fin 4)
  /-- DECODE_TAKE_AU (R208). An engine takes the next complete access unit by earliest deadline, applying checkpoint 1, and issues MARK to pre-scan it. -/
  | decodeTakeAu (c : ChipId) (e : Fin 6) (aus : List AuHead)
  /-- DECODE_PRESCAN_COMPLETE (R202). The pre-scan of an access unit ends, its parameter sets are checked, and the engine rewinds and decodes or enters RESYNC. -/
  | decodePrescanComplete (c : ChipId) (e : Fin 6) (rap : Bool) (sets : List ParamSet)
  /-- DECODE_AU_COMPLETE (R214). An access unit finishes decoding, its picture is written with concealment and poison flags, and pictures reaching output order pass checkpoint 2 to Mosaic. -/
  | decodeAuComplete (c : ChipId) (e : Fin 6) (r : AuResult)
  /-- SESSION_DRAINED (R213). A DRAINING session's last frame is released or dropped, its memory returns and it becomes CLOSED. -/
  | sessionDrained (c : ChipId) (k : Fin 64)
  /-- MOSAIC_SUBMIT (R218). A store to the Mosaic submit word queues a job in the codelet queue, stalling while it is full. -/
  | mosaicSubmit (c : ChipId) (p : PackId) (n : PeId) (addr : Qword)
  /-- CROP_JOB (R235). Mosaic takes a crop job from its queues alternately, reads and checks the block and runs its crops or refuses it. -/
  | cropJob (c : ChipId)
  /-- MOSAIC_JOB_COMPLETE (R229). The last crop and status table of a job become visible, the token is emitted and RELEASE holds return. -/
  | mosaicJobComplete (c : ChipId)
  /-- PICTURE_HOLD_EXPIRY (R220). A held picture's age exceeding its budget returns it to its pool. -/
  | pictureHoldExpiry (c : ChipId) (stream : Fin 256) (frame : BitVec 32)
  /-- TDM_FRAME (R242). A TDM frame's slots are captured into their channels as sample index n minus LAT. -/
  | tdmFrame (c : ChipId) (lane : Fin 2) (n : Nat) (slots : List (BitVec 32))
  /-- PDM_SAMPLE (R240). The PDM decimator delivers one 48 kHz sample per enabled channel. -/
  | pdmSample (c : ChipId) (x : PdmIn)
  /-- AUDIO_BLOCK_COMPLETE (R246). A block's last sample becomes available, its beams and features are computed, its record written at checkpoint 8 and its token emitted at checkpoint 9. -/
  | audioBlockComplete (c : ChipId) (stream : Fin 256)
  /-- AUDIO_RELEASE (R247). A store to the audio release word returns a block slot to its pool. -/
  | audioRelease (c : ChipId) (addr : Qword)
  /-- FEATURE_SUBMIT (R251). A store to the feature submit word queues a codelet feature job, stalling while the queue is full. -/
  | featureSubmit (c : ChipId) (p : PackId) (n : PeId) (addr : Qword)
  /-- FEATURE_JOB (R263). The feature stage takes a log-mel feature job, checks it and computes its frames into an output record. -/
  | featureJob (c : ChipId)
  /-- FEATURE_JOB_COMPLETE (R263). A feature job's output becomes visible and its token is emitted. -/
  | featureJobComplete (c : ChipId)
  /-- PORCH_SAMPLE (R256). The Porch stores one 16 kHz mono sample in its history ring. -/
  | porchSample (c : ChipId) (x : PorchIn)
  /-- PORCH_FRAME (R257). Every 10 ms the Porch scores the last 400 samples and moves through IDLE, PARTIAL and REFRACT. -/
  | porchFrame (c : ChipId)
  /-- PORCH_HANDOVER (R265). Once the chip is in Run, the Porch copies 48,000 history samples into a block record, emits its token and submits the WAKE record, or skips. -/
  | porchHandover (c : ChipId)
  /-- INN_TOKEN_GRANT (R281). The Inn arbiter grants one token, which is checked and then lodges, combines, completes a set, spills, or is treated as duplicate, bad or orphan. -/
  | innTokenGrant (c : ChipId) (p : PackId)
  /-- ANNEX_SPILL_RESUME (R306). When an Annex line frees, waiting spills are taken in arrival order and handled afresh. -/
  | annexSpillResume (c : ChipId) (p : PackId)
  /-- ANNEX_TARGETED_RECALL (R304). A tag group satisfied across Inn and Annex is read back and recalled, sticky values first, into reserve rooms. -/
  | annexTargetedRecall (c : ChipId) (p : PackId)
  /-- ANNEX_BACKGROUND_RECALL (R304). While MAIN is below ANX_RECALL.LEVEL the Annex recalls the oldest line's tokens into free main-store ways. -/
  | annexBackgroundRecall (c : ChipId) (p : PackId)
  /-- RESERVE_PROMOTE (R305). A waiting reserve token moves into the main store once its set has a free way and its graph is below quota. -/
  | reservePromote (c : ChipId) (p : PackId)
  /-- DISPATCH_FIRING (R290). The dispatcher gives a queued or READY firing to an idle PE of its mask, preloading operands, tag, flags and entry. -/
  | dispatchFiring (c : ChipId) (p : PackId)
  /-- INN_DUP_POP (R282). Writing INN_DUP_CTL.POP removes the oldest duplicate from the queue. -/
  | innDupPop (c : ChipId) (p : PackId)
  /-- SLOT_ANNOUNCE (R298). A Trail SLOT ANNOUNCE from a chip of CHIPS arms the slot when all chips match, injecting initial tokens, or aborts on mismatch. -/
  | slotAnnounce (c : ChipId) (l : Fin 2) (hdr : FlitHdr) (payload : List Byte)
  /-- SLOT_ABORT (R298). A Trail SLOT ABORT from another chip aborts the shared graph on this chip. -/
  | slotAbort (c : ChipId) (l : Fin 2) (hdr : FlitHdr) (payload : List Byte)
  /-- SLOT_ACTIVITY (R315). A Trail SLOT ACTIVITY message delivers another chip's per-slot activity and blocked bits. -/
  | slotActivity (c : ChipId) (l : Fin 2) (hdr : FlitHdr) (payload : List Byte)
  /-- LOOP_CLOSE_NOTICE (R309). A close notice decrements the loop's open count and admits a waiting entry set, or is discarded at 0. -/
  | loopCloseNotice (c : ChipId) (p : PackId)
  /-- DEADLOCK_DETECT (R312). 50 µs without a firing of a slot with blocked work raises DEADLOCK and runs a recovery round. -/
  | deadlockDetect (c : ChipId) (k : Fin 16)
  /-- ACTIVITY_EXCHANGE (R315). Every 10 µs each chip sends its per-slot activity and blocked bits to the chips sharing the slot. -/
  | activityExchange (c : ChipId)
  /-- DEADLOCK_ABORT (R315). ABORT_MS with no activity and continual blocked bits across CHIPS aborts the slot and raises DEADLOCK. -/
  | deadlockAbort (c : ChipId) (k : Fin 16)
  /-- LINGER_SCAN (R316). Every 1 ms the Inn frees rooms of tokens waiting longer than LINGER_MS and raises DEADLOCK. -/
  | lingerScan (c : ChipId)
  /-- GUESTBOOK_SUBMIT (R318). A store to the Guestbook submit word copies a submission block, refuses it or places its part at its position, or releases it at once on PASS or late. -/
  | guestbookSubmit (c : ChipId) (p : PackId) (n : PeId) (addr : Qword)
  /-- GUESTBOOK_DEADLINE (R323). An incomplete head position reaching its deadline is filled with a stale-drop or hole record and released. -/
  | guestbookDeadline (c : ChipId) (f : Fin 256)
  /-- VERDICT (R326). A KILL token kills or confirms every provisional token and firing of its node and tag, forwarding verdicts, or is held in the verdict table. -/
  | verdict (c : ChipId) (p : PackId)
  /-- VERDICT_HOLD_EXPIRY (R326). A held verdict's HOLD ending discards it, counting DFX_SPEC_VLOST if it acted on nothing. -/
  | verdictHoldExpiry (c : ChipId) (p : PackId)
  /-- SPECULATION_DOZE_KILL (R336). A provisional firing with no verdict 1 ms after a Doze request is killed. -/
  | speculationDozeKill (c : ChipId)
  /-- BUNDLE_ISSUE (R339). A PE issues one bundle once its sources are ready: guards, reads, writes, triggers and control actions, or an exception. -/
  | bundleIssue (c : ChipId) (k : CoreId)
  /-- STEWARD_INTERRUPT (R374). Between bundles with IE 1 and an enabled pending line, the Steward takes the lowest line at IVEC + 0x400, also ending WFI. -/
  | stewardInterrupt (c : ChipId)
  /-- FIRING_DRAIN_COMPLETE (R368). After END, exception or kill, the PE's accepted accesses and emissions complete and the PE becomes idle. -/
  | firingDrainComplete (c : ChipId) (p : PackId) (n : PeId)
  /-- ADD (R347). ALU ADD: R = A + B, wrapping. -/
  | add (c : ChipId) (k : CoreId) (u : Bool)
  /-- SUB (R347). ALU SUB: R = A − B, wrapping. -/
  | sub (c : ChipId) (k : CoreId) (u : Bool)
  /-- AND (R347). ALU AND: bitwise A & B. -/
  | opAnd (c : ChipId) (k : CoreId) (u : Bool)
  /-- OR (R347). ALU OR: bitwise A | B. -/
  | opOr (c : ChipId) (k : CoreId) (u : Bool)
  /-- XOR (R347). ALU XOR: bitwise A ^ B. -/
  | xor (c : ChipId) (k : CoreId) (u : Bool)
  /-- ANDN (R347). ALU ANDN: A & ~B. -/
  | andn (c : ChipId) (k : CoreId) (u : Bool)
  /-- SHL (R347). ALU SHL: A shifted left by B[5:0]. -/
  | shl (c : ChipId) (k : CoreId) (u : Bool)
  /-- SHR (R347). ALU SHR: logical right shift of A by B[5:0]. -/
  | shr (c : ChipId) (k : CoreId) (u : Bool)
  /-- SAR (R347). ALU SAR: arithmetic right shift of A by B[5:0]. -/
  | sar (c : ChipId) (k : CoreId) (u : Bool)
  /-- ROL (R347). ALU ROL: A rotated left by B[5:0]. -/
  | rol (c : ChipId) (k : CoreId) (u : Bool)
  /-- EQ (R347). ALU EQ: 1 when A equals B. -/
  | eq (c : ChipId) (k : CoreId) (u : Bool)
  /-- NE (R347). ALU NE: 1 when A differs from B. -/
  | ne (c : ChipId) (k : CoreId) (u : Bool)
  /-- LT (R347). ALU LT: signed A < B. -/
  | lt (c : ChipId) (k : CoreId) (u : Bool)
  /-- LTU (R347). ALU LTU: unsigned A < B. -/
  | ltu (c : ChipId) (k : CoreId) (u : Bool)
  /-- LE (R347). ALU LE: signed A ≤ B. -/
  | le (c : ChipId) (k : CoreId) (u : Bool)
  /-- LEU (R347). ALU LEU: unsigned A ≤ B. -/
  | leu (c : ChipId) (k : CoreId) (u : Bool)
  /-- MIN (R347). ALU MIN: signed minimum. -/
  | min (c : ChipId) (k : CoreId) (u : Bool)
  /-- MAX (R347). ALU MAX: signed maximum. -/
  | max (c : ChipId) (k : CoreId) (u : Bool)
  /-- MINU (R347). ALU MINU: unsigned minimum. -/
  | minu (c : ChipId) (k : CoreId) (u : Bool)
  /-- MAXU (R347). ALU MAXU: unsigned maximum. -/
  | maxu (c : ChipId) (k : CoreId) (u : Bool)
  /-- CLZ (R347). ALU CLZ: leading zeros of A. -/
  | clz (c : ChipId) (k : CoreId) (u : Bool)
  /-- CTZ (R347). ALU CTZ: trailing zeros of A. -/
  | ctz (c : ChipId) (k : CoreId) (u : Bool)
  /-- POPC (R347). ALU POPC: set bits of A. -/
  | popc (c : ChipId) (k : CoreId) (u : Bool)
  /-- SEXT (R347). ALU SEXT: A sign-extended from bit B[5:0]. -/
  | sext (c : ChipId) (k : CoreId) (u : Bool)
  /-- ZEXT (R347). ALU ZEXT: A with bits above B[5:0] cleared. -/
  | zext (c : ChipId) (k : CoreId) (u : Bool)
  /-- ADDS (R347). ALU ADDS: signed saturating add. -/
  | adds (c : ChipId) (k : CoreId) (u : Bool)
  /-- SUBS (R347). ALU SUBS: signed saturating subtract. -/
  | subs (c : ChipId) (k : CoreId) (u : Bool)
  /-- D2A (R351). ALU D2A: descriptor to flat address, or all ones. -/
  | d2a (c : ChipId) (k : CoreId) (u : Bool)
  /-- PACK (R347). ALU PACK: (A << 32) | low 32 bits of B. -/
  | pack (c : ChipId) (k : CoreId) (u : Bool)
  /-- A2D (R351). ALU A2D: flat address to descriptor, or all ones. -/
  | a2d (c : ChipId) (k : CoreId) (u : Bool)
  /-- MUL (R348). MUL: signed 128-bit product into RLO and RHI. -/
  | mul (c : ChipId) (k : CoreId)
  /-- MULU (R348). MULU: unsigned 128-bit product into RLO and RHI. -/
  | mulu (c : ChipId) (k : CoreId)
  /-- DIV (R348). DIV: signed quotient and remainder, with defined results for B = 0 and overflow. -/
  | div (c : ChipId) (k : CoreId)
  /-- DIVU (R348). DIVU: unsigned quotient and remainder. -/
  | divu (c : ChipId) (k : CoreId)
  /-- VADD (R349). VEC VADD: lane-wise wrapping add under VM. -/
  | vadd (c : ChipId) (k : CoreId)
  /-- VSUB (R349). VEC VSUB: lane-wise wrapping subtract. -/
  | vsub (c : ChipId) (k : CoreId)
  /-- VADDS (R349). VEC VADDS: lane-wise signed saturating add. -/
  | vadds (c : ChipId) (k : CoreId)
  /-- VSUBS (R349). VEC VSUBS: lane-wise signed saturating subtract. -/
  | vsubs (c : ChipId) (k : CoreId)
  /-- VMUL (R349). VEC VMUL: low 16 bits of lane products. -/
  | vmul (c : ChipId) (k : CoreId)
  /-- VMULQ (R349). VEC VMULQ: rounded saturating Q15 product. -/
  | vmulq (c : ChipId) (k : CoreId)
  /-- VMACQ (R349). VEC VMACQ: saturating Q15 multiply-accumulate with VC. -/
  | vmacq (c : ChipId) (k : CoreId)
  /-- VMIN (R349). VEC VMIN: lane-wise signed minimum. -/
  | vmin (c : ChipId) (k : CoreId)
  /-- VMAX (R349). VEC VMAX: lane-wise signed maximum. -/
  | vmax (c : ChipId) (k : CoreId)
  /-- VAND (R349). VEC VAND: lane-wise AND. -/
  | vand (c : ChipId) (k : CoreId)
  /-- VOR (R349). VEC VOR: lane-wise OR. -/
  | vor (c : ChipId) (k : CoreId)
  /-- VXOR (R349). VEC VXOR: lane-wise XOR. -/
  | vxor (c : ChipId) (k : CoreId)
  /-- VSHL (R349). VEC VSHL: lane-wise left shift by b[3:0]. -/
  | vshl (c : ChipId) (k : CoreId)
  /-- VSHR (R349). VEC VSHR: lane-wise logical right shift. -/
  | vshr (c : ChipId) (k : CoreId)
  /-- VSAR (R349). VEC VSAR: lane-wise arithmetic right shift. -/
  | vsar (c : ChipId) (k : CoreId)
  /-- VCMPEQ (R349). VEC VCMPEQ: lane equality into VR and the VS mask. -/
  | vcmpeq (c : ChipId) (k : CoreId)
  /-- VCMPLT (R349). VEC VCMPLT: lane signed less-than into VR and the VS mask. -/
  | vcmplt (c : ChipId) (k : CoreId)
  /-- VSEL (R349). VEC VSEL: each lane from VA or VB by VM. -/
  | vsel (c : ChipId) (k : CoreId)
  /-- VPERM (R349). VEC VPERM: lane permutation of VA by VB. -/
  | vperm (c : ChipId) (k : CoreId)
  /-- VRSUM (R349). VEC VRSUM: signed sum of selected lanes into VS. -/
  | vrsum (c : ChipId) (k : CoreId)
  /-- VRMAX (R349). VEC VRMAX: signed maximum of selected lanes into VS. -/
  | vrmax (c : ChipId) (k : CoreId)
  /-- VRMIN (R349). VEC VRMIN: signed minimum of selected lanes into VS. -/
  | vrmin (c : ChipId) (k : CoreId)
  /-- VHADD (R349). VEC VHADD: lane-wise FP16 add. -/
  | vhadd (c : ChipId) (k : CoreId)
  /-- VHMUL (R349). VEC VHMUL: lane-wise FP16 multiply. -/
  | vhmul (c : ChipId) (k : CoreId)
  /-- VHFMA (R349). VEC VHFMA: lane-wise FP16 fused multiply-add. -/
  | vhfma (c : ChipId) (k : CoreId)
  /-- VCVTHI (R349). VEC VCVTHI: FP16 to saturating int16. -/
  | vcvthi (c : ChipId) (k : CoreId)
  /-- VCVTIH (R349). VEC VCVTIH: int16 to FP16. -/
  | vcvtih (c : ChipId) (k : CoreId)
  /-- VEXT (R349). VEC VEXT: extract qword VB[2:0] of VA into VS. -/
  | vext (c : ChipId) (k : CoreId)
  /-- VINS (R349). VEC VINS: replace qword VB[2:0] of VA with qword 0 of VC. -/
  | vins (c : ChipId) (k : CoreId)
  /-- LSU_LOAD (R350). An LSU load computes its address by MODE, checks access and alignment, and delivers 1 to 64 bytes to LD or VLD. -/
  | lsuLoad (c : ChipId) (k : CoreId) (op : Dword)
  /-- LSU_STORE (R350). An LSU store computes its address, checks it and writes SD or VSD, waiting for the verdict in a provisional firing. -/
  | lsuStore (c : ChipId) (k : CoreId) (op : Dword)
  /-- SWAP (R534). Latch SWAP writes V and returns the old value indivisibly. -/
  | swap (c : ChipId) (q : LatchReq)
  /-- CAS (R534). Latch CAS writes V if the old value equals CMP and returns the old value. -/
  | cas (c : ChipId) (q : LatchReq)
  /-- FADD (R534). Latch FADD adds V with wrap and returns the old value. -/
  | fadd (c : ChipId) (q : LatchReq)
  /-- FAND (R534). Latch FAND ANDs V in and returns the old value. -/
  | fand (c : ChipId) (q : LatchReq)
  /-- FOR (R534). Latch FOR ORs V in and returns the old value. -/
  | opFor (c : ChipId) (q : LatchReq)
  /-- FMAX (R534). Latch FMAX writes the signed maximum and returns the old value. -/
  | fmax (c : ChipId) (q : LatchReq)
  /-- FMIN (R534). Latch FMIN writes the signed minimum and returns the old value. -/
  | fmin (c : ChipId) (q : LatchReq)
  /-- DECPOS (R534). Latch DECPOS decrements a positive word and returns the old value. -/
  | decpos (c : ChipId) (q : LatchReq)
  /-- LOAD (R534). Latch LOAD returns the word indivisibly without changing it. -/
  | load (c : ChipId) (q : LatchReq)
  /-- EMIT (R358). TOK OP 0 emits one token with the firing's tag, computing CHECK and flags, and routes it. -/
  | emit (c : ChipId) (k : CoreId)
  /-- EMIT_TAGGED (R358). TOK OP 1 emits one token with the tag from the TAG port. -/
  | emitTagged (c : ChipId) (k : CoreId)
  /-- BADD (R360). DEC BADD: packed BCD addition with carry. -/
  | badd (c : ChipId) (k : CoreId)
  /-- BSUB (R360). DEC BSUB: packed BCD subtraction with borrow. -/
  | bsub (c : ChipId) (k : CoreId)
  /-- DADJ (R360). DEC DADJ: decimal adjust of every nibble. -/
  | dadj (c : ChipId) (k : CoreId)
  /-- B2D (R360). DEC B2D: binary to BCD, saturating. -/
  | b2d (c : ChipId) (k : CoreId)
  /-- D2B (R360). DEC D2B: BCD to binary. -/
  | d2b (c : ChipId) (k : CoreId)
  /-- TCADD (R360). DEC TCADD: timecode plus frames modulo a day. -/
  | tcadd (c : ChipId) (k : CoreId)
  /-- TCSUB (R360). DEC TCSUB: timecode minus frames modulo a day. -/
  | tcsub (c : ChipId) (k : CoreId)
  /-- TCDIFF (R360). DEC TCDIFF: frames from one timecode to another. -/
  | tcdiff (c : ChipId) (k : CoreId)
  /-- TC2F (R360). DEC TC2F: timecode to frame count. -/
  | tc2f (c : ChipId) (k : CoreId)
  /-- F2TC (R360). DEC F2TC: frame count to timecode. -/
  | f2tc (c : ChipId) (k : CoreId)
  /-- NS2TC (R360). DEC NS2TC: nanoseconds to timecode at RATE. -/
  | ns2tc (c : ChipId) (k : CoreId)
  /-- LOOP_START (R362). LB LOOP_START pushes a loop level, or skips the body on count 0, or raises LOOP. -/
  | loopStart (c : ChipId) (k : CoreId)
  /-- LOOP_BREAK (R363). LB LOOP_BREAK pops the innermost level and continues after its end. -/
  | loopBreak (c : ChipId) (k : CoreId)
  /-- JUMP (R364). LB JUMP continues at the written target or raises BRANCH. -/
  | jump (c : ChipId) (k : CoreId) (target : Qword)
  /-- CALL (R364). LB CALL pushes the return address, spilling as needed, and jumps. -/
  | call (c : ChipId) (k : CoreId) (target : Qword)
  /-- RET (R364). LB RET pops the return address, filling from the spill area, and jumps. -/
  | ret (c : ChipId) (k : CoreId)
  /-- END (R364). LB END ends the firing after the current bundle. -/
  | opEnd (c : ChipId) (k : CoreId)
  /-- ERET (R373). SYS ERET restores FIRM and IE from PFIRM and PIE and returns to EPC. -/
  | eret (c : ChipId)
  /-- WFI (R373). SYS WFI stops issue until an enabled interrupt line is pending. -/
  | wfi (c : ChipId)
  /-- TENSOR_SUBMIT (R387). A store to the tensor submit word queues a command to the pack's engine, stalling while the queue is full. -/
  | tensorSubmit (c : ChipId) (p : PackId) (n : PeId) (addr : Qword)
  /-- MATMUL (R390). The engine takes a MATMUL command, checks it and runs its tiles. -/
  | matmul (c : ChipId) (p : TenSteps)
  /-- CONV (R391). The engine takes a CONV command, checks it and runs its tiles. -/
  | conv (c : ChipId) (p : TenSteps)
  /-- DWCONV (R392). The engine takes a DWCONV command, checks it and runs its tiles. -/
  | dwconv (c : ChipId) (p : TenSteps)
  /-- POOL (R393). The engine takes a POOL command, checks it and runs its windows. -/
  | pool (c : ChipId) (p : TenSteps)
  /-- TENSOR_COMMAND_COMPLETE (R402). A command's last drain and STAT writes become visible and its completion token is emitted. -/
  | tensorCommandComplete (c : ChipId) (p : PackId)
  /-- TENSOR_FREEZE (R412). Setting FREEZE in DEVELOP stops the running command at its next tile boundary; clearing it continues. -/
  | tensorFreeze (c : ChipId) (p : PackId) (on : Bool)
  /-- TENSOR_DEBUG_ACC_WRITE (R414). A TEN_DBG_ACC write sets the selected accumulator while frozen, and is discarded otherwise. -/
  | tensorDebugAccWrite (c : ChipId) (p : PackId) (v : Qword)
  /-- QUEUE_SLOT_STORE (R417). A store into a block's work queue region notifies the block, which takes the job at HEAD once its slot is non-zero. -/
  | queueSlotStore (c : ChipId) (b : QueueBlock) (slot : Fin 64) (v : Qword)
  /-- QUEUE_SKIP_TIMEOUT (R418). A head slot staying 0 for SKIP_US µs while another slot is full is skipped and counted. -/
  | queueSkipTimeout (c : ChipId) (b : QueueBlock)
  /-- SIEVE_JOB (R426). The Sieve takes a job at checkpoint 6, decodes rows, suppresses overlaps, writes its list and submits FRAME_SUMMARY, or returns CROP, STALE or a refusal. -/
  | sieveJob (c : ChipId)
  /-- SIEVE_JOB_COMPLETE (R427). The Sieve's list becomes visible and its completion token is emitted. -/
  | sieveJobComplete (c : ChipId)
  /-- TRACK (R430). The Hound takes a TRACK job, predicts, pairs, updates, ages and births tracks and writes its track list. -/
  | track (c : ChipId)
  /-- FUSE (R432). The Hound takes a FUSE job and updates a room track set from observations. -/
  | fuse (c : ChipId)
  /-- HOUND_JOB_COMPLETE (R431). The Hound's outputs become visible, room observation tokens and then the completion token are emitted. -/
  | houndJobComplete (c : ChipId)
  /-- OCC (R448). The Coachman takes an OCC job, building a new occupancy generation from a room track list. -/
  | occ (c : ChipId)
  /-- OCC_GENERATION_COMPLETE (R449). A generation completes and every untransmitted planned sample is re-checked, replacing conflicting plans with stops. -/
  | occGenerationComplete (c : ChipId)
  /-- OCCUPANCY_STALE (R449). The newest generation's T0 passing 200 ms plans a stop for every moving head. -/
  | occupancyStale (c : ChipId)
  /-- AIM (R452). The Coachman takes an AIM job, clamps the goal and plans a free minimum-jerk trajectory, or reports BLOCKED or DISABLED. -/
  | aim (c : ChipId)
  /-- SETPOINT_BATCH_HANDOFF (R456). The Coachman hands a batch of samples to the Sentry, which checks head, range, differences and contact. -/
  | setpointBatchHandoff (c : ChipId) (h : Fin 8)
  /-- SETPOINT_FRAME_QUEUE (R458). At first sample time minus 2 ms the Sentry checks freshness and queues the SETPOINT frame, or raises MOTION_TIMEOUT. -/
  | setpointFrameQueue (c : ChipId) (h : Fin 8)
  /-- SETPOINT_TX_LATE (R458). A SETPOINT frame not started 1 ms before its first sample time is aborted and raises MOTION_TIMEOUT. -/
  | setpointTxLate (c : ChipId) (h : Fin 8)
  /-- CAN_FRAME_TX_COMPLETE (R459). A transmitted CAN frame is compared with its readback and a mismatch raises MOTION_DISAGREE. -/
  | canFrameTxComplete (c : ChipId) (bus : Bool) (sof : Qword) (readback : Bool)
  /-- CAN_TIME_FRAME (R466). Every 10 ms of board time the tray sends a TIME frame carrying PREV_SOF. -/
  | canTimeFrame (c : ChipId)
  /-- STATUS (R459). A STATUS frame from a head is checked for CRC, following error and FAULT. -/
  | status (c : ChipId) (h : Fin 8) (data : List Byte)
  /-- CAN_FRAME_IGNORED (R466). A remote, classical or unlisted-identifier frame is ignored and counted in SEN_CANIGN. -/
  | canFrameIgnored (c : ChipId)
  /-- STATUS_TIMEOUT (R459). A head with no valid STATUS frame for 2·BATCH + 1 ms raises MOTION_TIMEOUT. -/
  | statusTimeout (c : ChipId) (h : Fin 8)
  /-- SENTRY_TIMER_REARM (R460). The Sentry rearms its hardware timer every 1 ms. -/
  | sentryTimerRearm (c : ChipId)
  /-- SENTRY_TIMER_EXPIRY (R460). 4 ms without a rearm opens both channels and raises WDOG. -/
  | sentryTimerExpiry (c : ChipId)
  /-- MOTION_DISABLE_TIMEOUT (R462). After a disable, once all heads are at rest or 2 s pass, the Sentry sends STOP, opens the channels and disables the heads. -/
  | motionDisableTimeout (c : ChipId)
  /-- TAKEOVER (R465). A head queue below 8 ms ahead or a Coachman fault marks E0 FAILED and hands planning to E2. -/
  | takeover (c : ChipId)
  /-- MOTION (R464). A Trail MOTION message mirrors jobs, generations, plan starts, takeover or batches between E0 and E2. -/
  | trailMotion (c : ChipId) (l : Fin 2) (hdr : FlitHdr) (payload : List Byte)
  /-- SEGMENT_END (R471). A head's last segment ends and it holds its rest pose as READY. -/
  | segmentEnd (c : ChipId) (h : Fin 8)
  /-- STOP_AT_REST (R471). A stopping head reaches rest and becomes READY, or DISABLED after a disable. -/
  | stopAtRest (c : ChipId) (h : Fin 8)
  /-- HEALTH_SAMPLE (R493). At each multiple of HEALTH_MS in Run the health sampler submits a HEALTH record or counts a skip. -/
  | healthSample (c : ChipId)
  /-- DRAM_READ (R505). A DRAM read decodes its line, returns data, corrects and scrubs, or poisons the line and starts retirement. -/
  | dramRead (c : ChipId) (line : LineReq) (e : LineErr)
  /-- DRAM_WRITE (R512). A full-line DRAM write is encoded and written in line order. -/
  | dramWrite (c : ChipId) (line : LineReq) (data : List Byte) (poison : Bool)
  /-- DRAM_READ_MODIFY_WRITE (R507). A partial DRAM write reads, decodes, merges and re-encodes its line, poisoning it on an uncorrectable error. -/
  | dramReadModifyWrite (c : ChipId) (line : LineReq) (o : Fin 64) (data : List Byte) (poison : Bool) (e : LineErr)
  /-- REFRESH (R514). The controller issues per-bank refresh at the MR4 rate, taking the bus at the postponement limit. -/
  | refresh (c : ChipId) (k : Fin 16) (demand : Fin 3)
  /-- MR4_POLL (R514). Every 1 ms the controller reads MR4 of every rank, derating timings and raising THERM above the limit. -/
  | mr4Poll (c : ChipId) (k : Fin 16) (r0 r1 : BitVec 5)
  /-- RETRAIN_DUE (R516). A rank due for periodic retraining runs its step in the first 1.2 µs idle window. -/
  | retrainDue (c : ChipId) (rank : Fin 32) (idle : Bool)
  /-- RETRAIN_FORCED (R516). A step unfound for 4 intervals is forced at the fifth, stalling its channel up to 1.2 µs. -/
  | retrainForced (c : ChipId) (rank : Fin 32)
  /-- PATROL_SCRUB_READ (R517). The patrol scrubber reads one line in an idle slot, writing back corrections or poisoning uncorrectable lines. -/
  | patrolScrubRead (c : ChipId) (k : Fin 16) (e : LineErr)
  /-- SCRUB_DEADLINE (R517). A pass still running at MEM_SCRUB.HOURS of Run time sets SCRUB_LATE_LIVE and SCRUB_LATE_SEEN. -/
  | scrubDeadline (c : ChipId) (k : Fin 16)
  /-- MIGRATION_GO (R518). Writing MEM_MIG_REQ.GO triggers retirement of the named rank, or sets REQ_BAD_SEEN. -/
  | migrationGo (c : ChipId)
  /-- MIGRATION_COPY_LINE (R519). One source line is decoded, re-encoded with the target TAG and written, advancing P. -/
  | migrationCopyLine (c : ChipId) (e : LineErr)
  /-- RANK_CE_CLEAR (R518). Writing MEM_CH_RANK_CE sets the count and restarts the corrected-error window. -/
  | rankCeClear (c : ChipId) (k : Fin 16) (r : Fin 2) (v : BitVec 32)
  /-- CHANNEL_POWER_DOWN (R523). A channel idle for MEM_PD.IDLE ns enters power-down and stops its clock. -/
  | channelPowerDown (c : ChipId) (k : Fin 16)
  /-- TELEMETRY_SAMPLE (R525). Every MEM_TEL.PERIOD ms each rank's MR4 is read at telemetry priority, or skipped and counted. -/
  | telemetrySample (c : ChipId) (k : Fin 16) (idle : Bool) (r0 r1 : BitVec 5)
  /-- DRAM_WIPE_COMPLETE (R526). The wipe of every non-retired rank completes and WIPE_DONE is set. -/
  | dramWipeComplete (c : ChipId)
  /-- CLOCK_WAKE (R94). A stopped clock restarted by a non-empty crossing's wake request runs and delivers held entries. -/
  | clockWake (c : ChipId) (d : Fin 28)
  /-- CROSSING_STALL_TIMEOUT (R86). A crossing into a stopped unwakeable domain holding an entry for 10 ms raises WDOG and sets STALL_SEEN. -/
  | crossingStallTimeout (c : ChipId) (src : Fin 512) (dst : Fin 512)
  /-- CROSSING_RESET (R92). One side of a crossing entering reset makes the other side discard and count its entries. -/
  | crossingReset (c : ChipId) (src : Fin 512) (dst : Fin 512) (n : Nat)
  /-- CROSSING_RESYNC (R92). The reset side leaving reset sends a resync request, and the acknowledgement resumes flow with pointers 0. -/
  | crossingResync (c : ChipId) (src : Fin 512) (dst : Fin 512)
  /-- PACE_MEASURE (R87). Every 250 µs each chip measures pace as the lowest replica count and updates PWR_PACE_MEAS and PWR_TJ. -/
  | paceMeasure (c : ChipId) (temps : List (BitVec 16)) (tj : BitVec 16)
  /-- PACE_LOOP_STEP (R90). Every 250 µs the Bupin steps VDD_CORE by 5 mV toward the target and raises VOLT after 25 ms at the ceiling. -/
  | paceLoopStep (c : ChipId)
  /-- VCORE_LOW (R683). VDD_CORE below 0.65 V for 1 ms holds the chip in reset until it reads 0.70 V, logging VOLT_CORE. -/
  | vcoreLow (c : ChipId) (mv : BitVec 10)
  /-- TRAIL_TOKENS (R548). A TOKENS flit is checked, relayed or delivered to the token network. -/
  | trailTokens (c : ChipId) (l : Fin 2) (hdr : FlitHdr) (payload : List Byte)
  /-- TRAIL_CLOSE (R309). A CLOSE flit delivers loop close notices. -/
  | trailClose (c : ChipId) (l : Fin 2) (hdr : FlitHdr) (payload : List Byte)
  /-- TRAIL_READ (R555). A READ request is served at the target in arrival order, returning DATA or BAD_ADDR. -/
  | trailRead (c : ChipId) (l : Fin 2) (hdr : FlitHdr) (payload : List Byte)
  /-- TRAIL_WRITE (R555). A WRITE request stores data at the target, acknowledging a LAST write once visible. -/
  | trailWrite (c : ChipId) (l : Fin 2) (hdr : FlitHdr) (payload : List Byte)
  /-- TRAIL_ATOMIC (R555). An ATOMIC request performs a Latch operation at the target after earlier writes and returns ARES. -/
  | trailAtomic (c : ChipId) (l : Fin 2) (hdr : FlitHdr) (payload : List Byte)
  /-- DATA (R556). A DATA response delivers remote read data to a DMA job. -/
  | trailData (c : ChipId) (l : Fin 2) (hdr : FlitHdr) (payload : List Byte)
  /-- WACK (R556). A WACK response acknowledges remote writes of a DMA job. -/
  | wack (c : ChipId) (l : Fin 2) (hdr : FlitHdr) (payload : List Byte)
  /-- ARES (R556). An ARES response delivers an atomic's old value to RESULT. -/
  | ares (c : ChipId) (l : Fin 2) (hdr : FlitHdr) (payload : List Byte)
  /-- TIME (R553). A TIME flit is stamped and used to compute offset and delay into TRL_TIME, checking LIMIT. -/
  | trailTime (c : ChipId) (l : Fin 2) (hdr : FlitHdr) (payload : List Byte)
  /-- LINKS (R547). A LINKS message updates the known ring link states and routes, and is relayed once. -/
  | links (c : ChipId) (l : Fin 2) (hdr : FlitHdr) (payload : List Byte)
  /-- MARK (R549). A MARK received by the destination is answered with MARK_ACK. -/
  | mark (c : ChipId) (l : Fin 2) (hdr : FlitHdr) (payload : List Byte)
  /-- MARK_ACK (R549). A MARK_ACK lets the source return from a detour to the preferred route. -/
  | markAck (c : ChipId) (l : Fin 2) (hdr : FlitHdr) (payload : List Byte)
  /-- SLEEP (R552). A SLEEP flit from a neighbour entering Doze holds the link's queue. -/
  | sleep (c : ChipId) (l : Fin 2) (hdr : FlitHdr) (payload : List Byte)
  /-- TRAIL_IDLE (R543). An idle flit is accepted for its ACK, NAK and credit fields. -/
  | trailIdle (c : ChipId) (l : Fin 2) (hdr : FlitHdr) (payload : List Byte)
  /-- TRAIL_BAD_FLIT (R544). A flit failing CRC or out of sequence is discarded, with TRAIL_CRC and NAK set as the table directs. -/
  | trailBadFlit (c : ChipId) (l : Fin 2) (b : BadFlit)
  /-- FLIT_TRANSMIT (R546). Each flit slot the transmitter chooses a virtual channel with a flit and a credit, or sends idle, entering the replay buffer. -/
  | flitTransmit (c : ChipId) (l : Fin 2)
  /-- REPLAY_TIMEOUT (R544). 2 µs without ACK progress resends from ACK + 1, retraining after 4 resends of one SEQ. -/
  | replayTimeout (c : ChipId) (l : Fin 2)
  /-- LINKS_BROADCAST (R547). Every 1 ms and on every change a chip sends LINKS to both neighbours. -/
  | linksBroadcast (c : ChipId)
  /-- TIME_EXCHANGE_SEND (R553). Every TIME_MS ms each side of a link sends a TIME flit. -/
  | timeExchangeSend (c : ChipId) (l : Fin 2)
  /-- LANE_FAILURE (R550). A lane losing block lock or counting 16 lane errors in 1 ms makes the link retrain. -/
  | laneFailure (c : ChipId) (l : Fin 2) (lane : Fin 4) (lock : Bool) (errs : Nat)
  /-- TRAIL_RETRAIN (R550). Writing TRL_CTL.RETRAIN makes the link retrain. -/
  | trailRetrain (c : ChipId) (l : Fin 2)
  /-- TRAIN_COMPLETE (R551). A training attempt completes with lanes locked and TRAIN READY both ways, resuming or discarding state and bringing the link UP. -/
  | trainComplete (c : ChipId) (l : Fin 2) (lanes : BitVec 4) (resume : Bool) (exp : BitVec 8)
  /-- TRAIN_ATTEMPT_TIMEOUT (R561). 100 µs without UP starts a new attempt, or after the third enters DOWN with TRAIL_DOWN. -/
  | trainAttemptTimeout (c : ChipId) (l : Fin 2)
  /-- LINK_DOWN_RETRY (R561). 10 ms in DOWN starts a new training attempt. -/
  | linkDownRetry (c : ChipId) (l : Fin 2)
  /-- COPY (R554). The DMA engine takes a COPY job and moves bytes between chips by READ and WRITE requests. -/
  | copy (c : ChipId)
  /-- ATOMIC (R554). The DMA engine takes an ATOMIC job and performs a Latch operation on any chip. -/
  | atomic (c : ChipId)
  /-- DMA_JOB_COMPLETE (R556). All acknowledgements and local writes of a DMA job are done and its token is emitted, or it completes LINK. -/
  | dmaJobComplete (c : ChipId)
  /-- ADAPT_START (R565). A JOB_SUBMIT START block places an adaptation job in its entry as QUEUED, or refuses it. -/
  | adaptStart (c : ChipId) (n : Fin 128) (res : ReadResult)
  /-- ADAPT_CANCEL (R568). A JOB_SUBMIT CANCEL block ends the named job as CANCELLED. -/
  | adaptCancel (c : ChipId) (n : Fin 128) (res : ReadResult)
  /-- ADAPT_JOB_RUN (R566). A QUEUED job whose slot is ARMED and no other job runs starts RUNNING with its credit word set to 0. -/
  | adaptJobRun (c : ChipId)
  /-- ADAPT_BATCH_DELIVER (R579). The feeder writes a built batch into its slot when credit allows and emits its token. -/
  | adaptBatchDeliver (c : ChipId)
  /-- ADAPT_CREDIT_POLL (R579). Every 10 µs a WAITING feeder re-reads the credit word with a Latch LOAD. -/
  | adaptCreditPoll (c : ChipId)
  /-- ADAPT_LINK_RETRY (R575). Every 1 ms the feeder retries a remote sample read while the route is unreachable. -/
  | adaptLinkRetry (c : ChipId)
  /-- FAULT_EVENT (R593). The collector takes a fault event, updates or allocates its record, classifies it and takes the reaction of its level. -/
  | faultEvent (c : ChipId) (ext : Option FaultIn)
  /-- FCU_ACK_GO (R604). Writing FCU_ACK.GO acknowledges the named fault record, or sets ACK_BAD_SEEN. -/
  | fcuAckGo (c : ChipId)
  /-- FAULT_LIVE_CLEAR (R604). An acknowledged record's LIVE condition clearing frees the record. -/
  | faultLiveClear (c : ChipId) (r : Fin 256)
  /-- WATCHDOG_KICK (R606). A Steward write of FCU_WDOG.KICK rearms the watchdog; a host KICK is discarded and counted. -/
  | watchdogKick (c : ChipId) (r : Requester)
  /-- STEWARD_WATCHDOG_EXPIRY (R606). A watchdog period with no rearm raises fault row 25. -/
  | stewardWatchdogExpiry (c : ChipId)
  /-- LOCKSTEP_SELFTEST (R608). After READY the Steward injects single-bit differences into each compared path, raising row 27 if any goes unflagged. -/
  | lockstepSelftest (c : ChipId) (ok : Bool)
  /-- FAULT_INJECT (R615). Writing FCU_INJECT.GO in DEVELOP raises a synthetic event of the named row and source. -/
  | faultInject (c : ChipId)
  /-- BUPIN_DOZE_REQUEST (R618). A Bupin POWER Doze request starts Doze entry on the named chips, or replies BUSY. -/
  | bupinDozeRequest (t : Transport) (chips : Byte)
  /-- DOZE_DEFER_TIMEOUT (R259). The Porch deferral ends when PRE_LIVE clears or DEFER ms pass, completing POWER_REQ and stopping fetches. -/
  | dozeDeferTimeout (c : ChipId)
  /-- DOZE_COMMIT (R621). Once the waits of R619 are met the chip writes back the check cache, enters self-refresh, sends SLEEP and removes VDD_CORE and VDD_FIX. -/
  | dozeCommit (c : ChipId)
  /-- HOST_WAKE (R622). host_wake_n held low for 10 µs wakes every chip in Doze or abandons an entry. -/
  | hostWake
  /-- PORCH_WAKE (R622). A Porch wake decision forwarded by the Bupin wakes every chip in Doze and pulses tray_wake_n. -/
  | porchWake
  /-- BUPIN_TIMER_WAKE (R622). A Bupin timer reaching its board time wakes the chips it names. -/
  | bupinTimerWake (c : ChipId)
  /-- WAKE_COMPLETE (R640). A wake restores rails, islands, DRAM and Trail, resumes blocks, services rings and signals vector 130. -/
  | wakeComplete (c : ChipId)
  /-- LIFECYCLE (R642). An accepted LIFECYCLE command sets PEND_LIVE, begins motion disable and schedules the change. -/
  | lifecycle
  /-- LIFECYCLE_RESET (R642). 50 to 60 ms after acceptance the safe-stop channels open, chip resets assert, volatile keys are wiped, the record is written and a cold start begins. -/
  | lifecycleReset
  /-- FW_ACTIVATE (R656). An accepted FW_ACTIVATE makes a VALID inactive bank PENDING and optionally power-cycles, or sets an FWU_ERR bit. -/
  | fwActivate
  /-- MOTION_ENABLE (R462). An accepted MOTION_ENABLE evaluates preconditions and enables the named heads and closes the channels, or disables motion for HEADS 0. -/
  | motionEnable
  /-- KEY_ROTATE (R652). An accepted KEY_ROTATE unwraps a new key into the target slot. -/
  | keyRotate
  /-- DEBUG_UNLOCK (R685). An accepted DEBUG_UNLOCK opens or closes the Steward debug port of the named chips. -/
  | debugUnlock
  /-- PIXEL_TAP (R652). An accepted PIXEL_TAP enables or disables the pixel tap on the named chips. -/
  | pixelTap
  /-- CFG_COMMIT (R661). An accepted CFG_COMMIT with MODE COMMIT checks, stores a new configuration copy and locks every chip's RWL fields. -/
  | cfgCommit (written : Bool)
  /-- CFG_OPEN (R661). An accepted CFG_COMMIT with MODE OPEN unlocks the RWL fields of every chip, or reports BUSY. -/
  | cfgOpen
  /-- CRITICAL_COMPLETE (R670). 250 µs after hand-over BUSY clears, RESULT and vector 131 are set, the CRITICAL completion is written and an accepted effect starts. -/
  | criticalComplete
  /-- FWU_GO (R671). Writing FWU_CTL.GO starts staging a container into the named bank, or fails or reports BUSY. -/
  | fwuGo (c : ChipId)
  /-- FWU_ABORT (R671). Writing FWU_CTL.ABORT ends a running staging with ABORTED and an EMPTY bank. -/
  | fwuAbort (c : ChipId)
  /-- FWU_WRITE_COMPLETE (R671). The last byte of a staged container is programmed and the read-back check starts, or a read or flash error fails it. -/
  | fwuWriteComplete (c : ChipId) (res : ReadResult) (flash : Bool)
  /-- FWU_VERIFY_COMPLETE (R671). The read-back check passes making the bank VALID, or fails making it EMPTY. -/
  | fwuVerifyComplete
  /-- TRIAL_SUCCESS (R656). 10 s after the last chip's READY with no failure, the trial bank becomes ACTIVE, the floor rises and a migrated copy is written. -/
  | trialSuccess
  /-- TRIAL_FAILURE (R656). A verification failure, late READY, HALT or Bupin watchdog during a trial power-cycles into the previous bank. -/
  | trialFailure (bad : Bool)
  /-- BOOT_MAILBOX_GO (R658). Writing BM_CTL.GO starts the Etrok ROM's check of the container in the image window. -/
  | bootMailboxGo (c : ChipId) (len : BitVec 25)
  /-- BOOT_VERIFY_COMPLETE (R658). The boot mailbox check ends by running the image in FIRMWARE mode or refusing it, and signals vector 135. -/
  | bootVerifyComplete (c : ChipId)
  /-- SET_ENDPOINT_ID (R674). An MCTP Set Endpoint ID assigns the Bupin its EID. -/
  | setEndpointId (t : Transport) (eid : Byte)
  /-- UART_BAD_FRAME (R677). A service UART frame with a bad CRC or LEN above 1,088 is discarded silently. -/
  | uartBadFrame
  /-- IDENTITY (R680). An IDENTITY message returns the 64-byte identity record. -/
  | identity (t : Transport)
  /-- LOG_READ (R687). A LOG_READ message returns general-log entries from INDEX. -/
  | logRead (t : Transport) (index : Dword) (count : Byte)
  /-- SECURE_LOG_READ (R687). A SECURE_LOG_READ is checked as a Service-signed critical command and returns secure-log entries after 250 µs, or AUTH_REFUSED. -/
  | secureLogRead (t : Transport) (block : List Byte)
  /-- POWER_WAKE_REQUEST (R622). A POWER message with OP 2 wakes the named chips. -/
  | powerWakeRequest (t : Transport) (chips : Byte)
  /-- BUPIN_CHIP_RESET (R625). A POWER message with OP 3 applies a Bupin chip reset to the named chips. -/
  | bupinChipReset (t : Transport) (chips : Byte)
  /-- TRAY_POWER_CYCLE (R629). A POWER message with OP 4 removes chip rails and makes a cold start with board time restarting at 0. -/
  | trayPowerCycle (t : Transport) (chips : Byte)
  /-- TIMER (R687). A TIMER message sets or cancels the Bupin wake timer of the named chips. -/
  | timer (t : Transport) (chips : Byte) (wakeAt : Qword)
  /-- PACE (R681). A PACE message sets DEMAND for the named chips. -/
  | pace (t : Transport) (chips : Byte) (demand : BitVec 16)
  /-- CCI (R687). A CCI message performs an I²C write and read to a sensor on the chip's port. -/
  | cci (t : Transport) (chip port addr wlen rlen : Byte) (data : List Byte) (answer : Option (List Byte))
  /-- DEBUG_HALT (R685). DEBUG OP 1 halts the Steward pair of an unlocked chip. -/
  | debugHalt (t : Transport) (chip : Byte)
  /-- DEBUG_STEP (R685). DEBUG OP 2 steps the halted Steward pair by one bundle. -/
  | debugStep (t : Transport) (chip : Byte)
  /-- DEBUG_RESUME (R685). DEBUG OP 3 resumes the Steward pair. -/
  | debugResume (t : Transport) (chip : Byte)
  /-- DEBUG_READ (R685). DEBUG OP 4 reads one aligned qword of the Steward address map. -/
  | debugRead (t : Transport) (chip : Byte) (addr : Qword)
  /-- DEBUG_WRITE (R685). DEBUG OP 5 writes one aligned qword of the Steward address map. -/
  | debugWrite (t : Transport) (chip : Byte) (addr value : Qword)
  /-- SUPPLY (R687). A SUPPLY message switches the masked connector supplies on or off, overriding PWR_SUPPLY until cold start. -/
  | supply (t : Transport) (mask : BitVec 16) (on : Byte)
  /-- IMAGE (R657). An IMAGE message delivers container bytes in ROM recovery, which checks and writes the container into a bank. -/
  | image (t : Transport) (off : Dword) (final : Byte) (data : List Byte)
  /-- GET_SENSOR_READING (R679). A PLDM sensor read returns the sensor's value and state. -/
  | getSensorReading (t : Transport) (id : BitVec 16)
  /-- SET_SENSOR_THRESHOLDS (R679). A PLDM SetSensorThresholds changes a warning threshold, or is refused. -/
  | setSensorThresholds (t : Transport) (id : BitVec 16) (upper lower : Option (BitVec 32))
  /-- SET_EVENT_RECEIVER (R675). A PLDM SetEventReceiver names the receiver of platform events. -/
  | setEventReceiver (t : Transport) (eid : Byte)
  /-- POLL_FOR_PLATFORM_EVENT_MESSAGE (R675). A PLDM poll returns a queued platform event and releases smb_alert_n when the queue empties. -/
  | pollForPlatformEventMessage (t : Transport)
  /-- PLDM_FIRMWARE_UPDATE (R676). A PLDM firmware update transfer stages a container as FWU staging does. -/
  | pldmFirmwareUpdate (t : Transport) (bank : Bool) (data : List Byte) (flash : Bool)
  /-- ACTIVATE_FIRMWARE (R676). PLDM ActivateFirmware ends the update session and changes no bank. -/
  | activateFirmware (t : Transport)
  /-- SENSOR_SAMPLE (R679). The Bupin samples its sensors and queues a sensorEvent for each threshold crossing. -/
  | sensorSample (mv power rpm plate : BitVec 16)
  /-- THERMAL_POLICY_TICK (R681). Every 10 ms the Bupin updates each chip's CAP and thermal stage and writes PWR_PACE_TARGET. -/
  | thermalPolicyTick
  /-- CHIP_TRIP_RELEASE (R682). TJ at or below 100 °C for 1 s releases a tripped chip's reset. -/
  | chipTripRelease (c : ChipId)
  /-- FAN_UPDATE (R682). Every 100 ms the Bupin recomputes the OL4-AF fan duty from the hottest junction. -/
  | fanUpdate
  /-- FAN_LOW (R681). The tachometer below 1,000 rpm for 2 s applies FAN_CAP to every chip and raises THERM. -/
  | fanLow
  /-- BUPIN_WATCHDOG (R684). The Bupin core watchdog timing out after 500 ms resets the Bupin core only and logs BUPIN_WDOG. -/
  | bupinWatchdog (pc : Dword)
  /-- CRITICAL (R646). A CRITICAL descriptor or a Wygus CRITICAL message is handed to the AUTH mailbox when the Bupin selects its source round-robin with BUSY 0, setting BUSY on every chip and starting the check (t0). -/
  | critical (msg : Option (Transport × List Byte)) (res : ReadResult)
  /-- AUDIO_BLOCK_STALE (R247). A block whose age exceeds its budget after its token was emitted returns its pool slot. -/
  | audioBlockStale (c : ChipId) (stream : Fin 256) (slot : Fin 8)
  /-- HOST_REFCLK_LOSS (R51). The host reference clock of a chip going missing stops its PCIe domain and link and logs REFCLK_MISSING in the Bupin general log. -/
  | hostRefclkLoss (c : ChipId)
  /-- HOST_REFCLK_RETURN (R92). The host reference clock running again restarts the PCIe domain, delivers the held crossing entries in order and lets the link train. -/
  | hostRefclkReturn (c : ChipId)
  /-- CSI_CLOCK_LANE_STOP (R75). A sensor stopping its clock lane stops the CSI-2 byte-clock domain and clears CSI_STAT.CLK_LIVE and DFX_CLK_RUN.CSI. -/
  | csiClockLaneStop (c : ChipId) (p : Fin 2)
  /-- CSI_CLOCK_LANE_START (R75). A sensor starting its clock lane starts the CSI-2 byte-clock domain, delivering held crossing entries and setting CLK_LIVE. -/
  | csiClockLaneStart (c : ChipId) (p : Fin 2)
  /-- PCIE_LINK_UP (R119). Link training completes and the chip's link reaches L0 at its negotiated width and rate, after which configuration requests are answered or receive CRS. -/
  | pcieLinkUp (c : ChipId) (width : Fin 5) (gen : Fin 5)
  /-- LNR_DISABLE (R122). Clearing LNR Enable lets every registration lapse and moves every doorbell line to polling. -/
  | lnrDisable (c : ChipId)
  /-- VCORE_RECOVER (R683). VDD_CORE reading at least 0.70 V after a low-voltage hold makes the Bupin release that chip's reset. -/
  | vcoreRecover (c : ChipId) (mv : BitVec 10)
  /-- SV_PRESENT_CHANGE (R677). sv_present_n changing level starts or stops the service UART and updates PWR_BUP.UART_LIVE. -/
  | svPresentChange (p : PinEvent)
  /-- ACTIVATION_POWER_CYCLE (R656). 1 ms after the 250 µs of an accepted FW_ACTIVATE with WHEN 1, the Bupin makes a Bupin power cycle into a cold start that runs the PENDING bank as a TRIAL. -/
  | activationPowerCycle
  /-- MALFORMED_TLP (R117). A received TLP that is malformed, or that fails ECRC while ECRC checking is enabled, is discarded and reported through AER. -/
  | malformedTlp (c : ChipId) (ecrc : Bool)
  /-- RECEIVER_ERROR (R117). A Receiver Error, Bad TLP, Bad DLLP, replay timeout or rollover causes a link-layer retry and is reported as correctable; a flow-control or data link protocol error is reported as fatal. -/
  | receiverError (c : ChipId) (err : LinkErr)
  /-- BUS_OFF (R466). The CAN controller's error counters reaching the bus-off limit under ISO 11898-1 take it off the bus, and heads on that bus go silent. -/
  | busOff (c : ChipId) (bus : Bool)
  /-- BUS_OFF_RECOVERY (R466). After the ISO 11898-1 bus-off recovery sequence of recessive bits, the controller rejoins the bus. -/
  | busOffRecovery (c : ChipId) (bus : Bool)
  deriving DecidableEq, Repr

end Sys2Proof
end

