-- ==== Sys2Proof/Config.lean ====
section
/-! DEFINITION. What the manual leaves open: free values, constants without a body, so that nothing can be proved of
them beyond what the model says. Each is named in the assumption log. -/

namespace Sys2Proof.Config

open Sys2Proof

/-- A free sample of picture `pic`: plane, row, column (codec output, R195). (DESIGN CHOICE, log entries 7, 66.) -/
opaque picSample : (chip pic plane y x : Nat) → Nat

/-- The output of the PDM decimator (R240) for the input bits of the last 128 periods of its channel, 64 each, the latest first.
(DESIGN CHOICE, log entry 7.) -/
opaque pdmFilter : (bits : List (BitVec 64)) → BitVec 24

/-- The error of a log-mel value (R253), with 256 fraction bits, from the settings, the frame's samples and the bin.
(DESIGN CHOICE, log entries 7, 76.) -/
opaque logMelErr : (settings : List Nat) → (samples : List Int) → (bin : Nat) → Int

/-- The output of a Porch decimator (R255) for the input bits of the last 128 periods of its microphone, 150 each, the latest first.
(DESIGN CHOICE, log entry 7.) -/
opaque porchFilter : (bits : List (BitVec 150)) → BitVec 16

/-- The score of the Porch detector model (R257) for the 40 values of its front end. (DESIGN CHOICE, log entry 7.) -/
opaque porchScore : (mel : List Int) → BitVec 16

/-- Free bytes of the boot ROM (R372). (DESIGN CHOICE, log entry 7.) -/
opaque bootRom : (addr : Nat) → Byte

/-- The picture coordinate of a decoded coordinate that is not a number, before its clamp (R424 states none): from the crop's
corner and extent. (DESIGN CHOICE, log entries 7, 113.) -/
opaque nanCoord : (corner extent : Nat) → Nat

/-- The byte of a U8 tensor element whose value (s + 2) >> 2 is 256, which R227 gives no encoding for.
(DESIGN CHOICE, log entry 7.) -/
opaque mosaicU8 : (s : Nat) → Byte

/-- The placed extent of a letterboxed crop of width or height 0, where R222 divides by 0. (DESIGN CHOICE, log entry 7.) -/
opaque mosaicFit : (outW outH : Nat) → Nat

/-- The padding of a compressed block's data up to a multiple of 64 bytes, which R401 writes and R410 does not describe.
(DESIGN CHOICE, log entry 7.) -/
opaque tensorPad : (block k : Nat) → Byte

/-- The largest value of a pooling window that holds a NaN (R393 states none), from the window's values.
(DESIGN CHOICE, log entry 7.) -/
opaque poolNan : (vals : List Nat) → BitVec 16

/-- A clamp in float mode with a NaN among u, LO and HI (R397 states none). (DESIGN CHOICE, log entry 7.) -/
opaque clampNan : (u lo hi : Nat) → BitVec 32

/-- The encoding of an integer output that its clamp moved outside OTYPE (R397 states none). (DESIGN CHOICE, log entry 7.) -/
opaque tensorWide : (otype : Nat) → (o : Int) → BitVec 32

/-- The Service and Recovery keys loaded at manufacture (R645). (DESIGN CHOICE, log entry 8.) -/
opaque serviceKey : List Byte
/-- DESIGN CHOICE, log entry 8. -/
opaque recoveryKey : List Byte

/-- The Wygus release public key (R653). (DESIGN CHOICE, log entry 8.) -/
opaque releaseKey : List Byte

/-- The configuration key that the Bupin derives from its device secret (R660). (DESIGN CHOICE, log entry 8.) -/
opaque cfgKey : List Byte

/-- Board revision, manufacture date and Bupin ROM version of the identity record (R680). (DESIGN CHOICE, log entry 8.) -/
opaque boardRev : Byte
/-- DESIGN CHOICE, log entry 8. -/
opaque madeOn : BitVec 32
/-- DESIGN CHOICE, log entry 8. -/
opaque romVersion : BitVec 32

/-- A dword of the TLP header that AER logged (R97 asks for the log, no command names the header). (DESIGN CHOICE, log entry 7.) -/
opaque headerLog : (chip draw dword : Nat) → BitVec 32

/-- Foreground data-bus use of a channel over the last millisecond (MEM_CH_UTIL), which no command measures.
(DESIGN CHOICE, log entry 7.) -/
opaque busUse : (chip channel time : Nat) → Nat

/-- Entries of a crossing FIFO beyond the first: R83 gives no depth. (DESIGN CHOICE, log entry 136.) -/
opaque xingDepth : (src dst : Nat) → Nat

/-- A free number for a draw, for values with no structure. (DESIGN CHOICE, log entry 7.) -/
opaque number : (chip draw : Nat) → Nat

end Sys2Proof.Config
end

