-- ==== Sys2Proof/Machine/Tab.lean ====
section
/-! DEFINITION. Sparse tables: lists of (key, value) pairs with strictly rising keys. A table of records keeps whatever is
put in it; a table of cells with a default keeps no entry equal to the default, so that equal contents are equal lists. -/

namespace Sys2Proof.Machine

/-- A sparse table keyed by a natural number, keys strictly rising. -/
abbrev Tab (α : Type) := List (Nat × α)

/-- The entry of key `k`, if the table lists it. -/
def Tab.find {α : Type} : Tab α → Nat → Option α
  | [], _ => none
  | (k', v) :: t, k => if k' = k then some v else Tab.find t k

/-- The entry of key `k`, or `d` where the table lists none. -/
def Tab.get {α : Type} (d : α) (t : Tab α) (k : Nat) : α :=
  (Tab.find t k).getD d

/-- The table with `v` at `k`, in key order. -/
def Tab.put {α : Type} : Tab α → Nat → α → Tab α
  | [], k, v => [(k, v)]
  | (k', v') :: t, k, v =>
    if k < k' then (k, v) :: (k', v') :: t
    else if k = k' then (k, v) :: t
    else (k', v') :: Tab.put t k v

/-- The table without key `k`: every entry of the key goes, so that a cell read after a write gives the value written in every
list, a sorted one or not. -/
def Tab.del {α : Type} : Tab α → Nat → Tab α
  | [], _ => []
  | (k', v') :: t, k => if k' = k then Tab.del t k else (k', v') :: Tab.del t k

/-- Cell write that keeps the canonical form: a value equal to the default `d` leaves no entry. -/
def Tab.set {α : Type} [DecidableEq α] (d : α) (t : Tab α) (k : Nat) (v : α) : Tab α :=
  if v = d then Tab.del t k else Tab.put t k v

/-- The keys of a table rise strictly and all are above `b`. -/
def Tab.above {α : Type} : Option Nat → Tab α → Bool
  | _, [] => true
  | none, (k, _) :: t => Tab.above (some k) t
  | some b, (k, _) :: t => decide (b < k) && Tab.above (some k) t

/-- The keys of a table rise strictly. -/
def Tab.sorted {α : Type} (t : Tab α) : Bool := Tab.above none t

/-- No entry equals the default. -/
def Tab.noDefault {α : Type} [DecidableEq α] (d : α) (t : Tab α) : Bool :=
  t.all fun e => decide (e.2 ≠ d)

/-- The canonical form of a table of cells. -/
def Tab.wf {α : Type} [DecidableEq α] (d : α) (t : Tab α) : Bool :=
  Tab.sorted t && Tab.noDefault d t

end Sys2Proof.Machine
end

