-- ==== Sys2Proof/Machine/Bits.lean ====
section
/-! DEFINITION. Bit fields, byte strings and the small arithmetic the blocks share: little-endian order (every multi-byte
field of the formats), saturation and sign. -/

namespace Sys2Proof.Machine

open Sys2Proof

/-- Bits [lo + w - 1 : lo] of a number. -/
def bits (v lo w : Nat) : Nat := v / 2 ^ lo % 2 ^ w

/-- Bit `b` of a number. -/
def bit (v b : Nat) : Bool := v / 2 ^ b % 2 == 1

/-- 1 for true. -/
def bnat (b : Bool) : Nat := if b then 1 else 0

/-- The number with bits [lo + w - 1 : lo] replaced by `x`. -/
def putBits (v lo w x : Nat) : Nat :=
  v / 2 ^ (lo + w) * 2 ^ (lo + w) + x % 2 ^ w * 2 ^ lo + v % 2 ^ lo

/-- The number with bit `b` set. -/
def orBit (v b : Nat) : Nat := v ||| 2 ^ b

/-- Little-endian bytes to a number. -/
def leNat : List Byte → Nat
  | [] => 0
  | b :: t => b.toNat + 256 * leNat t

/-- A number as `n` little-endian bytes. -/
def toLe : Nat → Nat → List Byte
  | 0, _ => []
  | n + 1, v => BitVec.ofNat 8 v :: toLe n (v / 256)

/-- `n` bytes of a byte string from offset `o`, as a number; bytes beyond the end read 0. -/
def fieldAt (bs : List Byte) (o n : Nat) : Nat := leNat ((bs.drop o).take n)

/-- `n` zero bytes. -/
def zeros (n : Nat) : List Byte := List.replicate n 0#8

/-- A byte string with the bytes at offset `o` replaced. -/
def patch (bs : List Byte) (o : Nat) (x : List Byte) : List Byte :=
  bs.take o ++ x ++ bs.drop (o + x.length)

/-- A byte string cut or zero-filled to `n` bytes. -/
def padTo (n : Nat) (bs : List Byte) : List Byte := bs.take n ++ zeros (n - bs.length)

/-- All bytes of the ranges (offset, length) are 0: the reserved bytes of a format. -/
def reservedZero (bs : List Byte) (rs : List (Nat × Nat)) : Bool :=
  rs.all fun r => fieldAt bs r.1 r.2 == 0

/-- Two's complement value of the low `w` bits. -/
def sgn (w v : Nat) : Int :=
  let x := v % 2 ^ w
  if x < 2 ^ (w - 1) then (x : Int) else (x : Int) - 2 ^ w

/-- Two's complement encoding in `w` bits. -/
def usgn (w : Nat) (i : Int) : Nat := (i % (2 ^ w : Int)).toNat

/-- Clamp to a range of integers. -/
def clampI (lo hi x : Int) : Int := max lo (min hi x)

/-- Saturation to a signed `w`-bit range. -/
def satI (w : Nat) (x : Int) : Int := clampI (-(2 ^ (w - 1) : Int)) (2 ^ (w - 1) - 1) x

/-- Arithmetic right shift. -/
def sar (x : Int) (n : Nat) : Int := x / (2 ^ n : Int)

/-- Division rounding towards zero. -/
def tdivI (a b : Int) : Int := Int.tdiv a b

/-- Rounding division of a signed number by a positive one, ties away from zero. -/
def roundDiv (a : Int) (b : Nat) : Int :=
  if 0 ≤ a then (2 * a + b) / (2 * b : Int) else -((-(2 * a) + b) / (2 * b : Int))

/-- Smallest multiple of `m` that is at least `x`. -/
def roundUp (x m : Nat) : Nat := (x + m - 1) / m * m

/-- Number of set bits below position `w`. -/
def popcount : Nat → Nat → Nat
  | 0, _ => 0
  | w + 1, v => v % 2 + popcount w (v / 2)

/-- Positions of the set bits below `w`, ascending. -/
def setBits (w v : Nat) : List Nat := (List.range w).filter fun i => bit v i

/-- The list with entry `i` replaced. -/
def updAt {α : Type} : List α → Nat → (α → α) → List α
  | [], _, _ => []
  | x :: t, 0, f => f x :: t
  | x :: t, i + 1, f => x :: updAt t i f

/-- Index of the first entry that satisfies `p`. -/
def findIdx {α : Type} (p : α → Bool) : List α → Option Nat
  | [] => none
  | x :: t => if p x then some 0 else (findIdx p t).map (· + 1)

/-- The first entry that satisfies `p` and the list without it. -/
def pickFirst {α : Type} (p : α → Bool) : List α → Option (α × List α)
  | [] => none
  | x :: t => if p x then some (x, t) else (pickFirst p t).map fun r => (r.1, x :: r.2)

/-- The entry with the smallest measure, the first on a tie. -/
def argMin {α : Type} (f : α → Nat) : List α → Option α
  | [] => none
  | x :: t => match argMin f t with
    | none => some x
    | some y => if f y < f x then some y else some x

end Sys2Proof.Machine
end

