-- ==== Sys2Proof/Machine/Fp.lean ====
section
/-! DEFINITION. Floating point as the vector unit, the tensor engines and Mosaic compute it (R227, R349, R396): IEEE 754
binary formats, rounding to nearest with ties to even, subnormals kept, one canonical NaN per format. Every operation is
exact on sign, magnitude and power of two, and rounds once. -/

namespace Sys2Proof.Machine

open Sys2Proof

/-- A binary format: exponent bits, fraction bits, canonical NaN. -/
structure FFmt where
  eb : Nat
  mb : Nat
  qnan : Nat
  deriving DecidableEq, Repr

def fp16 : FFmt := ⟨5, 10, 0x7E00⟩
def bf16 : FFmt := ⟨8, 7, 0x7FC0⟩
def fp32 : FFmt := ⟨8, 23, 0x7FC00000⟩
def fp64 : FFmt := ⟨11, 52, 0x7FF8000000000000⟩

/-- A floating value: NaN, an infinity, or sign, magnitude and power of two. -/
inductive FV where
  | nan
  | inf (neg : Bool)
  | fin (neg : Bool) (m : Nat) (e : Int)
  deriving DecidableEq, Repr

namespace FFmt

def bias (f : FFmt) : Int := (2 ^ (f.eb - 1) : Int) - 1

/-- Exponent of the least significant bit of a subnormal. -/
def qmin (f : FFmt) : Int := 1 - f.bias - f.mb

def infBits (f : FFmt) : Nat := (2 ^ f.eb - 1) * 2 ^ f.mb

def width (f : FFmt) : Nat := f.eb + f.mb + 1

/-- Value of an encoding. -/
def dec (f : FFmt) (b : Nat) : FV :=
  let s := bit b (f.eb + f.mb)
  let ex := bits b f.mb f.eb
  let fr := bits b 0 f.mb
  if ex = 2 ^ f.eb - 1 then (if fr = 0 then .inf s else .nan)
  else if ex = 0 then .fin s fr f.qmin
  else .fin s (fr + 2 ^ f.mb) (f.qmin + (ex : Int) - 1)

/-- Encoding of an infinity. -/
def encInf (f : FFmt) (neg : Bool) : Nat := bnat neg * 2 ^ (f.eb + f.mb) + f.infBits

/-- Magnitude m · 2^e rounded to the format, ties to even. -/
def roundMag (f : FFmt) (m : Nat) (e : Int) : Nat :=
  if m = 0 then 0 else
    let q : Int := max (e + (Nat.log2 m : Int) - (f.mb : Int)) f.qmin
    let sh := q - e
    let mant : Nat :=
      if sh ≤ 0 then m * 2 ^ (-sh).toNat
      else
        let d := 2 ^ sh.toNat
        let k := m / d
        let r := m % d
        if 2 * r > d ∨ (2 * r = d ∧ k % 2 = 1) then k + 1 else k
    let b := (q - f.qmin).toNat * 2 ^ f.mb + mant
    if b ≥ f.infBits then f.infBits else b

/-- Encoding of a value, rounded once. -/
def enc (f : FFmt) (v : FV) : Nat :=
  match v with
  | .nan => f.qnan
  | .inf s => f.encInf s
  | .fin s m e => bnat s * 2 ^ (f.eb + f.mb) + f.roundMag m e

end FFmt

namespace FV

/-- A signed integer times a power of two; `z` is the sign of a zero result. -/
def ofInt (i : Int) (e : Int) (z : Bool) : FV :=
  if i = 0 then .fin z 0 0 else .fin (decide (i < 0)) i.natAbs e

/-- Signed magnitude at exponent `e0`, which is at most the value's own. -/
def at_ (neg : Bool) (m : Nat) (e e0 : Int) : Int :=
  let x : Int := (m * 2 ^ (e - e0).toNat : Nat)
  if neg then -x else x

def neg : FV → FV
  | .nan => .nan
  | .inf s => .inf (!s)
  | .fin s m e => .fin (!s) m e

/-- Exact sum. A zero sum is +0 unless both terms are negative zeros or negative (IEEE 754, to nearest). -/
def add : FV → FV → FV
  | .nan, _ => .nan
  | _, .nan => .nan
  | .inf a, .inf b => if a = b then .inf a else .nan
  | .inf a, _ => .inf a
  | _, .inf b => .inf b
  | .fin sa ma ea, .fin sb mb eb =>
    let e0 := min ea eb
    ofInt (at_ sa ma ea e0 + at_ sb mb eb e0) e0 (sa && sb)

/-- Exact product. -/
def mul : FV → FV → FV
  | .nan, _ => .nan
  | _, .nan => .nan
  | .inf a, .inf b => .inf (a != b)
  | .inf a, .fin s m _ => if m = 0 then .nan else .inf (a != s)
  | .fin s m _, .inf b => if m = 0 then .nan else .inf (s != b)
  | .fin sa ma ea, .fin sb mb eb => .fin (sa != sb) (ma * mb) (ea + eb)

/-- Order of the extended numbers, as a comparison of exact values; false with a NaN. -/
def lt : FV → FV → Bool
  | .nan, _ => false
  | _, .nan => false
  | .inf a, .inf b => a && !b
  | .inf a, .fin _ _ _ => a
  | .fin _ _ _, .inf b => !b
  | .fin sa ma ea, .fin sb mb eb =>
    let e0 := min ea eb
    decide (at_ sa ma ea e0 < at_ sb mb eb e0)

def isNan : FV → Bool
  | .nan => true
  | _ => false

/-- Largest integer at most the value, clamped to a range; NaN gives the low end. -/
def floorClamp (lo hi : Int) : FV → Int
  | .nan => lo
  | .inf s => if s then lo else hi
  | .fin s m e =>
    let x : Int := if s then -(m : Int) else m
    let r := if 0 ≤ e then x * 2 ^ e.toNat else x / (2 ^ (-e).toNat : Int)
    clampI lo hi r

/-- Nearest integer, ties to even. -/
def nearestInt : FV → Option Int
  | .nan => none
  | .inf _ => none
  | .fin s m e =>
    let k : Nat :=
      if 0 ≤ e then m * 2 ^ e.toNat
      else
        let d := 2 ^ (-e).toNat
        let q := m / d
        let r := m % d
        if 2 * r > d ∨ (2 * r = d ∧ q % 2 = 1) then q + 1 else q
    some (if s then -(k : Int) else k)

end FV

/-- Sum rounded once. -/
def FFmt.add (f : FFmt) (a b : Nat) : Nat := f.enc ((f.dec a).add (f.dec b))

/-- Product rounded once. -/
def FFmt.mul (f : FFmt) (a b : Nat) : Nat := f.enc ((f.dec a).mul (f.dec b))

/-- c + a·b rounded once. -/
def FFmt.fma (f : FFmt) (a b c : Nat) : Nat := f.enc (((f.dec a).mul (f.dec b)).add (f.dec c))

/-- 1 / a correctly rounded. -/
def FFmt.recip (f : FFmt) (a : Nat) : Nat :=
  match f.dec a with
  | .nan => f.qnan
  | .inf s => bnat s * 2 ^ (f.eb + f.mb)
  | .fin s m e =>
    if m = 0 then f.encInf s
    else
      let k := Nat.log2 m + f.mb + 4
      let n := 2 ^ k
      let q := 2 * (n / m) + bnat (n % m != 0)
      bnat s * 2 ^ (f.eb + f.mb) + f.roundMag q (-(k : Int) - 1 - e)

/-- A signed integer rounded to the format. -/
def FFmt.ofInt (f : FFmt) (i : Int) : Nat := f.enc (FV.ofInt i 0 false)

/-- Quotient n / d of positive numbers as magnitude and power of two, exact or with a sticky last bit. -/
def quotMag (n d : Nat) (prec : Nat) : Nat × Int :=
  let k := prec + Nat.log2 d + 2 - Nat.log2 n
  let q := n * 2 ^ k / d
  (2 * q + bnat (n * 2 ^ k % d != 0), -(k : Int) - 1)

/-- a / b rounded once. -/
def FFmt.div (f : FFmt) (a b : Nat) : Nat :=
  match f.dec a, f.dec b with
  | .nan, _ => f.qnan
  | _, .nan => f.qnan
  | .inf _, .inf _ => f.qnan
  | .inf s, .fin t _ _ => f.encInf (s != t)
  | .fin s _ _, .inf t => bnat (s != t) * 2 ^ (f.eb + f.mb)
  | .fin s m e, .fin t n g =>
    if n = 0 then (if m = 0 then f.qnan else f.encInf (s != t))
    else if m = 0 then bnat (s != t) * 2 ^ (f.eb + f.mb)
    else
      let q := quotMag m n (f.mb + 4)
      f.enc (.fin (s != t) q.1 (q.2 + e - g))

/-- a - b rounded once. -/
def FFmt.sub (f : FFmt) (a b : Nat) : Nat := f.enc ((f.dec a).add (f.dec b).neg)

/-- The value of one format in another. -/
def FFmt.conv (f g : FFmt) (a : Nat) : Nat := g.enc (f.dec a)

/-- ln 2 with 256 fraction bits. -/
def ln2Fix : Int := 0xb17217f7d1cf79abc9e3b39803f2f6af40f343267298b62d8a0d175b8baafa2b

/-- Sum of the series of exp, in fixed point with 256 fraction bits. -/
def expSeries (r : Int) : Nat → Nat → Int → Int → Int
  | 0, _, _, acc => acc
  | fuel + 1, i, term, acc =>
    let t := term * r / 2 ^ 256 / (i : Int)
    expSeries r fuel (i + 1) t (acc + t)

/-- exp of a value of magnitude at most 2^10, not 0, with 256 working bits and a sticky last bit. -/
def expMag (neg : Bool) (m : Nat) (e : Int) : Nat × Int :=
  let x : Int := if 0 ≤ e + 256 then (m * 2 ^ (e + 256).toNat : Nat) else ((m / 2 ^ (-(e + 256)).toNat : Nat) : Int)
  let x := if neg then -x else x
  let k := x / ln2Fix
  let s := expSeries (x - k * ln2Fix) 60 1 (2 ^ 256) (2 ^ 256)
  (2 * s.toNat + 1, k - 257)

/-- exp, correctly rounded (R421); the working precision decides every value of binary32. -/
def FFmt.exp (f : FFmt) (a : Nat) : Nat :=
  match f.dec a with
  | .nan => f.qnan
  | .inf s => if s then 0 else f.infBits
  | .fin s m e =>
    if m = 0 then f.enc (.fin false 1 0)
    else if 10 < e + (Nat.log2 m : Int) then (if s then 0 else f.infBits)
    else
      let r := expMag s m e
      f.enc (.fin false r.1 r.2)

/-- binary16 to int16: to nearest even, saturating, NaN gives 0 (R349 VCVTHI). -/
def halfToInt (a : Nat) : Int :=
  match fp16.dec a with
  | .nan => 0
  | .inf s => if s then -32768 else 32767
  | v => match v.nearestInt with
    | some i => satI 16 i
    | none => 0

end Sys2Proof.Machine
end

