-- ==== Sys2Proof/Machine/LogMel.lean ====
section
/-! DEFINITION. The log-mel values of R253: the exact value, computed in fixed point with 256 fraction bits, and the free error
that the rule allows. -/

namespace Sys2Proof.Machine

open Sys2Proof

/-- 1 with 256 fraction bits. -/
def fxOne : Int := 2 ^ 256

/-- A product of numbers with 256 fraction bits. -/
def fxMul (a b : Int) : Int := a * b / fxOne

/-- A quotient of numbers with 256 fraction bits. -/
def fxDiv (a b : Int) : Int := a * fxOne / b

/-- Sum of z^(2i+1) / (2i+1) for `fuel` terms from i = `i`, `t` being z^(2i+1). -/
def atanhSeries (z2 : Int) : Nat → Nat → Int → Int
  | 0, _, _ => 0
  | fuel + 1, i, t => t / (2 * i + 1 : Nat) + atanhSeries z2 fuel (i + 1) (fxMul t z2)

/-- ln of a positive number. -/
def fxLn (x : Int) : Int :=
  let e : Int := (Nat.log2 x.toNat : Int) - 256
  let m : Int := if 0 ≤ e then x / 2 ^ e.toNat else x * 2 ^ (-e).toNat
  let z := fxDiv (m - fxOne) (m + fxOne)
  e * ln2Fix + 2 * atanhSeries (fxMul z z) 90 0 z

/-- exp of a number. -/
def fxExp (x : Int) : Int :=
  let k := x / ln2Fix
  let s := expSeries (x - k * ln2Fix) 60 1 fxOne fxOne
  if 0 ≤ k then s * 2 ^ k.toNat else s / 2 ^ (-k).toNat

/-- π with 256 fraction bits. -/
def fxPi : Int := 0x3243f6a8885a308d313198a2e03707344a4093822299f31d0082efa98ec4e6c89

/-- The series of cos: `t` is the term of power 2i. -/
def fxCosSeries (x2 : Int) : Nat → Nat → Int → Int
  | 0, _, _ => 0
  | fuel + 1, i, t => t + fxCosSeries x2 fuel (i + 1) (-(fxMul t x2) / ((2 * i + 1) * (2 * i + 2) : Nat))

/-- cos(2π·a/n). -/
def fxCos (a n : Nat) : Int :=
  let x := 2 * fxPi * (a % n : Nat) / (n : Nat)
  fxCosSeries (fxMul x x) 60 0 fxOne

/-- Samples of a frame after scaling, pre-emphasis and window: `xs` begins with the sample before the frame (R253). -/
def melWindow (win preemph : Nat) (xs : List Int) : List Int :=
  let s (i : Nat) : Int := (xs[i]?).getD 0 * 2 ^ 225
  (List.range win).map fun i =>
    fxMul ((fxOne - fxCos i win) / 2) (s (i + 1) - (preemph : Int) * s i / 32768)

/-- Power of bin `k` of the transform of `nfft` points (R253). -/
def melPower (nfft : Nat) (vs : List Int) (k : Nat) : Int :=
  let n := vs.length
  let sum (f : Nat → Int) : Int := (List.range n).foldl (fun a i => a + fxMul ((vs[i]?).getD 0) (f i)) 0
  let re := sum fun i => fxCos (k * i) nfft
  let im := sum fun i => fxCos (k * i + nfft - nfft / 4) nfft
  fxMul re re + fxMul im im

/-- Mel point `j` of NMEL + 2 in Hz: mel(f) is spaced evenly, so 1 + f/700 is spaced evenly in its logarithm (R253). -/
def melPoint (fmin fmax nmel j : Nat) : Int :=
  let l (f : Nat) : Int := fxLn (fxOne + (f : Int) * fxOne / 700)
  700 * (fxExp (l fmin + (l fmax - l fmin) * (j : Int) / (nmel + 1 : Nat)) - fxOne)

/-- Weight of filter `j` at frequency `g` (R253). -/
def melWeight (fmin fmax nmel j : Nat) (g : Int) : Int :=
  let p (i : Nat) : Int := melPoint fmin fmax nmel i
  if g ≤ p j ∨ p (j + 2) ≤ g then 0
  else if g ≤ p (j + 1) then fxDiv (g - p j) (p (j + 1) - p j)
  else fxDiv (p (j + 2) - g) (p (j + 2) - p (j + 1))

/-- The exact value of bin `j` of a frame (R253). -/
def melExact (rate win nfft nmel fmin fmax preemph floor : Nat) (xs : List Int) (j : Nat) : Int :=
  let vs := melWindow win preemph xs
  let sum := (List.range (nfft / 2 + 1)).foldl (fun (a : Int) k =>
    a + fxMul (melWeight fmin fmax nmel j ((k * rate : Nat) * fxOne / (nfft : Int))) (melPower nfft vs k)) 0
  fxLn (max sum (fxOne / 2 ^ floor))

/-- A log-mel value: the exact one with a free error of at most 0.01, the same wherever the frame is the same (R253). The bound
leaves the rounding of the fixed point its room. (DESIGN CHOICE, log entry 76.) -/
def melValue (rate win nfft nmel fmin fmax preemph floor : Nat) (xs : List Int) (j : Nat) : Int :=
  let b := fxOne / 100 - 2 ^ 160
  melExact rate win nfft nmel fmin fmax preemph floor xs j +
    clampI (-b) b (Config.logMelErr [rate, win, nfft, nmel, fmin, fmax, preemph, floor] xs j)

end Sys2Proof.Machine
end

