-- ==== Sys2Proof/Machine/Flags.lean ====
section
/-! DEFINITION. The flag computations of the decimal unit (R360, R361): carry, invalid and days in DEC.C, with the packed
BCD and timecode results they belong to. -/

namespace Sys2Proof.Machine

open Sys2Proof

/-- A decimal result: R and C. -/
structure DecRes where
  r : Nat
  c : Nat
  deriving DecidableEq, Repr

/-- C from CARRY, INVALID and DAYS; DAYS saturates. -/
def decC (carry invalid : Bool) (days : Nat) : Nat :=
  bnat carry + 2 * bnat invalid + min days 0xFFFFFFFF * 2 ^ 32

def decInvalid : DecRes := ⟨0, decC false true 0⟩

/-- Digit `i` of a packed number. -/
def nib (v i : Nat) : Nat := bits v (4 * i) 4

/-- Every digit is at most 9. -/
def bcdOk (v : Nat) : Bool := (List.range 16).all fun i => decide (nib v i ≤ 9)

/-- Value of a packed number. -/
def bcdVal (v : Nat) : Nat := (List.range 16).foldl (fun a i => a + nib v i * 10 ^ i) 0

/-- Packed form of a number below 10^16. -/
def toBcd (n : Nat) : Nat := (List.range 16).foldl (fun a i => a + n / 10 ^ i % 10 * 16 ^ i) 0

def decAdd (a b : Nat) : DecRes :=
  if bcdOk a && bcdOk b then
    let s := bcdVal a + bcdVal b
    ⟨toBcd (s % 10 ^ 16), decC (decide (10 ^ 16 ≤ s)) false 0⟩
  else decInvalid

def decSub (a b : Nat) : DecRes :=
  if bcdOk a && bcdOk b then
    let x := bcdVal a
    let y := bcdVal b
    ⟨toBcd ((x + 10 ^ 16 - y) % 10 ^ 16), decC (decide (x < y)) false 0⟩
  else decInvalid

/-- DADJ: each nibble from digit 0 up with its carry. -/
def decAdj (a : Nat) : DecRes :=
  let st := (List.range 16).foldl (fun (st : Nat × Nat) i =>
    let n := nib a i + st.2
    if n ≥ 10 then (st.1 + (n - 10) * 16 ^ i, 1) else (st.1 + n * 16 ^ i, 0)) (0, 0)
  ⟨st.1, decC (st.2 == 1) false 0⟩

def decB2D (a : Nat) : DecRes :=
  if a ≥ 10 ^ 16 then ⟨0x9999999999999999, decC true false 0⟩ else ⟨toBcd a, 0⟩

def decD2B (a : Nat) : DecRes :=
  if bcdOk a then ⟨bcdVal a, 0⟩ else decInvalid

/-- Two packed digits. -/
def bcd2 (v : Nat) : Option Nat :=
  if v % 16 ≤ 9 ∧ v / 16 % 16 ≤ 9 then some (v / 16 % 16 * 10 + v % 16) else none

/-- Frames of a day at a rate. -/
def dayFrames (rate : Nat) : Nat := 86400 * rate

/-- Frames from 00:00:00:00 to a timecode (R361), none where the timecode or the rate is invalid. -/
def tcFrames (rate tc : Nat) : Option Nat :=
  if rate = 0 ∨ rate > 100 ∨ tc ≥ 2 ^ 32 then none else
    match bcd2 (bits tc 24 8), bcd2 (bits tc 16 8), bcd2 (bits tc 8 8), bcd2 (bits tc 0 8) with
    | some hh, some mm, some ss, some ff =>
      if hh ≤ 23 ∧ mm ≤ 59 ∧ ss ≤ 59 ∧ ff < rate then some (((hh * 60 + mm) * 60 + ss) * rate + ff) else none
    | _, _, _, _ => none

def pack2 (n : Nat) : Nat := n / 10 % 10 * 16 + n % 10

/-- The timecode of a frame count below a day. -/
def framesTc (rate n : Nat) : Nat :=
  let s := n / rate
  pack2 (s / 3600) * 2 ^ 24 + pack2 (s / 60 % 60) * 2 ^ 16 + pack2 (s % 60) * 2 ^ 8 + pack2 (n % rate)

/-- A frame count as a timecode modulo one day, with the days wrapped (F2TC). -/
def f2tc (rate n : Nat) : DecRes :=
  if rate = 0 ∨ rate > 100 then decInvalid else
    let d := n / dayFrames rate
    ⟨framesTc rate (n % dayFrames rate), decC (decide (0 < d)) false d⟩

def tcAdd (rate a b : Nat) : DecRes :=
  match tcFrames rate a with
  | some x => f2tc rate (x + b)
  | none => decInvalid

/-- Timecode minus frames: the days wrapped are those borrowed. -/
def tcSub (rate a b : Nat) : DecRes :=
  match tcFrames rate a with
  | some x =>
    let day := dayFrames rate
    let d := if b ≤ x then 0 else (b - x + day - 1) / day
    ⟨framesTc rate (x + d * day - b), decC (decide (0 < d)) false d⟩
  | none => decInvalid

def tcDiff (rate a b : Nat) : DecRes :=
  match tcFrames rate a, tcFrames rate b with
  | some x, some y => ⟨(x + dayFrames rate - y) % dayFrames rate, 0⟩
  | _, _ => decInvalid

def tc2f (rate a : Nat) : DecRes :=
  match tcFrames rate a with
  | some x => ⟨x, 0⟩
  | none => decInvalid

/-- NS2TC: F2TC of floor(A · RATE / 10^9), computed exactly. -/
def ns2tc (rate ns : Nat) : DecRes := f2tc rate (ns * rate / 1000000000)

end Sys2Proof.Machine
end

