-- ==== Sys2Proof/Machine/Fields.lean ====
section
/-! DEFINITION. What a register field is (spec/00_scope.md R10 to R14): its place, width, access code, reset value and the
resets that restore it. -/

namespace Sys2Proof.Machine

/-- The access codes of R10. -/
inductive Access where
  | rw | ro | w1c | w1p | rwl | dbg
  deriving DecidableEq, Repr

/-- A field as the hardware names it: the key of its storage, its width and its reset value. -/
structure Field where
  key : Nat
  width : Nat
  rst : Nat
  deriving DecidableEq, Repr

/-- The reset column of a field (R13): a constant, or one of the four tables whose reset value depends on the index. -/
inductive Rst where
  | const (v : Nat)
  | lut
  | coef
  | rowN
  | rowW
  deriving DecidableEq, Repr

/-- One field of a register of the map. `warm` and `fab` are the letters W and F of the Reset column (R13). -/
structure FieldSpec where
  lo : Nat
  width : Nat
  acc : Access
  rst : Rst
  warm : Bool
  fab : Bool
  deriving DecidableEq, Repr

/-- One register of the map of R703 with its repetitions (count, stride), largest stride first. -/
structure RegFam where
  base : Nat
  dims : List (Nat × Nat)
  dwords : Nat
  fields : List FieldSpec
  deriving DecidableEq, Repr

/-- Reset value of gamma entry i (RFE_LUT). -/
def rstLut (i : Nat) : Nat := min 1023 (4 * i)

/-- Reset value of decimator tap k (AUD_DEC_COEF). -/
def rstCoef (k : Nat) : Nat := if k = 0 then 0x8000 else 0

/-- The rows of R592 in order from row 1: class, base level, threshold N and window W in ms. -/
def faultRows : List (Nat × Nat × Nat × Nat) := [
    (1, 0, 64, 60000), (2, 1, 4, 3600000), (3, 1, 2, 3600000), (4, 0, 255, 60000), (4, 1, 4, 60000), (5, 0, 64, 1000),
    (5, 1, 2, 1000), (6, 0, 16, 1000), (7, 0, 0, 1000), (8, 0, 16, 1000), (8, 1, 0, 1000), (8, 2, 0, 1000),
    (9, 0, 30, 1000), (10, 0, 10, 10000), (10, 0, 10, 10000), (11, 0, 100, 1000), (12, 1, 3, 60000), (13, 1, 0, 1000),
    (13, 1, 0, 1000), (14, 1, 3, 10000), (14, 1, 3, 10000), (15, 1, 3, 60000), (16, 1, 4, 1000), (16, 1, 0, 1000),
    (16, 4, 0, 1000), (16, 3, 0, 1000), (17, 4, 0, 1000), (18, 3, 0, 1000), (19, 3, 0, 1000), (20, 0, 8, 60000),
    (21, 0, 0, 1000), (21, 1, 8, 1000), (21, 0, 16, 1000), (22, 1, 0, 1000)]

/-- Reset value of FCU_ROW.N for the row of index i, which is row i + 1. -/
def rowN (i : Nat) : Nat := ((faultRows[i]?).getD (0, 0, 0, 0)).2.2.1

/-- Reset value of FCU_ROW.W for the row of index i, which is row i + 1. -/
def rowW (i : Nat) : Nat := ((faultRows[i]?).getD (0, 0, 0, 0)).2.2.2

/-- Reset value of an indexed field; `i` is the last index. -/
def Rst.eval (r : Rst) (i : Nat) : Nat :=
  match r with
  | .const v => v
  | .lut => rstLut i
  | .coef => rstCoef i
  | .rowN => Machine.rowN i
  | .rowW => Machine.rowW i

end Sys2Proof.Machine
end

