-- ==== Sys2Proof/Machine/Regs.lean ====
section
/-! DEFINITION. The register map of BAR0 (spec/24_electrical_index.md R703) and the fields of every register as the
Set-up registers tables of each chapter give them: position, width, access code (R10), reset value and reset letters (R13).
A field value lives in the chip under its key, byte offset times 64 plus lowest bit. -/

namespace Sys2Proof.Machine

/-! ### HIF_ID (R703; fields: spec/04_host_link.md, Set-up registers) -/
def F.HIF_ID_POS : Field := ⟨(0x0) * 64 + 0, 2, 0⟩
def F.HIF_ID_STEP : Field := ⟨(0x0) * 64 + 4, 4, 2⟩

/-! ### HIF_STATUS (R703; fields: spec/04_host_link.md, Set-up registers) -/
def F.HIF_STATUS_READY : Field := ⟨(0x4) * 64 + 0, 1, 0⟩
def F.HIF_STATUS_MODE : Field := ⟨(0x4) * 64 + 1, 2, 0⟩
def F.HIF_STATUS_LN_ACTIVE : Field := ⟨(0x4) * 64 + 3, 1, 0⟩

/-! ### HIF_ERR (R703; fields: spec/04_host_link.md, Set-up registers) -/
def F.HIF_ERR_ACCESS : Field := ⟨(0x10) * 64 + 0, 8, 0⟩
def F.HIF_ERR_RSVD_ADDR : Field := ⟨(0x10) * 64 + 8, 8, 0⟩
def F.HIF_ERR_LOCKED : Field := ⟨(0x10) * 64 + 16, 8, 0⟩
def F.HIF_ERR_POISON : Field := ⟨(0x10) * 64 + 24, 8, 0⟩

/-! ### HIF_ERR_STAT (R703; fields: spec/04_host_link.md, Set-up registers) -/
def F.HIF_ERR_STAT_OVF : Field := ⟨(0x14) * 64 + 0, 4, 0⟩
def F.HIF_ERR_STAT_ATOMIC_SEEN : Field := ⟨(0x14) * 64 + 4, 1, 0⟩
def F.HIF_ERR_STAT_IMAGE_SEEN : Field := ⟨(0x14) * 64 + 5, 1, 0⟩

/-! ### HIF_ERR_ADDR (R703; fields: spec/04_host_link.md, Set-up registers) -/
def F.HIF_ERR_ADDR_OFFSET : Field := ⟨(0x18) * 64 + 2, 24, 0⟩
def F.HIF_ERR_ADDR_BAR : Field := ⟨(0x18) * 64 + 26, 1, 0⟩
def F.HIF_ERR_ADDR_KIND : Field := ⟨(0x18) * 64 + 27, 3, 0⟩

/-! ### HIF_PTM_CTL (R703; fields: spec/04_host_link.md, Set-up registers) -/
def F.HIF_PTM_CTL_PERIOD : Field := ⟨(0x100) * 64 + 0, 7, 10⟩
def F.HIF_PTM_CTL_GO : Field := ⟨(0x100) * 64 + 8, 1, 0⟩

/-! ### HIF_PTM_OFF (R703; fields: spec/04_host_link.md, Set-up registers) -/
def F.HIF_PTM_OFF_OFFSET : Field := ⟨(0x108) * 64 + 0, 64, 0⟩

/-! ### HIF_PTM_STAT (R703; fields: spec/04_host_link.md, Set-up registers) -/
def F.HIF_PTM_STAT_VALID : Field := ⟨(0x110) * 64 + 0, 1, 0⟩
def F.HIF_PTM_STAT_LOST_SEEN : Field := ⟨(0x110) * 64 + 1, 1, 0⟩
def F.HIF_PTM_STAT_LINK_DELAY : Field := ⟨(0x110) * 64 + 16, 16, 0⟩

/-! ### HIF_LN_STAT (R703; fields: spec/04_host_link.md, Set-up registers) -/
def F.HIF_LN_STAT_REGS : Field := ⟨(0x120) * 64 + 0, 6, 0⟩
def F.HIF_LN_STAT_SHORT_SEEN : Field := ⟨(0x120) * 64 + 6, 1, 0⟩

/-! ### HIF_DBG_BASE (R703; fields: spec/04_host_link.md, Set-up registers) -/
def F.HIF_DBG_BASE_BASE : Field := ⟨(0x130) * 64 + 25, 39, 0⟩

/-! ### RNG_SQ_BASE (R703; fields: spec/05_rings.md, Set-up registers) -/
def F.RNG_SQ_BASE_BASE (i : Nat) : Field := ⟨(0x10000 + i * 0x40) * 64 + 6, 58, 0⟩

/-! ### RNG_CQ_BASE (R703; fields: spec/05_rings.md, Set-up registers) -/
def F.RNG_CQ_BASE_BASE (i : Nat) : Field := ⟨(0x10008 + i * 0x40) * 64 + 6, 58, 0⟩

/-! ### RNG_CTL (R703; fields: spec/05_rings.md, Set-up registers) -/
def F.RNG_CTL_ENABLE (i : Nat) : Field := ⟨(0x10010 + i * 0x40) * 64 + 0, 1, 0⟩
def F.RNG_CTL_RESET (i : Nat) : Field := ⟨(0x10010 + i * 0x40) * 64 + 1, 1, 0⟩
def F.RNG_CTL_TYPE (i : Nat) : Field := ⟨(0x10010 + i * 0x40) * 64 + 2, 2, 0⟩
def F.RNG_CTL_GEN (i : Nat) : Field := ⟨(0x10010 + i * 0x40) * 64 + 16, 16, 0⟩

/-! ### RNG_SIZE (R703; fields: spec/05_rings.md, Set-up registers) -/
def F.RNG_SIZE_SIZE (i : Nat) : Field := ⟨(0x10014 + i * 0x40) * 64 + 0, 17, 0⟩

/-! ### RNG_IRQ (R703; fields: spec/05_rings.md, Set-up registers) -/
def F.RNG_IRQ_COUNT (i : Nat) : Field := ⟨(0x10018 + i * 0x40) * 64 + 0, 16, 0⟩
def F.RNG_IRQ_TIME (i : Nat) : Field := ⟨(0x10018 + i * 0x40) * 64 + 16, 16, 0⟩

/-! ### RNG_OUT (R703; fields: spec/05_rings.md, Set-up registers) -/
def F.RNG_OUT_HOLD (i : Nat) : Field := ⟨(0x1001c + i * 0x40) * 64 + 0, 16, 0x32⟩

/-! ### RNG_STATE (R703; fields: spec/05_rings.md, Set-up registers) -/
def F.RNG_STATE_STATE (i : Nat) : Field := ⟨(0x10020 + i * 0x40) * 64 + 0, 3, 0⟩

/-! ### RNG_SQ_CONS (R703; fields: spec/05_rings.md, Set-up registers) -/
def F.RNG_SQ_CONS_INDEX (i : Nat) : Field := ⟨(0x10024 + i * 0x40) * 64 + 0, 32, 0⟩

/-! ### RNG_CQ_PROD (R703; fields: spec/05_rings.md, Set-up registers) -/
def F.RNG_CQ_PROD_INDEX (i : Nat) : Field := ⟨(0x10028 + i * 0x40) * 64 + 0, 32, 0⟩

/-! ### RNG_ERR (R703; fields: spec/05_rings.md, Set-up registers) -/
def F.RNG_ERR_SIZE (i : Nat) : Field := ⟨(0x1002c + i * 0x40) * 64 + 0, 1, 0⟩
def F.RNG_ERR_TYPE (i : Nat) : Field := ⟨(0x1002c + i * 0x40) * 64 + 1, 1, 0⟩
def F.RNG_ERR_ALIGN (i : Nat) : Field := ⟨(0x1002c + i * 0x40) * 64 + 2, 1, 0⟩
def F.RNG_ERR_NOT_READY (i : Nat) : Field := ⟨(0x1002c + i * 0x40) * 64 + 3, 1, 0⟩
def F.RNG_ERR_OVERRUN (i : Nat) : Field := ⟨(0x1002c + i * 0x40) * 64 + 4, 1, 0⟩
def F.RNG_ERR_FETCH (i : Nat) : Field := ⟨(0x1002c + i * 0x40) * 64 + 5, 1, 0⟩
def F.RNG_ERR_DESC_POISON (i : Nat) : Field := ⟨(0x1002c + i * 0x40) * 64 + 6, 1, 0⟩
def F.RNG_ERR_GEN_SEEN (i : Nat) : Field := ⟨(0x1002c + i * 0x40) * 64 + 7, 1, 0⟩
def F.RNG_ERR_DROP_OVF (i : Nat) : Field := ⟨(0x1002c + i * 0x40) * 64 + 8, 1, 0⟩
def F.RNG_ERR_OVERRIDE (i : Nat) : Field := ⟨(0x1002c + i * 0x40) * 64 + 9, 1, 0⟩

/-! ### RNG_DROP (R703; fields: spec/05_rings.md, Set-up registers) -/
def F.RNG_DROP_COUNT (i : Nat) : Field := ⟨(0x10030 + i * 0x40) * 64 + 0, 32, 0⟩

/-! ### RNG_DB_BASE (R703; fields: spec/05_rings.md, Set-up registers) -/
def F.RNG_DB_BASE_BASE : Field := ⟨(0x12000) * 64 + 12, 52, 0⟩

/-! ### RNG_POLL (R703; fields: spec/05_rings.md, Set-up registers) -/
def F.RNG_POLL_PERIOD : Field := ⟨(0x12008) * 64 + 0, 16, 0x64⟩
def F.RNG_POLL_SWEEP : Field := ⟨(0x12008) * 64 + 16, 8, 0x64⟩
def F.RNG_POLL_DOZE : Field := ⟨(0x12008) * 64 + 24, 8, 1⟩

/-! ### RNG_GSTAT (R703; fields: spec/05_rings.md, Set-up registers) -/
def F.RNG_GSTAT_FALLBACK_SEEN : Field := ⟨(0x1200c) * 64 + 0, 1, 0⟩
def F.RNG_GSTAT_DB_BUSY_SEEN : Field := ⟨(0x1200c) * 64 + 1, 1, 0⟩
def F.RNG_GSTAT_UNBOUND_OVF : Field := ⟨(0x1200c) * 64 + 2, 1, 0⟩

/-! ### RNG_UNBOUND (R703; fields: spec/05_rings.md, Set-up registers) -/
def F.RNG_UNBOUND_COUNT : Field := ⟨(0x12010) * 64 + 0, 32, 0⟩

/-! ### TKP_NOW (R703; fields: spec/06_ingest.md, Set-up registers) -/
def F.TKP_NOW_TIME : Field := ⟨(0x20000) * 64 + 0, 64, 0⟩

/-! ### TKP_STAT (R703; fields: spec/06_ingest.md, Set-up registers) -/
def F.TKP_STAT_STATE : Field := ⟨(0x20008) * 64 + 0, 2, 0⟩
def F.TKP_STAT_SYNC_LIVE : Field := ⟨(0x20008) * 64 + 2, 1, 0⟩
def F.TKP_STAT_SLEW_LIVE : Field := ⟨(0x20008) * 64 + 3, 1, 0⟩
def F.TKP_STAT_LOSS_SEEN : Field := ⟨(0x20008) * 64 + 4, 1, 0⟩
def F.TKP_STAT_STEP_SEEN : Field := ⟨(0x20008) * 64 + 5, 1, 0⟩

/-! ### TKP_SYNC_ERR (R703; fields: spec/06_ingest.md, Set-up registers) -/
def F.TKP_SYNC_ERR_E : Field := ⟨(0x2000c) * 64 + 0, 16, 0⟩

/-! ### TKP_SYNC_MAX (R703; fields: spec/06_ingest.md, Set-up registers) -/
def F.TKP_SYNC_MAX_MAX : Field := ⟨(0x20010) * 64 + 0, 16, 0⟩

/-! ### TKP_CTL (R703; fields: spec/06_ingest.md, Set-up registers) -/
def F.TKP_CTL_MAX_CLR : Field := ⟨(0x20014) * 64 + 0, 1, 0⟩

/-! ### TKP_EPOCH (R703; fields: spec/06_ingest.md, Set-up registers) -/
def F.TKP_EPOCH_OFFSET : Field := ⟨(0x20018) * 64 + 0, 64, 0⟩

/-! ### TKP_FSYNC_PER (R703; fields: spec/06_ingest.md, Set-up registers) -/
def F.TKP_FSYNC_PER_PERIOD (i : Nat) : Field := ⟨(0x20020 + i * 0x8) * 64 + 0, 32, 0⟩

/-! ### TKP_FSYNC_PH (R703; fields: spec/06_ingest.md, Set-up registers) -/
def F.TKP_FSYNC_PH_PHASE (i : Nat) : Field := ⟨(0x20024 + i * 0x8) * 64 + 0, 32, 0⟩

/-! ### TKP_STAMP_ADJ (R703; fields: spec/06_ingest.md, Set-up registers) -/
def F.TKP_STAMP_ADJ_ADJ (i j : Nat) : Field := ⟨(0x20040 + i * 0x10 + j * 0x4) * 64 + 0, 32, 0⟩

/-! ### KEN_STAT (R703; fields: spec/06_ingest.md, Set-up registers) -/
def F.KEN_STAT_OPEN (i : Nat) : Field := ⟨(0x30000 + i * 0x40) * 64 + 0, 1, 0⟩
def F.KEN_STAT_FULL_LIVE (i : Nat) : Field := ⟨(0x30000 + i * 0x40) * 64 + 1, 1, 0⟩
def F.KEN_STAT_FULL_SEEN (i : Nat) : Field := ⟨(0x30000 + i * 0x40) * 64 + 2, 1, 0⟩
def F.KEN_STAT_WM_SEEN (i : Nat) : Field := ⟨(0x30000 + i * 0x40) * 64 + 3, 1, 0⟩
def F.KEN_STAT_MARK_LIVE (i : Nat) : Field := ⟨(0x30000 + i * 0x40) * 64 + 4, 1, 0⟩
def F.KEN_STAT_FORCE_SEEN (i : Nat) : Field := ⟨(0x30000 + i * 0x40) * 64 + 5, 1, 0⟩
def F.KEN_STAT_HWM_CLR (i : Nat) : Field := ⟨(0x30000 + i * 0x40) * 64 + 6, 1, 0⟩
def F.KEN_STAT_STREAM (i : Nat) : Field := ⟨(0x30000 + i * 0x40) * 64 + 8, 8, 0⟩

/-! ### KEN_LEVEL (R703; fields: spec/06_ingest.md, Set-up registers) -/
def F.KEN_LEVEL_BYTES (i : Nat) : Field := ⟨(0x30004 + i * 0x40) * 64 + 0, 26, 0⟩

/-! ### KEN_HWM (R703; fields: spec/06_ingest.md, Set-up registers) -/
def F.KEN_HWM_BYTES (i : Nat) : Field := ⟨(0x30008 + i * 0x40) * 64 + 0, 26, 0⟩

/-! ### KEN_WM_TIME (R703; fields: spec/06_ingest.md, Set-up registers) -/
def F.KEN_WM_TIME_VALUE (i : Nat) : Field := ⟨(0x30010 + i * 0x40) * 64 + 0, 64, 0⟩

/-! ### KEN_WPOS (R703; fields: spec/06_ingest.md, Set-up registers) -/
def F.KEN_WPOS_VALUE (i : Nat) : Field := ⟨(0x30018 + i * 0x40) * 64 + 0, 64, 0⟩

/-! ### KEN_RPOS (R703; fields: spec/06_ingest.md, Set-up registers) -/
def F.KEN_RPOS_VALUE (i : Nat) : Field := ⟨(0x30020 + i * 0x40) * 64 + 0, 64, 0⟩

/-! ### KEN_LPOS (R703; fields: spec/06_ingest.md, Set-up registers) -/
def F.KEN_LPOS_VALUE (i : Nat) : Field := ⟨(0x30028 + i * 0x40) * 64 + 0, 64, 0⟩

/-! ### KEN_CFG (R703; fields: spec/06_ingest.md, Set-up registers) -/
def F.KEN_CFG_BANK : Field := ⟨(0x32000) * 64 + 0, 9, 0x10⟩

/-! ### KEN_WM (R703; fields: spec/06_ingest.md, Set-up registers) -/
def F.KEN_WM_KIB : Field := ⟨(0x32004) * 64 + 0, 16, 0x400⟩

/-! ### KEN_PTS_RANGE (R703; fields: spec/06_ingest.md, Set-up registers) -/
def F.KEN_PTS_RANGE_COUNT : Field := ⟨(0x32008) * 64 + 0, 32, 0⟩

/-! ### KEN_GSTAT (R703; fields: spec/06_ingest.md, Set-up registers) -/
def F.KEN_GSTAT_PTS_OVF : Field := ⟨(0x3200c) * 64 + 0, 1, 0⟩
def F.KEN_GSTAT_HELD_SEEN : Field := ⟨(0x3200c) * 64 + 1, 1, 0⟩

/-! ### CSI_CTL (R703; fields: spec/06_ingest.md, Set-up registers) -/
def F.CSI_CTL_ENABLE (i : Nat) : Field := ⟨(0x34000 + i * 0x100) * 64 + 0, 1, 0⟩
def F.CSI_CTL_LANES (i : Nat) : Field := ⟨(0x34000 + i * 0x100) * 64 + 1, 3, 4⟩
def F.CSI_CTL_FRAME_TO (i : Nat) : Field := ⟨(0x34000 + i * 0x100) * 64 + 16, 8, 0x64⟩

/-! ### CSI_STAT (R703; fields: spec/06_ingest.md, Set-up registers) -/
def F.CSI_STAT_CLK_LIVE (i : Nat) : Field := ⟨(0x34004 + i * 0x100) * 64 + 0, 1, 0⟩
def F.CSI_STAT_CFG_SEEN (i : Nat) : Field := ⟨(0x34004 + i * 0x100) * 64 + 1, 1, 0⟩
def F.CSI_STAT_DIM_SEEN (i : Nat) : Field := ⟨(0x34004 + i * 0x100) * 64 + 2, 1, 0⟩
def F.CSI_STAT_OVF (i : Nat) : Field := ⟨(0x34004 + i * 0x100) * 64 + 3, 3, 0⟩

/-! ### CSI_CRC (R703; fields: spec/06_ingest.md, Set-up registers) -/
def F.CSI_CRC_COUNT (i : Nat) : Field := ⟨(0x34008 + i * 0x100) * 64 + 0, 32, 0⟩

/-! ### CSI_TRUNC (R703; fields: spec/06_ingest.md, Set-up registers) -/
def F.CSI_TRUNC_COUNT (i : Nat) : Field := ⟨(0x3400c + i * 0x100) * 64 + 0, 32, 0⟩

/-! ### CSI_IGN (R703; fields: spec/06_ingest.md, Set-up registers) -/
def F.CSI_IGN_COUNT (i : Nat) : Field := ⟨(0x34010 + i * 0x100) * 64 + 0, 32, 0⟩

/-! ### RFE_CFG (R703; fields: spec/06_ingest.md, Set-up registers) -/
def F.RFE_CFG_DT (i j : Nat) : Field := ⟨(0x34040 + i * 0x100 + j * 0x20) * 64 + 0, 6, 0x2B⟩
def F.RFE_CFG_CFA (i j : Nat) : Field := ⟨(0x34040 + i * 0x100 + j * 0x20) * 64 + 6, 2, 0⟩
def F.RFE_CFG_OUT_BITS (i j : Nat) : Field := ⟨(0x34040 + i * 0x100 + j * 0x20) * 64 + 8, 1, 0⟩

/-! ### RFE_BL01 (R703; fields: spec/06_ingest.md, Set-up registers) -/
def F.RFE_BL01_BL_LO (i j : Nat) : Field := ⟨(0x34044 + i * 0x100 + j * 0x20) * 64 + 0, 12, 0⟩
def F.RFE_BL01_BL_HI (i j : Nat) : Field := ⟨(0x34044 + i * 0x100 + j * 0x20) * 64 + 16, 12, 0⟩

/-! ### RFE_BL23 (R703; fields: spec/06_ingest.md, Set-up registers) -/
def F.RFE_BL23_BL_LO (i j : Nat) : Field := ⟨(0x34048 + i * 0x100 + j * 0x20) * 64 + 0, 12, 0⟩
def F.RFE_BL23_BL_HI (i j : Nat) : Field := ⟨(0x34048 + i * 0x100 + j * 0x20) * 64 + 16, 12, 0⟩

/-! ### RFE_WB01 (R703; fields: spec/06_ingest.md, Set-up registers) -/
def F.RFE_WB01_WB_LO (i j : Nat) : Field := ⟨(0x3404c + i * 0x100 + j * 0x20) * 64 + 0, 16, 0x1000⟩
def F.RFE_WB01_WB_HI (i j : Nat) : Field := ⟨(0x3404c + i * 0x100 + j * 0x20) * 64 + 16, 16, 0x1000⟩

/-! ### RFE_WB23 (R703; fields: spec/06_ingest.md, Set-up registers) -/
def F.RFE_WB23_WB_LO (i j : Nat) : Field := ⟨(0x34050 + i * 0x100 + j * 0x20) * 64 + 0, 16, 0x1000⟩
def F.RFE_WB23_WB_HI (i j : Nat) : Field := ⟨(0x34050 + i * 0x100 + j * 0x20) * 64 + 16, 16, 0x1000⟩

/-! ### RFE_LUT (R703; fields: spec/06_ingest.md, Set-up registers) -/
def F.RFE_LUT_OUT (i j : Nat) : Field := ⟨(0x36000 + i * 0x800 + j * 0x4) * 64 + 0, 10, (rstLut j)⟩

/-! ### KEN_STALE (R703; fields: spec/06_ingest.md, Set-up registers) -/
def F.KEN_STALE_COUNT (i : Nat) : Field := ⟨(0x3c000 + i * 0x4) * 64 + 0, 32, 0⟩

/-! ### KEN_STALE_OVF (R703; fields: spec/06_ingest.md, Set-up registers) -/
def F.KEN_STALE_OVF_OVF (i : Nat) : Field := ⟨(0x3d000 + i * 0x4) * 64 + 0, 32, 0⟩

/-! ### DEC_CFG (R703; fields: spec/07_decode.md, Set-up registers) -/
def F.DEC_CFG_POOL : Field := ⟨(0x40000) * 64 + 0, 8, 0x40⟩
def F.DEC_CFG_CONCEAL_MAX : Field := ⟨(0x40000) * 64 + 8, 7, 0x32⟩
def F.DEC_CFG_RAP_TRUST : Field := ⟨(0x40000) * 64 + 15, 1, 0⟩
def F.DEC_CFG_ADMIT : Field := ⟨(0x40000) * 64 + 16, 7, 0x64⟩

/-! ### DEC_ENG_LOAD (R703; fields: spec/07_decode.md, Set-up registers) -/
def F.DEC_ENG_LOAD_LOAD (i : Nat) : Field := ⟨(0x40010 + i * 0x4) * 64 + 0, 16, 0⟩
def F.DEC_ENG_LOAD_SESS (i : Nat) : Field := ⟨(0x40010 + i * 0x4) * 64 + 16, 7, 0⟩

/-! ### DEC_POOL_USED (R703; fields: spec/07_decode.md, Set-up registers) -/
def F.DEC_POOL_USED_MIB : Field := ⟨(0x40030) * 64 + 0, 16, 0⟩

/-! ### DEC_SESS_STAT (R703; fields: spec/07_decode.md, Set-up registers) -/
def F.DEC_SESS_STAT_STATE (i : Nat) : Field := ⟨(0x41000 + i * 0x20) * 64 + 0, 2, 0⟩
def F.DEC_SESS_STAT_ENGINE (i : Nat) : Field := ⟨(0x41000 + i * 0x20) * 64 + 2, 3, 0⟩
def F.DEC_SESS_STAT_CODEC (i : Nat) : Field := ⟨(0x41000 + i * 0x20) * 64 + 5, 3, 0⟩
def F.DEC_SESS_STAT_POISON_LIVE (i : Nat) : Field := ⟨(0x41000 + i * 0x20) * 64 + 8, 1, 0⟩

/-! ### DEC_ERR (R703; fields: spec/07_decode.md, Set-up registers) -/
def F.DEC_ERR_DIM_LIMIT (i : Nat) : Field := ⟨(0x41004 + i * 0x20) * 64 + 0, 1, 0⟩
def F.DEC_ERR_UNSUPPORTED (i : Nat) : Field := ⟨(0x41004 + i * 0x20) * 64 + 1, 1, 0⟩
def F.DEC_ERR_SYNTAX (i : Nat) : Field := ⟨(0x41004 + i * 0x20) * 64 + 2, 1, 0⟩
def F.DEC_ERR_MISSING_REF (i : Nat) : Field := ⟨(0x41004 + i * 0x20) * 64 + 3, 1, 0⟩
def F.DEC_ERR_OVERSIZE (i : Nat) : Field := ⟨(0x41004 + i * 0x20) * 64 + 4, 1, 0⟩
def F.DEC_ERR_CONCEAL_MAX (i : Nat) : Field := ⟨(0x41004 + i * 0x20) * 64 + 5, 1, 0⟩
def F.DEC_ERR_CONCEAL_OVF (i : Nat) : Field := ⟨(0x41004 + i * 0x20) * 64 + 6, 1, 0⟩
def F.DEC_ERR_RESYNC_OVF (i : Nat) : Field := ⟨(0x41004 + i * 0x20) * 64 + 7, 1, 0⟩
def F.DEC_ERR_PICS_WRAP (i : Nat) : Field := ⟨(0x41004 + i * 0x20) * 64 + 8, 1, 0⟩
def F.DEC_ERR_WRAP_OVF (i : Nat) : Field := ⟨(0x41004 + i * 0x20) * 64 + 9, 1, 0⟩

/-! ### DEC_SESS_MEM (R703; fields: spec/07_decode.md, Set-up registers) -/
def F.DEC_SESS_MEM_MIB (i : Nat) : Field := ⟨(0x41008 + i * 0x20) * 64 + 0, 16, 0⟩

/-! ### DEC_CONCEAL (R703; fields: spec/07_decode.md, Set-up registers) -/
def F.DEC_CONCEAL_COUNT (i : Nat) : Field := ⟨(0x4100c + i * 0x20) * 64 + 0, 32, 0⟩

/-! ### DEC_RESYNC (R703; fields: spec/07_decode.md, Set-up registers) -/
def F.DEC_RESYNC_COUNT (i : Nat) : Field := ⟨(0x41010 + i * 0x20) * 64 + 0, 32, 0⟩

/-! ### DEC_PICS (R703; fields: spec/07_decode.md, Set-up registers) -/
def F.DEC_PICS_COUNT (i : Nat) : Field := ⟨(0x41014 + i * 0x20) * 64 + 0, 64, 0⟩

/-! ### DEC_PICS_WRAP (R703; fields: spec/07_decode.md, Set-up registers) -/
def F.DEC_PICS_WRAP_COUNT (i : Nat) : Field := ⟨(0x4101c + i * 0x20) * 64 + 0, 32, 0⟩

/-! ### MOS_STAT (R703; fields: spec/08_mosaic.md, Set-up registers) -/
def F.MOS_STAT_QLEVEL : Field := ⟨(0x50000) * 64 + 0, 9, 0⟩
def F.MOS_STAT_RLEVEL : Field := ⟨(0x50000) * 64 + 16, 7, 0⟩
def F.MOS_STAT_BUSY : Field := ⟨(0x50000) * 64 + 23, 1, 0⟩

/-! ### MOS_ERR (R703; fields: spec/08_mosaic.md, Set-up registers) -/
def F.MOS_ERR_BATCH : Field := ⟨(0x50004) * 64 + 0, 1, 0⟩
def F.MOS_ERR_SHAPE : Field := ⟨(0x50004) * 64 + 1, 1, 0⟩
def F.MOS_ERR_FORMAT : Field := ⟨(0x50004) * 64 + 2, 1, 0⟩
def F.MOS_ERR_ADDR : Field := ⟨(0x50004) * 64 + 3, 1, 0⟩
def F.MOS_ERR_CROP_SHAPE : Field := ⟨(0x50004) * 64 + 4, 1, 0⟩
def F.MOS_ERR_GONE_SEEN : Field := ⟨(0x50004) * 64 + 5, 1, 0⟩
def F.MOS_ERR_REFUSED_OVF : Field := ⟨(0x50004) * 64 + 6, 1, 0⟩
def F.MOS_ERR_JOBS_WRAP : Field := ⟨(0x50004) * 64 + 7, 1, 0⟩
def F.MOS_ERR_WRAP_OVF : Field := ⟨(0x50004) * 64 + 8, 1, 0⟩
def F.MOS_ERR_HWM_CLR : Field := ⟨(0x50004) * 64 + 9, 1, 0⟩

/-! ### MOS_ERR_JOB (R703; fields: spec/08_mosaic.md, Set-up registers) -/
def F.MOS_ERR_JOB_ADDR : Field := ⟨(0x50008) * 64 + 0, 64, 0⟩

/-! ### MOS_REFUSED (R703; fields: spec/08_mosaic.md, Set-up registers) -/
def F.MOS_REFUSED_COUNT : Field := ⟨(0x50010) * 64 + 0, 32, 0⟩

/-! ### MOS_QHWM (R703; fields: spec/08_mosaic.md, Set-up registers) -/
def F.MOS_QHWM_LEVEL : Field := ⟨(0x50014) * 64 + 0, 9, 0⟩

/-! ### MOS_JOBS (R703; fields: spec/08_mosaic.md, Set-up registers) -/
def F.MOS_JOBS_COUNT : Field := ⟨(0x50018) * 64 + 0, 64, 0⟩

/-! ### MOS_JOBS_WRAP (R703; fields: spec/08_mosaic.md, Set-up registers) -/
def F.MOS_JOBS_WRAP_COUNT : Field := ⟨(0x50020) * 64 + 0, 32, 0⟩

/-! ### AUD_LANE (R703; fields: spec/09_audio_porch.md, Set-up registers) -/
def F.AUD_LANE_EN (i : Nat) : Field := ⟨(0x60000 + i * 0x4) * 64 + 0, 1, 0⟩
def F.AUD_LANE_MODE (i : Nat) : Field := ⟨(0x60000 + i * 0x4) * 64 + 1, 2, 1⟩
def F.AUD_LANE_SLOTS (i : Nat) : Field := ⟨(0x60000 + i * 0x4) * 64 + 3, 5, 0x10⟩
def F.AUD_LANE_WIDTH (i : Nat) : Field := ⟨(0x60000 + i * 0x4) * 64 + 8, 2, 2⟩
def F.AUD_LANE_LAT (i : Nat) : Field := ⟨(0x60000 + i * 0x4) * 64 + 16, 8, 0⟩

/-! ### AUD_PDM (R703; fields: spec/09_audio_porch.md, Set-up registers) -/
def F.AUD_PDM_EN : Field := ⟨(0x60008) * 64 + 0, 1, 0⟩
def F.AUD_PDM_LAT : Field := ⟨(0x60008) * 64 + 16, 8, 0⟩

/-! ### AUD_STAT (R703; fields: spec/09_audio_porch.md, Set-up registers) -/
def F.AUD_STAT_RUN : Field := ⟨(0x6000c) * 64 + 0, 3, 0⟩
def F.AUD_STAT_POOL_OVF : Field := ⟨(0x6000c) * 64 + 3, 1, 0⟩
def F.AUD_STAT_FJOB_OVF : Field := ⟨(0x6000c) * 64 + 4, 1, 0⟩
def F.AUD_STAT_REL_SEEN : Field := ⟨(0x6000c) * 64 + 5, 1, 0⟩
def F.AUD_STAT_FQLEVEL : Field := ⟨(0x6000c) * 64 + 6, 7, 0⟩

/-! ### AUD_CFG (R703; fields: spec/09_audio_porch.md, Set-up registers) -/
def F.AUD_CFG_POOL : Field := ⟨(0x60010) * 64 + 0, 8, 0x10⟩

/-! ### AUD_POOLDROP (R703; fields: spec/09_audio_porch.md, Set-up registers) -/
def F.AUD_POOLDROP_COUNT : Field := ⟨(0x60014) * 64 + 0, 32, 0⟩

/-! ### AUD_FJOB_REF (R703; fields: spec/09_audio_porch.md, Set-up registers) -/
def F.AUD_FJOB_REF_COUNT : Field := ⟨(0x60018) * 64 + 0, 32, 0⟩

/-! ### AUD_BSET_BASE (R703; fields: spec/09_audio_porch.md, Set-up registers) -/
def F.AUD_BSET_BASE_BASE (i : Nat) : Field := ⟨(0x60100 + i * 0x8) * 64 + 6, 58, 0⟩

/-! ### AUD_DEC_COEF (R703; fields: spec/09_audio_porch.md, Set-up registers) -/
def F.AUD_DEC_COEF_H (i : Nat) : Field := ⟨(0x60200 + i * 0x4) * 64 + 0, 18, (rstCoef i)⟩

/-! ### PRC_CTL (R703; fields: spec/09_audio_porch.md, Set-up registers) -/
def F.PRC_CTL_ENABLE : Field := ⟨(0x68000) * 64 + 0, 1, 1⟩
def F.PRC_CTL_MICMASK : Field := ⟨(0x68000) * 64 + 1, 4, 0xF⟩

/-! ### PRC_TH (R703; fields: spec/09_audio_porch.md, Set-up registers) -/
def F.PRC_TH_WAKE_TH : Field := ⟨(0x68004) * 64 + 0, 16, 0xB000⟩
def F.PRC_TH_PRE_TH : Field := ⟨(0x68004) * 64 + 16, 16, 0x5000⟩

/-! ### PRC_WAKE (R703; fields: spec/09_audio_porch.md, Set-up registers) -/
def F.PRC_WAKE_WAKE_N : Field := ⟨(0x68008) * 64 + 0, 4, 3⟩
def F.PRC_WAKE_REFRACT : Field := ⟨(0x68008) * 64 + 4, 8, 0x64⟩
def F.PRC_WAKE_DEFER : Field := ⟨(0x68008) * 64 + 12, 12, 0x5DC⟩

/-! ### PRC_HAND (R703; fields: spec/09_audio_porch.md, Set-up registers) -/
def F.PRC_HAND_NODE : Field := ⟨(0x6800c) * 64 + 0, 14, 0⟩
def F.PRC_HAND_PORT : Field := ⟨(0x6800c) * 64 + 14, 2, 0⟩
def F.PRC_HAND_CONTEXT : Field := ⟨(0x6800c) * 64 + 16, 10, 0⟩
def F.PRC_HAND_SLOT : Field := ⟨(0x6800c) * 64 + 26, 4, 0⟩
def F.PRC_HAND_HAND_EN : Field := ⟨(0x6800c) * 64 + 30, 1, 0⟩

/-! ### PRC_FLOW (R703; fields: spec/09_audio_porch.md, Set-up registers) -/
def F.PRC_FLOW_FLOW : Field := ⟨(0x68010) * 64 + 0, 8, 0⟩

/-! ### PRC_STAT (R703; fields: spec/09_audio_porch.md, Set-up registers) -/
def F.PRC_STAT_STATE : Field := ⟨(0x68014) * 64 + 0, 2, 0⟩
def F.PRC_STAT_PRE_LIVE : Field := ⟨(0x68014) * 64 + 2, 1, 0⟩
def F.PRC_STAT_WAKE_SEEN : Field := ⟨(0x68014) * 64 + 3, 1, 0⟩
def F.PRC_STAT_DEFER_SEEN : Field := ⟨(0x68014) * 64 + 4, 1, 0⟩
def F.PRC_STAT_HAND_MISS_SEEN : Field := ⟨(0x68014) * 64 + 5, 1, 0⟩
def F.PRC_STAT_WAKES_OVF : Field := ⟨(0x68014) * 64 + 6, 1, 0⟩
def F.PRC_STAT_SCORE : Field := ⟨(0x68014) * 64 + 16, 16, 0⟩

/-! ### PRC_WAKES (R703; fields: spec/09_audio_porch.md, Set-up registers) -/
def F.PRC_WAKES_COUNT : Field := ⟨(0x68018) * 64 + 0, 32, 0⟩

/-! ### PRC_LAST (R703; fields: spec/09_audio_porch.md, Set-up registers) -/
def F.PRC_LAST_TIME : Field := ⟨(0x68020) * 64 + 0, 64, 0⟩

/-! ### DFX_SLOT_STAT (R703; fields: spec/10_tokens_inn.md, Set-up registers) -/
def F.DFX_SLOT_STAT_STATE (i : Nat) : Field := ⟨(0x80100 + i * 0x8) * 64 + 0, 2, 0⟩
def F.DFX_SLOT_STAT_ARMED (i : Nat) : Field := ⟨(0x80100 + i * 0x8) * 64 + 2, 1, 0⟩
def F.DFX_SLOT_STAT_NNODES (i : Nat) : Field := ⟨(0x80100 + i * 0x8) * 64 + 4, 15, 0⟩

/-! ### DFX_SLOT_CTX (R703; fields: spec/10_tokens_inn.md, Set-up registers) -/
def F.DFX_SLOT_CTX_BASE (i : Nat) : Field := ⟨(0x80104 + i * 0x8) * 64 + 0, 10, 0⟩
def F.DFX_SLOT_CTX_COUNT (i : Nat) : Field := ⟨(0x80104 + i * 0x8) * 64 + 16, 11, 0⟩

/-! ### DFX_ORPHAN (R703; fields: spec/10_tokens_inn.md, Set-up registers) -/
def F.DFX_ORPHAN_COUNT : Field := ⟨(0x80200) * 64 + 0, 32, 0⟩

/-! ### DFX_STAT (R703; fields: spec/10_tokens_inn.md, Set-up registers) -/
def F.DFX_STAT_ORPHAN_OVF : Field := ⟨(0x80204) * 64 + 0, 1, 0⟩

/-! ### DFX_CLK_RUN (R703; fields: spec/10_tokens_inn.md, Set-up registers) -/
def F.DFX_CLK_RUN_DRAM : Field := ⟨(0x80f00) * 64 + 0, 16, 0⟩
def F.DFX_CLK_RUN_PCIE : Field := ⟨(0x80f00) * 64 + 16, 1, 0⟩
def F.DFX_CLK_RUN_TRAIL : Field := ⟨(0x80f00) * 64 + 17, 2, 0⟩
def F.DFX_CLK_RUN_CSI : Field := ⟨(0x80f00) * 64 + 19, 2, 0⟩
def F.DFX_CLK_RUN_TDM : Field := ⟨(0x80f00) * 64 + 21, 2, 0⟩
def F.DFX_CLK_RUN_PDM : Field := ⟨(0x80f00) * 64 + 23, 1, 0⟩
def F.DFX_CLK_RUN_CFG : Field := ⟨(0x80f00) * 64 + 24, 1, 0⟩
def F.DFX_CLK_RUN_TKP : Field := ⟨(0x80f00) * 64 + 25, 1, 0⟩
def F.DFX_CLK_RUN_PRC : Field := ⟨(0x80f00) * 64 + 26, 1, 0⟩
def F.DFX_CLK_RUN_CAN : Field := ⟨(0x80f00) * 64 + 27, 1, 0⟩

/-! ### DFX_XING_DROP (R703; fields: spec/10_tokens_inn.md, Set-up registers) -/
def F.DFX_XING_DROP_COUNT : Field := ⟨(0x80f04) * 64 + 0, 32, 0⟩

/-! ### DFX_XING_STAT (R703; fields: spec/10_tokens_inn.md, Set-up registers) -/
def F.DFX_XING_STAT_DROP_OVF : Field := ⟨(0x80f08) * 64 + 0, 1, 0⟩
def F.DFX_XING_STAT_STALL_SEEN : Field := ⟨(0x80f08) * 64 + 1, 1, 0⟩
def F.DFX_XING_STAT_STALL_LIVE : Field := ⟨(0x80f08) * 64 + 2, 1, 0⟩
def F.DFX_XING_STAT_STALL_DOMAIN : Field := ⟨(0x80f08) * 64 + 4, 9, 0⟩

/-! ### INN_LEVEL (R703; fields: spec/10_tokens_inn.md, Set-up registers) -/
def F.INN_LEVEL_MAIN (i : Nat) : Field := ⟨(0x81000 + i * 0x100) * 64 + 0, 13, 0⟩
def F.INN_LEVEL_RESERVE (i : Nat) : Field := ⟨(0x81000 + i * 0x100) * 64 + 16, 9, 0⟩

/-! ### INN_HWM (R703; fields: spec/10_tokens_inn.md, Set-up registers) -/
def F.INN_HWM_MAIN (i : Nat) : Field := ⟨(0x81004 + i * 0x100) * 64 + 0, 13, 0⟩

/-! ### INN_WM (R703; fields: spec/10_tokens_inn.md, Set-up registers) -/
def F.INN_WM_THRESH (i : Nat) : Field := ⟨(0x81008 + i * 0x100) * 64 + 0, 13, 0xE00⟩
def F.INN_WM_HWM_CLR (i : Nat) : Field := ⟨(0x81008 + i * 0x100) * 64 + 16, 1, 0⟩

/-! ### INN_STAT (R703; fields: spec/10_tokens_inn.md, Set-up registers) -/
def F.INN_STAT_WM_SEEN (i : Nat) : Field := ⟨(0x8100c + i * 0x100) * 64 + 0, 1, 0⟩
def F.INN_STAT_DUP_SEEN (i : Nat) : Field := ⟨(0x8100c + i * 0x100) * 64 + 1, 1, 0⟩
def F.INN_STAT_BADTOK_SEEN (i : Nat) : Field := ⟨(0x8100c + i * 0x100) * 64 + 2, 1, 0⟩
def F.INN_STAT_CE_SEEN (i : Nat) : Field := ⟨(0x8100c + i * 0x100) * 64 + 3, 1, 0⟩
def F.INN_STAT_UE_SEEN (i : Nat) : Field := ⟨(0x8100c + i * 0x100) * 64 + 4, 1, 0⟩
def F.INN_STAT_DQ_FULL_LIVE (i : Nat) : Field := ⟨(0x8100c + i * 0x100) * 64 + 5, 1, 0⟩
def F.INN_STAT_DUPQ_LEVEL (i : Nat) : Field := ⟨(0x8100c + i * 0x100) * 64 + 6, 7, 0⟩
def F.INN_STAT_DQ_LEVEL (i : Nat) : Field := ⟨(0x8100c + i * 0x100) * 64 + 13, 7, 0⟩

/-! ### INN_WM_TIME (R703; fields: spec/10_tokens_inn.md, Set-up registers) -/
def F.INN_WM_TIME_TIME (i : Nat) : Field := ⟨(0x81010 + i * 0x100) * 64 + 0, 64, 0⟩

/-! ### INN_DUP (R703; fields: spec/10_tokens_inn.md, Set-up registers) -/
def F.INN_DUP_COUNT (i : Nat) : Field := ⟨(0x81018 + i * 0x100) * 64 + 0, 32, 0⟩

/-! ### INN_BADTOK (R703; fields: spec/10_tokens_inn.md, Set-up registers) -/
def F.INN_BADTOK_COUNT (i : Nat) : Field := ⟨(0x8101c + i * 0x100) * 64 + 0, 32, 0⟩

/-! ### INN_ECC_CE (R703; fields: spec/10_tokens_inn.md, Set-up registers) -/
def F.INN_ECC_CE_COUNT (i : Nat) : Field := ⟨(0x81020 + i * 0x100) * 64 + 0, 32, 0⟩

/-! ### INN_ECC_UE (R703; fields: spec/10_tokens_inn.md, Set-up registers) -/
def F.INN_ECC_UE_COUNT (i : Nat) : Field := ⟨(0x81024 + i * 0x100) * 64 + 0, 32, 0⟩

/-! ### INN_DUP_LOST (R703; fields: spec/10_tokens_inn.md, Set-up registers) -/
def F.INN_DUP_LOST_COUNT (i : Nat) : Field := ⟨(0x81028 + i * 0x100) * 64 + 0, 32, 0⟩

/-! ### INN_OVF (R703; fields: spec/10_tokens_inn.md, Set-up registers) -/
def F.INN_OVF_OVF (i : Nat) : Field := ⟨(0x8102c + i * 0x100) * 64 + 0, 5, 0⟩
def F.INN_OVF_FIRED_WRAP (i : Nat) : Field := ⟨(0x8102c + i * 0x100) * 64 + 5, 1, 0⟩
def F.INN_OVF_WRAP_OVF (i : Nat) : Field := ⟨(0x8102c + i * 0x100) * 64 + 6, 1, 0⟩

/-! ### INN_FIRED (R703; fields: spec/10_tokens_inn.md, Set-up registers) -/
def F.INN_FIRED_COUNT (i : Nat) : Field := ⟨(0x81030 + i * 0x100) * 64 + 0, 64, 0⟩

/-! ### INN_FIRED_WRAP (R703; fields: spec/10_tokens_inn.md, Set-up registers) -/
def F.INN_FIRED_WRAP_COUNT (i : Nat) : Field := ⟨(0x81038 + i * 0x100) * 64 + 0, 32, 0⟩

/-! ### INN_DUP_HEAD (R703; fields: spec/10_tokens_inn.md, Set-up registers) -/
def F.INN_DUP_HEAD_TOKEN (i : Nat) : Field := ⟨(0x81040 + i * 0x100) * 64 + 0, 128, 0⟩

/-! ### INN_DUP_CTL (R703; fields: spec/10_tokens_inn.md, Set-up registers) -/
def F.INN_DUP_CTL_POP (i : Nat) : Field := ⟨(0x81050 + i * 0x100) * 64 + 0, 1, 0⟩

/-! ### INN_BAD_LAST (R703; fields: spec/10_tokens_inn.md, Set-up registers) -/
def F.INN_BAD_LAST_TOKEN (i : Nat) : Field := ⟨(0x81060 + i * 0x100) * 64 + 0, 128, 0⟩

/-! ### INN_QUOTA (R703; fields: spec/10_tokens_inn.md, Set-up registers) -/
def F.INN_QUOTA_QUOTA (i j : Nat) : Field := ⟨(0x81080 + i * 0x100 + j * 0x4) * 64 + 0, 13, 0⟩
def F.INN_QUOTA_USED (i j : Nat) : Field := ⟨(0x81080 + i * 0x100 + j * 0x4) * 64 + 16, 13, 0⟩

/-! ### ANX_SIZE (R703; fields: spec/11_annex_guestbook.md, Set-up registers) -/
def F.ANX_SIZE_MIB : Field := ⟨(0x82000) * 64 + 0, 12, 0xC0⟩

/-! ### ANX_RECALL (R703; fields: spec/11_annex_guestbook.md, Set-up registers) -/
def F.ANX_RECALL_LEVEL : Field := ⟨(0x82004) * 64 + 0, 13, 0xC00⟩

/-! ### ANX_WRAP (R703; fields: spec/11_annex_guestbook.md, Set-up registers) -/
def F.ANX_WRAP_COUNT : Field := ⟨(0x82008) * 64 + 0, 32, 0⟩

/-! ### ANX_USED (R703; fields: spec/11_annex_guestbook.md, Set-up registers) -/
def F.ANX_USED_TOKENS (i : Nat) : Field := ⟨(0x82100 + i * 0x20) * 64 + 0, 24, 0⟩

/-! ### ANX_HWM (R703; fields: spec/11_annex_guestbook.md, Set-up registers) -/
def F.ANX_HWM_TOKENS (i : Nat) : Field := ⟨(0x82104 + i * 0x20) * 64 + 0, 24, 0⟩

/-! ### ANX_PSTAT (R703; fields: spec/11_annex_guestbook.md, Set-up registers) -/
def F.ANX_PSTAT_FULL_LIVE (i : Nat) : Field := ⟨(0x82108 + i * 0x20) * 64 + 0, 1, 0⟩
def F.ANX_PSTAT_FULL_SEEN (i : Nat) : Field := ⟨(0x82108 + i * 0x20) * 64 + 1, 1, 0⟩
def F.ANX_PSTAT_WRAP (i : Nat) : Field := ⟨(0x82108 + i * 0x20) * 64 + 2, 2, 0⟩
def F.ANX_PSTAT_WRAP_OVF (i : Nat) : Field := ⟨(0x82108 + i * 0x20) * 64 + 4, 1, 0⟩
def F.ANX_PSTAT_HWM_CLR (i : Nat) : Field := ⟨(0x82108 + i * 0x20) * 64 + 5, 1, 0⟩

/-! ### ANX_SPILL (R703; fields: spec/11_annex_guestbook.md, Set-up registers) -/
def F.ANX_SPILL_COUNT (i : Nat) : Field := ⟨(0x82110 + i * 0x20) * 64 + 0, 64, 0⟩

/-! ### ANX_RECALLS (R703; fields: spec/11_annex_guestbook.md, Set-up registers) -/
def F.ANX_RECALLS_COUNT (i : Nat) : Field := ⟨(0x82118 + i * 0x20) * 64 + 0, 64, 0⟩

/-! ### DFX_DL_CTL (R703; fields: spec/10_tokens_inn.md, Set-up registers) -/
def F.DFX_DL_CTL_ABORT_MS : Field := ⟨(0x83000) * 64 + 0, 16, 0x64⟩
def F.DFX_DL_CTL_LINGER_MS : Field := ⟨(0x83000) * 64 + 16, 16, 0x2710⟩

/-! ### DFX_DL_STAT (R703; fields: spec/10_tokens_inn.md, Set-up registers) -/
def F.DFX_DL_STAT_DL_SEEN : Field := ⟨(0x83004) * 64 + 0, 1, 0⟩
def F.DFX_DL_STAT_DL_LIVE : Field := ⟨(0x83004) * 64 + 1, 1, 0⟩
def F.DFX_DL_STAT_ABORT_SEEN : Field := ⟨(0x83004) * 64 + 2, 1, 0⟩
def F.DFX_DL_STAT_LINGER_SEEN : Field := ⟨(0x83004) * 64 + 3, 1, 0⟩
def F.DFX_DL_STAT_OVF : Field := ⟨(0x83004) * 64 + 4, 3, 0⟩
def F.DFX_DL_STAT_SLOT : Field := ⟨(0x83004) * 64 + 8, 4, 0⟩

/-! ### DFX_DL_COUNT (R703; fields: spec/10_tokens_inn.md, Set-up registers) -/
def F.DFX_DL_COUNT_COUNT : Field := ⟨(0x83008) * 64 + 0, 32, 0⟩

/-! ### DFX_LINGER (R703; fields: spec/10_tokens_inn.md, Set-up registers) -/
def F.DFX_LINGER_COUNT : Field := ⟨(0x8300c) * 64 + 0, 32, 0⟩

/-! ### DFX_DL_CLOSE0 (R703; fields: spec/10_tokens_inn.md, Set-up registers) -/
def F.DFX_DL_CLOSE0_COUNT : Field := ⟨(0x83010) * 64 + 0, 32, 0⟩

/-! ### DFX_DL_TIME (R703; fields: spec/10_tokens_inn.md, Set-up registers) -/
def F.DFX_DL_TIME_TIME : Field := ⟨(0x83018) * 64 + 0, 64, 0⟩

/-! ### DFX_LINGER_LAST (R703; fields: spec/10_tokens_inn.md, Set-up registers) -/
def F.DFX_LINGER_LAST_TOKEN : Field := ⟨(0x83020) * 64 + 0, 128, 0⟩

/-! ### DFX_SPEC_CTL (R703; fields: spec/10_tokens_inn.md, Set-up registers) -/
def F.DFX_SPEC_CTL_HOLD : Field := ⟨(0x83800) * 64 + 0, 16, 0x3E8⟩

/-! ### DFX_SPEC_STAT (R703; fields: spec/10_tokens_inn.md, Set-up registers) -/
def F.DFX_SPEC_STAT_KLIST_FULL_LIVE : Field := ⟨(0x83804) * 64 + 0, 1, 0⟩
def F.DFX_SPEC_STAT_VLOST_OVF : Field := ⟨(0x83804) * 64 + 1, 1, 0⟩
def F.DFX_SPEC_STAT_WRAP : Field := ⟨(0x83804) * 64 + 2, 4, 0⟩
def F.DFX_SPEC_STAT_WRAP_OVF : Field := ⟨(0x83804) * 64 + 6, 1, 0⟩

/-! ### DFX_SPEC_PROV (R703; fields: spec/10_tokens_inn.md, Set-up registers) -/
def F.DFX_SPEC_PROV_COUNT : Field := ⟨(0x83810) * 64 + 0, 64, 0⟩

/-! ### DFX_SPEC_KFIRE (R703; fields: spec/10_tokens_inn.md, Set-up registers) -/
def F.DFX_SPEC_KFIRE_COUNT : Field := ⟨(0x83818) * 64 + 0, 64, 0⟩

/-! ### DFX_SPEC_KTOK (R703; fields: spec/10_tokens_inn.md, Set-up registers) -/
def F.DFX_SPEC_KTOK_COUNT : Field := ⟨(0x83820) * 64 + 0, 64, 0⟩

/-! ### DFX_SPEC_STEPS (R703; fields: spec/10_tokens_inn.md, Set-up registers) -/
def F.DFX_SPEC_STEPS_COUNT : Field := ⟨(0x83828) * 64 + 0, 64, 0⟩

/-! ### DFX_SPEC_WRAP (R703; fields: spec/10_tokens_inn.md, Set-up registers) -/
def F.DFX_SPEC_WRAP_COUNT : Field := ⟨(0x83830) * 64 + 0, 32, 0⟩

/-! ### DFX_SPEC_VLOST (R703; fields: spec/10_tokens_inn.md, Set-up registers) -/
def F.DFX_SPEC_VLOST_COUNT : Field := ⟨(0x83834) * 64 + 0, 32, 0⟩

/-! ### DFX_CTX_MAP (R703; fields: spec/10_tokens_inn.md, Set-up registers) -/
def F.DFX_CTX_MAP_SLOT (i : Nat) : Field := ⟨(0x84000 + i * 0x4) * 64 + 0, 4, 0⟩
def F.DFX_CTX_MAP_VALID (i : Nat) : Field := ⟨(0x84000 + i * 0x4) * 64 + 4, 1, 0⟩

/-! ### PE_CFG (R703; fields: spec/12_codelet_isa.md, Set-up registers) -/
def F.PE_CFG_STEP_LIMIT : Field := ⟨(0x85000) * 64 + 0, 20, 0x400⟩
def F.PE_CFG_EXC_ABORT : Field := ⟨(0x85000) * 64 + 20, 1, 0⟩

/-! ### PE_EXC_STAT (R703; fields: spec/12_codelet_isa.md, Set-up registers) -/
def F.PE_EXC_STAT_SEEN (i : Nat) : Field := ⟨(0x85100 + i * 0x40) * 64 + 0, 1, 0⟩
def F.PE_EXC_STAT_OVF (i : Nat) : Field := ⟨(0x85100 + i * 0x40) * 64 + 1, 1, 0⟩
def F.PE_EXC_STAT_CAUSE (i : Nat) : Field := ⟨(0x85100 + i * 0x40) * 64 + 2, 4, 0⟩
def F.PE_EXC_STAT_PE (i : Nat) : Field := ⟨(0x85100 + i * 0x40) * 64 + 6, 4, 0⟩
def F.PE_EXC_STAT_SLOT (i : Nat) : Field := ⟨(0x85100 + i * 0x40) * 64 + 10, 4, 0⟩

/-! ### PE_EXC_NODE (R703; fields: spec/12_codelet_isa.md, Set-up registers) -/
def F.PE_EXC_NODE_NODE (i : Nat) : Field := ⟨(0x85104 + i * 0x40) * 64 + 0, 14, 0⟩
def F.PE_EXC_NODE_CONTEXT (i : Nat) : Field := ⟨(0x85104 + i * 0x40) * 64 + 16, 10, 0⟩

/-! ### PE_EXC_ITER (R703; fields: spec/12_codelet_isa.md, Set-up registers) -/
def F.PE_EXC_ITER_ITERATION (i : Nat) : Field := ⟨(0x85108 + i * 0x40) * 64 + 0, 20, 0⟩

/-! ### PE_EXC_PC (R703; fields: spec/12_codelet_isa.md, Set-up registers) -/
def F.PE_EXC_PC_PC (i : Nat) : Field := ⟨(0x8510c + i * 0x40) * 64 + 0, 18, 0⟩

/-! ### PE_EXC_ADDR (R703; fields: spec/12_codelet_isa.md, Set-up registers) -/
def F.PE_EXC_ADDR_ADDR (i : Nat) : Field := ⟨(0x85110 + i * 0x40) * 64 + 0, 64, 0⟩

/-! ### PE_EXC_COUNT (R703; fields: spec/12_codelet_isa.md, Set-up registers) -/
def F.PE_EXC_COUNT_COUNT (i : Nat) : Field := ⟨(0x85118 + i * 0x40) * 64 + 0, 32, 0⟩

/-! ### PE_EXC_TIME (R703; fields: spec/12_codelet_isa.md, Set-up registers) -/
def F.PE_EXC_TIME_TIME (i : Nat) : Field := ⟨(0x85120 + i * 0x40) * 64 + 0, 64, 0⟩

/-! ### GBK_CFG (R703; fields: spec/11_annex_guestbook.md, Set-up registers) -/
def F.GBK_CFG_STORE : Field := ⟨(0x86000) * 64 + 0, 12, 0x40⟩

/-! ### GBK_STAT (R703; fields: spec/11_annex_guestbook.md, Set-up registers) -/
def F.GBK_STAT_STORE_FULL_LIVE : Field := ⟨(0x86004) * 64 + 0, 1, 0⟩
def F.GBK_STAT_STORE_FULL_SEEN : Field := ⟨(0x86004) * 64 + 1, 1, 0⟩
def F.GBK_STAT_OVF : Field := ⟨(0x86004) * 64 + 2, 2, 0⟩

/-! ### GBK_LATE (R703; fields: spec/11_annex_guestbook.md, Set-up registers) -/
def F.GBK_LATE_COUNT : Field := ⟨(0x86008) * 64 + 0, 32, 0⟩

/-! ### GBK_BADSUB (R703; fields: spec/11_annex_guestbook.md, Set-up registers) -/
def F.GBK_BADSUB_COUNT : Field := ⟨(0x8600c) * 64 + 0, 32, 0⟩

/-! ### GBK_BAD_ADDR (R703; fields: spec/11_annex_guestbook.md, Set-up registers) -/
def F.GBK_BAD_ADDR_ADDR : Field := ⟨(0x86010) * 64 + 0, 64, 0⟩

/-! ### GBK_SYSFLOW (R703; fields: spec/11_annex_guestbook.md, Set-up registers) -/
def F.GBK_SYSFLOW_MOTION_FLOW : Field := ⟨(0x86020) * 64 + 0, 8, 0⟩
def F.GBK_SYSFLOW_HEALTH_FLOW : Field := ⟨(0x86020) * 64 + 8, 8, 0⟩
def F.GBK_SYSFLOW_FAULT_FLOW : Field := ⟨(0x86020) * 64 + 16, 8, 0⟩
def F.GBK_SYSFLOW_MOTION_EN : Field := ⟨(0x86020) * 64 + 24, 1, 0⟩
def F.GBK_SYSFLOW_HEALTH_EN : Field := ⟨(0x86020) * 64 + 25, 1, 0⟩
def F.GBK_SYSFLOW_FAULT_EN : Field := ⟨(0x86020) * 64 + 26, 1, 0⟩

/-! ### GBK_TCFG (R703; fields: spec/11_annex_guestbook.md, Set-up registers) -/
def F.GBK_TCFG_FPS : Field := ⟨(0x86024) * 64 + 0, 7, 0x1E⟩
def F.GBK_TCFG_HEALTH_MS : Field := ⟨(0x86024) * 64 + 16, 16, 0x3E8⟩

/-! ### GBK_HEALTH_SKIP (R703; fields: spec/11_annex_guestbook.md, Set-up registers) -/
def F.GBK_HEALTH_SKIP_COUNT : Field := ⟨(0x86028) * 64 + 0, 32, 0⟩

/-! ### GBK_MSTAT (R703; fields: spec/11_annex_guestbook.md, Set-up registers) -/
def F.GBK_MSTAT_HSKIP_OVF : Field := ⟨(0x8602c) * 64 + 0, 1, 0⟩
def F.GBK_MSTAT_TYPE_SEEN : Field := ⟨(0x8602c) * 64 + 1, 1, 0⟩
def F.GBK_MSTAT_SYSFLOW_SEEN : Field := ⟨(0x8602c) * 64 + 2, 1, 0⟩

/-! ### GBK_FLOW (R703; fields: spec/11_annex_guestbook.md, Set-up registers) -/
def F.GBK_FLOW_MODE (i : Nat) : Field := ⟨(0x87000 + i * 0x10) * 64 + 0, 2, 0⟩
def F.GBK_FLOW_SLOT (i : Nat) : Field := ⟨(0x87000 + i * 0x10) * 64 + 4, 4, 0⟩
def F.GBK_FLOW_HELD (i : Nat) : Field := ⟨(0x87000 + i * 0x10) * 64 + 8, 11, 0⟩
def F.GBK_FLOW_HOLES_OVF (i : Nat) : Field := ⟨(0x87000 + i * 0x10) * 64 + 19, 1, 0⟩

/-! ### GBK_FLOW_HEAD (R703; fields: spec/11_annex_guestbook.md, Set-up registers) -/
def F.GBK_FLOW_HEAD_VALUE (i : Nat) : Field := ⟨(0x87004 + i * 0x10) * 64 + 0, 32, 0⟩

/-! ### GBK_FLOW_SEQ (R703; fields: spec/11_annex_guestbook.md, Set-up registers) -/
def F.GBK_FLOW_SEQ_VALUE (i : Nat) : Field := ⟨(0x87008 + i * 0x10) * 64 + 0, 32, 0⟩

/-! ### GBK_FLOW_HOLES (R703; fields: spec/11_annex_guestbook.md, Set-up registers) -/
def F.GBK_FLOW_HOLES_COUNT (i : Nat) : Field := ⟨(0x8700c + i * 0x10) * 64 + 0, 32, 0⟩

/-! ### ADP_CFG (R703; fields: spec/19_adaptation.md, Set-up registers) -/
def F.ADP_CFG_DUTY : Field := ⟨(0x88000) * 64 + 0, 7, 0x19⟩
def F.ADP_CFG_HOLDOFF : Field := ⟨(0x88000) * 64 + 16, 16, 0x3E8⟩

/-! ### ADP_STAT (R703; fields: spec/19_adaptation.md, Set-up registers) -/
def F.ADP_STAT_RUN_LIVE : Field := ⟨(0x88004) * 64 + 0, 1, 0⟩
def F.ADP_STAT_HOLD_LIVE : Field := ⟨(0x88004) * 64 + 1, 1, 0⟩
def F.ADP_STAT_LINK_LIVE : Field := ⟨(0x88004) * 64 + 2, 1, 0⟩
def F.ADP_STAT_CREDIT_SEEN : Field := ⟨(0x88004) * 64 + 3, 1, 0⟩
def F.ADP_STAT_TPOISON_SEEN : Field := ⟨(0x88004) * 64 + 4, 1, 0⟩
def F.ADP_STAT_OVF : Field := ⟨(0x88004) * 64 + 5, 2, 0⟩

/-! ### ADP_JOB (R703; fields: spec/19_adaptation.md, Set-up registers) -/
def F.ADP_JOB_STATE (i : Nat) : Field := ⟨(0x88100 + i * 0x40) * 64 + 0, 3, 0⟩
def F.ADP_JOB_SLOT (i : Nat) : Field := ⟨(0x88100 + i * 0x40) * 64 + 4, 4, 0⟩
def F.ADP_JOB_CHIPS (i : Nat) : Field := ⟨(0x88100 + i * 0x40) * 64 + 8, 4, 0⟩

/-! ### ADP_EPOCH (R703; fields: spec/19_adaptation.md, Set-up registers) -/
def F.ADP_EPOCH_VALUE (i : Nat) : Field := ⟨(0x88104 + i * 0x40) * 64 + 0, 32, 0⟩

/-! ### ADP_INDEX (R703; fields: spec/19_adaptation.md, Set-up registers) -/
def F.ADP_INDEX_VALUE (i : Nat) : Field := ⟨(0x88108 + i * 0x40) * 64 + 0, 32, 0⟩

/-! ### ADP_SERIAL (R703; fields: spec/19_adaptation.md, Set-up registers) -/
def F.ADP_SERIAL_VALUE (i : Nat) : Field := ⟨(0x88110 + i * 0x40) * 64 + 0, 64, 0⟩

/-! ### ADP_DELIV (R703; fields: spec/19_adaptation.md, Set-up registers) -/
def F.ADP_DELIV_VALUE (i : Nat) : Field := ⟨(0x88118 + i * 0x40) * 64 + 0, 64, 0⟩

/-! ### ADP_EXCL (R703; fields: spec/19_adaptation.md, Set-up registers) -/
def F.ADP_EXCL_COUNT (i : Nat) : Field := ⟨(0x88120 + i * 0x40) * 64 + 0, 32, 0⟩

/-! ### ADP_DROPPED (R703; fields: spec/19_adaptation.md, Set-up registers) -/
def F.ADP_DROPPED_COUNT (i : Nat) : Field := ⟨(0x88124 + i * 0x40) * 64 + 0, 32, 0⟩

/-! ### ADP_END (R703; fields: spec/19_adaptation.md, Set-up registers) -/
def F.ADP_END_TIME (i : Nat) : Field := ⟨(0x88128 + i * 0x40) * 64 + 0, 64, 0⟩

/-! ### TEN_STAT (R703; fields: spec/13_tensor.md, Set-up registers) -/
def F.TEN_STAT_QLEVEL (i : Nat) : Field := ⟨(0xa0000 + i * 0x1000) * 64 + 0, 5, 0⟩
def F.TEN_STAT_BUSY (i : Nat) : Field := ⟨(0xa0000 + i * 0x1000) * 64 + 5, 1, 0⟩
def F.TEN_STAT_FROZEN_LIVE (i : Nat) : Field := ⟨(0xa0000 + i * 0x1000) * 64 + 6, 1, 0⟩
def F.TEN_STAT_HELD (i : Nat) : Field := ⟨(0xa0000 + i * 0x1000) * 64 + 7, 1, 0⟩
def F.TEN_STAT_SLOT (i : Nat) : Field := ⟨(0xa0000 + i * 0x1000) * 64 + 8, 4, 0⟩

/-! ### TEN_ERR (R703; fields: spec/13_tensor.md, Set-up registers) -/
def F.TEN_ERR_BAD_SHAPE (i : Nat) : Field := ⟨(0xa0004 + i * 0x1000) * 64 + 0, 1, 0⟩
def F.TEN_ERR_BAD_FORMAT (i : Nat) : Field := ⟨(0xa0004 + i * 0x1000) * 64 + 1, 1, 0⟩
def F.TEN_ERR_BAD_ADDR (i : Nat) : Field := ⟨(0xa0004 + i * 0x1000) * 64 + 2, 1, 0⟩
def F.TEN_ERR_CORRUPT_SEEN (i : Nat) : Field := ⟨(0xa0004 + i * 0x1000) * 64 + 3, 1, 0⟩
def F.TEN_ERR_POISON_SEEN (i : Nat) : Field := ⟨(0xa0004 + i * 0x1000) * 64 + 4, 1, 0⟩
def F.TEN_ERR_SAT_SEEN (i : Nat) : Field := ⟨(0xa0004 + i * 0x1000) * 64 + 5, 1, 0⟩
def F.TEN_ERR_OVF (i : Nat) : Field := ⟨(0xa0004 + i * 0x1000) * 64 + 6, 3, 0⟩
def F.TEN_ERR_WRAP (i : Nat) : Field := ⟨(0xa0004 + i * 0x1000) * 64 + 9, 2, 0⟩
def F.TEN_ERR_WRAP_OVF (i : Nat) : Field := ⟨(0xa0004 + i * 0x1000) * 64 + 11, 1, 0⟩

/-! ### TEN_REFUSED (R703; fields: spec/13_tensor.md, Set-up registers) -/
def F.TEN_REFUSED_COUNT (i : Nat) : Field := ⟨(0xa0008 + i * 0x1000) * 64 + 0, 32, 0⟩

/-! ### TEN_CORRUPT (R703; fields: spec/13_tensor.md, Set-up registers) -/
def F.TEN_CORRUPT_COUNT (i : Nat) : Field := ⟨(0xa000c + i * 0x1000) * 64 + 0, 32, 0⟩

/-! ### TEN_SAT (R703; fields: spec/13_tensor.md, Set-up registers) -/
def F.TEN_SAT_COUNT (i : Nat) : Field := ⟨(0xa0010 + i * 0x1000) * 64 + 0, 32, 0⟩

/-! ### TEN_CMDS (R703; fields: spec/13_tensor.md, Set-up registers) -/
def F.TEN_CMDS_COUNT (i : Nat) : Field := ⟨(0xa0018 + i * 0x1000) * 64 + 0, 64, 0⟩

/-! ### TEN_MACS (R703; fields: spec/13_tensor.md, Set-up registers) -/
def F.TEN_MACS_COUNT (i : Nat) : Field := ⟨(0xa0020 + i * 0x1000) * 64 + 0, 64, 0⟩

/-! ### TEN_WRAP (R703; fields: spec/13_tensor.md, Set-up registers) -/
def F.TEN_WRAP_COUNT (i : Nat) : Field := ⟨(0xa0028 + i * 0x1000) * 64 + 0, 32, 0⟩

/-! ### TEN_LAST_CMD (R703; fields: spec/13_tensor.md, Set-up registers) -/
def F.TEN_LAST_CMD_ADDR (i : Nat) : Field := ⟨(0xa0030 + i * 0x1000) * 64 + 0, 64, 0⟩

/-! ### TEN_DBG_CTL (R703; fields: spec/13_tensor.md, Set-up registers) -/
def F.TEN_DBG_CTL_FREEZE (i : Nat) : Field := ⟨(0xa0040 + i * 0x1000) * 64 + 0, 1, 0⟩
def F.TEN_DBG_CTL_SET (i : Nat) : Field := ⟨(0xa0040 + i * 0x1000) * 64 + 1, 1, 0⟩
def F.TEN_DBG_CTL_ROW (i : Nat) : Field := ⟨(0xa0040 + i * 0x1000) * 64 + 2, 6, 0⟩
def F.TEN_DBG_CTL_COL (i : Nat) : Field := ⟨(0xa0040 + i * 0x1000) * 64 + 8, 5, 0⟩

/-! ### TEN_DBG_ACC (R703; fields: spec/13_tensor.md, Set-up registers) -/
def F.TEN_DBG_ACC_VALUE (i : Nat) : Field := ⟨(0xa0048 + i * 0x1000) * 64 + 0, 64, 0⟩

/-! ### SIV_Q_BASE (R703; fields: spec/14_sieve_hound.md, Set-up registers) -/
def F.SIV_Q_BASE_EN : Field := ⟨(0xb0000) * 64 + 0, 1, 0⟩
def F.SIV_Q_BASE_OFFSET : Field := ⟨(0xb0000) * 64 + 6, 17, 0⟩

/-! ### SIV_CTL (R703; fields: spec/14_sieve_hound.md, Set-up registers) -/
def F.SIV_CTL_SKIP_US : Field := ⟨(0xb0004) * 64 + 0, 16, 0x64⟩

/-! ### SIV_STAT (R703; fields: spec/14_sieve_hound.md, Set-up registers) -/
def F.SIV_STAT_BUSY : Field := ⟨(0xb0008) * 64 + 0, 1, 0⟩
def F.SIV_STAT_REFUSED_SEEN : Field := ⟨(0xb0008) * 64 + 1, 1, 0⟩
def F.SIV_STAT_SKIP_SEEN : Field := ⟨(0xb0008) * 64 + 2, 1, 0⟩
def F.SIV_STAT_POISON_SEEN : Field := ⟨(0xb0008) * 64 + 3, 1, 0⟩
def F.SIV_STAT_FULL_SEEN : Field := ⟨(0xb0008) * 64 + 4, 1, 0⟩
def F.SIV_STAT_OVF : Field := ⟨(0xb0008) * 64 + 5, 3, 0⟩
def F.SIV_STAT_JOBS_WRAP : Field := ⟨(0xb0008) * 64 + 8, 1, 0⟩
def F.SIV_STAT_WRAP_OVF : Field := ⟨(0xb0008) * 64 + 9, 1, 0⟩

/-! ### SIV_HEAD (R703; fields: spec/14_sieve_hound.md, Set-up registers) -/
def F.SIV_HEAD_INDEX : Field := ⟨(0xb0010) * 64 + 0, 64, 0⟩

/-! ### SIV_REFUSED (R703; fields: spec/14_sieve_hound.md, Set-up registers) -/
def F.SIV_REFUSED_COUNT : Field := ⟨(0xb0018) * 64 + 0, 32, 0⟩

/-! ### SIV_SKIP (R703; fields: spec/14_sieve_hound.md, Set-up registers) -/
def F.SIV_SKIP_COUNT : Field := ⟨(0xb001c) * 64 + 0, 32, 0⟩

/-! ### SIV_DEGEN (R703; fields: spec/14_sieve_hound.md, Set-up registers) -/
def F.SIV_DEGEN_COUNT : Field := ⟨(0xb0020) * 64 + 0, 32, 0⟩

/-! ### SIV_JOBS (R703; fields: spec/14_sieve_hound.md, Set-up registers) -/
def F.SIV_JOBS_COUNT : Field := ⟨(0xb0028) * 64 + 0, 64, 0⟩

/-! ### SIV_WRAP (R703; fields: spec/14_sieve_hound.md, Set-up registers) -/
def F.SIV_WRAP_COUNT : Field := ⟨(0xb0030) * 64 + 0, 32, 0⟩

/-! ### SIV_LAST_JOB (R703; fields: spec/14_sieve_hound.md, Set-up registers) -/
def F.SIV_LAST_JOB_ADDR : Field := ⟨(0xb0038) * 64 + 0, 64, 0⟩

/-! ### HND_Q_BASE (R703; fields: spec/14_sieve_hound.md, Set-up registers) -/
def F.HND_Q_BASE_EN : Field := ⟨(0xb8000) * 64 + 0, 1, 0⟩
def F.HND_Q_BASE_OFFSET : Field := ⟨(0xb8000) * 64 + 6, 17, 0⟩

/-! ### HND_CTL (R703; fields: spec/14_sieve_hound.md, Set-up registers) -/
def F.HND_CTL_SKIP_US : Field := ⟨(0xb8004) * 64 + 0, 16, 0x64⟩

/-! ### HND_STAT (R703; fields: spec/14_sieve_hound.md, Set-up registers) -/
def F.HND_STAT_BUSY : Field := ⟨(0xb8008) * 64 + 0, 1, 0⟩
def F.HND_STAT_REFUSED_SEEN : Field := ⟨(0xb8008) * 64 + 1, 1, 0⟩
def F.HND_STAT_SKIP_SEEN : Field := ⟨(0xb8008) * 64 + 2, 1, 0⟩
def F.HND_STAT_POISON_SEEN : Field := ⟨(0xb8008) * 64 + 3, 1, 0⟩
def F.HND_STAT_FULL_SEEN : Field := ⟨(0xb8008) * 64 + 4, 1, 0⟩
def F.HND_STAT_OVF : Field := ⟨(0xb8008) * 64 + 5, 3, 0⟩
def F.HND_STAT_JOBS_WRAP : Field := ⟨(0xb8008) * 64 + 8, 1, 0⟩
def F.HND_STAT_WRAP_OVF : Field := ⟨(0xb8008) * 64 + 9, 1, 0⟩

/-! ### HND_HEAD (R703; fields: spec/14_sieve_hound.md, Set-up registers) -/
def F.HND_HEAD_INDEX : Field := ⟨(0xb8010) * 64 + 0, 64, 0⟩

/-! ### HND_REFUSED (R703; fields: spec/14_sieve_hound.md, Set-up registers) -/
def F.HND_REFUSED_COUNT : Field := ⟨(0xb8018) * 64 + 0, 32, 0⟩

/-! ### HND_SKIP (R703; fields: spec/14_sieve_hound.md, Set-up registers) -/
def F.HND_SKIP_COUNT : Field := ⟨(0xb801c) * 64 + 0, 32, 0⟩

/-! ### HND_FULL (R703; fields: spec/14_sieve_hound.md, Set-up registers) -/
def F.HND_FULL_COUNT : Field := ⟨(0xb8020) * 64 + 0, 32, 0⟩

/-! ### HND_JOBS (R703; fields: spec/14_sieve_hound.md, Set-up registers) -/
def F.HND_JOBS_COUNT : Field := ⟨(0xb8028) * 64 + 0, 64, 0⟩

/-! ### HND_WRAP (R703; fields: spec/14_sieve_hound.md, Set-up registers) -/
def F.HND_WRAP_COUNT : Field := ⟨(0xb8030) * 64 + 0, 32, 0⟩

/-! ### HND_LAST_JOB (R703; fields: spec/14_sieve_hound.md, Set-up registers) -/
def F.HND_LAST_JOB_ADDR : Field := ⟨(0xb8038) * 64 + 0, 64, 0⟩

/-! ### HND_LIVE (R703; fields: spec/14_sieve_hound.md, Set-up registers) -/
def F.HND_LIVE_TRACKS : Field := ⟨(0xb8040) * 64 + 0, 13, 0⟩
def F.HND_LIVE_ROOM : Field := ⟨(0xb8040) * 64 + 16, 11, 0⟩

/-! ### COA_Q_BASE (R703; fields: spec/15_coachman.md, Set-up registers) -/
def F.COA_Q_BASE_EN : Field := ⟨(0xc0000) * 64 + 0, 1, 0⟩
def F.COA_Q_BASE_OFFSET : Field := ⟨(0xc0000) * 64 + 6, 17, 0⟩

/-! ### COA_CTL (R703; fields: spec/15_coachman.md, Set-up registers) -/
def F.COA_CTL_SKIP_US : Field := ⟨(0xc0004) * 64 + 0, 16, 0x64⟩

/-! ### COA_STAT (R703; fields: spec/15_coachman.md, Set-up registers) -/
def F.COA_STAT_ROLE : Field := ⟨(0xc0008) * 64 + 0, 2, 0⟩
def F.COA_STAT_REFUSED_SEEN : Field := ⟨(0xc0008) * 64 + 2, 1, 0⟩
def F.COA_STAT_OVF : Field := ⟨(0xc0008) * 64 + 3, 1, 0⟩

/-! ### COA_GEN (R703; fields: spec/15_coachman.md, Set-up registers) -/
def F.COA_GEN_GEN : Field := ⟨(0xc000c) * 64 + 0, 32, 0⟩

/-! ### COA_REFUSED (R703; fields: spec/15_coachman.md, Set-up registers) -/
def F.COA_REFUSED_COUNT : Field := ⟨(0xc0010) * 64 + 0, 32, 0⟩

/-! ### COA_OCT_ORG (R703; fields: spec/15_coachman.md, Set-up registers) -/
def F.COA_OCT_ORG_XYZ (i : Nat) : Field := ⟨(0xc0020 + i * 0x4) * 64 + 0, 32, 0⟩

/-! ### COA_OCC_CFG (R703; fields: spec/15_coachman.md, Set-up registers) -/
def F.COA_OCC_CFG_R_PERSON : Field := ⟨(0xc002c) * 64 + 0, 10, 0x12C⟩
def F.COA_OCC_CFG_H_PERSON : Field := ⟨(0xc002c) * 64 + 10, 12, 0x76C⟩

/-! ### COA_OCC_INF (R703; fields: spec/15_coachman.md, Set-up registers) -/
def F.COA_OCC_INF_INFL_BASE : Field := ⟨(0xc0030) * 64 + 0, 10, 0x64⟩
def F.COA_OCC_INF_INFL_GROW : Field := ⟨(0xc0030) * 64 + 10, 8, 0x14⟩
def F.COA_OCC_INF_V_CAP : Field := ⟨(0xc0030) * 64 + 18, 14, 0x9C4⟩

/-! ### COA_OCC_CLS (R703; fields: spec/15_coachman.md, Set-up registers) -/
def F.COA_OCC_CLS_CLASSMASK : Field := ⟨(0xc0034) * 64 + 0, 32, 1⟩

/-! ### COA_CFG_CRC (R703; fields: spec/15_coachman.md, Set-up registers) -/
def F.COA_CFG_CRC_CRC : Field := ⟨(0xc0038) * 64 + 0, 32, 0⟩

/-! ### COA_KO_MIN (R703; fields: spec/15_coachman.md, Set-up registers) -/
def F.COA_KO_MIN_XYZ (i j : Nat) : Field := ⟨(0xc0100 + i * 0x20 + j * 0x4) * 64 + 0, 32, 0⟩

/-! ### COA_KO_MAX (R703; fields: spec/15_coachman.md, Set-up registers) -/
def F.COA_KO_MAX_XYZ (i j : Nat) : Field := ⟨(0xc010c + i * 0x20 + j * 0x4) * 64 + 0, 32, 0⟩

/-! ### COA_KO_EN (R703; fields: spec/15_coachman.md, Set-up registers) -/
def F.COA_KO_EN_EN (i : Nat) : Field := ⟨(0xc0118 + i * 0x20) * 64 + 0, 1, 0⟩

/-! ### COA_HCFG (R703; fields: spec/15_coachman.md, Set-up registers) -/
def F.COA_HCFG_EN (i : Nat) : Field := ⟨(0xc1000 + i * 0x100) * 64 + 0, 1, 0⟩
def F.COA_HCFG_BUS (i : Nat) : Field := ⟨(0xc1000 + i * 0x100) * 64 + 1, 1, 0⟩
def F.COA_HCFG_NAX (i : Nat) : Field := ⟨(0xc1000 + i * 0x100) * 64 + 2, 3, 0⟩
def F.COA_HCFG_BATCH (i : Nat) : Field := ⟨(0xc1000 + i * 0x100) * 64 + 5, 2, 0⟩

/-! ### COA_HSAFE (R703; fields: spec/15_coachman.md, Set-up registers) -/
def F.COA_HSAFE_SAFE_ID (i : Nat) : Field := ⟨(0xc1004 + i * 0x100) * 64 + 0, 32, 0⟩

/-! ### COA_HBASE (R703; fields: spec/15_coachman.md, Set-up registers) -/
def F.COA_HBASE_BXYZ (i j : Nat) : Field := ⟨(0xc1008 + i * 0x100 + j * 0x4) * 64 + 0, 32, 0⟩

/-! ### COA_HGEO_RAIL_HDG (R703; fields: spec/15_coachman.md, Set-up registers) -/
def F.COA_HGEO_RAIL_HDG_V (i : Nat) : Field := ⟨(0xc1014 + i * 0x100) * 64 + 0, 32, 0⟩

/-! ### COA_HGEO_R_BODY (R703; fields: spec/15_coachman.md, Set-up registers) -/
def F.COA_HGEO_R_BODY_V (i : Nat) : Field := ⟨(0xc1018 + i * 0x100) * 64 + 0, 32, 0⟩

/-! ### COA_HGEO_LIFT_SAFE (R703; fields: spec/15_coachman.md, Set-up registers) -/
def F.COA_HGEO_LIFT_SAFE_V (i : Nat) : Field := ⟨(0xc101c + i * 0x100) * 64 + 0, 32, 0⟩

/-! ### COA_HSTAT (R703; fields: spec/15_coachman.md, Set-up registers) -/
def F.COA_HSTAT_STATE (i : Nat) : Field := ⟨(0xc1020 + i * 0x100) * 64 + 0, 3, 0⟩
def F.COA_HSTAT_CONFLICT_SEEN (i : Nat) : Field := ⟨(0xc1020 + i * 0x100) * 64 + 3, 1, 0⟩

/-! ### COA_ACFG (R703; fields: spec/15_coachman.md, Set-up registers) -/
def F.COA_ACFG_KIND (i j : Nat) : Field := ⟨(0xc1040 + i * 0x100 + j * 0x20) * 64 + 0, 3, 0⟩

/-! ### COA_AMIN (R703; fields: spec/15_coachman.md, Set-up registers) -/
def F.COA_AMIN_LIMIT (i j : Nat) : Field := ⟨(0xc1044 + i * 0x100 + j * 0x20) * 64 + 0, 32, 0⟩

/-! ### COA_AMAX (R703; fields: spec/15_coachman.md, Set-up registers) -/
def F.COA_AMAX_LIMIT (i j : Nat) : Field := ⟨(0xc1048 + i * 0x100 + j * 0x20) * 64 + 0, 32, 0⟩

/-! ### COA_AV (R703; fields: spec/15_coachman.md, Set-up registers) -/
def F.COA_AV_VMAX (i j : Nat) : Field := ⟨(0xc104c + i * 0x100 + j * 0x20) * 64 + 0, 32, 0⟩

/-! ### COA_AA (R703; fields: spec/15_coachman.md, Set-up registers) -/
def F.COA_AA_AMAX (i j : Nat) : Field := ⟨(0xc1050 + i * 0x100 + j * 0x20) * 64 + 0, 32, 0⟩

/-! ### COA_AJ (R703; fields: spec/15_coachman.md, Set-up registers) -/
def F.COA_AJ_JMAX (i j : Nat) : Field := ⟨(0xc1054 + i * 0x100 + j * 0x20) * 64 + 0, 32, 0⟩

/-! ### COA_AF (R703; fields: spec/15_coachman.md, Set-up registers) -/
def F.COA_AF_FOLLOW (i j : Nat) : Field := ⟨(0xc1058 + i * 0x100 + j * 0x20) * 64 + 0, 32, 0⟩

/-! ### SEN_CTL (R703; fields: spec/15_coachman.md, Set-up registers) -/
def F.SEN_CTL_AHEAD_MS : Field := ⟨(0xc8000) * 64 + 0, 7, 0x10⟩
def F.SEN_CTL_GEN_GRACE : Field := ⟨(0xc8000) * 64 + 7, 3, 5⟩
def F.SEN_CTL_OCC_MAX_AGE : Field := ⟨(0xc8000) * 64 + 10, 10, 0xFA⟩

/-! ### SEN_STAT (R703; fields: spec/15_coachman.md, Set-up registers) -/
def F.SEN_STAT_ENABLED : Field := ⟨(0xc8004) * 64 + 0, 8, 0⟩
def F.SEN_STAT_SAFE_LATCH : Field := ⟨(0xc8004) * 64 + 8, 1, 1⟩
def F.SEN_STAT_STBY_LIVE : Field := ⟨(0xc8004) * 64 + 9, 1, 0⟩
def F.SEN_STAT_EN_RESULT : Field := ⟨(0xc8004) * 64 + 10, 4, 0⟩
def F.SEN_STAT_OVF : Field := ⟨(0xc8004) * 64 + 14, 5, 0⟩

/-! ### SEN_CAUSE (R703; fields: spec/15_coachman.md, Set-up registers) -/
def F.SEN_CAUSE_CAUSE : Field := ⟨(0xc8008) * 64 + 0, 4, 0⟩
def F.SEN_CAUSE_HEAD : Field := ⟨(0xc8008) * 64 + 4, 4, 0⟩

/-! ### SEN_CAUSE_TIME (R703; fields: spec/15_coachman.md, Set-up registers) -/
def F.SEN_CAUSE_TIME_TIME : Field := ⟨(0xc8010) * 64 + 0, 64, 0⟩

/-! ### SEN_TXLATE (R703; fields: spec/15_coachman.md, Set-up registers) -/
def F.SEN_TXLATE_COUNT : Field := ⟨(0xc8020) * 64 + 0, 32, 0⟩

/-! ### SEN_CRCERR (R703; fields: spec/15_coachman.md, Set-up registers) -/
def F.SEN_CRCERR_COUNT : Field := ⟨(0xc8024) * 64 + 0, 32, 0⟩

/-! ### SEN_CANIGN (R703; fields: spec/15_coachman.md, Set-up registers) -/
def F.SEN_CANIGN_COUNT : Field := ⟨(0xc8028) * 64 + 0, 32, 0⟩

/-! ### SEN_TAKEOVER (R703; fields: spec/15_coachman.md, Set-up registers) -/
def F.SEN_TAKEOVER_COUNT : Field := ⟨(0xc802c) * 64 + 0, 32, 0⟩

/-! ### SEN_TRIPS (R703; fields: spec/15_coachman.md, Set-up registers) -/
def F.SEN_TRIPS_COUNT : Field := ⟨(0xc8030) * 64 + 0, 32, 0⟩

/-! ### MEM_CH_STAT (R703; fields: spec/17_memory.md, Set-up registers) -/
def F.MEM_CH_STAT_TRAINED (i : Nat) : Field := ⟨(0x100000 + i * 0x4000) * 64 + 0, 1, 0⟩
def F.MEM_CH_STAT_PD_LIVE (i : Nat) : Field := ⟨(0x100000 + i * 0x4000) * 64 + 1, 1, 0⟩
def F.MEM_CH_STAT_SR_LIVE (i : Nat) : Field := ⟨(0x100000 + i * 0x4000) * 64 + 2, 1, 0⟩
def F.MEM_CH_STAT_SCRUB_LATE_LIVE (i : Nat) : Field := ⟨(0x100000 + i * 0x4000) * 64 + 3, 1, 0⟩
def F.MEM_CH_STAT_SCRUB_LATE_SEEN (i : Nat) : Field := ⟨(0x100000 + i * 0x4000) * 64 + 4, 1, 0⟩
def F.MEM_CH_STAT_FORCED_SEEN (i : Nat) : Field := ⟨(0x100000 + i * 0x4000) * 64 + 5, 1, 0⟩
def F.MEM_CH_STAT_THERM_SEEN (i : Nat) : Field := ⟨(0x100000 + i * 0x4000) * 64 + 6, 1, 0⟩
def F.MEM_CH_STAT_OVF (i : Nat) : Field := ⟨(0x100000 + i * 0x4000) * 64 + 7, 6, 0⟩
def F.MEM_CH_STAT_WRAP (i : Nat) : Field := ⟨(0x100000 + i * 0x4000) * 64 + 13, 2, 0⟩
def F.MEM_CH_STAT_WRAP_OVF (i : Nat) : Field := ⟨(0x100000 + i * 0x4000) * 64 + 15, 1, 0⟩

/-! ### MEM_CH_CE (R703; fields: spec/17_memory.md, Set-up registers) -/
def F.MEM_CH_CE_COUNT (i : Nat) : Field := ⟨(0x100004 + i * 0x4000) * 64 + 0, 32, 0⟩

/-! ### MEM_CH_UE (R703; fields: spec/17_memory.md, Set-up registers) -/
def F.MEM_CH_UE_COUNT (i : Nat) : Field := ⟨(0x100008 + i * 0x4000) * 64 + 0, 32, 0⟩

/-! ### MEM_CH_CMD (R703; fields: spec/17_memory.md, Set-up registers) -/
def F.MEM_CH_CMD_COUNT (i : Nat) : Field := ⟨(0x10000c + i * 0x4000) * 64 + 0, 32, 0⟩

/-! ### MEM_CH_LINK (R703; fields: spec/17_memory.md, Set-up registers) -/
def F.MEM_CH_LINK_COUNT (i : Nat) : Field := ⟨(0x100010 + i * 0x4000) * 64 + 0, 32, 0⟩

/-! ### MEM_CH_FORCED (R703; fields: spec/17_memory.md, Set-up registers) -/
def F.MEM_CH_FORCED_COUNT (i : Nat) : Field := ⟨(0x100014 + i * 0x4000) * 64 + 0, 32, 0⟩

/-! ### MEM_CH_TEL_SKIP (R703; fields: spec/17_memory.md, Set-up registers) -/
def F.MEM_CH_TEL_SKIP_COUNT (i : Nat) : Field := ⟨(0x100018 + i * 0x4000) * 64 + 0, 32, 0⟩

/-! ### MEM_CH_ERR_ADDR (R703; fields: spec/17_memory.md, Set-up registers) -/
def F.MEM_CH_ERR_ADDR_OFFSET (i : Nat) : Field := ⟨(0x100020 + i * 0x4000) * 64 + 0, 64, 0⟩

/-! ### MEM_CH_ERR_TAG (R703; fields: spec/17_memory.md, Set-up registers) -/
def F.MEM_CH_ERR_TAG_TAG (i : Nat) : Field := ⟨(0x100028 + i * 0x4000) * 64 + 0, 32, 0⟩

/-! ### MEM_CH_ERR_KIND (R703; fields: spec/17_memory.md, Set-up registers) -/
def F.MEM_CH_ERR_KIND_CLASS (i : Nat) : Field := ⟨(0x10002c + i * 0x4000) * 64 + 0, 2, 0⟩
def F.MEM_CH_ERR_KIND_FINDER (i : Nat) : Field := ⟨(0x10002c + i * 0x4000) * 64 + 2, 2, 0⟩

/-! ### MEM_CH_ERR_TIME (R703; fields: spec/17_memory.md, Set-up registers) -/
def F.MEM_CH_ERR_TIME_TIME (i : Nat) : Field := ⟨(0x100030 + i * 0x4000) * 64 + 0, 64, 0⟩

/-! ### MEM_CH_QLEVEL (R703; fields: spec/17_memory.md, Set-up registers) -/
def F.MEM_CH_QLEVEL_READS (i : Nat) : Field := ⟨(0x100038 + i * 0x4000) * 64 + 0, 7, 0⟩
def F.MEM_CH_QLEVEL_WRITES (i : Nat) : Field := ⟨(0x100038 + i * 0x4000) * 64 + 8, 7, 0⟩

/-! ### MEM_CH_UTIL (R703; fields: spec/17_memory.md, Set-up registers) -/
def F.MEM_CH_UTIL_PERMILLE (i : Nat) : Field := ⟨(0x10003c + i * 0x4000) * 64 + 0, 10, 0⟩

/-! ### MEM_CH_TEMP (R703; fields: spec/17_memory.md, Set-up registers) -/
def F.MEM_CH_TEMP_MR4_R0 (i : Nat) : Field := ⟨(0x100040 + i * 0x4000) * 64 + 0, 5, 0⟩
def F.MEM_CH_TEMP_MR4_R1 (i : Nat) : Field := ⟨(0x100040 + i * 0x4000) * 64 + 8, 5, 0⟩

/-! ### MEM_CH_SCRUB (R703; fields: spec/17_memory.md, Set-up registers) -/
def F.MEM_CH_SCRUB_POS (i : Nat) : Field := ⟨(0x100044 + i * 0x4000) * 64 + 0, 25, 0⟩

/-! ### MEM_CH_PASSES (R703; fields: spec/17_memory.md, Set-up registers) -/
def F.MEM_CH_PASSES_COUNT (i : Nat) : Field := ⟨(0x100048 + i * 0x4000) * 64 + 0, 32, 0⟩

/-! ### MEM_CH_RANK_CE (R703; fields: spec/17_memory.md, Set-up registers) -/
def F.MEM_CH_RANK_CE_COUNT (i j : Nat) : Field := ⟨(0x100050 + i * 0x4000 + j * 0x4) * 64 + 0, 32, 0⟩

/-! ### MEM_CH_RD (R703; fields: spec/17_memory.md, Set-up registers) -/
def F.MEM_CH_RD_BYTES (i : Nat) : Field := ⟨(0x100060 + i * 0x4000) * 64 + 0, 64, 0⟩

/-! ### MEM_CH_WR (R703; fields: spec/17_memory.md, Set-up registers) -/
def F.MEM_CH_WR_BYTES (i : Nat) : Field := ⟨(0x100068 + i * 0x4000) * 64 + 0, 64, 0⟩

/-! ### MEM_CH_WRAP (R703; fields: spec/17_memory.md, Set-up registers) -/
def F.MEM_CH_WRAP_COUNT (i : Nat) : Field := ⟨(0x100070 + i * 0x4000) * 64 + 0, 32, 0⟩

/-! ### MEM_GCFG (R703; fields: spec/17_memory.md, Set-up registers) -/
def F.MEM_GCFG_SPARES : Field := ⟨(0x103000) * 64 + 0, 2, 2⟩

/-! ### MEM_SCHED (R703; fields: spec/17_memory.md, Set-up registers) -/
def F.MEM_SCHED_WHI : Field := ⟨(0x103004) * 64 + 0, 7, 0x30⟩
def F.MEM_SCHED_WLO : Field := ⟨(0x103004) * 64 + 8, 7, 0x10⟩
def F.MEM_SCHED_AGE : Field := ⟨(0x103004) * 64 + 16, 16, 0x7D0⟩

/-! ### MEM_TRAIN (R703; fields: spec/17_memory.md, Set-up registers) -/
def F.MEM_TRAIN_PERIOD : Field := ⟨(0x103008) * 64 + 0, 16, 0x32⟩

/-! ### MEM_SCRUB (R703; fields: spec/17_memory.md, Set-up registers) -/
def F.MEM_SCRUB_HOURS : Field := ⟨(0x10300c) * 64 + 0, 5, 0x18⟩

/-! ### MEM_PD (R703; fields: spec/17_memory.md, Set-up registers) -/
def F.MEM_PD_IDLE : Field := ⟨(0x103010) * 64 + 0, 16, 0xC8⟩

/-! ### MEM_TEL (R703; fields: spec/17_memory.md, Set-up registers) -/
def F.MEM_TEL_PERIOD : Field := ⟨(0x103014) * 64 + 0, 16, 0x64⟩

/-! ### MEM_USABLE (R703; fields: spec/17_memory.md, Set-up registers) -/
def F.MEM_USABLE_BYTES : Field := ⟨(0x103018) * 64 + 0, 64, 0x348000000⟩

/-! ### MEM_RETIRE (R703; fields: spec/17_memory.md, Set-up registers) -/
def F.MEM_RETIRE_CE_N : Field := ⟨(0x103020) * 64 + 0, 16, 0x40⟩
def F.MEM_RETIRE_WIN_S : Field := ⟨(0x103020) * 64 + 16, 16, 0xE10⟩

/-! ### MEM_RESERVED (R703; fields: spec/17_memory.md, Set-up registers) -/
def F.MEM_RESERVED_OFFSET : Field := ⟨(0x103028) * 64 + 0, 64, 0x348000000⟩

/-! ### MEM_RANK (R703; fields: spec/17_memory.md, Set-up registers) -/
def F.MEM_RANK_STATE (i : Nat) : Field := ⟨(0x103040 + i * 0x4) * 64 + 0, 3, 0⟩
def F.MEM_RANK_SUBST (i : Nat) : Field := ⟨(0x103040 + i * 0x4) * 64 + 4, 5, 0⟩

/-! ### MEM_MIG (R703; fields: spec/17_memory.md, Set-up registers) -/
def F.MEM_MIG_SRC : Field := ⟨(0x1030c0) * 64 + 0, 5, 0⟩
def F.MEM_MIG_DST : Field := ⟨(0x1030c0) * 64 + 8, 5, 0⟩
def F.MEM_MIG_ACTIVE : Field := ⟨(0x1030c0) * 64 + 13, 1, 0⟩
def F.MEM_MIG_DONE_SEEN : Field := ⟨(0x1030c0) * 64 + 14, 1, 0⟩
def F.MEM_MIG_NOSPARE_SEEN : Field := ⟨(0x1030c0) * 64 + 15, 1, 0⟩
def F.MEM_MIG_ABORT_SEEN : Field := ⟨(0x1030c0) * 64 + 16, 1, 0⟩
def F.MEM_MIG_REQ_BAD_SEEN : Field := ⟨(0x1030c0) * 64 + 17, 1, 0⟩

/-! ### MEM_MIG_PTR (R703; fields: spec/17_memory.md, Set-up registers) -/
def F.MEM_MIG_PTR_P : Field := ⟨(0x1030c4) * 64 + 0, 23, 0⟩

/-! ### MEM_MIG_REQ (R703; fields: spec/17_memory.md, Set-up registers) -/
def F.MEM_MIG_REQ_RANK : Field := ⟨(0x1030c8) * 64 + 0, 5, 0⟩
def F.MEM_MIG_REQ_GO : Field := ⟨(0x1030c8) * 64 + 8, 1, 0⟩

/-! ### MEM_GSTAT (R703; fields: spec/17_memory.md, Set-up registers) -/
def F.MEM_GSTAT_SCRUB_LATE_LIVE : Field := ⟨(0x1030cc) * 64 + 0, 1, 0⟩
def F.MEM_GSTAT_WIPE_DONE : Field := ⟨(0x1030cc) * 64 + 1, 1, 0⟩

/-! ### LAT_WIN (R703; fields: spec/18_latch_trail.md, Set-up registers) -/
def F.LAT_WIN_EN : Field := ⟨(0x140000) * 64 + 0, 1, 0⟩
def F.LAT_WIN_SPACE : Field := ⟨(0x140000) * 64 + 1, 1, 0⟩
def F.LAT_WIN_BASE : Field := ⟨(0x140000) * 64 + 15, 49, 0⟩

/-! ### LAT_STAT (R703; fields: spec/18_latch_trail.md, Set-up registers) -/
def F.LAT_STAT_HPOISON_SEEN : Field := ⟨(0x140008) * 64 + 0, 1, 0⟩
def F.LAT_STAT_HPOISON_OVF : Field := ⟨(0x140008) * 64 + 1, 1, 0⟩
def F.LAT_STAT_OPS_WRAP : Field := ⟨(0x140008) * 64 + 2, 1, 0⟩
def F.LAT_STAT_WRAP_OVF : Field := ⟨(0x140008) * 64 + 3, 1, 0⟩

/-! ### LAT_OPS (R703; fields: spec/18_latch_trail.md, Set-up registers) -/
def F.LAT_OPS_COUNT : Field := ⟨(0x140010) * 64 + 0, 64, 0⟩

/-! ### LAT_WRAP (R703; fields: spec/18_latch_trail.md, Set-up registers) -/
def F.LAT_WRAP_COUNT : Field := ⟨(0x140018) * 64 + 0, 32, 0⟩

/-! ### LAT_HPOISON (R703; fields: spec/18_latch_trail.md, Set-up registers) -/
def F.LAT_HPOISON_COUNT : Field := ⟨(0x14001c) * 64 + 0, 32, 0⟩

/-! ### TRL_CTL (R703; fields: spec/18_latch_trail.md, Set-up registers) -/
def F.TRL_CTL_EN (i : Nat) : Field := ⟨(0x150000 + i * 0x100) * 64 + 0, 1, 1⟩
def F.TRL_CTL_RETRAIN (i : Nat) : Field := ⟨(0x150000 + i * 0x100) * 64 + 1, 1, 0⟩

/-! ### TRL_STAT (R703; fields: spec/18_latch_trail.md, Set-up registers) -/
def F.TRL_STAT_STATE (i : Nat) : Field := ⟨(0x150004 + i * 0x100) * 64 + 0, 3, 0⟩
def F.TRL_STAT_WIDTH (i : Nat) : Field := ⟨(0x150004 + i * 0x100) * 64 + 3, 1, 0⟩
def F.TRL_STAT_LANES (i : Nat) : Field := ⟨(0x150004 + i * 0x100) * 64 + 4, 4, 0⟩
def F.TRL_STAT_DOWN_SEEN (i : Nat) : Field := ⟨(0x150004 + i * 0x100) * 64 + 8, 1, 0⟩
def F.TRL_STAT_DEGRADE_SEEN (i : Nat) : Field := ⟨(0x150004 + i * 0x100) * 64 + 9, 1, 0⟩
def F.TRL_STAT_RESET_SEEN (i : Nat) : Field := ⟨(0x150004 + i * 0x100) * 64 + 10, 1, 0⟩
def F.TRL_STAT_EXCESS_SEEN (i : Nat) : Field := ⟨(0x150004 + i * 0x100) * 64 + 11, 1, 0⟩
def F.TRL_STAT_OVF (i : Nat) : Field := ⟨(0x150004 + i * 0x100) * 64 + 12, 5, 0⟩
def F.TRL_STAT_WRAP (i : Nat) : Field := ⟨(0x150004 + i * 0x100) * 64 + 17, 1, 0⟩
def F.TRL_STAT_WRAP_OVF (i : Nat) : Field := ⟨(0x150004 + i * 0x100) * 64 + 18, 1, 0⟩

/-! ### TRL_CRC (R703; fields: spec/18_latch_trail.md, Set-up registers) -/
def F.TRL_CRC_COUNT (i : Nat) : Field := ⟨(0x150008 + i * 0x100) * 64 + 0, 32, 0⟩

/-! ### TRL_REPLAY (R703; fields: spec/18_latch_trail.md, Set-up registers) -/
def F.TRL_REPLAY_COUNT (i : Nat) : Field := ⟨(0x15000c + i * 0x100) * 64 + 0, 32, 0⟩

/-! ### TRL_RETRAIN (R703; fields: spec/18_latch_trail.md, Set-up registers) -/
def F.TRL_RETRAIN_COUNT (i : Nat) : Field := ⟨(0x150010 + i * 0x100) * 64 + 0, 32, 0⟩

/-! ### TRL_DROP (R703; fields: spec/18_latch_trail.md, Set-up registers) -/
def F.TRL_DROP_COUNT (i : Nat) : Field := ⟨(0x150014 + i * 0x100) * 64 + 0, 32, 0⟩

/-! ### TRL_LANE_ERR (R703; fields: spec/18_latch_trail.md, Set-up registers) -/
def F.TRL_LANE_ERR_COUNT (i : Nat) : Field := ⟨(0x150018 + i * 0x100) * 64 + 0, 32, 0⟩

/-! ### TRL_TIME (R703; fields: spec/18_latch_trail.md, Set-up registers) -/
def F.TRL_TIME_OFF (i : Nat) : Field := ⟨(0x15001c + i * 0x100) * 64 + 0, 16, 0⟩
def F.TRL_TIME_DELAY (i : Nat) : Field := ⟨(0x15001c + i * 0x100) * 64 + 16, 16, 0⟩

/-! ### TRL_FLITS (R703; fields: spec/18_latch_trail.md, Set-up registers) -/
def F.TRL_FLITS_COUNT (i : Nat) : Field := ⟨(0x150020 + i * 0x100) * 64 + 0, 64, 0⟩

/-! ### TRL_WRAP (R703; fields: spec/18_latch_trail.md, Set-up registers) -/
def F.TRL_WRAP_COUNT (i : Nat) : Field := ⟨(0x150028 + i * 0x100) * 64 + 0, 32, 0⟩

/-! ### TRL_GCFG (R703; fields: spec/18_latch_trail.md, Set-up registers) -/
def F.TRL_GCFG_TIME_MS : Field := ⟨(0x150800) * 64 + 0, 8, 1⟩
def F.TRL_GCFG_LIMIT : Field := ⟨(0x150800) * 64 + 8, 8, 5⟩

/-! ### TRL_ROUTE (R703; fields: spec/18_latch_trail.md, Set-up registers) -/
def F.TRL_ROUTE_ROUTE0 : Field := ⟨(0x150804) * 64 + 0, 2, 0⟩
def F.TRL_ROUTE_ROUTE1 : Field := ⟨(0x150804) * 64 + 2, 2, 0⟩
def F.TRL_ROUTE_ROUTE2 : Field := ⟨(0x150804) * 64 + 4, 2, 0⟩
def F.TRL_ROUTE_ROUTE3 : Field := ⟨(0x150804) * 64 + 6, 2, 0⟩

/-! ### TRL_RING (R703; fields: spec/18_latch_trail.md, Set-up registers) -/
def F.TRL_RING_UP : Field := ⟨(0x150808) * 64 + 0, 4, 0⟩

/-! ### TRL_DMA_Q_BASE (R703; fields: spec/18_latch_trail.md, Set-up registers) -/
def F.TRL_DMA_Q_BASE_EN : Field := ⟨(0x150900) * 64 + 0, 1, 0⟩
def F.TRL_DMA_Q_BASE_OFFSET : Field := ⟨(0x150900) * 64 + 6, 17, 0⟩

/-! ### TRL_DMA_CTL (R703; fields: spec/18_latch_trail.md, Set-up registers) -/
def F.TRL_DMA_CTL_SKIP_US : Field := ⟨(0x150904) * 64 + 0, 16, 0x64⟩

/-! ### TRL_DMA_STAT (R703; fields: spec/18_latch_trail.md, Set-up registers) -/
def F.TRL_DMA_STAT_BUSY : Field := ⟨(0x150908) * 64 + 0, 1, 0⟩
def F.TRL_DMA_STAT_REFUSED_SEEN : Field := ⟨(0x150908) * 64 + 1, 1, 0⟩
def F.TRL_DMA_STAT_SKIP_SEEN : Field := ⟨(0x150908) * 64 + 2, 1, 0⟩
def F.TRL_DMA_STAT_LINK_SEEN : Field := ⟨(0x150908) * 64 + 3, 1, 0⟩
def F.TRL_DMA_STAT_OVF : Field := ⟨(0x150908) * 64 + 4, 2, 0⟩

/-! ### TRL_DMA_REFUSED (R703; fields: spec/18_latch_trail.md, Set-up registers) -/
def F.TRL_DMA_REFUSED_COUNT : Field := ⟨(0x15090c) * 64 + 0, 32, 0⟩

/-! ### TRL_DMA_SKIP (R703; fields: spec/18_latch_trail.md, Set-up registers) -/
def F.TRL_DMA_SKIP_COUNT : Field := ⟨(0x150910) * 64 + 0, 32, 0⟩

/-! ### TRL_DMA_HEAD (R703; fields: spec/18_latch_trail.md, Set-up registers) -/
def F.TRL_DMA_HEAD_INDEX : Field := ⟨(0x150918) * 64 + 0, 64, 0⟩

/-! ### TRL_DMA_LAST_JOB (R703; fields: spec/18_latch_trail.md, Set-up registers) -/
def F.TRL_DMA_LAST_JOB_ADDR : Field := ⟨(0x150920) * 64 + 0, 64, 0⟩

/-! ### FCU_STAT (R703; fields: spec/20_faults.md, Set-up registers) -/
def F.FCU_STAT_RECS : Field := ⟨(0x160000) * 64 + 0, 9, 0⟩
def F.FCU_STAT_MAXLEV : Field := ⟨(0x160000) * 64 + 9, 3, 0⟩
def F.FCU_STAT_ANY_SEEN : Field := ⟨(0x160000) * 64 + 12, 1, 0⟩
def F.FCU_STAT_FULL_SEEN : Field := ⟨(0x160000) * 64 + 13, 1, 0⟩
def F.FCU_STAT_ACK_BAD_SEEN : Field := ⟨(0x160000) * 64 + 14, 1, 0⟩
def F.FCU_STAT_LOST_OVF : Field := ⟨(0x160000) * 64 + 15, 1, 0⟩

/-! ### FCU_LOST (R703; fields: spec/20_faults.md, Set-up registers) -/
def F.FCU_LOST_COUNT : Field := ⟨(0x160004) * 64 + 0, 32, 0⟩

/-! ### FCU_ACK (R703; fields: spec/20_faults.md, Set-up registers) -/
def F.FCU_ACK_RECORD : Field := ⟨(0x160008) * 64 + 0, 8, 0⟩
def F.FCU_ACK_GO : Field := ⟨(0x160008) * 64 + 8, 1, 0⟩

/-! ### FCU_WDOG (R703; fields: spec/20_faults.md, Set-up registers) -/
def F.FCU_WDOG_PERIOD : Field := ⟨(0x160010) * 64 + 0, 8, 0x14⟩
def F.FCU_WDOG_KICK : Field := ⟨(0x160010) * 64 + 8, 1, 0⟩

/-! ### FCU_HALT_SRC (R703; fields: spec/20_faults.md, Set-up registers) -/
def F.FCU_HALT_SRC_CLASS : Field := ⟨(0x160020) * 64 + 0, 5, 0⟩
def F.FCU_HALT_SRC_ROW : Field := ⟨(0x160020) * 64 + 8, 8, 0⟩
def F.FCU_HALT_SRC_SOURCE : Field := ⟨(0x160020) * 64 + 16, 16, 0⟩

/-! ### FCU_HALT_TIME (R703; fields: spec/20_faults.md, Set-up registers) -/
def F.FCU_HALT_TIME_TIME : Field := ⟨(0x160028) * 64 + 0, 64, 0⟩

/-! ### FCU_INJECT (R703; fields: spec/20_faults.md, Set-up registers) -/
def F.FCU_INJECT_SOURCE : Field := ⟨(0x160030) * 64 + 0, 16, 0⟩
def F.FCU_INJECT_ROW : Field := ⟨(0x160030) * 64 + 16, 6, 0⟩
def F.FCU_INJECT_GO : Field := ⟨(0x160030) * 64 + 31, 1, 0⟩

/-! ### FCU_ROW (R703; fields: spec/20_faults.md, Set-up registers) -/
def F.FCU_ROW_N (i : Nat) : Field := ⟨(0x160104 + i * 0x4) * 64 + 0, 8, (rowN i)⟩
def F.FCU_ROW_W (i : Nat) : Field := ⟨(0x160104 + i * 0x4) * 64 + 8, 24, (rowW i)⟩

/-! ### FCU_REC_STAT (R703; fields: spec/20_faults.md, Set-up registers) -/
def F.FCU_REC_STAT_CLASS (i : Nat) : Field := ⟨(0x161000 + i * 0x40) * 64 + 0, 5, 0⟩
def F.FCU_REC_STAT_LEVEL (i : Nat) : Field := ⟨(0x161000 + i * 0x40) * 64 + 5, 3, 0⟩
def F.FCU_REC_STAT_SEEN (i : Nat) : Field := ⟨(0x161000 + i * 0x40) * 64 + 8, 1, 0⟩
def F.FCU_REC_STAT_LIVE (i : Nat) : Field := ⟨(0x161000 + i * 0x40) * 64 + 9, 1, 0⟩
def F.FCU_REC_STAT_OVF (i : Nat) : Field := ⟨(0x161000 + i * 0x40) * 64 + 10, 1, 0⟩
def F.FCU_REC_STAT_ROW (i : Nat) : Field := ⟨(0x161000 + i * 0x40) * 64 + 11, 6, 0⟩

/-! ### FCU_REC_SRC (R703; fields: spec/20_faults.md, Set-up registers) -/
def F.FCU_REC_SRC_SOURCE (i : Nat) : Field := ⟨(0x161004 + i * 0x40) * 64 + 0, 16, 0⟩

/-! ### FCU_REC_COUNT (R703; fields: spec/20_faults.md, Set-up registers) -/
def F.FCU_REC_COUNT_COUNT (i : Nat) : Field := ⟨(0x161008 + i * 0x40) * 64 + 0, 32, 0⟩

/-! ### FCU_REC_FIRST (R703; fields: spec/20_faults.md, Set-up registers) -/
def F.FCU_REC_FIRST_TIME (i : Nat) : Field := ⟨(0x161010 + i * 0x40) * 64 + 0, 64, 0⟩

/-! ### FCU_REC_LAST (R703; fields: spec/20_faults.md, Set-up registers) -/
def F.FCU_REC_LAST_TIME (i : Nat) : Field := ⟨(0x161018 + i * 0x40) * 64 + 0, 64, 0⟩

/-! ### FCU_REC_DETAIL (R703; fields: spec/20_faults.md, Set-up registers) -/
def F.FCU_REC_DETAIL_DETAIL (i : Nat) : Field := ⟨(0x161020 + i * 0x40) * 64 + 0, 128, 0⟩

/-! ### PWR_PACE_TARGET (R703; fields: spec/21_power_life.md, Set-up registers) -/
def F.PWR_PACE_TARGET_TARGET : Field := ⟨(0x170000) * 64 + 0, 11, 0x400⟩

/-! ### PWR_PACE_MEAS (R703; fields: spec/21_power_life.md, Set-up registers) -/
def F.PWR_PACE_MEAS_MEAS : Field := ⟨(0x170004) * 64 + 0, 11, 0⟩
def F.PWR_PACE_MEAS_SLOWEST : Field := ⟨(0x170004) * 64 + 12, 4, 0⟩

/-! ### PWR_PACE_STAT (R703; fields: spec/21_power_life.md, Set-up registers) -/
def F.PWR_PACE_STAT_CEIL_LIVE : Field := ⟨(0x170008) * 64 + 0, 1, 0⟩
def F.PWR_PACE_STAT_FLOOR_LIVE : Field := ⟨(0x170008) * 64 + 1, 1, 0⟩
def F.PWR_PACE_STAT_CEIL_SEEN : Field := ⟨(0x170008) * 64 + 2, 1, 0⟩

/-! ### PWR_VCORE (R703; fields: spec/21_power_life.md, Set-up registers) -/
def F.PWR_VCORE_MV : Field := ⟨(0x17000c) * 64 + 0, 10, 0x2EE⟩

/-! ### PWR_TJ (R703; fields: spec/21_power_life.md, Set-up registers) -/
def F.PWR_TJ_TJ : Field := ⟨(0x170010) * 64 + 0, 16, 0⟩

/-! ### PWR_STATE (R703; fields: spec/21_power_life.md, Set-up registers) -/
def F.PWR_STATE_STATE : Field := ⟨(0x170020) * 64 + 0, 2, 0⟩
def F.PWR_STATE_DEFER_LIVE : Field := ⟨(0x170020) * 64 + 2, 1, 0⟩
def F.PWR_STATE_ABANDON_SEEN : Field := ⟨(0x170020) * 64 + 3, 1, 0⟩
def F.PWR_STATE_DOZE_OVF : Field := ⟨(0x170020) * 64 + 4, 1, 0⟩

/-! ### PWR_WAKE_SRC (R703; fields: spec/21_power_life.md, Set-up registers) -/
def F.PWR_WAKE_SRC_CODE : Field := ⟨(0x170024) * 64 + 0, 3, 0⟩

/-! ### PWR_DOZE_TIMER (R703; fields: spec/21_power_life.md, Set-up registers) -/
def F.PWR_DOZE_TIMER_WAKE_AT : Field := ⟨(0x170028) * 64 + 0, 64, 0⟩

/-! ### PWR_ENTER_TIME (R703; fields: spec/21_power_life.md, Set-up registers) -/
def F.PWR_ENTER_TIME_TIME : Field := ⟨(0x170030) * 64 + 0, 64, 0⟩

/-! ### PWR_WAKE_TIME (R703; fields: spec/21_power_life.md, Set-up registers) -/
def F.PWR_WAKE_TIME_TIME : Field := ⟨(0x170038) * 64 + 0, 64, 0⟩

/-! ### PWR_DOZE_COUNT (R703; fields: spec/21_power_life.md, Set-up registers) -/
def F.PWR_DOZE_COUNT_COUNT : Field := ⟨(0x170040) * 64 + 0, 32, 0⟩

/-! ### PWR_RST (R703; fields: spec/21_power_life.md, Set-up registers) -/
def F.PWR_RST_CAUSE : Field := ⟨(0x170044) * 64 + 0, 3, 0⟩

/-! ### PWR_THERM (R703; fields: spec/21_power_life.md, Set-up registers) -/
def F.PWR_THERM_STAGE : Field := ⟨(0x170050) * 64 + 0, 2, 0⟩
def F.PWR_THERM_FAN_LOW_LIVE : Field := ⟨(0x170050) * 64 + 2, 1, 0⟩
def F.PWR_THERM_CAP_SEEN : Field := ⟨(0x170050) * 64 + 3, 1, 0⟩
def F.PWR_THERM_CAP : Field := ⟨(0x170050) * 64 + 4, 11, 0x7FF⟩
def F.PWR_THERM_DEMAND : Field := ⟨(0x170050) * 64 + 16, 11, 0x400⟩

/-! ### PWR_BUP (R703; fields: spec/21_power_life.md, Set-up registers) -/
def F.PWR_BUP_EID : Field := ⟨(0x170054) * 64 + 0, 8, 0⟩
def F.PWR_BUP_UART_LIVE : Field := ⟨(0x170054) * 64 + 8, 1, 0⟩
def F.PWR_BUP_DEBUG_OPEN : Field := ⟨(0x170054) * 64 + 9, 1, 0⟩

/-! ### PWR_SUPPLY (R703; fields: spec/21_power_life.md, Set-up registers) -/
def F.PWR_SUPPLY_SEN : Field := ⟨(0x170058) * 64 + 0, 2, 0⟩
def F.PWR_SUPPLY_VBANK : Field := ⟨(0x170058) * 64 + 2, 1, 1⟩
def F.PWR_SUPPLY_SV : Field := ⟨(0x170058) * 64 + 3, 1, 1⟩

/-! ### LCS_STATE (R703; fields: spec/21_power_life.md, Set-up registers) -/
def F.LCS_STATE_STATE : Field := ⟨(0x170100) * 64 + 0, 3, 0⟩
def F.LCS_STATE_PEND_LIVE : Field := ⟨(0x170100) * 64 + 3, 1, 0⟩
def F.LCS_STATE_TARGET : Field := ⟨(0x170100) * 64 + 4, 3, 0⟩

/-! ### LCS_PEND_TIME (R703; fields: spec/21_power_life.md, Set-up registers) -/
def F.LCS_PEND_TIME_TIME : Field := ⟨(0x170108) * 64 + 0, 64, 0⟩

/-! ### AUTH_STAT (R703; fields: spec/22_trust.md, Set-up registers) -/
def F.AUTH_STAT_BUSY : Field := ⟨(0x170200) * 64 + 0, 1, 0⟩
def F.AUTH_STAT_DONE_SEEN : Field := ⟨(0x170200) * 64 + 1, 1, 0⟩
def F.AUTH_STAT_RESULT : Field := ⟨(0x170200) * 64 + 2, 1, 0⟩
def F.AUTH_STAT_OVF : Field := ⟨(0x170200) * 64 + 3, 1, 0⟩

/-! ### AUTH_REFUSALS (R703; fields: spec/22_trust.md, Set-up registers) -/
def F.AUTH_REFUSALS_COUNT : Field := ⟨(0x170204) * 64 + 0, 32, 0⟩

/-! ### AUTH_SLOTS (R703; fields: spec/22_trust.md, Set-up registers) -/
def F.AUTH_SLOTS_LOADED : Field := ⟨(0x170208) * 64 + 0, 4, 0⟩

/-! ### AUTH_SERIAL (R703; fields: spec/22_trust.md, Set-up registers) -/
def F.AUTH_SERIAL_SERIAL : Field := ⟨(0x170210) * 64 + 0, 64, 0⟩

/-! ### AUTH_LAST (R703; fields: spec/22_trust.md, Set-up registers) -/
def F.AUTH_LAST_LAST (i : Nat) : Field := ⟨(0x170220 + i * 0x8) * 64 + 0, 64, 0⟩

/-! ### CFG_STAT (R703; fields: spec/22_trust.md, Set-up registers) -/
def F.CFG_STAT_LOCKED : Field := ⟨(0x180000) * 64 + 0, 1, 0⟩
def F.CFG_STAT_SRC : Field := ⟨(0x180000) * 64 + 1, 2, 0⟩
def F.CFG_STAT_RESULT : Field := ⟨(0x180000) * 64 + 3, 3, 0⟩
def F.CFG_STAT_MIGRATED_LIVE : Field := ⟨(0x180000) * 64 + 6, 1, 0⟩
def F.CFG_STAT_OVF : Field := ⟨(0x180000) * 64 + 7, 1, 0⟩

/-! ### CFG_SEQ (R703; fields: spec/22_trust.md, Set-up registers) -/
def F.CFG_SEQ_SEQ : Field := ⟨(0x180004) * 64 + 0, 32, 0⟩

/-! ### CFG_FORMAT (R703; fields: spec/22_trust.md, Set-up registers) -/
def F.CFG_FORMAT_RUN : Field := ⟨(0x180008) * 64 + 0, 16, 0⟩
def F.CFG_FORMAT_STORED : Field := ⟨(0x180008) * 64 + 16, 16, 0⟩

/-! ### CFG_SNAP (R703; fields: spec/22_trust.md, Set-up registers) -/
def F.CFG_SNAP_CRC : Field := ⟨(0x18000c) * 64 + 0, 32, 0⟩

/-! ### CFG_SKIP (R703; fields: spec/22_trust.md, Set-up registers) -/
def F.CFG_SKIP_COUNT : Field := ⟨(0x180010) * 64 + 0, 32, 0⟩

/-! ### FWU_SRC (R703; fields: spec/22_trust.md, Set-up registers) -/
def F.FWU_SRC_ADDR : Field := ⟨(0x180100) * 64 + 0, 64, 0⟩

/-! ### FWU_LEN (R703; fields: spec/22_trust.md, Set-up registers) -/
def F.FWU_LEN_BYTES : Field := ⟨(0x180108) * 64 + 0, 25, 0⟩

/-! ### FWU_CTL (R703; fields: spec/22_trust.md, Set-up registers) -/
def F.FWU_CTL_BANK : Field := ⟨(0x18010c) * 64 + 0, 1, 0⟩
def F.FWU_CTL_GO : Field := ⟨(0x18010c) * 64 + 8, 1, 0⟩
def F.FWU_CTL_ABORT : Field := ⟨(0x18010c) * 64 + 9, 1, 0⟩

/-! ### FWU_STAT (R703; fields: spec/22_trust.md, Set-up registers) -/
def F.FWU_STAT_STATE : Field := ⟨(0x180110) * 64 + 0, 3, 0⟩
def F.FWU_STAT_ACTIVE : Field := ⟨(0x180110) * 64 + 3, 1, 0⟩
def F.FWU_STAT_TRIAL_LIVE : Field := ⟨(0x180110) * 64 + 4, 1, 0⟩
def F.FWU_STAT_FALLBACK_SEEN : Field := ⟨(0x180110) * 64 + 5, 1, 0⟩

/-! ### FWU_ERR (R703; fields: spec/22_trust.md, Set-up registers) -/
def F.FWU_ERR_ERR : Field := ⟨(0x180114) * 64 + 0, 10, 0⟩

/-! ### FWU_BANK (R703; fields: spec/22_trust.md, Set-up registers) -/
def F.FWU_BANK_A : Field := ⟨(0x180118) * 64 + 0, 3, 0⟩
def F.FWU_BANK_B : Field := ⟨(0x180118) * 64 + 4, 3, 0⟩

/-! ### FWU_VER (R703; fields: spec/22_trust.md, Set-up registers) -/
def F.FWU_VER_VERSION (i : Nat) : Field := ⟨(0x180120 + i * 0x4) * 64 + 0, 32, 0⟩

/-! ### FWU_SVN (R703; fields: spec/22_trust.md, Set-up registers) -/
def F.FWU_SVN_SVN (i : Nat) : Field := ⟨(0x180128 + i * 0x4) * 64 + 0, 32, 0⟩

/-! ### FWU_FLOOR (R703; fields: spec/22_trust.md, Set-up registers) -/
def F.FWU_FLOOR_SVN : Field := ⟨(0x180130) * 64 + 0, 32, 0⟩

/-! ### The map used by whole-register accesses -/

/-- Registers of the map (R703), part 0. -/
def regMap0 : List RegFam := [
  ⟨0x0, [], 1, [⟨0, 2, .ro, .const 0, true, false⟩, ⟨4, 4, .ro, .const 2, false, false⟩]⟩,
  ⟨0x4, [], 1, [⟨0, 1, .ro, .const 0, true, false⟩, ⟨1, 2, .ro, .const 0, true, false⟩, ⟨3, 1, .ro, .const 0, true, false⟩]⟩,
  ⟨0x10, [], 1, [⟨0, 8, .rw, .const 0, true, false⟩, ⟨8, 8, .rw, .const 0, true, false⟩, ⟨16, 8, .rw, .const 0, true, false⟩, ⟨24, 8, .rw, .const 0, true, false⟩]⟩,
  ⟨0x14, [], 1, [⟨0, 4, .w1c, .const 0, true, false⟩, ⟨4, 1, .w1c, .const 0, true, false⟩, ⟨5, 1, .w1c, .const 0, true, false⟩]⟩,
  ⟨0x18, [], 1, [⟨2, 24, .ro, .const 0, true, false⟩, ⟨26, 1, .ro, .const 0, true, false⟩, ⟨27, 3, .ro, .const 0, true, false⟩]⟩,
  ⟨0x100, [], 1, [⟨0, 7, .rwl, .const 10, true, false⟩, ⟨8, 1, .w1p, .const 0, true, false⟩]⟩,
  ⟨0x108, [], 2, [⟨0, 64, .ro, .const 0, true, false⟩]⟩,
  ⟨0x110, [], 1, [⟨0, 1, .ro, .const 0, true, false⟩, ⟨1, 1, .w1c, .const 0, true, false⟩, ⟨16, 16, .ro, .const 0, true, false⟩]⟩,
  ⟨0x120, [], 1, [⟨0, 6, .ro, .const 0, true, false⟩, ⟨6, 1, .w1c, .const 0, true, false⟩]⟩,
  ⟨0x130, [], 2, [⟨25, 39, .dbg, .const 0, true, false⟩]⟩,
  ⟨0x10000, [(128, 0x40)], 2, [⟨6, 58, .rw, .const 0, true, false⟩]⟩,
  ⟨0x10008, [(128, 0x40)], 2, [⟨6, 58, .rw, .const 0, true, false⟩]⟩,
  ⟨0x10010, [(128, 0x40)], 1, [⟨0, 1, .rw, .const 0, true, false⟩, ⟨1, 1, .w1p, .const 0, true, false⟩, ⟨2, 2, .rw, .const 0, true, false⟩, ⟨16, 16, .rw, .const 0, true, false⟩]⟩,
  ⟨0x10014, [(128, 0x40)], 1, [⟨0, 17, .rw, .const 0, true, false⟩]⟩,
  ⟨0x10018, [(128, 0x40)], 1, [⟨0, 16, .rw, .const 0, true, false⟩, ⟨16, 16, .rw, .const 0, true, false⟩]⟩,
  ⟨0x1001c, [(128, 0x40)], 1, [⟨0, 16, .rw, .const 0x32, true, false⟩]⟩,
  ⟨0x10020, [(128, 0x40)], 1, [⟨0, 3, .ro, .const 0, true, false⟩]⟩,
  ⟨0x10024, [(128, 0x40)], 1, [⟨0, 32, .ro, .const 0, true, false⟩]⟩,
  ⟨0x10028, [(128, 0x40)], 1, [⟨0, 32, .ro, .const 0, true, false⟩]⟩,
  ⟨0x1002c, [(128, 0x40)], 1, [⟨0, 1, .w1c, .const 0, true, false⟩, ⟨1, 1, .w1c, .const 0, true, false⟩, ⟨2, 1, .w1c, .const 0, true, false⟩, ⟨3, 1, .w1c, .const 0, true, false⟩, ⟨4, 1, .w1c, .const 0, true, false⟩, ⟨5, 1, .w1c, .const 0, true, false⟩, ⟨6, 1, .w1c, .const 0, true, false⟩, ⟨7, 1, .w1c, .const 0, true, false⟩, ⟨8, 1, .w1c, .const 0, true, false⟩, ⟨9, 1, .w1c, .const 0, true, false⟩]⟩,
  ⟨0x10030, [(128, 0x40)], 1, [⟨0, 32, .rw, .const 0, true, false⟩]⟩,
  ⟨0x12000, [], 2, [⟨12, 52, .rw, .const 0, true, false⟩]⟩,
  ⟨0x12008, [], 1, [⟨0, 16, .rw, .const 0x64, true, false⟩, ⟨16, 8, .rw, .const 0x64, true, false⟩, ⟨24, 8, .rw, .const 1, true, false⟩]⟩,
  ⟨0x1200c, [], 1, [⟨0, 1, .w1c, .const 0, true, false⟩, ⟨1, 1, .w1c, .const 0, true, false⟩, ⟨2, 1, .w1c, .const 0, true, false⟩]⟩,
  ⟨0x12010, [], 1, [⟨0, 32, .rw, .const 0, true, false⟩]⟩,
  ⟨0x20000, [], 2, [⟨0, 64, .ro, .const 0, true, false⟩]⟩,
  ⟨0x20008, [], 1, [⟨0, 2, .ro, .const 0, true, false⟩, ⟨2, 1, .ro, .const 0, true, false⟩, ⟨3, 1, .ro, .const 0, true, false⟩, ⟨4, 1, .w1c, .const 0, true, false⟩, ⟨5, 1, .w1c, .const 0, true, false⟩]⟩,
  ⟨0x2000c, [], 1, [⟨0, 16, .ro, .const 0, true, false⟩]⟩,
  ⟨0x20010, [], 1, [⟨0, 16, .ro, .const 0, true, false⟩]⟩,
  ⟨0x20014, [], 1, [⟨0, 1, .w1p, .const 0, true, false⟩]⟩]

/-- Registers of the map (R703), part 1. -/
def regMap1 : List RegFam := [
  ⟨0x20018, [], 2, [⟨0, 64, .ro, .const 0, true, false⟩]⟩,
  ⟨0x20020, [(2, 0x8)], 1, [⟨0, 32, .rwl, .const 0, true, false⟩]⟩,
  ⟨0x20024, [(2, 0x8)], 1, [⟨0, 32, .rwl, .const 0, true, false⟩]⟩,
  ⟨0x20040, [(2, 0x10), (4, 0x4)], 1, [⟨0, 32, .rwl, .const 0, true, false⟩]⟩,
  ⟨0x30000, [(64, 0x40)], 1, [⟨0, 1, .ro, .const 0, true, false⟩, ⟨1, 1, .ro, .const 0, true, false⟩, ⟨2, 1, .w1c, .const 0, true, false⟩, ⟨3, 1, .w1c, .const 0, true, false⟩, ⟨4, 1, .ro, .const 0, true, false⟩, ⟨5, 1, .w1c, .const 0, true, false⟩, ⟨6, 1, .w1p, .const 0, true, false⟩, ⟨8, 8, .ro, .const 0, true, false⟩]⟩,
  ⟨0x30004, [(64, 0x40)], 1, [⟨0, 26, .ro, .const 0, true, false⟩]⟩,
  ⟨0x30008, [(64, 0x40)], 1, [⟨0, 26, .ro, .const 0, true, false⟩]⟩,
  ⟨0x30010, [(64, 0x40)], 2, [⟨0, 64, .ro, .const 0, true, false⟩]⟩,
  ⟨0x30018, [(64, 0x40)], 2, [⟨0, 64, .ro, .const 0, true, false⟩]⟩,
  ⟨0x30020, [(64, 0x40)], 2, [⟨0, 64, .ro, .const 0, true, false⟩]⟩,
  ⟨0x30028, [(64, 0x40)], 2, [⟨0, 64, .ro, .const 0, true, false⟩]⟩,
  ⟨0x32000, [], 1, [⟨0, 9, .rwl, .const 0x10, true, false⟩]⟩,
  ⟨0x32004, [], 1, [⟨0, 16, .rwl, .const 0x400, true, false⟩]⟩,
  ⟨0x32008, [], 1, [⟨0, 32, .rw, .const 0, true, false⟩]⟩,
  ⟨0x3200c, [], 1, [⟨0, 1, .w1c, .const 0, true, false⟩, ⟨1, 1, .w1c, .const 0, true, false⟩]⟩,
  ⟨0x34000, [(2, 0x100)], 1, [⟨0, 1, .rwl, .const 0, true, false⟩, ⟨1, 3, .rwl, .const 4, true, false⟩, ⟨16, 8, .rwl, .const 0x64, true, false⟩]⟩,
  ⟨0x34004, [(2, 0x100)], 1, [⟨0, 1, .ro, .const 0, true, false⟩, ⟨1, 1, .w1c, .const 0, true, false⟩, ⟨2, 1, .w1c, .const 0, true, false⟩, ⟨3, 3, .w1c, .const 0, true, false⟩]⟩,
  ⟨0x34008, [(2, 0x100)], 1, [⟨0, 32, .rw, .const 0, true, false⟩]⟩,
  ⟨0x3400c, [(2, 0x100)], 1, [⟨0, 32, .rw, .const 0, true, false⟩]⟩,
  ⟨0x34010, [(2, 0x100)], 1, [⟨0, 32, .rw, .const 0, true, false⟩]⟩,
  ⟨0x34040, [(2, 0x100), (4, 0x20)], 1, [⟨0, 6, .rwl, .const 0x2B, true, false⟩, ⟨6, 2, .rwl, .const 0, true, false⟩, ⟨8, 1, .rwl, .const 0, true, false⟩]⟩,
  ⟨0x34044, [(2, 0x100), (4, 0x20)], 1, [⟨0, 12, .rwl, .const 0, true, false⟩, ⟨16, 12, .rwl, .const 0, true, false⟩]⟩,
  ⟨0x34048, [(2, 0x100), (4, 0x20)], 1, [⟨0, 12, .rwl, .const 0, true, false⟩, ⟨16, 12, .rwl, .const 0, true, false⟩]⟩,
  ⟨0x3404c, [(2, 0x100), (4, 0x20)], 1, [⟨0, 16, .rwl, .const 0x1000, true, false⟩, ⟨16, 16, .rwl, .const 0x1000, true, false⟩]⟩,
  ⟨0x34050, [(2, 0x100), (4, 0x20)], 1, [⟨0, 16, .rwl, .const 0x1000, true, false⟩, ⟨16, 16, .rwl, .const 0x1000, true, false⟩]⟩,
  ⟨0x36000, [(2, 0x800), (257, 0x4)], 1, [⟨0, 10, .rwl, .lut, true, false⟩]⟩,
  ⟨0x3c000, [(256, 0x4)], 1, [⟨0, 32, .rw, .const 0, true, false⟩]⟩,
  ⟨0x3d000, [(8, 0x4)], 1, [⟨0, 32, .w1c, .const 0, true, false⟩]⟩,
  ⟨0x40000, [], 1, [⟨0, 8, .rwl, .const 0x40, true, false⟩, ⟨8, 7, .rwl, .const 0x32, true, false⟩, ⟨15, 1, .rwl, .const 0, true, false⟩, ⟨16, 7, .rwl, .const 0x64, true, false⟩]⟩,
  ⟨0x40010, [(6, 0x4)], 1, [⟨0, 16, .ro, .const 0, true, false⟩, ⟨16, 7, .ro, .const 0, true, false⟩]⟩]

/-- Registers of the map (R703), part 2. -/
def regMap2 : List RegFam := [
  ⟨0x40030, [], 1, [⟨0, 16, .ro, .const 0, true, false⟩]⟩,
  ⟨0x41000, [(64, 0x20)], 1, [⟨0, 2, .ro, .const 0, true, false⟩, ⟨2, 3, .ro, .const 0, true, false⟩, ⟨5, 3, .ro, .const 0, true, false⟩, ⟨8, 1, .ro, .const 0, true, false⟩]⟩,
  ⟨0x41004, [(64, 0x20)], 1, [⟨0, 1, .w1c, .const 0, true, false⟩, ⟨1, 1, .w1c, .const 0, true, false⟩, ⟨2, 1, .w1c, .const 0, true, false⟩, ⟨3, 1, .w1c, .const 0, true, false⟩, ⟨4, 1, .w1c, .const 0, true, false⟩, ⟨5, 1, .w1c, .const 0, true, false⟩, ⟨6, 1, .w1c, .const 0, true, false⟩, ⟨7, 1, .w1c, .const 0, true, false⟩, ⟨8, 1, .w1c, .const 0, true, false⟩, ⟨9, 1, .w1c, .const 0, true, false⟩]⟩,
  ⟨0x41008, [(64, 0x20)], 1, [⟨0, 16, .ro, .const 0, true, false⟩]⟩,
  ⟨0x4100c, [(64, 0x20)], 1, [⟨0, 32, .rw, .const 0, true, false⟩]⟩,
  ⟨0x41010, [(64, 0x20)], 1, [⟨0, 32, .rw, .const 0, true, false⟩]⟩,
  ⟨0x41014, [(64, 0x20)], 2, [⟨0, 64, .rw, .const 0, true, false⟩]⟩,
  ⟨0x4101c, [(64, 0x20)], 1, [⟨0, 32, .rw, .const 0, true, false⟩]⟩,
  ⟨0x50000, [], 1, [⟨0, 9, .ro, .const 0, true, false⟩, ⟨16, 7, .ro, .const 0, true, false⟩, ⟨23, 1, .ro, .const 0, true, false⟩]⟩,
  ⟨0x50004, [], 1, [⟨0, 1, .w1c, .const 0, true, false⟩, ⟨1, 1, .w1c, .const 0, true, false⟩, ⟨2, 1, .w1c, .const 0, true, false⟩, ⟨3, 1, .w1c, .const 0, true, false⟩, ⟨4, 1, .w1c, .const 0, true, false⟩, ⟨5, 1, .w1c, .const 0, true, false⟩, ⟨6, 1, .w1c, .const 0, true, false⟩, ⟨7, 1, .w1c, .const 0, true, false⟩, ⟨8, 1, .w1c, .const 0, true, false⟩, ⟨9, 1, .w1p, .const 0, true, false⟩]⟩,
  ⟨0x50008, [], 2, [⟨0, 64, .ro, .const 0, true, false⟩]⟩,
  ⟨0x50010, [], 1, [⟨0, 32, .rw, .const 0, true, false⟩]⟩,
  ⟨0x50014, [], 1, [⟨0, 9, .ro, .const 0, true, false⟩]⟩,
  ⟨0x50018, [], 2, [⟨0, 64, .rw, .const 0, true, false⟩]⟩,
  ⟨0x50020, [], 1, [⟨0, 32, .rw, .const 0, true, false⟩]⟩,
  ⟨0x60000, [(2, 0x4)], 1, [⟨0, 1, .rwl, .const 0, true, false⟩, ⟨1, 2, .rwl, .const 1, true, false⟩, ⟨3, 5, .rwl, .const 0x10, true, false⟩, ⟨8, 2, .rwl, .const 2, true, false⟩, ⟨16, 8, .rwl, .const 0, true, false⟩]⟩,
  ⟨0x60008, [], 1, [⟨0, 1, .rwl, .const 0, true, false⟩, ⟨16, 8, .rwl, .const 0, true, false⟩]⟩,
  ⟨0x6000c, [], 1, [⟨0, 3, .ro, .const 0, true, false⟩, ⟨3, 1, .w1c, .const 0, true, false⟩, ⟨4, 1, .w1c, .const 0, true, false⟩, ⟨5, 1, .w1c, .const 0, true, false⟩, ⟨6, 7, .ro, .const 0, true, false⟩]⟩,
  ⟨0x60010, [], 1, [⟨0, 8, .rwl, .const 0x10, true, false⟩]⟩,
  ⟨0x60014, [], 1, [⟨0, 32, .rw, .const 0, true, false⟩]⟩,
  ⟨0x60018, [], 1, [⟨0, 32, .rw, .const 0, true, false⟩]⟩,
  ⟨0x60100, [(32, 0x8)], 2, [⟨6, 58, .rwl, .const 0, true, false⟩]⟩,
  ⟨0x60200, [(48, 0x4)], 1, [⟨0, 18, .rwl, .coef, true, false⟩]⟩,
  ⟨0x68000, [], 1, [⟨0, 1, .rwl, .const 1, true, false⟩, ⟨1, 4, .rwl, .const 0xF, true, false⟩]⟩,
  ⟨0x68004, [], 1, [⟨0, 16, .rwl, .const 0xB000, true, false⟩, ⟨16, 16, .rwl, .const 0x5000, true, false⟩]⟩,
  ⟨0x68008, [], 1, [⟨0, 4, .rwl, .const 3, true, false⟩, ⟨4, 8, .rwl, .const 0x64, true, false⟩, ⟨12, 12, .rwl, .const 0x5DC, true, false⟩]⟩,
  ⟨0x6800c, [], 1, [⟨0, 14, .rwl, .const 0, true, false⟩, ⟨14, 2, .rwl, .const 0, true, false⟩, ⟨16, 10, .rwl, .const 0, true, false⟩, ⟨26, 4, .rwl, .const 0, true, false⟩, ⟨30, 1, .rwl, .const 0, true, false⟩]⟩,
  ⟨0x68010, [], 1, [⟨0, 8, .rwl, .const 0, true, false⟩]⟩,
  ⟨0x68014, [], 1, [⟨0, 2, .ro, .const 0, true, false⟩, ⟨2, 1, .ro, .const 0, true, false⟩, ⟨3, 1, .w1c, .const 0, true, false⟩, ⟨4, 1, .w1c, .const 0, true, false⟩, ⟨5, 1, .w1c, .const 0, true, false⟩, ⟨6, 1, .w1c, .const 0, true, false⟩, ⟨16, 16, .ro, .const 0, true, false⟩]⟩,
  ⟨0x68018, [], 1, [⟨0, 32, .rw, .const 0, true, false⟩]⟩]

/-- Registers of the map (R703), part 3. -/
def regMap3 : List RegFam := [
  ⟨0x68020, [], 2, [⟨0, 64, .ro, .const 0, true, false⟩]⟩,
  ⟨0x80100, [(16, 0x8)], 1, [⟨0, 2, .ro, .const 0, true, false⟩, ⟨2, 1, .ro, .const 0, true, false⟩, ⟨4, 15, .ro, .const 0, true, false⟩]⟩,
  ⟨0x80104, [(16, 0x8)], 1, [⟨0, 10, .ro, .const 0, true, false⟩, ⟨16, 11, .ro, .const 0, true, false⟩]⟩,
  ⟨0x80200, [], 1, [⟨0, 32, .rw, .const 0, true, false⟩]⟩,
  ⟨0x80204, [], 1, [⟨0, 1, .w1c, .const 0, true, false⟩]⟩,
  ⟨0x80f00, [], 1, [⟨0, 16, .ro, .const 0, true, false⟩, ⟨16, 1, .ro, .const 0, true, false⟩, ⟨17, 2, .ro, .const 0, true, false⟩, ⟨19, 2, .ro, .const 0, true, false⟩, ⟨21, 2, .ro, .const 0, true, false⟩, ⟨23, 1, .ro, .const 0, true, false⟩, ⟨24, 1, .ro, .const 0, true, false⟩, ⟨25, 1, .ro, .const 0, true, false⟩, ⟨26, 1, .ro, .const 0, true, false⟩, ⟨27, 1, .ro, .const 0, true, false⟩]⟩,
  ⟨0x80f04, [], 1, [⟨0, 32, .rw, .const 0, true, false⟩]⟩,
  ⟨0x80f08, [], 1, [⟨0, 1, .w1c, .const 0, true, false⟩, ⟨1, 1, .w1c, .const 0, true, false⟩, ⟨2, 1, .ro, .const 0, true, false⟩, ⟨4, 9, .ro, .const 0, true, false⟩]⟩,
  ⟨0x81000, [(12, 0x100)], 1, [⟨0, 13, .ro, .const 0, true, false⟩, ⟨16, 9, .ro, .const 0, true, false⟩]⟩,
  ⟨0x81004, [(12, 0x100)], 1, [⟨0, 13, .ro, .const 0, true, false⟩]⟩,
  ⟨0x81008, [(12, 0x100)], 1, [⟨0, 13, .rw, .const 0xE00, true, false⟩, ⟨16, 1, .w1p, .const 0, true, false⟩]⟩,
  ⟨0x8100c, [(12, 0x100)], 1, [⟨0, 1, .w1c, .const 0, true, false⟩, ⟨1, 1, .w1c, .const 0, true, false⟩, ⟨2, 1, .w1c, .const 0, true, false⟩, ⟨3, 1, .w1c, .const 0, true, false⟩, ⟨4, 1, .w1c, .const 0, true, false⟩, ⟨5, 1, .ro, .const 0, true, false⟩, ⟨6, 7, .ro, .const 0, true, false⟩, ⟨13, 7, .ro, .const 0, true, false⟩]⟩,
  ⟨0x81010, [(12, 0x100)], 2, [⟨0, 64, .ro, .const 0, true, false⟩]⟩,
  ⟨0x81018, [(12, 0x100)], 1, [⟨0, 32, .rw, .const 0, true, false⟩]⟩,
  ⟨0x8101c, [(12, 0x100)], 1, [⟨0, 32, .rw, .const 0, true, false⟩]⟩,
  ⟨0x81020, [(12, 0x100)], 1, [⟨0, 32, .rw, .const 0, true, false⟩]⟩,
  ⟨0x81024, [(12, 0x100)], 1, [⟨0, 32, .rw, .const 0, true, false⟩]⟩,
  ⟨0x81028, [(12, 0x100)], 1, [⟨0, 32, .rw, .const 0, true, false⟩]⟩,
  ⟨0x8102c, [(12, 0x100)], 1, [⟨0, 5, .w1c, .const 0, true, false⟩, ⟨5, 1, .w1c, .const 0, true, false⟩, ⟨6, 1, .w1c, .const 0, true, false⟩]⟩,
  ⟨0x81030, [(12, 0x100)], 2, [⟨0, 64, .rw, .const 0, true, false⟩]⟩,
  ⟨0x81038, [(12, 0x100)], 1, [⟨0, 32, .rw, .const 0, true, false⟩]⟩,
  ⟨0x81040, [(12, 0x100)], 4, [⟨0, 128, .ro, .const 0, true, false⟩]⟩,
  ⟨0x81050, [(12, 0x100)], 1, [⟨0, 1, .w1p, .const 0, true, false⟩]⟩,
  ⟨0x81060, [(12, 0x100)], 4, [⟨0, 128, .ro, .const 0, true, false⟩]⟩,
  ⟨0x81080, [(12, 0x100), (16, 0x4)], 1, [⟨0, 13, .ro, .const 0, true, false⟩, ⟨16, 13, .ro, .const 0, true, false⟩]⟩,
  ⟨0x82000, [], 1, [⟨0, 12, .rwl, .const 0xC0, true, false⟩]⟩,
  ⟨0x82004, [], 1, [⟨0, 13, .rw, .const 0xC00, true, false⟩]⟩,
  ⟨0x82008, [], 1, [⟨0, 32, .rw, .const 0, true, false⟩]⟩,
  ⟨0x82100, [(12, 0x20)], 1, [⟨0, 24, .ro, .const 0, true, false⟩]⟩,
  ⟨0x82104, [(12, 0x20)], 1, [⟨0, 24, .ro, .const 0, true, false⟩]⟩]

/-- Registers of the map (R703), part 4. -/
def regMap4 : List RegFam := [
  ⟨0x82108, [(12, 0x20)], 1, [⟨0, 1, .ro, .const 0, true, false⟩, ⟨1, 1, .w1c, .const 0, true, false⟩, ⟨2, 2, .w1c, .const 0, true, false⟩, ⟨4, 1, .w1c, .const 0, true, false⟩, ⟨5, 1, .w1p, .const 0, true, false⟩]⟩,
  ⟨0x82110, [(12, 0x20)], 2, [⟨0, 64, .rw, .const 0, true, false⟩]⟩,
  ⟨0x82118, [(12, 0x20)], 2, [⟨0, 64, .rw, .const 0, true, false⟩]⟩,
  ⟨0x83000, [], 1, [⟨0, 16, .rw, .const 0x64, true, false⟩, ⟨16, 16, .rw, .const 0x2710, true, false⟩]⟩,
  ⟨0x83004, [], 1, [⟨0, 1, .w1c, .const 0, true, false⟩, ⟨1, 1, .ro, .const 0, true, false⟩, ⟨2, 1, .w1c, .const 0, true, false⟩, ⟨3, 1, .w1c, .const 0, true, false⟩, ⟨4, 3, .w1c, .const 0, true, false⟩, ⟨8, 4, .ro, .const 0, true, false⟩]⟩,
  ⟨0x83008, [], 1, [⟨0, 32, .rw, .const 0, true, false⟩]⟩,
  ⟨0x8300c, [], 1, [⟨0, 32, .rw, .const 0, true, false⟩]⟩,
  ⟨0x83010, [], 1, [⟨0, 32, .rw, .const 0, true, false⟩]⟩,
  ⟨0x83018, [], 2, [⟨0, 64, .ro, .const 0, true, false⟩]⟩,
  ⟨0x83020, [], 4, [⟨0, 128, .ro, .const 0, true, false⟩]⟩,
  ⟨0x83800, [], 1, [⟨0, 16, .rw, .const 0x3E8, true, false⟩]⟩,
  ⟨0x83804, [], 1, [⟨0, 1, .ro, .const 0, true, false⟩, ⟨1, 1, .w1c, .const 0, true, false⟩, ⟨2, 4, .w1c, .const 0, true, false⟩, ⟨6, 1, .w1c, .const 0, true, false⟩]⟩,
  ⟨0x83810, [], 2, [⟨0, 64, .rw, .const 0, true, false⟩]⟩,
  ⟨0x83818, [], 2, [⟨0, 64, .rw, .const 0, true, false⟩]⟩,
  ⟨0x83820, [], 2, [⟨0, 64, .rw, .const 0, true, false⟩]⟩,
  ⟨0x83828, [], 2, [⟨0, 64, .rw, .const 0, true, false⟩]⟩,
  ⟨0x83830, [], 1, [⟨0, 32, .rw, .const 0, true, false⟩]⟩,
  ⟨0x83834, [], 1, [⟨0, 32, .rw, .const 0, true, false⟩]⟩,
  ⟨0x84000, [(1024, 0x4)], 1, [⟨0, 4, .ro, .const 0, true, false⟩, ⟨4, 1, .ro, .const 0, true, false⟩]⟩,
  ⟨0x85000, [], 1, [⟨0, 20, .rwl, .const 0x400, true, false⟩, ⟨20, 1, .rwl, .const 0, true, false⟩]⟩,
  ⟨0x85100, [(12, 0x40)], 1, [⟨0, 1, .w1c, .const 0, true, false⟩, ⟨1, 1, .w1c, .const 0, true, false⟩, ⟨2, 4, .ro, .const 0, true, false⟩, ⟨6, 4, .ro, .const 0, true, false⟩, ⟨10, 4, .ro, .const 0, true, false⟩]⟩,
  ⟨0x85104, [(12, 0x40)], 1, [⟨0, 14, .ro, .const 0, true, false⟩, ⟨16, 10, .ro, .const 0, true, false⟩]⟩,
  ⟨0x85108, [(12, 0x40)], 1, [⟨0, 20, .ro, .const 0, true, false⟩]⟩,
  ⟨0x8510c, [(12, 0x40)], 1, [⟨0, 18, .ro, .const 0, true, false⟩]⟩,
  ⟨0x85110, [(12, 0x40)], 2, [⟨0, 64, .ro, .const 0, true, false⟩]⟩,
  ⟨0x85118, [(12, 0x40)], 1, [⟨0, 32, .rw, .const 0, true, false⟩]⟩,
  ⟨0x85120, [(12, 0x40)], 2, [⟨0, 64, .ro, .const 0, true, false⟩]⟩,
  ⟨0x86000, [], 1, [⟨0, 12, .rwl, .const 0x40, true, false⟩]⟩,
  ⟨0x86004, [], 1, [⟨0, 1, .ro, .const 0, true, false⟩, ⟨1, 1, .w1c, .const 0, true, false⟩, ⟨2, 2, .w1c, .const 0, true, false⟩]⟩,
  ⟨0x86008, [], 1, [⟨0, 32, .rw, .const 0, true, false⟩]⟩]

/-- Registers of the map (R703), part 5. -/
def regMap5 : List RegFam := [
  ⟨0x8600c, [], 1, [⟨0, 32, .rw, .const 0, true, false⟩]⟩,
  ⟨0x86010, [], 2, [⟨0, 64, .ro, .const 0, true, false⟩]⟩,
  ⟨0x86020, [], 1, [⟨0, 8, .rwl, .const 0, true, false⟩, ⟨8, 8, .rwl, .const 0, true, false⟩, ⟨16, 8, .rwl, .const 0, true, false⟩, ⟨24, 1, .rwl, .const 0, true, false⟩, ⟨25, 1, .rwl, .const 0, true, false⟩, ⟨26, 1, .rwl, .const 0, true, false⟩]⟩,
  ⟨0x86024, [], 1, [⟨0, 7, .rwl, .const 0x1E, true, false⟩, ⟨16, 16, .rwl, .const 0x3E8, true, false⟩]⟩,
  ⟨0x86028, [], 1, [⟨0, 32, .rw, .const 0, true, false⟩]⟩,
  ⟨0x8602c, [], 1, [⟨0, 1, .w1c, .const 0, true, false⟩, ⟨1, 1, .w1c, .const 0, true, false⟩, ⟨2, 1, .w1c, .const 0, true, false⟩]⟩,
  ⟨0x87000, [(256, 0x10)], 1, [⟨0, 2, .ro, .const 0, true, false⟩, ⟨4, 4, .ro, .const 0, true, false⟩, ⟨8, 11, .ro, .const 0, true, false⟩, ⟨19, 1, .w1c, .const 0, true, false⟩]⟩,
  ⟨0x87004, [(256, 0x10)], 1, [⟨0, 32, .ro, .const 0, true, false⟩]⟩,
  ⟨0x87008, [(256, 0x10)], 1, [⟨0, 32, .ro, .const 0, true, false⟩]⟩,
  ⟨0x8700c, [(256, 0x10)], 1, [⟨0, 32, .rw, .const 0, true, false⟩]⟩,
  ⟨0x88000, [], 1, [⟨0, 7, .rwl, .const 0x19, true, false⟩, ⟨16, 16, .rwl, .const 0x3E8, true, false⟩]⟩,
  ⟨0x88004, [], 1, [⟨0, 1, .ro, .const 0, true, false⟩, ⟨1, 1, .ro, .const 0, true, false⟩, ⟨2, 1, .ro, .const 0, true, false⟩, ⟨3, 1, .w1c, .const 0, true, false⟩, ⟨4, 1, .w1c, .const 0, true, false⟩, ⟨5, 2, .w1c, .const 0, true, false⟩]⟩,
  ⟨0x88100, [(4, 0x40)], 1, [⟨0, 3, .ro, .const 0, true, false⟩, ⟨4, 4, .ro, .const 0, true, false⟩, ⟨8, 4, .ro, .const 0, true, false⟩]⟩,
  ⟨0x88104, [(4, 0x40)], 1, [⟨0, 32, .ro, .const 0, true, false⟩]⟩,
  ⟨0x88108, [(4, 0x40)], 1, [⟨0, 32, .ro, .const 0, true, false⟩]⟩,
  ⟨0x88110, [(4, 0x40)], 2, [⟨0, 64, .ro, .const 0, true, false⟩]⟩,
  ⟨0x88118, [(4, 0x40)], 2, [⟨0, 64, .ro, .const 0, true, false⟩]⟩,
  ⟨0x88120, [(4, 0x40)], 1, [⟨0, 32, .rw, .const 0, true, false⟩]⟩,
  ⟨0x88124, [(4, 0x40)], 1, [⟨0, 32, .rw, .const 0, true, false⟩]⟩,
  ⟨0x88128, [(4, 0x40)], 2, [⟨0, 64, .ro, .const 0, true, false⟩]⟩,
  ⟨0xa0000, [(12, 0x1000)], 1, [⟨0, 5, .ro, .const 0, true, false⟩, ⟨5, 1, .ro, .const 0, true, false⟩, ⟨6, 1, .ro, .const 0, true, false⟩, ⟨7, 1, .ro, .const 0, true, true⟩, ⟨8, 4, .ro, .const 0, true, true⟩]⟩,
  ⟨0xa0004, [(12, 0x1000)], 1, [⟨0, 1, .w1c, .const 0, true, false⟩, ⟨1, 1, .w1c, .const 0, true, false⟩, ⟨2, 1, .w1c, .const 0, true, false⟩, ⟨3, 1, .w1c, .const 0, true, false⟩, ⟨4, 1, .w1c, .const 0, true, false⟩, ⟨5, 1, .w1c, .const 0, true, false⟩, ⟨6, 3, .w1c, .const 0, true, false⟩, ⟨9, 2, .w1c, .const 0, true, false⟩, ⟨11, 1, .w1c, .const 0, true, false⟩]⟩,
  ⟨0xa0008, [(12, 0x1000)], 1, [⟨0, 32, .rw, .const 0, true, false⟩]⟩,
  ⟨0xa000c, [(12, 0x1000)], 1, [⟨0, 32, .rw, .const 0, true, false⟩]⟩,
  ⟨0xa0010, [(12, 0x1000)], 1, [⟨0, 32, .rw, .const 0, true, false⟩]⟩,
  ⟨0xa0018, [(12, 0x1000)], 2, [⟨0, 64, .rw, .const 0, true, false⟩]⟩,
  ⟨0xa0020, [(12, 0x1000)], 2, [⟨0, 64, .rw, .const 0, true, false⟩]⟩,
  ⟨0xa0028, [(12, 0x1000)], 1, [⟨0, 32, .rw, .const 0, true, false⟩]⟩,
  ⟨0xa0030, [(12, 0x1000)], 2, [⟨0, 64, .ro, .const 0, true, false⟩]⟩,
  ⟨0xa0040, [(12, 0x1000)], 1, [⟨0, 1, .dbg, .const 0, true, false⟩, ⟨1, 1, .dbg, .const 0, true, false⟩, ⟨2, 6, .dbg, .const 0, true, false⟩, ⟨8, 5, .dbg, .const 0, true, false⟩]⟩]

/-- Registers of the map (R703), part 6. -/
def regMap6 : List RegFam := [
  ⟨0xa0048, [(12, 0x1000)], 2, [⟨0, 64, .dbg, .const 0, true, true⟩]⟩,
  ⟨0xb0000, [], 1, [⟨0, 1, .rwl, .const 0, true, false⟩, ⟨6, 17, .rwl, .const 0, true, false⟩]⟩,
  ⟨0xb0004, [], 1, [⟨0, 16, .rwl, .const 0x64, true, false⟩]⟩,
  ⟨0xb0008, [], 1, [⟨0, 1, .ro, .const 0, true, false⟩, ⟨1, 1, .w1c, .const 0, true, false⟩, ⟨2, 1, .w1c, .const 0, true, false⟩, ⟨3, 1, .w1c, .const 0, true, false⟩, ⟨4, 1, .w1c, .const 0, true, false⟩, ⟨5, 3, .w1c, .const 0, true, false⟩, ⟨8, 1, .w1c, .const 0, true, false⟩, ⟨9, 1, .w1c, .const 0, true, false⟩]⟩,
  ⟨0xb0010, [], 2, [⟨0, 64, .ro, .const 0, true, false⟩]⟩,
  ⟨0xb0018, [], 1, [⟨0, 32, .rw, .const 0, true, false⟩]⟩,
  ⟨0xb001c, [], 1, [⟨0, 32, .rw, .const 0, true, false⟩]⟩,
  ⟨0xb0020, [], 1, [⟨0, 32, .rw, .const 0, true, false⟩]⟩,
  ⟨0xb0028, [], 2, [⟨0, 64, .rw, .const 0, true, false⟩]⟩,
  ⟨0xb0030, [], 1, [⟨0, 32, .rw, .const 0, true, false⟩]⟩,
  ⟨0xb0038, [], 2, [⟨0, 64, .ro, .const 0, true, false⟩]⟩,
  ⟨0xb8000, [], 1, [⟨0, 1, .rwl, .const 0, true, false⟩, ⟨6, 17, .rwl, .const 0, true, false⟩]⟩,
  ⟨0xb8004, [], 1, [⟨0, 16, .rwl, .const 0x64, true, false⟩]⟩,
  ⟨0xb8008, [], 1, [⟨0, 1, .ro, .const 0, true, false⟩, ⟨1, 1, .w1c, .const 0, true, false⟩, ⟨2, 1, .w1c, .const 0, true, false⟩, ⟨3, 1, .w1c, .const 0, true, false⟩, ⟨4, 1, .w1c, .const 0, true, false⟩, ⟨5, 3, .w1c, .const 0, true, false⟩, ⟨8, 1, .w1c, .const 0, true, false⟩, ⟨9, 1, .w1c, .const 0, true, false⟩]⟩,
  ⟨0xb8010, [], 2, [⟨0, 64, .ro, .const 0, true, false⟩]⟩,
  ⟨0xb8018, [], 1, [⟨0, 32, .rw, .const 0, true, false⟩]⟩,
  ⟨0xb801c, [], 1, [⟨0, 32, .rw, .const 0, true, false⟩]⟩,
  ⟨0xb8020, [], 1, [⟨0, 32, .rw, .const 0, true, false⟩]⟩,
  ⟨0xb8028, [], 2, [⟨0, 64, .rw, .const 0, true, false⟩]⟩,
  ⟨0xb8030, [], 1, [⟨0, 32, .rw, .const 0, true, false⟩]⟩,
  ⟨0xb8038, [], 2, [⟨0, 64, .ro, .const 0, true, false⟩]⟩,
  ⟨0xb8040, [], 1, [⟨0, 13, .ro, .const 0, true, false⟩, ⟨16, 11, .ro, .const 0, true, false⟩]⟩,
  ⟨0xc0000, [], 1, [⟨0, 1, .rwl, .const 0, true, false⟩, ⟨6, 17, .rwl, .const 0, true, false⟩]⟩,
  ⟨0xc0004, [], 1, [⟨0, 16, .rwl, .const 0x64, true, false⟩]⟩,
  ⟨0xc0008, [], 1, [⟨0, 2, .ro, .const 0, true, false⟩, ⟨2, 1, .w1c, .const 0, true, false⟩, ⟨3, 1, .w1c, .const 0, true, false⟩]⟩,
  ⟨0xc000c, [], 1, [⟨0, 32, .ro, .const 0, true, false⟩]⟩,
  ⟨0xc0010, [], 1, [⟨0, 32, .rw, .const 0, true, false⟩]⟩,
  ⟨0xc0020, [(3, 0x4)], 1, [⟨0, 32, .rwl, .const 0, true, false⟩]⟩,
  ⟨0xc002c, [], 1, [⟨0, 10, .rwl, .const 0x12C, true, false⟩, ⟨10, 12, .rwl, .const 0x76C, true, false⟩]⟩,
  ⟨0xc0030, [], 1, [⟨0, 10, .rwl, .const 0x64, true, false⟩, ⟨10, 8, .rwl, .const 0x14, true, false⟩, ⟨18, 14, .rwl, .const 0x9C4, true, false⟩]⟩]

/-- Registers of the map (R703), part 7. -/
def regMap7 : List RegFam := [
  ⟨0xc0034, [], 1, [⟨0, 32, .rwl, .const 1, true, false⟩]⟩,
  ⟨0xc0038, [], 1, [⟨0, 32, .ro, .const 0, true, false⟩]⟩,
  ⟨0xc0100, [(8, 0x20), (3, 0x4)], 1, [⟨0, 32, .rwl, .const 0, true, false⟩]⟩,
  ⟨0xc010c, [(8, 0x20), (3, 0x4)], 1, [⟨0, 32, .rwl, .const 0, true, false⟩]⟩,
  ⟨0xc0118, [(8, 0x20)], 1, [⟨0, 1, .rwl, .const 0, true, false⟩]⟩,
  ⟨0xc1000, [(8, 0x100)], 1, [⟨0, 1, .rwl, .const 0, true, false⟩, ⟨1, 1, .rwl, .const 0, true, false⟩, ⟨2, 3, .rwl, .const 0, true, false⟩, ⟨5, 2, .rwl, .const 0, true, false⟩]⟩,
  ⟨0xc1004, [(8, 0x100)], 1, [⟨0, 32, .rwl, .const 0, true, false⟩]⟩,
  ⟨0xc1008, [(8, 0x100), (3, 0x4)], 1, [⟨0, 32, .rwl, .const 0, true, false⟩]⟩,
  ⟨0xc1014, [(8, 0x100)], 1, [⟨0, 32, .rwl, .const 0, true, false⟩]⟩,
  ⟨0xc1018, [(8, 0x100)], 1, [⟨0, 32, .rwl, .const 0, true, false⟩]⟩,
  ⟨0xc101c, [(8, 0x100)], 1, [⟨0, 32, .rwl, .const 0, true, false⟩]⟩,
  ⟨0xc1020, [(8, 0x100)], 1, [⟨0, 3, .ro, .const 0, true, false⟩, ⟨3, 1, .w1c, .const 0, true, false⟩]⟩,
  ⟨0xc1040, [(8, 0x100), (4, 0x20)], 1, [⟨0, 3, .rwl, .const 0, true, false⟩]⟩,
  ⟨0xc1044, [(8, 0x100), (4, 0x20)], 1, [⟨0, 32, .rwl, .const 0, true, false⟩]⟩,
  ⟨0xc1048, [(8, 0x100), (4, 0x20)], 1, [⟨0, 32, .rwl, .const 0, true, false⟩]⟩,
  ⟨0xc104c, [(8, 0x100), (4, 0x20)], 1, [⟨0, 32, .rwl, .const 0, true, false⟩]⟩,
  ⟨0xc1050, [(8, 0x100), (4, 0x20)], 1, [⟨0, 32, .rwl, .const 0, true, false⟩]⟩,
  ⟨0xc1054, [(8, 0x100), (4, 0x20)], 1, [⟨0, 32, .rwl, .const 0, true, false⟩]⟩,
  ⟨0xc1058, [(8, 0x100), (4, 0x20)], 1, [⟨0, 32, .rwl, .const 0, true, false⟩]⟩,
  ⟨0xc8000, [], 1, [⟨0, 7, .rwl, .const 0x10, true, false⟩, ⟨7, 3, .rwl, .const 5, true, false⟩, ⟨10, 10, .rwl, .const 0xFA, true, false⟩]⟩,
  ⟨0xc8004, [], 1, [⟨0, 8, .ro, .const 0, true, false⟩, ⟨8, 1, .ro, .const 1, true, false⟩, ⟨9, 1, .ro, .const 0, true, false⟩, ⟨10, 4, .ro, .const 0, true, false⟩, ⟨14, 5, .w1c, .const 0, true, false⟩]⟩,
  ⟨0xc8008, [], 1, [⟨0, 4, .ro, .const 0, true, false⟩, ⟨4, 4, .ro, .const 0, true, false⟩]⟩,
  ⟨0xc8010, [], 2, [⟨0, 64, .ro, .const 0, true, false⟩]⟩,
  ⟨0xc8020, [], 1, [⟨0, 32, .rw, .const 0, true, false⟩]⟩,
  ⟨0xc8024, [], 1, [⟨0, 32, .rw, .const 0, true, false⟩]⟩,
  ⟨0xc8028, [], 1, [⟨0, 32, .rw, .const 0, true, false⟩]⟩,
  ⟨0xc802c, [], 1, [⟨0, 32, .rw, .const 0, true, false⟩]⟩,
  ⟨0xc8030, [], 1, [⟨0, 32, .rw, .const 0, true, false⟩]⟩,
  ⟨0x100000, [(16, 0x4000)], 1, [⟨0, 1, .ro, .const 0, true, false⟩, ⟨1, 1, .ro, .const 0, true, false⟩, ⟨2, 1, .ro, .const 0, true, false⟩, ⟨3, 1, .ro, .const 0, true, false⟩, ⟨4, 1, .w1c, .const 0, true, false⟩, ⟨5, 1, .w1c, .const 0, true, false⟩, ⟨6, 1, .w1c, .const 0, true, false⟩, ⟨7, 6, .w1c, .const 0, true, false⟩, ⟨13, 2, .w1c, .const 0, true, false⟩, ⟨15, 1, .w1c, .const 0, true, false⟩]⟩,
  ⟨0x100004, [(16, 0x4000)], 1, [⟨0, 32, .rw, .const 0, true, false⟩]⟩]

/-- Registers of the map (R703), part 8. -/
def regMap8 : List RegFam := [
  ⟨0x100008, [(16, 0x4000)], 1, [⟨0, 32, .rw, .const 0, true, false⟩]⟩,
  ⟨0x10000c, [(16, 0x4000)], 1, [⟨0, 32, .rw, .const 0, true, false⟩]⟩,
  ⟨0x100010, [(16, 0x4000)], 1, [⟨0, 32, .rw, .const 0, true, false⟩]⟩,
  ⟨0x100014, [(16, 0x4000)], 1, [⟨0, 32, .rw, .const 0, true, false⟩]⟩,
  ⟨0x100018, [(16, 0x4000)], 1, [⟨0, 32, .rw, .const 0, true, false⟩]⟩,
  ⟨0x100020, [(16, 0x4000)], 2, [⟨0, 64, .ro, .const 0, true, false⟩]⟩,
  ⟨0x100028, [(16, 0x4000)], 1, [⟨0, 32, .ro, .const 0, true, false⟩]⟩,
  ⟨0x10002c, [(16, 0x4000)], 1, [⟨0, 2, .ro, .const 0, true, false⟩, ⟨2, 2, .ro, .const 0, true, false⟩]⟩,
  ⟨0x100030, [(16, 0x4000)], 2, [⟨0, 64, .ro, .const 0, true, false⟩]⟩,
  ⟨0x100038, [(16, 0x4000)], 1, [⟨0, 7, .ro, .const 0, true, false⟩, ⟨8, 7, .ro, .const 0, true, false⟩]⟩,
  ⟨0x10003c, [(16, 0x4000)], 1, [⟨0, 10, .ro, .const 0, true, false⟩]⟩,
  ⟨0x100040, [(16, 0x4000)], 1, [⟨0, 5, .ro, .const 0, true, false⟩, ⟨8, 5, .ro, .const 0, true, false⟩]⟩,
  ⟨0x100044, [(16, 0x4000)], 1, [⟨0, 25, .ro, .const 0, true, false⟩]⟩,
  ⟨0x100048, [(16, 0x4000)], 1, [⟨0, 32, .rw, .const 0, true, false⟩]⟩,
  ⟨0x100050, [(16, 0x4000), (2, 0x4)], 1, [⟨0, 32, .rw, .const 0, true, false⟩]⟩,
  ⟨0x100060, [(16, 0x4000)], 2, [⟨0, 64, .rw, .const 0, true, false⟩]⟩,
  ⟨0x100068, [(16, 0x4000)], 2, [⟨0, 64, .rw, .const 0, true, false⟩]⟩,
  ⟨0x100070, [(16, 0x4000)], 1, [⟨0, 32, .rw, .const 0, true, false⟩]⟩,
  ⟨0x103000, [], 1, [⟨0, 2, .rwl, .const 2, false, false⟩]⟩,
  ⟨0x103004, [], 1, [⟨0, 7, .rwl, .const 0x30, true, false⟩, ⟨8, 7, .rwl, .const 0x10, true, false⟩, ⟨16, 16, .rwl, .const 0x7D0, true, false⟩]⟩,
  ⟨0x103008, [], 1, [⟨0, 16, .rwl, .const 0x32, true, false⟩]⟩,
  ⟨0x10300c, [], 1, [⟨0, 5, .rwl, .const 0x18, true, false⟩]⟩,
  ⟨0x103010, [], 1, [⟨0, 16, .rwl, .const 0xC8, true, false⟩]⟩,
  ⟨0x103014, [], 1, [⟨0, 16, .rwl, .const 0x64, true, false⟩]⟩,
  ⟨0x103018, [], 2, [⟨0, 64, .ro, .const 0x348000000, true, false⟩]⟩,
  ⟨0x103020, [], 1, [⟨0, 16, .rwl, .const 0x40, true, false⟩, ⟨16, 16, .rwl, .const 0xE10, true, false⟩]⟩,
  ⟨0x103028, [], 2, [⟨0, 64, .ro, .const 0x348000000, true, false⟩]⟩,
  ⟨0x103040, [(32, 0x4)], 1, [⟨0, 3, .ro, .const 0, false, false⟩, ⟨4, 5, .ro, .const 0, false, false⟩]⟩,
  ⟨0x1030c0, [], 1, [⟨0, 5, .ro, .const 0, true, false⟩, ⟨8, 5, .ro, .const 0, true, false⟩, ⟨13, 1, .ro, .const 0, true, false⟩, ⟨14, 1, .w1c, .const 0, true, false⟩, ⟨15, 1, .w1c, .const 0, true, false⟩, ⟨16, 1, .w1c, .const 0, true, false⟩, ⟨17, 1, .w1c, .const 0, true, false⟩]⟩,
  ⟨0x1030c4, [], 1, [⟨0, 23, .ro, .const 0, true, false⟩]⟩]

/-- Registers of the map (R703), part 9. -/
def regMap9 : List RegFam := [
  ⟨0x1030c8, [], 1, [⟨0, 5, .rw, .const 0, true, false⟩, ⟨8, 1, .w1p, .const 0, true, false⟩]⟩,
  ⟨0x1030cc, [], 1, [⟨0, 1, .ro, .const 0, true, false⟩, ⟨1, 1, .ro, .const 0, true, false⟩]⟩,
  ⟨0x140000, [], 2, [⟨0, 1, .rwl, .const 0, true, false⟩, ⟨1, 1, .rwl, .const 0, true, false⟩, ⟨15, 49, .rwl, .const 0, true, false⟩]⟩,
  ⟨0x140008, [], 1, [⟨0, 1, .w1c, .const 0, true, false⟩, ⟨1, 1, .w1c, .const 0, true, false⟩, ⟨2, 1, .w1c, .const 0, true, false⟩, ⟨3, 1, .w1c, .const 0, true, false⟩]⟩,
  ⟨0x140010, [], 2, [⟨0, 64, .rw, .const 0, true, false⟩]⟩,
  ⟨0x140018, [], 1, [⟨0, 32, .rw, .const 0, true, false⟩]⟩,
  ⟨0x14001c, [], 1, [⟨0, 32, .rw, .const 0, true, false⟩]⟩,
  ⟨0x150000, [(2, 0x100)], 1, [⟨0, 1, .rwl, .const 1, true, false⟩, ⟨1, 1, .w1p, .const 0, true, false⟩]⟩,
  ⟨0x150004, [(2, 0x100)], 1, [⟨0, 3, .ro, .const 0, true, false⟩, ⟨3, 1, .ro, .const 0, true, false⟩, ⟨4, 4, .ro, .const 0, true, false⟩, ⟨8, 1, .w1c, .const 0, true, false⟩, ⟨9, 1, .w1c, .const 0, true, false⟩, ⟨10, 1, .w1c, .const 0, true, false⟩, ⟨11, 1, .w1c, .const 0, true, false⟩, ⟨12, 5, .w1c, .const 0, true, false⟩, ⟨17, 1, .w1c, .const 0, true, false⟩, ⟨18, 1, .w1c, .const 0, true, false⟩]⟩,
  ⟨0x150008, [(2, 0x100)], 1, [⟨0, 32, .rw, .const 0, true, false⟩]⟩,
  ⟨0x15000c, [(2, 0x100)], 1, [⟨0, 32, .rw, .const 0, true, false⟩]⟩,
  ⟨0x150010, [(2, 0x100)], 1, [⟨0, 32, .rw, .const 0, true, false⟩]⟩,
  ⟨0x150014, [(2, 0x100)], 1, [⟨0, 32, .rw, .const 0, true, false⟩]⟩,
  ⟨0x150018, [(2, 0x100)], 1, [⟨0, 32, .rw, .const 0, true, false⟩]⟩,
  ⟨0x15001c, [(2, 0x100)], 1, [⟨0, 16, .ro, .const 0, true, false⟩, ⟨16, 16, .ro, .const 0, true, false⟩]⟩,
  ⟨0x150020, [(2, 0x100)], 2, [⟨0, 64, .rw, .const 0, true, false⟩]⟩,
  ⟨0x150028, [(2, 0x100)], 1, [⟨0, 32, .rw, .const 0, true, false⟩]⟩,
  ⟨0x150800, [], 1, [⟨0, 8, .rwl, .const 1, true, false⟩, ⟨8, 8, .rwl, .const 5, true, false⟩]⟩,
  ⟨0x150804, [], 1, [⟨0, 2, .ro, .const 0, true, false⟩, ⟨2, 2, .ro, .const 0, true, false⟩, ⟨4, 2, .ro, .const 0, true, false⟩, ⟨6, 2, .ro, .const 0, true, false⟩]⟩,
  ⟨0x150808, [], 1, [⟨0, 4, .ro, .const 0, true, false⟩]⟩,
  ⟨0x150900, [], 1, [⟨0, 1, .rwl, .const 0, true, false⟩, ⟨6, 17, .rwl, .const 0, true, false⟩]⟩,
  ⟨0x150904, [], 1, [⟨0, 16, .rwl, .const 0x64, true, false⟩]⟩,
  ⟨0x150908, [], 1, [⟨0, 1, .ro, .const 0, true, false⟩, ⟨1, 1, .w1c, .const 0, true, false⟩, ⟨2, 1, .w1c, .const 0, true, false⟩, ⟨3, 1, .w1c, .const 0, true, false⟩, ⟨4, 2, .w1c, .const 0, true, false⟩]⟩,
  ⟨0x15090c, [], 1, [⟨0, 32, .rw, .const 0, true, false⟩]⟩,
  ⟨0x150910, [], 1, [⟨0, 32, .rw, .const 0, true, false⟩]⟩,
  ⟨0x150918, [], 2, [⟨0, 64, .ro, .const 0, true, false⟩]⟩,
  ⟨0x150920, [], 2, [⟨0, 64, .ro, .const 0, true, false⟩]⟩,
  ⟨0x160000, [], 1, [⟨0, 9, .ro, .const 0, true, false⟩, ⟨9, 3, .ro, .const 0, true, false⟩, ⟨12, 1, .ro, .const 0, true, false⟩, ⟨13, 1, .w1c, .const 0, true, false⟩, ⟨14, 1, .w1c, .const 0, true, false⟩, ⟨15, 1, .w1c, .const 0, true, false⟩]⟩,
  ⟨0x160004, [], 1, [⟨0, 32, .rw, .const 0, true, false⟩]⟩,
  ⟨0x160008, [], 1, [⟨0, 8, .rw, .const 0, true, false⟩, ⟨8, 1, .w1p, .const 0, true, false⟩]⟩]

/-- Registers of the map (R703), part 10. -/
def regMap10 : List RegFam := [
  ⟨0x160010, [], 1, [⟨0, 8, .rwl, .const 0x14, true, false⟩, ⟨8, 1, .w1p, .const 0, true, false⟩]⟩,
  ⟨0x160020, [], 1, [⟨0, 5, .ro, .const 0, false, false⟩, ⟨8, 8, .ro, .const 0, false, false⟩, ⟨16, 16, .ro, .const 0, false, false⟩]⟩,
  ⟨0x160028, [], 2, [⟨0, 64, .ro, .const 0, false, false⟩]⟩,
  ⟨0x160030, [], 1, [⟨0, 16, .dbg, .const 0, true, false⟩, ⟨16, 6, .dbg, .const 0, true, false⟩, ⟨31, 1, .dbg, .const 0, true, false⟩]⟩,
  ⟨0x160104, [(34, 0x4)], 1, [⟨0, 8, .rwl, .rowN, true, false⟩, ⟨8, 24, .rwl, .rowW, true, false⟩]⟩,
  ⟨0x161000, [(256, 0x40)], 1, [⟨0, 5, .ro, .const 0, true, false⟩, ⟨5, 3, .ro, .const 0, true, false⟩, ⟨8, 1, .ro, .const 0, true, false⟩, ⟨9, 1, .ro, .const 0, true, false⟩, ⟨10, 1, .ro, .const 0, true, false⟩, ⟨11, 6, .ro, .const 0, true, false⟩]⟩,
  ⟨0x161004, [(256, 0x40)], 1, [⟨0, 16, .ro, .const 0, true, false⟩]⟩,
  ⟨0x161008, [(256, 0x40)], 1, [⟨0, 32, .ro, .const 0, true, false⟩]⟩,
  ⟨0x161010, [(256, 0x40)], 2, [⟨0, 64, .ro, .const 0, true, false⟩]⟩,
  ⟨0x161018, [(256, 0x40)], 2, [⟨0, 64, .ro, .const 0, true, false⟩]⟩,
  ⟨0x161020, [(256, 0x40)], 4, [⟨0, 128, .ro, .const 0, true, false⟩]⟩,
  ⟨0x170000, [], 1, [⟨0, 11, .rwl, .const 0x400, true, false⟩]⟩,
  ⟨0x170004, [], 1, [⟨0, 11, .ro, .const 0, true, false⟩, ⟨12, 4, .ro, .const 0, true, false⟩]⟩,
  ⟨0x170008, [], 1, [⟨0, 1, .ro, .const 0, true, false⟩, ⟨1, 1, .ro, .const 0, true, false⟩, ⟨2, 1, .w1c, .const 0, true, false⟩]⟩,
  ⟨0x17000c, [], 1, [⟨0, 10, .ro, .const 0x2EE, true, false⟩]⟩,
  ⟨0x170010, [], 1, [⟨0, 16, .ro, .const 0, true, false⟩]⟩,
  ⟨0x170020, [], 1, [⟨0, 2, .ro, .const 0, true, false⟩, ⟨2, 1, .ro, .const 0, true, false⟩, ⟨3, 1, .w1c, .const 0, true, false⟩, ⟨4, 1, .w1c, .const 0, true, false⟩]⟩,
  ⟨0x170024, [], 1, [⟨0, 3, .ro, .const 0, true, false⟩]⟩,
  ⟨0x170028, [], 2, [⟨0, 64, .ro, .const 0, true, false⟩]⟩,
  ⟨0x170030, [], 2, [⟨0, 64, .ro, .const 0, true, false⟩]⟩,
  ⟨0x170038, [], 2, [⟨0, 64, .ro, .const 0, true, false⟩]⟩,
  ⟨0x170040, [], 1, [⟨0, 32, .rw, .const 0, true, false⟩]⟩,
  ⟨0x170044, [], 1, [⟨0, 3, .ro, .const 0, true, false⟩]⟩,
  ⟨0x170050, [], 1, [⟨0, 2, .ro, .const 0, true, false⟩, ⟨2, 1, .ro, .const 0, true, false⟩, ⟨3, 1, .w1c, .const 0, true, false⟩, ⟨4, 11, .ro, .const 0x7FF, true, false⟩, ⟨16, 11, .ro, .const 0x400, true, false⟩]⟩,
  ⟨0x170054, [], 1, [⟨0, 8, .ro, .const 0, false, false⟩, ⟨8, 1, .ro, .const 0, false, false⟩, ⟨9, 1, .ro, .const 0, true, false⟩]⟩,
  ⟨0x170058, [], 1, [⟨0, 2, .rwl, .const 0, true, false⟩, ⟨2, 1, .rwl, .const 1, true, false⟩, ⟨3, 1, .rwl, .const 1, true, false⟩]⟩,
  ⟨0x170100, [], 1, [⟨0, 3, .ro, .const 0, true, false⟩, ⟨3, 1, .ro, .const 0, true, false⟩, ⟨4, 3, .ro, .const 0, true, false⟩]⟩,
  ⟨0x170108, [], 2, [⟨0, 64, .ro, .const 0, true, false⟩]⟩,
  ⟨0x170200, [], 1, [⟨0, 1, .ro, .const 0, true, false⟩, ⟨1, 1, .w1c, .const 0, true, false⟩, ⟨2, 1, .ro, .const 0, true, false⟩, ⟨3, 1, .w1c, .const 0, true, false⟩]⟩,
  ⟨0x170204, [], 1, [⟨0, 32, .rw, .const 0, true, false⟩]⟩]

/-- Registers of the map (R703), part 11. -/
def regMap11 : List RegFam := [
  ⟨0x170208, [], 1, [⟨0, 4, .ro, .const 0, true, false⟩]⟩,
  ⟨0x170210, [], 2, [⟨0, 64, .ro, .const 0, true, false⟩]⟩,
  ⟨0x170220, [(4, 0x8)], 2, [⟨0, 64, .ro, .const 0, true, false⟩]⟩,
  ⟨0x180000, [], 1, [⟨0, 1, .ro, .const 0, true, false⟩, ⟨1, 2, .ro, .const 0, true, false⟩, ⟨3, 3, .ro, .const 0, true, false⟩, ⟨6, 1, .ro, .const 0, true, false⟩, ⟨7, 1, .w1c, .const 0, true, false⟩]⟩,
  ⟨0x180004, [], 1, [⟨0, 32, .ro, .const 0, true, false⟩]⟩,
  ⟨0x180008, [], 1, [⟨0, 16, .ro, .const 0, true, false⟩, ⟨16, 16, .ro, .const 0, true, false⟩]⟩,
  ⟨0x18000c, [], 1, [⟨0, 32, .ro, .const 0, true, false⟩]⟩,
  ⟨0x180010, [], 1, [⟨0, 32, .rw, .const 0, true, false⟩]⟩,
  ⟨0x180100, [], 2, [⟨0, 64, .rw, .const 0, true, false⟩]⟩,
  ⟨0x180108, [], 1, [⟨0, 25, .rw, .const 0, true, false⟩]⟩,
  ⟨0x18010c, [], 1, [⟨0, 1, .rw, .const 0, true, false⟩, ⟨8, 1, .w1p, .const 0, true, false⟩, ⟨9, 1, .w1p, .const 0, true, false⟩]⟩,
  ⟨0x180110, [], 1, [⟨0, 3, .ro, .const 0, true, false⟩, ⟨3, 1, .ro, .const 0, true, false⟩, ⟨4, 1, .ro, .const 0, true, false⟩, ⟨5, 1, .w1c, .const 0, true, false⟩]⟩,
  ⟨0x180114, [], 1, [⟨0, 10, .w1c, .const 0, true, false⟩]⟩,
  ⟨0x180118, [], 1, [⟨0, 3, .ro, .const 0, true, false⟩, ⟨4, 3, .ro, .const 0, true, false⟩]⟩,
  ⟨0x180120, [(2, 0x4)], 1, [⟨0, 32, .ro, .const 0, true, false⟩]⟩,
  ⟨0x180128, [(2, 0x4)], 1, [⟨0, 32, .ro, .const 0, true, false⟩]⟩,
  ⟨0x180130, [], 1, [⟨0, 32, .ro, .const 0, true, false⟩]⟩]

/-- Every register of BAR0 (R703). -/
def regMap : List RegFam :=
  regMap0 ++ regMap1 ++ regMap2 ++ regMap3 ++ regMap4 ++ regMap5 ++ regMap6 ++ regMap7 ++ regMap8 ++ regMap9 ++ regMap10 ++ regMap11

end Sys2Proof.Machine
end

