-- ==== Sys2Proof/Machine/State.lean ====
section
/-! DEFINITION. The state of the OL-4 tray: four Etrok chips, the Bupin and the supervisor, as plain data, and its value at
reset. Register fields live in each chip's table `regs` under the key of their field (Machine/Regs.lean), so that every
register has one home; what the structures below hold is the state the spec gives the blocks beside their registers. -/

namespace Sys2Proof.Machine

open Sys2Proof

/-! ## Stops -/

/-- Why the machine stops: never. Every error the manual describes has its effect on the state, and a command that finds nothing to
act on changes nothing. -/
inductive Fault where
  deriving DecidableEq, Repr

/-- Why a command is refused by the model itself. -/
inductive Refusal where
  /-- Raised by the dispatcher for a command that has no meaning yet. Safe: nothing is claimed of it. -/
  | notModelled (mnemonic : String)
  deriving DecidableEq, Repr

/-! ## What the block sends -/

/-- AER errors of R117. -/
inductive AerErr where
  | receiverError | badTlp | badDllp | replayRollover | replayTimeout
  | poisonedTlp | ecrc | unsupportedRequest | malformedTlp | unexpectedCompletion
  | completionTimeout | linkProtocol | flowControl | receiverOverflow | internalNonFatal | internalFatal
  deriving DecidableEq, Repr

/-- The message an AER error is reported with. -/
inductive AerMsg where
  | correctable | nonFatal | fatal
  deriving DecidableEq, Repr

/-- Completion status of a non-posted host request. -/
inductive CplStatus where
  | sc | ur | crs
  deriving DecidableEq, Repr

/-- What left the block, in order. DESIGN CHOICE (log entry 6): the log of sent items is the model's own state. -/
inductive Emit where
  | hostWrite (addr : Nat) (data : List Byte)
  /-- `ro`: with Relaxed Ordering (R97) -/
  | hostRead (addr len tag : Nat) (ro : Bool)
  | lnRead (addr len : Nat)
  | msix (vector : Nat)
  | aer (e : AerErr) (m : AerMsg)
  /-- a TLP that carries ECRC (R97) -/
  | ecrc (e : Emit)
  | cpl (st : CplStatus) (ep : Bool) (data : List Byte)
  | ptmRequest
  | pin (name : Nat) (level : Bool)
  | can (bus : Nat) (id : Nat) (data : List Byte)
  | flit (l : Nat) (bytes : List Byte)
  /-- a Wygus reply on SMBus, or on the service UART (R678) -/
  | mgmt (uart : Bool) (data : List Byte)
  /-- a PLDM or MCTP control reply: command, completion code and its fields, whose layout the standard gives (R674, R675) -/
  | pldm (uart : Bool) (cmd code : Nat) (vals : List Int)
  /-- an I²C transfer on the CCI port of a chip's sensor connector: 7-bit address and write data (R687) -/
  | cci (chip port addr : Nat) (data : List Byte)
  deriving DecidableEq, Repr

/-! ## Fault events -/

/-- A fault event on its way to the collector (R593): row of R592, source, detail and board time. -/
structure FaultEv where
  row : Nat
  source : Nat
  detail : Nat
  time : Nat
  deriving DecidableEq, Repr

/-! ## Host link (spec/04_host_link.md) -/

/-- HIF states of R121. -/
inductive HifState where
  | reset | starting | firmware | rom | halted
  deriving DecidableEq, Repr

/-- Why a chip read is outstanding. -/
inductive ReadUse where
  | doorbell (line : Nat)
  | descriptor (ring : Nat)
  | payload (kennel : Nat)
  | image (slot : Nat)
  | critical (ring : Nat)
  | job (ring : Nat)
  | container
  deriving DecidableEq, Repr

/-- A read request; `ln`: an LN Read. -/
structure ReadReq where
  tag : Nat
  use : ReadUse
  addr : Nat
  len : Nat
  ln : Bool
  deriving DecidableEq, Repr

/-- State of the PCIe function beside its BAR0 registers. -/
structure HostLink where
  state : HifState
  refclk : Bool
  linkUp : Bool
  linkWidth : Nat
  linkGen : Nat
  /-- configuration space dwords that software wrote (R118, R119) -/
  cfg : Tab Nat
  d3hot : Bool
  ptmEnable : Bool
  lnrEnable : Bool
  lnrCls : Bool
  lnrLimit : Nat
  lnRegs : List Nat
  /-- LN Messages held in the PCIe crossing while the chip is in Doze (R122), by line -/
  lnHeld : List Nat
  msixTab : Tab Nat
  pba : List Nat
  holdHostR : Tab Nat
  holdHostW : Tab Nat
  holdStewR : Tab Nat
  holdStewW : Tab Nat
  /-- the dialogue of the PTM exchange that runs: 1 or 2, and t1 of its request (R109) -/
  ptmDlg : Nat
  ptmT1 : Option Nat
  ptmCommitted : Bool
  ptmLast : Nat
  /-- requests outstanding, and those that wait for a free tag (R97) -/
  reads : List ReadReq
  readWait : List ReadReq
  nextTag : Nat
  aerCor : List AerErr
  aerUnc : List AerErr
  /-- BAR2 firmware image window, ROM mode (R105) -/
  image : Tab Byte
  /-- boot mailbox (R669): BM_LEN, STATE, REASON, and what the Bupin passed at reset: the floor and the refusal mark of RETIRED -/
  bmLen : Nat
  bmState : Nat
  bmReason : Nat
  bmFloor : Nat
  bmRetired : Bool
  deriving DecidableEq, Repr

/-- The host link of a chip held in reset. The link is down and the registration limit is that of R112.
(DESIGN CHOICE, log entry 3.) -/
def HostLink.reset : HostLink :=
  { state := .reset, refclk := true, linkUp := false, linkWidth := 0, linkGen := 0, cfg := [], d3hot := false,
    ptmEnable := false, lnrEnable := false, lnrCls := false, lnrLimit := 32, lnRegs := [], lnHeld := [], msixTab := [], pba := [],
    holdHostR := [], holdHostW := [], holdStewR := [], holdStewW := [], ptmDlg := 0, ptmT1 := none, ptmCommitted := false, ptmLast := 0,
    reads := [], readWait := [], nextTag := 0, aerCor := [], aerUnc := [], image := [], bmLen := 0, bmState := 0, bmReason := 0, bmFloor := 0,
    bmRetired := false }

/-! ## Crossings and clocks (spec/03_self_timed.md) -/

/-- States of a crossing FIFO (R92). -/
inductive XSt where
  | run | held | resetWait | resync
  deriving DecidableEq, Repr

/-- A request of one line at a DRAM channel (R505 to R508), as its command gives it. -/
inductive DramOp where
  | read (line : Nat) (e : LineErr)
  | write (line : Nat) (data : List Byte) (poison : Bool)
  | rmw (line : Nat) (o : Nat) (data : List Byte) (poison : Bool) (e : LineErr)
  deriving DecidableEq, Repr

/-- A request with its class (R511: of the Steward or the Coachman), whether the link's ECC corrects the transfer of its write (R510), and
the board time of its arrival. -/
structure DramReq where
  op : DramOp
  safety : Bool
  link : Bool
  at' : Nat
  deriving DecidableEq, Repr

/-- An entry of a crossing FIFO: something bound for the host, or a request bound for a DRAM channel. -/
inductive XItem where
  | emit (e : Emit)
  | dram (r : DramReq)
  deriving DecidableEq, Repr

/-- A crossing FIFO. `held`: the entries it has accepted and not delivered, oldest first; `wait`: writes whose handshake waits,
each with its writer's domain, and `last`: the writer granted last (R82); `stalled`: its 10 ms passed (R86). -/
structure Xing where
  src : Nat
  dst : Nat
  st : XSt
  bothReset : Bool
  held : List XItem
  wait : List (Nat × XItem)
  last : Nat
  stalled : Bool
  deriving DecidableEq, Repr

/-- A crossing that nothing has touched: in Run, with nothing held. -/
def Xing.fresh (src dst : Nat) : Xing := ⟨src, dst, .run, false, [], [], 0, false⟩

/-! ## Rings (spec/05_rings.md) -/

/-- A fetched descriptor with what its completion will report (R151). -/
structure Desc where
  idx : Nat
  bytes : List Byte
  started : Bool
  done : Bool
  status : Nat
  opcode : Nat
  cookie : Nat
  id : Nat
  nbytes : Nat
  detail : Nat
  detail64 : Nat
  poison : Bool
  irqNow : Bool
  deriving DecidableEq, Repr

structure Ring where
  typ : Nat
  gen : Nat
  size : Nat
  sqBase : Nat
  cqBase : Nat
  hostIdx : Nat
  fetching : Option (Nat × Nat)
  fetchIdx : Nat
  descs : List Desc
  unsig : Nat
  oldest : Nat
  lost : Nat
  lostFlows : List Nat
  lostFirst : Nat
  lostLast : Nat
  deriving DecidableEq, Repr

/-- DESIGN CHOICE, log entry 5. -/
def Ring.reset : Ring :=
  ⟨0, 0, 0, 0, 0, 0, none, 0, [], 0, 0, 0, [], 0, 0⟩

/-! ## Frames, streams, Kennels, sensor ports (spec/06_ingest.md) -/

/-- The frame stamp block of R189. -/
structure Stamp where
  stream : Nat
  src : Nat
  fflags : Nat
  frame : Nat
  stamp : Nat
  budget : Nat
  arrival : Nat
  deriving DecidableEq, Repr

/-- DESIGN CHOICE, log entry 5. -/
def Stamp.zero : Stamp := ⟨0, 0, 0, 0, 0, 0, 0⟩

/-- An open stream. `budgets` lists (from board time, budget in µs), newest first (R148 STREAM_SET). `unit` is its decode
session, or its beam set. `base` and `mib` are the flat address and size of a kind-2 stream's picture pool. -/
structure Stream where
  kind : Nat
  source : Nat
  maxW : Nat
  maxH : Nat
  maxBits : Nat
  fps : Nat
  budgets : List (Nat × Nat)
  graph : Nat
  flow : Nat
  unit : Nat
  base : Nat
  mib : Nat
  nextFrame : Nat
  /-- the stamps of its frames on the route: the chip's record of each frame (R56, R426) -/
  live : List Stamp
  /-- those of them that no STAMPED flow carries and whose picture or block Mosaic or the graph returned -/
  done : List Nat
  /-- the STREAM_CLOSE that waits: ring and index -/
  closing : Option (Nat × Nat)
  deriving DecidableEq, Repr

/-- A buffer record of a Kennel (R162) with its stamp, SRC and BUDGET (R167, R203); `hold`: stamped in HOLD (R182). -/
structure BufRec where
  start : Nat
  len : Nat
  pts : Nat
  bflags : Nat
  arrival : Nat
  poison : Bool
  stamp : Nat
  src : Nat
  budget : Nat
  hold : Bool
  deriving DecidableEq, Repr

/-- The BUF whose payload a Kennel takes: its ring and index, its host address and length, the bytes taken so far, and the
length of the read that is out. -/
structure Fill where
  ring : Nat
  idx : Nat
  addr : Nat
  len : Nat
  got : Nat
  reading : Nat
  pts : Nat
  bflags : Nat
  poison : Bool
  deriving DecidableEq, Repr

/-- State of a Kennel beside KEN_* registers. The mark is (M, N). `discont`: the next buffer carries DISCONT. `lastRead` and
`readEnd` are the answer of the last READ. -/
structure Kennel where
  mark : Option (Nat × Nat)
  recs : List BufRec
  discont : Bool
  /-- the READ that waits at R = W, with its length (R163) -/
  waitRead : Option Nat
  lastRead : List Byte
  readEnd : Bool
  fill : Option Fill
  deriving DecidableEq, Repr

/-- DESIGN CHOICE, log entry 5. -/
def Kennel.reset : Kennel := ⟨none, [], false, none, [], false, none⟩

/-- A frame being captured on a virtual channel: its lines as received or replaced, first line first, and which were good.
`gone`: it was dropped or discarded, and the rest of it is ignored. -/
structure CsiFrame where
  stream : Nat
  stamp : Stamp
  width : Nat
  lines : List (List Nat)
  good : List Bool
  concealed : Bool
  buffer : Nat
  gone : Bool
  deriving DecidableEq, Repr


/-! ## Video decode (spec/07_decode.md) -/

/-- A decoded picture of a session that has not reached output order; its samples lie in buffer `buf` of the session's
reservation. An entry with `skipped` stands for an access unit skipped at checkpoint 1 at age `age`, which keeps its place in
output order (R204). `drop`: decoded although stale at checkpoint 1 (R187). -/
structure DecPic where
  stamp : Stamp
  w : Nat
  h : Nat
  format : Nat
  buf : Nat
  skipped : Bool
  age : Nat
  drop : Bool
  /-- the offset at which its buffer starts, for EOS (R203) -/
  src : Nat
  deriving DecidableEq, Repr

/-- A decoded picture whose samples stand in buffer `buf` (R205, R206). -/
structure DecRef where
  buf : Nat
  format : Nat
  w : Nat
  h : Nat
  poison : Bool
  deriving DecidableEq, Repr

/-- The access unit an engine works on: bytes `start` to `start + len` of the session's Kennel. -/
structure CurAu where
  sess : Nat
  start : Nat
  len : Nat
  stamp : Stamp
  isRef : Bool
  stale : Bool
  /-- the pre-scan has ended, or there is none (R202) -/
  scanned : Bool
  rap : Bool
  /-- last access unit of a buffer with EOS -/
  eos : Bool
  /-- the offset at which its buffer starts -/
  src : Nat
  deriving DecidableEq, Repr

/-- A decode session beside its DEC_* registers. `load` is four times the admitted load (R198); `base` is the flat address
of the reservation, `bufBytes` the size of one buffer (R199). -/
structure Session where
  stream : Nat
  maxW : Nat
  maxH : Nat
  maxDpb : Nat
  maxBits : Nat
  codec : Nat
  fps : Nat
  engine : Nat
  load : Nat
  base : Nat
  bufBytes : Nat
  stride : Nat
  rows : Nat
  /-- (buffer start, access units begun in it), for the stamps of R203 -/
  auIndex : Nat × Nat
  /-- a buffer with DISCONT has begun and no picture was decoded since -/
  discont : Bool
  /-- in RESYNC, scanning since a buffer with RAP (R207) -/
  scan : Bool
  /-- the entries that await output, in output order (R204) -/
  awaiting : List DecPic
  /-- the buffers of pictures that are still referenced (R210) -/
  refs : List Nat
  /-- the pictures decoded into the buffers, the latest last (R205, R206) -/
  pics : List DecRef
  deriving DecidableEq, Repr

/-! ## Mosaic (spec/08_mosaic.md) -/

/-- A picture record held for Mosaic (R211, R220): plane addresses are flat. `sess` is the decode session, if any. -/
structure HeldPic where
  stamp : Stamp
  planes : List Nat
  w : Nat
  h : Nat
  stride : Nat
  format : Nat
  buf : Nat
  sess : Option Nat
  deriving DecidableEq, Repr

/-- A job queued at Mosaic: the block's address, or the recipe's bytes with the triggering stream and FRAME. -/
structure MosJob where
  slot : Nat
  addr : Nat
  recipe : Option (List Byte × Nat × Nat)
  deriving DecidableEq, Repr

/-- The job Mosaic runs: what its completion still has to do. `frames` and `release` list (stream, FRAME). -/
structure MosRun where
  slot : Nat
  token : BitVec 128
  frames : List (Nat × Nat)
  release : List (Nat × Nat)
  refused : Bool
  aborted : Bool
  deriving DecidableEq, Repr

/-- `stalled` holds submissions whose store waits for a full codelet queue, each with its core (R218). -/
structure Mosaic where
  recipes : List MosJob
  codelet : List MosJob
  stalled : List (Nat × MosJob)
  lastRecipe : Bool
  held : List HeldPic
  run : Option MosRun
  deriving DecidableEq, Repr

/-- DESIGN CHOICE, log entry 5. -/
def Mosaic.reset : Mosaic := ⟨[], [], [], false, [], none⟩

/-! ## Audio front end and Porch (spec/09_audio_porch.md) -/

/-- Log-mel settings (R263): RATE, OUTT, WIN, NFFT, HOP, NMEL, FMIN, FMAX, PREEMPH, FLOOR. -/
structure FeatSet where
  rate : Nat
  outt : Nat
  win : Nat
  nfft : Nat
  hop : Nat
  nmel : Nat
  fmin : Nat
  fmax : Nat
  preemph : Nat
  floor : Nat
  deriving DecidableEq, Repr

/-- Beam set settings read at open (R260). -/
structure BeamSet where
  base : Nat
  mode : Nat
  nbeams : Nat
  chmask : Nat
  block : Nat
  featBeams : Nat
  start : Nat
  target : Nat
  context : Nat
  feat : FeatSet
  deriving DecidableEq, Repr

/-- A block slot of a stream's pool: the flat address of its record, the stamp of the block it holds, and whether that
block's token was emitted. -/
structure BlockSlot where
  addr : Nat
  held : Option Stamp
  tokenSent : Bool
  deriving DecidableEq, Repr

/-- A block in progress (R245 to R247, R250): its first index, stamp block, pool slot (none: it was dropped for POOL, or its
slot went back) and page. -/
structure BlockRun where
  first : Nat
  stamp : Stamp
  slot : Option Nat
  page : Nat
  deriving DecidableEq, Repr

/-- An open audio stream. `first` is the first index of block 0, `nextBlock` that of the next block to start; `cur` lists the
blocks in progress, oldest first. `past` holds per beam the latest samples before those blocks, newest first. -/
structure AudStream where
  stream : Nat
  num : Nat
  bset : BeamSet
  base : Nat
  bytes : Nat
  slots : List BlockSlot
  first : Nat
  nextBlock : Nat
  cur : List BlockRun
  past : List (List (BitVec 32))
  discont : Bool
  deriving DecidableEq, Repr

/-- A feature job queued. -/
structure FeatJob where
  slot : Nat
  addr : Nat
  deriving DecidableEq, Repr

structure Audio where
  /-- per channel: samples with their indexes, newest first -/
  hist : Tab (List (Nat × BitVec 32))
  /-- PDM outputs since the clock started, at most 128 (R240) -/
  settle : Nat
  /-- per PDM channel: its input bits, 64 a period, the latest first (R240) -/
  pdm : Tab (List (BitVec 64))
  /-- an uncorrectable SRAM error was found in the history since the last block (R267) -/
  ecc : Bool
  streams : List AudStream
  fq : List FeatJob
  /-- submissions whose store waits for a full queue, each with its core (R251) -/
  fstalled : List (Nat × FeatJob)
  /-- the feature job run: its slot and token -/
  frun : Option (Nat × BitVec 128)
  deriving DecidableEq, Repr

/-- DESIGN CHOICE, log entry 5. -/
def Audio.reset : Audio := ⟨[], 0, [], false, [], [], [], none⟩

/-- A wake decision that waits for its handover (R258, R490): MICMASK, whether the tray was in Doze, PRC_WAKES, its time and
score. -/
structure WakeDec where
  mics : Nat
  doze : Bool
  wakes : Nat
  time : Nat
  score : Nat
  deriving DecidableEq, Repr

/-- Porch state beside PRC_* (R255 to R259). `ring` holds the mono samples with their indexes, newest first, at most 49,152.
`run` and `refract` count frames; `handover`: decisions that wait for their handover; `raised`: a decision waits for the Bupin
to forward it. -/
structure Porch where
  ring : List (Nat × BitVec 16)
  /-- per microphone: its input bits, 150 a period, the latest first (R255) -/
  mics : Tab (List (BitVec 150))
  run : Nat
  refract : Nat
  handover : List WakeDec
  raised : Bool
  /-- the ring holds a word with an uncorrectable SRAM error that no handover has read yet (R484) -/
  ecc : Bool
  deriving DecidableEq, Repr

/-- DESIGN CHOICE, log entry 5. -/
def Porch.reset : Porch := ⟨[], [], 0, 0, [], false, false⟩

/-! ## Graphs, Inn, Annex, detector, Guestbook (spec/02_route.md, spec/10_tokens_inn.md, spec/11_annex_guestbook.md) -/

/-- A node descriptor (R296). -/
structure NodeDesc where
  entry : Nat
  kind : Nat
  nports : Nat
  rooms : Nat
  ports : List Nat
  mcount : List Nat
  loop : Nat
  deriving DecidableEq, Repr

/-- A placement entry (R67). -/
structure Placement where
  chip : Nat
  pack : Nat
  peMask : Nat
  tensor : Bool
  deriving DecidableEq, Repr

/-- A flow table entry (R332). -/
structure FlowDecl where
  flow : Nat
  mode : Nat
  stream : Nat
  hold : Nat
  first : Nat
  deriving DecidableEq, Repr

/-- An installed graph (R295). -/
structure Graph where
  chips : Nat
  nnodes : Nat
  ctxBase : Nat
  ctxCount : Nat
  crc : Nat
  codeLen : Nat
  scratch : Nat
  nodes : List NodeDesc
  place : List Placement
  init : List (BitVec 128)
  recipes : List (List Byte)
  loops : List (Nat × Nat × Nat)
  flows : List FlowDecl
  /-- per pack (pack, SRAM offset of the code, SRAM offset of the scratch) -/
  base : List (Nat × Nat × Nat)
  deriving DecidableEq, Repr

/-- States of a graph slot (R298). -/
inductive SlotSt where
  | empty | loading | waiting | armed | aborting
  deriving DecidableEq, Repr

structure Slot where
  st : SlotSt
  graph : Option Graph
  /-- the GRAPH_LOAD that reads the image: ring and index -/
  load : Option (Nat × Nat)
  /-- the GRAPH_UNLOAD that waits for the abort -/
  unload : Option (Nat × Nat)
  /-- announcements received: chip, context base, context count, image CRC -/
  announced : List (Nat × Nat × Nat × Nat)
  /-- last dispatch of a firing, for R312 -/
  lastFiring : Nat
  /-- bits received for R315: (chip, activity, blocked) of the present interval -/
  activity : List (Nat × Bool × Bool)
  fired : Bool
  /-- blocked work has existed since the present interval began -/
  blocked : Bool
  /-- 10 µs intervals in a row without activity on any chip and with blocked work on some chip (R315) -/
  quiet : Nat
  deriving DecidableEq, Repr

/-- DESIGN CHOICE, log entry 5. -/
def Slot.reset : Slot := ⟨.empty, none, none, none, [], 0, [], false, false, 0⟩

/-- A room of the Inn (R299): its token, the contributions combined in it, whether it is a reserve room. -/
structure Room where
  tok : BitVec 128
  mc : Nat
  reserve : Bool
  since : Nat
  deriving DecidableEq, Repr

/-- A completed set: a firing that is READY, queued or running. -/
structure Firing where
  slot : Nat
  node : Nat
  ctx : Nat
  iter : Nat
  ops : List (BitVec 128)
  port : Nat
  prov : Bool
  poison : Bool
  /-- main-store and reserve rooms the READY set still holds -/
  rooms : Nat
  resv : Nat
  /-- held back by the loop bound (R309) -/
  gated : Bool
  deriving DecidableEq, Repr

/-- A verdict held in the verdict table (R326). -/
structure Verdict where
  node : Nat
  ctx : Nat
  iter : Nat
  confirm : Bool
  since : Nat
  acted : Bool
  deriving DecidableEq, Repr

/-- A kill-list entry (R325, R336). -/
structure KillEntry where
  slot : Nat
  node : Nat
  ctx : Nat
  iter : Nat
  dests : List (Nat × Nat × Nat)
  running : Option Nat
  steps : Nat
  deriving DecidableEq, Repr

/-- A token in the Annex: its contributions MC and the board time at which it spilled (R330). -/
structure AnxTok where
  tok : BitVec 128
  mc : Nat
  since : Nat
  deriving DecidableEq, Repr

/-- An Annex line in a bucket chain (R330); its bytes stand in DRAM as well. -/
structure AnxLine where
  idx : Nat
  set : Nat
  ents : List AnxTok
  deriving DecidableEq, Repr

/-- Sources of a pack's arbiter (R281): recalls, then the round-robin sources 0 to 19 in their order: PEs 0 to 15, the
tensor engine, the token network, the Trail router, the graph loader. -/
structure InnIn where
  /-- 0: not a recall; 1: targeted or recovery recall, which may lodge in the reserve; 2: background recall -/
  back : Nat
  src : Nat
  tok : BitVec 128
  /-- contributions combined in a recalled token of a merging port -/
  mc : Nat
  deriving DecidableEq, Repr

/-- The Inn, dispatcher and Annex region of one pack. -/
structure Inn where
  inputs : List InnIn
  rr : Nat
  rooms : List Room
  ready : List Firing
  dq : List Firing
  dups : List (BitVec 128)
  /-- spills that wait for a line, with their contributions -/
  spillWait : List (BitVec 128 × Nat)
  provWait : List (BitVec 128)
  verdicts : List Verdict
  klist : List KillEntry
  /-- open iterations: (slot, loop, context, count) -/
  loopOpen : List (Nat × Nat × Nat × Nat)
  /-- close notices on their way to this pack: slot, loop, context (R309) -/
  notices : List (Nat × Nat × Nat)
  /-- lines in the order they were taken, oldest first; lines freed, head of the free list first; first line never used -/
  annex : List AnxLine
  annexFree : List Nat
  annexNext : Nat
  /-- INN_SPILL was raised for the region being full, and no line has freed since (R303) -/
  fullRaised : Bool
  deriving DecidableEq, Repr

/-- DESIGN CHOICE, log entry 5. -/
def Inn.reset : Inn := ⟨[], 0, [], [], [], [], [], [], [], [], [], [], [], [], 0, false⟩

/-- A submission held or waiting at the Guestbook: envelope fields of R333 and the 64-byte record. -/
structure Submission where
  flow : Nat
  last : Bool
  part : Nat
  position : Nat
  stamp : Stamp
  stale : Bool
  arrived : Nat
  record : List Byte
  /-- number of the core whose store submits it; none for a fixed block -/
  core : Option Nat
  deriving DecidableEq, Repr

/-- A flow of the Guestbook beside its GBK_FLOW registers. -/
structure Flow where
  stream : Nat
  hold : Nat
  headSet : Bool
  held : List Submission
  waiting : List Submission
  /-- released records not yet written, with the ring bound when they were released (R148 FLOW_BIND, R495) -/
  released : List (Option Nat × List Byte)
  bound : Option Nat
  /-- positions that a stale drop closed: their later parts are discarded (R188, R319) -/
  dropped : List Nat
  deriving DecidableEq, Repr

/-- DESIGN CHOICE, log entry 5. -/
def Flow.reset : Flow := ⟨0, 0, true, [], [], [], none, []⟩

/-! ## Processing elements and the Steward (spec/12_codelet_isa.md) -/

/-- A level of the loop stack (R362). -/
structure LoopLvl where
  start : Nat
  stop : Nat
  count : Nat
  done : Nat
  deriving DecidableEq, Repr

/-- An action of a provisional firing that waits for its verdict (R327, R359), with the poison it carries. `addr` is the flat address of
the Steward map; a device word has its number. -/
inductive Deferred where
  | store (addr : Nat) (data : List Byte) (poison : Bool)
  | device (word : Nat) (v : Qword) (poison : Bool)
  | latch (lop : Nat) (addr : Nat) (v cmp : Qword) (poison : Bool)
  | emit (tok : BitVec 128)
  deriving DecidableEq, Repr

/-- States of a PE (R381). -/
inductive PeSt where
  | idle | running | draining
  deriving DecidableEq, Repr

/-- A PE, or the Steward pair. `port` and `vport` hold the operand and result ports under their location codes (R378);
unlisted ports read 0. -/
structure Core where
  st : PeSt
  firing : Option Firing
  pc : Nat
  g : Tab Qword
  v : Tab Vec
  p : BitVec 8
  port : Tab Qword
  vport : Tab Vec
  loops : List LoopLvl
  ret : List Qword
  spilled : Nat
  steps : Nat
  poison : Bool
  emitted : Nat
  deferred : List Deferred
  /-- an exception of a provisional firing that waits for the verdict: cause and address (R370) -/
  exc : Option (Nat × Nat)
  /-- the firing was stopped by a kill or an abort: later emissions are discarded (R381) -/
  aborted : Bool
  deriving DecidableEq, Repr

/-- DESIGN CHOICE, log entry 5. -/
def Core.reset : Core :=
  ⟨.idle, none, 0, [], [], 1, [], [], [], [], 0, 0, false, 0, [], none, false⟩

/-- The Steward beside its ports: both lockstep cores hold the same state (R372). -/
structure Steward where
  core : Core
  wfi : Bool
  halted : Bool
  ipend : BitVec 32
  /-- differences injected by the lockstep self-test: flagged ones (R608) -/
  selftest : Nat
  deriving DecidableEq, Repr

/-! ## Tensor engines (spec/13_tensor.md) -/

/-- A queued tensor command: its block address, the submitting slot and node's TENSOR bit. -/
structure TenCmd where
  addr : Nat
  slot : Nat
  tensor : Bool
  deriving DecidableEq, Repr

/-- The resolved flat addresses of a tensor command. -/
structure TenAddr where
  a : Nat
  b : Nat
  o : Nat
  cp : Nat
  tab : Nat
  stat : Nat
  deriving DecidableEq, Repr

/-- The command an engine runs, between two tiles (R394, R412). -/
structure TenRun where
  slot : Nat
  /-- its command block as read -/
  blk : List Byte
  addr : TenAddr
  /-- tiles done -/
  tile : Nat
  /-- a read of it returned poison, or a block was corrupt (R403) -/
  poison : Bool
  /-- corrupt blocks of B met so far (R400) -/
  corrupt : List Nat
  /-- bytes of the output image that compression has not written yet, with their poison, and blocks written (R401) -/
  img : Tab (Byte × Bool)
  zdone : Nat
  /-- statistics (MAX, SUM) of the positions of the present n-tile (R398) -/
  stats : Tab (Nat × Nat)
  deriving DecidableEq, Repr

/-- A tensor engine beside its TEN_* registers. `active` and `shadow` hold the accumulators at 32·m + n. -/
structure TenEng where
  queue : List TenCmd
  /-- submissions whose store waits for a full queue, each with its core (R387) -/
  stalled : List (Nat × TenCmd)
  run : Option TenRun
  active : Tab Nat
  shadow : Tab Nat
  /-- the engine's accumulators hold binary32 values -/
  float : Bool
  deriving DecidableEq, Repr

/-- DESIGN CHOICE, log entry 5. -/
def TenEng.reset : TenEng := ⟨[], [], none, [], [], false⟩

/-! ## Trail links and the DMA engine (spec/18_latch_trail.md) -/

/-- One Trail link of a chip beside its TRL_* registers. `txSeq` is the next SEQ, `expected` the SEQ the receiver accepts
next. `nak` is set until the next accepted flit; `nakTime` is when a flit with NAK last left. `replay` holds the flits
without acknowledgement, oldest first; `resend` those of them that still leave again; `nakAck` is the ACK value a NAK was
last answered for; `resends` counts them without progress. `credits` and `toReturn` go by CPOOL. `queues` and `waited` go by
virtual channel. `resume`: the link state of the last UP is held. `rx` is the TX and arrival of the last TIME flit, `excess`
the exchanges in a row beyond LIMIT. -/
structure Link where
  txSeq : Nat
  expected : Nat
  nak : Bool
  nakTime : Option Nat
  replay : List Flit
  resend : List Flit
  nakAck : Option Nat
  resends : Nat
  credits : List Nat
  toReturn : List Nat
  queues : List (List Flit)
  waited : List Nat
  attempts : Nat
  resume : Bool
  rx : Option (Nat × Nat)
  excess : Nat
  deriving DecidableEq, Repr

/-- Full credit counts of R545, by CPOOL = 2·VC + HOP. -/
def fullCredits : List Nat := [48, 16, 24, 8, 48, 16, 6, 2]

/-- DESIGN CHOICE, log entry 5. -/
def Link.reset : Link :=
  ⟨0, 0, false, none, [], [], none, 0, fullCredits, [0, 0, 0, 0, 0, 0, 0, 0], [[], [], [], []], [0, 0, 0, 0], 0, false,
    none, 0⟩

/-- A request of the running DMA job without its whole answer: tag, remote chip, flat address on this chip that its data goes
to, and the bytes missing. -/
structure DmaReq where
  tag : Nat
  chip : Nat
  dst : Nat
  left : Nat
  deriving DecidableEq, Repr

/-- The job the DMA engine runs: its graph slot, block, STATUS, whether data moved was poisoned, the bytes requested or moved so
far, and the requests that are out. -/
structure DmaRun where
  slot : Nat
  blk : List Byte
  status : Nat
  poison : Bool
  next : Nat
  reqs : List DmaReq
  deriving DecidableEq, Repr

/-- Trail state of a chip beside its links. `detour`: the two-hop destination is reached by link 1 although the other way is
preferred (R549); `marks` lists the virtual channels whose MARK has no answer yet. `badWrites` lists (source chip, tag) of
served WRITE requests with an address out of range whose LAST part is still to come. -/
structure Trail where
  l0 : Link
  l1 : Link
  detour : Bool
  markSerial : Nat
  marks : List Nat
  badWrites : List (Nat × Nat)
  dma : Option DmaRun
  deriving DecidableEq, Repr

/-- DESIGN CHOICE, log entry 5. -/
def Trail.reset : Trail := ⟨Link.reset, Link.reset, false, 0, [], [], none⟩

/-! ## Memory controller (spec/17_memory.md) -/

/-- The memory controller beside MEM_*. `record` is the retirement record that the Bupin keeps for this chip: STATE and SUBST of
each physical rank (R521). `queue`: ranks whose retirement waits (R518). `failed`: logical ranks, as 2c + r, that no physical rank
carries (R522). `ceTimes`: per physical rank, board times of the corrected errors since the window restarted, newest first.
`mr4`: per physical rank the last MR4 code of the refresh work. `postponed`: refreshes postponed per channel (R514). `deferred`:
per physical rank the intervals whose retraining step found no window (R516). `reads` and `writes`: the queues of each channel,
oldest first (R511); `draining`: channels whose writes go ahead of reads until WLO (R512); `openRow`: the row last accessed in
each bank. -/
structure MemCtl where
  record : List (Nat × Nat)
  queue : List Nat
  failed : List Nat
  ceTimes : Tab (List Nat)
  mr4 : Tab Nat
  postponed : Tab Nat
  deferred : Tab Nat
  reads : Tab (List DramReq)
  writes : Tab (List DramReq)
  draining : List Nat
  openRow : Tab Nat
  /-- lines a migration has copied, as the source holds them: DRAM offset, data, poison (R519, R520) -/
  copied : List (Nat × Nat × Bool)
  deriving DecidableEq, Repr

/-- A factory record: every physical rank ACTIVE under its own number but the two that SPARES 2 names.
(DESIGN CHOICE, log entries 3, 133.) -/
def MemCtl.factory : List (Nat × Nat) :=
  (List.range 32).map fun i => if i = 15 ∨ i = 31 then (1, 0) else (0, i)

/-- The controller after a reset that restores `record`. -/
def MemCtl.reset (record : List (Nat × Nat)) : MemCtl := ⟨record, [], [], [], [], [], [], [], [], [], [], []⟩

/-! ## Fault collector (spec/20_faults.md) -/

/-- State of the collector beside FCU_*: the windows of its records, index to (WS, WC), listed while open (R596), and the
slots whose CONTAIN reaction waits for the end of Doze (R600), and the board time of the last rearm of the Steward watchdog (R606).
-/
structure Fcu where
  wins : Tab (Nat × Nat)
  dozeAborts : List Nat
  kicked : Nat
  deriving DecidableEq, Repr

/-- DESIGN CHOICE, log entry 5. -/
def Fcu.reset : Fcu := ⟨[], [], 0⟩

/-! ## Coachman and Sentry (spec/15_coachman.md) -/

/-- A room track that counts as a person (R448): position in mm and velocity in mm/s. -/
structure Person where
  x : Int
  y : Int
  vx : Int
  vy : Int
  deriving DecidableEq, Repr

/-- An occupancy generation (R447, R449): number, list time, persons, whether every leaf is occupied, and the board time of
completion once it is complete. -/
structure OccGen where
  num : Nat
  t0 : Nat
  persons : List Person
  crowded : Bool
  done : Option Nat
  deriving DecidableEq, Repr

/-- A segment of a plan: `dur` ms from board time `t0`, one polynomial in τ per axis, lowest coefficient first (R451, R454).
-/
structure Seg where
  t0 : Nat
  dur : Nat
  coef : List (List Rat)
  /-- it is a stop (R454) -/
  halt : Bool
  deriving DecidableEq, Repr

/-- A sample at the Sentry: its time, axis positions and generation; `sent` once its frame has started. -/
structure Smp where
  time : Nat
  pos : List Int
  gen : Nat
  deriving DecidableEq, Repr

/-- The SETPOINT frame a head has queued: time of its first sample, and whether transmission started. -/
structure SetFrame where
  time : Nat
  data : List Byte
  deriving DecidableEq, Repr

/-- A head at the Coachman and the Sentry, beside COA_HSTAT. -/
structure Head where
  /-- pose held at rest -/
  rest : List Int
  segs : List Seg
  /-- stopping for a disable: DISABLED once at rest -/
  disabling : Bool
  /-- time of the next sample the Coachman hands over -/
  next : Nat
  /-- samples handed over and not transmitted, and the last ones transmitted, newest last -/
  queue : List Smp
  sent : List Smp
  frame : Option SetFrame
  seq : Nat
  /-- last STATUS: positions, measurement time, FAULT, whether it answered the last TIME frame -/
  reported : List Int
  statusTime : Nat
  fault : Bool
  answered : Bool
  /-- consecutive STATUS frames off by more than FOLLOW -/
  off : Nat
  deriving DecidableEq, Repr

/-- DESIGN CHOICE, log entry 5. -/
def Head.reset : Head := ⟨[], [], false, 0, [], [], none, 0, [], 0, false, false, 0⟩

/-- A job the Coachman has taken and not completed: OCC until its generation is complete. -/
structure CoaRun where
  token : BitVec 128
  slot : Nat
  /-- the OCC block, for the announcement of the generation -/
  blk : List Byte
  deriving DecidableEq, Repr

structure Coachman where
  heads : Tab Head
  /-- generations, newest first; only the newest few matter -/
  gens : List OccGen
  /-- list TIME of the last accepted OCC -/
  lastTime : Option Nat
  run : Option CoaRun
  /-- head index of the work queue, which has no register (R445) -/
  qhead : Nat
  /-- pieces of a MOTION message received so far -/
  pieces : List (Nat × List Byte)
  deriving DecidableEq, Repr

/-- DESIGN CHOICE, log entry 5. -/
def Coachman.reset : Coachman := ⟨[], [], none, none, 0, []⟩

/-- A CAN FD frame waiting on a bus. -/
structure CanFrame where
  id : Nat
  data : List Byte
  deriving DecidableEq, Repr

structure Sentry where
  /-- the last samples of loops A and B read open; the loop is open (R47) -/
  openA : Nat
  openB : Nat
  loopA : Bool
  loopB : Bool
  /-- the safe-stop channels conduct (R46) -/
  chanA : Bool
  chanB : Bool
  can0 : List CanFrame
  can1 : List CanFrame
  busOff0 : Bool
  busOff1 : Bool
  /-- start-of-frame stamp of the last TIME frame on each bus, and its SEQ -/
  prevSof : List Nat
  timeSeq : Nat
  stopSeq : Nat
  /-- batches are accepted from E2 (R465) -/
  fromE2 : Bool
  disabling : Bool
  rearm : Nat
  deriving DecidableEq, Repr

/-- DESIGN CHOICE, log entry 5. -/
def Sentry.reset : Sentry :=
  ⟨0, 0, false, false, false, false, [], [], false, false, [0, 0], 0, 0, false, false, 0⟩
/-! ## Sieve and Hound (spec/14_sieve_hound.md) -/

/-- The job a Sieve has run: what its completion emits, and for which slot. -/
structure SivRun where
  slot : Nat
  token : BitVec 128
  deriving DecidableEq, Repr

/-- Track states (R440) under their codes in a track entry (R437): 1 TENTATIVE, 2 CONFIRMED, 3 COASTING, 4 DELETED. -/
structure Track where
  slot : Nat
  id : Nat
  cls : Nat
  state : Nat
  cx : Int
  cy : Int
  w : Int
  h : Int
  vx : Int
  vy : Int
  hits : Nat
  misses : Nat
  age : Nat
  /-- the stamp it is predicted or updated to -/
  stamp : Nat
  /-- score of its last match, or of the detection it started from -/
  score : Nat
  poison : Bool
  deriving DecidableEq, Repr

/-- The tracks of a stream, in slot order, and the FRAME of the set's last job (R429, R430). -/
structure TrackSet where
  stream : Nat
  slot : Nat
  last : Option Nat
  tracks : List Track
  deriving DecidableEq, Repr

/-- A room track (R432): position in mm and velocity in mm/s. -/
structure RoomTrack where
  idx : Nat
  id : Nat
  cls : Nat
  state : Nat
  x : Int
  y : Int
  z : Int
  vx : Int
  vy : Int
  vz : Int
  nsrc : Nat
  hits : Nat
  misses : Nat
  age : Nat
  deriving DecidableEq, Repr

structure RoomSet where
  slot : Nat
  last : Option Nat
  tracks : List RoomTrack
  deriving DecidableEq, Repr

/-- The job a Hound has run: the tokens its completion emits, in order. -/
structure HndRun where
  slot : Nat
  tokens : List (BitVec 128)
  deriving DecidableEq, Repr

structure Hound where
  sets : List TrackSet
  rooms : Tab RoomSet
  /-- last serials given to tracks and room tracks (R429) -/
  serial : Nat
  roomSerial : Nat
  run : Option HndRun
  deriving DecidableEq, Repr

/-- DESIGN CHOICE, log entry 5. -/
def Hound.reset : Hound := ⟨[], [], 0, 0, none⟩

/-! ## Adaptation jobs (spec/19_adaptation.md) -/

/-- A job's place in its epochs (R573): the next position of the walk, the next INDEX and SERIAL, the open batch of each
bucket, and how many buckets the end of the epoch has passed. -/
structure Walk where
  epoch : Nat
  pos : Nat
  index : Nat
  serial : Nat
  opens : List (List Nat)
  bucket : Nat
  deriving DecidableEq, Repr

/-- A batch formed and not delivered: its samples by table index. -/
structure Built where
  epoch : Nat
  index : Nat
  bucket : Nat
  serial : Nat
  samples : List Nat
  part : Bool
  final : Bool
  deriving DecidableEq, Repr

/-- A job beside its ADP_* registers: its START block, its walk and the batch that this chip delivers next. -/
structure AdpJob where
  blk : List Byte
  walk : Walk
  built : Option Built
  deriving DecidableEq, Repr

/-- `hold`: board time up to which stale drops pause the feeder (R581). -/
structure Adapt where
  jobs : Tab AdpJob
  hold : Nat
  deriving DecidableEq, Repr

/-- DESIGN CHOICE, log entry 5. -/
def Adapt.reset : Adapt := ⟨[], 0⟩


/-! ## The Guestbook as a whole -/

structure Guestbook where
  flows : Tab Flow
  /-- submissions that wait for store space (R320) -/
  storeWait : List Submission
  healthStale : Nat
  healthSkips : Nat
  woke : Bool
  /-- FAULT records of events during Doze: flow and record (R494) -/
  dozeRecs : List (Nat × List Byte)
  deriving DecidableEq, Repr

/-- The Timekeeper beside TKP_* (R181, R184, R192): the error it still slews away, in ns (positive: it is ahead), and the
levels of sen_fsync. -/
structure Tkp where
  slew : Int
  fsync : List Bool
  deriving DecidableEq, Repr

/-- DESIGN CHOICE, log entry 5. -/
def Tkp.reset : Tkp := ⟨0, [false, false]⟩

/-! ## One chip -/

/-- Block state of a chip that belongs to media and rings. -/
structure Media where
  rings : Tab Ring
  streams : Tab Stream
  /-- FPS of the most recent opening of a stream (R480) -/
  lastFps : Tab Nat
  kennels : Tab Kennel
  /-- frames being captured, by 4·port + virtual channel -/
  csi : Tab CsiFrame
  sessions : Tab Session
  engines : Tab CurAu
  mosaic : Mosaic
  audio : Audio
  porch : Porch
  deriving DecidableEq, Repr

/-- Block state of a chip that belongs to graphs and codelets. -/
structure Fabric where
  slots : Tab Slot
  inns : Tab Inn
  gbk : Guestbook
  cores : Tab Core
  steward : Steward
  tens : Tab TenEng
  deriving DecidableEq, Repr

structure Chip where
  pos : ChipId
  regs : Tab Nat
  mem : List Host.Cell
  /-- poisoned granules: 64-byte lines of DRAM and the Common Room, 8-byte words of pack SRAM (R355), by first address -/
  poisoned : List Nat
  /-- what the chip has sent -/
  out : List Emit
  /-- fault events waiting at the collector -/
  faultQ : List FaultEv
  /-- number of free values drawn (the model's own field) -/
  draws : Nat
  tkp : Tkp
  /-- periods in a row with VDD_CORE at 0.85 V and MEAS below TARGET (R90) -/
  ceil : Nat
  hif : HostLink
  xings : List Xing
  media : Media
  fab : Fabric
  trail : Trail
  mc : MemCtl
  fcu : Fcu
  coa : Coachman
  sen : Sentry
  siv : Option SivRun
  hnd : Hound
  adp : Adapt
  /-- the POWER_REQ that waits for the Porch deferral: ring and index (R620) -/
  pw : Option (Nat × Nat)
  /-- board time of the last Doze request taken (R259) -/
  dozeAt : Nat
  /-- the pixel tap is enabled (R54) -/
  pixelTap : Bool
  /-- actions of W1P fields written in Doze to blocks without power, as (offset, value): they wait for the wake (R95) -/
  dozeActs : List (Nat × Nat)
  deriving DecidableEq, Repr

/-- DESIGN CHOICE, log entry 5. -/
def Guestbook.reset : Guestbook := ⟨[], [], 0, 0, false, []⟩

/-- DESIGN CHOICE, log entry 5. -/
def Media.reset : Media := ⟨[], [], [], [], [], [], [], Mosaic.reset, Audio.reset, Porch.reset⟩

/-- The Steward at its start (R372): the boot ROM, FIRM mode, IE 0. Its other ports start as those of a firing (R344), AR7 at the top
of its data stack. (DESIGN CHOICE, log entry 5.) -/
def Steward.reset : Steward :=
  ⟨{ Core.reset with st := .running, pc := 0x30000000, port := [(0x183, 0xFFFFFFFF), (0x1A7, 0x3F800), (0x220, 1)] }, false, false, 0#32, 0⟩

/-- DESIGN CHOICE, log entry 5. -/
def Fabric.reset : Fabric := ⟨[], [], Guestbook.reset, [], Steward.reset, []⟩

/-- Register fields that a reset loads from the board: the position strap (R24). (DESIGN CHOICE, log entry 3.) -/
def posRegs (pos : ChipId) : Tab Nat := Tab.set 0 [] F.HIF_ID_POS.key pos.val

/-- Chip `pos` held in reset, with the retirement record `record` (R521). (DESIGN CHOICE, log entry 3.) -/
def Chip.reset (pos : ChipId) (record : List (Nat × Nat)) : Chip :=
  { pos := pos, regs := posRegs pos, mem := [], poisoned := [], out := [], faultQ := [], draws := 0, tkp := Tkp.reset, ceil := 0,
    hif := HostLink.reset, xings := [], media := Media.reset, fab := Fabric.reset, trail := Trail.reset,
    mc := MemCtl.reset record, fcu := Fcu.reset, coa := Coachman.reset, sen := Sentry.reset, siv := none, hnd := Hound.reset,
    adp := Adapt.reset, pw := none, dozeAt := 0, pixelTap := false, dozeActs := [] }


/-! ## The tray and its Bupin (spec/01_tray.md, spec/21_power_life.md, spec/22_trust.md, spec/23_bupin.md) -/

/-- Supervision of 12 V (R49). -/
inductive Supply12 where
  | off | powered | held
  deriving DecidableEq, Repr

/-- A firmware bank (R644, R672): STATE is 0 EMPTY, 1 VALID, 2 PENDING, 3 TRIAL, 4 ACTIVE; VERSION, SVN and CFG_FORMAT of its
container and the header digest (R653). -/
structure Bank where
  st : Nat
  version : Nat
  svn : Nat
  cfgFormat : Nat
  digest : List Byte
  deriving DecidableEq, Repr

/-- DESIGN CHOICE, log entry 5. -/
def Bank.empty : Bank := ⟨0, 0, 0, 0, []⟩

/-- A log entry (R688). -/
structure LogEnt where
  time : Nat
  starts : Nat
  code : Nat
  chip : Nat
  data : List Byte
  deriving DecidableEq, Repr

/-- A log (R686): entries, oldest first; the next index to be written; entries overwritten. -/
structure BLog where
  ents : List LogEnt
  next : Nat
  lost : Nat
  deriving DecidableEq, Repr

/-- DESIGN CHOICE, log entry 5. -/
def BLog.reset : BLog := ⟨[], 0, 0⟩

/-- A critical command at the Bupin (R647): its source (0 to 3 for the chips, 4 for MCTP), the ring and index of its descriptor,
its bytes, whether it is a SECURE_LOG_READ, the transport of its reply, and the reason of its refusal, 0 for none. -/
structure AuthRun where
  src : Nat
  ring : Option (Nat × Nat)
  cmd : List Byte
  secure : Bool
  uart : Bool
  reason : Nat
  deriving DecidableEq, Repr

/-- A critical command that waits on MCTP. -/
structure MctpCmd where
  uart : Bool
  secure : Bool
  cmd : List Byte
  deriving DecidableEq, Repr

/-- The staging that runs (R655, R671): its bank, the chip whose FWU mailbox started it (none: PLDM, or the ROM), whether it
verifies already, the bytes taken and the transport. -/
structure Staging where
  bank : Nat
  chip : Option ChipId
  verifying : Bool
  data : List Byte
  uart : Bool
  deriving DecidableEq, Repr

/-- A connector supply: state 1 ON, 2 OFF, 3 TRIPPED (R679), what a SUPPLY message set (R32), and since when it is on. -/
structure ConnSupply where
  st : Nat
  force : Option Bool
  since : Nat
  deriving DecidableEq, Repr

/-- What the Bupin keeps for a chip: perst_n is asserted; the chip is held for a thermal trip or for VDD_CORE (R682, R683);
10 ms samples in a row at 120 °C or more; the board time up to which MEM_CAP applies (R681); the last values of its sensors. -/
structure BupChip where
  perst : Bool
  trip : Bool
  vcore : Bool
  hot : Nat
  memCap : Nat
  tj : Nat
  mv : Nat
  pace : Nat
  deriving DecidableEq, Repr

/-- DESIGN CHOICE, log entry 3. -/
def BupChip.reset : BupChip := ⟨true, false, false, 0, 0, 0, 0, 0⟩

/-- A platform event that waits for its poll (R675): sensor, number of the threshold crossed, whether the value went beyond it,
and the value. -/
structure SensorEvent where
  id : Nat
  threshold : Nat
  beyond : Bool
  value : Int
  deriving DecidableEq, Repr

/-- The tray beside its chips. `now` is board time. -/
structure Tray where
  now : Nat
  power : Supply12
  /-- cold starts since manufacture -/
  starts : Nat
  /-- pins as they stand, and as the last cold start sampled them (R50) -/
  pins : BootPins
  straps : BootPins
  /-- sv_present_n is low (R48) -/
  present : Bool
  /-- the Bupin runs its ROM recovery (R657) -/
  recovery : Bool
  /-- key slots Owner, Service, Motion, Recovery and their LAST (R645) -/
  keys : List (Option (List Byte))
  last : List Nat
  serial : Nat
  /-- life-cycle state; accepted change and its time (R633, R642) -/
  lcs : Nat
  lcsTarget : Option Nat
  lcsTime : Nat
  /-- banks A and B, the SVN floor, FALLBACK_SEEN's record (R654, R656) -/
  banks : List Bank
  floor : Nat
  fallback : Bool
  /-- chips that reached READY since the cold start, and those that owe FW_VERIFY for a fallback (R656) -/
  readied : List Nat
  owed : List Nat
  owedVersion : Nat
  /-- the power cycle of an FW_ACTIVATE with WHEN 1 is due -/
  cycleDue : Bool
  staging : Option Staging
  /-- image bytes taken by the ROM (R657) -/
  image : List Byte
  /-- configuration copies 0 and 1 as bytes (R668); empty: none -/
  copies : List (List Byte)
  /-- the selected copy was migrated in memory and is not written yet (R662) -/
  migrated : Bool
  /-- critical commands: waiting on MCTP, the source served last, the one in its 250 µs, accepted ones whose effect is to
  start, as (source, bytes) -/
  mctp : List MctpCmd
  lastSrc : Nat
  auth : Option AuthRun
  accepted : List (Nat × List Byte)
  log : BLog
  slog : BLog
  /-- PLDM: event receiver, events that wait, events lost, warning thresholds changed by sensor and place, and which
  thresholds each sensor is beyond -/
  receiver : Option Nat
  events : List SensorEvent
  lostEvents : Nat
  warn : Tab Int
  beyond : List Nat
  /-- last samples: 12 V in mV, input power in 0.1 W, fan in rpm, plate in 1/16 °C -/
  mv12 : Nat
  power12 : Nat
  rpm : Nat
  plate : Nat
  eid : Nat
  /-- OL4-AF: the fan condition of R681 holds; fan duty in 1/8 per cent -/
  fanLow : Bool
  duty : Nat
  supplies : List ConnSupply
  /-- PWR_SUPPLY of each chip as the Bupin follows it (R32) -/
  supReg : List Nat
  chips : List BupChip
  /-- tray_wake_n is driven low up to this board time -/
  wakeUntil : Option Nat
  /-- what the Bupin has sent or driven -/
  out : List Emit
  deriving DecidableEq, Repr

structure State where
  e0 : Chip
  e1 : Chip
  e2 : Chip
  e3 : Chip
  tray : Tray
  /-- commands waiting, first in, first out -/
  pending : List Instr
  deriving DecidableEq, Repr

/-! ## Reset -/

/-- PWR_SUPPLY at its reset value: SEN 0, VBANK 1, SV 1. (DESIGN CHOICE, log entry 3.) -/
def supplyReset : Nat := 12

/-- The state of connector supply `n` where every PWR_SUPPLY is at its reset value. (DESIGN CHOICE, log entry 3.) -/
def supplyAtReset (n : Nat) : ConnSupply := if n < 8 then ⟨2, none, 0⟩ else ⟨1, none, 0⟩

/-- The tray after its first cold start: powered, in BLANK with the Service and Recovery slots loaded, bank A active, no
configuration copy. Board time is 100 ms, the end of the qualification of 12 V (R628, R641). (DESIGN CHOICE, log entry 3.) -/
def Tray.reset : Tray :=
  { now := 100000000, power := .powered, starts := 1, pins := ⟨0, false, 0, false, false, false⟩,
    straps := ⟨0, false, 0, false, false, false⟩, present := false, recovery := false,
    keys := [none, some Config.serviceKey, none, some Config.recoveryKey], last := [0, 0, 0, 0], serial := 0, lcs := 0,
    lcsTarget := none, lcsTime := 0, banks := [⟨4, 0, 0, 0, []⟩, Bank.empty], floor := 0, fallback := false, readied := [],
    owed := [], owedVersion := 0, cycleDue := false, staging := none, image := [], copies := [[], []], migrated := false, mctp := [],
    lastSrc := 4, auth := none, accepted := [], log := BLog.reset, slog := BLog.reset, receiver := none, events := [],
    lostEvents := 0, warn := [], beyond := [], mv12 := 12000, power12 := 0, rpm := 0, plate := 0, eid := 0, fanLow := false,
    duty := 240, supplies := (List.range 13).map supplyAtReset, supReg := [supplyReset, supplyReset, supplyReset, supplyReset],
    chips := [BupChip.reset, BupChip.reset, BupChip.reset, BupChip.reset], wakeUntil := none, out := [] }

/-- The machine right after a cold start has begun: every chip held in reset, every register at its reset value, memory with
nothing listed, no command waiting. (DESIGN CHOICE, log entry 3.) -/
def State.reset : State :=
  { e0 := Chip.reset 0 MemCtl.factory, e1 := Chip.reset 1 MemCtl.factory, e2 := Chip.reset 2 MemCtl.factory,
    e3 := Chip.reset 3 MemCtl.factory, tray := Tray.reset, pending := [] }

end Sys2Proof.Machine
end

