-- ==== Sys2Proof/Machine/PcieCfg.lean ====
section
/-! DEFINITION. Configuration space (R97, R98, R117, R118) with the field layout of PCIe 4.0. -/

namespace Sys2Proof.Machine

open Sys2Proof

/-- Configuration dwords after reset: the values of R118, with PCIe 4.0's layout for the rest. The Uncorrectable Error Mask is 0:
R117 has Uncorrectable Internal Error reported. (DESIGN CHOICE, log entry 142.) -/
def cfgDefault (off : Nat) : Nat :=
  match off with
  | 0x00 => 0x48001E6B
  | 0x04 => 0x00100000
  | 0x08 => 0x12000002
  | 0x10 => 0x00000004
  | 0x18 => 0x0000000C
  | 0x2C => 0x00041E6B
  | 0x34 => 0x00000040
  | 0x40 => 0x00035001
  | 0x44 => 0x00000008
  | 0x50 => 0x00877011
  | 0x54 => 0x00008000
  | 0x58 => 0x00009000
  | 0x70 => 0x00020010
  | 0x74 => 0x10008021
  | 0x78 => 0x00002010
  | 0x7C => 0x00000844
  | 0x94 => 0x00000193
  | 0x9C => 0x0000001E
  | 0xA0 => 0x00000004
  | 0x100 => 0x14020001
  | 0x10C => 0x00462010
  | 0x114 => 0x00002000
  | 0x118 => 0x000000A0
  | 0x140 => 0x1501001F
  | 0x144 => 0x00000001
  | 0x150 => 0x1601001C
  | 0x154 => 0x1F000503
  | 0x160 => 0x18010019
  | 0x180 => 0x1C010026
  | 0x1C0 => 0x00010027
  | _ => 0

/-- Bits of a configuration dword that software writes (PCIe 4.0); those of AER errors that R117 does not implement read 0.
(DESIGN CHOICE, log entry 49.) -/
def cfgMask (off : Nat) : Nat :=
  match off with
  | 0x04 => 0x00000546
  | 0x0C => 0x000000FF
  | 0x10 => 0xFF000000
  | 0x14 => 0xFFFFFFFF
  | 0x18 => 0xFC000000
  | 0x1C => 0xFFFFFFFF
  | 0x3C => 0x000000FF
  | 0x50 => 0xC0000000
  | 0x78 => 0x000071FF
  | 0x80 => 0x000000C3
  | 0x98 => 0x0000001F
  | 0xA0 => 0x0000000F
  | 0x108 => 0x005F7010
  | 0x10C => 0x005F7010
  | 0x114 => 0x000031C1
  | 0x118 => 0x00000140
  | 0x148 => 0x0000FF01
  | 0x154 => 0x1F030000
  | _ => 0

/-- A configuration dword as written, before the bits that follow the hardware's state. -/
def Chip.cfg (ch : Chip) (off : Nat) : Nat := Tab.get (cfgDefault off) ch.hif.cfg off

/-- A configuration dword stored. -/
def Chip.setCfg (ch : Chip) (off v : Nat) : Chip :=
  { ch with hif := { ch.hif with cfg := Tab.set (cfgDefault off) ch.hif.cfg off (v % 2 ^ 32) } }

/-- Max Read Request Size in bytes (R97). -/
def Chip.mrrs (ch : Chip) : Nat := min 4096 (128 * 2 ^ bits (ch.cfg 0x78) 12 3)

/-- Max Payload Size in bytes: what software programs, up to the 256 supported (R97). -/
def Chip.mps (ch : Chip) : Nat := min 256 (128 * 2 ^ bits (ch.cfg 0x78) 5 3)

/-- The chip generates ECRC: AER enables it (R97). -/
def Chip.ecrcGen (ch : Chip) : Bool := bit (ch.cfg 0x118) 6

/-- Relaxed Ordering is permitted by Device Control (R97). -/
def Chip.relaxed (ch : Chip) : Bool := bit (ch.cfg 0x78) 4

end Sys2Proof.Machine
end

