-- ==== Sys2Proof/Machine/Ops.lean ====
section
/-! DEFINITION. The named operations every block shares: chips of the tray, register fields, counters (R15, R17),
watermarks (R19), memory and poison (R57, R355, R506), fault events (R593) and what the chip sends. -/

namespace Sys2Proof.Machine

open Sys2Proof

/-- What a meaning answers. -/
abbrev Res := Host.Outcome State Fault Refusal

/-! ### Chips -/

/-- The chips of the tray in order. -/
def chipIds : List ChipId := [0, 1, 2, 3]

/-- Chip `c` of the tray. -/
def State.chip (s : State) (c : ChipId) : Chip :=
  if c = 0 then s.e0 else if c = 1 then s.e1 else if c = 2 then s.e2 else s.e3

/-- The tray with chip `c` replaced. -/
def State.setChip (s : State) (c : ChipId) (ch : Chip) : State :=
  if c = 0 then { s with e0 := ch } else if c = 1 then { s with e1 := ch }
  else if c = 2 then { s with e2 := ch } else { s with e3 := ch }

/-- The tray with chip `c` changed by `f`. -/
def State.modChip (s : State) (c : ChipId) (f : Chip → Chip) : State := s.setChip c (f (s.chip c))

/-- The tray with every chip changed by `f`. -/
def State.modAll (s : State) (f : ChipId → Chip → Chip) : State :=
  { s with e0 := f 0 s.e0, e1 := f 1 s.e1, e2 := f 2 s.e2, e3 := f 3 s.e3 }

/-- A command whose whole effect lies in chip `c`; a chip held in reset does nothing (R626). (DESIGN CHOICE, log entry 9.) -/
def onChip (s : State) (c : ChipId) (f : Chip → Chip) : Res :=
  .next (if (s.chip c).hif.state = .reset then s else s.modChip c f)

/-- A chip is held in reset. -/
def Chip.inReset (ch : Chip) : Bool := ch.hif.state == .reset

/-! ### Register fields -/

/-- Value of a field. -/
def Chip.rd (ch : Chip) (f : Field) : Nat := Tab.get f.rst ch.regs f.key

/-- A command of a self-timed island of chip `c`, which has no power in Doze and until the wake has restored it (R617): PWR_STATE
reads 2 or 3. (DESIGN CHOICE, log entry 9.) -/
def onIsland (s : State) (c : ChipId) (f : Chip → Chip) : Res :=
  .next (if (s.chip c).hif.state = .reset ∨ 2 ≤ (s.chip c).rd F.PWR_STATE_STATE then s else s.modChip c f)

/-- An action that a write starts in a block without power in Doze waits for the wake (R76, R95): `off` and `v` are the register
and the bits written. -/
def Chip.whenPowered (ch : Chip) (off v : Nat) (f : Chip → Chip) : Chip :=
  if 2 ≤ ch.rd F.PWR_STATE_STATE then { ch with dozeActs := ch.dozeActs ++ [(off, v)] } else f ch

/-- BAR0 offset of the register of a field. -/
def Field.reg (f : Field) : Nat := f.key / 64

/-- Field written with the low bits of `v`. -/
def Chip.wr (ch : Chip) (f : Field) (v : Nat) : Chip :=
  { ch with regs := Tab.set f.rst ch.regs f.key (v % 2 ^ f.width) }

/-- A one-bit field reads 1. -/
def Chip.flag (ch : Chip) (f : Field) : Bool := ch.rd f % 2 == 1

/-- One-bit field written. -/
def Chip.setFlag (ch : Chip) (f : Field) (b : Bool) : Chip := ch.wr f (bnat b)

/-- Bit `b` of a field set. -/
def Chip.orBit (ch : Chip) (f : Field) (b : Nat) : Chip := ch.wr f (Machine.orBit (ch.rd f) b)

/-- The largest value of a 32-bit counter. -/
def max32 : Nat := 0xFFFFFFFF

/-- A 32-bit error counter counts one event (R15): it saturates and sets bit `b` of its OVF field. -/
def Chip.count (ch : Chip) (f ovf : Field) (b : Nat) : Chip :=
  if ch.rd f ≥ max32 then (ch.wr f max32).orBit ovf b
  else if ch.rd f + 1 = max32 then (ch.wr f max32).orBit ovf b
  else ch.wr f (ch.rd f + 1)

/-- An error counter counts `n` events. -/
def Chip.countN (ch : Chip) (f ovf : Field) (b : Nat) : Nat → Chip
  | 0 => ch
  | n + 1 => if ch.rd f + (n + 1) < max32 then ch.wr f (ch.rd f + (n + 1)) else (ch.wr f max32).orBit ovf b

/-- A 64-bit counter advances by `n` (R17): a wrap sets bit `wb` of the event field and counts in the wrap count, which
saturates with bit `ob` of its OVF field. -/
def Chip.count64 (ch : Chip) (f wrap : Field) (wb : Nat) (cnt ovf : Field) (ob : Nat) (n : Nat) : Chip :=
  let x := ch.rd f + n
  if x < 2 ^ 64 then ch.wr f x
  else ((ch.wr f (x - 2 ^ 64)).orBit wrap wb).count cnt ovf ob

/-- Board time as the chip's Timekeeper holds it (R181). -/
def Chip.now (ch : Chip) : Nat := ch.rd F.TKP_NOW_TIME

/-- A watermark sees its level change from `old` to `new` (R19, R21). -/
def Chip.watermark (ch : Chip) (notice hwm : Field) (time : Field) (thresh old new : Nat) : Chip :=
  let ch := if ch.rd hwm < new then ch.wr hwm new else ch
  if old < thresh ∧ thresh ≤ new ∧ ch.flag notice = false then (ch.setFlag notice true).wr time ch.now else ch

/-! ### Fault events and what the chip sends -/

/-- SOURCE of R591 from a domain and a qualifier. -/
def source (domain qual : Nat) : Nat := domain % 512 + 512 * (qual % 128)

/-- The qualifier of graph slot `s` (R591). -/
def slotQual (s : Nat) : Nat := 0x40 + s % 16

/-- A block raises a fault event: it goes to the collector (R593). -/
def Chip.raise (ch : Chip) (row src detail : Nat) : Chip :=
  { ch with faultQ := ch.faultQ ++ [FaultEv.mk row src detail ch.now] }

/-- DFX_CLK_RUN bit of the PCIe domain. -/
def pcieDomain : Nat := 272

/-- The state of one crossing changed; a crossing not listed is in Run with nothing held. -/
def modXing (xs : List Xing) (src dst : Nat) (f : Xing → Xing) : List Xing :=
  match findIdx (fun x => x.src == src && x.dst == dst) xs with
  | some i => updAt xs i f
  | none => xs ++ [f (Xing.fresh src dst)]

/-- The state of a crossing; one not listed is in Run with nothing held. -/
def Chip.xing (ch : Chip) (src dst : Nat) : Xing :=
  (ch.xings.find? fun x => x.src == src && x.dst == dst).getD (Xing.fresh src dst)

def Chip.setXing (ch : Chip) (src dst : Nat) (f : Xing → Xing) : Chip := { ch with xings := modXing ch.xings src dst f }

/-- The write that is granted next (R82): where writes of two writers are pending, one of the writer that was not granted last. -/
def grantNext (last : Nat) (w : List (Nat × XItem)) : Option ((Nat × XItem) × List (Nat × XItem)) :=
  match pickFirst (fun e => e.1 != last) w with
  | some p => some p
  | none => pickFirst (fun _ => true) w

/-- All pending writes in the order of their grants. -/
def grantAll (last : Nat) (w : List (Nat × XItem)) : Nat → List XItem
  | 0 => []
  | n + 1 => match grantNext last w with
    | some (e, rest) => e.2 :: grantAll e.1 rest n
    | none => []

/-- A crossing accepts an entry: its state is Run or Held, it has room, and no earlier write waits. The spec gives
no depth: it is a free number of at least 1. -/
def Xing.accepts (x : Xing) : Bool :=
  (x.st == .run || x.st == .held) && x.wait.isEmpty && decide (x.held.length < Config.xingDepth x.src x.dst + 1)

/-- An entry of writer `w` reaches a crossing that does not deliver at once, `stopped` being the state of the receiving clock: it is
held, or the writer's handshake waits (R83,
R92). (DESIGN CHOICE, log entry 136.) -/
def Xing.put (x : Xing) (stopped : Bool) (w : Nat) (e : XItem) : Xing :=
  if x.accepts then { x with held := x.held ++ [e], st := if stopped then .held else x.st, last := w } else { x with wait := x.wait ++ [(w, e)] }

/-- Writes that wait enter while the crossing accepts entries, in the order of the grants; `n` bounds their number. -/
def Xing.refill (x : Xing) : Nat → Xing
  | 0 => x
  | n + 1 =>
    match grantNext x.last x.wait with
    | some (e, rest) =>
      if (x.st == .run || x.st == .held) && decide (x.held.length < Config.xingDepth x.src x.dst + 1) then
        Xing.refill { x with held := x.held ++ [e.2], wait := rest, last := e.1 } n
      else x
    | none => x

/-- Everything a crossing delivers once it runs: what it holds, then what waited, in the order of the grants. -/
def Xing.all (x : Xing) : List XItem := x.held ++ grantAll x.last x.wait x.wait.length

/-- The ring engine and Kennels, and the Guestbook, which write the crossing to PCIe (R91). -/
def ringDomain : Nat := 233
def gbkDomain : Nat := 232

/-- The crossing to PCIe delivers at once: the host reference clock is there and the crossing is in Run. -/
def Chip.pcieOpen (ch : Chip) : Bool := ch.hif.refclk && (ch.xing ringDomain pcieDomain).st == .run

/-- A TLP as the chip forms it: with ECRC where AER enables its generation (R97). -/
def Chip.tlp (ch : Chip) (e : Emit) : Emit := if ch.ecrcGen then .ecrc e else e

/-- What writer `w` sends over PCIe: it leaves while the crossing runs; otherwise it is held there, and at a full or resetting
crossing the writer waits (R83, R92, R93, R95). Both writers share one crossing (R82). -/
def Chip.sendBy (ch : Chip) (w : Nat) (e : Emit) : Chip :=
  if ch.pcieOpen then { ch with out := ch.out ++ [ch.tlp e] }
  else ch.setXing ringDomain pcieDomain fun x => x.put (!ch.hif.refclk) w (.emit (ch.tlp e))

/-- What the ring engine sends over PCIe. (DESIGN CHOICE, log entry 6.) -/
def Chip.send (ch : Chip) (e : Emit) : Chip := ch.sendBy ringDomain e

/-- The ring engine's handshake waits at the crossing to PCIe: it takes no further step (R83, R95). -/
def Chip.ringStuck (ch : Chip) : Bool := (ch.xing ringDomain pcieDomain).wait.any fun e => e.1 == ringDomain

/-- A write of the ring engine or the Guestbook waits at the crossing to PCIe. -/
def Chip.pcieWaits (ch : Chip) : Bool := !(ch.xing ringDomain pcieDomain).wait.isEmpty

/-- The link of a chip. -/
def Chip.link (ch : Chip) (l : Nat) : Link := if l = 0 then ch.trail.l0 else ch.trail.l1

/-- What a block drives outside PCIe. (DESIGN CHOICE, log entry 6.) -/
def Chip.emit (ch : Chip) (e : Emit) : Chip := { ch with out := ch.out ++ [e] }

/-- MSI-X vector `v` is masked: by its Vector Control, the fourth dword of its entry, by the function mask, or because MSI-X is
not enabled. Every vector is masked after reset, as PCIe 4.0 gives it. (PRESUMED, log entry 47.) -/
def Chip.msixMasked (ch : Chip) (v : Nat) : Bool :=
  let ctl := Tab.get 0x00877011 ch.hif.cfg 0x50
  bit (Tab.get 1 ch.hif.msixTab (4 * v + 3)) 0 || bit ctl 30 || !bit ctl 31

/-- MSI-X vector `v` signalled by a writer of the crossing to PCIe (R107): a masked vector sets its PBA bit. -/
def Chip.msixBy (ch : Chip) (w v : Nat) : Chip :=
  if ch.msixMasked v then
    { ch with hif := { ch.hif with pba := if ch.hif.pba.contains v then ch.hif.pba else ch.hif.pba ++ [v] } }
  else ch.sendBy w (.msix v)

/-- A vector that the ring engine signals. (PRESUMED, log entry 47.) -/
def Chip.msix (ch : Chip) (v : Nat) : Chip := ch.msixBy ringDomain v

/-- Bit of an AER error in the status, mask and severity registers of PCIe 4.0, and whether it is a correctable one. -/
def AerErr.place : AerErr → Bool × Nat
  | .receiverError => (true, 0)
  | .badTlp => (true, 6)
  | .badDllp => (true, 7)
  | .replayRollover => (true, 8)
  | .replayTimeout => (true, 12)
  | .linkProtocol => (false, 4)
  | .poisonedTlp => (false, 12)
  | .flowControl => (false, 13)
  | .completionTimeout => (false, 14)
  | .unexpectedCompletion => (false, 16)
  | .receiverOverflow => (false, 17)
  | .malformedTlp => (false, 18)
  | .ecrc => (false, 19)
  | .unsupportedRequest => (false, 20)
  | .internalNonFatal => (false, 22)
  | .internalFatal => (false, 22)

/-- The message of an error: that of its severity, but the collector's level decides for an internal error (R117). -/
def Chip.aerMsg (ch : Chip) (e : AerErr) : AerMsg :=
  match e with
  | .internalNonFatal => .nonFatal
  | .internalFatal => .fatal
  | e => if e.place.1 then .correctable else if bit (ch.cfg 0x10C) e.place.2 then .fatal else .nonFatal

/-- An AER error reported (R117): its status is kept, and its message leaves unless the mask register masks it.
(DEDUCED, log entry 88.) -/
def Chip.aer (ch : Chip) (e : AerErr) : Chip :=
  let add (xs : List AerErr) : List AerErr := if xs.contains e then xs else xs ++ [e]
  let p := e.place
  let ch : Chip := if p.1 then { ch with hif := { ch.hif with aerCor := add ch.hif.aerCor } }
    else { ch with hif := { ch.hif with aerUnc := add ch.hif.aerUnc } }
  if bit (ch.cfg (if p.1 then 0x114 else 0x108)) p.2 then ch else ch.send (.aer e (ch.aerMsg e))

/-! ### Reads of host memory (R97) -/

/-- A tag that no outstanding request carries, the next one in turn first. -/
def HostLink.freeTag (h : HostLink) : Option Nat :=
  ((List.range 256).map fun i => (h.nextTag + i) % 256).find? fun t => !(h.reads.any fun r => r.tag == t)

/-- A request leaves with a free tag, or waits while 256 are outstanding. -/
def Chip.issueRead (ch : Chip) (r : ReadReq) : Chip :=
  match ch.hif.freeTag with
  | some tag =>
    let ch : Chip := { ch with hif := { ch.hif with reads := ch.hif.reads ++ [{ r with tag := tag }], nextTag := (tag + 1) % 256 } }
    let ro := match r.use with
      | .payload _ => ch.relaxed
      | _ => false
    ch.send (if r.ln then .lnRead r.addr r.len else .hostRead r.addr r.len tag ro)
  | none => { ch with hif := { ch.hif with readWait := ch.hif.readWait ++ [r] } }

/-- The requests of a read of `len` bytes, none longer than Max Read Request Size and none over a multiple of it; `n` bounds their
number. (DEDUCED, log entry 145.) -/
def readParts (mrrs addr len : Nat) : Nat → List (Nat × Nat)
  | 0 => []
  | n + 1 =>
    if len = 0 then []
    else
      let k := min len (mrrs - addr % mrrs)
      (addr, k) :: readParts mrrs (addr + k) (len - k) n

/-- A read of host memory. -/
def Chip.hostRead (ch : Chip) (use : ReadUse) (addr len : Nat) : Chip :=
  (readParts ch.mrrs addr len (len / 128 + 2)).foldl (fun (c : Chip) p => c.issueRead ⟨0, use, p.1, p.2, false⟩) ch

/-- The requests outstanding take a value, and those that waited for a tag follow. -/
def Chip.setReads (ch : Chip) (rs : List ReadReq) : Chip :=
  let w := ch.hif.readWait
  w.foldl Chip.issueRead { ch with hif := { ch.hif with reads := rs, readWait := [] } }

/-- The outstanding reads of a use leave the list. -/
def Chip.dropReads (ch : Chip) (use : ReadUse) : Chip :=
  ({ ch with hif := { ch.hif with readWait := ch.hif.readWait.filter fun r => r.use != use } } : Chip).setReads
    (ch.hif.reads.filter fun r => r.use != use)

/-- A completion with data, in parts of at most Max Payload Size (R97); `n` bounds their number. (DEDUCED, log entry 145.) -/
def Chip.cplData (ch : Chip) (ep : Bool) (bs : List Byte) : Nat → Chip
  | 0 => ch.send (.cpl .sc ep bs)
  | n + 1 =>
    if bs.length ≤ ch.mps then ch.send (.cpl .sc ep bs)
    else (ch.send (.cpl .sc ep (bs.take ch.mps))).cplData ep (bs.drop ch.mps) n

/-- A fresh free number. (DESIGN CHOICE, log entry 7.) -/
def Chip.draw (ch : Chip) : Nat × Chip := (Config.number ch.pos.val ch.draws, { ch with draws := ch.draws + 1 })

/-! ### Memory

One list of cells holds the chip's Steward SRAM, pack SRAMs, Common Room and DRAM under the flat addresses of the Steward
map (R372). An unlisted cell reads 0, which is what the wipe leaves (R630). -/

def sramBase : Nat := 0
def packBase (p : Nat) : Nat := 0x08000000 + 0x200000 * p
def crBase : Nat := 0x10000000
def crSize : Nat := 0x800000
def devBase : Nat := 0x10800000
def regBase : Nat := 0x20000000
def romBase : Nat := 0x30000000
def dramBase : Nat := 0x100000000

/-- What an unlisted cell reads as. (DESIGN CHOICE, log entry 4.) -/
def memDefault : Byte := 0#8

/-- The usable DRAM size (R498). -/
def Chip.usable (ch : Chip) : Nat := ch.rd F.MEM_USABLE_BYTES

/-- Flat address of the end of usable DRAM. -/
def Chip.dramTop (ch : Chip) : Nat := dramBase + ch.usable

/-- One byte of memory. (DESIGN CHOICE, log entry 4.) -/
def Chip.byte (ch : Chip) (a : Nat) : Byte := Tab.get memDefault ch.mem a

/-- `n` bytes of memory. -/
def Chip.bytes (ch : Chip) (a n : Nat) : List Byte := (List.range n).map fun i => ch.byte (a + i)

/-- `n` bytes of memory as a number. -/
def Chip.load (ch : Chip) (a n : Nat) : Nat := leNat (ch.bytes a n)

/-- Cells written one after another. (DESIGN CHOICE, log entry 4.) -/
def writeCells (m : List Host.Cell) (a : Nat) : List Byte → List Host.Cell
  | [] => m
  | b :: t => writeCells (Tab.set memDefault m a b) (a + 1) t

/-- First address of the poison granule of `a`: an 8-byte word in an SRAM, a 64-byte line elsewhere (R355, R506). -/
def granule (a : Nat) : Nat := if a < crBase then a / 8 * 8 else a / 64 * 64

/-- Size of the poison granule of `a`. -/
def granuleSize (a : Nat) : Nat := if a < crBase then 8 else 64

/-! #### The DRAM line map (R500) -/

/-- Data lines of a rank. -/
def rankLines : Nat := 7340032

/-- Lines of region A: rank 0 of every channel. -/
def regionA : Nat := 16 * rankLines

/-- Channels whose rank 1 is not a spare, for a usable size of `n` ranks of 448 MiB (R498, R500). -/
def regionB (n : Nat) : List Nat :=
  (List.range 16).filter fun c => !(n < 32 && c == 15) && !(n < 31 && c == 7)

/-- Where a line lies: logical channel and rank, and its index λ within the rank. -/
structure LineLoc where
  chan : Nat
  rank : Nat
  lam : Nat
  deriving DecidableEq, Repr

/-- The location of line `l` (R500). -/
def Chip.lineLoc (ch : Chip) (l : Nat) : LineLoc :=
  let r := if l < regionA then 0 else 1
  let list := if l < regionA then List.range 16 else regionB (ch.usable / (448 * 1048576))
  let lp := if l < regionA then l else l - regionA
  let k := lp / 4
  ⟨(list[k % list.length]?).getD 0, r, 4 * (k / list.length) + lp % 4⟩

/-- The flat address lies in a logical rank that no physical rank carries (R522). -/
def Chip.rankGone (ch : Chip) (a : Nat) : Bool :=
  !ch.mc.failed.isEmpty && decide (dramBase ≤ a) &&
    (let p := ch.lineLoc ((a - dramBase) / 64)
     ch.mc.failed.contains (2 * p.chan + p.rank))

/-- The granule of `a` is poisoned. -/
def Chip.isPoisoned (ch : Chip) (a : Nat) : Bool := ch.poisoned.contains (granule a) || ch.rankGone a

/-- The granules that bytes `a` to `a + n - 1` touch. -/
def granules (a n : Nat) : List Nat :=
  if n = 0 then [] else
    (List.range ((granule (a + n - 1) - granule a) / granuleSize a + 1)).map fun i => granule a + i * granuleSize a

/-- Some byte of the range is poisoned. -/
def Chip.anyPoison (ch : Chip) (a n : Nat) : Bool := (granules a n).any fun g => ch.isPoisoned g

/-- Insertion that keeps the poison list rising and without repeats. -/
def insNat : List Nat → Nat → List Nat
  | [], x => [x]
  | y :: t, x => if x < y then x :: y :: t else if x = y then y :: t else y :: insNat t x

/-- What a write does to the poison of the granules it touches: a poisoned write marks them; a clean write clears a
granule it covers whole and leaves any other as it was (R355, R506). -/
def poisonAfter (ps : List Nat) (a n : Nat) (poison : Bool) : List Nat :=
  (granules a n).foldl (fun q g =>
    if poison then insNat q g
    else if a ≤ g ∧ g + granuleSize g ≤ a + n then q.filter (· != g) else q) ps

/-- Bytes stored at a flat address, with or without the poison mark. What lies in a failed rank is discarded (R522).
(DESIGN CHOICE, log entry 4.) -/
def Chip.store (ch : Chip) (a : Nat) (bs : List Byte) (poison : Bool) : Chip :=
  let mem := if ch.mc.failed.isEmpty then writeCells ch.mem a bs
    else bs.zipIdx.foldl (fun (m : List Host.Cell) e => if ch.rankGone (a + e.2) then m else Tab.set memDefault m (a + e.2) e.1) ch.mem
  { ch with mem := mem, poisoned := poisonAfter ch.poisoned a bs.length poison }

/-- A range lies in the Common Room. -/
def inCr (a n : Nat) : Bool := decide (crBase ≤ a) && decide (a + n ≤ crBase + crSize)

/-- A range lies in the usable DRAM. -/
def Chip.inDram (ch : Chip) (a n : Nat) : Bool := decide (dramBase ≤ a) && decide (a + n ≤ dramBase + ch.usable)

/-- A range lies in the Common Room or the usable DRAM of the chip. -/
def Chip.inShared (ch : Chip) (a n : Nat) : Bool := inCr a n || ch.inDram a n

/-- Canonical form of the memory. -/
def Chip.memWf (ch : Chip) : Bool := Tab.wf memDefault ch.mem

/-! ### Streams, slots, packs -/

/-- The graph slot `s` of a chip. -/
def Chip.slot (ch : Chip) (s : Nat) : Slot := Tab.get Slot.reset ch.fab.slots s

def Chip.setSlot (ch : Chip) (s : Nat) (x : Slot) : Chip :=
  { ch with fab := { ch.fab with slots := Tab.put ch.fab.slots s x } }

/-- The Inn of pack `p`. -/
def Chip.inn (ch : Chip) (p : Nat) : Inn := Tab.get Inn.reset ch.fab.inns p

def Chip.setInn (ch : Chip) (p : Nat) (x : Inn) : Chip :=
  { ch with fab := { ch.fab with inns := Tab.put ch.fab.inns p x } }

/-- The core of PE `n` of pack `p`. -/
def Chip.core (ch : Chip) (p n : Nat) : Core := Tab.get Core.reset ch.fab.cores (16 * p + n)

def Chip.setCore (ch : Chip) (p n : Nat) (x : Core) : Chip :=
  { ch with fab := { ch.fab with cores := Tab.put ch.fab.cores (16 * p + n) x } }

/-- The tensor engine of pack `p`. -/
def Chip.ten (ch : Chip) (p : Nat) : TenEng := Tab.get TenEng.reset ch.fab.tens p

def Chip.setTen (ch : Chip) (p : Nat) (x : TenEng) : Chip :=
  { ch with fab := { ch.fab with tens := Tab.put ch.fab.tens p x } }

/-- What waits is an access of the LSU. -/
def Deferred.isLsu : Deferred → Bool
  | .emit _ => false
  | _ => true

def Deferred.isLatch : Deferred → Bool
  | .latch .. => true
  | _ => false

/-- A Latch operation of the core has not returned its value (R535). -/
def Core.latchWaits (k : Core) : Bool := k.deferred.any Deferred.isLatch

/-- The number of a core: 16 p + n of a PE, 192 for the Steward. -/
def coreNo : CoreId → Nat
  | .pe p n => 16 * p.val + n.val
  | .steward => 192

/-- The firing of a core is provisional. -/
def Core.prov (k : Core) : Bool := k.firing.elim false (·.prov)

/-- Stores of core number `n` that a full queue or the Guestbook holds back (R218, R251, R320, R387). -/
def Chip.stalledStores (ch : Chip) (n : Nat) : Nat :=
  let waits (xs : List Submission) : Nat := (xs.filter fun x => x.core == some n).length
  (ch.media.mosaic.stalled.filter fun e => e.1 == n).length + (ch.media.audio.fstalled.filter fun e => e.1 == n).length +
    ((List.range 12).map fun p => ((ch.ten p).stalled.filter fun e => e.1 == n).length).foldl (· + ·) 0 +
    waits ch.fab.gbk.storeWait + ch.fab.gbk.flows.foldl (fun a e => a + waits e.2.waiting) 0

/-- What core number `n` does next waits in program order: its firing is provisional, an earlier store is held back, or others wait
already (R327, R354). -/
def Chip.mustWait (ch : Chip) (n : Nat) (k : Core) : Bool :=
  k.prov || ch.stalledStores n != 0 || !k.deferred.isEmpty

/-- A running firing of PE `n` of pack `p` stores `v` to device word `w`: `go` is the store's effect once it is its turn. -/
def Chip.deviceCmd (ch : Chip) (p n w : Nat) (v : Qword) (go : Chip → Firing → Bool → Chip) : Chip :=
  let k := ch.core p n
  match k.firing with
  | some f =>
    if ch.mustWait (16 * p + n) k then ch.setCore p n { k with deferred := k.deferred ++ [.device w v k.poison] }
    else go ch f k.poison
  | none => ch

/-- The ring `n`. -/
def Chip.ring (ch : Chip) (n : Nat) : Ring := Tab.get Ring.reset ch.media.rings n

def Chip.setRing (ch : Chip) (n : Nat) (x : Ring) : Chip :=
  { ch with media := { ch.media with rings := Tab.put ch.media.rings n x } }

/-- The flow `f` of the Guestbook. -/
def Chip.flow (ch : Chip) (f : Nat) : Flow := Tab.get Flow.reset ch.fab.gbk.flows f

def Chip.setFlow (ch : Chip) (f : Nat) (x : Flow) : Chip :=
  { ch with fab := { ch.fab with gbk := { ch.fab.gbk with flows := Tab.put ch.fab.gbk.flows f x } } }

/-- An open stream. -/
def Chip.stream (ch : Chip) (s : Nat) : Option Stream := Tab.find ch.media.streams s

def Chip.setStream (ch : Chip) (s : Nat) (x : Stream) : Chip :=
  { ch with media := { ch.media with streams := Tab.put ch.media.streams s x } }

/-- The slot that owns a context (R270). -/
def Chip.ctxSlot (ch : Chip) (c : Nat) : Option Nat :=
  if ch.flag (F.DFX_CTX_MAP_VALID c) then some (ch.rd (F.DFX_CTX_MAP_SLOT c)) else none

/-- Life-cycle state codes (R637): DEVELOP is 1. -/
def Chip.develop (ch : Chip) : Bool := ch.rd F.LCS_STATE_STATE == 1

/-- The flat address a descriptor names in a memory of this chip, for a block or a PE of pack `pack` (R294, R351). -/
def Chip.descAddr (ch : Chip) (pack : Option Nat) (d n : Nat) : Option Nat :=
  let addr := bits d 0 48
  if bits d 50 2 ≠ ch.pos.val then none
  else match bits d 48 2 with
    | 0 => if addr + n ≤ ch.usable then some (dramBase + addr) else none
    | 1 => if addr + n ≤ crSize then some (crBase + addr) else none
    | 2 => if pack = some (bits d 52 4) ∧ addr + n ≤ 0x200000 then some (packBase (bits d 52 4) + addr) else none
    | _ => none

/-- The descriptor a block forms for a flat address of its own chip (R294). -/
def Chip.descOf (ch : Chip) (a : Nat) : Nat :=
  if dramBase ≤ a then a - dramBase + ch.pos.val * 2 ^ 50
  else a - crBase + 2 ^ 48 + ch.pos.val * 2 ^ 50

end Sys2Proof.Machine
end

