-- ==== Sys2Proof/Machine/RingOps.lean ====
section
/-! DEFINITION. The ring engine's shared operations (spec/05_rings.md): records written to a completion queue, signals,
descriptor completions in order, and the registration of doorbell lines. -/

namespace Sys2Proof.Machine

open Sys2Proof

/-- HIF_STATUS.MODE reads HALTED. -/
def Chip.halted (ch : Chip) : Bool := ch.rd F.HIF_STATUS_MODE == 2

/-- PWR_STATE.STATE codes (R637). -/
def pwrRun : Nat := 0
def pwrEntering : Nat := 1
def pwrDoze : Nat := 2
def pwrWaking : Nat := 3

def Chip.pwr (ch : Chip) : Nat := ch.rd F.PWR_STATE_STATE

/-- Ring states of R154. -/
def ringDisabled : Nat := 0
def ringActive : Nat := 1
def ringStopped : Nat := 2
def ringOverflow : Nat := 3
def ringDraining : Nat := 4

def Chip.ringState (ch : Chip) (n : Nat) : Nat := ch.rd (F.RNG_STATE_STATE n)

/-- A 32-bit index distance. -/
def sub32 (a b : Nat) : Nat := (a + 2 ^ 32 - b % 2 ^ 32) % 2 ^ 32

/-- Host address of the doorbell page (R129). -/
def Chip.dbPage (ch : Chip) : Nat := ch.rd F.RNG_DB_BASE_BASE * 4096

/-! ### Doorbell lines (R112 to R114, R131) -/

/-- Rings per doorbell line: 8, or 16 with 128-byte lines (R112, R129). -/
def Chip.ringsPerLine (ch : Chip) : Nat := if ch.hif.lnrCls then 16 else 8

/-- Lines that hold the doorbell word of a ring that is not disabled. -/
def Chip.linesNeeded (ch : Chip) : List Nat :=
  let k := ch.ringsPerLine
  (List.range (128 / k)).filter fun l =>
    (List.range k).any fun i =>
      let st := ch.ringState (k * l + i)
      st == ringActive || st == ringOverflow || st == ringDraining

/-- A read of doorbell line `l`, as an LN Read or a plain read. -/
def Chip.readLine (ch : Chip) (ln : Bool) (l : Nat) : Chip :=
  let addr := ch.dbPage + 8 * ch.ringsPerLine * l
  let len := 8 * ch.ringsPerLine
  if ln then ch.issueRead ⟨0, .doorbell l, addr, len, true⟩
  else ch.hostRead (.doorbell l) addr len

/-- Registrations brought in line with the enabled rings and the limit; a new registration is an LN Read (R113). -/
def Chip.lnUpdate (ch : Chip) : Chip :=
  let need := if ch.hif.lnrEnable then ch.linesNeeded else []
  let kept := (ch.hif.lnRegs.filter fun l => need.contains l).take ch.hif.lnrLimit
  let fresh := (need.filter fun l => !kept.contains l).take (ch.hif.lnrLimit - kept.length)
  let regs := kept ++ fresh
  let ch : Chip := { ch with hif := { ch.hif with lnRegs := regs } }
  let ch := fresh.foldl (fun c l => c.readLine true l) ch
  let ch := if ch.hif.lnrEnable && decide (regs.length < need.length) then ch.setFlag F.HIF_LN_STAT_SHORT_SEEN true else ch
  (ch.wr F.HIF_LN_STAT_REGS regs.length).setFlag F.HIF_STATUS_LN_ACTIVE (!regs.isEmpty)

/-- What AER reports of an answer to a chip read: a completion timeout, and a poisoned completion (R117). -/
def Chip.readAer (ch : Chip) (res : ReadResult) : Chip :=
  let c := if res.fail = .timeout then ch.aer .completionTimeout else ch
  if res.ep then c.aer .poisonedTlp else c

/-! ### Records and signals -/

/-- The ring signals its vector after what writer `w` sent before: the count restarts (R138, R139). -/
def Chip.signalBy (ch : Chip) (w n : Nat) : Chip :=
  (ch.setRing n { ch.ring n with unsig := 0 }).msixBy w n

/-- The ring signals its vector: the count restarts (R139). -/
def Chip.signal (ch : Chip) (n : Nat) : Chip := ch.signalBy ringDomain n

/-- A 64-byte record that block `w` writes at the CQ producer index with its PHASE bit, then the shadow word, then the signal that
moderation or IRQ_NOW asks for (R126, R137 to R139). A halted chip writes nothing (R603). -/
def Chip.cqWrite (ch : Chip) (w n : Nat) (rec : List Byte) (irqNow : Bool) : Chip :=
  if ch.halted then ch else
  let r := ch.ring n
  let i := ch.rd (F.RNG_CQ_PROD_INDEX n)
  let phase := bnat (i / r.size % 2 == 0)
  let flags := fieldAt rec 1 1 % 128 + 128 * phase
  let ch := ch.sendBy w (.hostWrite (r.cqBase + 64 * (i % r.size)) (patch rec 1 (toLe 1 flags)))
  let ch := ch.wr (F.RNG_CQ_PROD_INDEX n) (i + 1)
  let ch := ch.sendBy w (.hostWrite (ch.dbPage + 0x800 + 8 * n) (toLe 8 ((i + 1) % 2 ^ 32 + r.gen * 2 ^ 32)))
  let unsig := r.unsig + 1
  let ch := ch.setRing n { r with unsig := unsig, oldest := if r.unsig = 0 then ch.now else r.oldest }
  let cnt := ch.rd (F.RNG_IRQ_COUNT n)
  if irqNow || (decide (cnt ≠ 0) && decide (cnt ≤ unsig)) then ch.signalBy w n else ch

/-- Completion status codes (R152). -/
def stOk : Nat := 0
def stEmpty : Nat := 1
def stNoFlow : Nat := 2
def stBadOpcode : Nat := 3
def stBadDesc : Nat := 4
def stBadStream : Nat := 5
def stBusy : Nat := 6
def stRefusedCfg : Nat := 7
def stAuthRefused : Nat := 8
def stHostReadErr : Nat := 9
def stHostPoison : Nat := 10
def stWrongRing : Nat := 11
def stDimLimit : Nat := 12

/-- Opcodes of R147. -/
def opNop : Nat := 0x0001
def opGraphLoad : Nat := 0x0010
def opGraphUnload : Nat := 0x0011
def opStreamOpen : Nat := 0x0020
def opStreamClose : Nat := 0x0021
def opStreamSet : Nat := 0x0022
def opFlowBind : Nat := 0x0030
def opCritical : Nat := 0x0040
def opEpochSet : Nat := 0x0050
def opFaultAck : Nat := 0x0060
def opPowerReq : Nat := 0x0070
def opJobSubmit : Nat := 0x0080
def opBuf : Nat := 0x0100

/-- The completion record of a descriptor (R151), before its PHASE bit. -/
def complRec (d : Desc) (time : Nat) : List Byte :=
  [1#8, BitVec.ofNat 8 (bnat d.poison)] ++ toLe 2 d.id ++ toLe 4 d.idx ++ toLe 8 time ++ toLe 4 d.cookie ++
    toLe 2 d.status ++ toLe 2 d.opcode ++ toLe 4 d.nbytes ++ toLe 4 d.detail ++ toLe 8 d.detail64 ++ zeros 24

/-- The budget of a STREAM_SET counts for frames stamped at or after the time of its completion record (R148). -/
def Chip.budgetSet (ch : Chip) (d : Desc) : Chip :=
  if d.opcode = opStreamSet ∧ d.status = stOk then
    let i := fieldAt d.bytes 8 2
    match ch.stream i with
    | some x => ch.setStream i { x with budgets := (ch.now, fieldAt d.bytes 12 4) :: x.budgets }
    | none => ch
  else ch

/-- Completions written in submission order while the oldest descriptor is done (R136). -/
def Chip.flushDone (ch : Chip) (n : Nat) : Nat → Chip
  | 0 => ch
  | fuel + 1 =>
    match (ch.ring n).descs with
    | d :: rest =>
      if d.done then
        (((ch.setRing n { ch.ring n with descs := rest }).budgetSet d).cqWrite ringDomain n (complRec d ch.now) d.irqNow).flushDone n fuel
      else ch
    | [] => ch

/-- A DRAINING ring with no descriptor left becomes DISABLED, and its registration lapses (R154). -/
def Chip.ringIdle (ch : Chip) (n : Nat) : Chip :=
  if ch.ringState n = ringDraining ∧ (ch.ring n).descs = [] ∧ (ch.ring n).fetching = none then
    (ch.wr (F.RNG_STATE_STATE n) ringDisabled).lnUpdate
  else ch

/-- The descriptor of index `idx` of ring `n` completes as `f` fills it. -/
def Chip.complete (ch : Chip) (n idx : Nat) (f : Desc → Desc) : Chip :=
  let r := ch.ring n
  if r.descs.any fun d => d.idx == idx && !d.done then
    let descs := r.descs.map fun d => if d.idx = idx ∧ d.done = false then { f d with done := true } else d
    (ch.setRing n { r with descs := descs }).flushDone n descs.length
  else ch

/-- Completion with a status. -/
def Chip.completeSt (ch : Chip) (n idx st : Nat) : Chip := ch.complete n idx fun d => { d with status := st }

/-- A stopped ring signals and fetches no more; fetched descriptors still complete (R154). -/
def Chip.ringStop (ch : Chip) (n : Nat) : Chip :=
  (((ch.wr (F.RNG_STATE_STATE n) ringStopped).setFlag (F.RNG_CTL_ENABLE n) false).signal n).lnUpdate

/-- The ring is an enabled OUTPUT ring (R144). -/
def Chip.outEnabled (ch : Chip) (n : Nat) : Bool :=
  (ch.ring n).typ == 3 && (ch.ringState n == ringActive || ch.ringState n == ringOverflow)

/-- An OUTPUT ring holds SIZE records the host has not consumed (R128). -/
def Chip.outFull (ch : Chip) (n : Nat) : Bool :=
  decide ((ch.ring n).size ≤ sub32 (ch.rd (F.RNG_CQ_PROD_INDEX n)) (ch.ring n).hostIdx)

/-- A record of flow `f` discarded by ring `n` in OVERFLOW (R143). -/
def Chip.outDiscard (ch : Chip) (n f : Nat) : Chip :=
  let r := ch.ring n
  let ch := ch.count (F.RNG_DROP_COUNT n) (F.RNG_ERR_DROP_OVF n) 0
  ch.setRing n { r with
    lost := min max32 (r.lost + 1)
    lostFlows := insNat r.lostFlows f
    lostFirst := if r.lost = 0 then ch.now else r.lostFirst
    lostLast := ch.now }

/-- Every record that waits for ring `n` is discarded (R143). -/
def Chip.outFlush (ch : Chip) (n : Nat) : Chip :=
  ch.fab.gbk.flows.foldl (fun c e =>
    let mine := e.2.released.filter fun r => r.1 == some n
    let c := mine.foldl (fun (c : Chip) _ => c.outDiscard n e.1) c
    if mine.isEmpty then c
    else c.setFlow e.1 { c.flow e.1 with released := e.2.released.filter fun r => r.1 != some n }) ch

/-- The ring enters OVERFLOW. -/
def Chip.outOverflow (ch : Chip) (n : Nat) : Chip :=
  (ch.wr (F.RNG_STATE_STATE n) ringOverflow).outFlush n

/-- The RING_GAP record (R153), before its PHASE bit. -/
def gapRec (r : Ring) (idx : Nat) : List Byte :=
  [2#8, 0#8] ++ toLe 2 0xFFFF ++ toLe 4 idx ++ toLe 8 r.lostLast ++
    toLe 32 (r.lostFlows.foldl (fun a f => a + 2 ^ (f % 256)) 0) ++ toLe 4 r.lost ++ zeros 4 ++ toLe 8 r.lostFirst

/-- The oldest released record of flow `f` goes to its ring, waits, or is discarded (R143, R144, R495). -/
def Chip.recordOut (ch : Chip) (f : Nat) : Chip :=
  let fl := ch.flow f
  match fl.released with
  | [] => ch
  | (bound, rec) :: rest =>
    let pop := ch.setFlow f { fl with released := rest }
    match bound with
    | none => pop.count F.RNG_UNBOUND_COUNT F.RNG_GSTAT_UNBOUND_OVF 0
    | some n =>
      if ch.outEnabled n = false then pop.count F.RNG_UNBOUND_COUNT F.RNG_GSTAT_UNBOUND_OVF 0
      else if ch.ringState n = ringOverflow then pop.outDiscard n f
      else if ch.outFull n then
        if ch.rd (F.RNG_OUT_HOLD n) = 0 then ch.outOverflow n else ch
      else
        let c := pop.cqWrite gbkDomain n rec false
        if c.outFull n && decide (c.rd (F.RNG_OUT_HOLD n) = 0) then c.outOverflow n else c

end Sys2Proof.Machine
end

