-- ==== Sys2Proof/Machine/Records.lean ====
section
/-! DEFINITION. The Guestbook's shared operations (spec/11_annex_guestbook.md, spec/16_metadata.md): common headers, timecode,
release in order, fills, stale drops, and the records that fixed blocks submit. -/

namespace Sys2Proof.Machine

open Sys2Proof

/-- The stamp block of R189 as bytes. -/
def Stamp.bytes (s : Stamp) : List Byte :=
  toLe 2 s.stream ++ toLe 1 s.src ++ toLe 1 s.fflags ++ toLe 4 s.frame ++ toLe 8 s.stamp ++ toLe 4 s.budget ++
    toLe 8 s.arrival ++ zeros 4

/-- A stamp block from its bytes. -/
def Stamp.ofBytes (b : List Byte) : Stamp :=
  ⟨fieldAt b 0 2, fieldAt b 2 1, fieldAt b 3 1, fieldAt b 4 4, fieldAt b 8 8, fieldAt b 16 4, fieldAt b 20 8⟩

/-- FFLAGS bits of R189. -/
def ffConcealed : Nat := 0
def ffDiscont : Nat := 1
def ffPoison : Nat := 2
def ffTimeHold : Nat := 3
def ffEos : Nat := 4

/-- The age of a frame at time `t` (R185). -/
def Stamp.age (s : Stamp) (t : Nat) : Nat := t - s.stamp

/-- The frame is stale at time `t` (R185). -/
def Stamp.stale (s : Stamp) (t : Nat) : Bool := decide (s.budget * 1000 < s.age t)

/-- The epoch offset (R6). -/
def Chip.epoch (ch : Chip) : Int := sgn 64 (ch.rd F.TKP_EPOCH_OFFSET)

/-- Types that carry TC (R476). -/
def carriesTc (ty : Nat) : Bool :=
  ty == 0x10 || ty == 0x11 || ty == 0x16 || ty == 0x17 || ty == 0x18 || ty == 0x19

/-- Types a codelet may submit (R476). -/
def codeletType (ty : Nat) : Bool := (decide (0x13 ≤ ty) && decide (ty ≤ 0x18)) || decide (0x80 ≤ ty)

/-- The timecode rate of a stream (R480). -/
def Chip.tcRate (ch : Chip) (stream : Nat) : Nat :=
  match Tab.find ch.media.lastFps stream with
  | some f => f
  | none => ch.rd F.GBK_TCFG_FPS

/-- The TC field of a record with this STREAM and STAMP (R480). -/
def Chip.tcOf (ch : Chip) (stream stamp : Nat) : Nat :=
  let day : Int := 86400 * 1000000000
  let t : Int := (stamp : Int) + ch.epoch
  let t := if t < 0 then t % day else t
  (ns2tc (ch.tcRate stream) t.toNat).r % 2 ^ 32

/-- A record as it is released: common header completed and TC written (R475 to R480). -/
def Chip.headed (ch : Chip) (f seq : Nat) (late : Bool) (rec : List Byte) : List Byte :=
  let ty := fieldAt rec 0 1
  let fl := fieldAt rec 1 1
  let flags := bits fl 0 1 + 2 * bnat late + 8 * bits fl 3 1
  let body := (padTo 64 rec).drop 16
  let out := toLe 1 ty ++ toLe 1 flags ++ toLe 2 (f + 256 * ch.pos.val) ++ toLe 4 seq ++ toLe 8 ch.now ++ body
  if carriesTc ty then patch out 60 (toLe 4 (ch.tcOf (fieldAt rec 16 2) (fieldAt rec 24 8))) else out

/-- The Guestbook releases a record of flow `f`: it takes the flow's next SEQ (R322, R478) and goes to the ring engine. -/
def Chip.release (ch : Chip) (f : Nat) (late : Bool) (rec : List Byte) : Chip :=
  let seq := ch.rd (F.GBK_FLOW_SEQ_VALUE f)
  let fl := ch.flow f
  (ch.setFlow f { fl with released := fl.released ++ [(fl.bound, ch.headed f seq late rec)] }).wr (F.GBK_FLOW_SEQ_VALUE f) (seq + 1)

/-- Flow modes (R317). -/
def modePass : Nat := 0
def modeStamped : Nat := 1
def modeUnstamped : Nat := 2

def Chip.flowMode (ch : Chip) (f : Nat) : Nat := ch.rd (F.GBK_FLOW_MODE f)

/-- Parts of a position that a flow holds, in order of arrival. -/
def Flow.at (fl : Flow) (p : Nat) : List Submission := fl.held.filter fun x => x.position == p

/-- A position is complete: its LAST part and every part below it are held (R319). -/
def partsComplete (xs : List Submission) : Bool :=
  xs.any fun l => l.last && (List.range l.part).all fun k => xs.any fun x => x.part == k

/-- Parts in part order. -/
def partOrder (xs : List Submission) : List Submission :=
  (List.range 64).flatMap fun k => xs.filter fun x => x.part == k

/-- The different positions in a list of submissions. -/
def positionsOf (xs : List Submission) : List Nat :=
  xs.foldl (fun a x => if a.contains x.position then a else a ++ [x.position]) []

/-- GBK_FLOW.HELD follows the held positions. -/
def Chip.heldUpdate (ch : Chip) (f : Nat) : Chip :=
  ch.wr (F.GBK_FLOW_HELD f) (positionsOf (ch.flow f).held).length

/-- Bytes of record store a held part takes: its 128-byte submission block. (DEDUCED, log entry 134.) -/
def partBytes : Nat := 128

/-- The record store has room for one more part (R320, GBK_CFG.STORE in MiB). (DEDUCED, log entry 134.) -/
def Chip.storeRoom (ch : Chip) : Bool :=
  let used := ch.fab.gbk.flows.foldl (fun a e => a + e.2.held.length) 0
  decide ((used + 1) * partBytes ≤ ch.rd F.GBK_CFG_STORE * 1048576)

/-- SOURCE qualifier of a stream's drops: the slot of its consuming graph (R592 row 13). -/
def Chip.streamQual (ch : Chip) (stream : Nat) : Nat :=
  match ch.stream stream with
  | some s => slotQual s.graph
  | none => 0

/-- A stale drop counted: KEN_STALE of the stream and the STALE_DROP event (R188). -/
def Chip.noteDrop (ch : Chip) (s : Stamp) (ckpt reason dom qual : Nat) : Chip :=
  let i := s.stream % 256
  let ch := ch.count (F.KEN_STALE_COUNT i) (F.KEN_STALE_OVF_OVF (i / 32)) (i % 32)
  let ch : Chip := { ch with fab := { ch.fab with gbk := { ch.fab.gbk with
    healthStale := min max32 (ch.fab.gbk.healthStale + 1) } } }
  let ch : Chip := if ch.rd F.ADP_CFG_HOLDOFF = 0 then ch
    else { ch with adp := { ch.adp with hold := ch.now + ch.rd F.ADP_CFG_HOLDOFF * 1000000 } }.setFlag F.ADP_STAT_HOLD_LIVE true
  ch.raise 13 (source dom qual) (s.stream % 65536 + ckpt * 2 ^ 16 + reason * 2 ^ 24 + s.frame % 2 ^ 32 * 2 ^ 32)

/-- The STALE_DROP record (R485). -/
def staleRec (s : Stamp) (age ckpt reason : Nat) : List Byte :=
  padTo 64 (toLe 1 0x11 ++ toLe 1 (bits s.fflags ffPoison 1) ++ zeros 14 ++ s.bytes ++ toLe 8 age ++ toLe 1 ckpt ++ toLe 1 reason)

/-- The HOLE record (R486). -/
def holeRec (first npos kind mode stream held : Nat) : List Byte :=
  padTo 64 (toLe 1 0x12 ++ zeros 15 ++ toLe 4 first ++ toLe 4 npos ++ toLe 1 kind ++ toLe 1 mode ++ toLe 2 stream ++ zeros 4 ++
    toLe 8 held)

/-- A fill counted in GBK_FLOW.HOLES (R323). -/
def Chip.countHole (ch : Chip) (f : Nat) : Chip := ch.count (F.GBK_FLOW_HOLES_COUNT f) (F.GBK_FLOW_HOLES_OVF f) 0

/-- The held parts of a position leave the store. -/
def Chip.dropHeld (ch : Chip) (f p : Nat) : Chip :=
  let fl := ch.flow f
  ch.setFlow f { fl with held := fl.held.filter fun x => x.position != p }

/-- The position is closed by a stale drop: later parts of it are discarded. -/
def Chip.markDropped (ch : Chip) (f p : Nat) : Chip :=
  let fl := ch.flow f
  ch.setFlow f { fl with dropped := if fl.dropped.contains p then fl.dropped else fl.dropped ++ [p] }

/-- The stream of a STAMPED flow, 0 for the other modes (R486). -/
def Chip.holeStream (ch : Chip) (f : Nat) : Nat :=
  if ch.flowMode f = modeStamped then (ch.flow f).stream else 0

/-- A held picture is that of a frame. -/
def HeldPic.is (h : HeldPic) (stream frame : Nat) : Bool := h.stamp.stream == stream && h.stamp.frame == frame

/-- The running job reads a picture, which is pinned until the job ends (R220). -/
def Mosaic.pins (m : Mosaic) (h : HeldPic) : Bool :=
  m.run.elim false fun r => r.frames.contains (h.stamp.stream, h.stamp.frame)

/-- The pictures that satisfy a test are held no more; a pinned one returns when its job ends (R220, R237). -/
def Mosaic.unhold (m : Mosaic) (p : HeldPic → Bool) : Mosaic :=
  let late := (m.held.filter fun h => p h && m.pins h).map fun h => (h.stamp.stream, h.stamp.frame)
  { m with
    held := m.held.filter fun h => !p h || m.pins h
    run := m.run.map fun r => { r with release := r.release ++ late.filter fun k => !r.release.contains k } }

/-- Held pictures return to their pools. -/
def Chip.unhold (ch : Chip) (p : HeldPic → Bool) : Chip :=
  { ch with media := { ch.media with mosaic := ch.media.mosaic.unhold p } }

/-- Checkpoint 7 replaces the position by a stale-drop record, its parts are discarded and its picture returns (R220, R322, R323). -/
def Chip.staleHead (ch : Chip) (f p : Nat) (s : Stamp) : Chip :=
  let ch := ch.noteDrop s 7 0 232 (slotQual (ch.rd (F.GBK_FLOW_SLOT f)))
  let c := ((ch.release f false (staleRec s (s.age ch.now) 7 0)).dropHeld f p).markDropped f p
  c.unhold fun h => h.is s.stream s.frame

/-- Parts held for the flow are discarded and one ABORT hole record is released (R321, R335, R486). -/
def Chip.flowAbort (ch : Chip) (f : Nat) : Chip :=
  let h := ch.rd (F.GBK_FLOW_HEAD_VALUE f)
  let fl := ch.flow f
  let far := (positionsOf fl.held).foldl (fun a p => max a (sub32 p h + 1)) 0
  let c := ch.setFlow f { fl with held := [], waiting := [] }
  let c : Chip := { c with fab := { c.fab with gbk := { c.fab.gbk with
    storeWait := c.fab.gbk.storeWait.filter fun x => x.flow != f } } }
  (c.release f false (holeRec h far 2 (ch.flowMode f) (ch.holeStream f) 0)).heldUpdate f

/-- STAMPED flows that follow a stream. -/
def Chip.flowsOf (ch : Chip) (stream : Nat) : List Nat :=
  (ch.fab.gbk.flows.filter fun e => ch.flowMode e.1 == modeStamped && e.2.stream == stream).map (·.1)

/-- The stream reached CLOSED: its flows release one ABORT hole and their HEAD is unset (R321). -/
def Chip.flowsClosed (ch : Chip) (stream : Nat) : Chip :=
  (ch.flowsOf stream).foldl (fun c f =>
    let c := c.flowAbort f
    c.setFlow f { c.flow f with headSet := false }) ch

/-- HND_LIVE follows the track sets (R429, R432). -/
def Chip.hndLive (ch : Chip) : Chip :=
  (ch.wr F.HND_LIVE_TRACKS (ch.hnd.sets.foldl (fun a s => a + s.tracks.length) 0)).wr F.HND_LIVE_ROOM
    (ch.hnd.rooms.foldl (fun a s => a + s.2.tracks.length) 0)

/-- The stream is CLOSED: its flows are closed, its track set is freed (R429), its pictures return
(R220) and its STREAM_CLOSE completes (R148, R191,
R321). -/
def Chip.closeNow (ch : Chip) (stream : Nat) : Chip :=
  match ch.stream stream with
  | none => ch
  | some s =>
    let c := ch.flowsClosed stream
    let c : Chip := { c with media := { c.media with
      streams := Tab.del c.media.streams stream
      audio := { c.media.audio with streams := c.media.audio.streams.filter fun a => a.stream != stream } } }
    let c := { c with hnd := { c.hnd with sets := c.hnd.sets.filter fun x => x.stream != stream } }.hndLive
    let c := c.unhold fun h => h.stamp.stream == stream
    match s.closing with
    | some (n, idx) => c.completeSt n idx stOk
    | none => c

/-- The frame of a stream is released or dropped: it is live no more. A raw or audio stream that closes is then CLOSED with
its last frame; a bitstream is when its session has drained (R191, R213). -/
def Chip.frameGone (ch : Chip) (stream frame : Nat) : Chip :=
  match ch.stream stream with
  | none => ch
  | some s =>
    let live := s.live.filter fun x => x.frame != frame
    let c := ch.setStream stream { s with live := live, done := s.done.filter (· != frame) }
    if s.kind ≠ 1 ∧ s.closing ≠ none ∧ live = [] then c.closeNow stream else c

/-- The complete head position is released (R322), and HEAD advances; repeated while the next head is complete. -/
def Chip.flowAdvance (ch : Chip) (f : Nat) : Nat → Chip
  | 0 => ch
  | fuel + 1 =>
    let h := ch.rd (F.GBK_FLOW_HEAD_VALUE f)
    let xs := (ch.flow f).at h
    if partsComplete xs then
      let c := match xs with
        | [] => ch
        | x :: _ =>
          if ch.flowMode f = modeStamped ∧ x.stale = false ∧ x.stamp.stale ch.now then ch.staleHead f h x.stamp
          else
            let c := (partOrder xs).foldl (fun (c : Chip) (y : Submission) => c.release f false y.record) ch
            let c := c.dropHeld f h
            if x.stale then c.markDropped f h else c
      let c := if ch.flowMode f = modeStamped then c.frameGone (ch.flow f).stream h else c
      (c.wr (F.GBK_FLOW_HEAD_VALUE f) ((h + 1) % 2 ^ 32)).flowAdvance f fuel
    else ch

/-- The Guestbook places a submission on an ordered flow (R319, R320): it joins the window, waits for the head or for
store space, is released late, or is discarded as a second copy or a part of a dropped frame. -/
def Chip.place (ch : Chip) (x : Submission) : Chip :=
  let f := x.flow
  let fl := ch.flow f
  let d := sub32 x.position (ch.rd (F.GBK_FLOW_HEAD_VALUE f))
  if fl.dropped.contains x.position then ch
  else if d < 1024 then
    let xs := fl.at x.position
    if xs.any fun y => y.stale then ch
    else if x.stale ∧ (xs ≠ [] ∨ ch.storeRoom = true) then
      let c := ch.dropHeld f x.position
      let fl := c.flow f
      ((c.setFlow f { fl with held := fl.held ++ [x] }).heldUpdate f)
    else if xs.any fun y => y.part == x.part then ch.count F.GBK_BADSUB_COUNT F.GBK_STAT_OVF 1
    else if ch.storeRoom then (ch.setFlow f { fl with held := fl.held ++ [x] }).heldUpdate f
    else
      let c : Chip := { ch with fab := { ch.fab with gbk := { ch.fab.gbk with storeWait := ch.fab.gbk.storeWait ++ [x] } } }
      (c.setFlag F.GBK_STAT_STORE_FULL_LIVE true).setFlag F.GBK_STAT_STORE_FULL_SEEN true
  else if d < 2 ^ 31 then ch.setFlow f { fl with waiting := fl.waiting ++ [x] }
  else (ch.release f true x.record).count F.GBK_LATE_COUNT F.GBK_STAT_OVF 0

/-- Every flow releases what it can. -/
def Chip.flowsAdvance (ch : Chip) : Chip :=
  ch.fab.gbk.flows.foldl (fun (c : Chip) e => (c.flowAdvance e.1 ((c.flow e.1).held.length + 1)).heldUpdate e.1) ch

/-- Submissions that wait: for store space, then for the heads of their flows. -/
def Chip.waiters (ch : Chip) : List Submission := ch.fab.gbk.storeWait ++ ch.fab.gbk.flows.flatMap fun e => e.2.waiting

/-- The submissions that wait are taken again. -/
def Chip.retryWaiting (ch : Chip) : Chip :=
  let g := ch.fab.gbk
  let c : Chip := { ch with fab := { ch.fab with gbk := { g with
    storeWait := [], flows := g.flows.map fun e => (e.1, { e.2 with waiting := [] }) } } }
  ch.waiters.foldl (fun c x => c.place x) (c.setFlag F.GBK_STAT_STORE_FULL_LIVE false)

/-- Releases, then the submissions that wait, as often as they can enter; a release frees store for every flow (R320, R322). -/
def Chip.gbkSettle (ch : Chip) : Nat → Chip
  | 0 => ch
  | n + 1 =>
    let c := ch.flowsAdvance
    if c.waiters.isEmpty then c else c.retryWaiting.gbkSettle n

/-- The Guestbook settled after a change. -/
def Chip.flowSettle (ch : Chip) : Chip := ch.gbkSettle (ch.waiters.length + 2)

/-- Store that was freed lets submissions that wait enter (R320). -/
def Chip.gbkFreed (ch : Chip) : Chip := if ch.waiters.isEmpty then ch else ch.flowSettle

/-- A submission whose envelope is good (R318, R320, R495). -/
def Chip.submit (ch : Chip) (x : Submission) : Chip :=
  if ch.flowMode x.flow = modePass then ch.release x.flow false x.record
  else (ch.place x).flowSettle

/-- A submission refused: discarded, counted and latched (R333). (DEDUCED, log entry 83.) -/
def Chip.badSub (ch : Chip) (addr : Nat) : Chip :=
  (ch.count F.GBK_BADSUB_COUNT F.GBK_STAT_OVF 1).wr F.GBK_BAD_ADDR_ADDR addr

/-- The submission of a 128-byte block (R318, R333, R479): `poison` is the submitting firing's. -/
def Chip.submitBytes (ch : Chip) (addr : Nat) (blk : List Byte) (poison : Bool) (core : Option Nat) : Chip :=
  let f := fieldAt blk 0 1
  let ef := fieldAt blk 1 1
  let part := fieldAt blk 2 1
  let pos := fieldAt blk 4 4
  let st := Stamp.ofBytes (blk.drop 32)
  let rec0 := padTo 64 (blk.drop 64)
  let r64 := patch rec0 1 (toLe 1 (fieldAt rec0 1 1 ||| bnat poison))
  let mode := ch.flowMode f
  if !reservedZero blk [(3, 1), (8, 24)] || decide (2 ≤ ef) || decide (63 < part) ||
      (mode == modeStamped && (st.stream != (ch.flow f).stream || st.frame != pos || !(ch.flow f).headSet)) then ch.badSub addr
  else if core.isSome && !codeletType (fieldAt r64 0 1) then (ch.badSub addr).setFlag F.GBK_MSTAT_TYPE_SEEN true
  else ch.submit ⟨f, bit ef 0, part, pos, st, false, ch.now, r64, core⟩

/-- A record a fixed block submits on a flow in PASS. -/
def Chip.sysSubmit (ch : Chip) (f : Nat) (rec : List Byte) : Chip :=
  ch.submit ⟨f, true, 0, 0, Stamp.zero, false, ch.now, rec, none⟩

/-- The chip's record of a frame on the route (R56). (DEDUCED, log entry 70.) -/
def Chip.frameOf (ch : Chip) (stream frame : Nat) : Option Stamp :=
  match ch.stream stream with
  | some s => s.live.find? fun x => x.frame == frame
  | none => none

/-- A fixed block submits part `part` of position `pos` on flow `f`: a stamp that does not fit a STAMPED flow is refused
(R318, R333). -/
def Chip.blockSubmit (ch : Chip) (f : Nat) (last : Bool) (part pos : Nat) (st : Stamp) (stale : Bool) (r64 : List Byte) :
    Chip :=
  if ch.flowMode f = modeStamped && (st.stream != (ch.flow f).stream || st.frame != pos || !(ch.flow f).headSet) then
    ch.count F.GBK_BADSUB_COUNT F.GBK_STAT_OVF 1
  else ch.submit ⟨f, last, part, pos, st, stale, ch.now, r64, none⟩

/-- A frame dropped at a checkpoint at age `age` (R175, R188, R220): the stale-drop record on the stream's FLOW, in that flow's
order, and its picture returns. A
frame that is no longer on the route was dropped or released before, and is not dropped again. -/
def Chip.dropFrameAge (ch : Chip) (s : Stamp) (age ckpt reason dom : Nat) : Chip :=
  match ch.stream s.stream, ch.frameOf s.stream s.frame with
  | some st, some _ =>
    let c := ch.noteDrop s ckpt reason dom (ch.streamQual s.stream)
    let c := c.blockSubmit st.flow true 0 s.frame s true (staleRec s age ckpt reason)
    ((c.unhold fun h => h.is s.stream s.frame).frameGone s.stream s.frame).gbkFreed
  | _, _ => ch

/-- A frame dropped at a checkpoint now. -/
def Chip.dropFrame (ch : Chip) (s : Stamp) (ckpt reason dom : Nat) : Chip :=
  ch.dropFrameAge s (s.age ch.now) ckpt reason dom

/-! ### Fills (R323) and declarations (R317, R321, R335) -/

/-- The next position at or after `p` that holds a part, as a distance from the head. -/
def Chip.nextHeld (ch : Chip) (f : Nat) : Option Nat :=
  let h := ch.rd (F.GBK_FLOW_HEAD_VALUE f)
  argMin id ((positionsOf (ch.flow f).held).map fun p => sub32 p h)

/-- The frames of the `n` positions from `h` of a STAMPED flow are released. (DEDUCED, log entry 81.) -/
def Chip.framesGone (ch : Chip) (f h n : Nat) : Chip :=
  if ch.flowMode f = modeStamped then
    match ch.stream (ch.flow f).stream with
    | some s => (s.live.filter fun x => decide (sub32 x.frame h < n)).foldl (fun c x => c.frameGone (ch.flow f).stream x.frame) ch
    | none => ch
  else ch

/-- The head position reaches its deadline with parts missing (R323). -/
def Chip.fillHead (ch : Chip) (f : Nat) : Chip :=
  let h := ch.rd (F.GBK_FLOW_HEAD_VALUE f)
  let mode := ch.flowMode f
  let xs := (ch.flow f).at h
  match xs with
  | x :: _ =>
    let c :=
      if mode = modeStamped then ch.staleHead f h x.stamp
      else
        let mask := xs.foldl (fun a y => a ||| 2 ^ y.part) 0
        let c := ch.release f false (holeRec h 1 1 mode 0 mask)
        ((partOrder xs).foldl (fun c y => c.release f false y.record) c).dropHeld f h
    let c := c.framesGone f h 1
    ((c.countHole f).wr (F.GBK_FLOW_HEAD_VALUE f) ((h + 1) % 2 ^ 32)).flowSettle
  | [] =>
    match ch.nextHeld f with
    | none => ch
    | some n =>
      let c := ch.release f false (holeRec h n 0 mode (ch.holeStream f) 0)
      let c := c.framesGone f h n
      ((c.countHole f).wr (F.GBK_FLOW_HEAD_VALUE f) ((h + n) % 2 ^ 32)).flowSettle

/-- The flow returns to PASS as its graph leaves ARMED (R317, R335). -/
def Chip.flowUndeclare (ch : Chip) (f : Nat) : Chip :=
  let c := ch.flowAbort f
  let fl := c.flow f
  ((c.setFlow f { fl with stream := 0, hold := 0, headSet := true, dropped := [] }).wr (F.GBK_FLOW_MODE f) modePass).wr
    (F.GBK_FLOW_SLOT f) 0 |>.gbkFreed

/-- STREAM_OPEN sets the HEAD of the stream's flows to 0 (R321). -/
def Chip.flowsOpened (ch : Chip) (stream : Nat) : Chip :=
  (ch.flowsOf stream).foldl (fun c f =>
    (c.setFlow f { c.flow f with headSet := true, dropped := [] }).wr (F.GBK_FLOW_HEAD_VALUE f) 0) ch

end Sys2Proof.Machine
end

