-- ==== Sys2Proof/Machine/FcuOps.lean ====
section
/-! DEFINITION. The fault collector's records and classification (R593 to R597, R604, R612). The reactions of a level are in
Faults.lean. -/

namespace Sys2Proof.Machine

open Sys2Proof

/-- Class, base level, N and W of row `r`, from 1 (R592). -/
def rowClass (r : Nat) : Nat := ((faultRows[r - 1]?).getD (0, 0, 0, 0)).1
def rowBase (r : Nat) : Nat := ((faultRows[r - 1]?).getD (0, 0, 0, 0)).2.1
def Chip.rowNOf (ch : Chip) (r : Nat) : Nat := ch.rd (F.FCU_ROW_N (r - 1))
def Chip.rowWOf (ch : Chip) (r : Nat) : Nat := ch.rd (F.FCU_ROW_W (r - 1))

/-- Levels of a fault. -/
def lvNote : Nat := 0
def lvDegrade : Nat := 1
def lvContain : Nat := 2
def lvSafeStop : Nat := 3
def lvHalt : Nat := 4

/-- The domain and qualifier of a SOURCE (R591). -/
def srcDom (s : Nat) : Nat := s % 512
def srcQual (s : Nat) : Nat := s / 512 % 128

/-- A SOURCE names a domain that exists: no record carries a reserved ID (R91). -/
def srcReal (s : Nat) : Bool := decide (srcDom s < 236) || (decide (256 ≤ srcDom s) && decide (srcDom s < 284))

/-- The slot of a slot-bound SOURCE (R591). -/
def srcSlot (s : Nat) : Option Nat := if 0x40 ≤ srcQual s ∧ srcQual s ≤ 0x4F then some (srcQual s - 0x40) else none

/-- TKP_STAT.STATE codes. -/
def tkpUnset : Nat := 0
def tkpLocked : Nat := 1
def tkpHold : Nat := 2

/-- A Trail link is UP at x4. -/
def Chip.linkUp4 (ch : Chip) (l : Nat) : Bool := ch.rd (F.TRL_STAT_STATE l) == 2 && ch.flag (F.TRL_STAT_WIDTH l)

/-- The LIVE condition of R592 for a row and SOURCE. -/
def Chip.liveCond (ch : Chip) (row src : Nat) : Bool :=
  let d := srcDom src
  match row with
  | 9 => decide (0 < ch.rd (F.ANX_USED_TOKENS (d / 18)))
  | 10 => ch.flag F.DFX_DL_STAT_DL_LIVE && srcSlot src == some (ch.rd F.DFX_DL_STAT_SLOT)
  | 17 => !ch.linkUp4 (d - 273)
  | 18 => ch.rd F.TKP_STAT_STATE == tkpHold
  | 19 =>
    let off := (sgn 16 (ch.rd (F.TRL_TIME_OFF (d - 273)))).natAbs
    decide (0 < ch.rd F.TRL_GCFG_LIMIT) && decide (ch.rd F.TRL_GCFG_LIMIT < off)
  | 20 => decide (1728 ≤ sgn 16 (ch.rd F.PWR_TJ_TJ)) || ch.flag F.PWR_THERM_FAN_LOW_LIVE
  | 21 => Tab.get 0 ch.mc.mr4 (2 * (d - 256) + srcQual src) == 31
  | 22 => ch.flag F.PWR_PACE_STAT_CEIL_LIVE || decide (ch.rd F.PWR_VCORE_MV < 650)
  | 24 => ch.flag F.DFX_XING_STAT_STALL_LIVE
  | 26 => ch.flag F.SEN_STAT_SAFE_LATCH
  | 28 =>
    if srcQual src = 9 then decide (0 < ch.sen.openA) else if srcQual src = 10 then decide (0 < ch.sen.openB) else ch.flag F.SEN_STAT_SAFE_LATCH
  | 29 => ch.flag F.SEN_STAT_SAFE_LATCH
  | _ => false

/-- The record of a key, if one is allocated (R593). -/
def Chip.recOf (ch : Chip) (cls src : Nat) : Option Nat :=
  (List.range 256).find? fun i => ch.rd (F.FCU_REC_STAT_CLASS i) == cls && ch.rd (F.FCU_REC_SRC_SOURCE i) == src

/-- The lowest free index. -/
def Chip.recFree (ch : Chip) : Option Nat := (List.range 256).find? fun i => ch.rd (F.FCU_REC_STAT_CLASS i) == 0

/-- Indexes of records with SEEN set. -/
def Chip.recsSeen (ch : Chip) : List Nat := (List.range 256).filter fun i => ch.flag (F.FCU_REC_STAT_SEEN i)

/-- FCU_STAT follows the records. -/
def Chip.fcuSummary (ch : Chip) : Chip :=
  let seen := ch.recsSeen
  let recs := (List.range 256).filter fun i => ch.rd (F.FCU_REC_STAT_CLASS i) != 0
  ((ch.wr F.FCU_STAT_RECS recs.length).setFlag F.FCU_STAT_ANY_SEEN (!seen.isEmpty)).wr F.FCU_STAT_MAXLEV
    (seen.foldl (fun a i => max a (ch.rd (F.FCU_REC_STAT_LEVEL i))) 0)

/-- The FAULT record of a fault record (R492, R612). -/
def faultRec (idx cls level event rflags src first last cnt detail : Nat) : List Byte :=
  padTo 64 (toLe 1 0x1C ++ zeros 15 ++ toLe 2 idx ++ toLe 1 cls ++ toLe 1 level ++ toLe 1 event ++ toLe 1 rflags ++
    toLe 2 src ++ toLe 8 first ++ toLe 8 last ++ toLe 4 cnt ++ zeros 4 ++ toLe 8 detail)

/-- RFLAGS of record `i`: SEEN, LIVE, OVF. -/
def Chip.rflags (ch : Chip) (i : Nat) : Nat :=
  ch.rd (F.FCU_REC_STAT_SEEN i) + 2 * ch.rd (F.FCU_REC_STAT_LIVE i) + 4 * ch.rd (F.FCU_REC_STAT_OVF i)

/-- A FAULT record submitted on its flow, or kept for the wake while the chip is in Doze (R494, R600). -/
def Chip.submitFault (ch : Chip) (r : List Byte) : Chip :=
  if ch.flag F.GBK_SYSFLOW_FAULT_EN then
    let f := ch.rd F.GBK_SYSFLOW_FAULT_FLOW
    if ch.pwr = pwrDoze then
      { ch with fab := { ch.fab with gbk := { ch.fab.gbk with dozeRecs := ch.fab.gbk.dozeRecs ++ [(f, r)] } } }
    else ch.sysSubmit f r
  else ch

/-- The FAULT record of record `i` with an EVENT and a LEVEL. -/
def Chip.submitRec (ch : Chip) (i event level : Nat) : Chip :=
  ch.submitFault (faultRec i (ch.rd (F.FCU_REC_STAT_CLASS i)) level event (ch.rflags i) (ch.rd (F.FCU_REC_SRC_SOURCE i))
    (ch.rd (F.FCU_REC_FIRST_TIME i)) (ch.rd (F.FCU_REC_LAST_TIME i)) (ch.rd (F.FCU_REC_COUNT_COUNT i))
    (ch.rd (F.FCU_REC_DETAIL_DETAIL i) % 2 ^ 64))

/-- What a NEW or ESCALATE report does beside its record (R597). -/
def Chip.report (ch : Chip) (level : Nat) : Chip :=
  let c := ch.msix 128
  if level = lvHalt then c.aer .internalFatal
  else if lvContain ≤ level then c.aer .internalNonFatal
  else c

/-- Escalation: the highest LEVEL of another SEEN record of the class at DEGRADE or above in another millisecond (R596). -/
def Chip.escalation (ch : Chip) (cls : Nat) (self : Option Nat) (t : Nat) : Option Nat :=
  let xs := ch.recsSeen.filter fun i => some i != self && ch.rd (F.FCU_REC_STAT_CLASS i) == cls &&
    decide (lvDegrade ≤ ch.rd (F.FCU_REC_STAT_LEVEL i)) &&
    ch.rd (F.FCU_REC_LAST_TIME i) / 1000000 != t / 1000000
  if xs = [] then none else some (xs.foldl (fun a i => max a (ch.rd (F.FCU_REC_STAT_LEVEL i))) 0)

/-- The level of an event from its window count (R596). -/
def Chip.levelOf (ch : Chip) (row wc : Nat) (self : Option Nat) (t : Nat) : Nat :=
  let n := ch.rowNOf row
  let l := if n ≠ 0 ∧ n ≤ wc then rowBase row + 1 else rowBase row
  let l := if lvDegrade ≤ l then
      match ch.escalation (rowClass row) self t with
      | some e => max l (e + 1)
      | none => l
    else l
  min l lvHalt

/-- A record's window after an event at `t` (R596). -/
def Chip.window (ch : Chip) (row i t : Nat) : Nat × Nat :=
  match Tab.find ch.fcu.wins i with
  | some (ws, wc) => if t - ws < ch.rowWOf row * 1000000 then (ws, wc + 1) else (t, 1)
  | none => (t, 1)

/-- The collector takes an event (R593 to R597): the level it classified and the chip with the record updated. -/
def Chip.collect (ch : Chip) (e : FaultEv) : Nat × Chip :=
  let cls := rowClass e.row
  let go (ch : Chip) (i : Nat) (isNew : Bool) : Nat × Chip :=
    let w := ch.window e.row i e.time
    let l := ch.levelOf e.row w.2 (some i) e.time
    let old := ch.rd (F.FCU_REC_STAT_LEVEL i)
    let nu := isNew || !ch.flag (F.FCU_REC_STAT_SEEN i)
    let c : Chip := { ch with fcu := { ch.fcu with wins := Tab.put ch.fcu.wins i w } }
    let c := c.count (F.FCU_REC_COUNT_COUNT i) (F.FCU_REC_STAT_OVF i) 0
    let c := (c.wr (F.FCU_REC_STAT_CLASS i) cls).wr (F.FCU_REC_SRC_SOURCE i) e.source
    let c := if isNew then c.wr (F.FCU_REC_FIRST_TIME i) e.time else c
    let c := (c.wr (F.FCU_REC_LAST_TIME i) e.time).wr (F.FCU_REC_DETAIL_DETAIL i) e.detail
    let c := (c.setFlag (F.FCU_REC_STAT_SEEN i) true).wr (F.FCU_REC_STAT_ROW i) e.row
    let c := (c.wr (F.FCU_REC_STAT_LEVEL i) (max old l)).setFlag (F.FCU_REC_STAT_LIVE i) (c.liveCond e.row e.source)
    let c := c.fcuSummary
    let c :=
      if nu then (c.submitRec i 1 (max old l)).report (max old l)
      else if old < l then (c.submitRec i 2 l).report l
      else c
    (l, c)
  match ch.recOf cls e.source with
  | some i => go ch i false
  | none =>
    match ch.recFree with
    | some i =>
      let c := ((ch.wr (F.FCU_REC_COUNT_COUNT i) 0).wr (F.FCU_REC_STAT_LEVEL i) 0).setFlag (F.FCU_REC_STAT_OVF i) false
      let c : Chip := { c with fcu := { c.fcu with wins := Tab.del c.fcu.wins i } }
      go c i true
    | none =>
      let l := ch.levelOf e.row 1 none e.time
      let c := (ch.count F.FCU_LOST_COUNT F.FCU_STAT_LOST_OVF 0).setFlag F.FCU_STAT_FULL_SEEN true
      (l, (c.submitFault (faultRec 0xFFFF cls l 1 0 e.source e.time e.time 1 (e.detail % 2 ^ 64))).report l)

/-- A record freed: its CLASS reads 0 (R604, R613). -/
def Chip.freeRec (ch : Chip) (i : Nat) : Chip :=
  let c := ((ch.wr (F.FCU_REC_STAT_CLASS i) 0).wr (F.FCU_REC_STAT_LEVEL i) 0).setFlag (F.FCU_REC_STAT_SEEN i) false
  let c := ((c.setFlag (F.FCU_REC_STAT_LIVE i) false).setFlag (F.FCU_REC_STAT_OVF i) false).wr (F.FCU_REC_STAT_ROW i) 0
  let c := ((c.wr (F.FCU_REC_SRC_SOURCE i) 0).wr (F.FCU_REC_COUNT_COUNT i) 0).wr (F.FCU_REC_FIRST_TIME i) 0
  let c := (c.wr (F.FCU_REC_LAST_TIME i) 0).wr (F.FCU_REC_DETAIL_DETAIL i) 0
  { c with fcu := { c.fcu with wins := Tab.del c.fcu.wins i } }

/-- LIVE of record `i` taken from its condition (R594). -/
def Chip.liveNow (ch : Chip) (i : Nat) : Bool :=
  ch.liveCond (ch.rd (F.FCU_REC_STAT_ROW i)) (ch.rd (F.FCU_REC_SRC_SOURCE i))

/-- An acknowledgement of record `i` (R604): none where the record is free or not SEEN. -/
def Chip.ackRec (ch : Chip) (i : Nat) : Option Chip :=
  if 256 ≤ i ∨ ch.rd (F.FCU_REC_STAT_CLASS i) = 0 ∨ ch.flag (F.FCU_REC_STAT_SEEN i) = false then none
  else
    let level := ch.rd (F.FCU_REC_STAT_LEVEL i)
    let live := ch.liveNow i
    let c := ((ch.setFlag (F.FCU_REC_STAT_SEEN i) false).wr (F.FCU_REC_STAT_LEVEL i) 0).setFlag (F.FCU_REC_STAT_LIVE i) live
    let c : Chip := { c with fcu := { c.fcu with wins := Tab.del c.fcu.wins i } }
    let c := c.submitRec i 3 level
    some ((if live then c else c.freeRec i).fcuSummary)

end Sys2Proof.Machine
end

