-- ==== Sys2Proof/Machine/PcieOps.lean ====
section
/-! DEFINITION. The power transitions that other blocks ask for (R618 to R622, R638). -/

namespace Sys2Proof.Machine

open Sys2Proof

/-! ### Power transitions -/

/-- The POWER_REQ that waits for the deferral completes (R620). -/
def Chip.powerReqDone (ch : Chip) (st : Nat) : Chip :=
  match ch.pw with
  | some (n, i) => { ch with pw := none }.completeSt n i st
  | none => ch

/-- A wake event (R621, R622, R638): it ends Doze, or abandons an entry before its commit point. A chip that HALT stopped
stays powered down. -/
def Chip.wakeEvent (ch : Chip) (code : Nat) : Chip :=
  if ch.pwr = pwrDoze then
    if ch.halted then ch else (ch.wr F.PWR_STATE_STATE pwrWaking).wr F.PWR_WAKE_SRC_CODE code
  else if ch.pwr = pwrEntering then
    let c := ((ch.wr F.PWR_STATE_STATE pwrRun).setFlag F.PWR_STATE_DEFER_LIVE false).setFlag F.PWR_STATE_ABANDON_SEEN true
    (c.powerReqDone stBusy).msix 130
  else ch

/-- The ring engine fetches: in Run, and in ENTERING until the deferral ends (R620, R639). -/
def Chip.fetches (ch : Chip) : Bool :=
  !ch.halted && (ch.pwr == pwrRun || (ch.pwr == pwrEntering && ch.flag F.PWR_STATE_DEFER_LIVE))

end Sys2Proof.Machine
end

