-- ==== Sys2Proof/Machine/Rings.lean ====
section
/-! DEFINITION. Rings (spec/05_rings.md): enabling, doorbells, fetching descriptors, the short commands, signals and the
records of OUTPUT rings. -/

namespace Sys2Proof.Machine

open Sys2Proof

/-! ### Ring states (R154, R155) -/

/-- The RNG_ERR bit of the first check of R155 that fails. -/
def Chip.enableCheck (ch : Chip) (n : Nat) : Option Field :=
  let size := ch.rd (F.RNG_SIZE_SIZE n)
  let typ := ch.rd (F.RNG_CTL_TYPE n)
  if !ch.flag F.HIF_STATUS_READY then some (F.RNG_ERR_NOT_READY n)
  else if size < 16 ∨ 65536 < size ∨ popcount 17 size ≠ 1 then some (F.RNG_ERR_SIZE n)
  else if typ = 0 then some (F.RNG_ERR_TYPE n)
  else if (typ ≠ 3 ∧ ch.rd (F.RNG_SQ_BASE_BASE n) = 0) ∨ ch.rd (F.RNG_CQ_BASE_BASE n) = 0 ∨ ch.rd F.RNG_DB_BASE_BASE = 0 then
    some (F.RNG_ERR_ALIGN n)
  else none

/-- ENABLE written 1 (R154, R155). A ring that is enabled already stays as it is; one that drains or stopped refuses. -/
def Chip.ringEnable (ch : Chip) (n : Nat) : Chip :=
  let st := ch.ringState n
  if st = ringActive ∨ st = ringOverflow then ch.setFlag (F.RNG_CTL_ENABLE n) true
  else if st ≠ ringDisabled then ch.setFlag (F.RNG_CTL_ENABLE n) false
  else match ch.enableCheck n with
    | some e => (ch.setFlag (F.RNG_CTL_ENABLE n) false).setFlag e true
    | none =>
      let r : Ring := { Ring.reset with
        typ := ch.rd (F.RNG_CTL_TYPE n)
        gen := ch.rd (F.RNG_CTL_GEN n)
        size := ch.rd (F.RNG_SIZE_SIZE n)
        sqBase := 64 * ch.rd (F.RNG_SQ_BASE_BASE n)
        cqBase := 64 * ch.rd (F.RNG_CQ_BASE_BASE n) }
      let c := ((ch.setRing n r).wr (F.RNG_SQ_CONS_INDEX n) 0).wr (F.RNG_CQ_PROD_INDEX n) 0
      ((c.wr (F.RNG_STATE_STATE n) ringActive).setFlag (F.RNG_CTL_ENABLE n) true).lnUpdate

/-- ENABLE written 0: no further fetches. (DESIGN CHOICE, log entry 147.) -/
def Chip.ringDisable (ch : Chip) (n : Nat) : Chip :=
  let c := ch.setFlag (F.RNG_CTL_ENABLE n) false
  if ch.ringState n = ringActive ∨ ch.ringState n = ringOverflow then c.wr (F.RNG_STATE_STATE n) ringDraining else c

/-- RING_ENABLE (R154, R155). -/
def execRingEnable (c : ChipId) (n : Fin 128) (s : State) : Res :=
  onChip s c fun ch => ch.whenPowered (F.RNG_CTL_ENABLE n.val).reg 1 fun ch => ch.ringEnable n.val

/-- RING_DISABLE (R154). -/
def execRingDisable (c : ChipId) (n : Fin 128) (s : State) : Res :=
  onChip s c fun ch => ch.whenPowered (F.RNG_CTL_ENABLE n.val).reg 0 fun ch => ch.ringDisable n.val

/-- RING_DRAINED (R131, R154): the last fetched descriptor of a DRAINING ring has completed. -/
def execRingDrained (c : ChipId) (n : Fin 128) (s : State) : Res := onChip s c fun ch => ch.ringIdle n.val

/-! ### Fetching (R135) -/

/-- The next descriptor read of ring `n`, when it has work, no read is out and no write of the ring engine waits at PCIe. -/
def Chip.ringFetch (ch : Chip) (n : Nat) : Chip :=
  let r := ch.ring n
  let cons := ch.rd (F.RNG_SQ_CONS_INDEX n)
  let pend := sub32 r.hostIdx cons
  if ch.ringState n = ringActive ∧ r.typ ≠ 3 ∧ r.fetching = none ∧ pend ≠ 0 ∧ ch.fetches = true ∧ ch.ringStuck = false then
    let k := min (min pend (min 8 (ch.mrrs / 64))) (r.size - cons % r.size)
    (ch.setRing n { r with fetching := some (cons, k) }).hostRead (.descriptor n) (r.sqBase + 64 * (cons % r.size)) (64 * k)
  else ch

/-- Every ring with work fetches. -/
def Chip.fetchAll (ch : Chip) : Chip := (List.range 128).foldl (fun (c : Chip) n => c.ringFetch n) ch

/-! ### Payload reads of the Kennels (R157, R160, R191) -/

/-- Bytes per Kennel bank. -/
def Chip.bankBytes (ch : Chip) : Nat := ch.rd F.KEN_CFG_BANK * 65536
def Chip.kennel (ch : Chip) (k : Nat) : Kennel := Tab.get Kennel.reset ch.media.kennels k
def Chip.setKennel (ch : Chip) (k : Nat) (x : Kennel) : Chip :=
  { ch with media := { ch.media with kennels := Tab.put ch.media.kennels k x } }

def Chip.kW (ch : Chip) (k : Nat) : Nat := ch.rd (F.KEN_WPOS_VALUE k)
def Chip.kR (ch : Chip) (k : Nat) : Nat := ch.rd (F.KEN_RPOS_VALUE k)
def Chip.kL (ch : Chip) (k : Nat) : Nat := ch.rd (F.KEN_LPOS_VALUE k)

/-- First offset beyond what the writer may write (R160). -/
def Chip.kLimit (ch : Chip) (k : Nat) : Nat := ch.kL k / ch.bankBytes * ch.bankBytes + 2 * ch.bankBytes

/-- The stream of a Kennel closes or is closed: its payload is discarded (R191). -/
def Chip.kClosing (ch : Chip) (k : Nat) : Bool :=
  match ch.stream (ch.rd (F.KEN_STAT_STREAM k)) with
  | some s => s.closing != none
  | none => true

/-- The writer may write at W: the limit of R160 leaves room and the record queue is not full. What is discarded needs no room.
(DEDUCED, log entry 152.) -/
def Chip.kRoom (ch : Chip) (k : Nat) : Bool :=
  ch.kClosing k || (decide (ch.kW k < ch.kLimit k) && decide ((ch.kennel k).recs.length < 64))

/-- The next payload read of the buffer that a Kennel takes, or FULL (R160, R162, R191). -/
def Chip.kFill (ch : Chip) (k : Nat) : Chip :=
  let x := ch.kennel k
  match x.fill with
  | some f =>
    if f.reading ≠ 0 ∨ f.len ≤ f.got ∨ ch.fetches = false then ch
    else if ch.kRoom k = false then (ch.setFlag (F.KEN_STAT_FULL_LIVE k) true).setFlag (F.KEN_STAT_FULL_SEEN k) true
    else
      let left := f.len - f.got
      let n := min (if ch.kClosing k then left else min left (ch.kLimit k - ch.kW k)) ch.mrrs
      let c := ch.setFlag (F.KEN_STAT_FULL_LIVE k) false
      (c.setKennel k { x with fill := some { f with reading := n } }).hostRead (.payload k) (f.addr + f.got) n
  | none => ch

/-- A wake event; an entry that it abandons lets the rings and the Kennels go on (R621). -/
def Chip.wakeUp (ch : Chip) (code : Nat) : Chip :=
  let c := (ch.wakeEvent code).fetchAll
  (c.media.kennels.filter fun e => e.2.fill.isSome && !c.flag (F.KEN_STAT_FULL_LIVE e.1)).foldl (fun (c : Chip) e => c.kFill e.1) c

/-! ### Doorbells (R129 to R134) -/

/-- OVERRUN: the ring stops (R134, R154). -/
def Chip.overrun (ch : Chip) (n : Nat) : Chip := (ch.setFlag (F.RNG_ERR_OVERRUN n) true).ringStop n

/-- The host freed slots of an OUTPUT ring in OVERFLOW: the gap record, and the ring is ACTIVE again; with
HOLD 0 it overflows at once where the record takes the last slot (R143, R153, R157). -/
def Chip.outGap (ch : Chip) (n : Nat) : Chip :=
  if ch.ringState n = ringOverflow ∧ ch.outFull n = false then
    let r := ch.ring n
    let c := ch.setRing n { r with lost := 0, lostFlows := [], lostFirst := 0, lostLast := 0 }
    let c := (c.cqWrite ringDomain n (gapRec r (ch.rd (F.RNG_CQ_PROD_INDEX n))) false).wr (F.RNG_STATE_STATE n) ringActive
    if c.outFull n && decide (c.rd (F.RNG_OUT_HOLD n) = 0) then c.outOverflow n else c
  else ch

/-- A doorbell word of an enabled ring is read (R130, R134). The flag says whether the ring advanced.
(DESIGN CHOICE, log entry 146.) -/
def Chip.doorbell (ch : Chip) (n w : Nat) : Bool × Chip :=
  let r := ch.ring n
  let st := ch.ringState n
  let idx := bits w 0 32
  if st ≠ ringActive ∧ st ≠ ringOverflow then (false, ch)
  else if bits w 32 16 ≠ r.gen then (false, ch.setFlag (F.RNG_ERR_GEN_SEEN n) true)
  else if r.typ = 3 then
    if r.size < sub32 (ch.rd (F.RNG_CQ_PROD_INDEX n)) idx then (false, ch.overrun n)
    else (idx != r.hostIdx, ((ch.setRing n { r with hostIdx := idx }).wr (F.RNG_SQ_CONS_INDEX n) idx).outGap n)
  else if r.size < sub32 idx (ch.rd (F.RNG_SQ_CONS_INDEX n)) then (false, ch.overrun n)
  else (idx != r.hostIdx, ((ch.setRing n { r with hostIdx := idx }).ringFetch n))

/-- The words of a doorbell line in ring order; an advance is a host doorbell (R133, R622). -/
def Chip.doorbells (ch : Chip) (line : Nat) (data : List Byte) : Chip :=
  let k := ch.ringsPerLine
  let r := (List.range k).foldl (fun (a : Bool × Chip) i =>
    let d := a.2.doorbell (k * line + i) (fieldAt data (8 * i) 8)
    (a.1 || d.1, d.2)) (false, ch)
  if r.1 then r.2.wakeUp 2 else r.2

/-- The first outstanding read of a use leaves the list. -/
def Chip.takeRead (ch : Chip) (use : ReadUse) : Option Chip :=
  match pickFirst (fun (r : ReadReq) => r.use == use) ch.hif.reads with
  | some (_, rest) => some (ch.setReads rest)
  | none => none

/-- Lines that the chip must poll: those it has not registered (R132). -/
def Chip.pollLines (ch : Chip) : List Nat := ch.linesNeeded.filter fun l => !ch.hif.lnRegs.contains l

/-- DOORBELL_POLL (R132). -/
def execDoorbellPoll (c : ChipId) (s : State) : Res :=
  onChip s c fun ch =>
    if ch.pwr = pwrRun ∧ ch.halted = false ∧ ch.rd F.RNG_POLL_PERIOD ≠ 0 then ch.pollLines.foldl (fun c l => c.readLine false l) ch
    else ch

/-- DOORBELL_FALLBACK_POLL (R132): with PERIOD 0 an unregistered line is read every 1,000 µs. -/
def execDoorbellFallbackPoll (c : ChipId) (s : State) : Res :=
  onChip s c fun ch =>
    if ch.pwr = pwrRun ∧ ch.halted = false ∧ ch.rd F.RNG_POLL_PERIOD = 0 ∧ ch.pollLines ≠ [] then
      (ch.pollLines.foldl (fun c l => c.readLine false l) ch).setFlag F.RNG_GSTAT_FALLBACK_SEEN true
    else ch

/-- DOORBELL_SWEEP (R132). -/
def execDoorbellSweep (c : ChipId) (s : State) : Res :=
  onChip s c fun ch =>
    if ch.pwr = pwrRun ∧ ch.halted = false ∧ ch.rd F.RNG_POLL_SWEEP ≠ 0 then
      ch.linesNeeded.foldl (fun c l => c.readLine false l) ch
    else ch

/-- DOZE_DOORBELL_POLL (R133). -/
def execDozeDoorbellPoll (c : ChipId) (s : State) : Res :=
  onChip s c fun ch =>
    if ch.pwr = pwrDoze ∧ ch.halted = false ∧ ch.rd F.RNG_POLL_DOZE ≠ 0 then
      ch.pollLines.foldl (fun c l => c.readLine false l) ch
    else ch

/-- A doorbell line returned. A failed read tells nothing; the line is read again at the next poll. -/
def Chip.doorbellRead (ch : Chip) (line : Nat) (res : ReadResult) : Chip :=
  match ch.takeRead (.doorbell line) with
  | some c =>
    let c := c.readAer res
    if res.fail = .none ∧ ch.halted = false then c.doorbells line res.data else c
  | none => ch

/-- DOORBELL_READ_COMPLETE (R113, R134). -/
def execDoorbellReadComplete (c : ChipId) (line : Nat) (res : ReadResult) (s : State) : Res :=
  onChip s c fun ch => ch.doorbellRead line res

/-! ### Descriptors (R146, R147) -/

/-- Opcodes of COMMAND rings. -/
def commandOps : List Nat :=
  [opNop, opGraphLoad, opGraphUnload, opStreamOpen, opStreamClose, opStreamSet, opFlowBind, opCritical, opEpochSet, opFaultAck,
    opPowerReq, opJobSubmit]

/-- The status of an opcode that no command of the ring has (R147). -/
def opcodeStatus (typ op : Nat) : Option Nat :=
  if !(commandOps.contains op || op == opBuf) then some stBadOpcode
  else if (typ == 1 && op == opBuf) || (typ == 2 && op != opBuf && op != opNop) then some stWrongRing
  else none

/-- ID of a descriptor's completion: the stream or the flow that it names (R151). -/
def descId (op : Nat) (b : List Byte) : Nat :=
  if [opBuf, opStreamOpen, opStreamClose, opStreamSet, opFlowBind].contains op then fieldAt b 8 2 else 0xFFFF

/-- A fetched descriptor; one whose opcode the ring does not take is refused at once. -/
def newDesc (typ idx : Nat) (b : List Byte) : Desc :=
  let op := fieldAt b 0 2
  let st := opcodeStatus typ op
  ⟨idx, b, st.isSome, st.isSome, st.getD 0, op, fieldAt b 4 4, descId op b, 0, 0, 0, false, bit (fieldAt b 2 1) 1⟩

/-- A descriptor that could not be read: its record, and the ring stops (R154, R157). (DESIGN CHOICE, log entry 148.) -/
def Chip.descFail (ch : Chip) (n idx st : Nat) (fetch poison : Bool) : Chip :=
  let d : Desc := ⟨idx, zeros 64, true, true, st, 0, 0, 0xFFFF, 0, 0, 0, poison, false⟩
  let r := ch.ring n
  let c := ch.setRing n { r with fetching := none, descs := r.descs ++ [d] }
  let c := if fetch then c.setFlag (F.RNG_ERR_FETCH n) true else c
  let c := if poison then c.setFlag (F.RNG_ERR_DESC_POISON n) true else c
  (c.flushDone n (r.descs.length + 1)).ringStop n

/-- A descriptor read returned (R135, R154). -/
def Chip.descRead (ch : Chip) (n : Nat) (res : ReadResult) : Chip :=
  match ch.takeRead (.descriptor n), (ch.ring n).fetching with
  | some c, some (i, k) =>
    let c := c.readAer res
    if c.halted then c
    else if res.fail ≠ .none then c.descFail n i stHostReadErr true res.ep
    else if res.ep then c.descFail n i stHostPoison false true
    else
      let r := c.ring n
      let ds := (List.range k).map fun j => newDesc r.typ ((i + j) % 2 ^ 32) (padTo 64 ((res.data.drop (64 * j)).take 64))
      let c := (c.setRing n { r with fetching := none, descs := r.descs ++ ds }).wr (F.RNG_SQ_CONS_INDEX n) (i + k)
      (c.flushDone n (r.descs.length + k)).ringFetch n
  | some c, none => c
  | none, _ => ch

/-- DESCRIPTOR_FETCH_COMPLETE (R135, R147, R154). -/
def execDescriptorFetchComplete (c : ChipId) (n : Fin 128) (res : ReadResult) (s : State) : Res :=
  onChip s c fun ch => ch.descRead n.val res

/-- The descriptor of opcode `op` that ring `n` starts next: the first one not started, unless its FENCE holds it back
(R141). -/
def Chip.nextDesc (ch : Chip) (n op : Nat) : Option Desc :=
  let ds := (ch.ring n).descs
  match ds.find? fun d => !d.started with
  | some d =>
    let first := (ds.head?).map (·.idx) == some d.idx
    if d.opcode = op ∧ (bit (fieldAt d.bytes 2 1) 0 = false ∨ first) ∧ ch.halted = false then some d else none
  | none => none

/-- The descriptor started. -/
def Chip.startDesc (ch : Chip) (n idx : Nat) : Chip :=
  let r := ch.ring n
  ch.setRing n { r with descs := r.descs.map fun d => if d.idx = idx ∧ d.done = false then { d with started := true } else d }

/-- Reserved bits and bytes of a descriptor are 0: DFLAGS[7:2], byte 3 and the ranges listed (R146). -/
def descOk (b : List Byte) (rs : List (Nat × Nat)) : Bool :=
  decide (fieldAt b 2 1 < 4) && reservedZero b ((3, 1) :: rs)

/-- A command that starts and whose whole effect follows at once. (DEDUCED, log entry 61.) -/
def Chip.runDesc (ch : Chip) (n op : Nat) (f : Chip → Desc → Chip) : Chip :=
  match ch.nextDesc n op with
  | some d => f (ch.startDesc n d.idx) d
  | none => ch

/-- Completion with a status and an ID. -/
def Chip.completeId (ch : Chip) (n idx st id : Nat) : Chip := ch.complete n idx fun d => { d with status := st, id := id }

/-- NOP (R147). -/
def execNop (c : ChipId) (n : Fin 128) (s : State) : Res :=
  onChip s c fun ch => ch.runDesc n.val opNop fun ch d =>
    ch.completeSt n.val d.idx (if descOk d.bytes [(8, 56)] then stOk else stBadDesc)

/-- FLOW_BIND (R148, R157). -/
def execFlowBind (c : ChipId) (n : Fin 128) (s : State) : Res :=
  onChip s c fun ch => ch.runDesc n.val opFlowBind fun ch d =>
    let f := fieldAt d.bytes 8 2
    let r := fieldAt d.bytes 10 1
    if descOk d.bytes [(11, 53)] && decide (f < 256) && decide (r < 128) && ch.outEnabled r then
      (ch.setFlow f { ch.flow f with bound := some r }).completeId n.val d.idx stOk f
    else ch.completeId n.val d.idx stBadDesc f

/-- EPOCH_SET (R6, R148, R151). -/
def execEpochSet (c : ChipId) (n : Fin 128) (s : State) : Res :=
  onChip s c fun ch => ch.runDesc n.val opEpochSet fun ch d =>
    if descOk d.bytes [(16, 48)] then
      let old := ch.rd F.TKP_EPOCH_OFFSET
      (ch.wr F.TKP_EPOCH_OFFSET (fieldAt d.bytes 8 8)).complete n.val d.idx fun d => { d with status := stOk, detail64 := old }
    else ch.completeSt n.val d.idx stBadDesc

/-- FAULT_ACK (R148, R604). -/
def execFaultAck (c : ChipId) (n : Fin 128) (s : State) : Res :=
  onChip s c fun ch => ch.runDesc n.val opFaultAck fun ch d =>
    match (if descOk d.bytes [(10, 54)] then ch.ackRec (fieldAt d.bytes 8 2) else none) with
    | some c => c.completeSt n.val d.idx stOk
    | none => ch.completeSt n.val d.idx stBadDesc

/-! ### Signals and OUTPUT rings -/

/-- IRQ_MODERATION_TIMER (R139): the oldest unsignalled record is TIME µs old. -/
def execIrqModerationTimer (c : ChipId) (n : Fin 128) (s : State) : Res :=
  onChip s c fun ch =>
    let r := ch.ring n.val
    let t := ch.rd (F.RNG_IRQ_TIME n.val)
    if t ≠ 0 ∧ r.unsig ≠ 0 ∧ r.oldest + t * 1000 ≤ ch.now ∧ ch.halted = false ∧ ch.pcieWaits = false then ch.signal n.val else ch

/-- OUTPUT_OVERFLOW_TIMEOUT (R143): the ring stayed full for HOLD ms. -/
def execOutputOverflowTimeout (c : ChipId) (n : Fin 128) (s : State) : Res :=
  onChip s c fun ch =>
    if ch.ringState n.val = ringActive ∧ (ch.ring n.val).typ = 3 ∧ ch.outFull n.val = true then ch.outOverflow n.val else ch

/-- RECORD_CQ_WRITE (R138, R143, R144, R495): the oldest released record of a flow. The ring engine is off in Doze, and the Guestbook
waits while a write waits at the crossing to PCIe (R83). -/
def execRecordCqWrite (c : ChipId) (f : Fin 256) (s : State) : Res :=
  onChip s c fun ch => if ch.pwr = pwrDoze ∨ ch.halted = true ∨ ch.pcieWaits = true then ch else ch.recordOut f.val

end Sys2Proof.Machine
end

