-- ==== Sys2Proof/Machine/StreamOps.lean ====
section
/-! DEFINITION. Reserved DRAM (R502), streams, Kennels (R158 to R169, R191) and picture buffers: the operations that ingest,
decode, Mosaic and audio share. -/

namespace Sys2Proof.Machine

open Sys2Proof

def MiB : Nat := 1048576

/-! ### Reserved regions (R502) -/

/-- First address of the audio pool. -/
def Chip.audBase (ch : Chip) : Nat :=
  ch.dramTop - (ch.rd F.ANX_SIZE_MIB + ch.rd F.GBK_CFG_STORE + ch.rd F.AUD_CFG_POOL) * MiB
/-- First address of the Kennel banks. -/
def Chip.kenBase (ch : Chip) : Nat := ch.audBase - 128 * ch.bankBytes
/-- First address of the decode pool. -/
def Chip.decBase (ch : Chip) : Nat := ch.kenBase - ch.rd F.DEC_CFG_POOL * 64 * MiB

/-- Two ranges (start, length) do not overlap. -/
def apart (a b : Nat × Nat) : Bool := decide (a.1 + a.2 ≤ b.1) || decide (b.1 + b.2 ≤ a.1)

/-- A place for `size` bytes at a multiple of `align` below `total` that overlaps no used range: which one is free.
(DESIGN CHOICE, log entry 69.) -/
def chooseFit (free : Nat) (used : List (Nat × Nat)) (total size align : Nat) : Option Nat :=
  if total < size then none
  else
    let cs := ((List.range ((total - size) / align + 1)).map (· * align)).filter fun o => used.all fun u => apart (o, size) u
    cs[free % cs.length]?

/-! ### Streams (R148, R185) -/

/-- The budget in effect for a stamp (R148 STREAM_SET, R185). -/
def Stream.budgetAt (s : Stream) (t : Nat) : Nat :=
  match s.budgets.find? fun b => decide (b.1 ≤ t) with
  | some b => b.2
  | none => (s.budgets.getLast?).elim 0 (·.2)

/-- TIME_HOLD for a stamp taken now (R182). -/
def Chip.inHold (ch : Chip) : Bool := ch.rd F.TKP_STAT_STATE == tkpHold

/-- A frame joins the route: the chip's record of it (R56). -/
def Chip.addLive (ch : Chip) (s : Stamp) : Chip :=
  match ch.stream s.stream with
  | some x => ch.setStream s.stream { x with live := x.live ++ [s], nextFrame := (s.frame + 1) % 2 ^ 32 }
  | none => ch

/-- The picture or block of a frame is returned. A frame that a STAMPED flow carries goes on to its release; another one keeps its
stamp and budget for the checkpoints that follow (R56), and is out of the way of a STREAM_CLOSE. (DEDUCED, log entry 151.) -/
def Chip.pictureDone (ch : Chip) (stream frame : Nat) : Chip :=
  match ch.stream stream with
  | none => ch
  | some s =>
    if (ch.flowsOf stream).isEmpty = false ∨ (s.live.any fun x => x.frame == frame) = false then ch
    else if s.closing ≠ none then ch.frameGone stream frame
    else if s.done.contains frame then ch
    else ch.setStream stream { s with done := s.done ++ [frame] }

/-! ### Kennels -/

/-- Flat address of offset `o` of Kennel `k` (R159, R502). -/
def Chip.kAddr (ch : Chip) (k o : Nat) : Nat :=
  let b := ch.bankBytes
  ch.kenBase + (2 * k + o / b % 2) * b + o % b

/-- The Kennel's registers after a change; `old` is the level before (R19, R166). -/
def Chip.kSync (ch : Chip) (k old : Nat) : Chip :=
  let l := ch.kW k - ch.kL k
  let c := (ch.wr (F.KEN_LEVEL_BYTES k) l).setFlag (F.KEN_STAT_MARK_LIVE k) (ch.kennel k).mark.isSome
  c.watermark (F.KEN_STAT_WM_SEEN k) (F.KEN_HWM_BYTES k) (F.KEN_WM_TIME_VALUE k) (c.rd F.KEN_WM_KIB * 1024) old l

/-- An operation on Kennel `k`, then its registers. -/
def Chip.kDo (ch : Chip) (k : Nat) (f : Chip → Chip) : Chip := (f ch).kSync k (ch.kW k - ch.kL k)

/-- Bytes written at W (R161); they cross at most one bank's end. -/
def Chip.kWrite (ch : Chip) (k : Nat) (bs : List Byte) (poison : Bool) : Chip :=
  let w := ch.kW k
  let n := ch.bankBytes - w % ch.bankBytes
  let c := ch.store (ch.kAddr k w) (bs.take n) poison
  let c := c.store (c.kAddr k (w + n)) (bs.drop n) poison
  c.wr (F.KEN_WPOS_VALUE k) (w + bs.length)

/-- Bytes of a Kennel. -/
def Chip.kBytes (ch : Chip) (k o n : Nat) : List Byte := (List.range n).map fun i => ch.byte (ch.kAddr k (o + i))

/-- A mark ends when R passes its end or L passes M (R164). -/
def Kennel.endMark (x : Kennel) (r l : Nat) : Kennel :=
  match x.mark with
  | some (m, n) => if m + n < r ∨ m < l then { x with mark := none } else x
  | none => x

/-- L moves to `l`; records whose last byte it passes leave, and a waiting writer resumes (R162, R163, R191). -/
def Chip.kRelease (ch : Chip) (k l : Nat) : Chip :=
  let x := ch.kennel k
  let r := ch.kR k
  let l := min l r
  if l ≤ ch.kL k then ch
  else
    let c := ch.wr (F.KEN_LPOS_VALUE k) l
    let recs := x.recs.filter fun b => decide (l < b.start + b.len)
    let c := c.setKennel k (Kennel.endMark { x with recs := recs } r l)
    if c.flag (F.KEN_STAT_FULL_LIVE k) && c.kRoom k then (c.setFlag (F.KEN_STAT_FULL_LIVE k) false).kFill k else c

/-- The buffer record that holds offset `o`. -/
def Kennel.recAt (x : Kennel) (o : Nat) : Option BufRec := x.recs.find? fun b => decide (b.start ≤ o) && decide (o < b.start + b.len)

/-- Stamp and SRC of a buffer (R167, R168); the flag says that the PTS was out of range. (DEDUCED, log entry 63.) -/
def Chip.bufStamp (ch : Chip) (pts bflags : Nat) : Nat × Nat × Bool :=
  let t := ch.now
  if bit bflags 0 ∧ ch.hif.ptmCommitted then
    let v : Int := sgn 64 pts - sgn 64 (ch.rd F.HIF_PTM_OFF_OFFSET)
    if v < 0 ∨ (t : Int) + 1000000000 < v then (t, 4, true)
    else (v.toNat, if ch.flag F.HIF_PTM_STAT_VALID then 2 else 3, false)
  else (t, 4, false)

/-- The buffer record made when a BUF's first byte lands (R162, R167). (DEDUCED, log entry 63.) -/
def Chip.kRecord (ch : Chip) (k : Nat) (f : Fill) : Chip :=
  let x := ch.kennel k
  let r := ch.bufStamp f.pts f.bflags
  let budget := match ch.stream (ch.rd (F.KEN_STAT_STREAM k)) with
    | some s => s.budgetAt r.1
    | none => 0
  let fl := if x.discont then Machine.orBit f.bflags 3 else f.bflags
  let b : BufRec := ⟨ch.kW k, f.len, f.pts, fl, ch.now, f.poison, r.1, r.2.1, budget, ch.inHold⟩
  let c := ch.setKennel k { x with recs := x.recs ++ [b], discont := false }
  let c := if r.2.2 then c.count F.KEN_PTS_RANGE_COUNT F.KEN_GSTAT_PTS_OVF 0 else c
  if r.2.1 = 3 then c.setFlag F.KEN_GSTAT_HELD_SEEN true else c

/-- The last record of a Kennel changed. -/
def Chip.kLastRec (ch : Chip) (k : Nat) (f : BufRec → BufRec) : Chip :=
  let x := ch.kennel k
  ch.setKennel k { x with recs := updAt x.recs (x.recs.length - 1) f }

/-- The Kennel releases what it held of an unfinished buffer at or beyond R; the next one carries DISCONT (R191). -/
def Chip.kDropFill (ch : Chip) (k : Nat) : Chip :=
  let x := ch.kennel k
  match x.fill with
  | none => ch
  | some f =>
    let w := ch.kW k
    let start := w - f.got
    let w' := if f.got = 0 then w else max (ch.kR k) start
    let recs := if f.got = 0 then x.recs else
      (updAt x.recs (x.recs.length - 1) fun b => { b with len := w' - b.start }).filter fun b =>
        decide (0 < b.len) && decide (ch.kL k < b.start + b.len)
    let c := (ch.dropReads (.payload k)).kDo k fun c =>
      (c.setKennel k { x with fill := none, recs := recs, discont := true }).wr (F.KEN_WPOS_VALUE k) w'
    c.setFlag (F.KEN_STAT_FULL_LIVE k) false

/-- At wake every byte is released, the mark ends and the next buffer carries DISCONT (R191, R624). -/
def Chip.kWake (ch : Chip) (k : Nat) : Chip :=
  if ch.flag (F.KEN_STAT_OPEN k) then
    let x := ch.kennel k
    let w := ch.kW k
    (ch.kDo k fun c =>
      ((c.setKennel k { x with
          mark := none
          recs := x.recs.filter fun b => decide (w < b.start + b.len)
          discont := true }).wr (F.KEN_RPOS_VALUE k) w).wr (F.KEN_LPOS_VALUE k) w).kFill k
  else ch

end Sys2Proof.Machine
end

