-- ==== Sys2Proof/Machine/TokenOps.lean ====
section
/-! DEFINITION. Tokens: their fields (R293), their check code (R287, R288), and the way an emitted token takes to the
inputs of its home pack, or to Trail (R271). -/

namespace Sys2Proof.Machine

open Sys2Proof

abbrev Token := BitVec 128

namespace Token

def value (t : BitVec 128) : Nat := bits t.toNat 0 64
def node (t : BitVec 128) : Nat := bits t.toNat 64 14
def port (t : BitVec 128) : Nat := bits t.toNat 78 2
def context (t : BitVec 128) : Nat := bits t.toNat 80 10
def iteration (t : BitVec 128) : Nat := bits t.toNat 90 20
def provisional (t : BitVec 128) : Bool := bit t.toNat 110
def poison (t : BitVec 128) : Bool := bit t.toNat 111
def last (t : BitVec 128) : Bool := bit t.toNat 112
def spilled (t : BitVec 128) : Bool := bit t.toNat 113
def sticky (t : BitVec 128) : Bool := bit t.toNat 114
def kill (t : BitVec 128) : Bool := bit t.toNat 115
def check (t : BitVec 128) : Nat := bits t.toNat 116 12

end Token

/-- Code position q(p) of data bit p (R287). -/
def codePos (p : Nat) : Nat :=
  if p = 0 then 3 else if p ≤ 3 then p + 4 else if p ≤ 10 then p + 5 else if p ≤ 25 then p + 6
  else if p ≤ 56 then p + 7 else p + 8

/-- XOR of the data bits that satisfy `f`. -/
def xorBits (d : Nat) (f : Nat → Bool) : Bool :=
  (List.range 116).foldl (fun a p => a != (f p && bit d p)) false

/-- CHECK[6:0] of the data bits. -/
def checkLow (d : Nat) : Nat :=
  (List.range 7).foldl (fun a i => a + bnat (xorBits d fun p => bit (codePos p) i) * 2 ^ i) 0

/-- CHECK[11:8] of the data bits. -/
def checkHigh (d : Nat) : Nat :=
  (List.range 4).foldl (fun a j => a + bnat (xorBits d fun p => p % 4 == j) * 2 ^ j) 0

/-- The 12-bit CHECK of the data bits (R287). -/
def tokenCheck (d : Nat) : Nat :=
  let lo := checkLow d
  let p := (xorBits d fun _ => true) != (popcount 7 lo % 2 == 1)
  lo + bnat p * 2 ^ 7 + checkHigh d * 2 ^ 8

/-- The token with CHECK formed by its emitter. -/
def withCheck (t : BitVec 128) : BitVec 128 :=
  let d := bits t.toNat 0 116
  BitVec.ofNat 128 (d + tokenCheck d * 2 ^ 116)

/-- A token from its fields (R293); flags in the order of bits 110 to 115. -/
def mkToken (value node port ctx iter flags : Nat) : BitVec 128 :=
  withCheck (BitVec.ofNat 128 (value % 2 ^ 64 + node % 2 ^ 14 * 2 ^ 64 + port % 4 * 2 ^ 78 + ctx % 2 ^ 10 * 2 ^ 80
    + iter % 2 ^ 20 * 2 ^ 90 + flags % 64 * 2 ^ 110))

/-- Flags of a token: POISON is bit 1 of bits 110 to 115. -/
def tokPoison (p : Bool) : Nat := 2 * bnat p

/-- A token with one data bit set or cleared and CHECK formed again. -/
def setTokBit (t : BitVec 128) (b : Nat) (v : Bool) : BitVec 128 :=
  withCheck (BitVec.ofNat 128 (putBits t.toNat b 1 (bnat v)))

/-- What a checker answers (R288). -/
inductive CheckRes where
  | clean (t : BitVec 128)
  | corrected (t : BitVec 128)
  | uncorrectable
  deriving DecidableEq, Repr

/-- The data bit whose code position is `s`. -/
def posData (s : Nat) : Option Nat := (List.range 116).find? fun p => codePos p == s

/-- The bits of `m` of a token inverted. -/
def flipTok (t : BitVec 128) (m : Nat) : BitVec 128 := t ^^^ BitVec.ofNat 128 m

/-- The checker of R288: a correction inverts the one bit it names. -/
def checkToken (t : BitVec 128) : CheckRes :=
  let d := bits t.toNat 0 116
  let c := Token.check t
  let s := checkLow d ^^^ (c % 128)
  let p := (xorBits d fun _ => true) != (popcount 8 c % 2 == 1)
  let hi := checkHigh d ^^^ (c / 256)
  if !p then
    if s = 0 then
      if hi = 0 then .clean t
      else if popcount 4 hi = 1 then .corrected (flipTok t (hi * 2 ^ 124)) else .uncorrectable
    else .uncorrectable
  else if s = 0 then .corrected (flipTok t (2 ^ 123))
  else if popcount 7 s = 1 then .corrected (flipTok t (s * 2 ^ 116))
  else match posData s with
    | some q =>
      if checkHigh (d ^^^ 2 ^ q) = c / 256 then .corrected (flipTok t (2 ^ q)) else .uncorrectable
    | none => .uncorrectable

/-- Arbiter source numbers (R281). -/
def srcTensor : Nat := 16
def srcNet : Nat := 17
def srcTrail : Nat := 18
def srcLoader : Nat := 19

/-- The placement of a node of the graph in slot `s`. -/
def Chip.placeOf (ch : Chip) (s node : Nat) : Option Placement :=
  match (ch.slot s).graph with
  | some g => g.place[node]?
  | none => none

/-- A token put at the input of pack `p` from an arbiter source. -/
def Chip.toInn (ch : Chip) (p src : Nat) (t : BitVec 128) : Chip :=
  let i := ch.inn p
  ch.setInn p { i with inputs := i.inputs ++ [⟨0, src, t, 0⟩] }

/-! ### Trail queues -/

def Chip.setLink (ch : Chip) (l : Nat) (x : Link) : Chip :=
  if l = 0 then { ch with trail := { ch.trail with l0 := x } } else { ch with trail := { ch.trail with l1 := x } }

/-- A flit queued on a virtual channel of a link. -/
def Chip.queueFlit (ch : Chip) (l : Nat) (f : Flit) : Chip :=
  let k := ch.link l
  ch.setLink l { k with queues := updAt k.queues f.vc (· ++ [f]) }

/-- Header of a flit before transmission: sequence and acknowledgement are filled when it leaves. -/
def newHdr (dest : Nat) (hop : Bool) : FlitHdr := ⟨hop, 0, 0, false, 0, 0, Fin.ofNat 4 dest⟩

/-- The ring links UP as known (R547). -/
def Chip.ringUp (ch : Chip) (i : Nat) : Bool := bit (ch.rd F.TRL_RING_UP) (i % 4)

/-- ROUTE codes of TRL_ROUTE: 0 self, 1 link 0, 2 link 1, 3 unreachable (R547). Ring link i joins chips i and i + 1. A
source on a detour keeps it until MARK_ACK (R549). -/
def Chip.routeCode (ch : Chip) (dest : Nat) : Nat :=
  let own := ch.pos.val
  match (dest + 4 - own) % 4 with
  | 0 => 0
  | 1 => if ch.ringUp own then 1 else 3
  | 3 => if ch.ringUp (own + 3) then 2 else 3
  | _ =>
    let a := ch.ringUp own && ch.ringUp (own + 1)
    let b := ch.ringUp (own + 3) && ch.ringUp (own + 2)
    if ch.trail.detour && b then 2 else if a then 1 else if b then 2 else 3

/-- TRL_STAT of a link as a word. -/
def Chip.trlStat (ch : Chip) (l : Nat) : Nat :=
  ch.rd (F.TRL_STAT_STATE l) + 2 ^ 3 * ch.rd (F.TRL_STAT_WIDTH l) + 2 ^ 4 * ch.rd (F.TRL_STAT_LANES l) +
    2 ^ 8 * ch.rd (F.TRL_STAT_DOWN_SEEN l) + 2 ^ 9 * ch.rd (F.TRL_STAT_DEGRADE_SEEN l) +
    2 ^ 10 * ch.rd (F.TRL_STAT_RESET_SEEN l) + 2 ^ 11 * ch.rd (F.TRL_STAT_EXCESS_SEEN l) +
    2 ^ 12 * ch.rd (F.TRL_STAT_OVF l) + 2 ^ 17 * ch.rd (F.TRL_STAT_WRAP l) + 2 ^ 18 * ch.rd (F.TRL_STAT_WRAP_OVF l)

/-- TRAIL_DOWN raised for a link (R592 row 17). -/
def Chip.trailDown (ch : Chip) (l : Nat) : Chip :=
  ch.raise 17 (source (273 + l) 0) (ch.trlStat l + ch.rd (F.TRL_DROP_COUNT l) * 2 ^ 32)

/-- `n` flits discarded at a link (R548, R549). -/
def Chip.trailDrop (ch : Chip) (l n : Nat) : Chip := ch.countN (F.TRL_DROP_COUNT l) (F.TRL_STAT_OVF l) 3 n

/-- The Trail token router checks a token on entry and on exit (R268): none where it is discarded. -/
def Chip.trailCheck (ch : Chip) (t : BitVec 128) : Option (BitVec 128) × Chip :=
  let detail := t.toNat / 2 ^ 64 + t.toNat % 2 ^ 64 * 2 ^ 64
  match checkToken t with
  | .clean t => (some t, ch)
  | .corrected t' => (some t', ch.raise 6 (source 234 0) detail)
  | .uncorrectable => (none, ch.raise 7 (source 234 0) detail)

/-- A flit sent to another chip, on the route of R547; without a route it is discarded, counted in TRL_DROP of the link
that leads there first, and raises TRAIL_DOWN (R564). -/
def Chip.sendFlit (ch : Chip) (dest vc kind : Nat) (payload : List Byte) : Chip :=
  let f : Flit := ⟨vc, kind, newHdr dest false, padTo 56 payload⟩
  match ch.routeCode dest with
  | 1 => ch.queueFlit 0 f
  | 2 => ch.queueFlit 1 f
  | _ =>
    let l := if (dest + 4 - ch.pos.val) % 4 = 3 then 1 else 0
    (ch.trailDrop l 1).trailDown l

/-- A token as 16 bytes. -/
def tokBytes (t : BitVec 128) : List Byte := toLe 16 t.toNat

/-- A token enters the Trail token router for another chip. -/
def Chip.sendToken (ch : Chip) (dest : Nat) (t : BitVec 128) : Chip :=
  match ch.trailCheck t with
  | (some t, ch) => ch.sendFlit dest 0 1 (tokBytes t ++ zeros 32 ++ [1#8])
  | (none, ch) => ch

/-- A token on its way (R271): to the Inn of its home pack on this chip, or over Trail. A provisional token for
another chip waits in its own pack (R65). A context no slot owns, or a node without a placement, goes to the Inn of the emitter's pack, which finds it an orphan or bad (R283). -/
def Chip.routeToken (ch : Chip) (fromPack src : Nat) (t : BitVec 128) : Chip :=
  match ch.ctxSlot (Token.context t) with
  | none => ch.toInn fromPack src t
  | some s => match ch.placeOf s (Token.node t) with
    | none => ch.toInn fromPack src t
    | some pl =>
      if pl.chip = ch.pos.val then
        if pl.pack = fromPack then ch.toInn pl.pack src t else ch.toInn pl.pack srcNet t
      else if Token.provisional t then
        let i := ch.inn fromPack
        ch.setInn fromPack { i with provWait := i.provWait ++ [t] }
      else ch.sendToken pl.chip t

/-- A fixed block emits a token over the token network; none into the contexts of a graph that is not ARMED here (R273).
(DEDUCED, log entry 153.) -/
def Chip.blockToken (ch : Chip) (t : BitVec 128) : Chip :=
  match ch.ctxSlot (Token.context t) with
  | none => ch.toInn 0 srcNet t
  | some s => match ch.placeOf s (Token.node t) with
    | none => if (ch.slot s).st = .armed then ch.toInn 0 srcNet t else ch
    | some pl =>
      if (ch.slot s).st ≠ .armed then ch
      else if pl.chip = ch.pos.val then ch.toInn pl.pack srcNet t
      else ch.sendToken pl.chip t

end Sys2Proof.Machine
end

