-- ==== Sys2Proof/Machine/Mosaic.lean ====
section
/-! DEFINITION. Mosaic (spec/08_mosaic.md): picture holds, recipes and codelet jobs, crops with their filters, colour and
normalisation, the status table and the token. -/

namespace Sys2Proof.Machine

open Sys2Proof

def Chip.mos (ch : Chip) : Mosaic := ch.media.mosaic

/-- Stores that stalled on a full codelet queue enter in their order while it has room (R218). -/
def Mosaic.takeIn (m : Mosaic) : Mosaic :=
  let n := 256 - m.codelet.length
  { m with codelet := m.codelet ++ (m.stalled.take n).map (·.2), stalled := m.stalled.drop n }

/-- Mosaic changed: stalled stores enter, and its registers are brought in line. -/
def Chip.setMos (ch : Chip) (m : Mosaic) : Chip :=
  let m := m.takeIn
  let c : Chip := { ch with media := { ch.media with mosaic := m } }
  let c := (c.wr F.MOS_STAT_QLEVEL m.codelet.length).wr F.MOS_STAT_RLEVEL (min 64 m.recipes.length)
  let c := c.setFlag F.MOS_STAT_BUSY m.run.isSome
  if c.rd F.MOS_QHWM_LEVEL < m.codelet.length then c.wr F.MOS_QHWM_LEVEL m.codelet.length else c

def mosDomain : Nat := 222

/-! ### Holds (R210, R220) -/

/-- A held picture returns to its pool, a pinned one when its job ends. -/
def Chip.returnPic (ch : Chip) (stream frame : Nat) : Chip :=
  match ch.mos.held.find? fun h => h.is stream frame with
  | none => ch
  | some h =>
    let c := ch.unhold fun h => h.is stream frame
    if ch.mos.pins h then c else c.pictureDone stream frame

/-- A frame dropped at a checkpoint, with the return of its picture (R188, R220). -/
def Chip.dropPic (ch : Chip) (s : Stamp) (ckpt dom : Nat) : Chip :=
  (ch.unhold fun h => h.is s.stream s.frame).dropFrame s ckpt 0 dom

/-- Streams named by the crops of a job block (R233). -/
def cropStreams (b : List Byte) : List Nat := (List.range (fieldAt b 2 2)).map fun i => fieldAt b (64 + 32 * i) 2

/-- A picture record reaches Mosaic: it is held, and the recipes of its consuming graph that name its stream queue (R217,
R220). -/
def Chip.deliver (ch : Chip) (h : HeldPic) : Chip :=
  let m := ch.mos
  let st := h.stamp.stream
  let c := ch.setMos { m with held := m.held ++ [h] }
  match ch.stream st with
  | none => c
  | some s =>
    let x := ch.slot s.graph
    match x.graph with
    | some g =>
      if x.st = .armed then
        let js := (g.recipes.filter fun b => (cropStreams b).all (· == st)).map fun b =>
          (⟨s.graph, 0, some (b, st, h.stamp.frame)⟩ : MosJob)
        c.setMos { c.mos with recipes := c.mos.recipes ++ js }
      else c
    | none => c

/-- PICTURE_HOLD_EXPIRY (R220, R237): a held picture's age exceeds its budget, in Doze too. -/
def execPictureHoldExpiry (c : ChipId) (stream : Fin 256) (frame : BitVec 32) (s : State) : Res :=
  onChip s c fun ch =>
    match ch.mos.held.find? fun h => h.is stream.val frame.toNat with
    | some h => if h.stamp.stale ch.now then ch.returnPic stream.val frame.toNat else ch
    | none => ch

/-! ### Submission (R216, R218) -/

/-- A job enters the codelet queue, or its store stalls. (DEDUCED, log entry 71.) -/
def Chip.mosSubmit (ch : Chip) (core slot addr : Nat) : Chip :=
  let m := ch.mos
  let j : MosJob := ⟨slot, addr, none⟩
  if m.codelet.length < 256 then ch.setMos { m with codelet := m.codelet ++ [j] }
  else ch.setMos { m with stalled := m.stalled ++ [(core, j)] }

/-- MOSAIC_SUBMIT (R218): a store of a running firing to the Mosaic submit word; a provisional one waits in its pack.
(DEDUCED, log entry 71.) -/
def execMosaicSubmit (c : ChipId) (p : PackId) (n : PeId) (addr : Qword) (s : State) : Res :=
  onIsland s c fun ch =>
    ch.deviceCmd p.val n.val 0 addr fun ch f _ => ch.mosSubmit (16 * p.val + n.val) f.slot addr.toNat

/-! ### Samples (R212, R225) -/

/-- The 10-bit value of a byte, or of a little-endian pair of bytes. -/
def Chip.px (ch : Chip) (wide : Bool) (a : Nat) : Nat := if wide then ch.load a 2 % 1024 else 4 * (ch.byte a).toNat

def fmtWide (f : Nat) : Bool := f == 2 || f == 5 || f == 8
def fmtYuv (f : Nat) : Bool := f == 1 || f == 2 || f == 3 || f == 6
def fmtRgb (f : Nat) : Bool := f == 7 || f == 8

/-- Width and height of a component: 0 is luma or R, 1 and 2 the chroma or G and B. -/
def HeldPic.size (h : HeldPic) (comp : Nat) : Nat × Nat :=
  if comp = 0 ∨ fmtRgb h.format then (h.w, h.h)
  else if h.format = 1 ∨ h.format = 2 then ((h.w + 1) / 2, (h.h + 1) / 2)
  else ((h.w + 1) / 2, h.h)

/-- The 64 bytes of the picture record (R211): BUF is 0xFF for a raw picture. -/
def HeldPic.bytes (h : HeldPic) : List Byte :=
  let plane (i : Nat) : List Byte := toLe 8 ((h.planes[i]?).getD 0)
  h.stamp.bytes ++ plane 0 ++ plane 1 ++ plane 2 ++ toLe 2 h.w ++ toLe 2 h.h ++ toLe 2 h.stride ++ toLe 1 h.format ++
    toLe 1 (if h.sess.isNone then 0xFF else h.buf)

/-- Flat address of a sample (R211, R212). -/
def HeldPic.addr (h : HeldPic) (comp x y : Nat) : Nat :=
  let row (i : Nat) : Nat := (h.planes[i]?).getD 0 + y * h.stride
  let e := if fmtWide h.format then 2 else 1
  if fmtRgb h.format then row comp + e * x
  else if h.format = 6 then row 0 + (if comp = 0 then 2 * x + 1 else if comp = 1 then 4 * x else 4 * x + 2)
  else if comp = 0 then row 0 + e * x
  else row 1 + e * (2 * x + (comp - 1))

/-- A sample in the 10-bit domain. -/
def Chip.sampleAt (ch : Chip) (h : HeldPic) (comp x y : Nat) : Nat := ch.px (fmtWide h.format) (h.addr comp x y)

/-- The sample with its indexes brought inside the picture (R223). -/
def Chip.tap (ch : Chip) (h : HeldPic) (comp : Nat) (x y : Int) : Int :=
  let s := h.size comp
  (ch.sampleAt h comp (clampI 0 ((s.1 : Int) - 1) x).toNat (clampI 0 ((s.2 : Int) - 1) y).toNat : Nat)

/-- One pass of a filter (R225): `p` gives the samples, `u` the position, `lo` and `hi` the span of the area mean. -/
def filt (filter : Nat) (p : Int → Int) (u lo hi : Int) : Int :=
  match filter with
  | 1 =>
    let t := u - 128
    let k := sar t 8
    let f := t % 256
    sar (p k * (256 - f) + p (k + 1) * f + 128) 8
  | 2 =>
    let k0 := (lo - 128 + 255) / 256
    let k1 := (hi - 128 + 255) / 256
    let n := (k1 - k0).toNat
    if n = 0 then p (sar u 8)
    else ((List.range n).foldl (fun (a : Int) (i : Nat) => a + p (k0 + (i : Int))) 0 + (n : Int) / 2) / (n : Int)
  | _ => p (sar u 8)

/-- The indexes that one pass of a filter reads (R225). -/
def filtTaps (filter : Nat) (u lo hi : Int) : List Int :=
  match filter with
  | 1 => [sar (u - 128) 8, sar (u - 128) 8 + 1]
  | 2 =>
    let k0 := (lo - 128 + 255) / 256
    let n := ((hi - 128 + 255) / 256 - k0).toNat
    if n = 0 then [sar u 8] else (List.range n).map fun (i : Nat) => k0 + (i : Int)
  | _ => [sar u 8]

/-- Bilinear at a chroma position (R225). -/
def chroma (p : Int → Int) (t : Int) : Int :=
  let k := sar t 8
  let f := t % 256
  sar (p k * (256 - f) + p (k + 1) * f + 128) 8

/-! ### Geometry (R222 to R224) -/

structure Crop where
  stream : Nat
  csel : Nat
  flags : Nat
  frame : Nat
  x0 : Nat
  y0 : Nat
  w : Nat
  h : Nat

def Crop.ofBytes (b : List Byte) : Crop :=
  ⟨fieldAt b 0 2, fieldAt b 2 1, fieldAt b 3 1, fieldAt b 4 4, fieldAt b 8 4, fieldAt b 12 4, fieldAt b 16 4, fieldAt b 20 4⟩

/-- (PW, PH, OX, OY) of a crop (R222). (DESIGN CHOICE, log entry 72.) -/
def Crop.place (c : Crop) (ow oh : Nat) : Nat × Nat × Nat × Nat :=
  if !bit c.flags 0 then (ow, oh, 0, 0)
  else
    let p : Nat × Nat :=
      if c.h * ow ≤ c.w * oh then (ow, if c.w = 0 then Config.mosaicFit ow oh else max 1 ((c.h * ow + c.w / 2) / c.w))
      else (max 1 ((c.w * oh + c.h / 2) / c.h), oh)
    if bit c.flags 1 then (p.1, p.2, 0, 0) else (p.1, p.2, (ow - p.1) / 2, (oh - p.2) / 2)

/-- The crop's shape is refused (R224). -/
def Crop.badShape (c : Crop) (pw ph : Nat) : Bool :=
  c.w == 0 || c.h == 0 || decide (64 * 256 * pw < c.w) || decide (64 * 256 * ph < c.h) || decide (64 * c.w < pw * 256) ||
    decide (64 * c.h < ph * 256)

/-! ### Colour and output (R226, R227) -/

/-- (YO, KY, KRV, KGU, KGV, KBU) of MATRIX. -/
def matrix (m : Nat) : Int × Int × Int × Int × Int × Int :=
  match m with
  | 0 => (64, 4770, 6537, 1602, 3330, 8266)
  | 1 => (64, 4770, 7343, 873, 2183, 8650)
  | _ => (0, 4096, 5743, 1410, 2925, 7258)

def clamp10 (x : Int) : Int := clampI 0 1023 x

/-- Luma expanded (R226). -/
def lumaOf (m : Nat) (y : Int) : Int :=
  let k := matrix m
  clamp10 (sar (k.2.1 * (y - k.1) + 2048) 12)

/-- RGB of a YUV sample (R226). -/
def rgbOf (m : Nat) (y cb cr : Int) : Int × Int × Int :=
  let (yo, ky, krv, kgu, kgv, kbu) := matrix m
  (clamp10 (sar (ky * (y - yo) + krv * (cr - 512) + 2048) 12),
    clamp10 (sar (ky * (y - yo) - kgu * (cb - 512) - kgv * (cr - 512) + 2048) 12),
    clamp10 (sar (ky * (y - yo) + kbu * (cb - 512) + 2048) 12))

/-- Channels of a pixel in the order of CFMT, without the fourth one of RGBX. -/
def channelsOf (cfmt : Nat) (y : Int) (rgb : Int × Int × Int) : List Int :=
  match cfmt with
  | 1 => [y]
  | 3 => [rgb.2.2, rgb.2.1, rgb.1]
  | _ => [rgb.1, rgb.2.1, rgb.2.2]

/-- Channel count and element size. -/
def chanCount (cfmt : Nat) : Nat := if cfmt = 1 then 1 else if cfmt = 4 then 4 else 3
def elemSize (dtype : Nat) : Nat := if dtype ≤ 2 then 1 else 2

/-- The bytes of channel `c` for a 10-bit value (R227). -/
def normal (b : List Byte) (c : Nat) (s : Int) : List Byte :=
  let d := s * 64 - (fieldAt b (32 + 2 * c) 2 : Int)
  let scale := sgn 16 (fieldAt b (40 + 2 * c) 2)
  let shift := fieldAt b 11 1
  match fieldAt b 9 1 with
  | 1 => let v := sar (s + 2) 2; if v < 256 then toLe 1 v.toNat else [Config.mosaicU8 s.toNat]
  | 2 => toLe 1 (usgn 8 (clampI (-128) 127 (sar (d * scale + (if shift = 0 then 0 else 2 ^ (shift - 1))) shift)))
  | 3 => toLe 2 (fp16.enc (FV.ofInt (d * scale) (-(shift : Int)) false))
  | _ => toLe 2 (bf16.enc (FV.ofInt (d * scale) (-(shift : Int)) false))

/-! ### A crop -/

/-- Status codes (R234). -/
def csOk : Nat := 0
def csStale : Nat := 1
def csGone : Nat := 2
def csShape : Nat := 3

/-- The 10-bit channels of output pixel (x, y) of a crop: none where it takes the pad value (R222, R223). -/
def Chip.cropPixel (ch : Chip) (b : List Byte) (h : HeldPic) (c : Crop) (pl : Nat × Nat × Nat × Nat) (x y : Nat) :
    Option (List Int) :=
  let (pw, ph, ox, oy) := pl
  if x < ox ∨ ox + pw ≤ x ∨ y < oy ∨ oy + ph ≤ y then none
  else
    let i := x - ox
    let j := y - oy
    let u : Int := (c.x0 + (2 * i + 1) * c.w / (2 * pw) : Nat)
    let v : Int := (c.y0 + (2 * j + 1) * c.h / (2 * ph) : Nat)
    if 256 * (h.w : Int) ≤ u ∨ 256 * (h.h : Int) ≤ v then none
    else
      let fl := bits (fieldAt b 1 1) 0 2
      let m := bits (fieldAt b 1 1) 2 2
      let ulo : Int := (c.x0 + i * c.w / pw : Nat)
      let uhi : Int := (c.x0 + (i + 1) * c.w / pw : Nat)
      let vlo : Int := (c.y0 + j * c.h / ph : Nat)
      let vhi : Int := (c.y0 + (j + 1) * c.h / ph : Nat)
      let main (comp : Nat) : Int := filt fl (fun ky => filt fl (fun kx => ch.tap h comp kx ky) u ulo uhi) v vlo vhi
      let tv := if h.format = 1 ∨ h.format = 2 then sar (v - 256) 1 else v - 128
      let chr (comp : Nat) : Int := chroma (fun ky => chroma (fun kx => ch.tap h comp kx ky) (sar (u - 128) 1)) tv
      let cf := fieldAt b 10 1
      if fmtRgb h.format then
        let r := main 0
        let g := main 1
        let bl := main 2
        some (channelsOf cf (sar (1225 * r + 2404 * g + 467 * bl + 2048) 12) (r, g, bl))
      else
        let yv := main 0
        if fmtYuv h.format then some (channelsOf cf (lumaOf m yv) (rgbOf m yv (chr 1) (chr 2)))
        else let e := lumaOf m yv; some (channelsOf cf e (e, e, e))

/-- PAD[c] of a job. -/
def padOf (b : List Byte) (c : Nat) : Int := (fieldAt b (48 + 2 * c) 2 % 1024 : Nat)

/-- The bytes of all channels of a pixel. (DESIGN CHOICE, log entry 72.) -/
def pixelBytes (b : List Byte) (v : Option (List Int)) : List (List Byte) :=
  (List.range (chanCount (fieldAt b 10 1))).map fun c => normal b c (match v with
    | some xs => (xs[c]?).getD (padOf b c)
    | none => padOf b c)

/-- A slice in the layout of the job (R228): every pixel's channels, as bytes. -/
def sliceBytes (b : List Byte) (pixel : Nat → Nat → Option (List Int)) : List Byte :=
  let ow := fieldAt b 4 2
  let oh := fieldAt b 6 2
  let px (y x : Nat) : List (List Byte) := pixelBytes b (pixel x y)
  if fieldAt b 8 1 = 1 then
    (List.range (chanCount (fieldAt b 10 1))).flatMap fun c =>
      (List.range oh).flatMap fun y => (List.range ow).flatMap fun x => ((px y x)[c]?).getD []
  else (List.range oh).flatMap fun y => (List.range ow).flatMap fun x => (px y x).flatten

/-- The positions of a crop along one axis, inside the picture, each with the span of its area mean (R222, R223). -/
def axisPos (p0 p n size : Nat) : List (Int × Int × Int) :=
  ((List.range p).map fun i =>
    (((p0 + (2 * i + 1) * n / (2 * p) : Nat) : Int), ((p0 + i * n / p : Nat) : Int), ((p0 + (i + 1) * n / p : Nat) : Int))).filter
      fun t => decide (t.1 < 256 * (size : Int))

/-- A sample that a crop reads, of luma, of a colour, or of the chroma that its channels take, lies in a poisoned line (R230). -/
def Chip.cropPoison (ch : Chip) (b : List Byte) (h : HeldPic) (c : Crop) (pl : Nat × Nat × Nat × Nat) : Bool :=
  let us := axisPos c.x0 pl.1 c.w h.w
  let vs := axisPos c.y0 pl.2.1 c.h h.h
  let fl := bits (fieldAt b 1 1) 0 2
  let pair (t : Int) : List Int := [sar t 8, sar t 8 + 1]
  let bad (comps : List Nat) (xs ys : List Int) : Bool :=
    comps.any fun k =>
      let s := h.size k
      let clip (n : Nat) (zs : List Int) : List Nat := (zs.map fun z => (clampI 0 ((n : Int) - 1) z).toNat).eraseDups
      (clip s.2 ys).any fun y => (clip s.1 xs).any fun x => ch.isPoisoned (h.addr k x y)
  let tv (v : Int) : Int := if h.format = 1 ∨ h.format = 2 then sar (v - 256) 1 else v - 128
  (!ch.poisoned.isEmpty) &&
    (bad (if fmtRgb h.format then [0, 1, 2] else [0]) (us.flatMap fun t => filtTaps fl t.1 t.2.1 t.2.2)
        (vs.flatMap fun t => filtTaps fl t.1 t.2.1 t.2.2) ||
      (fmtYuv h.format && fieldAt b 10 1 != 1 &&
        bad [1, 2] (us.flatMap fun t => pair (sar (t.1 - 128) 1)) (vs.flatMap fun t => pair (tv t.1))))

/-- The picture a crop selects (R221). -/
def Chip.cropPic (ch : Chip) (trig : Option (Nat × Nat)) (c : Crop) : Option HeldPic :=
  let mine := ch.mos.held.filter fun h => h.stamp.stream == c.stream
  let ok := match ch.stream c.stream with
    | some s => s.kind ≤ 2
    | none => false
  if !ok then none
  else match c.csel with
    | 0 => mine.find? fun h => h.stamp.frame == c.frame
    | 1 => argMin (fun h => 2 ^ 32 - h.stamp.frame) mine
    | 2 => match trig with
      | some (st, fr) => if st = c.stream then mine.find? fun h => h.stamp.frame == fr else none
      | none => none
    | _ => none

/-- A status entry (R234). (DEDUCED, log entry 70.) -/
def statusEntry (c : Crop) (cstat sflags frame stamp : Nat) (pl : Nat × Nat × Nat × Nat) : List Byte :=
  padTo 64 (toLe 2 c.stream ++ toLe 1 cstat ++ toLe 1 sflags ++ toLe 4 frame ++ toLe 8 stamp ++ toLe 2 pl.1 ++ toLe 2 pl.2.1 ++
    toLe 2 pl.2.2.1 ++ toLe 2 pl.2.2.2 ++ toLe 4 c.x0 ++ toLe 4 c.y0 ++ toLe 4 c.w ++ toLe 4 c.h)

/-- What the crops of a job have left so far: slices, table, poison, and the frames used and to be released. -/
structure CropAcc where
  chip : Chip
  tensor : List Byte
  table : List Byte
  poison : Bool
  frames : List (Nat × Nat)
  release : List (Nat × Nat)

/-- One crop of a job (R220 to R230). -/
def CropAcc.crop (a : CropAcc) (b : List Byte) (trig : Option (Nat × Nat)) (c : Crop) : CropAcc :=
  let pl := c.place (fieldAt b 4 2) (fieldAt b 6 2)
  let pad := sliceBytes b fun _ _ => none
  match a.chip.cropPic trig c with
  | none => { a with
      chip := a.chip.setFlag F.MOS_ERR_GONE_SEEN true
      tensor := a.tensor ++ pad
      table := a.table ++ statusEntry c csGone 0 0 0 pl }
  | some h =>
    let fl := h.stamp.fflags
    let keep := bnat (bit fl ffConcealed) * 2 + bnat (bit fl ffTimeHold) * 4
    let key := (h.stamp.stream, h.stamp.frame)
    let rel := if bit c.flags 2 then a.release ++ [key] else a.release
    let entry (st : Nat) (poison : Bool) : List Byte :=
      statusEntry c st (bnat poison + keep) h.stamp.frame h.stamp.stamp pl
    let own := bit fl ffPoison
    if c.badShape pl.1 pl.2.1 then { a with
      chip := a.chip.setFlag F.MOS_ERR_CROP_SHAPE true
      tensor := a.tensor ++ pad
      table := a.table ++ entry csShape own
      poison := a.poison || own
      frames := a.frames ++ [key]
      release := rel }
    else if h.stamp.stale a.chip.now then { a with
      chip := a.chip.dropPic h.stamp 4 mosDomain
      tensor := a.tensor ++ pad
      table := a.table ++ entry csStale own
      poison := a.poison || own
      frames := a.frames ++ [key]
      release := rel }
    else
      let poison := own || a.chip.cropPoison b h c pl
      { a with
        tensor := a.tensor ++ sliceBytes b fun x y => a.chip.cropPixel b h c pl x y
        table := a.table ++ entry csOk poison
        poison := a.poison || poison
        frames := a.frames ++ [key]
        release := rel }

/-! ### Jobs (R232, R235) -/

/-- Size of a job's tensor in bytes. -/
def tensorBytes (b : List Byte) : Nat :=
  fieldAt b 2 2 * fieldAt b 6 2 * fieldAt b 4 2 * chanCount (fieldAt b 10 1) * elemSize (fieldAt b 9 1)

/-- Bytes of tensor and status table together (R228). -/
def outputBytes (b : List Byte) : Nat := roundUp (tensorBytes b) 64 + 64 * fieldAt b 2 2

def mosFormatOk (b : List Byte) : Bool :=
  let jf := fieldAt b 1 1
  fieldAt b 0 1 == 1 && decide (jf < 16) && bits jf 0 2 != 3 && bits jf 2 2 != 3 && decide (fieldAt b 8 1 ≤ 1) &&
    decide (1 ≤ fieldAt b 9 1) && decide (fieldAt b 9 1 ≤ 4) && decide (1 ≤ fieldAt b 10 1) && decide (fieldAt b 10 1 ≤ 4) &&
    decide (fieldAt b 11 1 ≤ 31) && decide (fieldAt b 26 2 < 1024) && decide (fieldAt b 28 4 < 2 ^ 20) &&
    reservedZero b [(12, 4), (56, 8)] && ((List.range 4).all fun c => decide (fieldAt b (48 + 2 * c) 2 < 1024)) &&
    ((List.range (fieldAt b 2 2)).all fun i => decide (fieldAt b (64 + 32 * i + 3) 1 < 8) && fieldAt b (64 + 32 * i + 24) 8 == 0)

/-- The MOS_ERR bit of the first check that fails: BATCH, SHAPE, FORMAT, ADDR in the order of R235. -/
def Chip.mosCheck (ch : Chip) (b : List Byte) (blockOk : Bool) : Option Field :=
  let n := fieldAt b 2 2
  if !blockOk then some F.MOS_ERR_ADDR
  else if n = 0 ∨ 256 < n then some F.MOS_ERR_BATCH
  else if fieldAt b 4 2 = 0 ∨ 4096 < fieldAt b 4 2 ∨ fieldAt b 6 2 = 0 ∨ 4096 < fieldAt b 6 2 ∨ 256 * MiB < outputBytes b then
    some F.MOS_ERR_SHAPE
  else if !mosFormatOk b then some F.MOS_ERR_FORMAT
  else if fieldAt b 16 8 % 64 ≠ 0 ∨ ch.inShared (fieldAt b 16 8) (outputBytes b) = false then some F.MOS_ERR_ADDR
  else none

/-- The token of a job (R229): its value is the descriptor of DST. -/
def Chip.mosToken (ch : Chip) (b : List Byte) (iter : Nat) (poison : Bool) : BitVec 128 :=
  let t := fieldAt b 24 2
  let dst := fieldAt b 16 8
  let v := if ch.inShared dst 1 then ch.descOf dst else 2 ^ 64 - 1
  mkToken v (t % 2 ^ 14) (t / 2 ^ 14) (fieldAt b 26 2) iter (2 * bnat poison)

/-- The bytes of a codelet job's block, and whether the block lies where it must (R219). -/
def Chip.mosBlock (ch : Chip) (a : Nat) : List Byte × Bool :=
  let n := if ch.inShared a 64 then fieldAt (ch.bytes a 64) 2 2 else 0
  let len := 64 + 32 * (if n ≤ 256 then n else 0)
  (ch.bytes a len, a % 64 == 0 && ch.inShared a len)

/-- A job taken from its queue: refused, or its crops run (R230, R235). -/
def Chip.mosRun (ch : Chip) (j : MosJob) : Chip :=
  let blk : List Byte × Bool := match j.recipe with
    | some (b, _, _) => (b, true)
    | none => ch.mosBlock j.addr
  let b := blk.1
  let trig := j.recipe.map fun r => r.2
  let iter := match j.recipe with
    | some (_, _, fr) => fr % 2 ^ 20
    | none => fieldAt b 28 4 % 2 ^ 20
  let bp := j.recipe.isNone && ch.anyPoison j.addr b.length
  match ch.mosCheck b blk.2 with
  | some e =>
    let c := ((ch.setFlag e true).count F.MOS_REFUSED_COUNT F.MOS_ERR_REFUSED_OVF 0).wr F.MOS_ERR_JOB_ADDR j.addr
    if blk.2 then c.blockToken (ch.mosToken b iter true) else c
  | none =>
    let crops := (List.range (fieldAt b 2 2)).map fun i => Crop.ofBytes (b.drop (64 + 32 * i))
    let a := crops.foldl (fun (a : CropAcc) c => a.crop b trig c) ⟨ch, [], [], bp, [], []⟩
    let dst := fieldAt b 16 8
    let c := (a.chip.store dst a.tensor false).store (dst + roundUp (tensorBytes b) 64) a.table false
    c.setMos { c.mos with run := some ⟨j.slot, c.mosToken b iter a.poison, a.frames, a.release, false, false⟩ }

/-- The queue that Mosaic takes from next: the recipe queue if `true` (R216). -/
def Mosaic.pickRecipe (m : Mosaic) : Bool := !m.recipes.isEmpty && (m.codelet.isEmpty || !m.lastRecipe)

/-- CROP_JOB (R216, R219, R230, R235): an idle Mosaic takes the next job, and runs its crops or refuses it. -/
def execCropJob (c : ChipId) (s : State) : Res :=
  onIsland s c fun ch =>
    let m := ch.mos
    if m.run.isSome then ch
    else if m.pickRecipe then
      match m.recipes with
      | j :: rest => (ch.setMos { m with recipes := rest, lastRecipe := true }).mosRun j
      | [] => ch
    else match m.codelet with
      | j :: rest =>
        (ch.setMos { m with codelet := rest, lastRecipe := false }).mosRun j
      | [] => ch

/-- MOSAIC_JOB_COMPLETE (R220, R229, R230, R235): checkpoint 5, the token, and the returns that RELEASE asked for. -/
def execMosaicJobComplete (c : ChipId) (s : State) : Res :=
  onIsland s c fun ch =>
    match ch.mos.run with
    | none => ch
    | some r =>
      let c := ch.setMos { ch.mos with run := none }
      let c := if r.aborted then c
        else
          let c := r.frames.foldl (fun (c : Chip) k => match c.frameOf k.1 k.2 with
            | some st => if st.stale c.now then c.dropPic st 5 mosDomain else c
            | none => c) c
          let c := c.count64 F.MOS_JOBS_COUNT F.MOS_ERR_JOBS_WRAP 0 F.MOS_JOBS_WRAP_COUNT F.MOS_ERR_WRAP_OVF 0 1
          c.blockToken r.token
      r.release.foldl (fun (c : Chip) k => c.returnPic k.1 k.2) c

end Sys2Proof.Machine
end

