-- ==== Sys2Proof/Machine/Crc.lean ====
section
/-! DEFINITION. The reflected CRC-32 codes of the formats: CRC-32 (R469) and CRC-32C (R275, R503, R543). -/

namespace Sys2Proof.Machine

open Sys2Proof

/-- One step of a reflected 32-bit CRC. -/
def crcBit (poly c : Nat) : Nat := if c % 2 = 1 then (c / 2) ^^^ poly else c / 2

/-- `n` steps. -/
def crcBits (poly : Nat) : Nat → Nat → Nat
  | 0, c => c
  | n + 1, c => crcBits poly n (crcBit poly c)

/-- The register after a byte string. -/
def crcFeed (poly : Nat) : Nat → List Byte → Nat
  | c, [] => c
  | c, b :: t => crcFeed poly (crcBits poly 8 (c ^^^ b.toNat)) t

/-- CRC-32 of polynomial 0x04C11DB7, reflected, initial and final 0xFFFFFFFF. -/
def crc32 (bs : List Byte) : Nat := crcFeed 0xEDB88320 0xFFFFFFFF bs ^^^ 0xFFFFFFFF

/-- CRC-32C of polynomial 0x1EDC6F41, reflected, initial and final 0xFFFFFFFF. -/
def crc32c (bs : List Byte) : Nat := crcFeed 0x82F63B78 0xFFFFFFFF bs ^^^ 0xFFFFFFFF

end Sys2Proof.Machine
end

