-- ==== Sys2Proof/Machine/RegOps.lean ====
section
/-! DEFINITION. Registers by their BAR0 offset (R99, R703): which register a dword offset belongs to, and its stored value. -/

namespace Sys2Proof.Machine

open Sys2Proof

/-- A register found by offset: its family, its own byte offset, its last index and the dword within it. -/
structure RegHit where
  fam : RegFam
  base : Nat
  idx : Nat
  dw : Nat
  deriving DecidableEq, Repr

/-- Peel the repetitions of a family off a relative offset: (offset of the register, last index, rest). -/
def peel : List (Nat × Nat) → Nat → Nat → Nat → Option (Nat × Nat × Nat)
  | [], acc, idx, r => some (acc, idx, r)
  | (c, s) :: t, acc, _, r => if r / s < c then peel t (acc + r / s * s) (r / s) (r % s) else none

/-- The register of a family that holds a dword offset. -/
def RegFam.locate (f : RegFam) (off : Nat) : Option RegHit :=
  if off < f.base then none
  else match peel f.dims 0 0 (off - f.base) with
    | some (acc, idx, r) => if r < 4 * f.dwords then some ⟨f, f.base + acc, idx, r / 4⟩ else none
    | none => none

/-- The register that holds a dword offset of BAR0; none at a reserved offset. -/
def findReg (off : Nat) : Option RegHit := regMap.findSome? fun f => f.locate off

/-- A field of a found register. -/
def RegHit.field (h : RegHit) (s : FieldSpec) : Field := ⟨h.base * 64 + s.lo, s.width, s.rst.eval h.idx⟩

/-- The whole register as stored. -/
def Chip.regWhole (ch : Chip) (h : RegHit) : Nat :=
  h.fam.fields.foldl (fun a s => a + ch.rd (h.field s) * 2 ^ s.lo) 0

/-- The stored dword at an offset, 0 at a reserved one. -/
def Chip.regDword (ch : Chip) (off : Nat) : Nat :=
  match findReg off with
  | some h => bits (ch.regWhole h) (32 * h.dw) 32
  | none => 0

/-- All registers of a family: (offset, last index). -/
def RegFam.places (f : RegFam) : List (Nat × Nat) :=
  f.dims.foldl (fun xs d => xs.flatMap fun x => (List.range d.1).map fun i => (x.1 + i * d.2, i)) [(f.base, 0)]

/-- Every field of the map with its place: (field, specification). -/
def allFields : List (Field × FieldSpec) :=
  regMap.flatMap fun f => f.places.flatMap fun p => f.fields.map fun s => (RegHit.field ⟨f, p.1, p.2, 0⟩ s, s)

/-- Registers that hold an RWL field, in ascending offset. -/
def rwlRegs : List Nat :=
  ((regMap.filter fun f => f.fields.any fun s => s.acc == .rwl).flatMap fun f =>
    f.places.flatMap fun p => (List.range f.dwords).map fun d => p.1 + 4 * d).foldl insNat []

/-- The RWL fields of the register at a dword offset, as a mask over its dword. -/
def rwlMask (off : Nat) : Nat :=
  match findReg off with
  | some h => bits ((h.fam.fields.filter fun s => s.acc == .rwl).foldl (fun a s => a + (2 ^ s.width - 1) * 2 ^ s.lo) 0) (32 * h.dw) 32
  | none => 0

/-- The CRC over the Coachman's configuration as committed, registers 0x0C_0020 to 0x0C_17FF (COA_CFG_CRC): the fields that a
commit locks, every other bit read as 0. (DEDUCED, log entry 35.) -/
def Chip.coaCfgCrc (ch : Chip) : Nat :=
  crc32c ((List.range ((0xC1800 - 0xC0020) / 4)).flatMap fun i =>
    toLe 4 (ch.regDword (0xC0020 + 4 * i) &&& rwlMask (0xC0020 + 4 * i)))

/-- CFG_SNAP: CRC-32C over (offset, value) of every register that holds an RWL field, in ascending offset. -/
def Chip.cfgSnap (ch : Chip) : Nat := crc32c (rwlRegs.flatMap fun o => toLe 4 o ++ toLe 4 (ch.regDword o))

/-- An 8-bit counter of the host link counts one event and saturates (R15, HIF_ERR). -/
def Chip.count8 (ch : Chip) (f ovf : Field) (b : Nat) : Chip :=
  if 0xFE ≤ ch.rd f then (ch.wr f 0xFF).orBit ovf b else ch.wr f (ch.rd f + 1)

/-- A discarded or refused access (HIF_ERR, HIF_ERR_STAT, HIF_ERR_ADDR): KIND 1 ACCESS, 2 RSVD_ADDR, 3 LOCKED, 4 POISON,
5 ATOMIC, 6 IMAGE. -/
def Chip.hifErr (ch : Chip) (kind : Nat) (bar2 : Bool) (off : Nat) : Chip :=
  let c := match kind with
    | 1 => ch.count8 F.HIF_ERR_ACCESS F.HIF_ERR_STAT_OVF 0
    | 2 => ch.count8 F.HIF_ERR_RSVD_ADDR F.HIF_ERR_STAT_OVF 1
    | 3 => ch.count8 F.HIF_ERR_LOCKED F.HIF_ERR_STAT_OVF 2
    | 4 => ch.count8 F.HIF_ERR_POISON F.HIF_ERR_STAT_OVF 3
    | 5 => ch.setFlag F.HIF_ERR_STAT_ATOMIC_SEEN true
    | _ => ch.setFlag F.HIF_ERR_STAT_IMAGE_SEEN true
  ((c.wr F.HIF_ERR_ADDR_OFFSET (off / 4)).setFlag F.HIF_ERR_ADDR_BAR bar2).wr F.HIF_ERR_ADDR_KIND kind

/-- RWL fields are locked (R10, R660). -/
def Chip.locked (ch : Chip) : Bool := ch.flag F.CFG_STAT_LOCKED

/-- A write of `v` to an RWL field of the register at `off` (R10). -/
def Chip.wrRwl (ch : Chip) (off : Nat) (f : Field) (v : Nat) : Chip :=
  if ch.locked then if ch.rd f = v % 2 ^ f.width then ch else ch.hifErr 3 false off
  else ch.wr f v

/-- A CSI-2 port is enabled with 1, 2 or 4 lanes only: with another number ENABLE reads 0 (R194). -/
def Chip.csiLanes (ch : Chip) (p : Nat) : Chip :=
  let l := ch.rd (F.CSI_CTL_LANES p)
  if ch.flag (F.CSI_CTL_ENABLE p) = false ∨ l = 1 ∨ l = 2 ∨ l = 4 then ch
  else (ch.setFlag (F.CSI_CTL_ENABLE p) false).setFlag (F.CSI_STAT_CFG_SEEN p) true

end Sys2Proof.Machine
end

