-- ==== Sys2Proof/Machine/Ingest.lean ====
section
/-! DEFINITION. Ingest (spec/06_ingest.md): BUF descriptors and their payload, the reader's operations on a Kennel, the CSI-2
ports and the raw front end. -/

namespace Sys2Proof.Machine

open Sys2Proof

/-! ### BUF and its payload (R150, R157, R160 to R162, R191, R194) -/

/-- The Kennel of an open kind-1 stream that takes buffers. -/
def Chip.bufKennel (ch : Chip) (stream : Nat) : Option Nat :=
  match ch.stream stream with
  | some s => if s.kind = 1 ∧ s.closing = none then some s.unit else none
  | none => none

/-- The ring waits for a FULL Kennel (R157). -/
def Chip.ringBlocked (ch : Chip) (n : Nat) : Bool :=
  ch.media.kennels.any fun e => match e.2.fill with
    | some f => f.ring == n && ch.flag (F.KEN_STAT_FULL_LIVE e.1)
    | none => false

/-- A BUF started: refused, or its payload reads begin. -/
def Chip.bufStart (ch : Chip) (n : Nat) (d : Desc) : Chip :=
  let stream := fieldAt d.bytes 8 2
  let len := fieldAt d.bytes 12 4
  let fin (c : Chip) (st : Nat) : Chip := c.completeId n d.idx st stream
  if !descOk d.bytes [(11, 1), (32, 32)] || decide (16 ≤ fieldAt d.bytes 10 1) || decide (0x1000000 < len) then fin ch stBadDesc
  else match ch.bufKennel stream with
    | none => fin ch stBadStream
    | some k =>
      if len = 0 then fin ch stEmpty
      else if (ch.slot (((ch.stream stream).map (·.graph)).getD 0)).st = .empty then
        fin (ch.setKennel k { ch.kennel k with discont := true }) stNoFlow
      else
        let f : Fill := ⟨n, d.idx, fieldAt d.bytes 16 8, len, 0, 0, fieldAt d.bytes 24 8, fieldAt d.bytes 10 1, false⟩
        (ch.setKennel k { ch.kennel k with fill := some f }).kFill k

/-- BUF (R150, R157, R160). It waits while its Kennel takes another buffer, and behind a FULL Kennel of its ring. -/
def execBuf (c : ChipId) (n : Fin 128) (s : State) : Res :=
  onChip s c fun ch =>
    match ch.nextDesc n.val opBuf with
    | none => ch
    | some d =>
      let busy := match ch.bufKennel (fieldAt d.bytes 8 2) with
        | some k => (ch.kennel k).fill.isSome
        | none => false
      if busy || ch.ringBlocked n.val || !ch.fetches then ch else (ch.startDesc n.val d.idx).bufStart n.val d

/-- End of the first buffer with EOS whose last byte lies at or beyond R. -/
def Chip.kEos (ch : Chip) (k : Nat) : Option Nat :=
  let r := ch.kR k
  ((ch.kennel k).recs.find? fun b => bit b.bflags 2 && decide (r < b.start + b.len)).map fun b => b.start + b.len

/-- READ n (R163): at R = W it waits, and a waiting READ returns its bytes when some land. -/
def Chip.kRead (ch : Chip) (k n : Nat) : Chip :=
  let x := ch.kennel k
  let r := ch.kR k
  if n = 0 then ch.setKennel k { x with waitRead := none, lastRead := [], readEnd := false }
  else if r = ch.kW k then ch.setKennel k { x with waitRead := some n, lastRead := [], readEnd := false }
  else
    let stop := match ch.kEos k with
      | some e => min (ch.kW k) e
      | none => ch.kW k
    let m := min n (stop - r)
    let x' := Kennel.endMark { x with waitRead := none, lastRead := ch.kBytes k r m, readEnd := ch.kEos k == some (r + m) } (r + m) (ch.kL k)
    ch.kDo k fun c => (c.setKennel k x').wr (F.KEN_RPOS_VALUE k) (r + m)

/-- Bytes of a buffer land in the Kennel: the record at the first, W, and a waiting READ goes on. -/
def Chip.kLand (ch : Chip) (k : Nat) (f : Fill) (bs : List Byte) (ep : Bool) : Chip :=
  if bs.isEmpty then ch
  else
    let c := ch.kDo k fun c =>
      let c := if f.got = 0 then c.kRecord k { f with poison := f.poison || ep } else c
      let c := if ep then c.kLastRec k fun b => { b with poison := true } else c
      c.kWrite k bs ep
    match (c.kennel k).waitRead with
    | some n => c.kRead k n
    | none => c

/-- The buffer ends: the Kennel takes no more of it, and its BUF completes (R150, R151, R194). -/
def Chip.kBufEnd (ch : Chip) (k : Nat) (f : Fill) (st got : Nat) (poison discont : Bool) : Chip :=
  let x := ch.kennel k
  let c := ch.setKennel k { x with fill := none, discont := x.discont || discont }
  c.complete f.ring f.idx fun d => { d with
    status := st
    nbytes := got
    poison := poison
    id := fieldAt d.bytes 8 2 }

/-- The last record ends at the bytes received; it leaves the queue where L has passed them (R162, R194). -/
def Chip.kShort (ch : Chip) (k got : Nat) : Chip :=
  let c := ch.kLastRec k fun b => { b with len := got }
  let x := c.kennel k
  c.setKennel k { x with recs := x.recs.filter fun b => decide (c.kL k < b.start + b.len) }

/-- Payload bytes returned. A closing stream's bytes are discarded (R191). -/
def Chip.payload (ch : Chip) (k : Nat) (f : Fill) (res : ReadResult) : Chip :=
  let bs := if res.fail = .none then padTo f.reading res.data else res.data.take f.reading
  let closing := ch.kClosing k
  let c := if closing then ch else ch.kLand k f bs res.ep
  let got := f.got + bs.length
  let poison := f.poison || res.ep
  if res.fail ≠ .none then
    let c := if got = 0 ∨ closing then c else c.kShort k got
    c.kBufEnd k f stHostReadErr got poison true
  else if f.len ≤ got then c.kBufEnd k f stOk got poison (bit f.bflags 2)
  else (c.setKennel k { c.kennel k with fill := some { f with got := got, reading := 0, poison := poison } }).kFill k

/-- PAYLOAD_READ_COMPLETE (R157, R161, R162, R167, R191, R194). -/
def execPayloadReadComplete (c : ChipId) (k : Fin 64) (res : ReadResult) (s : State) : Res :=
  onChip s c fun ch =>
    match ch.takeRead (.payload k.val), (ch.kennel k.val).fill with
    | some c, some f => if c.halted then c.readAer res else (c.readAer res).payload k.val f res
    | some c, none => c
    | none, _ => ch

/-! ### The reader's operations (R163, R164) -/

/-- MARK N: a length above a bank's is a bank's. -/
def Chip.kMark (ch : Chip) (k n : Nat) : Chip :=
  ch.kDo k fun c => c.setKennel k { c.kennel k with mark := some (c.kR k, min n c.bankBytes) }

/-- REWIND. -/
def Chip.kRewind (ch : Chip) (k : Nat) : Chip :=
  match (ch.kennel k).mark with
  | some (m, n) => if n = 0 then ch else ch.kDo k fun c =>
      (c.setKennel k { c.kennel k with waitRead := none }).wr (F.KEN_RPOS_VALUE k) m
  | none => ch

/-- RELEASE o. -/
def Chip.kRel (ch : Chip) (k o : Nat) : Chip := ch.kDo k fun c => c.kRelease k o

/-- KENNEL_READ (R163, R194). -/
def execKennelRead (c : ChipId) (k : Fin 64) (n : Nat) (s : State) : Res :=
  onIsland s c fun ch => if ch.flag (F.KEN_STAT_OPEN k.val) then ch.kRead k.val n else ch

/-- KENNEL_MARK (R163). -/
def execKennelMark (c : ChipId) (k : Fin 64) (n : Nat) (s : State) : Res :=
  onIsland s c fun ch => if ch.flag (F.KEN_STAT_OPEN k.val) then ch.kMark k.val n else ch

/-- KENNEL_REWIND (R163). -/
def execKennelRewind (c : ChipId) (k : Fin 64) (s : State) : Res :=
  onIsland s c fun ch => if ch.flag (F.KEN_STAT_OPEN k.val) then ch.kRewind k.val else ch

/-- KENNEL_RELEASE (R163). -/
def execKennelRelease (c : ChipId) (k : Fin 64) (o : Nat) (s : State) : Res :=
  onIsland s c fun ch => if ch.flag (F.KEN_STAT_OPEN k.val) then ch.kRel k.val o else ch

/-! ### CSI-2 ports (R170 to R175) -/

/-- CSI_ENABLE (CSI_CTL, CSI_STAT): ENABLE written 1. -/
def execCsiEnable (c : ChipId) (p : Fin 2) (s : State) : Res :=
  onChip s c fun ch =>
    if ch.locked then ch.wrRwl (0x34000 + 0x100 * p.val) (F.CSI_CTL_ENABLE p.val) 1
    else (ch.setFlag (F.CSI_CTL_ENABLE p.val) true).csiLanes p.val

/-- Domain number of a CSI-2 port (R591). -/
def csiDomain (p : Nat) : Nat := 275 + p

/-- Domain number of the raw front end of a port, which checkpoint 3 belongs to (R186, R591). -/
def rfeDomain (p : Nat) : Nat := 223 + p

/-- DEDUCED, log entry 64. -/
def Chip.csiCrc (ch : Chip) (p : Nat) : Chip := ch.count (F.CSI_CRC_COUNT p) (F.CSI_STAT_OVF p) 0
def Chip.csiTrunc (ch : Chip) (p : Nat) : Chip := ch.count (F.CSI_TRUNC_COUNT p) (F.CSI_STAT_OVF p) 1
def Chip.csiIgn (ch : Chip) (p : Nat) : Chip := ch.count (F.CSI_IGN_COUNT p) (F.CSI_STAT_OVF p) 2

/-- Key of a virtual channel: the SOURCE of its stream (R148). -/
def vcKey (p vc : Nat) : Nat := p + 2 * vc

/-- The open kind-2 stream of a virtual channel. -/
def Chip.csiStream (ch : Chip) (p vc : Nat) : Option (Nat × Stream) :=
  ch.media.streams.find? fun e => e.2.kind == 2 && e.2.source % 8 == vcKey p vc && e.2.closing == none

def Chip.csiFrame (ch : Chip) (p vc : Nat) : Option CsiFrame := Tab.find ch.media.csi (vcKey p vc)

def Chip.setCsi (ch : Chip) (p vc : Nat) (x : Option CsiFrame) : Chip :=
  let t := match x with
    | some f => Tab.put ch.media.csi (vcKey p vc) f
    | none => Tab.del ch.media.csi (vcKey p vc)
  { ch with media := { ch.media with csi := t } }

/-- The discard of a frame reported as DEC_STREAM with the port as the source (R175, R592 row 15). -/
def Chip.csiReport (ch : Chip) (p vc : Nat) : Chip := ch.raise 15 (source (csiDomain p) vc) (ch.regDword (0x34004 + 0x100 * p))

/-- A frame in progress is discarded: its record of the route goes, and the rest of it is ignored if `rest`.
(DEDUCED, log entry 64.) -/
def Chip.csiDiscard (ch : Chip) (p vc : Nat) (f : CsiFrame) (rest : Bool) : Chip :=
  (ch.setCsi p vc (if rest then some { f with gone := true, lines := [], good := [] } else none)).frameGone f.stream f.stamp.frame

/-- The frame in progress of a virtual channel is truncated (R174). -/
def Chip.csiTruncate (ch : Chip) (p vc : Nat) : Chip :=
  match ch.csiFrame p vc with
  | none => ch
  | some f => if f.gone then ch.setCsi p vc none else ((ch.csiDiscard p vc f false).csiTrunc p).csiReport p vc

/-- Picture buffers of a kind-2 stream that are held for Mosaic (R175). -/
def Chip.rawHeld (ch : Chip) (stream : Nat) : List Nat :=
  ((ch.mos.held.filter fun h => h.stamp.stream == stream).map (·.buf))

/-- Stamp block of a frame whose Frame Start arrives now (R183, R189). -/
def Chip.sofStamp (ch : Chip) (p vc stream : Nat) (x : Stream) : Stamp :=
  let t : Int := (ch.now : Int) + sgn 32 (ch.rd (F.TKP_STAMP_ADJ_ADJ p vc))
  let st := if t < 0 then 0 else t.toNat
  ⟨stream, 1, if ch.inHold then 2 ^ ffTimeHold else 0, x.nextFrame, st, x.budgetAt st, ch.now⟩

/-- The port receives packets. -/
def Chip.csiOn (ch : Chip) (p : Nat) : Bool := ch.flag (F.CSI_CTL_ENABLE p) && ch.pwr != pwrDoze

/-- CSI_FRAME_START (R172, R174, R175, R183). -/
def execCsiFrameStart (c : ChipId) (p : Fin 2) (vc : Fin 4) (s : State) : Res :=
  onIsland s c fun ch =>
    if !ch.csiOn p.val then ch
    else match ch.csiStream p.val vc.val with
    | none => ch.csiIgn p.val
    | some _ =>
      let c := ch.csiTruncate p.val vc.val
      match c.csiStream p.val vc.val with
      | none => c
      | some (sn, x) =>
        let st := c.sofStamp p.val vc.val sn x
        let c := c.addLive st
        let used := c.rawHeld sn
        match (List.range 4).find? fun b => !used.contains b with
        | some b => c.setCsi p.val vc.val (some ⟨sn, st, 0, [], [], false, b, false⟩)
        | none => (c.dropFrame st 3 1 (rfeDomain p.val)).setCsi p.val vc.val (some ⟨sn, st, 0, [], [], false, 0, true⟩)

/-! ### Raw front end (R176 to R178) -/

/-- Bits per raw sample of a data type; 0 for YUV. -/
def dtBits (dt : Nat) : Nat := if dt = 0x2A then 8 else if dt = 0x2B then 10 else if dt = 0x2C then 12 else 0

/-- Black level and gain of CFA position `k`. -/
def Chip.rfeBl (ch : Chip) (p vc k : Nat) : Nat :=
  match k with
  | 0 => ch.rd (F.RFE_BL01_BL_LO p vc)
  | 1 => ch.rd (F.RFE_BL01_BL_HI p vc)
  | 2 => ch.rd (F.RFE_BL23_BL_LO p vc)
  | _ => ch.rd (F.RFE_BL23_BL_HI p vc)
def Chip.rfeWb (ch : Chip) (p vc k : Nat) : Nat :=
  match k with
  | 0 => ch.rd (F.RFE_WB01_WB_LO p vc)
  | 1 => ch.rd (F.RFE_WB01_WB_HI p vc)
  | 2 => ch.rd (F.RFE_WB23_WB_LO p vc)
  | _ => ch.rd (F.RFE_WB23_WB_HI p vc)

/-- Colour (0 R, 1 G, 2 B) at CFA position `k` (RFE_CFG.CFA). -/
def cfaColour (cfa k : Nat) : Nat :=
  (((match cfa with
    | 0 => [0, 1, 1, 2]
    | 1 => [1, 0, 2, 1]
    | 2 => [1, 2, 0, 1]
    | _ => [2, 1, 1, 0])[k]?).getD 0)

/-- Black level and gain applied to a raw sample of CFA position `k` (R176). -/
def Chip.rfeSample (ch : Chip) (p vc nbits k raw : Nat) : Nat :=
  let v := raw * 2 ^ (12 - nbits)
  min 4095 (((v - ch.rfeBl p vc k) * ch.rfeWb p vc k + 2048) / 4096)

/-- An index reflected at the picture border without repeating the edge (R177). -/
def reflect (n : Nat) (i : Int) : Nat :=
  if i < 0 then (-i).toNat else if (n : Int) ≤ i then 2 * n - 2 - i.toNat else i.toNat

/-- A colour sample of a pixel (R177). `v y x` gives the samples after black level and gain. -/
def demosaic (cfa w h : Nat) (v : Nat → Nat → Nat) (colour y x : Nat) : Nat :=
  if cfaColour cfa (2 * (y % 2) + x % 2) = colour then v y x
  else
    let near := [(-1, -1), (-1, 0), (-1, 1), (0, -1), (0, 1), (1, -1), (1, 0), (1, 1)].map fun (d : Int × Int) =>
      (reflect h ((y : Int) + d.1), reflect w ((x : Int) + d.2))
    let same := near.filter fun q => cfaColour cfa (2 * (q.1 % 2) + q.2 % 2) == colour
    let n := same.length
    (same.foldl (fun a q => a + v q.1 q.2) 0 + n / 2) / n

/-- Gamma of a colour sample (R176). -/
def Chip.rfeOut (ch : Chip) (p vc s : Nat) : Nat :=
  let i := s / 16
  let f := s % 16
  let o := (ch.rd (F.RFE_LUT_OUT p i) * (16 - f) + ch.rd (F.RFE_LUT_OUT p (i + 1)) * f + 8) / 16
  if ch.flag (F.RFE_CFG_OUT_BITS p vc) then o else o / 4

/-- What a damaged line with no good line to copy holds (R173). -/
def Chip.blackLine (ch : Chip) (p vc dt w y : Nat) : List Nat :=
  let b := dtBits dt
  if b = 0 then (List.range (2 * w)).map fun i => if i % 2 = 1 then 0x10 else 0x80
  else (List.range w).map fun x => ch.rfeBl p vc (2 * (y % 2) + x % 2) / 2 ^ (12 - b)

/-- The line that stands at row `y`: as received, or the nearest earlier good line two rows up (Bayer) or one row up (YUV),
row by row (R173). -/
def goodLine (step : Nat) (lines : List (List Nat)) (good : List Bool) : Nat → Nat → Option (List Nat)
  | 0, _ => none
  | fuel + 1, y =>
    if good[y]? = some true then lines[y]?
    else if y < step then none else goodLine step lines good fuel (y - step)

/-- Lines of a frame with every damaged one replaced. (DEDUCED, log entry 65.) -/
def Chip.mended (ch : Chip) (p vc dt : Nat) (f : CsiFrame) : List (List Nat) :=
  let step := if dtBits dt = 0 then 1 else 2
  (List.range f.lines.length).map fun y =>
    (goodLine step f.lines f.good (y + 1) y).getD (ch.blackLine p vc dt f.width y)

/-- Stride, rows and planes of a kind-2 stream's pictures (R175, R178, R199). -/
def Chip.rawShape (ch : Chip) (p vc : Nat) (x : Stream) : Nat × Nat × Nat :=
  let yuv := dtBits (ch.rd (F.RFE_CFG_DT p vc)) = 0
  let b := if yuv ∨ ch.flag (F.RFE_CFG_OUT_BITS p vc) = true then 2 else 1
  (roundUp (roundUp x.maxW 64 * b) 256, roundUp x.maxH 64, if yuv then 1 else 3)

/-- The picture of a frame written to its buffer, and the record that goes to Mosaic (R178, R210, R211). -/
def Chip.rfeWrite (ch : Chip) (p vc : Nat) (x : Stream) (f : CsiFrame) : Chip × HeldPic :=
  let dt := ch.rd (F.RFE_CFG_DT p vc)
  let ls := ch.mended p vc dt f
  let h := ls.length
  let sh := ch.rawShape p vc x
  let base := x.base + f.buffer * (sh.1 * sh.2.1 * sh.2.2)
  let plane (k : Nat) : Nat := base + k * (sh.1 * sh.2.1)
  let put (c : Chip) (k : Nat) (row : Nat → List Byte) : Chip :=
    (List.range h).foldl (fun (c : Chip) y => c.store (plane k + y * sh.1) (row y) false) c
  let b := dtBits dt
  if b = 0 then
    (put ch 0 fun y => ((ls[y]?).getD []).map (BitVec.ofNat 8), ⟨f.stamp, [plane 0], f.width, h, sh.1, 6, f.buffer, none⟩)
  else
    let wide := ch.flag (F.RFE_CFG_OUT_BITS p vc)
    let v (y q : Nat) : Nat := ch.rfeSample p vc b (2 * (y % 2) + q % 2) ((((ls[y]?).getD [])[q]?).getD 0)
    let row (k y : Nat) : List Byte := (List.range f.width).flatMap fun q =>
      toLe (if wide then 2 else 1) (ch.rfeOut p vc (demosaic (ch.rd (F.RFE_CFG_CFA p vc)) f.width h v k y q))
    ((List.range 3).foldl (fun (c : Chip) k => put c k (row k)) ch,
      ⟨f.stamp, [plane 0, plane 1, plane 2], f.width, h, sh.1, if wide then 8 else 7, f.buffer, none⟩)

/-! ### Lines and frame ends -/

/-- Width in pixels of a line. (DEDUCED, log entry 65.) -/
def lineWidth (dt n : Nat) : Nat := if dtBits dt = 0 then n / 2 else n

/-- A line joins the frame of a virtual channel: good, or damaged (`samples` none: it is missing) (R173). -/
def Chip.csiLine (ch : Chip) (p vc : Nat) (x : Stream) (f : CsiFrame) (samples : Option (List Nat)) (crcOk : Bool) : Chip :=
  let dt := ch.rd (F.RFE_CFG_DT p vc)
  let w := samples.elim 0 fun xs => lineWidth dt xs.length
  let width := if f.width = 0 then w else f.width
  let good := samples.isSome && crcOk && w == width
  let f' : CsiFrame := { f with
    width := width
    lines := f.lines ++ [if good then samples.getD [] else []]
    good := f.good ++ [good]
    concealed := f.concealed || !good }
  let c := if good then ch else ch.csiCrc p
  if x.maxW < width ∨ x.maxH < f'.lines.length ∨ (dtBits dt ≠ 0 ∧ width % 2 = 1) then
    ((c.setFlag (F.CSI_STAT_DIM_SEEN p) true).csiDiscard p vc f' true).csiReport p vc
  else c.setCsi p vc (some f')

/-- CSI_PICTURE_LINE (R172, R173): a long packet of a picture data type. -/
def execCsiPictureLine (c : ChipId) (p : Fin 2) (vc : Fin 4) (dt : BitVec 6) (crcOk : Bool) (samples : List Nat) (s : State) :
    Res :=
  onIsland s c fun ch =>
    if !ch.csiOn p.val then ch
    else match ch.csiStream p.val vc.val, ch.csiFrame p.val vc.val with
    | some (_, x), some f =>
      if dt.toNat ≠ ch.rd (F.RFE_CFG_DT p.val vc.val) then ch.csiIgn p.val
      else if f.gone then ch
      else
        let b := dtBits dt.toNat
        ch.csiLine p.val vc.val x f (some (samples.map fun v => v % 2 ^ (if b = 0 then 8 else b))) crcOk
    | _, _ => ch.csiIgn p.val

/-- CSI_FRAME_END (R172, R173, R186, R217): checkpoint 3, and the picture goes to Mosaic. -/
def execCsiFrameEnd (c : ChipId) (p : Fin 2) (vc : Fin 4) (s : State) : Res :=
  onIsland s c fun ch =>
    if !ch.csiOn p.val then ch
    else match ch.csiStream p.val vc.val, ch.csiFrame p.val vc.val with
    | some (_, x), some f =>
      let c := ch.setCsi p.val vc.val none
      if f.gone then c
      else if f.lines.isEmpty ∨ f.width = 0 then c.frameGone f.stream f.stamp.frame
      else if dtBits (c.rd (F.RFE_CFG_DT p.val vc.val)) ≠ 0 ∧ f.lines.length % 2 = 1 then
        ((c.setFlag (F.CSI_STAT_DIM_SEEN p.val) true).csiReport p.val vc.val).frameGone f.stream f.stamp.frame
      else
        let st : Stamp := { f.stamp with fflags := f.stamp.fflags ||| (if f.concealed then 2 ^ ffConcealed else 0) }
        let c := match c.stream f.stream with
          | some y => c.setStream f.stream { y with live := y.live.map fun (l : Stamp) => if l.frame = st.frame then st else l }
          | none => c
        if st.stale c.now then c.dropFrame st 3 0 (rfeDomain p.val)
        else
          let r := c.rfeWrite p.val vc.val x { f with stamp := st }
          r.1.deliver r.2
    | _, _ => ch.csiIgn p.val

/-- CSI_OTHER_PACKET (R172): which other packets are counted. -/
def execCsiOtherPacket (c : ChipId) (p : Fin 2) (vc : Fin 4) (dt : BitVec 6) (s : State) : Res :=
  onIsland s c fun ch =>
    if !ch.csiOn p.val then ch
    else
      let d := dt.toNat
      let silent := d == 2 || d == 3 || (decide (8 ≤ d) && decide (d ≤ 15)) || d == 0x12
      if silent && (ch.csiStream p.val vc.val).isSome then ch else ch.csiIgn p.val

/-- CSI_HEADER_ECC_ERROR (R172, R173): `line` names the virtual channel whose picture line is missing, if one is. -/
def execCsiHeaderEccError (c : ChipId) (p : Fin 2) (line : Option (Fin 4)) (s : State) : Res :=
  onIsland s c fun ch =>
    if !ch.csiOn p.val then ch
    else
      let c := ch.csiCrc p.val
      match line with
      | none => c
      | some vc => match c.csiStream p.val vc.val, c.csiFrame p.val vc.val with
        | some (_, x), some f => if f.gone then c else c.csiLine p.val vc.val x f none false
        | _, _ => c

/-- CSI_FRAME_TIMEOUT (R174). -/
def execCsiFrameTimeout (c : ChipId) (p : Fin 2) (vc : Fin 4) (s : State) : Res :=
  onIsland s c fun ch => if ch.rd (F.CSI_CTL_FRAME_TO p.val) = 0 then ch else ch.csiTruncate p.val vc.val

end Sys2Proof.Machine
end

