-- ==== Sys2Proof/Machine/VideoDecode.lean ====
section
/-! DEFINITION. Video decode (spec/07_decode.md): engines taking access units, the pre-scan and its checks, pictures in output
order with checkpoint 2, RESYNC, and the end of a session. What a codec computes from a bitstream is an operand of the
commands; the samples of a picture are free values. -/

namespace Sys2Proof.Machine

open Sys2Proof

/-! ### Sessions -/

def sessClosed : Nat := 0
def sessResync : Nat := 1
def sessDecoding : Nat := 2
def sessDraining : Nat := 3

def Chip.session (ch : Chip) (k : Nat) : Option Session := Tab.find ch.media.sessions k
def Chip.setSession (ch : Chip) (k : Nat) (x : Session) : Chip :=
  { ch with media := { ch.media with sessions := Tab.put ch.media.sessions k x } }
def Chip.sessState (ch : Chip) (k : Nat) : Nat := ch.rd (F.DEC_SESS_STAT_STATE k)

def Chip.engine (ch : Chip) (e : Nat) : Option CurAu := Tab.find ch.media.engines e
def Chip.setEngine (ch : Chip) (e : Nat) (x : Option CurAu) : Chip :=
  let t := match x with
    | some a => Tab.put ch.media.engines e a
    | none => Tab.del ch.media.engines e
  { ch with media := { ch.media with engines := t } }

/-- The engine that works on a session. -/
def Chip.onEngine (ch : Chip) (k : Nat) : Option Nat :=
  (ch.media.engines.find? fun a => a.2.sess == k).map (·.1)

/-- Domain number of an engine (R591). -/
def decDomain (e : Nat) : Nat := 216 + e

/-- The chip does work that Doze would stop. -/
def Chip.awake (ch : Chip) : Bool := ch.pwr == pwrRun || ch.pwr == pwrEntering

/-- DEC_STREAM of a session, with a FRAME or 0 (R592 row 14). -/
def Chip.decReport (ch : Chip) (k frame : Nat) (x : Session) : Chip :=
  ch.raise 14 (source (decDomain x.engine) k) (ch.regDword (0x41004 + 0x20 * k) + frame % 2 ^ 32 * 2 ^ 32)

/-! ### Output (R187, R203, R204, R209, R210) -/

/-- Flat addresses of the planes of a picture in buffer `buf` (R199, R211, R212). -/
def Session.planes (x : Session) (buf format : Nat) : List Nat :=
  let p := x.base + buf * x.bufBytes
  if format = 4 ∨ format = 5 then [p] else [p, p + x.stride * x.rows]

/-- A picture reaches output order: it takes the next FRAME, a concealed one is reported with it (R205), and it passes checkpoint 2
and goes to Mosaic, or is dropped. (DEDUCED, log entry 67.) -/
def Chip.output (ch : Chip) (k : Nat) (d : DecPic) : Chip :=
  match ch.session k with
  | none => ch
  | some x =>
    match ch.stream x.stream with
    | none => ch
    | some s =>
      let st : Stamp := { d.stamp with frame := s.nextFrame }
      let c := ch.addLive st
      let c := if bit st.fflags ffConcealed then c.decReport k st.frame x else c
      if d.skipped then c.dropFrameAge st d.age 1 0 (decDomain x.engine)
      else
        let c := c.count64 (F.DEC_PICS_COUNT k) (F.DEC_ERR_PICS_WRAP k) 0 (F.DEC_PICS_WRAP_COUNT k) (F.DEC_ERR_WRAP_OVF k) 0 1
        let held := (c.mos.held.filter fun h => h.sess == some k).length
        if d.drop || st.stale c.now then c.dropFrame st 2 0 (decDomain x.engine)
        else if 4 ≤ held then c.dropFrame st 2 1 (decDomain x.engine)
        else c.deliver ⟨st, x.planes d.buf d.format, d.w, d.h, x.stride, d.format, d.buf, some k⟩

/-- The first `n` entries that await output reach output order (R204). -/
def Chip.outFirst (ch : Chip) (k n : Nat) : Chip :=
  match ch.session k with
  | none => ch
  | some x => (x.awaiting.take n).foldl (fun (c : Chip) d => c.output k d) (ch.setSession k { x with awaiting := x.awaiting.drop n })

/-- Every picture that awaits output is output, and the DPB is empty. -/
def Chip.flushDpb (ch : Chip) (k : Nat) : Chip :=
  match ch.session k with
  | none => ch
  | some x => (ch.setSession k { x with refs := [] }).outFirst k x.awaiting.length

/-- Entry to RESYNC, or another refusal in RESYNC (R213, R215). A DRAINING session stays so. -/
def Chip.resync (ch : Chip) (k : Nat) (report : Bool) : Chip :=
  let c := ch.flushDpb k
  let c := c.count (F.DEC_RESYNC_COUNT k) (F.DEC_ERR_RESYNC_OVF k) 0
  let c := if c.sessState k = sessDraining then c else c.wr (F.DEC_SESS_STAT_STATE k) sessResync
  match c.session k with
  | none => c
  | some x =>
    let c := c.setSession k { x with scan := false }
    if report then c.decReport k 0 x else c

/-- The access unit is released (R202 step 4): the read point stands at its end, or at W where a ring reset took bytes of it
(R191). -/
def Chip.auRelease (ch : Chip) (e : Nat) (a : CurAu) : Chip :=
  let o := min (a.start + a.len) (ch.kW a.sess)
  (ch.setEngine e none).kDo a.sess fun c => (c.wr (F.KEN_RPOS_VALUE a.sess) (max o (c.kR a.sess))).kRelease a.sess o

/-- The stream of a session closes. -/
def Chip.sessClosing (ch : Chip) (x : Session) : Bool :=
  match ch.stream x.stream with
  | some s => s.closing != none
  | none => true

/-- The end of an access unit on a session that closes: outputs, and DRAINING (R213, R215). -/
def Chip.auEnd (ch : Chip) (k : Nat) : Chip :=
  match ch.session k with
  | some x => if ch.sessClosing x then (ch.wr (F.DEC_SESS_STAT_STATE k) sessDraining).flushDpb k else ch
  | none => ch

/-- The last picture in output order of the buffer at `src` carries EOS (R203). -/
def markEos (src : Nat) (xs : List DecPic) : List DecPic :=
  match ((List.range xs.length).filter fun i => (xs[i]?).any fun d => d.src == src && !d.skipped).getLast? with
  | some i => updAt xs i fun d => { d with stamp := { d.stamp with fflags := d.stamp.fflags ||| 2 ^ ffEos } }
  | none => xs

/-- After the last access unit of a buffer with EOS, what awaits output is output and the session is in RESYNC (R203, R213). -/
def Chip.eosFlush (ch : Chip) (a : CurAu) : Chip :=
  match ch.session a.sess with
  | some x =>
    if a.eos && ch.sessState a.sess == sessDecoding then
      (ch.setSession a.sess { x with awaiting := markEos a.src x.awaiting }).resync a.sess false
    else ch
  | none => ch

/-- The access unit ends without a picture and the session goes to RESYNC (R213). -/
def Chip.auStop (ch : Chip) (e : Nat) (a : CurAu) : Chip :=
  let c := ch.auRelease e a
  let c := match c.session a.sess with
    | some x => if a.eos then c.setSession a.sess { x with awaiting := markEos a.src x.awaiting } else c
    | none => c
  (c.resync a.sess true).auEnd a.sess

/-- The entry of an access unit joins those that await output, and the first `out` of them reach output order. JPEG leaves in
decode order (R204). -/
def Chip.await (ch : Chip) (k : Nat) (d : DecPic) (place out : Nat) : Chip :=
  match ch.session k with
  | some x =>
    let n := x.awaiting.length
    let p := if x.codec = 4 then n else min place n
    (ch.setSession k { x with awaiting := x.awaiting.take p ++ d :: x.awaiting.drop p }).outFirst k (if x.codec = 4 then n + 1 else out)
  | none => ch

/-! ### Taking an access unit (R187, R201 to R204, R207, R208) -/

/-- With RAP_TRUST, a session in RESYNC releases the bytes before the next buffer with RAP (R207); a DISCONT among
them holds for the next picture (R203). (DEDUCED, log entry 68.) -/
def Chip.trustSkip (ch : Chip) (k : Nat) : Chip :=
  match ch.session k with
  | none => ch
  | some x =>
    if ch.sessState k = sessResync ∧ ch.flag F.DEC_CFG_RAP_TRUST = true ∧ x.scan = false then
      let tr := (ch.kennel k).recs.find? fun b => bit b.bflags 1 && decide (ch.kR k ≤ b.start)
      let o := match tr with
        | some b => b.start
        | none => ch.kW k
      let c := ch.kDo k fun c => (c.wr (F.KEN_RPOS_VALUE k) o).kRelease k o
      let gap := (ch.kennel k).recs.any fun b => bit b.bflags 3 && decide (b.start < o)
      c.setSession k { x with scan := tr.isSome, discont := x.discont || gap }
    else ch

/-- Bytes that start an access unit, as far as the codec shows it in them: a start code (HEVC, AVC), a temporal delimiter OBU (AV1),
SOI (JPEG) (R195, R201). (DEDUCED, log entry 68.) -/
def auStart (codec : Nat) (b : List Byte) : Bool :=
  match codec with
  | 3 => b.take 2 == [0x12#8, 0#8]
  | 4 => b.take 2 == [0xFF#8, 0xD8#8]
  | _ => b.take 3 == [0#8, 0#8, 1#8] || b.take 4 == [0#8, 0#8, 0#8, 1#8]

/-- The buffer of an access unit and its number within that buffer. It starts where its codec shows a start, at the read point or,
before a buffer's first access unit, after bytes that are discarded; it ends at the next start or at its buffer's end (R201). -/
def Chip.auBuf (ch : Chip) (x : Session) (h : AuHead) : Option (BufRec × Nat) :=
  let k := h.sess.val
  let r := ch.kR k
  let o := r + h.skip
  let starts (o : Nat) : Bool := auStart x.codec (ch.kBytes k o (min 4 (ch.kW k - o)))
  match (ch.kennel k).recAt o with
  | some b =>
    let fresh := match (ch.kennel k).recAt r with
      | some b0 => x.auIndex.1 != b0.start || x.auIndex.2 == 0
      | none => true
    let e := o + h.len
    if h.len ≠ 0 ∧ e ≤ min (ch.kW k) (b.start + b.len) ∧ (h.skip = 0 ∨ fresh = true) ∧ starts o = true ∧
        (e = b.start + b.len ∨ starts e = true) then
      some (b, if x.auIndex.1 = b.start then x.auIndex.2 else 0)
    else none
  | none => none

/-- The stamp block of the access unit number `i` of buffer `b` (R194, R203); FRAME follows at output. -/
def auStamp (x : Session) (b : BufRec) (i : Nat) : Stamp :=
  ⟨x.stream, b.src, bnat b.hold * 2 ^ ffTimeHold + bnat b.poison * 2 ^ ffPoison, 0, b.stamp + i * (1000000000 / x.fps), b.budget, b.arrival⟩

/-- A session of engine `e` may give the access unit. -/
def Chip.auFits (ch : Chip) (e : Nat) (h : AuHead) : Bool :=
  match ch.session h.sess.val with
  | some x =>
    let st := ch.sessState h.sess.val
    x.engine == e && (st == sessResync || st == sessDecoding) && !ch.sessClosing x && (ch.auBuf x h).isSome
  | none => false

/-- Deadline of an access unit (R208), with the session number for a tie. -/
def Chip.auDeadline (ch : Chip) (h : AuHead) : Nat :=
  match ch.session h.sess.val with
  | some x => match ch.auBuf x h with
    | some (b, i) =>
      let s := auStamp x b i
      (s.stamp + s.budget * 1000) * 64 + h.sess.val
    | none => 0
  | none => 0

/-- The engine takes an access unit: checkpoint 1, then MARK and the read of the pre-scan. -/
def Chip.auTake (ch : Chip) (e : Nat) (x : Session) (h : AuHead) (b : BufRec) (i : Nat) : Chip :=
  let k := h.sess.val
  let start := ch.kR k + h.skip
  let c := ch.kDo k fun c => (c.wr (F.KEN_RPOS_VALUE k) start).kRelease k start
  let c := if h.skip = 0 then c else c.setFlag (F.DEC_ERR_SYNTAX k) true
  let gap := (ch.kennel k).recs.any fun r => bit r.bflags 3 && decide (ch.kR k ≤ r.start) && decide (r.start ≤ start)
  let x : Session := { x with
    auIndex := (b.start, i + 1)
    discont := x.discont || gap }
  let st := auStamp x b i
  let stale := st.stale c.now
  let a : CurAu := ⟨k, start, h.len, st, h.isRef, stale, decide (c.bankBytes < h.len), false,
    bit b.bflags 2 && start + h.len == b.start + b.len, b.start⟩
  let c := (c.setSession k x).setEngine e (some a)
  if stale ∧ h.isRef = false then
    let c := if c.sessState k = sessDecoding then c.await k ⟨st, 0, 0, 0, 0, true, st.age c.now, false, b.start⟩ h.place h.out else c
    ((c.auRelease e a).eosFlush a).auEnd k
  else (c.kMark k c.bankBytes).kRead k h.len

/-- DECODE_TAKE_AU (R186, R187, R201 to R203, R207, R208): the engine takes the earliest deadline among the complete access
units that the bitstreams show. -/
def execDecodeTakeAu (c : ChipId) (e : Fin 6) (aus : List AuHead) (s : State) : Res :=
  onIsland s c fun ch =>
    if (ch.engine e.val).isSome || !ch.awake then ch
    else
      let c := aus.foldl (fun (c : Chip) h =>
        match c.session h.sess.val with
        | some x => if x.engine = e.val then c.trustSkip h.sess.val else c
        | none => c) ch
      match argMin (fun h => c.auDeadline h) (aus.filter fun h => c.auFits e.val h) with
      | none => c
      | some h => match c.session h.sess.val with
        | none => c
        | some x => match c.auBuf x h with
          | some (b, i) => c.auTake e.val x h b i
          | none => c

/-! ### Parameter sets (R200) -/

/-- The engines support a feature: of those that R196 names they decode film grain parameters alone, without applying them. -/
def featureOk (f : CodecFeature) : Bool := f == .av1FilmGrain

/-- The DEC_ERR bits that a parameter set sets: DIM_LIMIT, UNSUPPORTED, SYNTAX. -/
def Session.setErrs (x : Session) (p : ParamSet) : Bool × Bool × Bool :=
  let dim := decide (x.maxW < p.cropW) || decide (x.maxH < p.cropH) ||
    decide (p.cropW + 63 < p.codedW) || decide (p.cropH + 63 < p.codedH) ||
    decide (roundUp x.maxW 64 < p.codedW) || decide (roundUp x.maxH 64 < p.codedH) ||
    decide (x.maxBits < p.lumaBits) || decide (x.maxBits < p.chromaBits) ||
    (decide (x.codec ≤ 2) && decide (x.maxDpb < p.dpb))
  (dim, p.features.any (fun f => !featureOk f), !p.legal)

/-- The checks of all parameter sets that an access unit activates: none where they pass. -/
def Chip.setsRefused (ch : Chip) (k : Nat) (x : Session) (ps : List ParamSet) : Option Chip :=
  let es := ps.map x.setErrs
  if es.all fun t => !t.1 && !t.2.1 && !t.2.2 then none
  else
    let c := if es.any fun t => t.1 then ch.setFlag (F.DEC_ERR_DIM_LIMIT k) true else ch
    let c := if es.any fun t => t.2.1 then c.setFlag (F.DEC_ERR_UNSUPPORTED k) true else c
    some (if es.any fun t => t.2.2 then c.setFlag (F.DEC_ERR_SYNTAX k) true else c)

/-- The checks before decoding: `inl` where the access unit ends here, released (R200, R207, R213). Every JPEG image is a
random-access point. -/
def Chip.auCheck (ch : Chip) (e : Nat) (a : CurAu) (x : Session) (rap : Bool) (ps : List ParamSet) : Sum Chip Chip :=
  let k := a.sess
  let st := ch.sessState k
  let rap := rap || x.codec == 4
  if st = sessResync ∧ rap = false then .inl ((ch.auRelease e a).auEnd k)
  else if st = sessDecoding ∧ rap = false ∧ x.discont = true then .inl (ch.auStop e a)
  else match ch.setsRefused k x ps with
    | some c => .inl (c.auStop e a)
    | none => .inr ch

/-- DECODE_PRESCAN_COMPLETE (R200, R202, R207, R213). -/
def execDecodePrescanComplete (c : ChipId) (e : Fin 6) (rap : Bool) (sets : List ParamSet) (s : State) : Res :=
  onIsland s c fun ch =>
    match ch.engine e.val with
    | none => ch
    | some a =>
      if a.scanned then ch
      else match ch.session a.sess with
        | none => ch
        | some x => match ch.auCheck e.val a x rap sets with
          | .inl c => c
          | .inr c => (c.kRewind a.sess).setEngine e.val (some { a with scanned := true, rap := rap })

/-- KENNEL_FORCED_RELEASE (R165, R191, R202): the Kennel is freed up to R, and a pre-scan under way is abandoned. -/
def execKennelForcedRelease (c : ChipId) (k : Fin 64) (s : State) : Res :=
  onIsland s c fun ch =>
    let n := k.val
    if ch.flag (F.KEN_STAT_FULL_LIVE n) && (ch.kennel n).waitRead.isSome && ch.kR n == ch.kW n then
      let c := ch.kDo n fun c =>
        let x := c.kennel n
        ((c.setKennel n { x with mark := none }).setFlag (F.KEN_STAT_FORCE_SEEN n) true).kRelease n (c.kR n)
      match c.session n with
      | none => c
      | some _ =>
        let go : Option Chip := match c.onEngine n with
          | some e => match c.engine e with
            | some a => if a.scanned then none else some (((c.setKennel n { c.kennel n with waitRead := none })).setEngine e none)
            | none => some c
          | none => some c
        match go with
        | none => c
        | some c => (((c.setFlag (F.DEC_ERR_OVERSIZE n) true).resync n true)).auEnd n
    else ch

/-! ### A decoded access unit (R203 to R206) -/

/-- Blocks of 16 × 16 samples of a picture (R205). (DEDUCED, log entry 67.) -/
def auBlocks (r : AuResult) : Nat := (r.w + 15) / 16 * ((r.h + 15) / 16)

/-- A buffer of a session is not free: its picture is referenced, awaits output, or is held for Mosaic (R210). -/
def Chip.bufHeld (ch : Chip) (k : Nat) (x : Session) (b : Nat) : Bool :=
  x.refs.contains b || (x.awaiting.any fun d => !d.skipped && d.buf == b) ||
    ch.mos.held.any fun h => h.sess == some k && h.buf == b

/-- The FORMATs of a codec for a session's bit depth (R212). -/
def formatsOf (codec maxBits : Nat) : List Nat :=
  (match codec with
    | 1 => [1]
    | 4 => [1, 3, 4]
    | _ => [1, 4]) ++ (if maxBits = 8 then [] else if codec = 1 then [2] else if codec = 3 then [2, 5] else [])

/-- The result of a decode is one an engine can give: a free buffer, a size and a FORMAT of its session (R199, R210, R212), and
references that the session holds. -/
def Chip.auResultOk (ch : Chip) (k : Nat) (r : AuResult) (x : Session) : Bool :=
  decide (r.buf < x.maxDpb + 4) && !ch.bufHeld k x r.buf && decide (1 ≤ r.w) && decide (r.w ≤ x.maxW) && decide (1 ≤ r.h) &&
    decide (r.h ≤ x.maxH) && (formatsOf x.codec x.maxBits).contains r.format && r.concealed.all (fun b => decide (b < auBlocks r)) &&
    r.refs.all x.refs.contains && r.keep.all fun b => b == r.buf || x.refs.contains b

/-- Bytes of a sample of a FORMAT. -/
def sampleBytes (format : Nat) : Nat := if format = 2 ∨ format = 5 then 2 else 1

/-- Width in samples and rows of plane `pl` of a picture (R212). -/
def planeSize (format w h pl : Nat) : Nat × Nat :=
  if pl = 0 then (w, h) else ((w + 1) / 2 * 2, if format = 3 then h else (h + 1) / 2)

/-- What a concealed sample takes: the co-located one of the latest decoded picture of the session that is still held, else
mid-level (R205). -/
def Chip.coSample (ch : Chip) (k : Nat) (x : Session) (format pl y i : Nat) : Nat :=
  let mid := if sampleBytes format = 2 then 512 else 128
  match (x.pics.filter fun p => ch.bufHeld k x p.buf).getLast? with
  | some p =>
    let s := planeSize p.format p.w p.h pl
    if p.format = format ∧ i < s.1 ∧ y < s.2 then
      ch.load (((x.planes p.buf format)[pl]?).getD 0 + y * x.stride + i * sampleBytes format) (sampleBytes format)
    else mid
  | none => mid

/-- The block of sample `i` of row `y` of a plane. -/
def auBlockOf (r : AuResult) (pl y i : Nat) : Nat :=
  let lx := if pl = 0 then i else i / 2 * 2
  let ly := if pl = 0 ∨ r.format = 3 then y else 2 * y
  ly / 16 * ((r.w + 15) / 16) + lx / 16

/-- The samples of a decoded picture written to its buffer: concealed blocks as R205 says, the others free values (R195 names the
codecs and gives no arithmetic). (DESIGN CHOICE, log entry 66.) -/
def Chip.picWrite (ch : Chip) (k : Nat) (x : Session) (r : AuResult) : Chip :=
  let e := sampleBytes r.format
  let d := ch.draws
  let sample (pl y i : Nat) : Nat :=
    if r.concealed.contains (auBlockOf r pl y i) then ch.coSample k x r.format pl y i
    else Config.picSample ch.pos.val d pl y i % (if e = 2 then 1024 else 256)
  let plane (c : Chip) (a pl : Nat) : Chip :=
    let s := planeSize r.format r.w r.h pl
    (List.range s.2).foldl (fun (c : Chip) y => c.store (a + y * x.stride) ((List.range s.1).flatMap fun i => toLe e (sample pl y i)) false) c
  let c : Chip := { ch with draws := d + 1 }
  let ps := x.planes r.buf r.format
  (List.range ps.length).foldl (fun (c : Chip) pl => plane c ((ps[pl]?).getD 0) pl) c

/-- A picture carries POISON: bytes of its access unit did, a read of a reference returned poison, or a reference carries it
(R206). -/
def Chip.auPoison (ch : Chip) (a : CurAu) (x : Session) (r : AuResult) : Bool :=
  bit a.stamp.fflags ffPoison || ((List.range a.len).any fun i => ch.isPoisoned (ch.kAddr a.sess (a.start + i))) ||
    (r.refs.any fun b => x.pics.any fun p => p.buf == b && p.poison) ||
    (r.refPoison && r.refs.any fun b => ch.anyPoison (x.base + b * x.bufBytes) x.bufBytes)

/-- The picture of an access unit, its flags and what reaches output (R203 to R206, R210, R213). -/
def Chip.auPicture (ch : Chip) (a : CurAu) (x : Session) (r : AuResult) (rap : Bool) : Chip :=
  let k := a.sess
  let poison := ch.auPoison a x r
  let concealed := !r.concealed.isEmpty || r.missingRef
  let c := if poison then ch.setFlag (F.DEC_SESS_STAT_POISON_LIVE k) true
    else if rap then ch.setFlag (F.DEC_SESS_STAT_POISON_LIVE k) false else ch
  let c := if concealed then
      (c.setFlag (if r.missingRef then F.DEC_ERR_MISSING_REF k else F.DEC_ERR_SYNTAX k) true).count (F.DEC_CONCEAL_COUNT k)
        (F.DEC_ERR_CONCEAL_OVF k) 0
    else c
  let fl := a.stamp.fflags ||| (bnat concealed * 2 ^ ffConcealed) ||| (bnat x.discont * 2 ^ ffDiscont) |||
    (bnat poison * 2 ^ ffPoison)
  let d : DecPic := ⟨{ a.stamp with fflags := fl }, r.w, r.h, r.format, r.buf, false, 0, a.stale, a.src⟩
  let c := c.picWrite k x r
  let c := c.setSession k { x with
    discont := false
    refs := r.keep
    pics := (x.pics.filter fun p => p.buf != r.buf) ++ [⟨r.buf, r.format, r.w, r.h, poison⟩] }
  let c := if c.sessState k = sessResync then c.wr (F.DEC_SESS_STAT_STATE k) sessDecoding else c
  (c.await k d r.place r.out).eosFlush a

/-- DECODE_AU_COMPLETE (R200, R202 to R207, R209, R213, R214). -/
def execDecodeAuComplete (c : ChipId) (e : Fin 6) (r : AuResult) (s : State) : Res :=
  onIsland s c fun ch =>
    match ch.engine e.val with
    | none => ch
    | some a => match ch.session a.sess with
      | none => ch
      | some x =>
        if !a.scanned || !ch.auResultOk a.sess r x then ch
        else
          let k := a.sess
          let big := decide (ch.bankBytes < a.len)
          let rap := (if big then r.rap else a.rap) || x.codec == 4
          match (if big then ch.auCheck e.val a x rap r.sets else .inr ch) with
          | .inl c => c
          | .inr c =>
            if r.features.any (fun f => !featureOk f) then (c.setFlag (F.DEC_ERR_UNSUPPORTED k) true).auStop e.val a
            else if r.rasl then (((c.auRelease e.val a).outFirst k r.out).eosFlush a).auEnd k
            else if c.rd F.DEC_CFG_CONCEAL_MAX * auBlocks r < 100 * r.concealed.length then
              (c.setFlag (F.DEC_ERR_CONCEAL_MAX k) true).auStop e.val a
            else ((c.auPicture a x r rap).auRelease e.val a).auEnd k

/-! ### The end of a session (R191, R199, R213) -/

/-- DEC_ENG_LOAD and DEC_POOL_USED follow the open sessions (R198, R199). -/
def Chip.decLoads (ch : Chip) : Chip :=
  let c := (List.range 6).foldl (fun (c : Chip) e =>
    let mine := ch.media.sessions.filter fun s => s.2.engine == e
    let load := mine.foldl (fun a s => a + s.2.load) 0
    (c.wr (F.DEC_ENG_LOAD_LOAD e) ((load + 3999999) / 4000000)).wr (F.DEC_ENG_LOAD_SESS e) mine.length) ch
  c.wr F.DEC_POOL_USED_MIB (ch.media.sessions.foldl (fun a s =>
    a + roundUp ((s.2.maxDpb + 4) * s.2.bufBytes) MiB / MiB) 0)

/-- A session's slot, memory and Kennel are free again. -/
def Chip.sessFree (ch : Chip) (k : Nat) : Chip :=
  let c : Chip := { ch with media := { ch.media with
    sessions := Tab.del ch.media.sessions k
    kennels := Tab.del ch.media.kennels k } }
  let c := ((c.wr (F.DEC_SESS_STAT_STATE k) sessClosed).wr (F.DEC_SESS_STAT_ENGINE k) 0).wr (F.DEC_SESS_STAT_CODEC k) 0
  let c := (c.wr (F.DEC_SESS_MEM_MIB k) 0).setFlag (F.DEC_SESS_STAT_POISON_LIVE k) false
  let c := ((c.setFlag (F.KEN_STAT_OPEN k) false).setFlag (F.KEN_STAT_FULL_LIVE k) false).setFlag (F.KEN_STAT_MARK_LIVE k) false
  c.decLoads

/-- SESSION_DRAINED (R191, R199, R213): the last frame of a DRAINING session is gone, and no payload read of its Kennel is out.
(DEDUCED, log entry 152.) -/
def execSessionDrained (c : ChipId) (k : Fin 64) (s : State) : Res :=
  onIsland s c fun ch =>
    match ch.session k.val with
    | none => ch
    | some x =>
      let live := match ch.stream x.stream with
        | some st => st.live
        | none => []
      if ch.sessState k.val = sessDraining ∧ live = [] ∧ x.awaiting = [] ∧ ch.onEngine k.val = none ∧
          (ch.kennel k.val).fill = none then
        ((ch.sessFree k.val).closeNow x.stream).gbkFreed
      else ch

end Sys2Proof.Machine
end

