-- ==== Sys2Proof/Machine/Audio.lean ====
section
/-! DEFINITION. The audio front end and the Porch (spec/09_audio_porch.md): capture, blocks and their pools, beams, features,
wake detection and the handover. -/

namespace Sys2Proof.Machine

open Sys2Proof

def Chip.aud (ch : Chip) : Audio := ch.media.audio

/-- Stores that stalled on a full feature queue enter in their order while it has room (R251). -/
def Audio.takeIn (a : Audio) : Audio :=
  let n := 64 - a.fq.length
  { a with fq := a.fq ++ (a.fstalled.take n).map (·.2), fstalled := a.fstalled.drop n }

/-- The audio front end changed: stalled stores enter, and FQLEVEL follows. -/
def Chip.setAud (ch : Chip) (a : Audio) : Chip :=
  let a := a.takeIn
  let c : Chip := { ch with media := { ch.media with audio := a } }
  c.wr F.AUD_STAT_FQLEVEL a.fq.length
def Chip.setPorch (ch : Chip) (p : Porch) : Chip := { ch with media := { ch.media with porch := p } }

/-- Domain number of the audio front end (R91). -/
def audDomain : Nat := 225

/-! ### Sample instants (R241) -/

/-- T(n). -/
def instant (n : Nat) : Nat := (62500 * n + 1) / 3

/-- The last index whose instant is at or before `t`. -/
def indexAt (t : Nat) : Nat := (3 * t + 1) / 62500

/-! ### Capture (R238 to R243) -/

/-- Samples a channel keeps: a block, the beam history and the PDM delay. -/
def histLen : Nat := 8192

/-- Channel `k` receives sample `i`. -/
def Audio.push (a : Audio) (k i : Nat) (v : BitVec 32) : Audio :=
  { a with hist := Tab.put a.hist k (((i, v) :: Tab.get [] a.hist k).take histLen) }

/-- The newest index of a channel, if any. -/
def Audio.newest (a : Audio) (k : Nat) : Option Nat := ((Tab.get [] a.hist k).head?).map (·.1)

/-- A sample of a channel; one it does not hold reads 0 (R248). -/
def Audio.sample (a : Audio) (k i : Nat) : Int :=
  match (Tab.get [] a.hist k).find? fun e => e.1 == i with
  | some e => e.2.toInt
  | none => 0

/-- Width in bits of a lane's slots. -/
def laneWidth (w : Nat) : Nat := if w = 0 then 16 else if w = 1 then 24 else 32

/-- The clocks of the audio inputs run outside Doze (R75, R266). -/
def Chip.audioOn (ch : Chip) : Bool := ch.pwr == pwrRun || ch.pwr == pwrEntering

/-! ### Blocks (R245 to R247) -/

/-- The slot lists of a stream changed. -/
def Chip.modAud (ch : Chip) (stream : Nat) (f : AudStream → AudStream) : Chip :=
  ch.setAud { ch.aud with streams := ch.aud.streams.map fun a => if a.stream = stream then f a else a }

def Chip.audOf (ch : Chip) (stream : Nat) : Option AudStream := ch.aud.streams.find? fun a => a.stream == stream

/-- Slot `i` of a stream returns to the pool. -/
def AudStream.free (a : AudStream) (i : Nat) : AudStream :=
  { a with slots := updAt a.slots i fun s => { s with held := none, tokenSent := false } }

/-- The next block of a stream starts: its slot is claimed and its page read, or it is dropped (R245, R247, R250). -/
def Chip.blockStart (ch : Chip) (a : AudStream) : Chip :=
  match ch.stream a.stream with
  | none => ch
  | some s =>
    let n0 := a.nextBlock
    let d := ch.draw
    let fl := bnat ch.inHold * 2 ^ ffTimeHold + bnat a.discont * 2 ^ ffDiscont
    let t := instant n0
    let st : Stamp := ⟨a.stream, 5, fl, (n0 - a.first) / a.bset.block % 2 ^ 32, t, s.budgetAt t, d.1 % 2 ^ 64⟩
    let c := d.2.addLive st
    let page := (c.byte (a.bset.base + 1)).toNat % 2
    let slot := findIdx (fun (b : BlockSlot) => b.held == none) a.slots
    let a' : AudStream := { a with
      nextBlock := n0 + a.bset.block
      discont := false
      cur := a.cur ++ [⟨n0, st, slot, page⟩] }
    match slot with
    | some i => c.modAud a.stream fun _ => { a' with slots := updAt a'.slots i fun b => { b with held := some st } }
    | none =>
      let c := c.modAud a.stream fun _ => a'
      (c.count F.AUD_POOLDROP_COUNT F.AUD_STAT_POOL_OVF 0).dropFrame st 8 1 audDomain

/-- Every block of a stream whose first instant has come starts. -/
def Chip.blockStarts (ch : Chip) (stream : Nat) : Nat → Chip
  | 0 => ch
  | fuel + 1 =>
    match ch.audOf stream with
    | some a =>
      let closing : Bool := match ch.stream stream with
        | some s => s.closing != none
        | none => true
      if closing || decide (ch.now < instant a.nextBlock) then ch else (ch.blockStart a).blockStarts stream fuel
    | none => ch

/-- Blocks due start on every stream; none in Doze. -/
def Chip.audStarts (ch : Chip) : Chip :=
  if ch.audioOn then
    ch.aud.streams.foldl (fun (c : Chip) a =>
      c.blockStarts a.stream ((indexAt ch.now + a.bset.block - a.nextBlock) / a.bset.block + 1)) ch
  else ch

/-- TDM_FRAME (R238, R239, R242): the slots of the frame that starts at T(n), each the slot's bits as a number. -/
def execTdmFrame (c : ChipId) (lane : Fin 2) (n : Nat) (slots : List (BitVec 32)) (s : State) : Res :=
  onIsland s c fun ch =>
    let l := lane.val
    let i := n - ch.rd (F.AUD_LANE_LAT l)
    if !ch.audioOn || !ch.flag (F.AUD_LANE_EN l) || decide (ch.now < instant n) || decide (n < ch.rd (F.AUD_LANE_LAT l)) then ch
    else
      let w := laneWidth (ch.rd (F.AUD_LANE_WIDTH l))
      let a := (List.range 16).foldl (fun (a : Audio) k =>
        let v := if k < ch.rd (F.AUD_LANE_SLOTS l) then (slots[k]?).getD 0 else 0
        if (a.newest (16 * l + k)).any fun m => decide (i ≤ m) then a
        else a.push (16 * l + k) i (BitVec.ofNat 32 (v.toNat % 2 ^ w * 2 ^ (32 - w)))) ch.aud
      (ch.setAud a).audStarts

/-- What the decimator gives for a channel's input bits: with ones throughout, the positive full scale; else a function of them that
the spec gives by its response (R240). -/
def pdmOut (bits : List (BitVec 64)) : Nat :=
  256 * (if bits.all (· == BitVec.allOnes 64) then 0x7FFFFF else (Config.pdmFilter bits).toNat)

/-- PDM_SAMPLE (R238, R240, R242): the decimator's output of each channel; the first 128 after the clock starts are discarded.
(DESIGN CHOICE, log entry 77.) -/
def execPdmSample (c : ChipId) (x : PdmIn) (s : State) : Res :=
  onIsland s c fun ch =>
    let n := x.n
    let i := n - ch.rd (F.AUD_PDM_LAT)
    if !ch.audioOn || !ch.flag F.AUD_PDM_EN || decide (ch.now < instant n + 500000) || decide (n < ch.rd F.AUD_PDM_LAT) then ch
    else
      let a := (List.range 16).foldl (fun (a : Audio) k =>
        { a with pdm := Tab.put a.pdm k (((x.bits[k]?).getD 0 :: Tab.get [] a.pdm k).take 128) }) ch.aud
      if a.settle < 128 then (ch.setAud { a with settle := a.settle + 1 }).audStarts
      else
        (ch.setAud ((List.range 16).foldl (fun (a : Audio) k =>
          if (a.newest (16 + k)).any fun m => decide (i ≤ m) then a
          else a.push (16 + k) i (BitVec.ofNat 32 (pdmOut (Tab.get [] a.pdm k)))) a)).audStarts

/-! ### Beams (R248 to R250, R261) -/

/-- Saturation to 32 bits. -/
def sat32 (x : Int) : Int := satI 32 x

/-- The interpolation weights of a fractional delay. -/
def lagrange (mu : Nat) : Int × Int × Int × Int :=
  let m : Int := mu
  (roundDiv (-(m * (m - 64) * (m - 128))) 48, roundDiv ((m + 64) * (m - 64) * (m - 128)) 16,
    roundDiv (-((m + 64) * m * (m - 128))) 16, roundDiv ((m + 64) * m * (m - 64)) 48)

/-- A channel's contribution to a beam before its gain. -/
def Audio.delayed (a : Audio) (k n d : Nat) : Int :=
  let i := d / 64
  let w := lagrange (d % 64)
  let x (o : Int) : Int := let j := (n : Int) - i + o; if j < 0 then 0 else a.sample k j.toNat
  sar (w.1 * x 1 + w.2.1 * x 0 + w.2.2.1 * x (-1) + w.2.2.2 * x (-2) + 16384) 15

/-- Sample `n` of beam `j`, with the entries of a page. -/
def Chip.beamSample (ch : Chip) (b : BeamSet) (page j n : Nat) : Int :=
  let sum := (setBits 32 b.chmask).foldl (fun (s : Int) k =>
    let e := ch.load (b.base + 0x40 + 0x1000 * page + 8 * (32 * j + k)) 8
    s + sgn 16 (bits e 32 16) * ch.aud.delayed k n (bits e 0 17)) 0
  sat32 (sar (sum + 16384) 15)

/-- The samples of a block, channel-major: beams (MODE 1) or the channels of CHMASK (MODE 2). -/
def Chip.blockSamples (ch : Chip) (b : BeamSet) (page n0 : Nat) : List (List (BitVec 32)) :=
  if b.mode = 1 then
    (List.range b.nbeams).map fun j => (List.range b.block).map fun i => BitVec.ofInt 32 (ch.beamSample b page j (n0 + i))
  else (setBits 32 b.chmask).map fun k => (List.range b.block).map fun i => BitVec.ofInt 32 (ch.aud.sample k (n0 + i))

/-! ### Features (R252, R253, R262, R263) -/

/-- The feature settings of 20 bytes laid out as a feature job's (R260, R263). -/
def FeatSet.ofBytes (b : List Byte) : FeatSet :=
  ⟨fieldAt b 2 1, fieldAt b 3 1, fieldAt b 4 2, fieldAt b 6 2, fieldAt b 8 2, fieldAt b 10 1, fieldAt b 12 2, fieldAt b 14 2,
    fieldAt b 16 2, fieldAt b 18 1⟩

/-- Sample rate of a RATE code. -/
def rateHz (r : Nat) : Nat := if r = 0 then 48000 else 16000

/-- The settings lie in the ranges of R263. (DEDUCED, log entry 75.) -/
def FeatSet.ok (f : FeatSet) : Bool :=
  decide (f.rate ≤ 1) && (f.outt == 1 || f.outt == 2) && (f.nfft == 256 || f.nfft == 512 || f.nfft == 1024) &&
    decide (1 ≤ f.win) && decide (f.win ≤ f.nfft) && decide (1 ≤ f.hop) && decide (f.hop ≤ f.win) && decide (1 ≤ f.nmel) &&
    decide (f.nmel ≤ 128) && decide (f.fmin < f.fmax) && decide (2 * f.fmax ≤ rateHz f.rate) && decide (f.floor ≤ 63)

/-- Sample m at 16 kHz of a series at 48 kHz (R252). -/
def Chip.decimated (ch : Chip) (x : Int → Int) (m : Int) : Int :=
  sat32 (sar ((List.range 48).foldl (fun (s : Int) k => s + sgn 18 (ch.rd (F.AUD_DEC_COEF_H k)) * x (3 * m - k)) 16384) 15)

/-- A frame's values as bytes, from the samples beginning with the one before the frame, stored as OUTT (R253, R263). -/
def FeatSet.frame (f : FeatSet) (x : Int → Int) (start : Int) : List Byte :=
  let xs := (List.range (f.win + 1)).map fun (i : Nat) => x (start - 1 + (i : Int))
  (List.range f.nmel).flatMap fun j =>
    toLe 2 ((if f.outt = 2 then bf16 else fp16).enc
      (FV.ofInt (melValue (rateHz f.rate) f.win f.nfft f.nmel f.fmin f.fmax f.preemph f.floor xs j) (-256) false))

/-- First frame and number of frames whose last index falls in [lo, hi), frames starting at `s` (R253). -/
def FeatSet.framesIn (f : FeatSet) (s lo hi : Nat) : Nat × Nat :=
  let below (x : Nat) : Nat := if x < s + f.win then 0 else (x - s - f.win) / f.hop + 1
  (below lo, below hi - below lo)

/-- A block record's header (R262). (DESIGN CHOICE, log entry 74.) -/
def blockHeader (st : Stamp) (n0 nsamp nch rate nframes nmel outt feat firstF : Nat) : List Byte :=
  st.bytes ++ toLe 8 n0 ++ toLe 2 nsamp ++ toLe 1 nch ++ toLe 1 rate ++ toLe 2 nframes ++ toLe 1 nmel ++ toLe 1 outt ++
    toLe 2 feat ++ zeros 6 ++ toLe 8 firstF

/-- Bytes of a block record of a beam set: samples and at most `⌈block / HOP⌉` frames per featured beam. -/
def BeamSet.recBytes (b : BeamSet) : Nat :=
  let nch := if b.mode = 1 then b.nbeams else popcount 32 b.chmask
  let len := if b.feat.rate = 1 then b.block / 3 else b.block
  let fr := if b.featBeams = 0 then 0 else (len + b.feat.hop - 1) / b.feat.hop
  64 + roundUp (4 * nch * b.block) 64 + popcount 16 b.featBeams * roundUp (2 * fr * b.feat.nmel) 64

/-- A series over past samples (newest first) and a block's, whose first has index `n0`. -/
def series (past block : List (BitVec 32)) (n0 : Nat) (i : Int) : Int :=
  if i < (n0 : Int) then
    match past[((n0 : Int) - 1 - i).toNat]? with
    | some v => v.toInt
    | none => 0
  else match block[(i - n0).toNat]? with
    | some v => v.toInt
    | none => 0

/-- The record of a block: bytes, with FIRST_F free where it carries no frame. (DESIGN CHOICE, log entry 74.) -/
def Chip.blockRec (ch : Chip) (a : AudStream) (r : BlockRun) (st : Stamp) (xs : List (List (BitVec 32))) : List Byte × Chip :=
  let b := a.bset
  let f := b.feat
  let beams := setBits 16 b.featBeams
  let div := if f.rate = 1 then 3 else 1
  let fr := if beams.isEmpty then (0, 0) else f.framesIn (a.first / div) (r.first / div) ((r.first + b.block) / div)
  let d := ch.draw
  let firstF := if fr.2 = 0 then d.1 % 2 ^ 64 else fr.1
  let c := if fr.2 = 0 then d.2 else ch
  let none' := beams.isEmpty
  let samples := xs.flatMap fun l => l.flatMap fun v => toLe 4 v.toNat
  let feats := beams.flatMap fun j =>
    let x48 := series ((a.past[j]?).getD []) ((xs[j]?).getD []) r.first
    let x := if f.rate = 1 then ch.decimated x48 else x48
    let bs := (List.range fr.2).flatMap fun i => f.frame x ((a.first / div + (fr.1 + i) * f.hop : Nat) : Int)
    padTo (roundUp bs.length 64) bs
  (blockHeader st r.first b.block xs.length 0 fr.2 (if none' then 0 else f.nmel) (if none' then 0 else f.outt)
      (if none' then 0 else b.featBeams) firstF ++
    padTo (roundUp samples.length 64) samples ++ feats, c)

/-- The oldest block in progress has its last sample (R243, R248). (DEDUCED, log entry 73.) -/
def Chip.blockReady (ch : Chip) (a : AudStream) : Bool :=
  match a.cur with
  | [] => false
  | r :: _ =>
    let last := r.first + a.bset.block - (if a.bset.mode = 1 then 0 else 1)
    let on (k : Nat) : Bool := if k < 16 then ch.flag (F.AUD_LANE_EN 0) else ch.flag (F.AUD_LANE_EN 1) || ch.flag F.AUD_PDM_EN
    decide (instant (r.first + a.bset.block) ≤ ch.now) &&
      (setBits 32 a.bset.chmask).all fun k => !on k || (ch.aud.newest k).any fun m => decide (last ≤ m)

/-- The instant at which sample `i` of a channel is available (R243). -/
def Chip.availAt (ch : Chip) (k i : Nat) : Nat :=
  instant (i + 1) + (if decide (16 ≤ k) && ch.flag F.AUD_PDM_EN then 500000 else 0)

/-- ARRIVAL of a block: the instant at which its last sample became available, for a beam that of the sample after (R189, R243,
R248). -/
def Chip.blockArrival (ch : Chip) (b : BeamSet) (n0 : Nat) : Nat :=
  let last := n0 + b.block - (if b.mode = 1 then 0 else 1)
  (setBits 32 b.chmask).foldl (fun a k => max a (ch.availAt k last)) 0

/-- AUDIO_BLOCK_COMPLETE (R243, R246 to R250, R253, R262, R267): record, checkpoints 8 and 9, token. -/
def execAudioBlockComplete (c : ChipId) (stream : Fin 256) (s : State) : Res :=
  onIsland s c fun ch =>
    let ch := ch.audStarts
    match ch.audOf stream.val with
    | none => ch
    | some a =>
      match a.cur with
      | [] => ch
      | r :: rest =>
        if !ch.blockReady a || !ch.audioOn then ch
        else
          let xs := ch.blockSamples a.bset r.page r.first
          let past := (List.range xs.length).map fun j => (((xs[j]?).getD []).reverse ++ (a.past[j]?).getD []).take 4096
          let a' : AudStream := { a with cur := rest, past := past }
          match r.slot with
          | none => ch.modAud stream.val fun _ => a'
          | some i =>
            let st : Stamp := { r.stamp with
              arrival := ch.blockArrival a.bset r.first
              fflags := r.stamp.fflags ||| (bnat ch.inHold * 2 ^ ffTimeHold) ||| (bnat ch.aud.ecc * 2 ^ ffPoison) }
            let ch := ch.setAud { ch.aud with ecc := false }
            let c := match ch.stream stream.val with
              | some y => ch.setStream stream.val { y with live := y.live.map fun (l : Stamp) => if l.frame = st.frame then st else l }
              | none => ch
            if st.stale c.now then (c.modAud stream.val fun _ => a'.free i).dropFrame st 8 0 audDomain
            else
              let addr := ((a.slots[i]?).map (·.addr)).getD a.base
              let w := c.blockRec a r st xs
              let c := w.2.store addr w.1 false
              let g := ((c.stream stream.val).map (·.graph)).getD 0
              let sent := (c.slot g).st == .armed
              let c := c.modAud stream.val fun _ =>
                { a' with slots := updAt a'.slots i fun b => { b with held := some st, tokenSent := sent } }
              if sent then
                c.blockToken (mkToken (c.descOf addr) (a.bset.target % 2 ^ 14) (a.bset.target / 2 ^ 14) a.bset.context
                  (st.frame % 2 ^ 20) (2 * bnat (bit st.fflags ffPoison)))
              else c

/-- AUDIO_BLOCK_STALE (R247): a block whose age exceeds its budget returns its slot. -/
def execAudioBlockStale (c : ChipId) (stream : Fin 256) (slot : Fin 8) (s : State) : Res :=
  onIsland s c fun ch =>
    match ch.audOf stream.val with
    | none => ch
    | some a => match a.slots[slot.val]? with
      | some b => match b.held with
        | some st =>
          if st.stale ch.now && !(a.cur.any fun r => r.slot == some slot.val) then
            let c := ch.modAud stream.val fun a => a.free slot.val
            if b.tokenSent then c.pictureDone stream.val st.frame else c.dropFrame st 9 0 audDomain
          else ch
        | none => ch
      | none => ch

/-- A store to the audio release word (R247). (DEDUCED, log entry 73.) -/
def Chip.audioRelease (ch : Chip) (addr : Nat) : Chip :=
  match ch.aud.streams.findSome? fun a => (findIdx (fun (b : BlockSlot) => b.addr == addr) a.slots).map fun i => (a, i) with
  | none => ch.setFlag F.AUD_STAT_REL_SEEN true
  | some (a, i) => match (a.slots[i]?).bind (·.held) with
    | some st =>
      if a.cur.any fun r => r.slot == some i then ch
      else (ch.modAud a.stream fun a => a.free i).pictureDone a.stream st.frame
    | none => ch

/-- AUDIO_RELEASE (R247). -/
def execAudioRelease (c : ChipId) (addr : Qword) (s : State) : Res := onIsland s c fun ch => ch.audioRelease addr.toNat

/-! ### Feature jobs (R251, R252, R263) -/

/-- A job enters the feature queue, or its store stalls. -/
def Chip.featSubmit (ch : Chip) (core slot addr : Nat) : Chip :=
  let a := ch.aud
  if a.fq.length < 64 then ch.setAud { a with fq := a.fq ++ [⟨slot, addr⟩] }
  else ch.setAud { a with fstalled := a.fstalled ++ [(core, ⟨slot, addr⟩)] }

/-- FEATURE_SUBMIT (R251, R327): a provisional firing's submission waits in its pack. -/
def execFeatureSubmit (c : ChipId) (p : PackId) (n : PeId) (addr : Qword) (s : State) : Res :=
  onIsland s c fun ch =>
    ch.deviceCmd p.val n.val 2 addr fun ch f _ => ch.featSubmit (16 * p.val + n.val) f.slot addr.toNat

/-- The checks of R263 on a job's bytes against its input record. -/
def Chip.featOk (ch : Chip) (b : List Byte) : Bool :=
  let f := FeatSet.ofBytes b
  let src := fieldAt b 24 8
  let dst := fieldAt b 32 8
  let h := ch.bytes src 64
  let nsamp := fieldAt h 40 2
  let nch := fieldAt h 42 1
  let rate := fieldAt h 43 1
  fieldAt b 0 1 == 1 && f.ok && reservedZero b [(11, 1), (19, 5), (48, 16)] && decide (fieldAt b 42 2 < 1024) &&
    decide (fieldAt b 44 4 < 2 ^ 20) && ch.inShared src 64 && decide (fieldAt b 1 1 < nch) &&
    ch.inShared src (64 + 4 * nch * nsamp) && dst % 64 == 0 && ch.inShared dst 64 &&
    (if f.rate = 1 then rate == 1 || (rate == 0 && fieldAt h 32 8 % 3 == 0) else rate == 0)

/-- The token of a feature job: its value is the descriptor of DST. -/
def Chip.featToken (ch : Chip) (b : List Byte) (poison : Bool) : BitVec 128 :=
  let t := fieldAt b 40 2
  let dst := fieldAt b 32 8
  let v := if ch.inShared dst 1 then ch.descOf dst else 2 ^ 64 - 1
  mkToken v (t % 2 ^ 14) (t / 2 ^ 14) (fieldAt b 42 2) (fieldAt b 44 4) (2 * bnat poison)

/-- A feature job refused. -/
def Chip.featRefuse (ch : Chip) (b : List Byte) (known : Bool) : Chip :=
  let c := ch.count F.AUD_FJOB_REF_COUNT F.AUD_STAT_FJOB_OVF 0
  if known then c.blockToken (ch.featToken b true) else c

/-- A feature job run: its output record is written. -/
def Chip.featRun (ch : Chip) (j : FeatJob) : Chip :=
  let known := j.addr % 64 == 0 && ch.inShared j.addr 64
  let b := ch.bytes j.addr 64
  if !known then ch.featRefuse b false
  else if !ch.featOk b then ch.featRefuse b true
  else
    let f := FeatSet.ofBytes b
    let src := fieldAt b 24 8
    let dst := fieldAt b 32 8
    let h := ch.bytes src 64
    let nsamp := fieldAt h 40 2
    let same := fieldAt h 43 1 == f.rate
    let beam := fieldAt b 1 1
    let base := src + 64 + 4 * nsamp * beam
    let x0 (i : Int) : Int := if i < 0 ∨ (nsamp : Int) ≤ i then 0 else sgn 32 (ch.load (base + 4 * i.toNat) 4)
    let x := if same then x0 else ch.decimated x0
    let len := if same then nsamp else (nsamp + 2) / 3
    let nf := if len < f.win then 0 else (len - f.win) / f.hop + 1
    let fs := (List.range nf).flatMap fun i => f.frame x ((i * f.hop : Nat) : Int)
    let n0 := if same then fieldAt h 32 8 else fieldAt h 32 8 / 3
    let d := ch.draw
    let fb := if beam < 16 then 2 ^ beam else d.1 % 65536
    let rec' := blockHeader (Stamp.ofBytes h) n0 0 0 f.rate nf f.nmel f.outt fb 0 ++ padTo (roundUp fs.length 64) fs
    if !ch.inShared dst rec'.length then ch.featRefuse b true
    else
      let poison := ch.anyPoison src (64 + 4 * fieldAt h 42 1 * nsamp) || ch.anyPoison j.addr 64 || bit (fieldAt h 3 1) ffPoison
      let c := if beam < 16 then ch else d.2
      let c := c.store dst rec' false
      c.setAud { c.aud with frun := some (j.slot, c.featToken b poison) }

/-- FEATURE_JOB (R251, R252, R263): the stage takes a codelet job when no stream block waits. -/
def execFeatureJob (c : ChipId) (s : State) : Res :=
  onIsland s c fun ch =>
    let a := ch.aud
    if a.frun.isSome || !ch.audioOn || a.streams.any (fun x => ch.blockReady x) then ch
    else match a.fq with
      | [] => ch
      | j :: rest => (ch.setAud { a with fq := rest }).featRun j

/-- FEATURE_JOB_COMPLETE (R251, R263). -/
def execFeatureJobComplete (c : ChipId) (s : State) : Res :=
  onIsland s c fun ch =>
    match ch.aud.frun with
    | some (_, t) => (ch.setAud { ch.aud with frun := none }).blockToken t
    | none => ch

/-! ### Beam sets at open (R244, R245, R252, R260) -/

/-- A beam set header. -/
def BeamSet.ofBytes (base : Nat) (b : List Byte) : BeamSet :=
  ⟨base, fieldAt b 0 1, fieldAt b 2 1, fieldAt b 4 4, fieldAt b 8 2, fieldAt b 10 2, fieldAt b 16 8, fieldAt b 24 2,
    fieldAt b 26 2, FeatSet.ofBytes (zeros 2 ++ b.drop 28)⟩

/-- Every header field lies in its range (R252, R260). (DEDUCED, log entry 75.) -/
def BeamSet.ok (s : BeamSet) (b : List Byte) : Bool :=
  (s.mode == 1 || s.mode == 2) && decide (fieldAt b 1 1 < 2) &&
    (if s.mode = 1 then decide (1 ≤ s.nbeams) && decide (s.nbeams ≤ 16) else s.nbeams == 0) &&
    s.chmask != 0 && decide (48 ≤ s.block) && decide (s.block ≤ 4800) && decide (s.featBeams < 2 ^ s.nbeams) &&
    decide (s.context < 1024) && reservedZero b [(3, 1), (12, 4), (37, 1), (45, 1), (46, 18)] &&
    (s.featBeams == 0 || (s.feat.ok && (s.feat.rate == 0 || (s.block % 3 == 0 && s.start % 3 == 0))))

/-- Beam load (R248) and feature load (R252) of a set. -/
def BeamSet.beamLoad (s : BeamSet) : Nat := popcount 32 s.chmask * s.nbeams
def BeamSet.featLoad (s : BeamSet) : Rat :=
  if s.featBeams = 0 ∨ s.feat.hop = 0 then 0
  else ((rateHz s.feat.rate * s.feat.nfft * popcount 16 s.featBeams : Nat) : Rat) / ((s.feat.hop : Nat) : Rat)

/-- First index of a stream's first block (R245). -/
def BeamSet.firstBlock (s : BeamSet) (now : Nat) : Nat :=
  let n := indexAt now
  if n ≤ s.start then s.start else s.start + ((n - s.start) / s.block + 1) * s.block

/-- At wake blocks resume at the first boundary whose indexes all follow the restart plus settling (R266); blocks that Doze
entry cut off leave neither record nor drop. -/
def Chip.audWake (ch : Chip) : Chip :=
  let c := ch.aud.streams.foldl (fun (c : Chip) a =>
    let c := c.modAud a.stream fun a =>
      let a := a.cur.foldl (fun (a : AudStream) r => match r.slot with
        | some i => a.free i
        | none => a) a
      let n := indexAt ch.now + 1 + 128
      let k := if n ≤ a.first then 0 else (n - a.first + a.bset.block - 1) / a.bset.block
      let past : List (List (BitVec 32)) := []
      { a with cur := [], nextBlock := max a.nextBlock (a.first + k * a.bset.block), past := past, discont := true }
    a.cur.foldl (fun (c : Chip) r => c.frameGone a.stream r.stamp.frame) c) ch
  c.setAud { c.aud with settle := 0, pdm := [] }

/-! ### The Porch (R255 to R259, R264, R265) -/

def prcOff : Nat := 0
def prcIdle : Nat := 1
def prcPartial : Nat := 2
def prcRefract : Nat := 3

/-- The rounded mean of the microphones of MICMASK (R255). -/
def porchMono (mask : Nat) (mics : Tab (List (BitVec 150))) : BitVec 16 :=
  let on := setBits 4 mask
  let n := on.length
  if n = 0 then 0
  else
    let sum := on.foldl (fun (a : Int) k => a + (Config.porchFilter (Tab.get [] mics k)).toInt) 0
    BitVec.ofInt 16 ((sum + ((n / 2 : Nat) : Int)) / (n : Int))

/-- PORCH_SAMPLE (R255, R256): sample m, available 2 ms after its instant, from the input bits of its period.
(DESIGN CHOICE, log entry 77.) -/
def execPorchSample (c : ChipId) (x : PorchIn) (s : State) : Res :=
  onChip s c fun ch =>
    let p := ch.media.porch
    if ch.pos ≠ 0 ∨ ch.rd F.PRC_STAT_STATE = prcOff ∨ ch.now < 62500 * x.m + 2000000 ∨
        ((p.ring.head?).any fun e => decide (x.m ≤ e.1)) = true then ch
    else
      let mics := (List.range 4).foldl (fun (t : Tab (List (BitVec 150))) k =>
        Tab.put t k (((x.bits[k]?).getD 0 :: Tab.get [] t k).take 128)) p.mics
      ch.setPorch { p with
        mics := mics
        ring := ((x.m, porchMono (ch.rd F.PRC_CTL_MICMASK) mics) :: p.ring).take 49152 }

/-- The front end of the Porch on its last 400 samples: 40 values (R257). -/
def porchMel (ring : List (Nat × BitVec 16)) : List Int :=
  let xs : List Int := (ring.take 401).map fun e => e.2.toInt * 65536
  let xs := (xs ++ List.replicate (401 - xs.length) 0).reverse
  (List.range 40).map fun j => melValue 16000 400 512 40 20 7600 0 20 xs j

/-- The frame's score starts or keeps a partial match, outside REFRACT. -/
def Chip.porchRest (ch : Chip) (score : Nat) : Chip :=
  let on := decide (ch.rd F.PRC_TH_PRE_TH ≤ score)
  (ch.wr F.PRC_STAT_STATE (if on then prcPartial else prcIdle)).setFlag F.PRC_STAT_PRE_LIVE on

/-- A wake decision (R258); `dozing`: some chip is in Doze or enters it, and the Bupin hears of it (R259, R622).
(DESIGN CHOICE, log entry 78.) -/
def Chip.wakeDecide (ch : Chip) (score : Nat) (dozing : Bool) : Chip :=
  let doze := ch.pwr == pwrDoze
  let c := (ch.wr F.PRC_LAST_TIME ch.now).count F.PRC_WAKES_COUNT F.PRC_STAT_WAKES_OVF 0
  let c := c.setFlag F.PRC_STAT_WAKE_SEEN true
  let p := c.media.porch
  let c := c.setPorch { p with
    run := 0
    refract := ch.rd F.PRC_WAKE_REFRACT
    handover := p.handover ++ [⟨ch.rd F.PRC_CTL_MICMASK, doze, c.rd F.PRC_WAKES_COUNT, ch.now, score⟩]
    raised := p.raised || dozing }
  let c := if c.pwr = pwrEntering then c.wakeUp 1 else c
  if ch.rd F.PRC_WAKE_REFRACT = 0 then c.porchRest score
  else (c.wr F.PRC_STAT_STATE prcRefract).setFlag F.PRC_STAT_PRE_LIVE false

/-- PORCH_FRAME (R257, R258, R264). (DESIGN CHOICE, log entry 78.) -/
def execPorchFrame (c : ChipId) (s : State) : Res :=
  onChip s c fun ch =>
    let p := ch.media.porch
    let st := ch.rd F.PRC_STAT_STATE
    if ch.pos ≠ 0 ∨ st = prcOff then ch
    else
      let dozing := chipIds.any fun d => !(s.chip d).inReset && ((s.chip d).pwr == pwrEntering || (s.chip d).pwr == pwrDoze)
      let score := (Config.porchScore (porchMel p.ring)).toNat
      let c := ch.wr F.PRC_STAT_SCORE score
      if st = prcIdle then (c.setPorch { p with run := 0 }).porchRest score
      else if st = prcRefract then
        let c := c.setPorch { p with refract := p.refract - 1, run := 0 }
        if p.refract ≤ 1 then c.porchRest score else c
      else if score < c.rd F.PRC_TH_PRE_TH then (c.setPorch { p with run := 0 }).porchRest score
      else if score < c.rd F.PRC_TH_WAKE_TH then c.setPorch { p with run := 0 }
      else
        let n := c.rd F.PRC_WAKE_WAKE_N
        if n ≠ 0 ∧ n ≤ p.run + 1 then c.wakeDecide score dozing else c.setPorch { p with run := min 15 (p.run + 1) }

/-- The WAKE record (R490). -/
def wakeRec (w : WakeDec) (handed : Bool) (m0 th : Nat) (poison : Bool) : List Byte :=
  padTo 64 (toLe 1 0x19 ++ toLe 1 (bnat poison) ++ zeros 14 ++ toLe 2 0xFFFF ++ toLe 1 w.mics ++ toLe 1 (bnat w.doze + 2 * bnat handed) ++
    toLe 4 w.wakes ++ toLe 8 w.time ++ toLe 2 w.score ++ zeros 2 ++ toLe 8 m0 ++ zeros 4 ++ toLe 8 th)

/-- The history record's place in the audio pool: free of the streams' pools. -/
def Chip.handPlace (ch : Chip) (free : Nat) : Option Nat :=
  (chooseFit free (ch.aud.streams.map fun a => (a.base - ch.audBase, 8 * a.bytes)) (ch.rd F.AUD_CFG_POOL * MiB) 192064 64).map
    fun o => ch.audBase + o

/-- The copy of a handover (R182, R189, R255, R258, R262, R484): 48,000 samples up to T_h − 2 ms. (DEDUCED, log entry 79.) -/
def Chip.handCopy (ch : Chip) (w : WakeDec) (addr : Nat) : Chip :=
  let p := ch.media.porch
  let m0 := (ch.now - 2000000) / 62500 - 47999
  let d := ch.draw
  let e := d.2.draw
  let g := e.2.draw
  let st : Stamp := ⟨d.1 % 65536, 5, bnat p.ecc * 2 ^ ffPoison + bnat ch.inHold * 2 ^ ffTimeHold, e.1 % 2 ^ 32, 62500 * m0, g.1 % 2 ^ 32,
    62500 * (m0 + 47999) + 2000000⟩
  let i := g.2.draw
  let xs := (List.range 48000).flatMap fun j =>
    let v : BitVec 16 := match p.ring.find? fun e => e.1 == m0 + j with
      | some e => e.2
      | none => 0
    toLe 4 (v.toNat * 65536)
  let c := i.2.store addr (blockHeader st m0 48000 1 1 0 0 0 0 (i.1 % 2 ^ 64) ++ xs) p.ecc
  let c := c.blockToken (mkToken (c.descOf addr) (c.rd F.PRC_HAND_NODE) (c.rd F.PRC_HAND_PORT) (c.rd F.PRC_HAND_CONTEXT) 0
    (tokPoison p.ecc))
  let c := c.setPorch { c.media.porch with ecc := false }
  c.sysSubmit (c.rd F.PRC_FLOW_FLOW) (wakeRec w true m0 ch.now p.ecc)

/-- PORCH_HANDOVER (R258, R265, R490): in Run, to an ARMED slot; with HAND_EN 0 or an EMPTY slot the copy is skipped.
(DEDUCED, log entry 79.) -/
def execPorchHandover (c : ChipId) (s : State) : Res :=
  onChip s c fun ch =>
    let p := ch.media.porch
    match p.handover with
    | [] => ch
    | w :: rest =>
      if ch.pwr ≠ pwrRun then ch
      else
        let st := (ch.slot (ch.rd F.PRC_HAND_SLOT)).st
        let d := ch.draw
        let skip := (d.2.setPorch { p with handover := rest }).setFlag F.PRC_STAT_HAND_MISS_SEEN true
        let miss := skip.sysSubmit (ch.rd F.PRC_FLOW_FLOW) (wakeRec w false 0 0 false)
        if ch.flag F.PRC_HAND_HAND_EN = false ∨ st = .empty then miss
        else if st ≠ .armed then ch
        else match ch.handPlace d.1 with
          | some a => (d.2.setPorch { p with handover := rest }).handCopy w a
          | none => miss

end Sys2Proof.Machine
end

