-- ==== Sys2Proof/Machine/Streams.lean ====
section
/-! DEFINITION. Streams opened, closed and set (R148, R190, R195, R198, R199, R213, R244), and the reset of a ring (R154). -/

namespace Sys2Proof.Machine

open Sys2Proof

/-! ### STREAM_OPEN -/

/-- The fields of a STREAM_OPEN descriptor (R148). -/
structure OpenReq where
  stream : Nat
  kind : Nat
  source : Nat
  maxW : Nat
  maxH : Nat
  dpb : Nat
  maxBits : Nat
  fps : Nat
  budget : Nat
  graph : Nat
  flow : Nat

def OpenReq.ofBytes (b : List Byte) : OpenReq :=
  ⟨fieldAt b 8 2, fieldAt b 10 1, fieldAt b 11 1, fieldAt b 12 2, fieldAt b 14 2, fieldAt b 16 1, fieldAt b 17 1,
    fieldAt b 18 1, fieldAt b 20 4, fieldAt b 24 1, fieldAt b 26 2⟩

def maxBudget : Nat := 10000000

/-- The descriptor's fields are legal for every stream of its kind (R148, R190). -/
def OpenReq.legal (r : OpenReq) (b : List Byte) : Bool :=
  let bits := r.maxBits == 8 || r.maxBits == 10 || r.maxBits == 12
  descOk b [(19, 1), (25, 1), (28, 36)] && decide (r.stream < 256) && decide (r.graph < 16) && decide (r.flow < 256) &&
    decide (1 ≤ r.budget) && decide (r.budget ≤ maxBudget) &&
    (match r.kind with
      | 1 => decide (1 ≤ r.source) && decide (r.source ≤ 4) && r.maxW != 0 && r.maxH != 0 && r.dpb != 0 && bits && r.fps != 0 &&
          (r.source != 3 || r.dpb == 9) && (r.source != 4 || r.dpb == 1)
      | 2 => decide (r.source < 8) && r.maxW != 0 && r.maxH != 0 && r.dpb == 0 && bits && r.fps != 0
      | 3 => decide (r.source < 8) && r.maxW == 0 && r.maxH == 0 && r.dpb == 0 && r.maxBits == 0 && r.fps == 0
      | _ => false)

/-- A codec's limits (R195). -/
def OpenReq.tooLarge (r : OpenReq) : Bool :=
  let side (n : Nat) : Bool := decide (n < 16) || decide (4096 < n)
  let area := if r.source = 2 then 9437184 else 8912896
  side r.maxW || side r.maxH || (r.source != 4 && decide (area < r.maxW * r.maxH)) ||
    decide ((if r.source = 1 ∨ r.source = 3 then 10 else 8) < r.maxBits) || decide (16 < r.dpb)

/-- The stream as opened. -/
def OpenReq.open (r : OpenReq) (now unit base mib : Nat) : Stream :=
  ⟨r.kind, r.source, r.maxW, r.maxH, r.maxBits, r.fps, [(now, r.budget)], r.graph, r.flow, unit, base, mib, 0, [], [], none⟩

/-- What every accepted open does: the stream, its timecode rate, and HEAD of its flows (R321, R480). -/
def Chip.opened (ch : Chip) (r : OpenReq) (x : Stream) : Chip :=
  let c := ch.setStream r.stream x
  let fps := if r.kind = 3 then Tab.del c.media.lastFps r.stream else Tab.put c.media.lastFps r.stream r.fps
  let c : Chip := { c with media := { c.media with lastFps := fps } }
  c.flowsOpened r.stream

/-- Parts of the decode pool in use, as offsets (R199, R502). -/
def Chip.decUsed (ch : Chip) : List (Nat × Nat) :=
  (ch.media.sessions.map fun s => (s.2.base - ch.decBase, roundUp ((s.2.maxDpb + 4) * s.2.bufBytes) MiB)) ++
    (ch.media.streams.filter fun s => s.2.kind == 2).map fun s => (s.2.base - ch.decBase, s.2.mib * MiB)

/-- A place in the decode pool, and the chip with the draw that chose among the free ones. (DESIGN CHOICE, log entry 69.) -/
def Chip.decPlace (ch : Chip) (mib : Nat) : Option Nat × Chip :=
  let d := ch.draw
  ((chooseFit d.1 ch.decUsed (ch.rd F.DEC_CFG_POOL * 64 * MiB) (mib * MiB) MiB).map fun o => ch.decBase + o, d.2)

/-- Admitted load of an engine, four times pixels per second (R198). -/
def Chip.engLoad (ch : Chip) (e : Nat) : Nat :=
  (ch.media.sessions.filter fun s => s.2.engine == e).foldl (fun a s => a + s.2.load) 0

/-- Bytes of one picture buffer (R199): stride, rows, all. -/
def bufShape (maxW maxH maxBits codec : Nat) : Nat × Nat × Nat :=
  let w := roundUp maxW 64
  let rows := roundUp maxH 64
  let stride := roundUp (w * (if maxBits = 8 then 1 else 2)) 256
  let luma := stride * rows
  (stride, rows, luma + (if codec = 4 then luma else luma / 2) + rows / 16 * (w / 16) * 16)

/-- A kind-1 open after its fields are found legal (R195, R198, R199, R213): the status, the session slot, and the chip. -/
def Chip.openBits (ch : Chip) (r : OpenReq) : Nat × Nat × Chip :=
  if r.tooLarge then (stDimLimit, 0, ch)
  else
    let slot := (List.range 64).find? fun k => (ch.session k).isNone
    let e := (argMin (fun e => ch.engLoad e) (List.range 6)).getD 0
    let load := r.maxW * r.maxH * r.fps * (if r.maxBits = 8 then 4 else 5)
    let sh := bufShape r.maxW r.maxH r.maxBits r.source
    let mib := roundUp ((r.dpb + 4) * sh.2.2) MiB / MiB
    match slot, ch.decPlace mib with
    | some k, (some base, c) =>
      if ch.rd F.KEN_CFG_BANK = 0 ∨ 4 * 533333333 * ch.rd F.DEC_CFG_ADMIT < 100 * (load + ch.engLoad e) then (stBusy, 0, ch)
      else
        let x : Session := ⟨r.stream, r.maxW, r.maxH, r.dpb, r.maxBits, r.source, r.fps, e, load, base, sh.2.2, sh.1, sh.2.1,
          (0, 0), false, false, [], [], []⟩
        let c := (c.setSession k x).opened r (r.open c.now k 0 0)
        let c := ((c.wr (F.DEC_SESS_STAT_STATE k) sessResync).wr (F.DEC_SESS_STAT_ENGINE k) e).wr (F.DEC_SESS_STAT_CODEC k) r.source
        let c := ((c.wr (F.DEC_SESS_MEM_MIB k) mib).decLoads).setKennel k Kennel.reset
        let c := ((c.wr (F.KEN_WPOS_VALUE k) 0).wr (F.KEN_RPOS_VALUE k) 0).wr (F.KEN_LPOS_VALUE k) 0
        let c := ((c.setFlag (F.KEN_STAT_OPEN k) true).wr (F.KEN_STAT_STREAM k) r.stream).kSync k 0
        (stOk, k, c)
    | _, _ => (stBusy, 0, ch)

/-- A kind-2 open (R175, R190, R502). -/
def Chip.openRaw (ch : Chip) (r : OpenReq) : Nat × Chip :=
  let p := r.source % 2
  let vc := r.source / 2
  let dt := ch.rd (F.RFE_CFG_DT p vc)
  if !(dt == 0x1E || dt == 0x2A || dt == 0x2B || dt == 0x2C) then (stBadDesc, ch)
  else if 4096 < r.maxW ∨ 3072 < r.maxH ∨ r.maxBits < (if dt = 0x1E then 8 else dtBits dt) ∨
      (ch.media.streams.any fun s => s.2.kind == 2 && s.2.source == r.source) = true then (stDimLimit, ch)
  else
    let x := r.open ch.now 0 0 0
    let sh := ch.rawShape p vc x
    let mib := roundUp (4 * sh.1 * sh.2.1 * sh.2.2) MiB / MiB
    match ch.decPlace mib with
    | (some base, c) => (stOk, c.opened r { x with base := base, mib := mib })
    | (none, _) => (stBusy, ch)

/-- A kind-3 open (R244, R245, R247, R248, R252). -/
def Chip.openAudio (ch : Chip) (r : OpenReq) : Nat × Chip :=
  let base := 64 * ch.rd (F.AUD_BSET_BASE_BASE r.source)
  if base = 0 ∨ inCr base 64 = false then (stBadDesc, ch)
  else
    let b := ch.bytes base 64
    let s := BeamSet.ofBytes base b
    let open' := ch.aud.streams
    if !s.ok b then (stBadDesc, ch)
    else if open'.any (fun a => a.num == r.source) ||
        decide (512 < open'.foldl (fun n a => n + a.bset.beamLoad) s.beamLoad) ||
        decide ((6000000 : Rat) < open'.foldl (fun n a => n + a.bset.featLoad) s.featLoad) then (stBusy, ch)
    else
      let size := s.recBytes
      let d := ch.draw
      match chooseFit d.1 (open'.map fun a => (a.base - ch.audBase, 8 * a.bytes)) (ch.rd F.AUD_CFG_POOL * MiB) (8 * size) 64 with
      | none => (stBusy, ch)
      | some o =>
        let at' := ch.audBase + o
        let first := s.firstBlock ch.now
        let a : AudStream := ⟨r.stream, r.source, s, at', size, (List.range 8).map fun i => ⟨at' + i * size, none, false⟩,
          first, first, [], [], false⟩
        let c := d.2.opened r (r.open ch.now r.source 0 0)
        (stOk, c.setAud { c.aud with streams := c.aud.streams ++ [a] })

/-- STREAM_OPEN (R148, R151). -/
def execStreamOpen (c : ChipId) (n : Fin 128) (s : State) : Res :=
  onChip s c fun ch => ch.runDesc n.val opStreamOpen fun ch d =>
    let r := OpenReq.ofBytes d.bytes
    if !r.legal d.bytes then ch.completeId n.val d.idx stBadDesc r.stream
    else if (ch.stream r.stream).isSome then ch.completeId n.val d.idx stBusy r.stream
    else if r.kind = 1 then
      let o := ch.openBits r
      o.2.2.complete n.val d.idx fun d => { d with status := o.1, id := r.stream, detail := o.2.1 }
    else
      let o := if r.kind = 2 then ch.openRaw r else ch.openAudio r
      o.2.completeId n.val d.idx o.1 r.stream

/-! ### STREAM_CLOSE (R148, R191, R194, R213) -/

/-- Unread bytes of a Kennel at or beyond offset `o` are discarded. -/
def Chip.kCut (ch : Chip) (k o : Nat) : Chip :=
  let c := ch.kDo k fun c =>
    let x := c.kennel k
    let w := min (c.kW k) (max o (c.kR k))
    let recs := (x.recs.filter fun b => decide (b.start < w)).map fun (b : BufRec) => { b with len := min b.len (w - b.start) }
    (c.setKennel k { x with recs := recs.filter fun b => decide (c.kL k < b.start + b.len) }).wr (F.KEN_WPOS_VALUE k) w
  (c.setFlag (F.KEN_STAT_FULL_LIVE k) false).kFill k

/-- A kind-1 stream closes: unread bytes go, the access unit in progress finishes before the session drains, pictures that await
output are output (R213, R215). -/
def Chip.closeBits (ch : Chip) (k : Nat) : Chip :=
  match (ch.onEngine k).bind ch.engine with
  | some a => ch.kCut k (a.start + a.len)
  | none =>
    let c := ch.wr (F.DEC_SESS_STAT_STATE k) sessDraining
    ((c.kDo k fun c => (c.wr (F.KEN_RPOS_VALUE k) (c.kW k)).kRelease k (c.kW k)).kFill k).flushDpb k

/-- A kind-2 stream closes: a partial frame is discarded without a record. -/
def Chip.closeRaw (ch : Chip) (source : Nat) : Chip :=
  let p := source % 2
  let vc := source / 2
  match ch.csiFrame p vc with
  | some f => if f.gone then ch.setCsi p vc none else ch.csiDiscard p vc f false
  | none => ch

/-- STREAM_CLOSE (R148, R191, R213): it completes when the last frame of the stream is released or dropped.
(DEDUCED, log entries 61, 151.) (DESIGN CHOICE, log entry 150.) -/
def execStreamClose (c : ChipId) (n : Fin 128) (s : State) : Res :=
  onChip s c fun ch => ch.runDesc n.val opStreamClose fun ch d =>
    let i := fieldAt d.bytes 8 2
    if !descOk d.bytes [(10, 54)] then ch.completeId n.val d.idx stBadDesc i
    else match ch.stream i with
    | none => ch.completeId n.val d.idx stBadStream i
    | some x =>
      if x.closing ≠ none then ch.completeId n.val d.idx stBadStream i
      else
        let c := if x.kind = 2 then ch.closeRaw x.source else ch
        let x := (c.stream i).getD x
        let x : Stream := { x with
          live := x.live.filter fun y => !x.done.contains y.frame
          done := []
          closing := some (n.val, d.idx) }
        let c := c.setStream i x
        if x.kind = 1 then c.closeBits x.unit
        else if x.live = [] then (c.closeNow i).gbkFreed
        else c

/-- STREAM_SET (R148, R190): `Chip.budgetSet` puts the budget in place when the completion is written.
(DESIGN CHOICE, log entry 150.) -/
def execStreamSet (c : ChipId) (n : Fin 128) (s : State) : Res :=
  onChip s c fun ch => ch.runDesc n.val opStreamSet fun ch d =>
    let i := fieldAt d.bytes 8 2
    let b := fieldAt d.bytes 12 4
    if !descOk d.bytes [(10, 2), (16, 48)] || b == 0 || decide (maxBudget < b) then ch.completeId n.val d.idx stBadDesc i
    else match ch.stream i with
    | none => ch.completeId n.val d.idx stBadStream i
    | some _ => ch.completeId n.val d.idx stOk i

/-! ### RING_RESET (R154, R157, R191) -/

/-- The ring number of a reference that a reset dropped. -/
def noRing : Nat := 128

/-- A reference to a descriptor of ring `n` names none. -/
def dropRef (n : Nat) (r : Option (Nat × Nat)) : Option (Nat × Nat) :=
  r.map fun p => if p.1 = n then (noRing, 0) else p

/-- References to the ring's descriptors are forgotten: what they started goes on, but no completion follows; an image read
ends, and its slot is EMPTY. -/
def Chip.forgetRing (ch : Chip) (n : Nat) : Chip :=
  let c : Chip := { ch with
    pw := dropRef n ch.pw
    media := { ch.media with streams := ch.media.streams.map fun e => (e.1, { e.2 with closing := dropRef n e.2.closing }) } }
  (List.range 16).foldl (fun (c : Chip) k =>
    let x := c.slot k
    if x.load.any (fun p => p.1 == n) && x.st == .loading then
      ((c.setSlot k { x with st := .empty, load := none }).wr (F.DFX_SLOT_STAT_STATE k) 0).dropReads (.image k)
    else
      c.setSlot k { x with load := dropRef n x.load, unload := dropRef n x.unload }) c

/-- RESET written 1. -/
def Chip.ringReset (ch : Chip) (n : Nat) : Chip :=
  let ks := (ch.media.kennels.filter fun e => e.2.fill.any fun f => f.ring == n).map (·.1)
  let c := ks.foldl (fun (c : Chip) k => c.kDropFill k) ch
  let c := ((c.dropReads (.descriptor n)).dropReads (.critical n)).dropReads (.job n)
  let c := (c.forgetRing n).setRing n Ring.reset
  let c := ((c.wr (F.RNG_STATE_STATE n) ringDisabled).setFlag (F.RNG_CTL_ENABLE n) false).wr (F.RNG_SQ_CONS_INDEX n) 0
  (c.wr (F.RNG_CQ_PROD_INDEX n) 0).lnUpdate

/-- RING_RESET (R154). (DEDUCED, log entry 55.) -/
def execRingReset (c : ChipId) (n : Fin 128) (s : State) : Res :=
  onChip s c fun ch => ch.whenPowered (F.RNG_CTL_ENABLE n.val).reg 2 fun ch => ch.ringReset n.val

end Sys2Proof.Machine
end

