-- ==== Sys2Proof/Machine/Adapt.lean ====
section
/-! DEFINITION. Adaptation jobs (spec/19_adaptation.md): job blocks, the generator, shuffle and batches, augmentation, and
delivery against credit. -/

namespace Sys2Proof.Machine

open Sys2Proof

/-! ### Philox-4x32-10 (R569, R570) -/

/-- One round on counter and key. -/
def philoxRound (c : Nat × Nat × Nat × Nat) (k0 k1 : Nat) : Nat × Nat × Nat × Nat :=
  let p := 0xD2511F53 * c.1
  let q := 0xCD9E8D57 * c.2.2.1
  ((q / 2 ^ 32) ^^^ c.2.1 ^^^ k0, q % 2 ^ 32, (p / 2 ^ 32) ^^^ c.2.2.2 ^^^ k1, p % 2 ^ 32)

/-- `n` rounds; the key moves on before every round but the first. -/
def philoxRounds : Nat → Nat × Nat × Nat × Nat → Nat → Nat → Nat × Nat × Nat × Nat
  | 0, c, _, _ => c
  | n + 1, c, k0, k1 => philoxRounds n (philoxRound c k0 k1) ((k0 + 0x9E3779B9) % 2 ^ 32) ((k1 + 0xBB67AE85) % 2 ^ 32)

/-- Word `w` of Philox with a 64-bit key and a counter. -/
def philox (seed : Nat) (c : Nat × Nat × Nat × Nat) (w : Nat) : Nat :=
  let r := philoxRounds 10 c (seed % 2 ^ 32) (seed / 2 ^ 32 % 2 ^ 32)
  match w with
  | 0 => r.1
  | 1 => r.2.1
  | 2 => r.2.2.1
  | _ => r.2.2.2

/-- Draw `k` of operation `o` for sample `s` in epoch `e`. -/
def adpDraw (seed o s e k : Nat) : Nat := philox seed (s, o * 2 ^ 24 + k / 4, e, 0) (k % 4)

/-- A draw as an integer below `n`. -/
def drawInt (x n : Nat) : Nat := x * n / 2 ^ 32

/-! ### Shuffle (R571) -/

/-- Bit length of a number below 2 ^ 32. -/
def bitLen (x : Nat) : Nat := ((List.range 33).find? fun k => decide (x < 2 ^ k)).getD 33

/-- One evaluation of the network of width `2h`. -/
def feistel (seed e h x : Nat) : Nat :=
  let r := (List.range 4).foldl (fun (a : Nat × Nat) i =>
    (a.2, a.1 ^^^ (philox seed (a.2, i, e, 1) 0 % 2 ^ h))) (x / 2 ^ h, x % 2 ^ h)
  r.1 * 2 ^ h + r.2

/-- Cycle walking down to an index below `n`. -/
def cycleWalk (seed e h n : Nat) : Nat → Nat → Nat
  | 0, x => x
  | fuel + 1, x => let y := feistel seed e h x; if y < n then y else cycleWalk seed e h n fuel y

/-- Position `i` of epoch `e` in an order of `n` samples. -/
def permute (seed e n i : Nat) : Nat :=
  let h := (max 2 (bitLen (n - 1)) + 1) / 2
  cycleWalk seed e h n (2 ^ (2 * h)) i

/-! ### The job block (R583, R584) -/

structure AdpReq where
  kind : Nat
  flags : Nat
  chips : Nat
  nops : Nat
  nbuck : Nat
  nslot : Nat
  seed : Nat
  nsamp : Nat
  epochs : Nat
  decim : Nat
  epoch0 : Nat
  batch0 : Nat
  tab : Nat
  noise : Nat
  nnoise : Nat
  slotBytes : Nat
  area : Nat
  credit : Nat
  target : Nat
  context : Nat
  win : Nat
  hop : Nat
  bound : List Nat
  bsz : List Nat
  ops : List (Nat × Nat × Nat × Nat)

def AdpReq.ofBytes (b : List Byte) : AdpReq :=
  ⟨fieldAt b 2 1, fieldAt b 3 1, fieldAt b 4 1, fieldAt b 5 1, fieldAt b 6 1, fieldAt b 7 1, fieldAt b 8 8, fieldAt b 16 4,
    fieldAt b 20 2, fieldAt b 22 1, fieldAt b 24 4, fieldAt b 28 4, fieldAt b 32 8, fieldAt b 40 8, fieldAt b 48 2,
    fieldAt b 52 4, fieldAt b 56 8, fieldAt b 64 8, fieldAt b 72 2, fieldAt b 74 2, fieldAt b 76 2, fieldAt b 78 2,
    (List.range 8).map fun i => fieldAt b (80 + 4 * i) 4, (List.range 8).map fun i => fieldAt b (112 + 2 * i) 2,
    (List.range (min 8 (fieldAt b 5 1))).map fun i =>
      (fieldAt b (128 + 8 * i) 1, fieldAt b (130 + 8 * i) 2, fieldAt b (132 + 8 * i) 2, fieldAt b (134 + 8 * i) 2)⟩

/-- A descriptor read as one of this chip (R567): its flat address in DRAM or the Common Room, where `n` bytes fit. -/
def Chip.adpAddr (ch : Chip) (d n : Nat) : Option Nat :=
  if 2 ≤ bits d 48 2 then none else ch.descAddr none (putBits d 50 2 ch.pos.val) n

/-- Chips of the set, ascending. -/
def AdpReq.chipList (r : AdpReq) : List Nat := setBits 4 r.chips

/-- Largest batch of bucket `b` (R586). -/
def AdpReq.batchMax (r : AdpReq) (b : Nat) : Nat :=
  let n := (r.bsz[b]?).getD 0
  64 + 192 * n + (if r.kind = 1 then n * roundUp (4 * (r.bound[b]?).getD 0) 64 else 0)

/-- An operation entry is legal (R584). -/
def AdpReq.opOk (r : AdpReq) (o : Nat × Nat × Nat × Nat) : Bool :=
  match o with
  | (1, a, b, c) => decide (a ≤ b) && c == 0
  | (2, _, b, c) => b == 0 && c == 0
  | (3, a, b, c) => decide (a ≤ b) && c == 0 && r.nnoise != 0
  | (4, a, _, c) => decide (a ≤ 16) && c == 0
  | (5, a, _, c) => decide (a ≤ 16) && decide (1 ≤ c) && decide (c ≤ 128)
  | _ => false

/-- No time-domain operation after a mask, and at most one mask of each kind (R577, R584). -/
def opOrder (os : List (Nat × Nat × Nat × Nat)) : Bool :=
  let cs := os.map (·.1)
  decide ((cs.filter (· == 4)).length ≤ 1) && decide ((cs.filter (· == 5)).length ≤ 1) &&
    (cs.dropWhile fun c => decide (c < 4)).all fun c => decide (4 ≤ c)

/-- Every check of "Job block" for a START (R567, R583, R584, R586). (DEDUCED, log entry 119.) -/
def Chip.startOk (ch : Chip) (b : List Byte) : Bool :=
  let r := AdpReq.ofBytes b
  let below := List.range r.nbuck
  let masks := r.ops.any fun o => o.1 == 4
  fieldAt b 0 1 == 1 && decide (fieldAt b 1 1 < 4) && (r.kind == 1 || r.kind == 2) && decide (r.flags < 4) &&
    decide (r.chips < 16) && bit r.chips ch.pos.val && decide (r.nops ≤ 8) && decide (1 ≤ r.nbuck) && decide (r.nbuck ≤ 8) &&
    decide (1 ≤ r.nslot) && decide (r.nslot ≤ 16) && decide (1 ≤ r.nsamp) && decide (r.nsamp ≤ 16777216) &&
    decide (1 ≤ r.epochs) && decide (r.epoch0 + r.epochs ≤ 2 ^ 32) && (r.decim == 1 || r.decim == 3) &&
    (ch.adpAddr r.tab (32 * r.nsamp)).isSome && r.tab % 64 == 0 &&
    (ch.adpAddr r.noise (16 * r.nnoise)).isSome && r.noise % 64 == 0 && decide (r.nnoise ≤ 256) &&
    r.slotBytes % 64 == 0 && r.slotBytes != 0 && decide (r.slotBytes ≤ 256 * MiB) &&
    (below.all fun i => decide (r.batchMax i ≤ r.slotBytes)) &&
    (ch.adpAddr r.area (r.nslot * r.slotBytes)).isSome && r.area % 64 == 0 && bits r.area 48 2 == 0 &&
    (ch.adpAddr r.credit 8).isSome && r.credit % 8 == 0 && bits r.credit 48 2 == 1 && decide (r.context < 1024) &&
    (if masks then decide (1 ≤ r.win) && decide (r.win ≤ 1024) && decide (1 ≤ r.hop) && decide (r.hop ≤ r.win)
      else r.win == 0 && r.hop == 0) &&
    (List.range 8).all (fun i =>
      let bd := (r.bound[i]?).getD 0
      let bz := (r.bsz[i]?).getD 0
      if i < r.nbuck then bd != 0 && (i == 0 || decide ((r.bound[i - 1]?).getD 0 < bd)) && decide (1 ≤ bz) && decide (bz ≤ 1024)
      else bd == 0 && bz == 0) &&
    (r.kind == 1 || r.nops == 0) && (r.ops.all fun o => r.opOk o) && opOrder r.ops &&
    (List.range 8).all (fun i => if i < r.nops then fieldAt b (129 + 8 * i) 1 == 0 else fieldAt b (128 + 8 * i) 8 == 0) &&
    reservedZero b [(23, 1), (50, 2)]

/-! ### Job states (R565, R568, R587) -/

def adpFree : Nat := 0
def adpQueued : Nat := 1
def adpRunning : Nat := 2
def adpWaiting : Nat := 3
def adpDone : Nat := 4
def adpCancelled : Nat := 5
def adpAborted : Nat := 6

def Chip.adpState (ch : Chip) (j : Nat) : Nat := ch.rd (F.ADP_JOB_STATE j)
def Chip.adpLive (ch : Chip) (j : Nat) : Bool := decide (1 ≤ ch.adpState j) && decide (ch.adpState j ≤ 3)

/-- The feeder may run: in Run, with DUTY, outside the pause (R581, R587). -/
def Chip.feederOn (ch : Chip) : Bool := ch.pwr == pwrRun && ch.rd F.ADP_CFG_DUTY != 0 && decide (ch.adp.hold ≤ ch.now)

/-- RUN_LIVE and HOLD_LIVE follow the jobs and the pause. -/
def Chip.adpSync (ch : Chip) : Chip :=
  let c := ch.setFlag F.ADP_STAT_HOLD_LIVE (decide (ch.now < ch.adp.hold))
  c.setFlag F.ADP_STAT_RUN_LIVE (c.feederOn && (List.range 4).any fun j => c.adpState j == adpRunning)

/-- A job leaves the live states: END_TIME is latched where it was RUNNING or WAITING. -/
def Chip.adpEnd (ch : Chip) (j st : Nat) : Chip :=
  let ran := decide (2 ≤ ch.adpState j)
  let c := (ch.wr (F.ADP_JOB_STATE j) st).setFlag F.ADP_STAT_LINK_LIVE false
  let c := if ran then c.wr (F.ADP_END_TIME j) ch.now else c
  let drop (e : Nat × AdpJob) : Nat × AdpJob := if e.1 = j then (e.1, { e.2 with built := none }) else e
  ({ c with adp := { c.adp with jobs := c.adp.jobs.map drop } }).adpSync

/-- Jobs of a slot that leaves ARMED end ABORTED. -/
def Chip.adpAbort (ch : Chip) (slot : Nat) : Chip :=
  ch.adp.jobs.foldl (fun (c : Chip) e =>
    if c.adpLive e.1 && c.ctxSlot (AdpReq.ofBytes e.2.blk).context == some slot then c.adpEnd e.1 adpAborted else c) ch

/-- What JOB_SUBMIT checks before its block is read (R148, R157, R583): a completion status, or the block's address and length. -/
def jobHead (d : Desc) : Nat ⊕ (Nat × Nat) :=
  let len := fieldAt d.bytes 16 4
  if !descOk d.bytes [(20, 44)] || decide (65536 < len) then .inl stBadDesc
  else if len = 0 then .inl stEmpty
  else if len ≠ 192 ∧ len ≠ 64 then .inl stBadDesc
  else .inr (fieldAt d.bytes 8 8, len)

/-- JOB_SUBMIT started, its block read and answered: `f` takes a block that arrived whole. -/
def Chip.jobSubmit (ch : Chip) (n : Nat) (res : ReadResult) (mine : List Byte → Bool) (f : Chip → Desc → List Byte → Nat × Chip) :
    Chip :=
  match ch.nextDesc n opJobSubmit with
  | none => ch
  | some d =>
    match jobHead d with
    | .inl st => if mine [] then (ch.startDesc n d.idx).completeSt n d.idx st else ch
    | .inr (addr, len) =>
      let b := padTo len res.data
      if !ch.fetches || (res.fail == .none && !mine b) then ch
      else
        let c := ((ch.startDesc n d.idx).hostRead (.job n) addr len).dropReads (.job n)
        let c := c.readAer res
        let r := if res.fail = .none then f c d b else (stHostReadErr, c)
        let got := if res.fail = .none then len else min len res.data.length
        r.2.complete n d.idx fun d => { d with status := r.1, nbytes := got, poison := res.ep }

/-- ADAPT_START (R565, R567, R583): every block but a CANCEL. -/
def execAdaptStart (c : ChipId) (n : Fin 128) (res : ReadResult) (s : State) : Res :=
  onIsland s c fun ch => ch.jobSubmit n.val res (fun b => fieldAt b 0 1 != 2) fun ch _ b =>
    let j := fieldAt b 1 1
    if b.length ≠ 192 ∨ ch.startOk b = false then (stBadDesc, ch)
    else if ch.adpLive j then (stBusy, ch)
    else
      let r := AdpReq.ofBytes b
      let w : Walk := ⟨r.epoch0, 0, 0, 0, List.replicate r.nbuck [], 0⟩
      let job : AdpJob := ⟨b, w, none⟩
      let c : Chip := { ch with adp := { ch.adp with jobs := Tab.put ch.adp.jobs j job } }
      let c := ((c.wr (F.ADP_JOB_STATE j) adpQueued).wr (F.ADP_JOB_SLOT j) ((ch.ctxSlot r.context).getD 0)).wr (F.ADP_JOB_CHIPS j)
        r.chips
      let c := ((c.wr (F.ADP_EPOCH_VALUE j) 0).wr (F.ADP_INDEX_VALUE j) 0).wr (F.ADP_SERIAL_VALUE j) 0
      (stOk, (c.wr (F.ADP_DELIV_VALUE j) 0).wr (F.ADP_END_TIME j) 0)

/-- ADAPT_CANCEL (R568, R583). -/
def execAdaptCancel (c : ChipId) (n : Fin 128) (res : ReadResult) (s : State) : Res :=
  onIsland s c fun ch => ch.jobSubmit n.val res (fun b => fieldAt b 0 1 == 2) fun ch _ b =>
    let j := fieldAt b 1 1
    if b.length ≠ 64 ∨ 4 ≤ j ∨ fieldAt b 2 62 ≠ 0 ∨ ch.adpLive j = false then (stBadDesc, ch)
    else (stOk, ch.adpEnd j adpCancelled)

/-! ### Samples and the walk (R572 to R574, R585) -/

/-- The check of a DATA descriptor: a chip of CHIPS, SPACE 0 or 1, 4-byte aligned, inside the memory it names.
(DEDUCED, log entry 119.) -/
def Chip.dataOk (ch : Chip) (r : AdpReq) (d bytes : Nat) : Bool :=
  decide (bits d 48 2 < 2) && bit r.chips (bits d 50 2) && d % 4 == 0 &&
    decide (bits d 0 48 + bytes ≤ (if bits d 48 2 = 0 then ch.usable else crSize))

/-- Address of the table entry of a sample, and its bytes. -/
def Chip.adpEntry (ch : Chip) (r : AdpReq) (s : Nat) : Nat × List Byte :=
  let a := ((ch.adpAddr r.tab (32 * r.nsamp)).getD 0) + 32 * s
  (a, ch.bytes a 32)

/-- The bucket of a sample; none where it is excluded (R572). The flag says that its entry reads as poison. -/
def Chip.bucketOf (ch : Chip) (r : AdpReq) (s : Nat) : Option Nat × Bool :=
  let e := ch.adpEntry r s
  let len := fieldAt e.2 8 4
  let key := if r.kind = 1 then len else fieldAt e.2 24 4
  let bad := r.kind == 1 && (decide (2880000 < len) || !ch.dataOk r (fieldAt e.2 0 8) (4 * len))
  if ch.anyPoison e.1 32 then (none, true)
  else if key = 0 ∨ bad = true then (none, false)
  else ((List.range r.nbuck).find? fun b => decide (key ≤ (r.bound[b]?).getD 0), false)

/-- What a walk has met: the next delivered batch, samples excluded and dropped, and a poisoned entry. -/
structure WalkOut where
  walk : Walk
  batch : Option Built
  excl : Nat
  dropped : Nat
  poisoned : Bool

/-- A batch formed: it takes the next INDEX, and the next SERIAL where it is delivered. -/
def AdpReq.form (r : AdpReq) (o : WalkOut) (b : Nat) (xs : List Nat) (part : Bool) : WalkOut :=
  let w := o.walk
  let w' : Walk := { w with index := w.index + 1, opens := updAt w.opens b fun _ => [] }
  if w.epoch = r.epoch0 ∧ w.index < r.batch0 then { o with walk := w' }
  else { o with
    walk := { w' with serial := w.serial + 1 }
    batch := some ⟨w.epoch, w.index, b, w.serial, xs, part, false⟩ }

/-- One step of the walk (R573). (DEDUCED, log entry 120.) -/
def Chip.walkStep (ch : Chip) (r : AdpReq) (o : WalkOut) : WalkOut :=
  let w := o.walk
  if w.pos < r.nsamp then
    let s := if bit r.flags 0 then permute r.seed w.epoch r.nsamp w.pos else w.pos
    let k := ch.bucketOf r s
    match k.1 with
    | none => { o with walk := { w with pos := w.pos + 1 }, excl := o.excl + 1, poisoned := o.poisoned || k.2 }
    | some b =>
      let xs := (w.opens[b]?).getD [] ++ [s]
      let o := { o with walk := { w with pos := w.pos + 1, opens := updAt w.opens b fun _ => xs } }
      if (r.bsz[b]?).getD 0 ≤ xs.length then r.form o b xs false else o
  else if w.bucket < r.nbuck then
    let xs := (w.opens[w.bucket]?).getD []
    let o := { o with walk := { w with bucket := w.bucket + 1 } }
    if xs.isEmpty then o
    else if bit r.flags 1 then
      { o with walk := { o.walk with opens := updAt o.walk.opens w.bucket fun _ => [] }, dropped := o.dropped + xs.length }
    else r.form o w.bucket xs true
  else { o with walk := ⟨w.epoch + 1, 0, 0, w.serial, List.replicate r.nbuck [], 0⟩ }

/-- The walk goes on to the next delivered batch, or to its end. (DEDUCED, log entry 120.) -/
def Chip.walkTo (ch : Chip) (r : AdpReq) : Nat → WalkOut → WalkOut
  | 0, o => o
  | fuel + 1, o =>
    if o.batch.isSome ∨ r.epoch0 + r.epochs ≤ o.walk.epoch then o else ch.walkTo r fuel (ch.walkStep r o)

/-- Steps that a whole job's walk takes at most. -/
def AdpReq.steps (r : AdpReq) : Nat := r.epochs * (r.nsamp + r.nbuck + 1) + 1

/-- The next batch that this chip delivers, marked as the job's last where no other follows (R574, R575). -/
def Chip.nextOwn (ch : Chip) (r : AdpReq) : Nat → WalkOut → WalkOut
  | 0, o => o
  | fuel + 1, o =>
    let o' := ch.walkTo r r.steps { o with batch := none }
    match o'.batch with
    | none => o'
    | some b =>
      if (r.chipList)[b.serial % r.chipList.length]? = some ch.pos.val then
        let more := (ch.walkTo r r.steps ⟨o'.walk, none, 0, 0, false⟩).batch
        { o' with batch := some { b with final := more.isNone } }
      else ch.nextOwn r fuel o'

/-- The feeder forms this chip's next batch; without one the job is DONE. -/
def Chip.adpBuild (ch : Chip) (j : Nat) : Chip :=
  match Tab.find ch.adp.jobs j with
  | none => ch
  | some job =>
    let r := AdpReq.ofBytes job.blk
    let o := ch.nextOwn r r.steps ⟨job.walk, none, 0, 0, false⟩
    let empty := decide (o.batch.isNone) && o.walk.serial == 0 && r.chipList.head? == some ch.pos.val &&
      ch.rd (F.ADP_DELIV_VALUE j) == 0
    let d := ch.draw
    let built : Option Built := if empty then some ⟨d.1 % 2 ^ 32, d.1 / 2 ^ 32 % 2 ^ 32, d.1 / 2 ^ 64 % 8, 0, [], false, true⟩ else o.batch
    let c := if empty then d.2 else ch
    let job : AdpJob := { job with walk := o.walk, built := built }
    let c : Chip := { c with adp := { c.adp with jobs := Tab.put c.adp.jobs j job } }
    let c := (c.countN (F.ADP_EXCL_COUNT j) F.ADP_STAT_OVF 0 o.excl).countN (F.ADP_DROPPED_COUNT j) F.ADP_STAT_OVF 1 o.dropped
    let c := if o.poisoned then c.setFlag F.ADP_STAT_TPOISON_SEEN true else c
    let c := ((c.wr (F.ADP_EPOCH_VALUE j) (min o.walk.epoch (r.epoch0 + r.epochs - 1))).wr (F.ADP_INDEX_VALUE j) o.walk.index).wr
      (F.ADP_SERIAL_VALUE j) o.walk.serial
    if built.isNone then c.adpEnd j adpDone else c.adpSync

/-- ADAPT_JOB_RUN (R566, R585, R587). -/
def execAdaptJobRun (c : ChipId) (s : State) : Res :=
  onIsland s c fun ch =>
    let busy := (List.range 4).any fun j => ch.adpState j == adpRunning || ch.adpState j == adpWaiting
    match (List.range 4).find? fun j => ch.adpState j == adpQueued with
    | none => ch
    | some j => match Tab.find ch.adp.jobs j with
      | none => ch
      | some job =>
        let r := AdpReq.ofBytes job.blk
        match ch.ctxSlot r.context with
        | none => ch
        | some k =>
          if busy || (ch.slot k).st != .armed || ch.pwr != pwrRun then ch
          else
            let na := (ch.adpAddr r.noise (16 * r.nnoise)).getD 0
            let bad := (List.range r.nnoise).any fun i =>
              let e := ch.bytes (na + 16 * i) 16
              let n := fieldAt e 8 4
              !(decide (1 ≤ n) && decide (n ≤ 2880000) && fieldAt e 12 4 == 0 && ch.dataOk r (fieldAt e 0 8) (4 * n))
            let c := (ch.wr (F.ADP_JOB_STATE j) adpRunning).wr (F.ADP_JOB_SLOT j) k
            if bad then c.adpEnd j adpAborted
            else (c.store ((c.adpAddr r.credit 8).getD 0) (zeros 8) false).adpBuild j

/-! ### Augmentation (R577, R578) -/

/-- Data at a descriptor on any chip: samples, and whether the read returned poison. -/
def State.adpData (s : State) (d n : Nat) : List Int × Bool :=
  let ch := s.chip (Fin.ofNat 4 (bits d 50 2))
  let a := (if bits d 48 2 = 0 then dramBase else crBase) + bits d 0 48
  ((List.range n).map fun i => sgn 32 (ch.load (a + 4 * i) 4), ch.anyPoison a (4 * n))

/-- A time-domain operation on a waveform; `x k` is its k-th draw, `noise i` the clip i. -/
def timeOp (o : Nat × Nat × Nat × Nat) (x : Nat → Nat) (nnoise : Nat) (noise : Nat → List Int × Bool) (w : List Int × Bool) :
    List Int × Bool :=
  match o with
  | (1, a, b, _) =>
    let g : Int := (a + drawInt (x 0) (b - a + 1) : Nat)
    (w.1.map fun v => sat32 (sar (v * g + 16384) 15), w.2)
  | (2, a, _, _) =>
    let d : Int := (drawInt (x 0) (2 * a + 1) : Nat) - (a : Int)
    ((List.range w.1.length).map fun (i : Nat) =>
      let j := (i : Int) - d
      if 0 ≤ j ∧ j < (w.1.length : Int) then (w.1[j.toNat]?).getD 0 else 0, w.2)
  | (3, a, b, _) =>
    let z := noise (drawInt (x 0) nnoise)
    let n := z.1.length
    let off := drawInt (x 1) n
    let g : Int := (a + drawInt (x 2) (b - a + 1) : Nat)
    (w.1.zipIdx.map fun v => sat32 (v.1 + sar ((z.1[(off + v.2) % n]?).getD 0 * g + 16384) 15), w.2 || z.2)
  | _ => w

/-- The masks of one operation over `f` frames or bins: (start, width). -/
def masksOf (a b f : Nat) (x : Nat → Nat) : List (Nat × Nat) :=
  (List.range a).map fun k =>
    let w := min (drawInt (x (2 * k)) (b + 1)) f
    if f = 0 then (0, 0) else (drawInt (x (2 * k + 1)) (f - w + 1), w)

/-- The frame count of a sample (R578); with no TMASK listed HOP is 0 and the spec states none. (DESIGN CHOICE, log entry 121.) -/
def AdpReq.frames (r : AdpReq) (len free : Nat) : Nat :=
  if r.hop = 0 then free else if len / r.decim < r.win then 0 else (len / r.decim - r.win) / r.hop + 1

/-- What a sample gives a batch: its entry without WAVE and its waveform, with its poison. (DESIGN CHOICE, log entry 121.) -/
def State.adpSample (s : State) (ch : Chip) (r : AdpReq) (e : Nat) (smp : Nat) : List Byte × List Byte × Bool :=
  let t := (ch.adpEntry r smp).2
  let len := fieldAt t 8 4
  let na := (ch.adpAddr r.noise (16 * r.nnoise)).getD 0
  let noise (i : Nat) : List Int × Bool :=
    let z := ch.bytes (na + 16 * i) 16
    s.adpData (fieldAt z 0 8) (fieldAt z 8 4)
  let w0 := if r.kind = 1 then s.adpData (fieldAt t 0 8) len else ([], false)
  let w := r.ops.zipIdx.foldl (fun (w : List Int × Bool) o =>
    timeOp o.1 (fun k => adpDraw r.seed o.2 smp e k) r.nnoise noise w) w0
  let f := r.frames len (Config.number ch.pos.val (ch.draws + smp) % 2 ^ 32)
  let tm := r.ops.zipIdx.flatMap fun o =>
    if o.1.1 = 4 then masksOf o.1.2.1 o.1.2.2.1 f (fun k => adpDraw r.seed o.2 smp e k) else []
  let fm := r.ops.zipIdx.flatMap fun o =>
    if o.1.1 = 5 then masksOf o.1.2.1 o.1.2.2.1 o.1.2.2.2 (fun k => adpDraw r.seed o.2 smp e k) else []
  let mb (xs : List (Nat × Nat)) : List Byte := padTo 64 (xs.flatMap fun m => toLe 2 m.1 ++ toLe 2 m.2)
  (toLe 4 smp ++ toLe 4 len ++ (t.drop 16).take 14 ++ toLe 1 (bnat w.2) ++ toLe 1 tm.length ++ toLe 1 fm.length ++ zeros 3 ++
      toLe 4 f ++ zeros 8 ++ zeros 24 ++ mb tm ++ mb fm,
    w.1.flatMap fun v => toLe 4 (usgn 32 v), w.2)

/-! ### Delivery (R575, R576, R579, R580, R586) -/

/-- A DATA descriptor names a chip without a route. -/
def Chip.farData (ch : Chip) (d : Nat) : Bool := bits d 50 2 != ch.pos.val && ch.routeCode (bits d 50 2) == 3

/-- Samples of a batch, or noise clips that it draws, that lie on a chip without a route (R575). -/
def Chip.adpFar (ch : Chip) (r : AdpReq) (b : Built) : Bool :=
  let na := (ch.adpAddr r.noise (16 * r.nnoise)).getD 0
  r.kind == 1 && b.samples.any fun s =>
    ch.farData (fieldAt (ch.adpEntry r s).2 0 8) ||
      r.ops.zipIdx.any fun o => o.1.1 == 3 &&
        ch.farData (fieldAt (ch.bytes (na + 16 * drawInt (adpDraw r.seed o.2 s b.epoch 0) r.nnoise) 8) 0 8)

/-- The batch written into its slot, and its token. -/
def State.adpWrite (s : State) (ch : Chip) (j : Nat) (job : AdpJob) (b : Built) : Chip :=
  let r := AdpReq.ofBytes job.blk
  let k := ch.rd (F.ADP_DELIV_VALUE j)
  let at' := (ch.adpAddr r.area (r.nslot * r.slotBytes)).getD 0 + r.slotBytes * (k % r.nslot)
  let xs := b.samples.map fun i => s.adpSample ch r b.epoch i
  let poison := xs.any fun x => x.2.2
  let keys := b.samples.map fun i => let t := (ch.adpEntry r i).2; if r.kind = 1 then fieldAt t 8 4 else fieldAt t 24 4
  let d := ch.draw
  let maxKey := if b.samples.isEmpty then d.1 % 2 ^ 32 else keys.foldl max 0
  let head := toLe 8 b.serial ++ toLe 4 b.epoch ++ toLe 4 b.index ++ toLe 1 b.bucket ++ toLe 1 ch.pos.val ++ toLe 2 xs.length ++
    toLe 4 maxKey ++ toLe 1 j ++ toLe 1 (bnat poison + 2 * bnat b.final + 4 * bnat b.part) ++ zeros 6 ++ toLe 8 ch.now ++ zeros 24
  let c : Chip := { d.2 with draws := ch.draws + 16777217 }
  let c := c.store at' head false
  let r' := xs.zipIdx.foldl (fun (a : Chip × Nat) x =>
    let e := at' + 64 + 192 * x.2
    let wave := if r.kind = 1 then a.1.descOf a.2 else 0
    let c := a.1.store e (patch x.1.1 32 (toLe 8 wave)) false
    if r.kind = 1 then
      (c.store a.2 (padTo (roundUp x.1.2.1.length 64) x.1.2.1) x.1.2.2, a.2 + roundUp x.1.2.1.length 64)
    else (c, a.2)) (c, at' + 64 + 192 * xs.length)
  let c := r'.1.wr (F.ADP_DELIV_VALUE j) (k + 1)
  let tok := mkToken (c.descOf at') (r.target % 2 ^ 14) (r.target / 2 ^ 14) r.context (b.serial % 2 ^ 20)
    (2 * bnat poison + 4 * bnat b.final)
  (c.blockToken tok).adpBuild j

/-- The feeder delivers the batch of a live job if it has credit, or waits for it. -/
def State.adpDeliver (s : State) (ch : Chip) (j : Nat) : Chip :=
  match Tab.find ch.adp.jobs j with
  | none => ch
  | some job => match job.built with
    | none => ch
    | some b =>
      let r := AdpReq.ofBytes job.blk
      if !ch.feederOn then ch.adpSync
      else if ch.adpFar r b then (ch.wr (F.ADP_JOB_STATE j) adpRunning).setFlag F.ADP_STAT_LINK_LIVE true
      else
        let k := ch.rd (F.ADP_DELIV_VALUE j)
        let v := ch.load ((ch.adpAddr r.credit 8).getD 0) 8
        let c := if k < v then ch.setFlag F.ADP_STAT_CREDIT_SEEN true else ch
        if k - min k v < r.nslot then s.adpWrite (c.wr (F.ADP_JOB_STATE j) adpRunning) j job b
        else (c.wr (F.ADP_JOB_STATE j) adpWaiting).adpSync

/-- The job in a state, if any. -/
def Chip.adpIn (ch : Chip) (st : Nat) : Option Nat := (List.range 4).find? fun j => ch.adpState j == st

/-- ADAPT_BATCH_DELIVER (R575, R576, R579, R580, R586). (DEDUCED, log entry 122.) -/
def execAdaptBatchDeliver (c : ChipId) (s : State) : Res :=
  .next (s.modChip c fun ch => match ch.adpIn adpRunning with
    | some j => s.adpDeliver ch j
    | none => ch)

/-- ADAPT_CREDIT_POLL (R579): a WAITING feeder reads the credit word again. (DEDUCED, log entry 122.) -/
def execAdaptCreditPoll (c : ChipId) (s : State) : Res :=
  .next (s.modChip c fun ch => match ch.adpIn adpWaiting with
    | some j => s.adpDeliver ch j
    | none => ch)

/-- ADAPT_LINK_RETRY (R575): the remote read is tried again. -/
def execAdaptLinkRetry (c : ChipId) (s : State) : Res :=
  .next (s.modChip c fun ch =>
    if ch.flag F.ADP_STAT_LINK_LIVE then
      match ch.adpIn adpRunning with
      | some j => s.adpDeliver (ch.setFlag F.ADP_STAT_LINK_LIVE false) j
      | none => ch.setFlag F.ADP_STAT_LINK_LIVE false
    else ch)

end Sys2Proof.Machine
end

