-- ==== Sys2Proof/Machine/Crypto.lean ====
section
/-! DEFINITION. The published algorithms that spec/22_trust.md names: SHA-256 and SHA-512 (FIPS 180-4), HMAC-SHA-256 (FIPS
198-1) and pure Ed25519 (RFC 8032), over lists of bytes. -/

namespace Sys2Proof.Machine

open Sys2Proof

/-- Big-endian number of bytes. -/
def beNat (bs : List Byte) : Nat := bs.foldl (fun a b => a * 256 + b.toNat) 0

/-- `n` bytes of a number, big-endian. -/
def toBe (n x : Nat) : List Byte := (toLe n x).reverse

/-! ### SHA-2 -/

/-- The greatest `r` below `2^bits` with `f r ≤ x`, by bisection. -/
def rootOf (f : Nat → Nat) (x : Nat) : Nat → Nat → Nat
  | 0, r => r
  | b + 1, r => rootOf f x b (if f (r + 2 ^ b) ≤ x then r + 2 ^ b else r)

/-- The first 80 primes. -/
def primes80 : List Nat :=
  [2, 3, 5, 7, 11, 13, 17, 19, 23, 29, 31, 37, 41, 43, 47, 53, 59, 61, 67, 71, 73, 79, 83, 89, 97, 101, 103, 107, 109, 113, 127,
    131, 137, 139, 149, 151, 157, 163, 167, 173, 179, 181, 191, 193, 197, 199, 211, 223, 227, 229, 233, 239, 241, 251, 257, 263,
    269, 271, 277, 281, 283, 293, 307, 311, 313, 317, 331, 337, 347, 349, 353, 359, 367, 373, 379, 383, 389, 397, 401, 409]

/-- The round constants: the first 64 fraction bits of the cube roots of the first 80 primes. -/
def shaK : List Nat := primes80.map fun p => rootOf (fun r => r * r * r) (p * 2 ^ 192) 68 0 % 2 ^ 64

/-- The initial hash value: the first 64 fraction bits of the square roots of the first 8 primes. -/
def shaH : List Nat := (primes80.take 8).map fun p => rootOf (fun r => r * r) (p * 2 ^ 128) 68 0 % 2 ^ 64

/-- What tells SHA-256 and SHA-512 apart: word size, constants, and the rotations of the four functions; the third amount of a
small one is a shift. -/
structure Sha where
  w : Nat
  k : List Nat
  h : List Nat
  big0 : List Nat
  big1 : List Nat
  small0 : List Nat
  small1 : List Nat

def sha256p : Sha :=
  ⟨32, (shaK.take 64).map (· / 2 ^ 32), shaH.map (· / 2 ^ 32), [2, 13, 22], [6, 11, 25], [7, 18, 3], [17, 19, 10]⟩

def sha512p : Sha := ⟨64, shaK, shaH, [28, 34, 39], [14, 18, 41], [1, 8, 7], [19, 61, 6]⟩

/-- Rotation right of a `w`-bit word. -/
def rotr (w x n : Nat) : Nat := (x / 2 ^ n + x * 2 ^ (w - n)) % 2 ^ w

/-- Σ0 and Σ1. -/
def Sha.sum (s : Sha) (rs : List Nat) (x : Nat) : Nat := rs.foldl (fun a n => a ^^^ rotr s.w x n) 0

/-- σ0 and σ1. -/
def Sha.sig (s : Sha) (rs : List Nat) (x : Nat) : Nat := s.sum (rs.take 2) x ^^^ (x / 2 ^ (rs[2]?).getD 0)

/-- The message schedule, newest word first. -/
def Sha.schedule (s : Sha) : Nat → List Nat → List Nat
  | 0, ws => ws
  | n + 1, ws =>
    let g (i : Nat) : Nat := (ws[i]?).getD 0
    s.schedule n ((s.sig s.small1 (g 1) + g 6 + s.sig s.small0 (g 14) + g 15) % 2 ^ s.w :: ws)

/-- One round on the working variables a to h. -/
def Sha.round (s : Sha) (v : List Nat) (kw : Nat × Nat) : List Nat :=
  match v with
  | [a, b, c, d, e, f, g, h] =>
    let ch := (e &&& f) ^^^ ((2 ^ s.w - 1 - e) &&& g)
    let maj := (a &&& b) ^^^ (a &&& c) ^^^ (b &&& c)
    let t1 := h + s.sum s.big1 e + ch + kw.1 + kw.2
    let t2 := s.sum s.big0 a + maj
    [(t1 + t2) % 2 ^ s.w, a, b, c, (d + t1) % 2 ^ s.w, e, f, g]
  | _ => v

/-- One block. -/
def Sha.block (s : Sha) (h : List Nat) (blk : List Byte) : List Nat :=
  let n := s.w / 8
  let ws := (List.range 16).map fun i => beNat ((blk.drop (n * i)).take n)
  let sch := (s.schedule (s.k.length - 16) ws.reverse).reverse
  let v := (s.k.zip sch).foldl s.round h
  (h.zip v).map fun e => (e.1 + e.2) % 2 ^ s.w

/-- The padded message. -/
def Sha.pad (s : Sha) (m : List Byte) : List Byte :=
  let b := 2 * s.w
  let l := s.w / 4
  let z := (2 * b - (m.length + 1 + l) % b) % b
  m ++ [0x80#8] ++ zeros z ++ toBe l (8 * m.length)

/-- The digest of a message. -/
def Sha.digest (s : Sha) (m : List Byte) : List Byte :=
  let p := s.pad m
  let b := 2 * s.w
  let r := (List.range (p.length / b)).foldl (fun (st : List Nat × List Byte) _ => (s.block st.1 (st.2.take b), st.2.drop b))
    (s.h, p)
  r.1.flatMap fun x => toBe (s.w / 8) x

def sha256 (m : List Byte) : List Byte := sha256p.digest m
def sha512 (m : List Byte) : List Byte := sha512p.digest m

/-! ### HMAC-SHA-256 -/

/-- Bytewise exclusive or, as long as the shorter list. -/
def xorBytes (a b : List Byte) : List Byte := (a.zip b).map fun e => e.1 ^^^ e.2

def hmac256 (key m : List Byte) : List Byte :=
  let k := padTo 64 (if 64 < key.length then sha256 key else key)
  let x (c : Byte) : List Byte := k.map (· ^^^ c)
  sha256 (x 0x5C#8 ++ sha256 (x 0x36#8 ++ m))

/-! ### Ed25519 -/

def edP : Nat := 2 ^ 255 - 19
def edL : Nat := 2 ^ 252 + 27742317777372353535851937790883648493

/-- Difference modulo p. -/
def fsub (a b : Nat) : Nat := (a + edP - b % edP) % edP

/-- Power modulo p; the exponent has at most `n` bits. -/
def fpow (b e : Nat) : Nat → Nat
  | 0 => 1
  | n + 1 => let r := fpow b (e / 2) n; if e % 2 = 1 then r * r % edP * b % edP else r * r % edP

def finv (a : Nat) : Nat := fpow a (edP - 2) 256

def edD : Nat := fsub 0 121665 * finv 121666 % edP

/-- Square root of −1. -/
def edI : Nat := fpow 2 ((edP - 1) / 4) 256

/-- A point in extended coordinates X, Y, Z, T. -/
structure EdPt where
  x : Nat
  y : Nat
  z : Nat
  t : Nat

def edZero : EdPt := ⟨0, 1, 1, 0⟩

/-- Addition of points (RFC 8032, 5.1.4); it doubles as well. -/
def edAdd (p q : EdPt) : EdPt :=
  let a := fsub p.y p.x * fsub q.y q.x % edP
  let b := (p.y + p.x) * (q.y + q.x) % edP
  let c := p.t * 2 % edP * edD % edP * q.t % edP
  let d := p.z * 2 * q.z % edP
  let e := fsub b a
  let f := fsub d c
  let g := (d + c) % edP
  let h := (b + a) % edP
  ⟨e * f % edP, g * h % edP, f * g % edP, e * h % edP⟩

/-- A multiple of a point by a scalar of at most `n` bits. -/
def edMul (p : EdPt) (k : Nat) : Nat → EdPt
  | 0 => edZero
  | n + 1 => let r := edMul p (k / 2) n; let r := edAdd r r; if k % 2 = 1 then edAdd r p else r

/-- Two points are one. -/
def edEq (p q : EdPt) : Bool := p.x * q.z % edP == q.x * p.z % edP && p.y * q.z % edP == q.y * p.z % edP

/-- A point from its 32 bytes (RFC 8032, 5.1.3). -/
def edDecode (bs : List Byte) : Option EdPt :=
  let v := leNat bs
  let s := v / 2 ^ 255 % 2
  let y := v % 2 ^ 255
  let y2 := y * y % edP
  let u := fsub y2 1
  let w := (edD * y2 + 1) % edP
  let w3 := w * w % edP * w % edP
  let x := u * w3 % edP * fpow (u * (w3 * w3 % edP * w % edP) % edP) ((edP - 5) / 8) 256 % edP
  let q := w * (x * x % edP) % edP
  let x := if q = u then some x else if q = fsub 0 u then some (x * edI % edP) else none
  match x with
  | some x =>
    if bs.length ≠ 32 ∨ edP ≤ y ∨ (x = 0 ∧ s = 1) then none
    else
      let x := if x % 2 = s then x else edP - x
      some ⟨x, y, 1, x * y % edP⟩
  | none => none

/-- The base point. -/
def edBase : EdPt :=
  let y := 4 * finv 5 % edP
  (edDecode (toLe 32 y)).getD edZero

/-- Verification of a 64-byte signature (RFC 8032, 5.1.7). -/
def edVerify (pub m sig : List Byte) : Bool :=
  let s := leNat (sig.drop 32)
  let k := leNat (sha512 (sig.take 32 ++ pub ++ m)) % edL
  match edDecode (sig.take 32), edDecode pub with
  | some r, some a =>
    sig.length == 64 && decide (s < edL) &&
      (let x8 (p : EdPt) : EdPt := edMul p 8 4
       edEq (x8 (edMul edBase s 256)) (x8 (edAdd r (edMul a k 256))))
  | _, _ => false

end Sys2Proof.Machine
end

