-- ==== Sys2Proof/Machine/Geometry.lean ====
section
/-! DEFINITION. The Coachman's arithmetic (R442, R443, R447 to R454): head bodies, occupancy, contact, minimum-jerk segments
and stops. Positions are exact rationals; the cosine and sine of a heading are the correctly rounded binary64 values. -/

namespace Sys2Proof.Machine

open Sys2Proof

/-- Round half to even. -/
def roundEven (q : Rat) : Int :=
  let f := q.floor
  let r := q - f
  if r < 1 / 2 then f else if 1 / 2 < r then f + 1 else if f % 2 = 0 then f else f + 1

/-- Least integer not below `q`. -/
def ratCeil (q : Rat) : Int := -((-q).floor)

/-- pi scaled by 2^200, rounded down. -/
def piFix : Nat := 0x3243f6a8885a308d313198a2e03707344a4093822299f31d008

/-- Cosine series at `x` (scaled by 2^200), for `x` up to a quarter turn: `t` is the current term. -/
def cosSeries (x : Int) : Nat → Int → Nat → Int
  | 0, _, _ => 0
  | n + 1, t, k => t + cosSeries x n (-(t * x / 2 ^ 200 * x / 2 ^ 200) / ((k + 1) * (k + 2))) (k + 2)

/-- A positive fixed-point number scaled by 2^200, rounded to 53 significant bits with ties to even. -/
def round53 (f : Nat) : Rat :=
  let sh := Nat.log2 f - 52
  let r := roundEven ((f : Rat) / (2 ^ sh : Nat))
  (r : Rat) * ((2 ^ sh : Nat) : Rat) / ((2 ^ 200 : Nat) : Rat)

/-- Cosine of `k` / 65,536 turn for `k` from 0 to 16,384, correctly rounded to binary64. -/
def cosQuarter (k : Nat) : Rat :=
  if k = 0 then 1 else if k = 16384 then 0
  else round53 (cosSeries ((2 * piFix * k / 65536 : Nat) : Int) 40 (2 ^ 200) 0).toNat

/-- Cosine of an angle in 1/65,536 turn (R8, R443). -/
def cosTurn (a : Int) : Rat :=
  let k := (a % 65536).toNat
  if k ≤ 16384 then cosQuarter k
  else if k ≤ 32768 then -cosQuarter (32768 - k)
  else if k ≤ 49152 then -cosQuarter (k - 32768)
  else cosQuarter (65536 - k)

/-- Sine of an angle. -/
def sinTurn (a : Int) : Rat := cosTurn (a - 16384)

/-! ### Heads -/

/-- A signed 32-bit register field. -/
def Chip.rdI (ch : Chip) (f : Field) : Int := sgn 32 (ch.rd f)

/-- Axis kinds (R442). -/
def kindRail : Nat := 1
def kindLift : Nat := 2

def Chip.nax (ch : Chip) (h : Nat) : Nat := ch.rd (F.COA_HCFG_NAX h)
def Chip.batch (ch : Chip) (h : Nat) : Nat := ch.rd (F.COA_HCFG_BATCH h)

/-- The first axis of a kind. -/
def Chip.axisOf (ch : Chip) (h k : Nat) : Option Nat :=
  (List.range (ch.nax h)).find? fun a => ch.rd (F.COA_ACFG_KIND h a) == k

/-- The body of a head: a vertical capsule (R443). -/
structure Cap where
  x : Rat
  y : Rat
  zlo : Rat
  zhi : Rat
  r : Rat

/-- Position of an axis, in mm. -/
def mmOf (pos : List Int) (a : Option Nat) : Int :=
  match a with
  | some i => roundEven (((pos[i]?).getD 0 : Int) / (1000 : Rat))
  | none => 0

/-- The body of head `h` at axis positions `pos` (R443). -/
def Chip.body (ch : Chip) (h : Nat) (pos : List Int) : Cap :=
  let rail := mmOf pos (ch.axisOf h kindRail)
  let lift := mmOf pos (ch.axisOf h kindLift)
  let a := ch.rdI (F.COA_HGEO_RAIL_HDG_V h)
  let bz : Rat := (ch.rdI (F.COA_HBASE_BXYZ h 2) : Int)
  let z := bz - (lift : Rat)
  ⟨(ch.rdI (F.COA_HBASE_BXYZ h 0) : Int) + rail * cosTurn a, (ch.rdI (F.COA_HBASE_BXYZ h 1) : Int) + rail * sinTurn a,
    min z bz, max z bz, (ch.rd (F.COA_HGEO_R_BODY_V h) : Nat)⟩

/-- Distance from a point to an interval. -/
def gapPt (x lo hi : Rat) : Rat := max 0 (max (lo - x) (x - hi))

/-- Distance between two intervals. -/
def gapIv (lo hi lo' hi' : Rat) : Rat := max 0 (max (lo' - hi) (lo - hi'))

/-- A box with edges along the axes. -/
structure Box where
  x0 : Rat
  y0 : Rat
  z0 : Rat
  x1 : Rat
  y1 : Rat
  z1 : Rat

/-- A capsule intersects a box. -/
def Cap.hitsBox (c : Cap) (b : Box) : Bool :=
  let dx := gapPt c.x b.x0 b.x1
  let dy := gapPt c.y b.y0 b.y1
  let dz := gapIv c.zlo c.zhi b.z0 b.z1
  decide (dx * dx + dy * dy + dz * dz ≤ c.r * c.r)

/-- A capsule intersects the vertical cylinder of radius `r` about (x, y) from z = 0 to z = `h`. -/
def Cap.hitsCyl (c : Cap) (x y r h : Rat) : Bool :=
  let g := gapIv c.zlo c.zhi 0 h
  if c.r < g then false
  else
    let b := c.r * c.r - g * g
    let l := (c.x - x) * (c.x - x) + (c.y - y) * (c.y - y) - r * r - b
    decide (l ≤ 0) || decide (l * l ≤ 4 * (r * r) * b)

/-- The enabled keep-out boxes whose MIN is not above their MAX (R474). -/
def Chip.keepOuts (ch : Chip) : List Box :=
  ((List.range 8).filter fun k => ch.flag (F.COA_KO_EN_EN k) && (List.range 3).all fun a =>
    decide (ch.rdI (F.COA_KO_MIN_XYZ k a) ≤ ch.rdI (F.COA_KO_MAX_XYZ k a))).map fun k =>
    ⟨(ch.rdI (F.COA_KO_MIN_XYZ k 0) : Int), (ch.rdI (F.COA_KO_MIN_XYZ k 1) : Int), (ch.rdI (F.COA_KO_MIN_XYZ k 2) : Int),
      (ch.rdI (F.COA_KO_MAX_XYZ k 0) : Int), (ch.rdI (F.COA_KO_MAX_XYZ k 1) : Int), (ch.rdI (F.COA_KO_MAX_XYZ k 2) : Int)⟩

/-! ### Occupancy -/

/-- The slice of a board time (R447). -/
def OccGen.slice (g : OccGen) (t : Nat) : Nat := if t < g.t0 then 0 else min 15 ((t - g.t0) / 125000000)

/-- Radius of a person solid in slice `s` (R448). -/
def Chip.radius (ch : Chip) (s : Nat) : Nat :=
  ch.rd F.COA_OCC_CFG_R_PERSON + ch.rd F.COA_OCC_INF_INFL_BASE + ch.rd F.COA_OCC_INF_INFL_GROW * (s + 1)

/-- Height of a person solid in slice `s` (R448). -/
def Chip.personTop (ch : Chip) (s : Nat) : Nat :=
  ch.rd F.COA_OCC_CFG_H_PERSON + (ch.radius s - ch.rd F.COA_OCC_CFG_R_PERSON)

/-- Velocity with each component clamped to V_CAP. -/
def Chip.vClamp (ch : Chip) (v : Int) : Int :=
  let c : Int := (ch.rd F.COA_OCC_INF_V_CAP : Nat)
  clampI (-c) c v

/-- ceil(|v| · 0.0625): the least n with 16·n at least |v|. The binary64 root of an integer below 2^29 lies on the same side
of a multiple of 16 as the exact root. -/
def widen16 (n2 : Nat) : Nat := (List.range 2048).foldl (fun a k => if (16 * k) * (16 * k) < n2 then k + 1 else a) 0

/-- A person's solid of slice `s` on the leaves: centre, radius and height (R448). -/
def Chip.solid (ch : Chip) (p : Person) (s : Nat) : Rat × Rat × Rat × Rat :=
  let vx := ch.vClamp p.vx
  let vy := ch.vClamp p.vy
  let t : Rat := (125 * s + 125 / 2 : Rat) / 1000
  let w := widen16 (vx * vx + vy * vy).toNat + 1
  ((p.x : Rat) + vx * t, (p.y : Rat) + vy * t, ((ch.radius s + w : Nat) : Rat), ((ch.personTop s : Nat) : Rat))

/-- The cube of leaf (i, j, k). -/
def Chip.leaf (ch : Chip) (i j k : Nat) : Box :=
  let x : Rat := ((ch.rdI (F.COA_OCT_ORG_XYZ 0) + 20 * i : Int) : Rat)
  let y : Rat := ((ch.rdI (F.COA_OCT_ORG_XYZ 1) + 20 * j : Int) : Rat)
  let z : Rat := ((ch.rdI (F.COA_OCT_ORG_XYZ 2) + 20 * k : Int) : Rat)
  ⟨x, y, z, x + 20, y + 20, z + 20⟩

/-- A box is intersected by a vertical cylinder that stands on z = 0. -/
def Box.hitsCyl (b : Box) (x y r h : Rat) : Bool :=
  let dx := gapPt x b.x0 b.x1
  let dy := gapPt y b.y0 b.y1
  decide (dx * dx + dy * dy ≤ r * r) && decide (b.z0 ≤ h) && decide (0 ≤ b.z1)

/-- Two boxes intersect. -/
def Box.hits (a b : Box) : Bool :=
  decide (a.x0 ≤ b.x1) && decide (b.x0 ≤ a.x1) && decide (a.y0 ≤ b.y1) && decide (b.y0 ≤ a.y1) && decide (a.z0 ≤ b.z1) &&
    decide (b.z0 ≤ a.z1)

/-- A leaf is occupied in slice `s` (R448). -/
def Chip.occupied (ch : Chip) (g : OccGen) (s : Nat) (b : Box) : Bool :=
  g.crowded || (g.persons.any fun p => let q := ch.solid p s; b.hitsCyl q.1 q.2.1 q.2.2.1 q.2.2.2) ||
    ch.keepOuts.any fun k => b.hits k

/-- The leaf indices along one axis that an interval can touch. -/
def leafRange (lo hi : Rat) (org : Int) (n : Nat) : List Nat :=
  let a := ((lo - org) / 20).floor - 1
  let b := ((hi - org) / 20).floor + 1
  let a := (max 0 a).toNat
  let b := (min ((n : Int) - 1) b + 1).toNat
  (List.range (b - a)).map (· + a)

/-- The Coachman's contact: a leaf that the body intersects is occupied in the slice (R450). -/
def Chip.contactLeaf (ch : Chip) (g : OccGen) (h : Nat) (pos : List Int) (s : Nat) : Bool :=
  let c := ch.body h pos
  (leafRange (c.x - c.r) (c.x + c.r) (ch.rdI (F.COA_OCT_ORG_XYZ 0)) 800).any fun i =>
    (leafRange (c.y - c.r) (c.y + c.r) (ch.rdI (F.COA_OCT_ORG_XYZ 1)) 800).any fun j =>
      (leafRange (c.zlo - c.r) (c.zhi + c.r) (ch.rdI (F.COA_OCT_ORG_XYZ 2)) 200).any fun k =>
        let b := ch.leaf i j k
        c.hitsBox b && ch.occupied g s b

/-- The Sentry's contact, evaluated analytically on its copy of the list (R450, R456). -/
def Chip.contactExact (ch : Chip) (g : OccGen) (h : Nat) (pos : List Int) (t : Nat) : Bool :=
  let c := ch.body h pos
  let s := g.slice t
  let dt : Rat := ((min (t - g.t0) 1999999999 : Nat) : Rat) / 1000000000
  (g.persons.any fun p =>
    c.hitsCyl ((p.x : Rat) + ch.vClamp p.vx * dt) ((p.y : Rat) + ch.vClamp p.vy * dt) ((ch.radius s : Nat) : Rat)
      ((ch.personTop s : Nat) : Rat)) || ch.keepOuts.any fun k => c.hitsBox k

/-! ### Plans -/

/-- Value of a polynomial, lowest coefficient first. -/
def polyAt (x : Rat) : List Rat → Rat
  | [] => 0
  | c :: t => c + x * polyAt x t

/-- Derivative of a polynomial. -/
def polyDer (cs : List Rat) : List Rat := (cs.drop 1).zipIdx.map fun e => e.1 * ((e.2 + 1 : Nat) : Rat)

/-- Axis positions of a segment at `k` ms from its start. -/
def Seg.at (s : Seg) (k : Nat) : List Int :=
  s.coef.map fun c => roundEven (polyAt ((min k s.dur : Nat) / (s.dur : Rat)) c)

/-- Board time at which a segment ends. -/
def Seg.stop (s : Seg) : Nat := s.t0 + s.dur * 1000000

/-- The segment that governs board time `t`: the last one that has started. -/
def Head.segAt (x : Head) (t : Nat) : Option Seg := (x.segs.filter fun s => decide (s.t0 ≤ t)).getLast?

/-- The sample of a head at board time `t` (R451, R455). -/
def Head.posAt (x : Head) (t : Nat) : List Int :=
  match x.segAt t with
  | some s => s.at ((t - s.t0) / 1000000)
  | none => x.rest

/-- The pose a head's plan ends in. -/
def Head.endPose (x : Head) : List Int :=
  match x.segs.getLast? with
  | some s => s.at s.dur
  | none => x.rest

/-- Position, speed per ms and acceleration per ms squared of each axis at board time `t`. -/
def Head.kinAt (x : Head) (t : Nat) : List (Rat × Rat × Rat) :=
  match x.segAt t with
  | some s =>
    if s.stop ≤ t then (s.at s.dur).map fun (q : Int) => ((q : Rat), (0 : Rat), (0 : Rat))
    else
      let tau : Rat := (((t - s.t0) / 1000000 : Nat) : Rat) / s.dur
      s.coef.map fun c =>
        (polyAt tau c, polyAt tau (polyDer c) / s.dur, polyAt tau (polyDer (polyDer c)) / ((s.dur : Rat) * s.dur))
  | none => x.rest.map fun (q : Int) => ((q : Rat), (0 : Rat), (0 : Rat))

/-- Search for the least t from 1 that satisfies a predicate that stays true once it is, below 2^bits + 1. -/
def leastFrom (p : Nat → Bool) : Nat → Nat → Nat
  | 0, t => t + 1
  | b + 1, t => if p (t + 2 ^ b) then leastFrom p b t else leastFrom p b (t + 2 ^ b)

/-- Duration of one axis over distance `d` (R451). -/
def Chip.axisTime (ch : Chip) (h a : Nat) (d : Int) : Nat :=
  let v := ch.rd (F.COA_AV_VMAX h a)
  let ac := ch.rd (F.COA_AA_AMAX h a)
  let j := ch.rd (F.COA_AJ_JMAX h a)
  let n := d.natAbs
  leastFrom (fun t => decide (15000 * n ≤ 8 * v * t) && decide (10 ^ 14 * (n * n) ≤ 3 * (ac * ac) * (t * t * t * t)) &&
    decide (6 * 10 ^ 10 * n ≤ j * (t * t * t))) 48 0

/-- A rest-to-rest segment; none where no axis moves (R451). -/
def Chip.planSeg (ch : Chip) (h t0 : Nat) (q0 q1 : List Int) : Option Seg :=
  let ds := (q0.zip q1).map fun e => e.2 - e.1
  if ds.all fun d => d == 0 then none
  else
    let dur := (ds.zipIdx).foldl (fun m e => if e.1 = 0 then m else max m (ch.axisTime h e.2 e.1)) 1
    some ⟨t0, dur, (q0.zip ds).map fun e => [(e.1 : Rat), 0, 0, 10 * (e.2 : Rat), -15 * (e.2 : Rat), 6 * (e.2 : Rat)], false⟩

/-- A chain of rest-to-rest segments through the poses `qs`. -/
def Chip.planChain (ch : Chip) (h t0 : Nat) (q0 : List Int) : List (List Int) → List Seg
  | [] => []
  | q :: t => match ch.planSeg h t0 q0 q with
    | some s => s :: ch.planChain h s.stop q t
    | none => ch.planChain h t0 q t

/-- Every sample of a chain from `t0`, and its last pose held to the horizon, is free under the generation (R452). -/
def Chip.chainFree (ch : Chip) (g : OccGen) (h t0 : Nat) (q0 : List Int) (segs : List Seg) : Bool :=
  let pose := match segs.getLast? with
    | some s => s.at s.dur
    | none => q0
  let fin := match segs.getLast? with
    | some s => s.stop
    | none => t0
  (segs.all fun s => (List.range (s.dur + 1)).all fun k =>
    !ch.contactLeaf g h (s.at k) (g.slice (s.t0 + k * 1000000))) &&
  (List.range 16).all fun sl => decide (sl < g.slice fin) || !ch.contactLeaf g h pose sl

/-- The quintic of a stop for one axis from position, speed and acceleration per ms, over `t` ms (R454). -/
def stopCoef (t : Nat) (k : Rat × Rat × Rat) : List Rat :=
  let c0 := k.1
  let c1 := k.2.1 * t
  let c2 := k.2.2 * t * t / 2
  let qf := k.1 + k.2.1 * t / 2 + k.2.2 * t * t / 12
  let h := qf - c0 - c1 - c2
  let p := -c1 - 2 * c2
  let r := -2 * c2
  [c0, c1, c2, 10 * h - 4 * p + r / 2, -15 * h + 7 * p - r, 6 * h - 3 * p + r / 2]

/-- The difference checks of R456 for one axis: value `q` after the values `prev`, newest first. A difference that needs more values than
there are is not tested. -/
def Chip.diffOk (ch : Chip) (h a : Nat) (prev : List Int) (q : Int) : Bool :=
  let small (d : Int) (f : Field) (unit : Rat) (slack : Rat) : Bool := decide ((d.natAbs : Rat) ≤ (ch.rd f : Nat) / unit + slack)
  let d1 (p : Int) : Bool := small (q - p) (F.COA_AV_VMAX h a) 1000 1
  let d2 (p p2 : Int) : Bool := small (q - 2 * p + p2) (F.COA_AA_AMAX h a) 1000000 2
  match prev with
  | [] => true
  | [p] => d1 p
  | [p, p2] => d1 p && d2 p p2
  | p :: p2 :: p3 :: _ => d1 p && d2 p p2 && small (q - 3 * p + 3 * p2 - p3) (F.COA_AJ_JMAX h a) 1000000000 4

/-- The difference checks for one axis over new values, oldest first, after the values `prev`, newest first. -/
def Chip.diffsFrom (ch : Chip) (h a : Nat) : List Int → List Int → Bool
  | _, [] => true
  | prev, q :: t => ch.diffOk h a prev q && ch.diffsFrom h a (q :: prev) t

/-- The difference checks over new samples after the samples `before`, both oldest first (R456). -/
def Chip.diffsOk (ch : Chip) (h : Nat) (before xs : List (List Int)) : Bool :=
  (List.range (ch.nax h)).all fun a =>
    let axis (ps : List (List Int)) : List Int := ps.map fun q => (q[a]?).getD 0
    ch.diffsFrom h a (axis before).reverse (axis xs)

/-- The first value from `t` that satisfies a predicate, searched over `n` values. -/
def firstOk (ok : Nat → Bool) : Nat → Nat → Nat
  | 0, t => t
  | n + 1, t => if ok t then t else firstOk ok n (t + 1)

/-- The stop of head `h` whose first new sample lies at `tr` (R454): the least duration whose samples pass the difference
checks. -/
def Chip.stopSeg (ch : Chip) (h : Nat) (x : Head) (tr : Nat) : Seg :=
  let t0 := tr - 1000000
  let kin := x.kinAt t0
  let before := [x.posAt (tr - 3000000), x.posAt (tr - 2000000), x.posAt t0]
  let mk (t : Nat) : Seg := ⟨t0, t, kin.map (stopCoef t), true⟩
  let ok (t : Nat) : Bool :=
    let s := mk t
    ch.diffsOk h before ((List.range (t + 3)).map fun k => s.at (k + 1))
  mk (firstOk ok 65535 1)

end Sys2Proof.Machine
end

