-- ==== Sys2Proof/Machine/MotionOps.lean ====
section
/-! DEFINITION. The Sentry's and Coachman's shared operations (R442 to R474): heads, MOTION_STATUS records, CAN frames, the
safe-stop, batches and the disable of motion. -/

namespace Sys2Proof.Machine

open Sys2Proof

def Chip.head (ch : Chip) (h : Nat) : Head := Tab.get Head.reset ch.coa.heads h

def Chip.setHead (ch : Chip) (h : Nat) (x : Head) : Chip :=
  { ch with coa := { ch.coa with heads := Tab.put ch.coa.heads h x } }

def Chip.setSen (ch : Chip) (x : Sentry) : Chip := { ch with sen := x }

/-- COA_HSTAT.STATE codes. -/
def hdDisabled : Nat := 0
def hdReady : Nat := 1
def hdMoving : Nat := 2
def hdStopping : Nat := 3

/-- COA_STAT.ROLE codes. -/
def roleOff : Nat := 0
def roleStandby : Nat := 1
def roleActive : Nat := 2
def roleFailed : Nat := 3

def Chip.headState (ch : Chip) (h : Nat) : Nat := ch.rd (F.COA_HSTAT_STATE h)

/-- The MOTION_STATUS record (R491); head 0xFF for the tray. -/
def Chip.motionRec (ch : Chip) (h event stamp : Nat) : List Byte :=
  let tray := h = 0xFF
  let x := ch.head h
  let s := ch.sen
  let mstat := ch.rd F.SEN_STAT_SAFE_LATCH + 2 * ch.rd F.SEN_STAT_STBY_LIVE + 4 * bnat s.fromE2 + 8 * bnat s.loopA +
    16 * bnat s.loopB
  let pos := if tray then [] else x.reported
  padTo 64 (toLe 1 0x1A ++ zeros 15 ++ toLe 1 h ++ toLe 1 event ++ toLe 1 (if tray then 0 else ch.headState h) ++
    toLe 1 (if event = 2 then ch.rd F.SEN_STAT_EN_RESULT else 0) ++ toLe 1 (if event = 3 then ch.rd F.SEN_CAUSE_CAUSE else 0) ++
    toLe 1 mstat ++ toLe 1 (ch.rd F.SEN_STAT_ENABLED) ++ zeros 1 ++ toLe 8 stamp ++
    ((List.range 4).flatMap fun a => toLe 4 (usgn 32 (if a < ch.nax h ∧ !tray then (pos[a]?).getD 0 else 0))) ++
    toLe 4 (ch.rd F.COA_GEN_GEN) ++ toLe 4 (if tray then 0 else x.seq - 1))

/-- A MOTION_STATUS record submitted, with vector 134 (R107, R493). Only E0 has a Sentry. -/
def Chip.motionStatus (ch : Chip) (h event stamp : Nat) : Chip :=
  if ch.pos.val = 0 then
    let c := if ch.flag F.GBK_SYSFLOW_MOTION_EN then
        ch.sysSubmit (ch.rd F.GBK_SYSFLOW_MOTION_FLOW) (ch.motionRec h event stamp)
      else ch
    c.msix 134
  else ch

/-- A head's state changes (R471, R493). -/
def Chip.setHeadState (ch : Chip) (h st : Nat) : Chip :=
  if ch.headState h = st then ch else (ch.wr (F.COA_HSTAT_STATE h) st).motionStatus h 1 ch.now

/-- A frame put on a bus. -/
def Chip.queueCan (ch : Chip) (bus : Nat) (f : CanFrame) : Chip :=
  let s := ch.sen
  if bus = 0 then ch.setSen { s with can0 := s.can0 ++ [f] } else ch.setSen { s with can1 := s.can1 ++ [f] }

/-- The CAN FD data length that holds `n` bytes (R467). -/
def canLen (n : Nat) : Nat :=
  if n ≤ 8 then 8 else if n ≤ 12 then 12 else if n ≤ 16 then 16 else if n ≤ 20 then 20 else if n ≤ 24 then 24
  else if n ≤ 32 then 32 else if n ≤ 48 then 48 else 64

/-- A frame's bytes: content, zeros, and the CRC over SAFE_ID and the rest (R469). -/
def canBytes (safeId : Nat) (content : List Byte) : List Byte :=
  let l := canLen (content.length + 4)
  let body := padTo (l - 4) content
  body ++ toLe 4 (crc32 (toLe 4 safeId ++ body))

/-- A STOP frame on each bus (R461). -/
def Chip.sendStop (ch : Chip) : Chip :=
  let mk (ch : Chip) : CanFrame := ⟨1, canBytes 0 (toLe 1 3 ++ zeros 3 ++ toLe 4 ch.sen.stopSeq ++ toLe 8 ch.now)⟩
  let c := (ch.queueCan 0 (mk ch)).queueCan 1 (mk ch)
  c.setSen { c.sen with stopSeq := (c.sen.stopSeq + 1) % 2 ^ 32 }

/-- Every head becomes DISABLED: its plan and its queued samples go. -/
def Chip.disableHeads (ch : Chip) : Chip :=
  let c := (List.range 8).foldl (fun c h =>
    let x := c.head h
    if c.headState h = hdDisabled then c
    else (c.setHead h { x with segs := [], queue := [], frame := none, disabling := false }).setHeadState h hdDisabled) ch
  c.wr F.SEN_STAT_ENABLED 0

/-- Both safe-stop channels open. -/
def Chip.openChannels (ch : Chip) : Chip := ch.setSen { ch.sen with chanA := false, chanB := false }

/-- What every safe-stop does to the outputs and the heads (R461, R598). -/
def Chip.stopMotion (ch : Chip) : Chip :=
  let c := (ch.openChannels.sendStop.disableHeads).setFlag F.SEN_STAT_SAFE_LATCH true
  c.setSen { c.sen with disabling := false }

/-- A condition of R456 to R460, a lockstep mismatch or an open loop (R461, R609): `row` of R592, `qual` of its SOURCE,
`cause` the row of R472, `head` 15 for the tray. -/
def Chip.safeStop (ch : Chip) (row qual cause head detail : Nat) : Chip :=
  let sameMs := ch.rd F.SEN_CAUSE_TIME_TIME / 1000000 == ch.now / 1000000 && ch.rd F.SEN_CAUSE_CAUSE != 0
  if ch.flag F.SEN_STAT_SAFE_LATCH = false then
    let c := ((ch.wr F.SEN_CAUSE_CAUSE cause).wr F.SEN_CAUSE_HEAD head).wr F.SEN_CAUSE_TIME_TIME ch.now
    let c := c.stopMotion
    (c.raise row (source 283 qual) detail).motionStatus 0xFF 3 c.now
  else if sameMs then
    let c := if cause < ch.rd F.SEN_CAUSE_CAUSE then (ch.wr F.SEN_CAUSE_CAUSE cause).wr F.SEN_CAUSE_HEAD head else ch
    (c.raise row (source 283 qual) detail).motionStatus 0xFF 3 (c.rd F.SEN_CAUSE_TIME_TIME)
  else ch.count F.SEN_TRIPS_COUNT F.SEN_STAT_OVF 4

/-! ### Generations -/

def Chip.genOf (ch : Chip) (n : Nat) : Option OccGen := ch.coa.gens.find? fun g => g.num == n

/-- The newest complete generation. -/
def Chip.curGen (ch : Chip) : Option OccGen := ch.coa.gens.find? fun g => g.done.isSome

/-- The generation is fresh at transmission (R457). -/
def Chip.genFresh (ch : Chip) (n : Nat) : Bool :=
  let grace := ch.rd F.SEN_CTL_GEN_GRACE * 1000000
  let newer := ch.coa.gens.any fun g => match g.done with
    | some t => decide (t + grace < ch.now) && decide (n < g.num)
    | none => false
  let young := match ch.genOf n with
    | some g => decide (ch.now ≤ g.t0 + ch.rd F.SEN_CTL_OCC_MAX_AGE * 1000000)
    | none => false
  !newer && young

/-! ### Batches (R455, R456) -/

/-- The samples before board time `t` that the Sentry knows, oldest first. -/
def Head.before (x : Head) (t : Nat) : List (List Int) :=
  (((x.sent ++ x.queue).filter fun s => decide (s.time < t)).map (·.pos)).reverse.take 3 |>.reverse

/-- The Sentry takes a batch at hand-off (R456): MOTION_DISAGREE where a check fails; a late batch is refused. -/
def Chip.takeBatch (ch : Chip) (h : Nat) (xs : List Smp) : Chip :=
  let x := ch.head h
  match xs with
  | [] => ch.safeStop 28 h 1 h 0
  | s0 :: _ =>
    let late := match x.frame with
      | some f => decide (s0.time < f.time + ch.batch h * 1000000)
      | none => x.sent.any fun s => decide (s0.time ≤ s.time)
    if late then ch
    else
      let okHead := ch.headState h != hdDisabled && decide (xs.length = ch.batch h) &&
        xs.all fun s => decide (s.pos.length = ch.nax h)
      let okRange := xs.all fun s => (List.range (ch.nax h)).all fun a =>
        let q := (s.pos[a]?).getD 0
        decide (ch.rdI (F.COA_AMIN_LIMIT h a) ≤ q) && decide (q ≤ ch.rdI (F.COA_AMAX_LIMIT h a))
      let okDiff := ch.diffsOk h (x.before s0.time) (xs.map (·.pos))
      let okContact := xs.all fun s => match ch.genOf s.gen with
        | some g => !ch.contactExact g h s.pos s.time
        | none => !ch.contactExact ⟨0, 0, [], false, none⟩ h s.pos s.time
      if okHead && okRange && okDiff && okContact then
        ch.setHead h { x with queue := (x.queue.filter fun s => decide (s.time < s0.time)) ++ xs }
      else ch.safeStop 28 h 1 h s0.time

/-- The first sample time of head `h` not yet transmitted. -/
def Head.firstUnsent (x : Head) : Nat :=
  match x.queue with
  | s :: _ => s.time
  | [] => x.next

/-- A stop planned for head `h` from its first untransmitted sample (R453, R454). -/
def Chip.planStop (ch : Chip) (h : Nat) : Chip :=
  let x := ch.head h
  let tr := x.firstUnsent
  let s := ch.stopSeg h x tr
  (ch.setHead h { x with segs := (x.segs.filter fun g => decide (g.t0 < s.t0)) ++ [s], next := min x.next tr }).setHeadState h
    hdStopping

/-- Every moving head stops (R449, R462). -/
def Chip.stopMoving (ch : Chip) : Chip :=
  (List.range 8).foldl (fun c h => if c.headState h = hdMoving then c.planStop h else c) ch

/-- All heads are at rest. -/
def Chip.allAtRest (ch : Chip) : Bool :=
  (List.range 8).all fun h => ch.headState h == hdDisabled || ch.headState h == hdReady

/-- The end of a disable: STOP, channels open, heads DISABLED (R462). -/
def Chip.finishDisable (ch : Chip) : Chip :=
  let c := ch.sendStop.openChannels.disableHeads
  c.setSen { c.sen with disabling := false }

/-- Motion disabled as HEADS 0 does (R462, R471). -/
def Chip.beginDisable (ch : Chip) : Chip :=
  if ch.pos.val = 0 then
    let c := ch.stopMoving
    if c.allAtRest then c.finishDisable else c.setSen { c.sen with disabling := true }
  else ch

/-- A MOTION message to the other Coachman, split into pieces of 48 bytes (R464, R558). -/
def Chip.sendMotion (ch : Chip) (dest code : Nat) (data : List Byte) : Chip :=
  let n := max 1 ((data.length + 47) / 48)
  (List.range n).foldl (fun c i =>
    c.sendFlit dest 3 4 (toLe 1 code ++ toLe 1 i ++ toLe 1 n ++ zeros 5 ++ padTo 48 (data.drop (48 * i)))) ch

end Sys2Proof.Machine
end

