-- ==== Sys2Proof/Machine/QueueOps.lean ====
section
/-! DEFINITION. Work queues in the Common Room (R415 to R419, R445, R554): the queue of each block, taking the job at its
head, refusals and completion tokens. -/

namespace Sys2Proof.Machine

open Sys2Proof

/-- Register fields of a block's queue. The Coachman has no SKIP counter and no LAST_JOB register. -/
structure QueueRegs where
  en : Field
  offset : Field
  skipUs : Field
  refused : Field
  refusedSeen : Field
  ovf : Field
  skip : Option Field
  lastJob : Option Field
  domain : Nat

def queueRegs : QueueBlock → QueueRegs
  | .sieve => ⟨F.SIV_Q_BASE_EN, F.SIV_Q_BASE_OFFSET, F.SIV_CTL_SKIP_US, F.SIV_REFUSED_COUNT, F.SIV_STAT_REFUSED_SEEN,
      F.SIV_STAT_OVF, some F.SIV_SKIP_COUNT, some F.SIV_LAST_JOB_ADDR, 226⟩
  | .hound => ⟨F.HND_Q_BASE_EN, F.HND_Q_BASE_OFFSET, F.HND_CTL_SKIP_US, F.HND_REFUSED_COUNT, F.HND_STAT_REFUSED_SEEN,
      F.HND_STAT_OVF, some F.HND_SKIP_COUNT, some F.HND_LAST_JOB_ADDR, 227⟩
  | .coachman => ⟨F.COA_Q_BASE_EN, F.COA_Q_BASE_OFFSET, F.COA_CTL_SKIP_US, F.COA_REFUSED_COUNT, F.COA_STAT_REFUSED_SEEN,
      F.COA_STAT_OVF, none, none, 228⟩
  | .dma => ⟨F.TRL_DMA_Q_BASE_EN, F.TRL_DMA_Q_BASE_OFFSET, F.TRL_DMA_CTL_SKIP_US, F.TRL_DMA_REFUSED_COUNT,
      F.TRL_DMA_STAT_REFUSED_SEEN, F.TRL_DMA_STAT_OVF, some F.TRL_DMA_SKIP_COUNT, some F.TRL_DMA_LAST_JOB_ADDR, 235⟩

/-- Index of the next job (HEAD). -/
def Chip.qHead (ch : Chip) : QueueBlock → Nat
  | .sieve => ch.rd F.SIV_HEAD_INDEX
  | .hound => ch.rd F.HND_HEAD_INDEX
  | .coachman => ch.coa.qhead
  | .dma => ch.rd F.TRL_DMA_HEAD_INDEX

def Chip.setQHead (ch : Chip) (b : QueueBlock) (v : Nat) : Chip :=
  match b with
  | .sieve => ch.wr F.SIV_HEAD_INDEX v
  | .hound => ch.wr F.HND_HEAD_INDEX v
  | .coachman => { ch with coa := { ch.coa with qhead := v % 2 ^ 64 } }
  | .dma => ch.wr F.TRL_DMA_HEAD_INDEX v

/-- The block runs a job. -/
def Chip.qBusy (ch : Chip) : QueueBlock → Bool
  | .sieve => ch.siv.isSome
  | .hound => ch.hnd.run.isSome
  | .coachman => ch.coa.run.isSome
  | .dma => ch.trail.dma.isSome

/-- Flat address of the queue region (R415). -/
def Chip.qBase (ch : Chip) (b : QueueBlock) : Nat := crBase + 64 * ch.rd (queueRegs b).offset

/-- Flat address of the slot of index `i`. -/
def Chip.qSlot (ch : Chip) (b : QueueBlock) (i : Nat) : Nat := ch.qBase b + 64 + 8 * (i % 64)

/-- HEAD advances: the slot is cleared and the HEAD word follows (R417). -/
def Chip.qAdvance (ch : Chip) (b : QueueBlock) : Chip :=
  let h := ch.qHead b
  let c := (ch.store (ch.qSlot b h) (zeros 8) false).setQHead b (h + 1)
  c.store (c.qBase b + 8) (toLe 8 (c.qHead b)) false

/-- The queue takes jobs: enabled at commit, on a chip that runs the block (R441, R445). -/
def Chip.qEnabled (ch : Chip) (b : QueueBlock) : Bool :=
  ch.flag (queueRegs b).en && !ch.halted && (match b with
    | .coachman => ch.rd F.COA_STAT_ROLE == roleActive
    | _ => true)

/-- A 32-bit counter of the queue, with its OVF bit where the register has one. -/
def Chip.qCount (ch : Chip) (b : QueueBlock) (f : Option Field) (bit : Nat) : Chip :=
  match f with
  | some f => ch.count f (queueRegs b).ovf bit
  | none => ch

def Chip.qLast (ch : Chip) (b : QueueBlock) (addr : Nat) : Chip :=
  match (queueRegs b).lastJob with
  | some f => ch.wr f addr
  | none => ch

/-- An index skipped or a misplaced job (R418). -/
def Chip.qSkip (ch : Chip) (b : QueueBlock) : Chip :=
  let c := ch.qCount b (queueRegs b).skip 1
  match b with
  | .sieve => c.setFlag F.SIV_STAT_SKIP_SEEN true
  | .hound => c.setFlag F.HND_STAT_SKIP_SEEN true
  | .coachman => c
  | .dma => c.setFlag F.TRL_DMA_STAT_SKIP_SEEN true

/-- A refused job: counted and latched (R419). -/
def Chip.qRefused (ch : Chip) (b : QueueBlock) (addr : Nat) : Chip :=
  ((ch.qCount b (some (queueRegs b).refused) 0).setFlag (queueRegs b).refusedSeen true).qLast b addr

/-- A job the block has taken: its address, its block, whether a read made to take it was poisoned, and its graph slot. -/
structure QJob where
  addr : Nat
  blk : List Byte
  poison : Bool
  slot : Nat
  deriving DecidableEq, Repr

/-- Byte offsets of TICKET and CONTEXT in a job block. -/
def ticketAt : QueueBlock → Nat
  | .sieve => 104
  | _ => 64

def contextAt (b : QueueBlock) (blk : List Byte) : Nat :=
  match b with
  | .sieve => 90
  | .hound => if fieldAt blk 0 1 = 3 then 50 else 42
  | _ => 42

/-- The ARMED slot that owns a context (R419). -/
def Chip.armedSlot (ch : Chip) (ctx : Nat) : Option Nat :=
  if 1024 ≤ ctx then none
  else match ch.ctxSlot ctx with
    | some s => if (ch.slot s).st = .armed then some s else none
    | none => none

/-- A read made for a job returned poison (R420). The Coachman and the DMA engine have no POISON_SEEN bit. -/
def Chip.qPoison (ch : Chip) (b : QueueBlock) (poison : Bool) : Chip :=
  if !poison then ch
  else match b with
    | .sieve => ch.setFlag F.SIV_STAT_POISON_SEEN true
    | .hound => ch.setFlag F.HND_STAT_POISON_SEEN true
    | .coachman => ch
    | .dma => ch

/-- An idle block takes the job at HEAD (R417 to R420): none where there is nothing to take or the job was discarded. The reads of the slot and
of the job block may poison it. A slot
value that is no job block's address is discarded as a job without a graph. (DEDUCED, log entry 116.) -/
def Chip.takeJob (ch : Chip) (b : QueueBlock) : Option QJob × Chip :=
  if !ch.qEnabled b || ch.qBusy b then (none, ch)
  else
    let h := ch.qHead b
    let a := ch.load (ch.qSlot b h) 8
    if a = 0 then (none, ch)
    else
      let ok := ch.inShared a 128 && a % 64 == 0
      let blk := if ok then ch.bytes a 128 else zeros 128
      let poison := ch.anyPoison (ch.qSlot b h) 8 || (ok && ch.anyPoison a 128)
      let c := (ch.qAdvance b).qPoison b poison
      if ok && fieldAt blk (ticketAt b) 8 != h then (none, (c.qSkip b).qLast b a)
      else
        match (if ok then ch.armedSlot (fieldAt blk (contextAt b blk) 2) else none) with
        | none => (none, (c.qLast b a).raise 33 (source (queueRegs b).domain 0) a)
        | some s => (some ⟨a, blk, poison, s⟩, c)

/-- The token of a job whose TARGET, CONTEXT and ITERATION stand at offset `o` of its block. -/
def jobToken (blk : List Byte) (o value : Nat) (poison : Bool) : BitVec 128 :=
  let t := fieldAt blk o 2
  mkToken value (t % 2 ^ 14) (t / 2 ^ 14) (fieldAt blk (o + 2) 2) (fieldAt blk (o + 4) 4) (tokPoison poison)

/-- CONTEXT and ITERATION fields within their ranges (R232). -/
def tagOk (blk : List Byte) (o : Nat) : Bool := decide (fieldAt blk (o + 2) 2 < 1024) && decide (fieldAt blk (o + 4) 4 < 2 ^ 20)

/-- A completion token leaves the block. -/
def Chip.qToken (ch : Chip) (t : BitVec 128) : Chip := ch.blockToken t

/-- A refused job's token with POISON set, and its counts (R419). -/
def Chip.qRefuse (ch : Chip) (b : QueueBlock) (j : QJob) (o value : Nat) : Chip :=
  (ch.qRefused b j.addr).qToken (jobToken j.blk o value true)

/-- An extent may be read or written by a job: it lies in the chip's Common Room or DRAM (R438). -/
def Chip.extentOk (ch : Chip) (a n : Nat) : Bool := ch.inShared a n

/-- An output extent: it does not overlap the block's queue region either (R438). -/
def Chip.outOk (ch : Chip) (b : QueueBlock) (a n : Nat) : Bool :=
  ch.inShared a n && (decide (a + n ≤ ch.qBase b) || decide (ch.qBase b + 576 ≤ a))

/-- Another slot of the queue is full. -/
def Chip.qOtherFull (ch : Chip) (b : QueueBlock) : Bool :=
  (List.range 64).any fun j => j != ch.qHead b % 64 && ch.load (ch.qSlot b j) 8 != 0

/-- A store of 8 bytes into slot `i` of the region (R416). The block re-reads its head slot after the notice, so the job
waits there until it is taken. -/
def Chip.qStore (ch : Chip) (b : QueueBlock) (i v : Nat) : Chip := ch.store (ch.qSlot b i) (toLe 8 v) false

/-- TICKET, HEAD and every slot as the block clears them when EN is set at configuration commit (R415). (DEDUCED, log entry 116.) -/
def Chip.qClear (ch : Chip) (b : QueueBlock) : Chip :=
  ((ch.store (ch.qBase b) (zeros 16) false).store (ch.qBase b + 64) (zeros 512) false).setQHead b 0

/-- QUEUE_SLOT_STORE (R416, R417): a claimed index's job address lands in its slot, and the block is notified. -/
def execQueueSlotStore (c : ChipId) (b : QueueBlock) (slot : Fin 64) (v : Qword) (s : State) : Res :=
  onIsland s c fun ch => ch.qStore b slot.val v.toNat

/-- QUEUE_SKIP_TIMEOUT (R418): the head slot stayed 0 for SKIP_US µs while another is full: the index is skipped. -/
def execQueueSkipTimeout (c : ChipId) (b : QueueBlock) (s : State) : Res :=
  onIsland s c fun ch =>
    if ch.qEnabled b && decide (0 < ch.rd (queueRegs b).skipUs) && ch.load (ch.qSlot b (ch.qHead b)) 8 == 0 &&
        ch.qOtherFull b then
      (ch.qAdvance b).qSkip b
    else ch

end Sys2Proof.Machine
end

