-- ==== Sys2Proof/Machine/SelfTimed.lean ====
section
/-! DEFINITION. The borders of the self-timed fabric (spec/03_self_timed.md) and the Timekeeper (spec/06_ingest.md R180 to
R184, R192): crossings, clocks, pace, and the discipline of board time. -/

namespace Sys2Proof.Machine

open Sys2Proof

/-! ### Clocks (R75, R91) -/

/-- The field of DFX_CLK_RUN that holds bit `b`, and the bit's place in it. -/
def clkField (b : Nat) : Field × Nat :=
  if b < 16 then (F.DFX_CLK_RUN_DRAM, b)
  else if b = 16 then (F.DFX_CLK_RUN_PCIE, 0)
  else if b < 19 then (F.DFX_CLK_RUN_TRAIL, b - 17)
  else if b < 21 then (F.DFX_CLK_RUN_CSI, b - 19)
  else if b < 23 then (F.DFX_CLK_RUN_TDM, b - 21)
  else if b = 23 then (F.DFX_CLK_RUN_PDM, 0)
  else if b = 24 then (F.DFX_CLK_RUN_CFG, 0)
  else if b = 25 then (F.DFX_CLK_RUN_TKP, 0)
  else if b = 26 then (F.DFX_CLK_RUN_PRC, 0)
  else (F.DFX_CLK_RUN_CAN, 0)

/-- The clock of clocked domain `b` runs. -/
def Chip.clkRuns (ch : Chip) (b : Nat) : Bool := bit (ch.rd (clkField b).1) (clkField b).2

/-- STALL_LIVE follows the crossings: one of them is stalled (R86). -/
def Chip.stallSync (ch : Chip) : Chip := ch.setFlag F.DFX_XING_STAT_STALL_LIVE (ch.xings.any (·.stalled))

/-- The state of a crossing into a domain whose clock stops or starts (R92); a stall ends when the clock returns (R86). -/
def Xing.clock (x : Xing) (on : Bool) : Xing :=
  let st := if on then (if x.st = .held then XSt.run else x.st) else if x.st = .run then .held else x.st
  { x with st := st, stalled := x.stalled && !on }

/-- The clock of clocked domain `b` is stopped or started, and the crossings into it follow (R86, R92). -/
def Chip.setClk (ch : Chip) (b : Nat) (on : Bool) : Chip :=
  let f := clkField b
  let c : Chip := { ch with xings := ch.xings.map fun x => if x.dst == 256 + b then x.clock on else x }
  (c.wr f.1 (putBits (c.rd f.1) f.2 1 (bnat on))).stallSync

/-- What the crossing to PCIe holds and what waits at it leave in order once it is in Run (R82, R83, R92). -/
def Chip.pcieDeliver (ch : Chip) : Chip :=
  if ch.pcieOpen then
    let x := ch.xing ringDomain pcieDomain
    { ch.setXing ringDomain pcieDomain fun x => { x with held := [], wait := [] } with
      out := ch.out ++ x.all.filterMap fun e => match e with | .emit e => some e | _ => none }
  else ch

/-- A Trail link has something to send: flits that wait, or that leave again. -/
def Link.busy (k : Link) : Bool := !k.resend.isEmpty || k.queues.any fun q => !q.isEmpty

/-- A domain whose clock a crossing starts (R75: DRAM channels and Trail links). -/
def wakeable (b : Nat) : Bool := decide (b < 16) || b == 17 || b == 18

/-- A wake request for clocked domain `b`: a crossing into it is not empty (R85). The flits that cross into a Trail domain are
those of its link. -/
def Chip.wakeAsked (ch : Chip) (b : Nat) : Bool :=
  wakeable b && ((ch.xings.any fun x => x.dst == 256 + b && !x.held.isEmpty) ||
    (decide (17 ≤ b) && (ch.link (b - 17)).busy))

/-- CLOCK_WAKE (R85, R94): the stopped clock of a domain that a crossing asks for runs; its block takes what the crossing holds. In
Doze the rails of the block are off, and the request waits for the wake (R95). -/
def execClockWake (c : ChipId) (d : Fin 28) (s : State) : Res :=
  onChip s c fun ch =>
    if ch.wakeAsked d.val && !ch.clkRuns d.val && ch.pwr != pwrDoze then
      let c := ch.setClk d.val true
      if d.val < 16 then c.setFlag (F.MEM_CH_STAT_PD_LIVE d.val) false else c
    else ch

/-! ### Crossings (R86, R92, R95) -/

/-- A domain whose clock a crossing cannot start, and whose stall is reported (R75, R86). -/
def Chip.stallable (ch : Chip) (dst : Nat) : Bool :=
  let b := dst - 256
  decide (256 ≤ dst) && decide (dst < 284) && !wakeable b && !(decide (26 ≤ b) && ch.pos.val != 0)

/-- CROSSING_STALL_TIMEOUT (R86): a crossing into a stopped domain that cannot be woken held an entry for 10 ms. Crossings into the
sensor, TDM and PDM domains have no entries in State; for them the command is the event. (DEDUCED, log entry 85.) -/
def execCrossingStallTimeout (c : ChipId) (src : Fin 512) (dst : Fin 512) (s : State) : Res :=
  onChip s c fun ch =>
    let d := dst.val
    if ch.stallable d && !ch.clkRuns (d - 256) && (d != pcieDomain || !(ch.xing src.val d).held.isEmpty) then
      let c := (ch.setXing src.val d fun x => { x with st := .held, stalled := true }).stallSync
      let c := c.setFlag F.DFX_XING_STAT_STALL_SEEN true
      (c.wr F.DFX_XING_STAT_STALL_DOMAIN d).raise 24 (source d 0) d
    else ch

/-- A crossing whose one side enters reset: its entries are discarded; writes that wait still wait (R92). -/
def Xing.enterReset (x : Xing) : Xing :=
  { x with held := [], st := .resetWait, bothReset := x.st == .resetWait, stalled := false }

/-- One side of a crossing enters reset: `n` further entries that State does not hold are discarded with those it holds, and
counted (R92). -/
def Chip.resetXing (ch : Chip) (src dst n : Nat) : Chip :=
  let c := ch.countN F.DFX_XING_DROP_COUNT F.DFX_XING_STAT_DROP_OVF 0 (n + (ch.xing src dst).held.length)
  (c.setXing src dst Xing.enterReset).stallSync

/-- CROSSING_RESET (R86, R92): one side enters reset; the other discards what the crossing holds and counts it.
(DEDUCED, log entry 85.) -/
def execCrossingReset (c : ChipId) (src : Fin 512) (dst : Fin 512) (n : Nat) (s : State) : Res :=
  onChip s c fun ch => ch.resetXing src.val dst.val n

/-- A resync step of a crossing (R92): of two sides in reset the first leaves it; then the side that leaves last sends its request;
then the acknowledgement resumes flow, into a stopped domain as Held. -/
def Xing.resync (x : Xing) (runs : Bool) : Xing :=
  match x.st with
  | .resetWait => if x.bothReset then { x with bothReset := false } else { x with st := .resync }
  | .resync => { x with st := if runs then .run else .held }
  | _ => x

/-- The receiving domain of a crossing runs; an island always does. -/
def Chip.domRuns (ch : Chip) (dst : Nat) : Bool := decide (dst < 256) || ch.clkRuns (dst - 256)

/-- CSI_CLOCK_LANE_STOP (R75, R95): the sensor stops its clock lane. -/
def execCsiClockLaneStop (c : ChipId) (p : Fin 2) (s : State) : Res :=
  onChip s c fun ch => (ch.setClk (19 + p.val) false).setFlag (F.CSI_STAT_CLK_LIVE p.val) false

/-- CSI_CLOCK_LANE_START (R75, R83): the sensor starts its clock lane. -/
def execCsiClockLaneStart (c : ChipId) (p : Fin 2) (s : State) : Res :=
  onChip s c fun ch => (ch.setClk (19 + p.val) true).setFlag (F.CSI_STAT_CLK_LIVE p.val) true

/-! ### Pace (R87, R88, R90) -/

/-- R88 in hundredths of nominal: the row of a voltage on the table's 50 mV grid at 25, 60 and 105 °C. -/
def paceTable : List (Nat × Nat × Nat) := [(76, 70, 60), (91, 85, 72), (107, 100, 85), (120, 113, 96), (131, 124, 106)]

/-- Pace of a row of R88 at temperature `t` in 1/16 °C, in hundredths: linear between the columns, on the line through the last
two above 105 °C, and that of 25 °C below 25 °C. -/
def paceRow (r : Nat × Nat × Nat) (t : Int) : Rat :=
  let line (a b : Nat) (lo span : Int) : Rat := (a : Rat) + ((b : Rat) - a) * ((t - 16 * lo : Int) : Rat) / ((16 * span : Int) : Rat)
  if t < 16 * 25 then r.1 else if t < 16 * 60 then line r.1 r.2.1 25 35 else line r.2.1 r.2.2 60 45

/-- Pace at VDD_CORE `mv` and junction temperature `t` in 1/16 °C, 1 being nominal (R88): linear between the rows. The table covers
650 to 850 mV, where the loop keeps VDD_CORE (R90). -/
def pace (mv : Nat) (t : Int) : Rat :=
  let i := min 3 ((mv - 650) / 50)
  let row (k : Nat) : Rat := paceRow ((paceTable[k]?).getD (0, 0, 0)) t
  (row i + (row (i + 1) - row i) * (((mv - 650 : Nat) : Rat) - 50 * i) / 50) / 100

/-- The count of a pace replica at `t` (R87): its pace scaled so that nominal is 1,024, in whole counts. (DEDUCED, log entry 86.) -/
def Chip.replica (ch : Chip) (t : Int) : Nat := (pace (ch.rd F.PWR_VCORE_MV) t * 1024).floor.toNat

/-- CEIL_LIVE and FLOOR_LIVE follow the voltage and the pace. -/
def Chip.paceSync (ch : Chip) : Chip :=
  let v := ch.rd F.PWR_VCORE_MV
  let c := ch.setFlag F.PWR_PACE_STAT_CEIL_LIVE (v == 850 && decide (ch.rd F.PWR_PACE_MEAS_MEAS < ch.rd F.PWR_PACE_TARGET_TARGET))
  c.setFlag F.PWR_PACE_STAT_FLOOR_LIVE (v == 650)

/-- VDD_CORE is up and the replicas run: Run, and ENTERING, whose rails are still those of Run. (DESIGN CHOICE, log entry 137.) -/
def Chip.paceRuns (ch : Chip) : Bool := ch.pwr == pwrRun || ch.pwr == pwrEntering

/-- PACE_MEASURE (R87, R88): the replicas of the 12 pack hubs and the Common Room at their junction temperatures `temps`, in 1/16 °C,
and the hottest junction sensor. (DEDUCED, log entry 86.) (DESIGN CHOICE, log entry 137.) -/
def execPaceMeasure (c : ChipId) (temps : List (BitVec 16)) (tj : BitVec 16) (s : State) : Res :=
  onChip s c fun ch =>
    match argMin (fun (e : Nat × Nat) => e.1) (((temps.take 13).map fun t => ch.replica t.toInt).zipIdx) with
    | some m =>
      if ch.paceRuns then
        (((ch.wr F.PWR_PACE_MEAS_MEAS m.1).wr F.PWR_PACE_MEAS_SLOWEST m.2).wr F.PWR_TJ_TJ tj.toNat).paceSync
      else ch
    | none => ch

/-- PACE_LOOP_STEP (R90): the Bupin steps VDD_CORE, and reports the hundredth period at the ceiling, which lowers CAP at once
(R681, R690). -/
def execPaceLoopStep (c : ChipId) (s : State) : Res :=
  onChip s c fun ch =>
    if ch.paceRuns = false then ch
    else
      let m := ch.rd F.PWR_PACE_MEAS_MEAS
      let t := ch.rd F.PWR_PACE_TARGET_TARGET
      let v := ch.rd F.PWR_VCORE_MV
      let v := if m + 8 < t ∧ v < 850 then v + 5 else if t + 24 < m ∧ 650 < v then v - 5 else v
      let n := if v = 850 ∧ m < t then ch.ceil + 1 else 0
      let c := ({ ch with ceil := n }.wr F.PWR_VCORE_MV v).paceSync
      let cap := min (c.rd F.PWR_THERM_CAP) (8 * (m / 8))
      if n = 100 then ((c.setFlag F.PWR_PACE_STAT_CEIL_SEEN true).wr F.PWR_THERM_CAP cap).raise 22 (source 280 4) v else c

/-! ### The Timekeeper (R181, R184, R192) -/

def Chip.setTkp (ch : Chip) (x : Tkp) : Chip := { ch with tkp := x }

/-- SLEW_LIVE follows the error left. -/
def Chip.slewSync (ch : Chip) : Chip := ch.setFlag F.TKP_STAT_SLEW_LIVE (decide (1 < ch.tkp.slew.natAbs))

/-- The level R184 gives sen_fsync of a port. -/
def Chip.fsyncAt (ch : Chip) (p : Nat) : Bool :=
  let per := ch.rd (F.TKP_FSYNC_PER_PERIOD p)
  let ph := ch.rd (F.TKP_FSYNC_PH_PHASE p)
  decide (per ≠ 0) && decide (ph ≤ ch.now) && decide ((ch.now - ph) % per < min 10000 (per / 2)) &&
    ch.rd F.TKP_STAT_STATE != 0

/-- Pin numbers of sen_fsync in the log of driven pins. -/
def pinFsync (p : Nat) : Nat := 20 + p

/-- sen_fsync of a port takes its level. -/
def Chip.fsync (ch : Chip) (p : Nat) : Chip :=
  let v := ch.fsyncAt p
  if ch.tkp.fsync[p]? = some v then ch
  else (ch.setTkp { ch.tkp with fsync := updAt ch.tkp.fsync p fun _ => v }).emit (.pin (pinFsync p) v)

/-- SEN_FSYNC_EDGE (R184). -/
def execSenFsyncEdge (c : ChipId) (p : Fin 2) (s : State) : Res := onChip s c fun ch => ch.fsync p.val

/-- An edge of board_sync at the expected time `t` (R181, R192). (DEDUCED, log entry 87.) -/
def Chip.syncEdge (ch : Chip) (t : Nat) : Chip :=
  if ch.rd F.TKP_STAT_STATE = 0 then
    (((ch.setTkp { ch.tkp with slew := 0 }).wr F.TKP_NOW_TIME t).wr F.TKP_STAT_STATE 1).setFlag F.TKP_STAT_SYNC_LIVE true
  else
    let e : Int := (ch.now : Int) - t
    let big := decide (1000 < e.natAbs)
    let c := ch.wr F.TKP_SYNC_ERR_E (usgn 16 (clampI (-32767) 32767 e))
    let m := min 32767 e.natAbs
    let c := if c.rd F.TKP_SYNC_MAX_MAX < m then c.wr F.TKP_SYNC_MAX_MAX m else c
    let c := (c.wr F.TKP_STAT_STATE 1).setFlag F.TKP_STAT_SYNC_LIVE true
    let c := if big && decide (e < 0) then
        (((c.wr F.TKP_NOW_TIME t).setFlag F.TKP_STAT_STEP_SEEN true).msix 129).setTkp { c.tkp with slew := 0 }
      else c.setTkp { c.tkp with slew := e }
    let c := c.slewSync
    if big then c.raise 18 (source 281 0) (c.rd F.TKP_SYNC_ERR_E) else c

/-- BOARD_SYNC_EDGE (R27, R181, R192): the edge of the last whole millisecond of the Bupin's board time. (DEDUCED, log entry 87.) -/
def execBoardSyncEdge (c : ChipId) (s : State) : Res :=
  onChip s c fun ch => ch.syncEdge (s.tray.now / 1000000 * 1000000)

/-- SYNC_LOSS_TIMEOUT (R182, R192): 3 ms without an edge. -/
def execSyncLossTimeout (c : ChipId) (s : State) : Res :=
  onChip s c fun ch =>
    if ch.rd F.TKP_STAT_STATE = 1 then
      let c := ((ch.wr F.TKP_STAT_STATE 2).setFlag F.TKP_STAT_SYNC_LIVE false).setFlag F.TKP_STAT_LOSS_SEEN true
      (c.msix 129).raise 18 (source 281 0) (c.rd F.TKP_SYNC_ERR_E)
    else ch

/-- One nanosecond passes at a chip whose Timekeeper runs; `t` is the tray's time. At each microsecond it slews by 1 ns: it
counts 2, or holds (R181). (DESIGN CHOICE, log entry 2.) -/
def Chip.tick (ch : Chip) (t : Nat) : Chip :=
  if ch.rd F.TKP_STAT_STATE = 0 then ch
  else
    let e := ch.tkp.slew
    let slews := decide (t % 1000 = 0) && decide (1 < e.natAbs)
    let d := if slews then (if 0 < e then 0 else 2) else 1
    let e := if slews then (if 0 < e then e - 1 else e + 1) else e
    let c := ((ch.wr F.TKP_NOW_TIME (ch.now + d)).setTkp { ch.tkp with slew := e }).slewSync
    (c.fsync 0).fsync 1

end Sys2Proof.Machine
end

