-- ==== Sys2Proof/Machine/TrayOps.lean ====
section
/-! DEFINITION. The Bupin's shared operations (spec/01_tray.md, spec/22_trust.md, spec/23_bupin.md): its logs, replies, records
mirrored on the chips, pins and connector supplies. -/

namespace Sys2Proof.Machine

open Sys2Proof

/-- The tray changed by `f`. -/
def State.modTray (s : State) (f : Tray → Tray) : State := { s with tray := f s.tray }

/-- A command that may act on a chip held in reset. -/
def onHeld (s : State) (c : ChipId) (f : Chip → Chip) : Res := .next (s.modChip c f)

/-- The chips a CHIPS byte names. -/
def chipsOf (m : Nat) : List ChipId := chipIds.filter fun c => bit m c.val

/-- `f` for each chip, in order. -/
def State.eachChip (s : State) (cs : List ChipId) (f : Chip → Chip) : State := cs.foldl (fun (s : State) c => s.modChip c f) s

/-! ### Logs (R686, R688) -/

def genLogSize : Nat := 4096
def secLogSize : Nat := 2048

/-- An entry written; a full log loses its oldest one. -/
def BLog.add (l : BLog) (cap : Nat) (e : LogEnt) : BLog :=
  if l.ents.length < cap then { l with ents := l.ents ++ [e], next := l.next + 1 }
  else { ents := l.ents.drop 1 ++ [e], next := l.next + 1, lost := l.lost + 1 }

/-- A general-log entry. (DESIGN CHOICE, log entry 33.) -/
def Tray.logGen (t : Tray) (code chip : Nat) (data : List Byte) : Tray :=
  { t with log := t.log.add genLogSize ⟨t.now, t.starts, code, chip, padTo 16 data⟩ }

/-- A secure-log entry of a refusal (R648): source, CMD, SLOT, COUNTER and reason. (DESIGN CHOICE, log entry 25.) -/
def Tray.logRefusal (t : Tray) (src cmd slot counter reason : Nat) : Tray :=
  let data := toLe 1 src ++ toLe 1 cmd ++ toLe 1 slot ++ toLe 8 counter ++ toLe 1 reason
  { t with slog := t.slog.add secLogSize ⟨t.now, t.starts, 1, if src < 4 then src else 0xFF, padTo 16 data⟩ }

/-- The bytes of an entry (R688). (DESIGN CHOICE, log entry 33.) -/
def LogEnt.bytes (e : LogEnt) : List Byte :=
  toLe 8 e.time ++ toLe 4 e.starts ++ toLe 1 e.code ++ toLe 1 e.chip ++ zeros 2 ++ padTo 16 e.data

/-- Entries from `index` on, at most `n`; an index older than the oldest entry starts there (R690). -/
def BLog.read (l : BLog) (index n : Nat) : List LogEnt := (l.ents.drop (index - (l.next - l.ents.length))).take n

/-! ### Transports and replies (R677, R678) -/

def isUart : Transport → Bool
  | .smbus _ => false
  | .uart => true

/-- The Bupin's 7-bit SMBus address, 0x48 + 2·smb_addr1 + smb_addr0 as the last cold start sampled them (R38). -/
def Tray.smbusAddr (t : Tray) : Nat := 0x48 + t.straps.smbAddr.toNat

/-- The Bupin hears a request on a transport: it runs, and the request is at its SMBus address, or the service UART has its cable
(R38, R48). -/
def Tray.hears (t : Tray) (tr : Transport) : Bool :=
  t.power != .off && match tr with
    | .smbus a => a.toNat == t.smbusAddr
    | .uart => t.present

/-- DESIGN CHOICE, log entry 6. -/
def Tray.emit (t : Tray) (e : Emit) : Tray := { t with out := t.out ++ [e] }

/-- A Wygus reply: Vendor ID, CODE, STATUS and fields. (DESIGN CHOICE, log entry 6.) -/
def Tray.reply (t : Tray) (uart : Bool) (code status : Nat) (fields : List Byte) : Tray :=
  t.emit (.mgmt uart ([0x1E#8, 0x6B#8] ++ toLe 1 code ++ toLe 1 status ++ fields))

/-- STATUS values of R678. -/
def mgOk : Nat := 0
def mgBadReq : Nat := 1
def mgBusy : Nat := 2
def mgNotAllowed : Nat := 3
def mgAuthRefused : Nat := 4

/-- A management request that changes the tray's state by `f`. -/
def onMgmt (s : State) (tr : Transport) (f : State → State) : Res :=
  .next (if s.tray.hears tr then f s else s)

/-- Pins the Bupin drives, by number. -/
def pinAlert : Nat := 30
def pinWake : Nat := 31

/-- tray_wake_n low for 10 ms (R622). -/
def Tray.pulseWake (t : Tray) : Tray :=
  ({ t with wakeUntil := some (t.now + 10000000) } : Tray).emit (.pin pinWake false)

/-! ### Chips as the Bupin keeps them -/

def State.bup (s : State) (c : ChipId) : BupChip := (s.tray.chips[c.val]?).getD BupChip.reset

def State.modBup (s : State) (c : ChipId) (f : BupChip → BupChip) : State :=
  s.modTray fun t => { t with chips := updAt t.chips c.val f }

/-! ### Banks (R644, R672) -/

def bkEmpty : Nat := 0
def bkValid : Nat := 1
def bkPending : Nat := 2
def bkTrial : Nat := 3
def bkActive : Nat := 4

def Tray.bank (t : Tray) (i : Nat) : Bank := (t.banks[i]?).getD Bank.empty

def Tray.setBank (t : Tray) (i : Nat) (b : Bank) : Tray := { t with banks := updAt t.banks i fun _ => b }

def Tray.bankSt (t : Tray) (i st : Nat) : Tray := t.setBank i { t.bank i with st := st }

/-- The bank in TRIAL. -/
def Tray.trial (t : Tray) : Option Nat := findIdx (fun b => b.st == bkTrial) t.banks

/-- The bank that the Bupin runs from: the active bank (R644). (DEDUCED, log entry 39.) -/
def Tray.running (t : Tray) : Nat :=
  match t.trial with
  | some i => i
  | none => (findIdx (fun b => b.st == bkActive) t.banks).getD 0

/-- The code bank fails its verification. -/
def Tray.bankBad (t : Tray) (i : Nat) : Bool := (t.bank i).st == bkEmpty || (if i = 0 then t.pins.badA else t.pins.badB)

/-! ### Records mirrored on the chips (spec/22_trust.md, Set-up registers) -/

/-- The fields whose reset reads "Record", and the others that follow the Bupin, on one chip. -/
def Tray.mirror (t : Tray) (ch : Chip) : Chip :=
  let ver (i : Nat) : Nat := if (t.bank i).st = bkEmpty then 0 else (t.bank i).version
  let svn (i : Nat) : Nat := if (t.bank i).st = bkEmpty then 0 else (t.bank i).svn
  let c := (ch.wr F.LCS_STATE_STATE t.lcs).setFlag F.LCS_STATE_PEND_LIVE t.lcsTarget.isSome
  let c := (c.wr F.LCS_STATE_TARGET (t.lcsTarget.getD 0)).wr F.LCS_PEND_TIME_TIME (if t.lcsTarget.isSome then t.lcsTime else 0)
  let c := (c.setFlag F.AUTH_STAT_BUSY t.auth.isSome).wr F.AUTH_SLOTS_LOADED
    (t.keys.foldr (fun k a => bnat k.isSome + 2 * a) 0)
  let c := c.wr F.AUTH_SERIAL_SERIAL t.serial
  let c := t.last.zipIdx.foldl (fun (c : Chip) e => c.wr (F.AUTH_LAST_LAST e.2) e.1) c
  let c := (c.wr F.FWU_STAT_ACTIVE t.running).setFlag F.FWU_STAT_TRIAL_LIVE t.trial.isSome
  let c := (c.setFlag F.FWU_STAT_FALLBACK_SEEN t.fallback).wr F.FWU_FLOOR_SVN t.floor
  let c := (c.wr F.FWU_BANK_A (t.bank 0).st).wr F.FWU_BANK_B (t.bank 1).st
  let c := (c.wr (F.FWU_VER_VERSION 0) (ver 0)).wr (F.FWU_VER_VERSION 1) (ver 1)
  let c := (c.wr (F.FWU_SVN_SVN 0) (svn 0)).wr (F.FWU_SVN_SVN 1) (svn 1)
  (c.wr F.PWR_BUP_EID t.eid).setFlag F.PWR_BUP_UART_LIVE t.present

/-- Every chip shows the Bupin's records. -/
def State.mirror (s : State) : State := s.modAll fun _ ch => s.tray.mirror ch

/-! ### Connector supplies (R31, R32) -/

def supOn : Nat := 1
def supOff : Nat := 2
def supTripped : Nat := 3

/-- What PWR_SUPPLY of a chip reads. -/
def Chip.supplyReg (ch : Chip) : Nat :=
  ch.rd F.PWR_SUPPLY_SEN + 4 * ch.rd F.PWR_SUPPLY_VBANK + 8 * ch.rd F.PWR_SUPPLY_SV

/-- The chip and PWR_SUPPLY bit of supply `n`: 0 to 7 sen_3v3, 8 to 11 vbank, 12 sv_3v3. -/
def supplyBit (n : Nat) : Nat × Nat := if n < 8 then (n / 2, n % 2) else if n < 12 then (n - 8, 2) else (0, 3)

/-- Supply `n` should be on: 12 V is in order, what SUPPLY or PWR_SUPPLY directs, and its chip is not in Doze, where vbank of bank
0 and sv_3v3 stay. -/
def State.supplyWanted (s : State) (n : Nat) : Bool :=
  let b := supplyBit n
  let doze := (s.chip (Fin.ofNat 4 b.1)).rd F.PWR_STATE_STATE == 2
  let want := match (s.tray.supplies[n]?).bind (·.force) with
    | some f => f
    | none => bit ((s.tray.supReg[b.1]?).getD 0) b.2
  s.tray.power == .powered && want && !(doze && n != 8 && n != 12)

/-- Every supply follows what directs it; a tripped one stays off. -/
def State.supplySync (s : State) : State :=
  let next (n : Nat) (x : ConnSupply) : ConnSupply :=
    let want := s.supplyWanted n
    if x.st = supTripped then x
    else if want then (if x.st = supOn then x else { x with st := supOn, since := s.tray.now })
    else { x with st := supOff }
  s.modTray fun t => { t with supplies := t.supplies.zipIdx.map fun e => next e.2 e.1 }

/-- The Bupin follows the value PWR_SUPPLY of a chip takes (R32). -/
def State.supplyFollow (s : State) (c : ChipId) : State :=
  (s.modTray fun t => { t with supReg := updAt t.supReg c.val fun _ => (s.chip c).supplyReg }).supplySync

/-- sen_rst_n of sensor row `n` is driven low while its supply is off and for 1 ms after it comes on (R696). -/
def Tray.senRstLow (t : Tray) (n : Nat) : Bool :=
  match t.supplies[n]? with
  | some x => x.st != supOn || decide (t.now < x.since + 1000000)
  | none => true

/-! ### The retirement record (R521) -/

/-- The rank states of a record, four bits each. -/
def recordBytes (r : List (Nat × Nat)) : List Byte := toLe 16 (r.foldr (fun e a => e.1 + 16 * a) 0)

/-- A command of chip `c` that may send rank states to the Bupin, which logs them. -/
def logRanks (c : ChipId) (s t : State) : State :=
  if (s.chip c).mc.record = (t.chip c).mc.record then t
  else t.modTray fun x => x.logGen 12 c.val (recordBytes (t.chip c).mc.record)

end Sys2Proof.Machine
end

