-- ==== Sys2Proof/Machine/CfgOps.lean ====
section
/-! DEFINITION. The stored configuration (spec/22_trust.md R659 to R662, R668): its checks, its copies, and what commit and the
start of a chip do with it. -/

namespace Sys2Proof.Machine

open Sys2Proof

/-! ### The rules that refuse a commit -/

/-- The time in µs that a frame of `content` bytes is charged (R467). -/
def canTime (content : Nat) : Nat := 34 + (24 * (8 * canLen (content + 4) + 55) + 99) / 100

/-- Sixty times the bus load of a bus, in which every BATCH divides; the TIME frame costs t(20) / 10 (R467). -/
def Chip.busLoad60 (ch : Chip) (bus : Nat) : Nat :=
  ((List.range 8).filter fun h => ch.flag (F.COA_HCFG_EN h) && ch.rd (F.COA_HCFG_BUS h) == bus && decide (ch.batch h ≠ 0)).foldl
    (fun a h => a + 60 * (canTime (16 + 4 * ch.nax h * ch.batch h) + canTime (16 + 4 * ch.nax h)) / ch.batch h) (6 * canTime 16)

/-- The capsule of head `h` leaves the occupancy volume at some combination of its rail and lift limits (R444, R447). -/
def Chip.leavesVolume (ch : Chip) (h : Nat) : Bool :=
  let lims (k : Nat) : List Int := match ch.axisOf h k with
    | some a => [ch.rdI (F.COA_AMIN_LIMIT h a), ch.rdI (F.COA_AMAX_LIMIT h a)]
    | none => [0]
  let pos (r l : Int) : List Int := (List.range (ch.nax h)).map fun a =>
    if ch.axisOf h kindRail = some a then r else if ch.axisOf h kindLift = some a then l else 0
  let org (a : Nat) : Rat := (ch.rdI (F.COA_OCT_ORG_XYZ a) : Int)
  (lims kindRail).any fun r => (lims kindLift).any fun l =>
    let c := ch.body h (pos r l)
    decide (c.x - c.r < org 0) || decide (org 0 + 16000 < c.x + c.r) || decide (c.y - c.r < org 1) ||
      decide (org 1 + 16000 < c.y + c.r) || decide (c.zlo - c.r < org 2) || decide (org 2 + 4000 < c.zhi + c.r)

/-- Head `h` breaks R444: a bad axis, a second rail or lift, its volume, or NAX × BATCH. -/
def Chip.headBad (ch : Chip) (h : Nat) : Bool :=
  let n := ch.nax h
  let axes := List.range (min n 4)
  let count (k : Nat) : Nat := (axes.filter fun a => ch.rd (F.COA_ACFG_KIND h a) == k).length
  ch.flag (F.COA_HCFG_EN h) &&
    ((axes.any fun a =>
        ch.rd (F.COA_ACFG_KIND h a) == 0 || ch.rd (F.COA_AV_VMAX h a) == 0 || ch.rd (F.COA_AA_AMAX h a) == 0 ||
        ch.rd (F.COA_AJ_JMAX h a) == 0 || ch.rd (F.COA_AF_FOLLOW h a) == 0 ||
        decide (ch.rdI (F.COA_AMAX_LIMIT h a) < ch.rdI (F.COA_AMIN_LIMIT h a))) ||
      decide (1 < count kindRail) || decide (1 < count kindLift) || decide (11 < n * ch.batch h) || ch.leavesVolume h)

/-- A TDM lane that R267 refuses. -/
def Chip.laneBad (ch : Chip) (l : Nat) : Bool :=
  let mode := ch.rd (F.AUD_LANE_MODE l)
  let slots := ch.rd (F.AUD_LANE_SLOTS l)
  let w := ch.rd (F.AUD_LANE_WIDTH l)
  ch.flag (F.AUD_LANE_EN l) &&
    (decide (slots < 2) || decide (16 < slots) || (mode == 0 && slots != 2) || mode == 3 || w == 3 ||
      decide (512 < slots * (16 + 8 * w)))

/-- The Latch window leaves its space while it is enabled (R564). -/
def Chip.winBad (ch : Chip) : Bool :=
  let size := if ch.flag F.LAT_WIN_SPACE then crSize else ch.usable
  ch.flag F.LAT_WIN_EN && decide (size < ch.rd F.LAT_WIN_BASE * 2 ^ 15 + 2 ^ 15)

/-- Reservations of R502 in bytes. -/
def Chip.reserved (ch : Chip) : Nat :=
  (ch.rd F.ANX_SIZE_MIB + ch.rd F.GBK_CFG_STORE + ch.rd F.AUD_CFG_POOL + 8 * ch.rd F.KEN_CFG_BANK + 64 * ch.rd F.DEC_CFG_POOL) * MiB

/-- A queue region that lies beyond the Common Room (R441). -/
def Chip.queueBad (ch : Chip) (b : QueueBlock) : Bool := decide (crBase + crSize < ch.qBase b + 576)

/-- Every rule that refuses a commit, with the register it names, in ascending offset but for the sum of the reservations. -/
def Chip.cfgRules (ch : Chip) : List (Nat × Bool) :=
  let fs (i : Nat) : Bool := decide (1 ≤ ch.rd (F.TKP_FSYNC_PER_PERIOD i)) && decide (ch.rd (F.TKP_FSYNC_PER_PERIOD i) ≤ 19)
  [((F.TKP_FSYNC_PER_PERIOD 0).reg, fs 0), ((F.TKP_FSYNC_PER_PERIOD 1).reg, fs 1),
    (F.KEN_CFG_BANK.reg, decide (256 < ch.rd F.KEN_CFG_BANK)),
    (F.DEC_CFG_POOL.reg, decide (100 < ch.rd F.DEC_CFG_CONCEAL_MAX) || decide (100 < ch.rd F.DEC_CFG_ADMIT)),
    ((F.AUD_LANE_EN 0).reg, ch.laneBad 0),
    ((F.AUD_LANE_EN 1).reg, ch.laneBad 1 || (ch.flag (F.AUD_LANE_EN 1) && ch.flag F.AUD_PDM_EN)),
    (F.PRC_TH_PRE_TH.reg, decide (ch.rd F.PRC_TH_WAKE_TH < ch.rd F.PRC_TH_PRE_TH)),
    (F.PRC_WAKE_DEFER.reg, decide (1500 < ch.rd F.PRC_WAKE_DEFER)),
    (F.ANX_SIZE_MIB.reg, decide (ch.rd F.ANX_SIZE_MIB % 12 ≠ 0)),
    (F.GBK_TCFG_FPS.reg, ch.rd F.GBK_TCFG_FPS == 0 || decide (100 < ch.rd F.GBK_TCFG_FPS)),
    (F.ADP_CFG_DUTY.reg, decide (100 < ch.rd F.ADP_CFG_DUTY)),
    (F.SIV_Q_BASE_EN.reg, ch.queueBad .sieve), (F.HND_Q_BASE_EN.reg, ch.queueBad .hound),
    (F.COA_Q_BASE_EN.reg, ch.queueBad .coachman)] ++
  ((List.range 8).map fun h => ((F.COA_HCFG_EN h).reg, ch.headBad h)) ++
  [((F.COA_HCFG_BUS 0).reg, decide (42000 < ch.busLoad60 0) || decide (42000 < ch.busLoad60 1)),
    (F.SEN_CTL_AHEAD_MS.reg, ch.rd F.SEN_CTL_GEN_GRACE == 0 || decide (5 < ch.rd F.SEN_CTL_GEN_GRACE) ||
      decide (ch.rd F.SEN_CTL_AHEAD_MS < 8) || decide (64 < ch.rd F.SEN_CTL_AHEAD_MS)),
    (F.MEM_GCFG_SPARES.reg, ch.rd F.MEM_GCFG_SPARES == 3),
    (F.MEM_SCHED_WHI.reg, ch.rd F.MEM_SCHED_WHI != 0 && decide (ch.rd F.MEM_SCHED_WHI ≤ ch.rd F.MEM_SCHED_WLO)),
    (F.MEM_TRAIN_PERIOD.reg, ch.rd F.MEM_TRAIN_PERIOD == 0),
    (F.MEM_SCRUB_HOURS.reg, decide (24 < ch.rd F.MEM_SCRUB_HOURS)),
    (F.MEM_RETIRE_CE_N.reg, ch.rd F.MEM_RETIRE_CE_N != 0 && ch.rd F.MEM_RETIRE_WIN_S == 0),
    (F.LAT_WIN_EN.reg, ch.winBad), (F.TRL_DMA_Q_BASE_EN.reg, ch.queueBad .dma),
    (F.FCU_WDOG_PERIOD.reg, ch.rd F.FCU_WDOG_PERIOD == 0)] ++
  ((List.range 34).map fun r => ((F.FCU_ROW_W r).reg, ch.rd (F.FCU_ROW_W r) == 0)) ++
  [(F.ANX_SIZE_MIB.reg, decide (ch.usable < ch.reserved))]

/-- The register that a commit is refused for. (DESIGN CHOICE, log entry 34.) -/
def Chip.cfgBad (ch : Chip) : Option Nat := (ch.cfgRules.find? fun r => r.2).map (·.1)

/-- CFG_INVALID for a register (row 31). (DESIGN CHOICE, log entry 34.) -/
def Chip.cfgInvalid (ch : Chip) (off : Nat) : Chip := ch.raise 31 (source 280 0) off

/-! ### What a commit does on a chip (R661) -/

/-- The TDM and PDM clocks follow their enables and the power state (R75, R266). -/
def Chip.audioClocks (ch : Chip) (on : Bool) : Chip :=
  let e0 := on && ch.flag (F.AUD_LANE_EN 0)
  let e1 := on && ch.flag (F.AUD_LANE_EN 1)
  let p := on && ch.flag F.AUD_PDM_EN
  (((ch.setClk 21 e0).setClk 22 e1).setClk 23 p).wr F.AUD_STAT_RUN (bnat e0 + 2 * bnat e1 + 4 * bnat p)

/-- At commit a source that starts, stops, or gives its channels to another has no history: what lies before its start reads 0,
and the decimator settles anew (R240, R248). `run` is AUD_STAT.RUN before. -/
def Chip.audioHist (ch : Chip) (run : Nat) : Chip :=
  let now := ch.rd F.AUD_STAT_RUN
  let stays (b : Nat) : Bool := bit run b && bit now b
  let keep (k : Nat) : Bool := if k < 16 then stays 0 else stays 1 || stays 2
  let a := ch.media.audio
  let a : Audio := { a with
    hist := a.hist.filter fun e => keep e.1
    settle := if stays 2 then a.settle else 0
    pdm := if stays 2 then a.pdm else [] }
  { ch with media := { ch.media with audio := a } }

/-- PRC_CTL.ENABLE at commit: E0's Porch starts, goes on, or is OFF (R264). -/
def Chip.porchCommit (ch : Chip) : Chip :=
  if ch.pos.val ≠ 0 then ch
  else if ch.flag F.PRC_CTL_ENABLE then (if ch.rd F.PRC_STAT_STATE = 0 then ch.wr F.PRC_STAT_STATE 1 else ch)
  else
    let c : Chip := { ch with media := { ch.media with porch := { ch.media.porch with run := 0, refract := 0 } } }
    (c.wr F.PRC_STAT_STATE 0).setFlag F.PRC_STAT_PRE_LIVE false

/-- RWL fields locked, and the actions other chapters tie to commit: the reservations (R502), the Annex (R302, R330), the work
queues (R415), the audio clocks (R239), the Porch (R264), COA_CFG_CRC and DEMAND (R681). (DEDUCED, log entry 37.) -/
def Chip.commitActs (ch : Chip) : Chip :=
  let c := ch.setFlag F.CFG_STAT_LOCKED true
  let c := c.wr F.MEM_RESERVED_OFFSET (c.usable - c.reserved)
  let c := (List.range 12).foldl (fun (c : Chip) p =>
    let i := c.inn p
    if i.annex = [] ∧ i.annexFree = [] ∧ i.annexNext = 0 then c
    else c.setInn p { i with annex := [], annexFree := [], annexNext := 0, fullRaised := false }) c
  let c := [QueueBlock.sieve, .hound, .coachman, .dma].foldl (fun (c : Chip) b =>
    if c.flag (queueRegs b).en then c.qClear b else c) c
  let c := ((c.audioClocks true).audioHist (ch.rd F.AUD_STAT_RUN)).porchCommit
  let c := c.wr F.COA_CFG_CRC_CRC c.coaCfgCrc
  c.wr F.PWR_THERM_DEMAND (c.rd F.PWR_PACE_TARGET_TARGET)

/-- RWL and RW fields of a register dword take a stored value. (DEDUCED, log entry 36.) -/
def Chip.applyEntry (ch : Chip) (off v : Nat) : Chip :=
  match findReg off with
  | some h =>
    (h.fam.fields.filter fun s => s.acc == .rwl || s.acc == .rw).foldl (fun (c : Chip) s =>
      let lo := s.lo - 32 * h.dw
      if s.lo < 32 * h.dw + 32 ∧ 32 * h.dw < s.lo + s.width then
        if 32 * h.dw ≤ s.lo then
          c.wr (h.field s) (putBits (c.rd (h.field s)) 0 (min s.width (32 - lo)) (v / 2 ^ lo))
        else c.wr (h.field s) (putBits (c.rd (h.field s)) (32 * h.dw - s.lo) (s.lo + s.width - 32 * h.dw) v)
      else c) ch
  | none => ch

/-! ### Copies (R660, R668) -/

/-- An entry: chip, offset and value. -/
structure CfgEnt where
  chip : Nat
  off : Nat
  value : Nat
  deriving DecidableEq, Repr

/-- A copy as bytes, with its CRC and MAC. -/
def cfgBytes (format seq : Nat) (es : List CfgEnt) : List Byte :=
  let body := es.flatMap fun e => toLe 3 e.off ++ toLe 1 e.chip ++ toLe 4 e.value
  let mk (crc : Nat) (mac : List Byte) : List Byte :=
    toLe 4 0x46434C4F ++ toLe 2 format ++ zeros 2 ++ toLe 4 seq ++ toLe 4 es.length ++ toLe 4 crc ++ zeros 12 ++ mac ++ zeros 16 ++ body
  let crc := crc32c (mk 0 (zeros 16))
  mk crc ((hmac256 Config.cfgKey (mk crc (zeros 16))).take 16)

def cfgFormat (b : List Byte) : Nat := fieldAt b 4 2
def cfgSeq (b : List Byte) : Nat := fieldAt b 8 4

def cfgEntries (b : List Byte) : List CfgEnt :=
  (List.range (fieldAt b 12 4)).map fun i => ⟨fieldAt b (67 + 8 * i) 1, fieldAt b (64 + 8 * i) 3, fieldAt b (68 + 8 * i) 4⟩

/-- Entries stand in strictly ascending (CHIP, OFFSET) order. -/
def ascending : List CfgEnt → Bool
  | a :: b :: t => (decide (a.chip < b.chip) || (a.chip == b.chip && decide (a.off < b.off))) && ascending (b :: t)
  | _ => true

/-- A copy is valid under firmware of format `run` (R660). -/
def cfgValid (run : Nat) (b : List Byte) : Bool :=
  fieldAt b 0 4 == 0x46434C4F && decide (cfgFormat b ≤ run) && decide (fieldAt b 12 4 ≤ 8192) &&
    b.length == 64 + 8 * fieldAt b 12 4 && ascending (cfgEntries b) && ((cfgEntries b).all fun e => decide (e.chip ≤ 3)) &&
    b == cfgBytes (cfgFormat b) (cfgSeq b) (cfgEntries b)

/-- CFG_FORMAT of the running firmware. -/
def Tray.runFormat (t : Tray) : Nat := (t.bank t.running).cfgFormat

/-- The selected copy: its slot and bytes (R660). -/
def Tray.selected (t : Tray) : Option (Nat × List Byte) :=
  let a := (t.copies[0]?).getD []
  let b := (t.copies[1]?).getD []
  match cfgValid t.runFormat a, cfgValid t.runFormat b with
  | true, true => if cfgSeq a < cfgSeq b then some (1, b) else some (0, a)
  | true, false => some (0, a)
  | false, true => some (1, b)
  | false, false => none

/-- Entries of the selected copy as they are applied: migrated where its format is below the firmware's (R662), with how many were
dropped for chip `c`. -/
def Tray.migrate (t : Tray) (b : List Byte) : List CfgEnt :=
  if cfgFormat b < t.runFormat then
    ((cfgEntries b).filter fun e => rwlMask e.off != 0).map fun e => { e with value := e.value &&& rwlMask e.off }
  else cfgEntries b

def Tray.skipped (t : Tray) (b : List Byte) (c : ChipId) : Nat :=
  if cfgFormat b < t.runFormat then ((cfgEntries b).filter fun e => e.chip == c.val && rwlMask e.off == 0).length else 0

/-- The Steward applies its chip's entries, checks them and locks (R659); without a copy, or where the check fails, the chip
starts with reset values, unlocked. (DEDUCED, log entry 36.) -/
def Chip.cfgApply (ch : Chip) (t : Tray) : Chip :=
  let ch := ch.wr F.CFG_FORMAT_RUN t.runFormat
  match t.selected with
  | none => ch
  | some (slot, b) =>
    let c := ((t.migrate b).filter fun e => e.chip == ch.pos.val).foldl (fun (c : Chip) e => c.applyEntry e.off e.value) ch
    let c := (c.csiLanes 0).csiLanes 1
    let info (c : Chip) : Chip :=
      let c := c.countN F.CFG_SKIP_COUNT F.CFG_STAT_OVF 0 (t.skipped b ch.pos)
      (c.wr F.CFG_FORMAT_STORED (cfgFormat b)).setFlag F.CFG_STAT_MIGRATED_LIVE (decide (cfgFormat b < t.runFormat))
    match c.cfgBad with
    | some off => (info ch).cfgInvalid off
    | none => (((info c).wr F.CFG_STAT_SRC (slot + 1)).wr F.CFG_SEQ_SEQ (cfgSeq b)).commitActs

/-- A field of the map that a commit locks. -/
def isRwl (key : Nat) : Bool :=
  match findReg (key / 64 / 4 * 4) with
  | some h => h.fam.fields.any fun s => s.acc == .rwl && h.base * 64 + s.lo == key
  | none => false

/-- The configuration leaves a chip that no firmware reached: its RWL fields at their reset values, unlocked (R120, R659). -/
def Chip.cfgDrop (ch : Chip) : Chip :=
  let c : Chip := { ch with regs := ch.regs.filter fun e => !isRwl e.1 }
  let c := ((c.setFlag F.CFG_STAT_LOCKED false).wr F.CFG_STAT_SRC 0).wr F.CFG_SEQ_SEQ 0
  let c := ((c.wr F.MEM_RESERVED_OFFSET c.usable).wr F.PRC_STAT_STATE 0).audioClocks false
  (c.wr F.CFG_FORMAT_RUN 0).wr F.CFG_FORMAT_STORED 0

/-- The entries a commit stores for chip `c` (R659). (DESIGN CHOICE, log entry 27.) -/
def Chip.cfgSave (ch : Chip) : List CfgEnt := rwlRegs.map fun o => ⟨ch.pos.val, o, ch.regDword o⟩

end Sys2Proof.Machine
end

