-- ==== Sys2Proof/Machine/Units.lean ====
section
/-! DEFINITION. The arithmetic units of a core (R346 to R349, R360): the ports of a core, ALU, MUL, VEC and DEC, each
operation a function of its operand ports, and the commands that trigger one operation. -/

namespace Sys2Proof.Machine

open Sys2Proof

/-! ### Cores and ports -/

/-- Location code of port `n` of unit `u` (R378). -/
def portCode (u n : Nat) : Nat := 0x100 + 0x20 * u + n

/-- A core of the chip. -/
def Chip.getCore (ch : Chip) : CoreId → Core
  | .pe p n => ch.core p.val n.val
  | .steward => ch.fab.steward.core

/-- The chip with a core replaced. -/
def Chip.putCore (ch : Chip) (k : CoreId) (x : Core) : Chip :=
  match k with
  | .pe p n => ch.setCore p.val n.val x
  | .steward => { ch with fab := { ch.fab with steward := { ch.fab.steward with core := x } } }

/-- A 64-bit port. -/
def Core.q (k : Core) (code : Nat) : Qword := Tab.get 0 k.port code

def Core.setQ (k : Core) (code : Nat) (v : Qword) : Core := { k with port := Tab.set 0 k.port code v }

/-- A 512-bit port. -/
def Core.w (k : Core) (code : Nat) : Vec := Tab.get 0 k.vport code

def Core.setW (k : Core) (code : Nat) (v : Vec) : Core := { k with vport := Tab.set 0 k.vport code v }

/-- A command that triggers one operation of a core. -/
def onCore (s : State) (c : ChipId) (k : CoreId) (f : Core → Core) : Res :=
  onIsland s c fun ch => ch.putCore k (f (ch.getCore k))

/-! ### ALU (R347) -/

def b2q (b : Bool) : Qword := if b then 1 else 0

/-- Trailing zeros below width `w`. -/
def ctz : Nat → Nat → Nat
  | 0, _ => 0
  | w + 1, v => if v % 2 = 1 then 0 else 1 + ctz w (v / 2)

/-- ALU ADD (R347). -/
def aluAdd (a b : Qword) : Qword := a + b
/-- ALU SUB (R347). -/
def aluSub (a b : Qword) : Qword := a - b
/-- ALU AND (R347). -/
def aluAnd (a b : Qword) : Qword := a &&& b
/-- ALU OR (R347). -/
def aluOr (a b : Qword) : Qword := a ||| b
/-- ALU XOR (R347). -/
def aluXor (a b : Qword) : Qword := a ^^^ b
/-- ALU ANDN (R347). -/
def aluAndn (a b : Qword) : Qword := a &&& ~~~b
/-- ALU SHL (R347). -/
def aluShl (a b : Qword) : Qword := a <<< (b.toNat % 64)
/-- ALU SHR (R347). -/
def aluShr (a b : Qword) : Qword := a >>> (b.toNat % 64)
/-- ALU SAR (R347). -/
def aluSar (a b : Qword) : Qword := a.sshiftRight (b.toNat % 64)
/-- ALU ROL (R347). -/
def aluRol (a b : Qword) : Qword := a.rotateLeft (b.toNat % 64)
/-- ALU EQ (R347). -/
def aluEq (a b : Qword) : Qword := b2q (a == b)
/-- ALU NE (R347). -/
def aluNe (a b : Qword) : Qword := b2q (a != b)
/-- ALU LT (R347). -/
def aluLt (a b : Qword) : Qword := b2q (a.slt b)
/-- ALU LTU (R347). -/
def aluLtu (a b : Qword) : Qword := b2q (a.ult b)
/-- ALU LE (R347). -/
def aluLe (a b : Qword) : Qword := b2q (a.sle b)
/-- ALU LEU (R347). -/
def aluLeu (a b : Qword) : Qword := b2q (a.ule b)
/-- ALU MIN (R347). -/
def aluMin (a b : Qword) : Qword := if a.slt b then a else b
/-- ALU MAX (R347). -/
def aluMax (a b : Qword) : Qword := if a.slt b then b else a
/-- ALU MINU (R347). -/
def aluMinu (a b : Qword) : Qword := if a.ult b then a else b
/-- ALU MAXU (R347). -/
def aluMaxu (a b : Qword) : Qword := if a.ult b then b else a
/-- ALU CLZ (R347). -/
def aluClz (a _b : Qword) : Qword := BitVec.ofNat 64 (if a = 0 then 64 else 63 - Nat.log2 a.toNat)
/-- ALU CTZ (R347). -/
def aluCtz (a _b : Qword) : Qword := BitVec.ofNat 64 (ctz 64 a.toNat)
/-- ALU POPC (R347). -/
def aluPopc (a _b : Qword) : Qword := BitVec.ofNat 64 (popcount 64 a.toNat)
/-- ALU SEXT (R347). -/
def aluSext (a b : Qword) : Qword := BitVec.ofInt 64 (sgn (b.toNat % 64 + 1) a.toNat)
/-- ALU ZEXT (R347). -/
def aluZext (a b : Qword) : Qword := BitVec.ofNat 64 (a.toNat % 2 ^ (b.toNat % 64 + 1))
/-- ALU ADDS (R347). -/
def aluAdds (a b : Qword) : Qword := BitVec.ofInt 64 (satI 64 (a.toInt + b.toInt))
/-- ALU SUBS (R347). -/
def aluSubs (a b : Qword) : Qword := BitVec.ofInt 64 (satI 64 (a.toInt - b.toInt))
/-- ALU PACK (R347). -/
def aluPack (a b : Qword) : Qword := BitVec.ofNat 64 (a.toNat * 2 ^ 32 + b.toNat % 2 ^ 32)

/-- All ones, the answer of D2A and A2D where nothing corresponds (R351). -/
def noAddr : Qword := BitVec.allOnes 64

/-- D2A (R351; on the Steward R372): descriptor to flat address. -/
def Chip.aluD2a (ch : Chip) (k : CoreId) (a : Qword) : Qword :=
  match k with
  | .pe p _ => match ch.descAddr (some p.val) a.toNat 1 with
    | some x => if bits a.toNat 48 2 = 2 then BitVec.ofNat 64 (bits a.toNat 0 48) else BitVec.ofNat 64 x
    | none => noAddr
  | .steward =>
    let pk := bits a.toNat 52 4
    match ch.descAddr (if pk < 12 then some pk else none) a.toNat 1 with
    | some x => BitVec.ofNat 64 x
    | none => noAddr

/-- A2D (R351; on the Steward R372): flat address to descriptor. -/
def Chip.aluA2d (ch : Chip) (k : CoreId) (a : Qword) : Qword :=
  let x := a.toNat
  let own := ch.pos.val * 2 ^ 50
  if inCr x 1 then BitVec.ofNat 64 (x - crBase + 2 ^ 48 + own)
  else if ch.inDram x 1 then BitVec.ofNat 64 (x - dramBase + own)
  else match k with
    | .pe p _ => if x < 0x200000 then BitVec.ofNat 64 (x + 2 * 2 ^ 48 + own + p.val * 2 ^ 52) else noAddr
    | .steward =>
      if packBase 0 ≤ x ∧ x < packBase 12 then
        BitVec.ofNat 64 ((x - packBase 0) % 0x200000 + 2 * 2 ^ 48 + own + (x - packBase 0) / 0x200000 * 2 ^ 52)
      else noAddr

/-- The ALU operation of code `op`, none for an unlisted code. -/
def Chip.aluFn (ch : Chip) (k : CoreId) (op : Nat) (a b : Qword) : Option Qword :=
  match op with
  | 0 => some (aluAdd a b)
  | 1 => some (aluSub a b)
  | 2 => some (aluAnd a b)
  | 3 => some (aluOr a b)
  | 4 => some (aluXor a b)
  | 5 => some (aluAndn a b)
  | 6 => some (aluShl a b)
  | 7 => some (aluShr a b)
  | 8 => some (aluSar a b)
  | 9 => some (aluRol a b)
  | 10 => some (aluEq a b)
  | 11 => some (aluNe a b)
  | 12 => some (aluLt a b)
  | 13 => some (aluLtu a b)
  | 14 => some (aluLe a b)
  | 15 => some (aluLeu a b)
  | 16 => some (aluMin a b)
  | 17 => some (aluMax a b)
  | 18 => some (aluMinu a b)
  | 19 => some (aluMaxu a b)
  | 20 => some (aluClz a b)
  | 21 => some (aluCtz a b)
  | 22 => some (aluPopc a b)
  | 23 => some (aluSext a b)
  | 24 => some (aluZext a b)
  | 25 => some (aluAdds a b)
  | 26 => some (aluSubs a b)
  | 27 => some (ch.aluD2a k a)
  | 28 => some (aluPack a b)
  | 29 => some (ch.aluA2d k a)
  | _ => none

/-- An ALU operation of unit 1 or 2: R from A and B. -/
def Core.runAlu (k : Core) (u : Bool) (f : Qword → Qword → Qword) : Core :=
  let n := if u then 2 else 1
  k.setQ (portCode n 3) (f (k.q (portCode n 0)) (k.q (portCode n 1)))

/-! ### MUL (R348) -/

/-- RLO and RHI from an exact product. -/
def prodParts (x : Int) : Qword × Qword := (BitVec.ofInt 64 x, BitVec.ofInt 64 (x / 2 ^ 64))

def mulMul (a b : Qword) : Qword × Qword := prodParts (a.toInt * b.toInt)
def mulMulu (a b : Qword) : Qword × Qword := prodParts ((a.toNat * b.toNat : Nat) : Int)
def mulDiv (a b : Qword) : Qword × Qword :=
  if b = 0 then (BitVec.allOnes 64, a) else (BitVec.ofInt 64 (Int.tdiv a.toInt b.toInt), BitVec.ofInt 64 (Int.tmod a.toInt b.toInt))
def mulDivu (a b : Qword) : Qword × Qword :=
  if b = 0 then (BitVec.allOnes 64, a) else (BitVec.ofNat 64 (a.toNat / b.toNat), BitVec.ofNat 64 (a.toNat % b.toNat))

/-- The MUL operation of a code. -/
def mulFn (op : Nat) (a b : Qword) : Option (Qword × Qword) :=
  match op with
  | 0 => some (mulMul a b)
  | 1 => some (mulMulu a b)
  | 2 => some (mulDiv a b)
  | 3 => some (mulDivu a b)
  | _ => none

def Core.runMul (k : Core) (f : Qword → Qword → Qword × Qword) : Core :=
  let r := f (k.q (portCode 3 0)) (k.q (portCode 3 1))
  (k.setQ (portCode 3 3) r.1).setQ (portCode 3 4) r.2

/-! ### VEC (R349) -/

/-- Lane `i` of a vector. -/
def lane (v : Vec) (i : Nat) : BitVec 16 := v.extractLsb' (16 * i) 16

/-- A vector from its lanes. -/
def ofLanes (f : Nat → BitVec 16) : Vec :=
  (List.range 32).foldl (fun (a : Vec) i => a ||| ((f i).setWidth 512 <<< (16 * i))) 0

/-- Operands of a vector operation. -/
structure VecIn where
  a : Vec
  b : Vec
  c : Vec
  m : BitVec 32
  deriving DecidableEq, Repr

/-- Lane-wise operation under VM: a lane whose mask bit is 0 takes VA unchanged. -/
def lanewise (f : BitVec 16 → BitVec 16 → BitVec 16 → BitVec 16) (x : VecIn) : Vec × Qword :=
  (ofLanes fun i => if x.m.getLsbD i then f (lane x.a i) (lane x.b i) (lane x.c i) else lane x.a i, 0)

/-- Lane comparison: all ones or 0 in VR, the mask in VS. -/
def lanecmp (f : BitVec 16 → BitVec 16 → Bool) (x : VecIn) : Vec × Qword :=
  (ofLanes fun i => if x.m.getLsbD i then (if f (lane x.a i) (lane x.b i) then BitVec.allOnes 16 else 0) else lane x.a i,
    BitVec.ofNat 64 ((List.range 32).foldl (fun a i =>
      a + bnat (x.m.getLsbD i && f (lane x.a i) (lane x.b i)) * 2 ^ i) 0))

/-- Reduction over the selected lanes. -/
def reduce (init : Int) (f : Int → Int → Int) (x : VecIn) : Vec × Qword :=
  (0, BitVec.ofInt 64 ((List.range 32).foldl (fun acc i =>
    if x.m.getLsbD i then f acc (lane x.a i).toInt else acc) init))

def half (n : Nat) : BitVec 16 := BitVec.ofNat 16 n
def sat16 (i : Int) : BitVec 16 := BitVec.ofInt 16 (satI 16 i)

/-- VEC VADD, code 0 (R349). -/
def vecAdd : VecIn → Vec × Qword := lanewise (fun a b _ => a + b)
/-- VEC VSUB, code 1 (R349). -/
def vecSub : VecIn → Vec × Qword := lanewise (fun a b _ => a - b)
/-- VEC VADDS, code 2 (R349). -/
def vecAdds : VecIn → Vec × Qword := lanewise (fun a b _ => sat16 (a.toInt + b.toInt))
/-- VEC VSUBS, code 3 (R349). -/
def vecSubs : VecIn → Vec × Qword := lanewise (fun a b _ => sat16 (a.toInt - b.toInt))
/-- VEC VMUL, code 4 (R349). -/
def vecMul : VecIn → Vec × Qword := lanewise (fun a b _ => a * b)
/-- VEC VMULQ, code 5 (R349). -/
def vecMulq : VecIn → Vec × Qword := lanewise (fun a b _ => sat16 (sar (a.toInt * b.toInt + 0x4000) 15))
/-- VEC VMACQ, code 6 (R349). -/
def vecMacq : VecIn → Vec × Qword := lanewise (fun a b c => sat16 (c.toInt + sar (a.toInt * b.toInt + 0x4000) 15))
/-- VEC VMIN, code 7 (R349). -/
def vecMin : VecIn → Vec × Qword := lanewise (fun a b _ => if a.slt b then a else b)
/-- VEC VMAX, code 8 (R349). -/
def vecMax : VecIn → Vec × Qword := lanewise (fun a b _ => if a.slt b then b else a)
/-- VEC VAND, code 9 (R349). -/
def vecAnd : VecIn → Vec × Qword := lanewise (fun a b _ => a &&& b)
/-- VEC VOR, code 10 (R349). -/
def vecOr : VecIn → Vec × Qword := lanewise (fun a b _ => a ||| b)
/-- VEC VXOR, code 11 (R349). -/
def vecXor : VecIn → Vec × Qword := lanewise (fun a b _ => a ^^^ b)
/-- VEC VSHL, code 12 (R349). -/
def vecShl : VecIn → Vec × Qword := lanewise (fun a b _ => a <<< (b.toNat % 16))
/-- VEC VSHR, code 13 (R349). -/
def vecShr : VecIn → Vec × Qword := lanewise (fun a b _ => a >>> (b.toNat % 16))
/-- VEC VSAR, code 14 (R349). -/
def vecSar : VecIn → Vec × Qword := lanewise (fun a b _ => a.sshiftRight (b.toNat % 16))
/-- VEC VCMPEQ, code 15 (R349). -/
def vecCmpeq : VecIn → Vec × Qword := lanecmp (fun a b => a == b)
/-- VEC VCMPLT, code 16 (R349). -/
def vecCmplt : VecIn → Vec × Qword := lanecmp (fun a b => a.slt b)
/-- VEC VSEL, code 17 (R349). -/
def vecSel : VecIn → Vec × Qword := fun x => (ofLanes fun i => if x.m.getLsbD i then lane x.a i else lane x.b i, 0)
/-- VEC VPERM, code 18 (R349). -/
def vecPerm : VecIn → Vec × Qword := fun x => (ofLanes fun i => lane x.a ((lane x.b i).toNat % 32), 0)
/-- VEC VRSUM, code 19 (R349). -/
def vecRsum : VecIn → Vec × Qword := reduce 0 (fun s v => s + v)
/-- VEC VRMAX, code 20 (R349). -/
def vecRmax : VecIn → Vec × Qword := reduce (-32768) max
/-- VEC VRMIN, code 21 (R349). -/
def vecRmin : VecIn → Vec × Qword := reduce 32767 min
/-- VEC VHADD, code 22 (R349). -/
def vecHadd : VecIn → Vec × Qword := lanewise (fun a b _ => half (fp16.add a.toNat b.toNat))
/-- VEC VHMUL, code 23 (R349). -/
def vecHmul : VecIn → Vec × Qword := lanewise (fun a b _ => half (fp16.mul a.toNat b.toNat))
/-- VEC VHFMA, code 24 (R349). -/
def vecHfma : VecIn → Vec × Qword := lanewise (fun a b c => half (fp16.fma a.toNat b.toNat c.toNat))
/-- VEC VCVTHI, code 25 (R349). -/
def vecCvthi : VecIn → Vec × Qword := lanewise (fun a _ _ => BitVec.ofInt 16 (halfToInt a.toNat))
/-- VEC VCVTIH, code 26 (R349). -/
def vecCvtih : VecIn → Vec × Qword := lanewise (fun a _ _ => half (fp16.ofInt a.toInt))
/-- VEC VEXT, code 27 (R349). -/
def vecExt : VecIn → Vec × Qword := fun x => (0, x.a.extractLsb' (64 * (x.b.toNat % 8)) 64)
/-- VEC VINS, code 28 (R349). -/
def vecIns : VecIn → Vec × Qword := fun x =>
  let r := x.a &&& ~~~((BitVec.allOnes 64).setWidth 512 <<< (64 * (x.b.toNat % 8)))
    ||| ((x.c.extractLsb' 0 64).setWidth 512 <<< (64 * (x.b.toNat % 8)))
  (ofLanes fun i => if x.m.getLsbD i then lane r i else lane x.a i, 0)

/-- The VEC operation of a code. -/
def vecFn (op : Nat) : Option (VecIn → Vec × Qword) :=
  match op with
  | 0 => some vecAdd
  | 1 => some vecSub
  | 2 => some vecAdds
  | 3 => some vecSubs
  | 4 => some vecMul
  | 5 => some vecMulq
  | 6 => some vecMacq
  | 7 => some vecMin
  | 8 => some vecMax
  | 9 => some vecAnd
  | 10 => some vecOr
  | 11 => some vecXor
  | 12 => some vecShl
  | 13 => some vecShr
  | 14 => some vecSar
  | 15 => some vecCmpeq
  | 16 => some vecCmplt
  | 17 => some vecSel
  | 18 => some vecPerm
  | 19 => some vecRsum
  | 20 => some vecRmax
  | 21 => some vecRmin
  | 22 => some vecHadd
  | 23 => some vecHmul
  | 24 => some vecHfma
  | 25 => some vecCvthi
  | 26 => some vecCvtih
  | 27 => some vecExt
  | 28 => some vecIns
  | _ => none

def Core.vecIn (k : Core) : VecIn :=
  ⟨k.w (portCode 4 0), k.w (portCode 4 1), k.w (portCode 4 2), (k.q (portCode 4 3)).setWidth 32⟩

def Core.runVec (k : Core) (f : VecIn → Vec × Qword) : Core :=
  let r := f k.vecIn
  (k.setW (portCode 4 5) r.1).setQ (portCode 4 6) r.2

/-! ### DEC (R360, R361) -/

/-- The DEC operation of a code, on A, B and RATE. -/
def decFn (op : Nat) : Option (Nat → Nat → Nat → DecRes) :=
  match op with
  | 0 => some fun a b _ => decAdd a b
  | 1 => some fun a b _ => decSub a b
  | 2 => some fun a _ _ => decAdj a
  | 3 => some fun a _ _ => decB2D a
  | 4 => some fun a _ _ => decD2B a
  | 5 => some fun a b r => tcAdd r a b
  | 6 => some fun a b r => tcSub r a b
  | 7 => some fun a b r => tcDiff r a b
  | 8 => some fun a _ r => tc2f r a
  | 9 => some fun a _ r => f2tc r a
  | 10 => some fun a _ r => ns2tc r a
  | _ => none

def Core.runDec (k : Core) (f : Nat → Nat → Nat → DecRes) : Core :=
  let r := f (k.q (portCode 7 0)).toNat (k.q (portCode 7 1)).toNat ((k.q (portCode 7 2)).toNat % 256)
  (k.setQ (portCode 7 4) (BitVec.ofNat 64 r.r)).setQ (portCode 7 5) (BitVec.ofNat 64 r.c)

/-! ### The commands -/

/-- ALU ADD (R347). -/
def execAdd (c : ChipId) (k : CoreId) (u : Bool) (s : State) : Res := onCore s c k (·.runAlu u aluAdd)
/-- ALU SUB (R347). -/
def execSub (c : ChipId) (k : CoreId) (u : Bool) (s : State) : Res := onCore s c k (·.runAlu u aluSub)
/-- ALU AND (R347). -/
def execOpAnd (c : ChipId) (k : CoreId) (u : Bool) (s : State) : Res := onCore s c k (·.runAlu u aluAnd)
/-- ALU OR (R347). -/
def execOpOr (c : ChipId) (k : CoreId) (u : Bool) (s : State) : Res := onCore s c k (·.runAlu u aluOr)
/-- ALU XOR (R347). -/
def execXor (c : ChipId) (k : CoreId) (u : Bool) (s : State) : Res := onCore s c k (·.runAlu u aluXor)
/-- ALU ANDN (R347). -/
def execAndn (c : ChipId) (k : CoreId) (u : Bool) (s : State) : Res := onCore s c k (·.runAlu u aluAndn)
/-- ALU SHL (R347). -/
def execShl (c : ChipId) (k : CoreId) (u : Bool) (s : State) : Res := onCore s c k (·.runAlu u aluShl)
/-- ALU SHR (R347). -/
def execShr (c : ChipId) (k : CoreId) (u : Bool) (s : State) : Res := onCore s c k (·.runAlu u aluShr)
/-- ALU SAR (R347). -/
def execSar (c : ChipId) (k : CoreId) (u : Bool) (s : State) : Res := onCore s c k (·.runAlu u aluSar)
/-- ALU ROL (R347). -/
def execRol (c : ChipId) (k : CoreId) (u : Bool) (s : State) : Res := onCore s c k (·.runAlu u aluRol)
/-- ALU EQ (R347). -/
def execEq (c : ChipId) (k : CoreId) (u : Bool) (s : State) : Res := onCore s c k (·.runAlu u aluEq)
/-- ALU NE (R347). -/
def execNe (c : ChipId) (k : CoreId) (u : Bool) (s : State) : Res := onCore s c k (·.runAlu u aluNe)
/-- ALU LT (R347). -/
def execLt (c : ChipId) (k : CoreId) (u : Bool) (s : State) : Res := onCore s c k (·.runAlu u aluLt)
/-- ALU LTU (R347). -/
def execLtu (c : ChipId) (k : CoreId) (u : Bool) (s : State) : Res := onCore s c k (·.runAlu u aluLtu)
/-- ALU LE (R347). -/
def execLe (c : ChipId) (k : CoreId) (u : Bool) (s : State) : Res := onCore s c k (·.runAlu u aluLe)
/-- ALU LEU (R347). -/
def execLeu (c : ChipId) (k : CoreId) (u : Bool) (s : State) : Res := onCore s c k (·.runAlu u aluLeu)
/-- ALU MIN (R347). -/
def execMin (c : ChipId) (k : CoreId) (u : Bool) (s : State) : Res := onCore s c k (·.runAlu u aluMin)
/-- ALU MAX (R347). -/
def execMax (c : ChipId) (k : CoreId) (u : Bool) (s : State) : Res := onCore s c k (·.runAlu u aluMax)
/-- ALU MINU (R347). -/
def execMinu (c : ChipId) (k : CoreId) (u : Bool) (s : State) : Res := onCore s c k (·.runAlu u aluMinu)
/-- ALU MAXU (R347). -/
def execMaxu (c : ChipId) (k : CoreId) (u : Bool) (s : State) : Res := onCore s c k (·.runAlu u aluMaxu)
/-- ALU CLZ (R347). -/
def execClz (c : ChipId) (k : CoreId) (u : Bool) (s : State) : Res := onCore s c k (·.runAlu u aluClz)
/-- ALU CTZ (R347). -/
def execCtz (c : ChipId) (k : CoreId) (u : Bool) (s : State) : Res := onCore s c k (·.runAlu u aluCtz)
/-- ALU POPC (R347). -/
def execPopc (c : ChipId) (k : CoreId) (u : Bool) (s : State) : Res := onCore s c k (·.runAlu u aluPopc)
/-- ALU SEXT (R347). -/
def execSext (c : ChipId) (k : CoreId) (u : Bool) (s : State) : Res := onCore s c k (·.runAlu u aluSext)
/-- ALU ZEXT (R347). -/
def execZext (c : ChipId) (k : CoreId) (u : Bool) (s : State) : Res := onCore s c k (·.runAlu u aluZext)
/-- ALU ADDS (R347). -/
def execAdds (c : ChipId) (k : CoreId) (u : Bool) (s : State) : Res := onCore s c k (·.runAlu u aluAdds)
/-- ALU SUBS (R347). -/
def execSubs (c : ChipId) (k : CoreId) (u : Bool) (s : State) : Res := onCore s c k (·.runAlu u aluSubs)
/-- ALU D2A (R347, R351). -/
def execD2a (c : ChipId) (k : CoreId) (u : Bool) (s : State) : Res :=
  onIsland s c fun ch => ch.putCore k ((ch.getCore k).runAlu u fun a _ => ch.aluD2a k a)
/-- ALU PACK (R347). -/
def execPack (c : ChipId) (k : CoreId) (u : Bool) (s : State) : Res := onCore s c k (·.runAlu u aluPack)
/-- ALU A2D (R347, R351). -/
def execA2d (c : ChipId) (k : CoreId) (u : Bool) (s : State) : Res :=
  onIsland s c fun ch => ch.putCore k ((ch.getCore k).runAlu u fun a _ => ch.aluA2d k a)
/-- MUL (R348). -/
def execMul (c : ChipId) (k : CoreId) (s : State) : Res := onCore s c k (·.runMul mulMul)
/-- MULU (R348). -/
def execMulu (c : ChipId) (k : CoreId) (s : State) : Res := onCore s c k (·.runMul mulMulu)
/-- DIV (R348). -/
def execDiv (c : ChipId) (k : CoreId) (s : State) : Res := onCore s c k (·.runMul mulDiv)
/-- DIVU (R348). -/
def execDivu (c : ChipId) (k : CoreId) (s : State) : Res := onCore s c k (·.runMul mulDivu)
/-- VEC VADD (R349). -/
def execVadd (c : ChipId) (k : CoreId) (s : State) : Res := onCore s c k (·.runVec vecAdd)
/-- VEC VSUB (R349). -/
def execVsub (c : ChipId) (k : CoreId) (s : State) : Res := onCore s c k (·.runVec vecSub)
/-- VEC VADDS (R349). -/
def execVadds (c : ChipId) (k : CoreId) (s : State) : Res := onCore s c k (·.runVec vecAdds)
/-- VEC VSUBS (R349). -/
def execVsubs (c : ChipId) (k : CoreId) (s : State) : Res := onCore s c k (·.runVec vecSubs)
/-- VEC VMUL (R349). -/
def execVmul (c : ChipId) (k : CoreId) (s : State) : Res := onCore s c k (·.runVec vecMul)
/-- VEC VMULQ (R349). -/
def execVmulq (c : ChipId) (k : CoreId) (s : State) : Res := onCore s c k (·.runVec vecMulq)
/-- VEC VMACQ (R349). -/
def execVmacq (c : ChipId) (k : CoreId) (s : State) : Res := onCore s c k (·.runVec vecMacq)
/-- VEC VMIN (R349). -/
def execVmin (c : ChipId) (k : CoreId) (s : State) : Res := onCore s c k (·.runVec vecMin)
/-- VEC VMAX (R349). -/
def execVmax (c : ChipId) (k : CoreId) (s : State) : Res := onCore s c k (·.runVec vecMax)
/-- VEC VAND (R349). -/
def execVand (c : ChipId) (k : CoreId) (s : State) : Res := onCore s c k (·.runVec vecAnd)
/-- VEC VOR (R349). -/
def execVor (c : ChipId) (k : CoreId) (s : State) : Res := onCore s c k (·.runVec vecOr)
/-- VEC VXOR (R349). -/
def execVxor (c : ChipId) (k : CoreId) (s : State) : Res := onCore s c k (·.runVec vecXor)
/-- VEC VSHL (R349). -/
def execVshl (c : ChipId) (k : CoreId) (s : State) : Res := onCore s c k (·.runVec vecShl)
/-- VEC VSHR (R349). -/
def execVshr (c : ChipId) (k : CoreId) (s : State) : Res := onCore s c k (·.runVec vecShr)
/-- VEC VSAR (R349). -/
def execVsar (c : ChipId) (k : CoreId) (s : State) : Res := onCore s c k (·.runVec vecSar)
/-- VEC VCMPEQ (R349). -/
def execVcmpeq (c : ChipId) (k : CoreId) (s : State) : Res := onCore s c k (·.runVec vecCmpeq)
/-- VEC VCMPLT (R349). -/
def execVcmplt (c : ChipId) (k : CoreId) (s : State) : Res := onCore s c k (·.runVec vecCmplt)
/-- VEC VSEL (R349). -/
def execVsel (c : ChipId) (k : CoreId) (s : State) : Res := onCore s c k (·.runVec vecSel)
/-- VEC VPERM (R349). -/
def execVperm (c : ChipId) (k : CoreId) (s : State) : Res := onCore s c k (·.runVec vecPerm)
/-- VEC VRSUM (R349). -/
def execVrsum (c : ChipId) (k : CoreId) (s : State) : Res := onCore s c k (·.runVec vecRsum)
/-- VEC VRMAX (R349). -/
def execVrmax (c : ChipId) (k : CoreId) (s : State) : Res := onCore s c k (·.runVec vecRmax)
/-- VEC VRMIN (R349). -/
def execVrmin (c : ChipId) (k : CoreId) (s : State) : Res := onCore s c k (·.runVec vecRmin)
/-- VEC VHADD (R349). -/
def execVhadd (c : ChipId) (k : CoreId) (s : State) : Res := onCore s c k (·.runVec vecHadd)
/-- VEC VHMUL (R349). -/
def execVhmul (c : ChipId) (k : CoreId) (s : State) : Res := onCore s c k (·.runVec vecHmul)
/-- VEC VHFMA (R349). -/
def execVhfma (c : ChipId) (k : CoreId) (s : State) : Res := onCore s c k (·.runVec vecHfma)
/-- VEC VCVTHI (R349). -/
def execVcvthi (c : ChipId) (k : CoreId) (s : State) : Res := onCore s c k (·.runVec vecCvthi)
/-- VEC VCVTIH (R349). -/
def execVcvtih (c : ChipId) (k : CoreId) (s : State) : Res := onCore s c k (·.runVec vecCvtih)
/-- VEC VEXT (R349). -/
def execVext (c : ChipId) (k : CoreId) (s : State) : Res := onCore s c k (·.runVec vecExt)
/-- VEC VINS (R349). -/
def execVins (c : ChipId) (k : CoreId) (s : State) : Res := onCore s c k (·.runVec vecIns)
/-- DEC BADD (R360). -/
def execBadd (c : ChipId) (k : CoreId) (s : State) : Res := onCore s c k (·.runDec fun a b _ => decAdd a b)
/-- DEC BSUB (R360). -/
def execBsub (c : ChipId) (k : CoreId) (s : State) : Res := onCore s c k (·.runDec fun a b _ => decSub a b)
/-- DEC DADJ (R360). -/
def execDadj (c : ChipId) (k : CoreId) (s : State) : Res := onCore s c k (·.runDec fun a _ _ => decAdj a)
/-- DEC B2D (R360). -/
def execB2d (c : ChipId) (k : CoreId) (s : State) : Res := onCore s c k (·.runDec fun a _ _ => decB2D a)
/-- DEC D2B (R360). -/
def execD2b (c : ChipId) (k : CoreId) (s : State) : Res := onCore s c k (·.runDec fun a _ _ => decD2B a)
/-- DEC TCADD (R360). -/
def execTcadd (c : ChipId) (k : CoreId) (s : State) : Res := onCore s c k (·.runDec fun a b r => tcAdd r a b)
/-- DEC TCSUB (R360). -/
def execTcsub (c : ChipId) (k : CoreId) (s : State) : Res := onCore s c k (·.runDec fun a b r => tcSub r a b)
/-- DEC TCDIFF (R360). -/
def execTcdiff (c : ChipId) (k : CoreId) (s : State) : Res := onCore s c k (·.runDec fun a b r => tcDiff r a b)
/-- DEC TC2F (R360). -/
def execTc2f (c : ChipId) (k : CoreId) (s : State) : Res := onCore s c k (·.runDec fun a _ r => tc2f r a)
/-- DEC F2TC (R360). -/
def execF2tc (c : ChipId) (k : CoreId) (s : State) : Res := onCore s c k (·.runDec fun a _ r => f2tc r a)
/-- DEC NS2TC (R360). -/
def execNs2tc (c : ChipId) (k : CoreId) (s : State) : Res := onCore s c k (·.runDec fun a _ r => ns2tc r a)

end Sys2Proof.Machine
end

