-- ==== Sys2Proof/Machine/InnOps.lean ====
section
/-! DEFINITION. The Inn, the Annex, dispatch and verdicts (spec/10_tokens_inn.md, spec/11_annex_guestbook.md): rooms, sets,
spills, recalls, firings, loops and speculation. -/

namespace Sys2Proof.Machine

open Sys2Proof

/-! ### Graph tables -/

/-- Port kinds of R296. -/
def pkStrict : Nat := 0
def pkSticky : Nat := 1
def pkMerging : Nat := 2

def NodeDesc.pkind (d : NodeDesc) (p : Nat) : Nat := bits ((d.ports[p]?).getD 0) 0 2
def NodeDesc.mop (d : NodeDesc) (p : Nat) : Nat := bits ((d.ports[p]?).getD 0) 4 3
def NodeDesc.mcnt (d : NodeDesc) (p : Nat) : Nat := (d.mcount[p]?).getD 0
def NodeDesc.isMerge (d : NodeDesc) : Bool := d.kind == 2

/-- The graph a slot holds. -/
def Chip.graphOf (ch : Chip) (s : Nat) : Option Graph := (ch.slot s).graph

/-- A node of the graph of slot `s`. -/
def Chip.nodeOf (ch : Chip) (s n : Nat) : Option NodeDesc := (ch.graphOf s).bind fun g => g.nodes[n]?

/-- The node of slot `s` has its home in pack `p` of this chip. -/
def Chip.homeHere (ch : Chip) (s n p : Nat) : Bool :=
  match ch.placeOf s n with
  | some pl => pl.chip == ch.pos.val && pl.pack == p
  | none => false

/-- The slot is ARMED. -/
def Chip.armed (ch : Chip) (s : Nat) : Bool := (ch.slot s).st == .armed

/-! ### Rooms (R284, R285) -/

/-- The set of a tag of a node (R284). -/
def innSet (node ctx iter : Nat) : Nat := (37 * node + 101 * ctx + 13 * iter) % 480

/-- The set of a token; a sticky value uses ITERATION 0. -/
def tokSet (t : BitVec 128) : Nat :=
  innSet (Token.node t) (Token.context t) (if Token.sticky t then 0 else Token.iteration t)

/-- Same node and context. -/
def sameNode (t u : BitVec 128) : Bool := Token.node t == Token.node u && Token.context t == Token.context u

/-- Same node and tag. -/
def sameTag (t u : BitVec 128) : Bool := sameNode t u && Token.iteration t == Token.iteration u

/-- The firing is of the token's node and tag. -/
def Firing.ofTag (f : Firing) (t : BitVec 128) : Bool :=
  f.node == Token.node t && f.ctx == Token.context t && f.iter == Token.iteration t

/-- Main-store rooms in use. -/
def Inn.main (i : Inn) : Nat :=
  (i.rooms.filter fun r => !r.reserve).length + i.ready.foldl (fun a f => a + f.rooms) 0

/-- Reserve rooms in use. -/
def Inn.resv (i : Inn) : Nat :=
  (i.rooms.filter fun r => r.reserve).length + i.ready.foldl (fun a f => a + f.resv) 0

/-- Main-store rooms of set `k` in use. -/
def Inn.ways (i : Inn) (k : Nat) : Nat :=
  (i.rooms.filter fun r => !r.reserve && tokSet r.tok == k).length +
    (i.ready.filter fun f => innSet f.node f.ctx f.iter == k).foldl (fun a f => a + f.rooms) 0

/-- Main-store rooms a slot uses in a pack. -/
def Chip.usedBy (ch : Chip) (p s : Nat) : Nat :=
  let i := ch.inn p
  (i.rooms.filter fun r => !r.reserve && ch.ctxSlot (Token.context r.tok) == some s).length +
    (i.ready.filter fun f => f.slot == s).foldl (fun a f => a + f.rooms) 0

/-- A token may lodge in the main store (R285). -/
def Chip.canLodge (ch : Chip) (p s : Nat) (t : BitVec 128) : Bool :=
  let i := ch.inn p
  decide (ch.usedBy p s < ch.rd (F.INN_QUOTA_QUOTA p s)) && decide (i.main < 3840) && decide (i.ways (tokSet t) < 8)

/-- The Inn's registers follow its state; `old` is MAIN before (R19, R289, R293). -/
def Chip.innSync (ch : Chip) (p old : Nat) : Chip :=
  let i := ch.inn p
  let c := (ch.wr (F.INN_LEVEL_MAIN p) i.main).wr (F.INN_LEVEL_RESERVE p) i.resv
  let c := c.watermark (F.INN_STAT_WM_SEEN p) (F.INN_HWM_MAIN p) (F.INN_WM_TIME_TIME p) (c.rd (F.INN_WM_THRESH p)) old i.main
  let c := (c.setFlag (F.INN_STAT_DQ_FULL_LIVE p) (decide (64 ≤ i.dq.length))).wr (F.INN_STAT_DQ_LEVEL p) i.dq.length
  let c := (c.wr (F.INN_STAT_DUPQ_LEVEL p) i.dups.length).wr (F.INN_DUP_HEAD_TOKEN p) ((i.dups.head?).elim 0 (·.toNat))
  (List.range 16).foldl (fun c s => c.wr (F.INN_QUOTA_USED p s) (c.usedBy p s)) c

/-- Blocked work of slot `s` in pack `p` (R311). -/
def Chip.blockedIn (ch : Chip) (p s : Nat) : Bool :=
  let i := ch.inn p
  (i.annex.any fun l => l.ents.any fun e => ch.ctxSlot (Token.context e.tok) == some s) ||
    (i.ready.any fun f => f.slot == s) || i.spillWait.any fun e => ch.ctxSlot (Token.context e.1) == some s

/-- Blocked work of slot `s` on the chip; none while the slot is not ARMED (R274). -/
def Chip.blockedWork (ch : Chip) (s : Nat) : Bool := ch.armed s && (List.range 12).any fun p => ch.blockedIn p s

/-- Slots whose blocked work has gone have not been blocked throughout the present interval (R315). -/
def Chip.gapSync (ch : Chip) : Chip :=
  (List.range 16).foldl (fun (c : Chip) s =>
    if (c.slot s).blocked && !c.blockedWork s then c.setSlot s { c.slot s with blocked := false } else c) ch

/-- An operation on pack `p` followed by its registers. -/
def Chip.innDo (ch : Chip) (p : Nat) (f : Chip → Chip) : Chip := ((f ch).innSync p (ch.inn p).main).gapSync

/-! ### Loops (R309) -/

/-- The loop whose entry node is `n`: its index and K. -/
def Graph.loopEntry (g : Graph) (n : Nat) : Option (Nat × Nat) :=
  g.loops.zipIdx.findSome? fun e => if e.1.1 = n then some (e.2, e.1.2.2) else none

/-- Open iterations of a loop and context at its entry's pack. -/
def Inn.openCount (i : Inn) (s l c : Nat) : Nat :=
  (i.loopOpen.find? fun e => e.1 == s && e.2.1 == l && e.2.2.1 == c).elim 0 (·.2.2.2)

def Inn.setOpen (i : Inn) (s l c n : Nat) : Inn :=
  { i with loopOpen := (i.loopOpen.filter fun e => !(e.1 == s && e.2.1 == l && e.2.2.1 == c)) ++
      (if n = 0 then [] else [(s, l, c, n)]) }

/-- The firing is held back by its loop's bound. -/
def Chip.gated (ch : Chip) (p : Nat) (f : Firing) : Bool :=
  match (ch.graphOf f.slot).bind fun g => g.loopEntry f.node with
  | some (l, k) => decide (k ≤ (ch.inn p).openCount f.slot l f.ctx)
  | none => false

/-- The firing enters the dispatch queue; its iteration opens, its rooms are free (R289, R309). -/
def Chip.enqueue (ch : Chip) (p : Nat) (f : Firing) : Chip :=
  let i := ch.inn p
  let i := match (ch.graphOf f.slot).bind fun g => g.loopEntry f.node with
    | some (l, _) => i.setOpen f.slot l f.ctx (i.openCount f.slot l f.ctx + 1)
    | none => i
  ch.setInn p { i with dq := i.dq ++ [{ f with rooms := 0, resv := 0, gated := false }] }

/-- READY sets enter the dispatch queue in order of completion while it has space (R274, R289, R309). -/
def Chip.refill (ch : Chip) (p : Nat) : Nat → Chip
  | 0 => ch
  | fuel + 1 =>
    let i := ch.inn p
    if 64 ≤ i.dq.length then ch
    else match pickFirst (fun f => ch.armed f.slot && !ch.gated p f) i.ready with
      | none => ch
      | some (f, rest) => ((ch.setInn p { i with ready := rest }).enqueue p f).refill p fuel

/-- READY sets proceed as far as R289 allows. -/
def Chip.refillAll (ch : Chip) (p : Nat) : Chip := ch.refill p 64

/-- A completed set: it waits READY behind the sets completed before it, and enters the queue as R289 allows. -/
def Chip.enrol (ch : Chip) (p : Nat) (f : Firing) : Chip :=
  let i := ch.inn p
  (ch.setInn p { i with ready := i.ready ++ [{ f with gated := ch.gated p f }] }).refillAll p

/-- A close notice (R309): the open count falls and a waiting entry set may enter; a count of 0 discards it. -/
def Chip.closeLoop (ch : Chip) (p s l c : Nat) : Chip :=
  let i := ch.inn p
  let n := i.openCount s l c
  if n = 0 then ch.count F.DFX_DL_CLOSE0_COUNT F.DFX_DL_STAT_OVF 2
  else (ch.setInn p (i.setOpen s l c (n - 1))).refillAll p

/-- A notice sent to the home of a loop's entry (R309): in this chip, or in a CLOSE flit. -/
def Chip.sendClose (ch : Chip) (s l c : Nat) : Chip :=
  match (ch.graphOf s).bind fun g => (g.loops[l]?).bind fun e => g.place[e.1]? with
  | some pl =>
    if pl.chip = ch.pos.val then
      let i := ch.inn pl.pack
      ch.setInn pl.pack { i with notices := i.notices ++ [(s, l, c)] }
    else ch.sendFlit pl.chip 0 2 (padTo 48 (toLe 8 (s % 16 + l % 2 ^ 16 * 2 ^ 8 + c % 2 ^ 10 * 2 ^ 24)) ++ [1#8])
  | none => ch

/-- A firing ended: the loops whose exit node it is get their notice. (DEDUCED, log entry 100.) -/
def Chip.firingEnded (ch : Chip) (f : Firing) : Chip :=
  match ch.graphOf f.slot with
  | some g => (g.loops.zipIdx.filter fun e => e.1.2.1 == f.node).foldl (fun (c : Chip) e => c.sendClose f.slot e.2 f.ctx) ch
  | none => ch

/-- A firing of a node of slot `s` was killed: if the node is a loop's entry, its iteration closes (R309). -/
def Chip.entryKilled (ch : Chip) (p s node ctx : Nat) : Chip :=
  match (ch.graphOf s).bind fun g => g.loopEntry node with
  | some (l, _) => ch.closeLoop p s l ctx
  | none => ch

/-! ### The Annex (R302 to R306, R330) -/

/-- Lines of a pack's region. -/
def Chip.annexLines (ch : Chip) : Nat := ch.rd F.ANX_SIZE_MIB * 1048576 / 12 / 64

/-- Flat address of line `idx` of pack `p`'s region: the regions lie in pack order from the lowest byte of the reservation (R302,
R502). (DEDUCED, log entry 89.) -/
def Chip.annexAddr (ch : Chip) (p idx : Nat) : Nat :=
  ch.dramTop - ch.rd F.ANX_SIZE_MIB * 1048576 + 64 * (p * ch.annexLines + idx)

/-- The tokens of a line with their contributions. -/
def AnxLine.toks (l : AnxLine) : List (BitVec 128 × Nat) := l.ents.map fun e => (e.tok, e.mc)

/-- The tokens of a pack's region, oldest line first. -/
def Inn.annexToks (i : Inn) : List (BitVec 128 × Nat) := i.annex.flatMap AnxLine.toks

/-- Tokens of a pack's region. -/
def Inn.spilled (i : Inn) : Nat := i.annex.foldl (fun a l => a + l.ents.length) 0

/-- NEXT of a line that ends its chain (R330). -/
def lineEnd : Nat := 0xFFFFFF

/-- The 64 bytes of a line in its bucket chain, whose next line is `next` (R330). -/
def AnxLine.image (l : AnxLine) (next : Nat) : List Byte :=
  padTo 48 (l.ents.flatMap fun e => tokBytes e.tok) ++ toLe 3 next ++ padTo 3 (l.ents.flatMap fun e => toLe 1 e.mc) ++
    toLe 2 (l.set + l.ents.length * 512) ++ toLe 8 ((l.ents.head?).elim 0 (·.since))

/-- The images of the lines in use, chained within their buckets (R330). -/
def chainImages : List AnxLine → List (Nat × List Byte)
  | [] => []
  | l :: t => (l.idx, l.image (((t.find? fun m => m.set == l.set).map (·.idx)).getD lineEnd)) :: chainImages t

/-- The images of the lines that were freed, the free list's head first; `tail` is the line behind them (R330). -/
def freeImages (tail : Nat) : List Nat → List (Nat × List Byte)
  | [] => []
  | n :: t => (n, zeros 48 ++ toLe 3 ((t.head?).getD tail) ++ zeros 13) :: freeImages tail t

/-- What the lines of a region hold, but for those never taken since the commit. -/
def Inn.lineImages (i : Inn) (lines : Nat) : List (Nat × List Byte) :=
  chainImages i.annex ++ freeImages (if i.annexNext < lines then i.annexNext else lineEnd) i.annexFree

/-- The region of pack `p` becomes that of `i`: lines that differ are written. A line that stays in use keeps its poison.
(DEDUCED, log entry 89.) -/
def Chip.setAnnex (ch : Chip) (p : Nat) (i : Inn) : Chip :=
  let old := (ch.inn p).lineImages ch.annexLines
  let used := (ch.inn p).annex.map (·.idx)
  let now := i.annex.map (·.idx)
  ((i.lineImages ch.annexLines).filter fun e => !old.contains e).foldl (fun (c : Chip) e =>
    let a := ch.annexAddr p e.1
    c.store a e.2 (used.contains e.1 && now.contains e.1 && c.anyPoison a 64)) (ch.setInn p i)


/-- Two contributions combined by the operation of their port (R279); CHECK is formed again. -/
def combine (mop : Nat) (a b : BitVec 128) : BitVec 128 :=
  let x := BitVec.ofNat 64 (Token.value a)
  let y := BitVec.ofNat 64 (Token.value b)
  let v : BitVec 64 := match mop with
    | 1 => x + y
    | 2 => if x.slt y then y else x
    | 3 => if x.slt y then x else y
    | _ => x ||| y
  let fl := bits a.toNat 110 6 ||| (bits b.toNat 110 6 &&& 6)
  mkToken v.toNat (Token.node a) (Token.port a) (Token.context a) (Token.iteration a) fl

/-- ANX_SPILL or ANX_RECALLS counts (bit 0 or 1 of WRAP). -/
def Chip.anxCount (ch : Chip) (p : Nat) (back : Bool) : Chip :=
  let f := if back then F.ANX_RECALLS_COUNT p else F.ANX_SPILL_COUNT p
  ch.count64 f (F.ANX_PSTAT_WRAP p) (bnat back) F.ANX_WRAP_COUNT (F.ANX_PSTAT_WRAP_OVF p) 0 1

/-- ANX_USED and ANX_HWM follow the region; FULL_LIVE follows the waiting spills. -/
def Chip.anxSync (ch : Chip) (p : Nat) : Chip :=
  let i := ch.inn p
  let c := ch.wr (F.ANX_USED_TOKENS p) i.spilled
  let c := if c.rd (F.ANX_HWM_TOKENS p) < i.spilled then c.wr (F.ANX_HWM_TOKENS p) i.spilled else c
  c.setFlag (F.ANX_PSTAT_FULL_LIVE p) (!i.spillWait.isEmpty)

/-- INN_SPILL of pack `p` (R303). -/
def Chip.raiseSpill (ch : Chip) (p : Nat) : Chip := ch.raise 9 (source (18 * p + 17) 0) ((ch.inn p).spilled)

/-- A token put into a free place of a line of its bucket, if there is one (R303). -/
def addTok (ls : List AnxLine) (k : Nat) (e : AnxTok) : Option (List AnxLine) :=
  match findIdx (fun (l : AnxLine) => l.set == k && decide (l.ents.length < 3)) ls with
  | some j => some (updAt ls j fun l => { l with ents := l.ents ++ [e] })
  | none => none

/-- A contribution combined into an entry of its bucket, if there is one (R303). -/
def combineIn (ls : List AnxLine) (mop : Nat) (t : BitVec 128) (mc : Nat) : Option (List AnxLine) :=
  let same (u : BitVec 128) : Bool := sameTag t u && Token.port t == Token.port u
  match findIdx (fun (l : AnxLine) => l.ents.any fun e => same e.tok) ls with
  | some j =>
    let upd (e : AnxTok) : AnxTok :=
      if same e.tok then { e with tok := setTokBit (combine mop e.tok t) 113 true, mc := e.mc + mc } else e
    some (updAt ls j fun l => { l with ents := l.ents.map upd })
  | none => none

/-- A token handed to the Annex (R303): none where the region is full and the spill must wait. -/
def Chip.spillTok (ch : Chip) (p : Nat) (t : BitVec 128) (mc mop : Nat) : Option Chip :=
  let i := ch.inn p
  let k := tokSet t
  let was := i.spilled
  let done (ls : List AnxLine) (i : Inn) : Chip :=
    let c := ((ch.setAnnex p { i with annex := ls }).anxCount p false).anxSync p
    if was = 0 then c.raiseSpill p else c
  let e : AnxTok := ⟨setTokBit t 113 true, mc, ch.now⟩
  match (if 0 < mc then combineIn i.annex mop t mc else none) with
  | some ls => some (done ls i)
  | none => match addTok i.annex k e with
    | some ls => some (done ls i)
    | none => match i.annexFree with
      | l :: rest => some (done (i.annex ++ [⟨l, k, [e]⟩]) { i with annexFree := rest })
      | [] =>
        if i.annexNext < ch.annexLines then
          some (done (i.annex ++ [⟨i.annexNext, k, [e]⟩]) { i with annexNext := i.annexNext + 1 })
        else none

/-- A token that must wait and cannot lodge (R286, R306). -/
def Chip.spill (ch : Chip) (p : Nat) (t : BitVec 128) (mc mop : Nat) : Chip :=
  match ch.spillTok p t mc mop with
  | some c => c
  | none =>
    let i := ch.inn p
    let c := ch.setInn p { i with spillWait := i.spillWait ++ [(t, mc)], fullRaised := true }
    let c := (c.setFlag (F.ANX_PSTAT_FULL_SEEN p) true).anxSync p
    if i.fullRaised then c else c.raiseSpill p

/-- The lines of a region after a change: those that hold nothing any more go to the head of the free list (R330). -/
def Inn.withLines (i : Inn) (ls : List AnxLine) : Inn :=
  let freed := (ls.filter fun l => l.ents.isEmpty).map (·.idx)
  { i with
    annex := ls.filter fun l => !l.ents.isEmpty
    annexFree := freed.reverse ++ i.annexFree
    fullRaised := if freed.isEmpty then i.fullRaised else false }

/-- Annex tokens that satisfy a test leave the region. -/
def Inn.annexDrop (i : Inn) (out : BitVec 128 → Bool) : Inn :=
  i.withLines (i.annex.map fun l => { l with ents := l.ents.filter fun e => !out e.tok })

/-- The first place that holds a token with its contributions: its line, and its index there. -/
def Inn.annexFind (i : Inn) (e : BitVec 128 × Nat) : Option (Nat × Nat) :=
  i.annex.findSome? fun l => (findIdx (fun t => t == e) l.toks).map fun j => (l.idx, j)

/-- The token at a place of the region leaves it. -/
def Inn.annexTake (i : Inn) (idx j : Nat) : Inn :=
  i.withLines (i.annex.map fun l => if l.idx = idx then { l with ents := l.ents.eraseIdx j } else l)

/-! ### Sets and firings (R277 to R282) -/

/-- A sticky value serves an iteration (R278). -/
def serves (t : BitVec 128) (iter : Nat) : Bool :=
  !Token.last t || decide ((Token.iteration t + 2 ^ 20 - iter) % 2 ^ 20 < 2 ^ 19)

/-- The value a port holds for a tag, from a list of (token, contributions): none while it is not satisfied (R277). -/
def portValue (d : NodeDesc) (node ctx iter k : Nat) (held : List (BitVec 128 × Nat)) : Option (BitVec 128) :=
  let here := held.filter fun e => Token.node e.1 == node && Token.context e.1 == ctx && Token.port e.1 == k
  match d.pkind k with
  | 1 => ((here.filter fun e => Token.sticky e.1 && serves e.1 iter).head?).map (·.1)
  | 2 => ((here.filter fun e => Token.iteration e.1 == iter && decide (d.mcnt k ≤ e.2)).head?).map (·.1)
  | _ => ((here.filter fun e => Token.iteration e.1 == iter && !Token.sticky e.1).head?).map (·.1)

/-- The operands of a tag, once every port is satisfied. -/
def setOps (d : NodeDesc) (node ctx iter : Nat) (held : List (BitVec 128 × Nat)) : Option (List (BitVec 128)) :=
  let vs := (List.range d.nports).map fun k => portValue d node ctx iter k held
  if vs.all (·.isSome) then some (vs.filterMap id) else none

/-- What rooms hold, with merging counts. -/
def Inn.held (i : Inn) : List (BitVec 128 × Nat) := i.rooms.map fun r => (r.tok, r.mc)

/-- A firing from its operands. -/
def mkFiring (s node ctx iter port : Nat) (ops : List (BitVec 128)) (rooms resv : Nat) : Firing :=
  ⟨s, node, ctx, iter, ops, port, ops.any Token.provisional, ops.any Token.poison, rooms, resv, false⟩

/-- The set of a tag completes: its rooms belong to the READY set, sticky values stay (R277, R299). -/
def Chip.fire (ch : Chip) (p s node ctx iter : Nat) (ops : List (BitVec 128)) : Chip :=
  let i := ch.inn p
  let mine (r : Room) : Bool :=
    Token.node r.tok == node && Token.context r.tok == ctx && Token.iteration r.tok == iter && !Token.sticky r.tok
  let rs := i.rooms.filter mine
  let c := ch.setInn p { i with rooms := i.rooms.filter fun r => !mine r }
  c.enrol p (mkFiring s node ctx iter 0 ops (rs.filter fun r => !r.reserve).length (rs.filter fun r => r.reserve).length)

/-- A duplicate (R282). -/
def Chip.duplicate (ch : Chip) (p s : Nat) (t : BitVec 128) : Chip :=
  let i := ch.inn p
  let c := if i.dups.length < 64 then ch.setInn p { i with dups := i.dups ++ [t] }
    else ch.count (F.INN_DUP_LOST_COUNT p) (F.INN_OVF_OVF p) 4
  let c := (c.count (F.INN_DUP_COUNT p) (F.INN_OVF_OVF p) 0).setFlag (F.INN_STAT_DUP_SEEN p) true
  c.raise 8 (source (18 * p + 17) (slotQual s)) (t.toNat / 2 ^ 64 + t.toNat % 2 ^ 64 * 2 ^ 64)

/-- A bad token (R283). -/
def Chip.badToken (ch : Chip) (p : Nat) (s : Nat) (t : BitVec 128) : Chip :=
  let c := (ch.count (F.INN_BADTOK_COUNT p) (F.INN_OVF_OVF p) 1).setFlag (F.INN_STAT_BADTOK_SEEN p) true
  (c.wr (F.INN_BAD_LAST_TOKEN p) t.toNat).raise 33 (source (18 * p + 17) (slotQual s)) (t.toNat / 2 ^ 64)

/-- A token takes a room, in the main store or, for a targeted recall, in the reserve; otherwise it spills (R285, R286, R304). -/
def Chip.lodge (ch : Chip) (p s : Nat) (t : BitVec 128) (mc mop back : Nat) : Chip :=
  let i := ch.inn p
  let put (resv : Bool) : Chip := ch.setInn p { i with rooms := i.rooms ++ [⟨t, mc, resv, ch.now⟩] }
  if back = 1 ∧ i.resv < 256 then put true
  else if ch.canLodge p s t then put false
  else ch.spill p t mc mop

/-- Iterations of the waiting tokens of a node and context, in room order. -/
def Inn.waitingIters (i : Inn) (node ctx : Nat) : List Nat :=
  (i.rooms.filter fun r => Token.node r.tok == node && Token.context r.tok == ctx && !Token.sticky r.tok).foldl
    (fun a r => if a.contains (Token.iteration r.tok) then a else a ++ [Token.iteration r.tok]) []

/-- The sets a new sticky value completes (R277): of a node with only sticky ports, the one of its own iteration. -/
def Chip.stickyArrived (ch : Chip) (p s : Nat) (d : NodeDesc) (t : BitVec 128) : Chip :=
  let node := Token.node t
  let ctx := Token.context t
  let allSticky := (List.range d.nports).all fun k => d.pkind k == pkSticky
  let iters := if allSticky then [Token.iteration t] else (ch.inn p).waitingIters node ctx
  iters.foldl (fun c i => match setOps d node ctx i (c.inn p).held with
    | some ops => c.fire p s node ctx i ops
    | none => c) ch

/-- A token of an installed node at its home takes its place (R277 to R282). -/
def Chip.take (ch : Chip) (p s : Nat) (d : NodeDesc) (t : BitVec 128) (mc back : Nat) : Chip :=
  let i := ch.inn p
  let node := Token.node t
  let ctx := Token.context t
  let it := Token.iteration t
  let k := Token.port t
  if d.isMerge then ch.enrol p (mkFiring s node ctx it k [t] 0 0)
  else match d.pkind k with
    | 1 =>
      if i.rooms.any fun r => Token.sticky r.tok && sameNode r.tok t && Token.port r.tok == k then ch.duplicate p s t
      else
        let c := ch.lodge p s t 0 0 back
        if (c.inn p).rooms.length = i.rooms.length then c else c.stickyArrived p s d t
    | 2 =>
      let n := max 1 mc
      let ready := i.ready.any fun f => f.ofTag t
      match findIdx (fun (r : Room) => sameTag r.tok t && Token.port r.tok == k) i.rooms with
      | some j =>
        let old := (i.rooms[j]?).elim 0 (·.mc)
        if ready || decide (d.mcnt k < old + n) then ch.duplicate p s t
        else
          let c := ch.setInn p { i with rooms := updAt i.rooms j fun r => { r with tok := combine (d.mop k) r.tok t, mc := r.mc + n } }
          match setOps d node ctx it (c.inn p).held with
          | some ops => c.fire p s node ctx it ops
          | none => c
      | none =>
        if ready then ch.duplicate p s t
        else match setOps d node ctx it (i.held ++ [(t, n)]) with
          | some ops => ch.fire p s node ctx it ops
          | none => ch.lodge p s t n (d.mop k) back
    | _ =>
      if (i.rooms.any fun r => sameTag r.tok t && Token.port r.tok == k) || i.ready.any fun f => f.ofTag t then ch.duplicate p s t
      else match setOps d node ctx it (i.held ++ [(t, 0)]) with
        | some ops => ch.fire p s node ctx it ops
        | none => ch.lodge p s t 0 0 back

/-! ### Verdicts (R326) -/

/-- A speculation counter advances (R329): `b` is its bit of WRAP. -/
def Chip.specCount (ch : Chip) (f : Field) (b n : Nat) : Chip :=
  if n = 0 then ch else ch.count64 f F.DFX_SPEC_STAT_WRAP b F.DFX_SPEC_WRAP_COUNT F.DFX_SPEC_STAT_WRAP_OVF 0 n

/-- Provisional tokens of a node and tag. -/
def provOf (node ctx iter : Nat) (t : BitVec 128) : Bool :=
  Token.provisional t && !Token.kill t && Token.node t == node && Token.context t == ctx && Token.iteration t == iter

/-- Number of Annex tokens that satisfy a test. -/
def Inn.annexCount (i : Inn) (f : BitVec 128 → Bool) : Nat :=
  i.annex.foldl (fun a l => a + (l.ents.filter fun e => f e.tok).length) 0

/-- Provisional tokens of a node and tag in a pack. -/
def Inn.provTokens (i : Inn) (node ctx iter : Nat) : Nat :=
  let f := provOf node ctx iter
  (i.rooms.filter fun r => f r.tok).length + i.annexCount f + (i.inputs.filter fun x => f x.tok).length +
    (i.provWait.filter f).length + (i.spillWait.filter fun e => f e.1).length

/-- A provisional firing of a node and tag. -/
def Firing.provOf (f : Firing) (node ctx iter : Nat) : Bool :=
  f.prov && f.node == node && f.ctx == ctx && f.iter == iter

/-- The PEs of pack `p` that run a provisional firing of a node and tag; one that was killed is KILLED while it drains (R336). -/
def Chip.provCores (ch : Chip) (p node ctx iter : Nat) : List Nat :=
  (List.range 16).filter fun n =>
    let k := ch.core p n
    k.st != .idle && !k.aborted && (match k.firing with
      | some f => f.provOf node ctx iter
      | none => false)

/-- A verdict finds something to act on in pack `p`. -/
def Chip.verdictFinds (ch : Chip) (p node ctx iter : Nat) : Bool :=
  let i := ch.inn p
  decide (0 < i.provTokens node ctx iter) || (i.ready.any fun f => f.provOf node ctx iter) ||
    (i.dq.any fun f => f.provOf node ctx iter) || !(ch.provCores p node ctx iter).isEmpty ||
    i.klist.any fun e => e.node == node && e.ctx == ctx && e.iter == iter

/-- The provisional tokens of a node and tag in pack `p` are freed and counted. -/
def Chip.killTokens (ch : Chip) (p node ctx iter : Nat) : Chip :=
  let i := ch.inn p
  let f := provOf node ctx iter
  let n := i.provTokens node ctx iter
  let i := i.annexDrop f
  let c := ch.setAnnex p { i with
    rooms := i.rooms.filter fun r => !f r.tok
    inputs := i.inputs.filter fun x => !f x.tok
    provWait := i.provWait.filter fun t => !f t
    spillWait := i.spillWait.filter fun e => !f e.1 }
  (c.specCount F.DFX_SPEC_KTOK_COUNT 2 n).anxSync p

/-- PROVISIONAL cleared. -/
def confirmTok (t : BitVec 128) : BitVec 128 := setTokBit t 110 false

/-- The provisional tokens of a node and tag in pack `p` are confirmed: those in a token queue proceed as if they had just
arrived, those for another chip cross Trail. -/
def Chip.confirmTokens (ch : Chip) (p node ctx iter : Nat) : Chip :=
  let i := ch.inn p
  let f := provOf node ctx iter
  let conf (t : BitVec 128) : BitVec 128 := if f t then confirmTok t else t
  let go := (i.provWait.filter f).map confirmTok
  let c := ch.setAnnex p { i with
    rooms := i.rooms.map fun r => { r with tok := conf r.tok }
    annex := i.annex.map fun l => { l with ents := l.ents.map fun e => { e with tok := conf e.tok } }
    inputs := i.inputs.map fun x => { x with tok := conf x.tok }
    spillWait := i.spillWait.map fun e => (conf e.1, e.2)
    provWait := i.provWait.filter fun t => !f t }
  go.foldl (fun (c : Chip) t => c.routeToken p srcNet t) c

/-- A verdict token for a destination (R326). -/
def verdictTok (confirm : Bool) (node ctx iter : Nat) : BitVec 128 := mkToken (bnat confirm) node 0 ctx iter 32

/-- A verdict sent to a kill-list destination: to the destination's home pack, or, where its home is another chip, to the
tokens that wait for it in this pack. -/
def Chip.sendVerdict (ch : Chip) (p : Nat) (confirm : Bool) (d : Nat × Nat × Nat) : Chip :=
  let home := (ch.ctxSlot d.2.1).bind fun s => ch.placeOf s d.1
  let away := match home with
    | some pl => decide (pl.chip ≠ ch.pos.val)
    | none => true
  if away then (if confirm then ch.confirmTokens p d.1 d.2.1 d.2.2 else ch.killTokens p d.1 d.2.1 d.2.2)
  else ch.routeToken p srcNet (verdictTok confirm d.1 d.2.1 d.2.2)

/-- KLIST_FULL_LIVE follows the kill lists. -/
def Chip.klistSync (ch : Chip) : Chip :=
  ch.setFlag F.DFX_SPEC_STAT_KLIST_FULL_LIVE ((List.range 12).any fun p => decide (1024 ≤ (ch.inn p).klist.length))

/-- A kill of the firings of a node and tag (R326, R336). (DEDUCED, log entry 100.) -/
def Chip.killFirings (ch : Chip) (p node ctx iter : Nat) : Chip :=
  let i := ch.inn p
  let q := (i.ready ++ i.dq).filter fun f => f.provOf node ctx iter
  let gone := i.dq.filter fun f => f.provOf node ctx iter
  let c := ch.setInn p { i with
    ready := i.ready.filter fun f => !f.provOf node ctx iter
    dq := i.dq.filter fun f => !f.provOf node ctx iter }
  let c := gone.foldl (fun c f => c.entryKilled p f.slot f.node f.ctx) c
  let es := i.klist.filter fun e => e.node == node && e.ctx == ctx && e.iter == iter
  let cores := ch.provCores p node ctx iter
  let steps := cores.foldl (fun a n => a + (ch.core p n).steps) 0 + es.foldl (fun a e => a + e.steps) 0
  let c := cores.foldl (fun c n =>
    let k := c.core p n
    let c := match k.firing with
      | some f => c.entryKilled p f.slot f.node f.ctx
      | none => c
    c.setCore p n { k with st := .draining, aborted := true, deferred := [], exc := none }) c
  let c := (es.filter fun e => e.running.isNone).foldl (fun c e => c.entryKilled p e.slot e.node e.ctx) c
  let i := c.inn p
  let c := c.setInn p { i with klist := i.klist.filter fun e => !(e.node == node && e.ctx == ctx && e.iter == iter) }
  let c := es.foldl (fun c e => e.dests.foldl (fun c d => c.sendVerdict p false d) c) c
  let c := (c.specCount F.DFX_SPEC_KFIRE_COUNT 1 (q.length + es.length)).specCount F.DFX_SPEC_STEPS_COUNT 3 steps
  (c.klistSync).refillAll p

/-- A verdict lies in the table: the oldest entry makes room (R326). -/
def Chip.holdVerdict (ch : Chip) (p node ctx iter : Nat) (confirm : Bool) : Chip :=
  if ch.rd F.DFX_SPEC_CTL_HOLD = 0 then ch.count F.DFX_SPEC_VLOST_COUNT F.DFX_SPEC_STAT_VLOST_OVF 0
  else
    let i := ch.inn p
    let v : Verdict := ⟨node, ctx, iter, confirm, ch.now, false⟩
    match (if 256 ≤ i.verdicts.length then i.verdicts else []) with
    | [] => ch.setInn p { i with verdicts := i.verdicts ++ [v] }
    | old :: rest =>
      let c := ch.setInn p { i with verdicts := rest ++ [v] }
      if old.acted then c else c.count F.DFX_SPEC_VLOST_COUNT F.DFX_SPEC_STAT_VLOST_OVF 0

/-- The held verdict that acts on an arriving provisional token. -/
def Inn.verdictFor (i : Inn) (t : BitVec 128) : Option Verdict :=
  if Token.provisional t then
    i.verdicts.find? fun v => v.node == Token.node t && v.ctx == Token.context t && v.iter == Token.iteration t
  else none

/-- A held verdict has acted. -/
def Inn.actedOn (i : Inn) (t : BitVec 128) : Inn :=
  let upd (v : Verdict) : Verdict :=
    if v.node == Token.node t && v.ctx == Token.context t && v.iter == Token.iteration t then { v with acted := true } else v
  { i with verdicts := i.verdicts.map upd }

/-! ### Dispatch (R290, R291, R344) -/

/-- Idle PEs of a mask, lowest first. -/
def Chip.idlePes (ch : Chip) (p mask : Nat) : List Nat :=
  (List.range 16).filter fun n => bit mask n && (ch.core p n).st == .idle

/-- The PE mask of a firing's node. -/
def Chip.maskOf (ch : Chip) (f : Firing) : Nat := ((ch.placeOf f.slot f.node).elim 0 (·.peMask))

/-- A core at the start of a firing (R344): every register and operand port 0 but VM and AR7, which is the top of the data
stack (R380). -/
def startCore (n entry : Nat) (f : Firing) : Core :=
  let k : Core := { Core.reset with st := .running, firing := some f, pc := entry, poison := f.poison }
  (k.setQ (portCode 4 3) 0xFFFFFFFF#64).setQ (portCode 5 7) (BitVec.ofNat 64 (0x1E0000 + 0x2000 * n + 0x1800))

/-- The dispatcher may start a firing now: a PE of its mask is idle, and a provisional one has a kill-list entry (R325). -/
def Chip.canStart (ch : Chip) (p : Nat) (f : Firing) : Bool :=
  !(ch.idlePes p (ch.maskOf f)).isEmpty && (!f.prov || decide ((ch.inn p).klist.length < 1024))

/-- A LAST sticky value leaves its room when the firing of its iteration is dispatched (R278). -/
def releaseLast (f : Firing) (rs : List Room) : List Room :=
  rs.filter fun r => !(Token.sticky r.tok && Token.last r.tok && r.tok.toNat % 2 ^ 90 / 2 ^ 64 ==
    f.node + Token.port r.tok * 2 ^ 14 + f.ctx * 2 ^ 16 && Token.iteration r.tok == f.iter)

/-- The oldest queued firing that may start does so on the lowest idle PE of its mask (R290, R291, R336). -/
def Chip.dispatch (ch : Chip) (p : Nat) : Chip :=
  let i := ch.inn p
  match pickFirst (fun f => ch.canStart p f) i.dq with
  | none => ch
  | some (f, rest) =>
    match ch.idlePes p (ch.maskOf f) with
    | [] => ch
    | n :: _ =>
      let entry := (ch.nodeOf f.slot f.node).elim 0 (·.entry)
      let i := { i with dq := rest, rooms := releaseLast f i.rooms }
      let i := if f.prov then { i with klist := i.klist ++ [⟨f.slot, f.node, f.ctx, f.iter, [], some n, 0⟩] } else i
      let c := (ch.setInn p i).setCore p n (startCore n entry f)
      let c := if f.prov then (c.specCount F.DFX_SPEC_PROV_COUNT 0 1).klistSync else c
      let c := c.count64 (F.INN_FIRED_COUNT p) (F.INN_OVF_FIRED_WRAP p) 0 (F.INN_FIRED_WRAP_COUNT p) (F.INN_OVF_WRAP_OVF p) 0 1
      let s := c.slot f.slot
      let c := c.setSlot f.slot { s with lastFiring := c.now, fired := true }
      let c := if c.flag F.DFX_DL_STAT_DL_LIVE && c.rd F.DFX_DL_STAT_SLOT == f.slot then
          c.setFlag F.DFX_DL_STAT_DL_LIVE false else c
      c.refillAll p

end Sys2Proof.Machine
end

