-- ==== Sys2Proof/Machine/GraphOps.lean ====
section
/-! DEFINITION. Graph slots (spec/02_route.md R61 to R70, spec/10_tokens_inn.md R275, R295 to R298): the checks of a graph
image, its installation, the announcement over Trail, arming, and the abort of a slot, which is a fabric reset of its
graph. -/

namespace Sys2Proof.Machine

open Sys2Proof

/-! ### Tables of an image (R67, R295 to R297, R331, R332) -/

/-- Bytes of an image. -/
def imgAt (img : List Byte) (off n : Nat) : List Byte := (img.drop off).take n

/-- A node descriptor (R296). -/
def NodeDesc.ofBytes (b : List Byte) : NodeDesc :=
  ⟨fieldAt b 0 4, fieldAt b 4 1, fieldAt b 5 1, fieldAt b 6 2, (List.range 4).map fun k => fieldAt b (8 + k) 1,
    (List.range 4).map fun k => fieldAt b (12 + k) 1, fieldAt b 16 4⟩

def NodeDesc.vkind (d : NodeDesc) (p : Nat) : Nat := bits ((d.ports[p]?).getD 0) 2 2

/-- LOOP of a node in no loop. -/
def noLoop : Nat := 0xFFFFFFFF

/-- A port of a node descriptor is legal (R296). -/
def NodeDesc.portOk (d : NodeDesc) (k : Nat) : Bool :=
  let b := (d.ports[k]?).getD 0
  if k < d.nports then
    decide (b < 128) && d.pkind k != 3 && d.vkind k != 3 &&
      (if d.pkind k = pkMerging then decide (1 ≤ d.mop k) && decide (d.mop k ≤ 4) && decide (1 ≤ d.mcnt k) && d.vkind k == 0
       else d.mop k == 0 && d.mcnt k == 0) &&
      (d.kind != 2 || d.pkind k == pkStrict)
  else b == 0 && d.mcnt k == 0

/-- A node descriptor is legal (R296, R308). -/
def nodeOk (codeLen nloops : Nat) (b : List Byte) : Bool :=
  let d := NodeDesc.ofBytes b
  d.entry % 64 == 0 && decide (d.entry < codeLen) && (d.kind == 1 || d.kind == 2) && decide (1 ≤ d.nports) &&
    decide (d.nports ≤ 4) && decide (d.rooms ≤ 3840) && ((List.range 4).all fun k => d.portOk k) &&
    (d.loop == noLoop || decide (d.loop < nloops)) && reservedZero b [(20, 12)]

/-- A placement entry (R67). -/
def Placement.ofNat (w : Nat) : Placement := ⟨bits w 0 2, bits w 2 4, bits w 8 16, bit w 24⟩

/-- A placement entry is legal (R66, R67). -/
def placeOk (chips w : Nat) : Bool :=
  let p := Placement.ofNat w
  decide (p.pack < 12) && bits w 6 2 == 0 && bits w 25 7 == 0 && p.peMask != 0 && bit chips p.chip

/-- An edge declaration agrees with the nodes it joins (R66, R297). -/
def edgeOk (nodes : List NodeDesc) (place : List Placement) (w : Nat) : Bool :=
  match nodes[bits w 16 14]?, place[bits w 0 14]?, place[bits w 16 14]? with
  | some d, some ps, some pd =>
    bits w 14 2 == 0 && bits w 34 30 == 0 && decide (bits w 30 2 < d.nports) && bits w 32 2 == d.vkind (bits w 30 2) &&
      (bits w 32 2 != 2 || (ps.chip == pd.chip && ps.pack == pd.pack))
  | _, _, _ => false

/-- A loop table entry is legal (R308, R331). -/
def loopOk (nodes : List NodeDesc) (i : Nat) (b : List Byte) : Bool :=
  let named (n : Nat) : Bool := (nodes[n]?).elim false fun d => d.loop == i
  named (fieldAt b 0 2) && named (fieldAt b 2 2) && decide (1 ≤ fieldAt b 4 1) && decide (fieldAt b 4 1 ≤ 64) &&
    reservedZero b [(5, 11)]

/-- A flow table entry (R332). -/
def FlowDecl.ofBytes (b : List Byte) : FlowDecl := ⟨fieldAt b 0 1, fieldAt b 1 1, fieldAt b 2 2, fieldAt b 4 4, fieldAt b 8 4⟩

/-- A flow table entry is legal (R332). -/
def flowOk (b : List Byte) : Bool :=
  let f := FlowDecl.ofBytes b
  reservedZero b [(12, 4)] &&
    (if f.mode = modeStamped then decide (f.stream < 256) && f.first == 0
     else f.mode == modeUnstamped && f.stream == 0)

/-- An initial token is legal (R297). -/
def initOk (base count : Nat) (t : BitVec 128) : Bool :=
  decide (base ≤ Token.context t) && decide (Token.context t < base + count) && !Token.provisional t && !Token.spilled t &&
    !Token.kill t

/-- An extent of an image: its offset is aligned and inside the image, and so is all of it. -/
def extOk (img : List Byte) (off size : Nat) : Bool :=
  off % 64 == 0 && decide (off < img.length) && decide (off + size ≤ img.length)

/-- A qword of the recipe table names an extent. -/
def recipeOk (img : List Byte) (w : Nat) : Bool := extOk img (bits w 0 32) (bits w 32 32)

/-- Header and extents of an image (R295), with its CRC-32C. -/
def headerOk (img : List Byte) : Bool :=
  let f := fieldAt img
  decide (128 ≤ img.length) && f 0 4 == 0x52474C4F && f 4 2 == 1 && decide (f 6 1 < 16) && f 6 1 != 0 &&
    decide (1 ≤ f 8 2) && decide (f 8 2 ≤ 16384) && decide (f 10 2 < 1024) && decide (1 ≤ f 12 2) &&
    decide (f 10 2 + f 12 2 ≤ 1024) && decide (f 14 2 ≤ 4096) && decide (64 ≤ f 20 4) && decide (f 20 4 ≤ 262144) &&
    f 20 4 % 64 == 0 && decide (f 48 1 ≤ 32) && decide (f 56 2 ≤ 256) && f 68 4 % 64 == 0 &&
    reservedZero img [(7, 1), (49, 3), (58, 2), (66, 2), (72, 52)] &&
    extOk img (f 16 4) (f 20 4) && extOk img (f 24 4) (4 * f 8 2) && extOk img (f 28 4) (32 * f 8 2) &&
    extOk img (f 32 4) (8 * f 36 4) && extOk img (f 40 4) (16 * f 14 2) && extOk img (f 44 4) (8 * f 48 1) &&
    extOk img (f 52 4) (16 * f 56 2) && extOk img (f 60 4) (16 * f 64 2) &&
    crc32c (patch img 124 (zeros 4)) == f 124 4

/-- Entries of a table of an image. -/
def imgTable (img : List Byte) (off size n : Nat) : List (List Byte) := (List.range n).map fun i => imgAt img (off + size * i) size

/-- The graph of an image, before its place in the pack SRAMs. -/
def Graph.ofImage (img : List Byte) : Graph :=
  let f := fieldAt img
  { chips := f 6 1, nnodes := f 8 2, ctxBase := f 10 2, ctxCount := f 12 2, crc := f 124 4, codeLen := f 20 4
    scratch := f 68 4
    nodes := (imgTable img (f 28 4) 32 (f 8 2)).map NodeDesc.ofBytes
    place := (imgTable img (f 24 4) 4 (f 8 2)).map fun b => Placement.ofNat (leNat b)
    init := (imgTable img (f 40 4) 16 (f 14 2)).map fun b => withCheck (BitVec.ofNat 128 (leNat b))
    recipes := (imgTable img (f 44 4) 8 (f 48 1)).map fun b => imgAt img (bits (leNat b) 0 32) (bits (leNat b) 32 32)
    loops := (imgTable img (f 52 4) 16 (f 56 2)).map fun b => (fieldAt b 0 2, fieldAt b 2 2, fieldAt b 4 1)
    flows := (imgTable img (f 60 4) 16 (f 64 2)).map FlowDecl.ofBytes
    base := [] }

/-! ### Checks against the chip (R66, R275, R317, R483) -/

/-- Slots that hold a graph. -/
def Chip.loadedSlots (ch : Chip) : List Nat := (List.range 16).filter fun s => (ch.graphOf s).isSome

/-- Rooms that the nodes of a graph homed in a pack declare (R276). -/
def Graph.quota (g : Graph) (chip pack : Nat) : Nat :=
  ((g.nodes.zip g.place).filter fun e => e.2.chip == chip && e.2.pack == pack).foldl (fun a e => a + e.1.rooms) 0

/-- Home packs of a graph on a chip, ascending. -/
def Graph.packs (g : Graph) (chip : Nat) : List Nat :=
  (List.range 12).filter fun p => g.place.any fun e => e.chip == chip && e.pack == p

/-- A flow of the table is a system flow of this chip (R483). -/
def Chip.sysFlow (ch : Chip) (f : Nat) : Bool :=
  (ch.flag F.GBK_SYSFLOW_MOTION_EN && ch.rd F.GBK_SYSFLOW_MOTION_FLOW == f) ||
    (ch.flag F.GBK_SYSFLOW_HEALTH_EN && ch.rd F.GBK_SYSFLOW_HEALTH_FLOW == f) ||
    (ch.flag F.GBK_SYSFLOW_FAULT_EN && ch.rd F.GBK_SYSFLOW_FAULT_FLOW == f) ||
    (ch.pos.val == 0 && ch.flag F.PRC_CTL_ENABLE && ch.rd F.PRC_FLOW_FLOW == f)

/-- The first node whose descriptor or placement is refused. A TENSOR node needs an engine that no graph holds (R386).
(DESIGN CHOICE, log entry 80.) -/
def Chip.badNode (ch : Chip) (img : List Byte) : Option Nat :=
  let f := fieldAt img
  (List.range (f 8 2)).find? fun n =>
    let w := leNat (imgAt img (f 24 4 + 4 * n) 4)
    let p := Placement.ofNat w
    !nodeOk (f 20 4) (f 56 2) (imgAt img (f 28 4 + 32 * n) 32) || !placeOk (f 6 1) w ||
      (p.tensor && p.chip == ch.pos.val && ch.flag (F.TEN_STAT_HELD p.pack))

/-- What the image as a whole must meet beyond its nodes. (DESIGN CHOICE, log entry 80.) -/
def Chip.imageOk (ch : Chip) (img : List Byte) (g : Graph) : Bool :=
  let f := fieldAt img
  let own := ch.pos.val
  ((imgTable img (f 32 4) 8 (f 36 4)).all fun b => edgeOk g.nodes g.place (leNat b)) &&
    (g.init.all fun t => initOk g.ctxBase g.ctxCount t) &&
    ((imgTable img (f 44 4) 8 (f 48 1)).all fun b => recipeOk img (leNat b)) &&
    ((imgTable img (f 52 4) 16 (f 56 2)).zipIdx.all fun e => loopOk g.nodes e.2 e.1) &&
    ((imgTable img (f 60 4) 16 (f 64 2)).all flowOk) &&
    ((List.range 4).all fun c => (List.range 12).all fun p => decide (g.quota c p ≤ 3840)) &&
    ((g.packs own).all fun p =>
      decide (g.quota own p + (List.range 16).foldl (fun a s => a + ch.rd (F.INN_QUOTA_QUOTA p s)) 0 ≤ 3840)) &&
    ((List.range g.ctxCount).all fun i => !ch.flag (F.DFX_CTX_MAP_VALID (g.ctxBase + i))) &&
    (g.flows.all fun d => ch.loadedSlots.all fun s =>
      (ch.graphOf s).elim true fun h => !(h.flows.any fun e => e.flow == d.flow)) &&
    !(g.flows.any fun d => ch.sysFlow d.flow) && (decide (ch.rd F.GBK_CFG_STORE ≠ 0) || g.flows.isEmpty)

/-- Bytes of a pack SRAM that graphs may use. -/
def graphSram : Nat := 0x1E0000

/-- Parts of pack `p`'s SRAM that loaded graphs use: (offset, length). -/
def Chip.sramUsed (ch : Chip) (p : Nat) : List (Nat × Nat) :=
  ch.loadedSlots.flatMap fun s => (ch.graphOf s).elim [] fun g =>
    (g.base.filter fun b => b.1 == p).flatMap fun b => [(b.2.1, g.codeLen), (b.2.2, g.scratch)]

/-- The 64-byte aligned places for `size` bytes in what graphs may use of a pack SRAM. -/
def fits64 (used : List (Nat × Nat)) (size : Nat) : List Nat :=
  if graphSram < size then []
  else ((List.range ((graphSram - size) / 64 + 1)).map (· * 64)).filter fun o => used.all fun u => apart (o, size) u

/-- The places of a code section that leave a place for SCRATCH (R275). -/
def codeFits (used : List (Nat × Nat)) (code scratch : Nat) : List Nat :=
  (fits64 used code).filter fun a => !(fits64 ((a, code) :: used) scratch).isEmpty

/-- A place for code and SCRATCH in each home pack (R275): which of the free places is open. -/
def Chip.placeCode (ch : Chip) (g : Graph) : List Nat → Option (List (Nat × Nat × Nat))
  | [] => some []
  | p :: ps =>
    let used := ch.sramUsed p
    let cs := codeFits used g.codeLen g.scratch
    match cs[Config.number ch.pos.val (ch.draws + 2 * p) % cs.length]? with
    | none => none
    | some a =>
      match chooseFit (Config.number ch.pos.val (ch.draws + 2 * p + 1)) ((a, g.codeLen) :: used) graphSram g.scratch 64 with
      | none => none
      | some b => (ch.placeCode g ps).map fun r => (p, a, b) :: r

/-- The result of the checks of R275: the graph to install, or DETAIL of the refusal. -/
def Chip.checkImage (ch : Chip) (img : List Byte) : Nat ⊕ Graph :=
  if !headerOk img || !bit (fieldAt img 6 1) ch.pos.val then .inl max32
  else match ch.badNode img with
    | some n => .inl n
    | none =>
      let g := Graph.ofImage img
      if !ch.imageOk img g then .inl max32
      else match ch.placeCode g (g.packs ch.pos.val) with
        | none => .inl max32
        | some b => .inr { g with base := b }

/-! ### Installation and arming (R298) -/

/-- DFX_SLOT_STAT codes. -/
def SlotSt.code : SlotSt → Nat
  | .empty => 0
  | .loading => 1
  | .waiting => 2
  | .armed => 2
  | .aborting => 3

/-- The registers of slot `s` follow its state. -/
def Chip.slotSync (ch : Chip) (s : Nat) : Chip :=
  let x := ch.slot s
  let c := (ch.wr (F.DFX_SLOT_STAT_STATE s) x.st.code).setFlag (F.DFX_SLOT_STAT_ARMED s) (x.st == .armed)
  match x.graph with
  | some g => ((c.wr (F.DFX_SLOT_STAT_NNODES s) g.nnodes).wr (F.DFX_SLOT_CTX_BASE s) g.ctxBase).wr (F.DFX_SLOT_CTX_COUNT s)
      g.ctxCount
  | none => ((c.wr (F.DFX_SLOT_STAT_NNODES s) 0).wr (F.DFX_SLOT_CTX_BASE s) 0).wr (F.DFX_SLOT_CTX_COUNT s) 0

/-- A SLOT message (R558). -/
def slotMsg (code s base count crc act blk : Nat) : List Byte :=
  toLe 1 code ++ toLe 1 s ++ toLe 2 base ++ toLe 2 count ++ zeros 2 ++ toLe 4 crc ++ toLe 2 act ++ toLe 2 blk

/-- A SLOT message to each of the other chips of a set. -/
def Chip.tellChips (ch : Chip) (chips : Nat) (msg : List Byte) : Chip :=
  ((List.range 4).filter fun d => bit chips d && d != ch.pos.val).foldl (fun (c : Chip) d => c.sendFlit d 3 3 msg) ch

/-- The flows an arming graph declares (R317, R321). -/
def Chip.declareFlow (ch : Chip) (s : Nat) (d : FlowDecl) : Chip :=
  let open' := if d.mode = modeStamped then (ch.stream d.stream).map (·.nextFrame) else some d.first
  let c := ch.setFlow d.flow { ch.flow d.flow with
    stream := d.stream, hold := d.hold, headSet := open'.isSome, held := [], waiting := [], dropped := [] }
  ((c.wr (F.GBK_FLOW_MODE d.flow) d.mode).wr (F.GBK_FLOW_SLOT d.flow) s).wr (F.GBK_FLOW_HEAD_VALUE d.flow) (open'.getD 0)

/-- The slot is ARMED: flows declared, initial tokens injected in table order, READY sets proceed (R274, R298). -/
def Chip.arm (ch : Chip) (s : Nat) (g : Graph) : Chip :=
  let c := (ch.setSlot s { ch.slot s with st := .armed, lastFiring := ch.now, quiet := 0 }).slotSync s
  let c := g.flows.foldl (fun c d => c.declareFlow s d) c
  let c := g.init.foldl (fun (c : Chip) t =>
    match g.place[Token.node t]? with
    | some pl => if pl.chip = c.pos.val then c.toInn pl.pack srcLoader t else c
    | none => c.toInn 0 srcLoader t) c
  (List.range 12).foldl (fun c p => c.innDo p fun c => c.refillAll p) c

/-! ### Abort (R298) -/

/-- The slot's share of one pack is freed. Its tokens in the crossings of the pack hub are discarded and counted there (R95); the
engine's FROZEN_LIVE, which has no F, stays (R13). (DEDUCED, log entry 141.) -/
def Chip.abortPack (ch : Chip) (s p : Nat) : Chip :=
  let i := ch.inn p
  let mine (t : BitVec 128) : Bool := ch.ctxSlot (Token.context t) == some s
  let lost := (i.inputs.filter fun x => x.back == 0 && mine x.tok).length
  let i := i.annexDrop mine
  let ch := ch.countN F.DFX_XING_DROP_COUNT F.DFX_XING_STAT_DROP_OVF 0 lost
  let c := ch.setAnnex p { i with
    inputs := i.inputs.filter fun x => !mine x.tok
    rooms := i.rooms.filter fun r => !mine r.tok
    ready := i.ready.filter fun f => f.slot != s
    dq := i.dq.filter fun f => f.slot != s
    dups := i.dups.filter fun t => !mine t
    spillWait := i.spillWait.filter fun e => !mine e.1
    provWait := i.provWait.filter fun t => !mine t
    verdicts := i.verdicts.filter fun v => ch.ctxSlot v.ctx != some s
    klist := i.klist.filter fun e => e.slot != s
    loopOpen := i.loopOpen.filter fun e => e.1 != s
    notices := i.notices.filter fun e => e.1 != s }
  let c := (List.range 16).foldl (fun (c : Chip) n =>
    let k := c.core p n
    if k.st != .idle && (k.firing.elim false fun f => f.slot == s) then
      c.setCore p n { k with st := .draining, aborted := true, deferred := [], exc := none }
    else c) c
  let used := c.flag (F.TEN_STAT_HELD p) && c.rd (F.TEN_STAT_SLOT p) == s
  let c := if used then
      ((c.setTen p TenEng.reset).wr (F.TEN_STAT_QLEVEL p) 0).setFlag (F.TEN_STAT_BUSY p) false
    else c
  c.anxSync p

/-- A frame is still before the graph: in capture, in decode, in a block, or held for Mosaic. -/
def Chip.upstream (ch : Chip) (stream frame : Nat) : Bool :=
  let is (x : Stamp) : Bool := x.stream == stream && x.frame == frame
  (ch.media.csi.any fun e => is e.2.stamp) || (ch.media.engines.any fun e => is e.2.stamp) ||
    (ch.media.sessions.any fun e => e.2.awaiting.any fun d => is d.stamp) || (ch.mos.held.any fun h => is h.stamp) ||
    ch.aud.streams.any fun a => a.cur.any fun r => is r.stamp

/-- The media a graph consumed: pictures and blocks return (R213, R220, R247), and frames that nothing carries leave the
route. -/
def Chip.abortMedia (ch : Chip) (s : Nat) : Chip :=
  let m := ch.mos
  let run := m.run.map fun r => if r.slot = s then { r with aborted := true } else r
  let c := ch.setMos { m with
    recipes := m.recipes.filter fun j => j.slot != s
    codelet := m.codelet.filter fun j => j.slot != s
    stalled := m.stalled.filter fun j => j.2.slot != s
    run := run }
  let mine := (c.media.streams.filter fun e => e.2.graph == s).map (·.1)
  let c := (c.mos.held.filter fun h => mine.contains h.stamp.stream).foldl
    (fun (c : Chip) h => c.returnPic h.stamp.stream h.stamp.frame) c
  let a := c.aud
  let streams := a.streams.map fun x =>
    if mine.contains x.stream then
      let x := (List.range x.slots.length).foldl (fun (x : AudStream) i => x.free i) x
      { x with cur := x.cur.map fun (r : BlockRun) => { r with slot := none } }
    else x
  let c := c.setAud { a with
    streams := streams
    fq := a.fq.filter fun j => j.slot != s
    fstalled := a.fstalled.filter fun j => j.2.slot != s
    frun := if (a.frun.elim false fun r => r.1 == s) then none else a.frun }
  mine.foldl (fun (c : Chip) st =>
    match c.stream st with
    | some x =>
      if (c.flowsOf st).isEmpty then
        (x.live.filter fun y => !c.upstream st y.frame).foldl (fun (c : Chip) y => c.frameGone st y.frame) c
      else c
    | none => c) c

/-- The blocks with queues drop the slot's running job, and the Hound its sets (R429, R432, R443). -/
def Chip.abortJobs (ch : Chip) (s : Nat) : Chip :=
  let h := ch.hnd
  let c : Chip := { ch with
    siv := if (ch.siv.elim false fun r => r.slot == s) then none else ch.siv
    hnd := { h with
      sets := h.sets.filter fun x => x.slot != s
      rooms := h.rooms.filter fun x => x.2.slot != s
      run := if (h.run.elim false fun r => r.slot == s) then none else h.run }
    trail := { ch.trail with dma := if (ch.trail.dma.elim false fun r => r.slot == s) then none else ch.trail.dma } }
  (((c.setFlag F.TRL_DMA_STAT_BUSY c.trail.dma.isSome).setFlag F.SIV_STAT_BUSY c.siv.isSome).setFlag F.HND_STAT_BUSY c.hnd.run.isSome).hndLive

/-- Code and SCRATCH wiped (R298, R630). (DEDUCED, log entry 41.) -/
def Chip.wipeGraph (ch : Chip) (g : Graph) : Chip :=
  g.base.foldl (fun c b => (c.store (packBase b.1 + b.2.1) (zeros g.codeLen) false).store (packBase b.1 + b.2.2)
    (zeros g.scratch) false) ch

/-- The graph of slot `s` is aborted, if it is WAITING or ARMED; `tell`: the other chips of CHIPS are told (R298).
(DEDUCED, log entries 81, 155.) -/
def Chip.abortSlot (ch : Chip) (s : Nat) (tell : Bool) : Chip :=
  let x := ch.slot s
  match x.graph with
  | none => ch
  | some g =>
    if x.st ≠ .waiting ∧ x.st ≠ .armed then ch
    else
      let c := if tell then ch.tellChips g.chips (slotMsg 2 s g.ctxBase g.ctxCount g.crc 0 0) else ch
      let c := c.adpAbort s
      let c := (List.range 12).foldl (fun c p => c.innDo p fun c => c.abortPack s p) c
      let c := if x.st = .armed then g.flows.foldl (fun c d => c.flowUndeclare d.flow) c else c
      let c := ((c.abortMedia s).abortJobs s).wipeGraph g
      let c := (List.range g.ctxCount).foldl (fun (c : Chip) i =>
        (c.setFlag (F.DFX_CTX_MAP_VALID (g.ctxBase + i)) false).wr (F.DFX_CTX_MAP_SLOT (g.ctxBase + i)) 0) c
      let c := (List.range 12).foldl (fun c p => c.wr (F.INN_QUOTA_QUOTA p s) 0 |>.wr (F.INN_QUOTA_USED p s) 0) c
      let c := if c.flag F.DFX_DL_STAT_DL_LIVE && c.rd F.DFX_DL_STAT_SLOT == s then c.setFlag F.DFX_DL_STAT_DL_LIVE false else c
      (c.setSlot s { x with st := .aborting, announced := [], activity := [], fired := false, blocked := false, quiet := 0 }).klistSync
        |>.slotSync s

/-- Every chip of CHIPS has announced the same slot: the slot arms; a difference aborts it (R298). -/
def Chip.tryArm (ch : Chip) (s : Nat) : Chip :=
  let x := ch.slot s
  match x.graph with
  | none => ch
  | some g =>
    if x.st ≠ .waiting then ch
    else
      let others := (List.range 4).filter fun d => bit g.chips d && d != ch.pos.val
      let said := x.announced.filter fun a => others.contains a.1
      if said.any fun a => a.2 != (g.ctxBase, g.ctxCount, g.crc) then ch.abortSlot s true
      else if others.all fun d => said.any fun a => a.1 == d then ch.arm s g
      else ch

/-- A graph installed: context map, code, quotas and holds set; GRAPH_LOAD completes OK; the chip announces itself (R298). -/
def Chip.install (ch : Chip) (s : Nat) (g : Graph) (img : List Byte) : Chip :=
  let own := ch.pos.val
  let x := ch.slot s
  let code := imgAt img (fieldAt img 16 4) g.codeLen
  let c := g.base.foldl (fun (c : Chip) b => c.store (packBase b.1 + b.2.1) code false) ch
  let c := (List.range g.ctxCount).foldl (fun (c : Chip) i =>
    (c.setFlag (F.DFX_CTX_MAP_VALID (g.ctxBase + i)) true).wr (F.DFX_CTX_MAP_SLOT (g.ctxBase + i)) s) c
  let c := (g.packs own).foldl (fun (c : Chip) p => c.wr (F.INN_QUOTA_QUOTA p s) (g.quota own p)) c
  let held := (List.range 12).filter fun p => g.place.any fun e => e.chip == own && e.pack == p && e.tensor
  let c := held.foldl (fun (c : Chip) p => (c.setFlag (F.TEN_STAT_HELD p) true).wr (F.TEN_STAT_SLOT p) s) c
  let c := (c.setSlot s { x with st := .waiting, graph := some g, load := none }).slotSync s
  ({ c with draws := c.draws + 24 } : Chip).tellChips g.chips (slotMsg 1 s g.ctxBase g.ctxCount g.crc 0 0)

end Sys2Proof.Machine
end

