-- ==== Sys2Proof/Machine/TrailOps.lean ====
section
/-! DEFINITION. The Trail link engine (spec/18_latch_trail.md R540 to R553, R561): sequence, replay, credits, routes, link
states and their consequences. -/

namespace Sys2Proof.Machine

open Sys2Proof

/-- TRL_STAT.STATE codes. -/
def trlOff : Nat := 0
def trlTrain : Nat := 1
def trlUp : Nat := 2
def trlRetrain : Nat := 3
def trlSleep : Nat := 4
def trlDown : Nat := 5

def Chip.trlState (ch : Chip) (l : Nat) : Nat := ch.rd (F.TRL_STAT_STATE l)

/-- The neighbour at the other end of a link (R25). -/
def Chip.neighbour (ch : Chip) (l : Nat) : Nat := (ch.pos.val + (if l = 0 then 1 else 3)) % 4

/-- The ring link that a chip's link is. -/
def Chip.ringOf (ch : Chip) (l : Nat) : Nat := (ch.pos.val + (if l = 0 then 0 else 3)) % 4

/-! ### Routes (R547, R549) -/

def Chip.setTrail (ch : Chip) (f : Trail → Trail) : Chip := { ch with trail := f ch.trail }

/-- The LINKS message to both neighbours (R547). -/
def Chip.sendLinks (ch : Chip) : Chip :=
  let msg := toLe 1 (ch.rd F.TRL_RING_UP) ++ toLe 1 ch.pos.val
  [0, 1].foldl (fun (c : Chip) l =>
    if c.trlState l = trlUp then c.queueFlit l ⟨3, 2, newHdr (c.neighbour l) false, padTo 56 msg⟩ else c) ch

/-- The detour to the chip two hops away (R549): kept while the preferred way is up again, until a MARK sent behind the last
flit of each of the virtual channels 0 to 2 was answered. -/
def Chip.detourSync (ch : Chip) : Chip :=
  let own := ch.pos.val
  let a := ch.ringUp own && ch.ringUp (own + 1)
  let b := ch.ringUp (own + 3) && ch.ringUp (own + 2)
  if !b then ch.setTrail fun t => { t with detour := false, marks := [] }
  else if !a then ch.setTrail fun t => { t with detour := true, marks := [] }
  else if ch.trail.detour && ch.trail.marks.isEmpty then
    let n := (ch.trail.markSerial + 1) % 2 ^ 16
    let c := ch.setTrail fun t => { t with markSerial := n, marks := [0, 1, 2] }
    [0, 1, 2].foldl (fun (c : Chip) v => c.sendFlit ((own + 2) % 4) 3 5 (toLe 1 v ++ toLe 1 own ++ toLe 2 n)) c
  else ch

/-- Flits of the DMA job were dropped, or the route to its chip is gone: no request of it is answered any more (R556). -/
def Chip.dmaLost (ch : Chip) (gone : Nat → Bool) : Chip :=
  match ch.trail.dma with
  | some d =>
    if d.reqs.any fun r => gone r.chip then
      (ch.setTrail fun t => { t with dma := some { d with status := 4, reqs := [], next := 2 ^ 32 } }).setFlag
        F.TRL_DMA_STAT_LINK_SEEN true
    else ch
  | none => ch

/-- The ring links of a route to chip `dest` by link `code - 1` are all UP. -/
def Chip.routeUp (ch : Chip) (dest code : Nat) : Bool :=
  let own := ch.pos.val
  let d := (dest + 4 - own) % 4
  match code with
  | 1 => ch.ringUp own && (d == 1 || ch.ringUp (own + 1))
  | 2 => ch.ringUp (own + 3) && (d == 3 || ch.ringUp (own + 2))
  | _ => true

/-- TRL_ROUTE follows the ring links known; a job whose route went down is lost. -/
def Chip.routeSync (ch : Chip) : Chip :=
  let old := [F.TRL_ROUTE_ROUTE0, F.TRL_ROUTE_ROUTE1, F.TRL_ROUTE_ROUTE2, F.TRL_ROUTE_ROUTE3].map ch.rd
  let c := ch.dmaLost fun d => !ch.routeUp d ((old[d]?).getD 0)
  let c := c.detourSync
  (((c.wr F.TRL_ROUTE_ROUTE0 (c.routeCode 0)).wr F.TRL_ROUTE_ROUTE1 (c.routeCode 1)).wr F.TRL_ROUTE_ROUTE2
    (c.routeCode 2)).wr F.TRL_ROUTE_ROUTE3 (c.routeCode 3)

/-- A link's own ring bit, the routes and the LINKS message after a change; a change of link state signals vector 133.
(DEDUCED, log entry 125.) -/
def Chip.ringChange (ch : Chip) (l : Nat) (up : Bool) : Chip :=
  ((ch.wr F.TRL_RING_UP (putBits (ch.rd F.TRL_RING_UP) (ch.ringOf l) 1 (bnat up))).routeSync.sendLinks).msix 133

/-! ### Sequence, replay and credits (R543 to R545) -/

/-- SEQ of a flit lies at or before `a`. -/
def seqUpTo (a : Nat) (f : Flit) : Bool := decide ((a + 256 - f.hdr.seq.toNat) % 256 < 128)

/-- Every flit without acknowledgement leaves again; the event counts in TRL_REPLAY. -/
def Chip.resendAll (ch : Chip) (l : Nat) : Chip :=
  let k := ch.link l
  (ch.setLink l { k with resend := k.replay, resends := k.resends + 1 }).count (F.TRL_REPLAY_COUNT l) (F.TRL_STAT_OVF l) 1

/-- ACK and NAK of an accepted flit. (DEDUCED, log entry 123.) -/
def Chip.gotAck (ch : Chip) (l a : Nat) (nak : Bool) : Chip :=
  let k := ch.link l
  let keep := k.replay.dropWhile (seqUpTo a)
  let moved := decide (keep.length < k.replay.length)
  let k := { k with
    replay := keep
    resend := k.resend.filter fun f => keep.any fun g => g.hdr.seq == f.hdr.seq
    resends := if moved then 0 else k.resends
    nakAck := if moved then none else k.nakAck }
  let c := ch.setLink l k
  if nak && !keep.isEmpty && k.nakAck != some a then
    (c.setLink l { k with nakAck := some a }).resendAll l
  else c

/-- Credits of an accepted flit. (DEDUCED, log entry 123.) -/
def Chip.gotCredits (ch : Chip) (l pool n : Nat) : Chip :=
  let k := ch.link l
  ch.setLink l { k with credits := updAt k.credits pool (· + n) }

/-- The credit of a flit that the chip has moved on goes back. -/
def Chip.freeFlit (ch : Chip) (l pool : Nat) : Chip :=
  let k := ch.link l
  ch.setLink l { k with toReturn := updAt k.toReturn pool (· + 1) }

/-- A flit arrives (R544): whether it is accepted, and the chip after it. -/
def Chip.receive (ch : Chip) (l : Nat) (h : FlitHdr) : Bool × Chip :=
  let k := ch.link l
  let d := (h.seq.toNat + 256 - k.expected) % 256
  if ch.trlState l ≠ trlUp then (false, ch)
  else if d = 0 then
    let c := ch.setLink l { k with expected := (k.expected + 1) % 256, nak := false }
    let c := c.count64 (F.TRL_FLITS_COUNT l) (F.TRL_STAT_WRAP l) 0 (F.TRL_WRAP_COUNT l) (F.TRL_STAT_WRAP_OVF l) 0 1
    (true, (c.gotAck l h.ack.toNat h.nak).gotCredits l h.cpool.val h.cred.val)
  else if d < 128 then (false, ch.setLink l { k with nak := true })
  else (false, ch)

/-- The payload of a TOKENS flit (R558). -/
def tokensPayload (ts : List (BitVec 128)) : List Byte := padTo 56 (padTo 48 (ts.flatMap tokBytes) ++ toLe 1 ts.length)

/-- The tokens of a flit that a relay passes on: each is checked on entry from one link and on exit to the other (R268, R548). -/
def Chip.relayTokens (ch : Chip) (pl : List Byte) : List (BitVec 128) × Chip :=
  (List.range (min 3 (fieldAt pl 48 1))).foldl (fun (a : List (BitVec 128) × Chip) i =>
    match a.2.trailCheck (BitVec.ofNat 128 (fieldAt pl (16 * i) 16)) with
    | (none, c) => (a.1, c)
    | (some t, c) => match c.trailCheck t with
      | (none, c) => (a.1, c)
      | (some t, c) => (a.1 ++ [t], c)) ([], ch)

/-- A hop-0 flit for another chip moves to the other link with HOP 1 (R548); a link that is down or off discards it. -/
def Chip.relay (ch : Chip) (l : Nat) (f : Flit) : Chip :=
  let o := 1 - l
  if ch.trlState o = trlDown ∨ ch.trlState o = trlOff then ((ch.freeFlit l (2 * f.vc)).trailDrop o 1).trailDown o
  else if f.vc = 0 ∧ f.kind = 1 then
    let r := ch.relayTokens f.payload
    if r.1 = [] then r.2.freeFlit l (2 * f.vc)
    else r.2.queueFlit o { f with hdr := newHdr f.hdr.dest.val true, payload := tokensPayload r.1 }
  else ch.queueFlit o { f with hdr := newHdr f.hdr.dest.val true }

/-- A flit of a kind arrives: its payload where it is delivered here. -/
def Chip.arrive (ch : Chip) (l : Nat) (h : FlitHdr) (pl : List Byte) (vc kind : Nat) : Option (List Byte) × Chip :=
  match ch.receive l h with
  | (false, ch) => (none, ch)
  | (true, ch) =>
    if h.dest.val = ch.pos.val then (some (padTo 56 pl), ch.freeFlit l (2 * vc + bnat h.hop))
    else if h.hop then (none, (ch.freeFlit l (2 * vc + 1)).trailDrop l 1)
    else (none, ch.relay l ⟨vc, kind, h, padTo 56 pl⟩)

/-! ### The transmitter (R545, R546) -/

/-- A MARK waits until the flits of its virtual channel to its destination have left (R549). -/
def Link.markWaits (k : Link) (f : Flit) : Bool :=
  f.vc == 3 && f.kind == 5 && ((k.queues[fieldAt f.payload 0 1]?).getD []).any fun g => g.hdr.dest == f.hdr.dest

/-- The first flit of virtual channel `v` that has a credit, and the queue without it. -/
def Link.ready (k : Link) (v : Nat) : Option (Flit × List Flit) :=
  pickFirst (fun f => decide (0 < (k.credits[2 * v + bnat f.hdr.hop]?).getD 0) && !k.markWaits f) ((k.queues[v]?).getD [])

/-- The virtual channel that goes next (R546). -/
def Link.choose (k : Link) : Option Nat :=
  let able := [3, 2, 0, 1].filter fun v => (k.ready v).isSome
  match able.find? fun v => decide (16 ≤ (k.waited[v]?).getD 0) with
  | some v => some v
  | none => able.head?

/-- The credits that the next flit returns: the first pool with some, at most 15. -/
def Link.returns (k : Link) : Nat × Nat :=
  match findIdx (fun n => decide (0 < n)) k.toReturn with
  | some p => (p, min 15 ((k.toReturn[p]?).getD 0))
  | none => (0, 0)

/-- The 64 bytes of a flit: header, payload and the CRC over bytes 0 to 59 (R543, R557). -/
def flitWire (f : Flit) : List Byte :=
  let h := f.hdr
  let head := f.vc % 4 + 4 * bnat h.hop + 8 * (f.kind % 8) + 2 ^ 6 * h.seq.toNat + 2 ^ 14 * h.ack.toNat + 2 ^ 22 * bnat h.nak +
    2 ^ 23 * h.cpool.val + 2 ^ 26 * h.cred.val + 2 ^ 30 * h.dest.val
  let b := toLe 4 head ++ padTo 56 f.payload
  b ++ toLe 4 (crc32c b)

/-- A new flit leaves: it takes the next SEQ and enters the replay buffer. -/
def Chip.launch (ch : Chip) (l : Nat) (f : Flit) : Chip :=
  let k := ch.link l
  let r := k.returns
  let payload := if f.vc = 3 ∧ f.kind = 1 then
      padTo 56 (toLe 8 ch.now ++ (match k.rx with
        | some (tx, at') => toLe 8 tx ++ toLe 8 at'
        | none => []))
    else f.payload
  let g : Flit := { f with
    hdr := { f.hdr with
      seq := BitVec.ofNat 8 k.txSeq, ack := BitVec.ofNat 8 (k.expected + 255), nak := k.nak
      cpool := Fin.ofNat 8 r.1, cred := Fin.ofNat 16 r.2 }
    payload := payload }
  let c := ch.setLink l { k with
    txSeq := (k.txSeq + 1) % 256
    replay := k.replay ++ [g]
    toReturn := updAt k.toReturn r.1 (· - r.2)
    nakTime := if k.nak then some ch.now else k.nakTime }
  c.emit (.flit l (flitWire g))

/-- The idle flit. -/
def idleFlit : Flit := ⟨0, 0, newHdr 0 false, zeros 56⟩

/-- One flit slot of a link (R544, R546). -/
def Chip.transmit (ch : Chip) (l : Nat) : Chip :=
  let k := ch.link l
  if ch.trlState l ≠ trlUp then ch
  else match k.resend with
    | f :: rest =>
      let g : Flit := { f with hdr := { f.hdr with ack := BitVec.ofNat 8 (k.expected + 255), nak := k.nak } }
      (ch.setLink l { k with resend := rest, nakTime := if k.nak then some ch.now else k.nakTime }).emit (.flit l (flitWire g))
    | [] =>
      if 128 ≤ k.replay.length then ch
      else match k.choose with
        | none => (ch.setLink l { k with waited := [0, 0, 0, 0] }).launch l idleFlit
        | some v =>
          match k.ready v with
          | none => ch
          | some (f, q) =>
            let k' := { k with
              queues := updAt k.queues v fun _ => q
              credits := updAt k.credits (2 * v + bnat f.hdr.hop) (· - 1)
              waited := (List.range 4).map fun u =>
                if u != v && (k.ready u).isSome then (k.waited[u]?).getD 0 + 1 else 0 }
            let c := (ch.setLink l k').launch l f
            if f.hdr.hop then c.freeFlit (1 - l) (2 * v) else c

/-! ### Link states (R550 to R552, R561) -/

/-- Graphs with a node on the neighbour of a link are aborted on every chip, with a CONTAIN record each (R70). -/
def Chip.lostNeighbour (ch : Chip) (l : Nat) : Chip :=
  let n := ch.neighbour l
  (List.range 16).foldl (fun (c : Chip) k =>
    let x := c.slot k
    if (x.st == .armed || x.st == .waiting) && ((x.graph.map fun g => bit g.chips n).getD false) then
      (c.abortSlot k true).raise 12 (source 232 (slotQual k)) 0
    else c) ch

/-- Everything held for a link is discarded, and the link starts again from SEQ 0 and full credits (R551): the number of flits
discarded and the chip. (DEDUCED, log entry 124.) -/
def Chip.linkFlush (ch : Chip) (l : Nat) : Nat × Chip :=
  let k := ch.link l
  let q := k.queues.flatten
  let n := k.replay.length + q.length
  let c := q.foldl (fun (c : Chip) f => if f.hdr.hop then c.freeFlit (1 - l) (2 * f.vc) else c) ch
  let c := c.dmaLost fun d => c.routeCode d == l + 1
  (n, (c.setLink l { Link.reset with attempts := k.attempts, rx := k.rx, excess := k.excess }).trailDrop l n)

/-- A UP link retrains (R550, R561). -/
def Chip.retrain (ch : Chip) (l : Nat) : Chip :=
  if ch.trlState l = trlUp then
    let c := (ch.wr (F.TRL_STAT_STATE l) trlRetrain).count (F.TRL_RETRAIN_COUNT l) (F.TRL_STAT_OVF l) 2
    (c.setLink l { c.link l with attempts := 1, resume := true }).msix 133
  else ch

/-- A training attempt starts. -/
def Chip.train (ch : Chip) (l : Nat) : Chip :=
  let c := ch.wr (F.TRL_STAT_STATE l) trlTrain
  (c.setLink l { c.link l with attempts := 1 }).msix 133

/-- A link that is OFF with EN 1 starts its first attempt (R561). -/
def Chip.linkStart (ch : Chip) (l : Nat) : Chip :=
  if ch.trlState l = trlOff ∧ ch.flag (F.TRL_CTL_EN l) then ch.train l else ch

/-- A link goes OFF: its state is lost. -/
def Chip.linkOff (ch : Chip) (l : Nat) : Chip :=
  if ch.trlState l = trlOff then ch
  else
    let c := (ch.linkFlush l).2
    let c := ((c.wr (F.TRL_STAT_STATE l) trlOff).setFlag (F.TRL_STAT_WIDTH l) false).wr (F.TRL_STAT_LANES l) 0
    (c.setLink l Link.reset).ringChange l false

/-- The third attempt failed: the link is DOWN (R549, R561). (DEDUCED, log entry 124.) -/
def Chip.linkDown (ch : Chip) (l : Nat) : Chip :=
  let c := (ch.linkFlush l).2
  let c := ((c.wr (F.TRL_STAT_STATE l) trlDown).setFlag (F.TRL_STAT_WIDTH l) false).wr (F.TRL_STAT_LANES l) 0
  ((c.setFlag (F.TRL_STAT_DOWN_SEEN l) true).trailDown l).ringChange l false |>.lostNeighbour l

/-- The link takes part in training: in an attempt of its own, or in that of a neighbour that wakes (R552, R561).
(DEDUCED, log entry 158.) -/
def Chip.training (ch : Chip) (l : Nat) : Bool :=
  let st := ch.trlState l
  st == trlTrain || st == trlRetrain || (st == trlSleep && ch.pwr != pwrDoze)

/-- A training attempt completes (R550, R551): `lanes` are good at both ends, `resume` and `exp` are what the partner sent. -/
def Chip.trained (ch : Chip) (l lanes : Nat) (resume : Bool) (exp : Nat) : Chip :=
  if ch.training l = true ∧ (lanes = 15 ∨ lanes = 3 ∨ lanes = 12) then
    let c := ((ch.wr (F.TRL_STAT_STATE l) trlUp).setFlag (F.TRL_STAT_WIDTH l) (lanes == 15)).wr (F.TRL_STAT_LANES l) lanes
    let c := if lanes = 15 then c else (c.setFlag (F.TRL_STAT_DEGRADE_SEEN l) true).trailDown l
    let k := c.link l
    let c :=
      if k.resume && resume then
        let keep := k.replay.dropWhile (seqUpTo (exp + 255))
        c.setLink l { k with replay := keep, resend := keep, resends := 0, nakAck := none }
      else
        let r := c.linkFlush l
        if k.resume then ((r.2.setFlag (F.TRL_STAT_RESET_SEEN l) true).trailDown l).lostNeighbour l
        else if r.1 = 0 then r.2 else r.2.trailDown l
    (c.setLink l { c.link l with attempts := 0, resume := false }).ringChange l true
  else ch

/-- SLEEP sent at Doze entry (R552), for a credit of its pool (R545). -/
def Chip.linkSleep (ch : Chip) (l : Nat) : Chip :=
  if ch.trlState l = trlUp then
    let k := ch.link l
    let c := (ch.setLink l { k with credits := updAt k.credits 6 (· - 1) }).launch l ⟨3, 7, newHdr (ch.neighbour l) false, zeros 56⟩
    let c := c.wr (F.TRL_STAT_STATE l) trlSleep
    (c.setLink l { c.link l with resume := true }).msix 133
  else ch

/-- The link trains again at wake, with RESUME 1 (R552). -/
def Chip.linkWake (ch : Chip) (l : Nat) : Chip := if ch.trlState l = trlSleep then ch.train l else ch

end Sys2Proof.Machine
end

