-- ==== Sys2Proof/Machine/Faults.lean ====
section
/-! DEFINITION. Fault reactions, acknowledgements and watchdogs (spec/20_faults.md R598 to R609). -/

namespace Sys2Proof.Machine

open Sys2Proof

/-! ### Reactions (R598 to R603) -/

/-- The CONTAIN reaction: a slot-bound event aborts its slot; in Doze it waits for the wake (R598, R600). -/
def Chip.contain (ch : Chip) (src : Nat) : Chip :=
  match srcSlot src with
  | some s =>
    if ch.pwr = pwrDoze then { ch with fcu := { ch.fcu with dozeAborts := insNat ch.fcu.dozeAborts s } }
    else ch.abortSlot s true
  | none => ch

/-- The SAFE_STOP reaction on E0 (R598); where SAFE_LATCH is set it is in force already. (DEDUCED, log entry 118.) -/
def Chip.safeStopReaction (ch : Chip) : Chip :=
  if ch.pos.val = 0 ∧ ch.flag F.SEN_STAT_SAFE_LATCH = false then
    let c := ch.stopMotion
    c.motionStatus 0xFF 3 c.now
  else ch

/-- Records of a flow that its ring can take now. -/
def Chip.drainFlow (ch : Chip) (f : Nat) : Nat → Chip
  | 0 => ch
  | n + 1 => (ch.recordOut f).drainFlow f n

/-- Both Trail links stop. (DEDUCED, log entry 62.) -/
def Chip.stopLinks (ch : Chip) : Chip := (ch.linkOff 0).linkOff 1

/-- Every ring that serves or drains stops and signals, and the registrations of their lines lapse (R131, R139, R602). -/
def Chip.stopRings (ch : Chip) : Chip :=
  let ns := (List.range 128).filter fun n =>
    ch.ringState n == ringActive || ch.ringState n == ringOverflow || ch.ringState n == ringDraining
  let c := ns.foldl (fun (c : Chip) n => (c.wr (F.RNG_STATE_STATE n) ringStopped).setFlag (F.RNG_CTL_ENABLE n) false) ch
  (ns.foldl (fun (c : Chip) n => c.signal n) c).lnUpdate

/-- HALT (R602, R603). (DEDUCED, log entry 62.) -/
def Chip.halt (ch : Chip) (e : FaultEv) : Chip :=
  let f := ch.rd F.GBK_SYSFLOW_FAULT_FLOW
  let c := if ch.flag F.GBK_SYSFLOW_FAULT_EN && ch.pwr != pwrDoze then ch.drainFlow f (ch.flow f).released.length else ch
  let c := if c.rd F.FCU_HALT_SRC_CLASS = 0 then
      ((((c.wr F.FCU_HALT_SRC_CLASS (rowClass e.row)).wr F.FCU_HALT_SRC_ROW e.row).wr F.FCU_HALT_SRC_SOURCE e.source).wr
        F.FCU_HALT_TIME_TIME e.time)
    else c
  let c := c.stopRings
  let c := (List.range 16).foldl (fun (c : Chip) s => c.abortSlot s false) c
  let c := c.stopLinks
  let c := (c.wr F.HIF_STATUS_MODE 2).setFlag F.HIF_STATUS_READY false
  { c with hif := { c.hif with state := .halted } }

/-- The reaction of level `l` to an event. -/
def Chip.react (ch : Chip) (l : Nat) (e : FaultEv) : Chip :=
  if ch.halted then ch
  else
    let c := if lvContain ≤ l then ch.contain e.source else ch
    let c := if lvSafeStop ≤ l then c.safeStopReaction else c
    if lvHalt ≤ l then c.halt e else c

/-- The collector takes an event and its reaction (R593 to R601). -/
def Chip.takeFault (ch : Chip) (e : FaultEv) : Chip :=
  let r := ch.collect e
  r.2.react r.1 e

/-- The Bupin copies FCU_HALT_SRC and FCU_HALT_TIME of a chip that HALT stopped into its general log (R602, R688). -/
def logHalt (c : ChipId) (s t : State) : State :=
  let ch := t.chip c
  if (s.chip c).halted || !ch.halted then t
  else
    let src := ch.rd F.FCU_HALT_SRC_CLASS + 2 ^ 8 * ch.rd F.FCU_HALT_SRC_ROW + 2 ^ 16 * ch.rd F.FCU_HALT_SRC_SOURCE
    t.modTray fun x => x.logGen 8 c.val (toLe 4 src ++ toLe 8 (ch.rd F.FCU_HALT_TIME_TIME))

/-- An uncorrectable SRAM error in the audio front end lies in its history, one in the Porch in its ring: what is read next from
there carries POISON (R267, R484). (DEDUCED, log entry 154.) -/
def Chip.audioEcc (ch : Chip) (row src : Nat) : Chip :=
  if row = 5 ∧ src % 512 = 225 then { ch with media := { ch.media with audio := { ch.media.audio with ecc := true } } }
  else if row = 5 ∧ src % 512 = 282 then ch.setPorch { ch.media.porch with ecc := true }
  else ch

/-- FAULT_EVENT (R590, R593): the collector takes the oldest event; `ext` is one that a unit raises by itself.
(DEDUCED, log entry 159.) -/
def execFaultEvent (c : ChipId) (ext : Option FaultIn) (s : State) : Res :=
  let f (ch : Chip) : Chip :=
    let ch := match ext with
      | some f => if f.row.val = 0 ∨ srcReal f.source.toNat = false then ch
        else (ch.audioEcc f.row.val f.source.toNat).raise f.row.val f.source.toNat f.detail.toNat
      | none => ch
    match ch.faultQ with
    | [] => ch
    | e :: rest => ({ ch with faultQ := rest } : Chip).takeFault e
  .next (if (s.chip c).inReset then s else logHalt c s (s.modChip c f))

/-! ### Acknowledgement (R604, R605) -/

/-- FCU_ACK.GO. -/
def Chip.fcuAckGo (ch : Chip) : Chip :=
  match ch.ackRec (ch.rd F.FCU_ACK_RECORD) with
  | some c => c
  | none => ch.setFlag F.FCU_STAT_ACK_BAD_SEEN true

/-- FCU_ACK_GO (R604). -/
def execFcuAckGo (c : ChipId) (s : State) : Res := onChip s c fun ch => ch.fcuAckGo

/-- FAULT_LIVE_CLEAR (R594, R604, R613): a record's condition cleared; an acknowledged record is freed. -/
def execFaultLiveClear (c : ChipId) (i : Fin 256) (s : State) : Res :=
  onChip s c fun ch =>
    if ch.rd (F.FCU_REC_STAT_CLASS i.val) = 0 ∨ ch.liveNow i.val = true then ch
    else if ch.flag (F.FCU_REC_STAT_SEEN i.val) then ch.setFlag (F.FCU_REC_STAT_LIVE i.val) false
    else (ch.freeRec i.val).fcuSummary

/-! ### Watchdog, lockstep and injection (R606, R608) -/

/-- FCU_WDOG.KICK written: only the Steward rearms. (DEDUCED, log entry 56.) -/
def Chip.wdogKick (ch : Chip) (r : Requester) : Chip :=
  match r with
  | .steward => { ch with fcu := { ch.fcu with kicked := ch.now } }
  | .host => ch.hifErr 2 false 0x160010

/-- WATCHDOG_KICK (R606). -/
def execWatchdogKick (c : ChipId) (r : Requester) (s : State) : Res := onChip s c fun ch => ch.wdogKick r

/-- STEWARD_WATCHDOG_EXPIRY (R606): PERIOD ms since the last rearm, from READY on and outside Doze. (DEDUCED, log entry 118.) -/
def execStewardWatchdogExpiry (c : ChipId) (s : State) : Res :=
  onChip s c fun ch =>
    if ch.flag F.HIF_STATUS_READY ∧ ch.pwr ≠ pwrDoze ∧ ch.fcu.kicked + ch.rd F.FCU_WDOG_PERIOD * 1000000 ≤ ch.now then
      ch.raise 25 (source 229 0) ch.fab.steward.core.pc
    else ch

/-- LOCKSTEP_SELFTEST (R608): after READY; `ok`: the comparator flagged every injected difference. (DEDUCED, log entry 159.) -/
def execLockstepSelftest (c : ChipId) (ok : Bool) (s : State) : Res :=
  onChip s c fun ch =>
    if ch.flag F.HIF_STATUS_READY then
      if ok then { ch with fab := { ch.fab with steward := { ch.fab.steward with selftest := ch.fab.steward.selftest + 1 } } }
      else ch.raise 27 (source 229 0) ch.fab.steward.core.pc
    else ch

/-- FCU_INJECT.GO in DEVELOP: a synthetic event with DETAIL 0; a reserved domain raises none (R91). -/
def Chip.faultInject (ch : Chip) : Chip :=
  let row := ch.rd F.FCU_INJECT_ROW
  if ch.develop ∧ 1 ≤ row ∧ row ≤ 34 ∧ srcReal (ch.rd F.FCU_INJECT_SOURCE) then ch.raise row (ch.rd F.FCU_INJECT_SOURCE) 0 else ch

/-- FAULT_INJECT (R615). -/
def execFaultInject (c : ChipId) (s : State) : Res := onChip s c fun ch => ch.faultInject

end Sys2Proof.Machine
end

