-- ==== Sys2Proof/Machine/Guestbook.lean ====
section
/-! DEFINITION. The Guestbook's commands and the health sampler (spec/11_annex_guestbook.md R318 to R323, R333;
spec/16_metadata.md R492 to R494). -/

namespace Sys2Proof.Machine

open Sys2Proof

/-- A store of core number `core` to the Guestbook submit word: the 128-byte block is copied, and a block that is misplaced is refused
(R318). -/
def Chip.gbkStore (ch : Chip) (core addr : Nat) (poison : Bool) : Chip :=
  if ch.inShared addr 128 ∧ addr % 64 = 0 then
    ch.submitBytes addr (ch.bytes addr 128) (poison || ch.anyPoison addr 128) (some core)
  else ch.badSub addr

/-- GUESTBOOK_SUBMIT (R318, R327, R333): the store of a PE. A provisional firing's store waits for the verdict.
(DEDUCED, log entry 83.) -/
def execGuestbookSubmit (c : ChipId) (p : PackId) (n : PeId) (addr : Qword) (s : State) : Res :=
  onIsland s c fun ch =>
    ch.deviceCmd p.val n.val 3 addr fun ch _ poison => ch.gbkStore (16 * p.val + n.val) addr.toNat poison

/-- Arrival of the first part of any later position of a flow (R323). -/
def Flow.laterArrival (fl : Flow) (h : Nat) : Option Nat :=
  (argMin (·.arrived) (fl.held.filter fun x => x.position != h)).map (·.arrived)

/-- The head position of flow `f` has reached its deadline (R323). -/
def Chip.headDue (ch : Chip) (f : Nat) : Bool :=
  let fl := ch.flow f
  let h := ch.rd (F.GBK_FLOW_HEAD_VALUE f)
  let later := (fl.laterArrival h).elim false fun t => decide (t + fl.hold * 1000 ≤ ch.now)
  match fl.at h with
  | x :: _ =>
    if ch.flowMode f = modeStamped then decide (x.stamp.stamp + (x.stamp.budget + fl.hold) * 1000 ≤ ch.now) else later
  | [] => later

/-- GUESTBOOK_DEADLINE (R323): the head position of an ordered flow is filled. -/
def execGuestbookDeadline (c : ChipId) (f : Fin 256) (s : State) : Res :=
  onIsland s c fun ch =>
    if ch.flowMode f.val ≠ modePass ∧ (ch.flow f.val).headSet = true ∧ ch.headDue f.val = true ∧ ch.pwr ≠ 2 then ch.fillHead f.val
    else ch

/-- The HEALTH record (R492) of the present instant. (DEDUCED, log entry 84.) -/
def Chip.healthRec (ch : Chip) : List Byte :=
  let g := ch.fab.gbk
  let inn := (List.range 12).foldl (fun a p => max a (ch.rd (F.INN_LEVEL_MAIN p))) 0
  let anx := (List.range 12).foldl (fun a p => a + ch.rd (F.ANX_USED_TOKENS p)) 0
  let seen := (List.range 256).filter fun i => ch.flag (F.FCU_REC_STAT_SEEN i)
  let maxlev := seen.foldl (fun a i => max a (ch.rd (F.FCU_REC_STAT_LEVEL i))) 0
  let hflags := bnat (ch.flag F.MEM_GSTAT_SCRUB_LATE_LIVE) + 2 * bnat (ch.flag F.PWR_PACE_STAT_CEIL_LIVE) +
    4 * bnat (ch.flag F.PWR_PACE_STAT_FLOOR_LIVE) + 8 * bnat g.woke +
    16 * bnat (ch.pos.val == 0 && ch.flag F.SEN_STAT_SAFE_LATCH)
  padTo 64 (toLe 1 0x1B ++ zeros 15 ++ toLe 2 (ch.rd F.PWR_PACE_MEAS_MEAS) ++ toLe 2 (ch.rd F.PWR_VCORE_MV) ++
    toLe 2 (ch.rd F.PWR_TJ_TJ) ++ toLe 1 (ch.rd F.TKP_STAT_STATE) ++ toLe 1 (ch.rd F.HIF_PTM_STAT_VALID) ++ toLe 8 ch.now ++
    toLe 2 (ch.rd F.TKP_SYNC_ERR_E) ++ toLe 2 inn ++ toLe 4 anx ++ toLe 4 g.healthStale ++ toLe 4 seen.length ++
    toLe 1 maxlev ++ toLe 1 hflags ++ zeros 2 ++ toLe 4 g.healthSkips)

/-- The HEALTH sample finds its flow's ring full or in OVERFLOW, or the record store full (R493). -/
def Chip.healthBlocked (ch : Chip) (f : Nat) : Bool :=
  !ch.storeRoom || (match (ch.flow f).bound with
    | some n => ch.outEnabled n && (ch.outFull n || ch.ringState n == ringOverflow)
    | none => false)

/-- HEALTH_SAMPLE (R492 to R494): at a multiple of HEALTH_MS in Run a record is submitted, or a skip is counted.
(DEDUCED, log entry 84.) -/
def execHealthSample (c : ChipId) (s : State) : Res :=
  onIsland s c fun ch =>
    let ms := ch.rd F.GBK_TCFG_HEALTH_MS
    if ch.flag F.GBK_SYSFLOW_HEALTH_EN = true ∧ ms ≠ 0 ∧ ch.pwr = pwrRun ∧ ch.now % (ms * 1000000) = 0 then
      let f := ch.rd F.GBK_SYSFLOW_HEALTH_FLOW
      let set (c : Chip) (g : Guestbook) : Chip := { c with fab := { c.fab with gbk := g } }
      if ch.healthBlocked f then
        let c := ch.count F.GBK_HEALTH_SKIP_COUNT F.GBK_MSTAT_HSKIP_OVF 0
        set c { c.fab.gbk with healthSkips := min max32 (c.fab.gbk.healthSkips + 1) }
      else
        let r := ch.healthRec
        (set ch { ch.fab.gbk with healthStale := 0, healthSkips := 0, woke := false }).sysSubmit f r
    else ch

end Sys2Proof.Machine
end

