-- ==== Sys2Proof/Machine/Latch.lean ====
section
/-! DEFINITION. The Latch unit and its host window (spec/18_latch_trail.md R533 to R539; spec/04_host_link.md R115, R116). -/

namespace Sys2Proof.Machine

open Sys2Proof

/-- The new value of a Latch operation (R534); LOP 9 to 15 name none. -/
def latchNew (lop : Nat) (old v cmp : Qword) : Option Qword :=
  match lop with
  | 0 => some v
  | 1 => some (if old = cmp then v else old)
  | 2 => some (old + v)
  | 3 => some (old &&& v)
  | 4 => some (old ||| v)
  | 5 => some (if old.slt v then v else old)
  | 6 => some (if v.slt old then v else old)
  | 7 => some (if (0 : Qword).slt old then old - 1 else old)
  | 8 => some old
  | _ => none

/-- LAT_OPS counts one operation. -/
def Chip.latchCount (ch : Chip) : Chip :=
  ch.count64 F.LAT_OPS_COUNT F.LAT_STAT_OPS_WRAP 0 F.LAT_WRAP_COUNT F.LAT_STAT_WRAP_OVF 0 1

/-- A Latch word: aligned, in the Common Room or DRAM (R533). -/
def Chip.latchWord (ch : Chip) (a : Nat) : Bool := a % 8 == 0 && ch.inShared a 8

/-- A Latch operation on the word at `a` (R534, R538): the old value, whether it was poisoned, and the chip after it. `poison`:
the requester is poisoned. -/
def Chip.latchOp (ch : Chip) (a lop : Nat) (v cmp : Qword) (poison : Bool) : Qword × Bool × Chip :=
  let old := BitVec.ofNat 64 (ch.load a 8)
  let bad := ch.isPoisoned a
  match latchNew lop old v cmp with
  | some n => (old, bad, (ch.store a (toLe 8 n.toNat) poison).latchCount)
  | none => (old, bad, ch)

/-! ### The host window (R115, R116, R537, R538) -/

/-- The flat address of window word `i`, where the window is enabled and the word lies in its space. -/
def Chip.winWord (ch : Chip) (i : Nat) : Option Nat :=
  let o := ch.rd F.LAT_WIN_BASE * 2 ^ 15 + 8 * i
  if ch.flag F.LAT_WIN_SPACE then (if o + 8 ≤ crSize then some (crBase + o) else none)
  else if o + 8 ≤ ch.usable then some (dramBase + o) else none

/-- Ranges that nothing shows outside the chip while the pixel tap is not enabled (R54): decode and picture pools, Kennel banks, audio
pool, and the pages of open beam sets. -/
def Chip.tapped (ch : Chip) : List (Nat × Nat) :=
  (ch.decBase, ch.kenBase - ch.decBase) :: (ch.kenBase, ch.audBase - ch.kenBase) :: (ch.audBase, ch.rd F.AUD_CFG_POOL * MiB) ::
    ch.media.audio.streams.flatMap fun a =>
      [(a.bset.base + 0x40, a.bset.nbeams * 256), (a.bset.base + 0x1040, a.bset.nbeams * 256)]

/-- A flat address lies in a range. -/
def inSpan (a : Nat) (r : Nat × Nat) : Bool := decide (r.1 ≤ a) && decide (a < r.1 + r.2)

/-- The word at `a` holds samples that must not leave the chip: the pixel tap is not enabled (R54). (DEDUCED, log entry 144.) -/
def Chip.tapHides (ch : Chip) (a : Nat) : Bool := !ch.pixelTap && ch.tapped.any fun r => !apart (a, 8) r

/-- MODE of HIF_STATUS: 0 ROM, 1 FIRMWARE, 2 HALTED (R103). -/
def Chip.romMode (ch : Chip) : Bool := ch.rd F.HIF_STATUS_MODE == 0

/-- The window answers as a window (R103, R537). -/
def Chip.winOn (ch : Chip) : Bool := ch.flag F.LAT_WIN_EN && !ch.romMode

/-- Memory requests are answered: Memory Space Enable of the command register, outside D3hot (R117, R122). -/
def Chip.memSpace (ch : Chip) : Bool := bit (ch.cfg 0x04) 1 && !ch.hif.d3hot

/-- A completion with Unsupported Request, reported through AER (R117). -/
def Chip.unsupported (ch : Chip) : Chip := (ch.aer .unsupportedRequest).send (.cpl .ur false [])

/-- A poisoned word met by the host (R538). -/
def Chip.hostPoison (ch : Chip) : Chip :=
  (ch.count F.LAT_HPOISON_COUNT F.LAT_STAT_HPOISON_OVF 0).setFlag F.LAT_STAT_HPOISON_SEEN true

/-- Bytes of an AtomicOp operand. -/
def atomicBytes : AtomicSize → Nat
  | .s4 => 4
  | .s8 => 8
  | .s16 => 16

/-- The Latch operation of an AtomicOp (R537). -/
def atomicLop : AtomicKind → Nat
  | .fetchAdd => 2
  | .swap => 0
  | .cas => 1

/-- An AtomicOp that the chip does not execute. -/
def Chip.atomicRefused (ch : Chip) (bar2 : Bool) (off : Nat) : Chip := (ch.hifErr 5 bar2 off).unsupported

/-- The word after a 32-bit operation on its dword `hi`: the other dword stays (R537). -/
def dwordOp (lop : Nat) (hi : Bool) (old v cmp : Qword) : Qword :=
  let sh := if hi then 32 else 0
  let d := BitVec.ofNat 64 (bits old.toNat sh 32)
  let n := (latchNew lop d (BitVec.ofNat 64 (v.toNat % 2 ^ 32)) (BitVec.ofNat 64 (cmp.toNat % 2 ^ 32))).getD d
  BitVec.ofNat 64 (putBits old.toNat sh 32 n.toNat)

/-- HOST_ATOMICOP (R115, R117, R537, R538); one on a word that R54 hides is refused. (DEDUCED, log entry 88.) -/
def execHostAtomicop (c : ChipId) (bar2 : Bool) (off : BitVec 26) (op : AtomicKind) (size : AtomicSize) (v cmp : Qword) (s : State) :
    Res :=
  onChip s c fun ch =>
    let o := off.toNat
    let n := atomicBytes size
    if !ch.memSpace then ch.unsupported
    else if o % n ≠ 0 then ch.aer .malformedTlp
    else if bar2 || decide (o < 0x148000) || decide (0x150000 ≤ o) || n == 16 || !ch.winOn then ch.atomicRefused bar2 o
    else match ch.winWord ((o - 0x148000) / 8) with
      | none => ch.atomicRefused bar2 o
      | some a =>
        if ch.tapHides a then ch.atomicRefused bar2 o
        else if ch.isPoisoned a then ch.hostPoison.unsupported
        else
          let old := BitVec.ofNat 64 (ch.load a 8)
          if n = 8 then
            let r := ch.latchOp a (atomicLop op) v cmp false
            r.2.2.send (.cpl .sc false (toLe 8 old.toNat))
          else
            let hi := o % 8 == 4
            let c := (ch.store a (toLe 8 (dwordOp (atomicLop op) hi old v cmp).toNat) false).latchCount
            c.send (.cpl .sc false (toLe 4 (bits old.toNat (if hi then 32 else 0) 32)))

/-- Offset of the holding register of a window word. -/
def winKey (i : Nat) : Nat := 0x148000 + 8 * i

/-- A read of dword `d` of window word `i` (R100, R116, R538). A word that R54 hides reads 0. (DEDUCED, log entry 144.) -/
def Chip.winRead (ch : Chip) (i : Nat) (d : Bool) : Nat × Chip :=
  if d then (Tab.get 0 ch.hif.holdHostR (winKey i), ch)
  else
    let w := (ch.winWord i).elim 0 fun a => if ch.tapHides a then 0 else ch.load a 8
    let c := if ((ch.winWord i).elim false fun a => ch.isPoisoned a) then ch.hostPoison else ch
    (bits w 0 32, { c with hif := { c.hif with holdHostR := Tab.set 0 c.hif.holdHostR (winKey i) (bits w 32 32) } })

/-- A write of dword `d` of window word `i` (R99, R100, R116). -/
def Chip.winWrite (ch : Chip) (i : Nat) (d : Bool) (be v : Nat) : Chip :=
  let off := winKey i + 4 * bnat d
  if be ≠ 15 then ch.hifErr 1 false off
  else match ch.winWord i with
    | none => ch.hifErr 2 false off
    | some a =>
      if d then ch.store a (toLe 8 (Tab.get 0 ch.hif.holdHostW (winKey i) + v % 2 ^ 32 * 2 ^ 32)) false
      else { ch with hif := { ch.hif with holdHostW := Tab.set 0 ch.hif.holdHostW (winKey i) (v % 2 ^ 32) } }

/-- LATCH_WINDOW_ACCESS (R99, R100, R116, R117, R537, R538): a plain access of one or two dwords at offset `off` of the window,
split into dwords in ascending order. -/
def execLatchWindowAccess (c : ChipId) (off : BitVec 15) (size8 wr : Bool) (be : BitVec 8) (ep : Bool) (v : Qword) (s : State) :
    Res :=
  onChip s c fun ch =>
    let o := off.toNat / 4 * 4
    let dws := if size8 then [0, 1] else [0]
    if !ch.memSpace then (if wr then ch.aer .unsupportedRequest else ch.unsupported)
    else if wr then
      if ep then (ch.hifErr 4 false (0x148000 + o)).aer .poisonedTlp
      else dws.foldl (fun (c : Chip) j =>
        let x := o + 4 * j
        if c.winOn then c.winWrite (x / 8) (x % 8 == 4) (bits be.toNat (4 * j) 4) (bits v.toNat (32 * j) 32)
        else c.hifErr 2 false (0x148000 + x)) ch
    else
      let r := dws.foldl (fun (a : List Byte × Chip) j =>
        let x := o + 4 * j
        if a.2.winOn then
          let q := a.2.winRead (x / 8) (x % 8 == 4)
          (a.1 ++ toLe 4 q.1, q.2)
        else (a.1 ++ zeros 4, a.2)) ([], ch)
      r.2.send (.cpl .sc false r.1)

end Sys2Proof.Machine
end

