-- ==== Sys2Proof/Machine/TensorOps.lean ====
section
/-! DEFINITION. The tensor engines' arithmetic (spec/13_tensor.md R384 to R411): command blocks and their checks, reductions,
epilogues, row statistics, compressed images, and a command run tile by tile. -/

namespace Sys2Proof.Machine

open Sys2Proof

def topMatmul : Nat := 1
def topConv : Nat := 2
def topDwconv : Nat := 3
def topPool : Nat := 4

/-- Element size of a type code (R407). -/
def tenElemSize (t : Nat) : Nat := if t = 1 ∨ t = 2 then 1 else if t = 3 ∨ t = 4 then 2 else 4

/-- The float format of a type code. -/
def elemFmt (t : Nat) : FFmt := if t = 3 then fp16 else if t = 4 then bf16 else fp32

/-- A command block's fields (R405). Descriptors are kept as they stand. -/
structure TenBlk where
  top : Nat
  atype : Nat
  btype : Nat
  otype : Nat
  opt : Nat
  act : Nat
  pmode : Nat
  m : Nat
  nw : Nat
  k : Nat
  ih : Nat
  iw : Nat
  kh : Nat
  kw : Nat
  sh : Nat
  sw : Nat
  dh : Nat
  dw : Nat
  pt : Nat
  pl : Nat
  a : Nat
  b : Nat
  o : Nat
  cp : Nat
  tab : Nat
  stat : Nat
  astr : Nat
  bpix : Nat
  brow : Nat
  opix : Nat
  orow : Nat
  zpb : Nat
  zpo : Nat
  lo : Nat
  hi : Nat
  deriving DecidableEq, Repr

def TenBlk.ofBytes (b : List Byte) : TenBlk :=
  let f := fieldAt b
  { top := f 0 1, atype := f 1 1, btype := f 2 1, otype := f 3 1, opt := f 4 1, act := f 5 1, pmode := f 6 1
    m := f 8 4, nw := f 12 4, k := f 16 4, ih := f 20 2, iw := f 22 2, kh := f 24 1, kw := f 25 1, sh := f 26 1, sw := f 27 1
    dh := f 28 1, dw := f 29 1, pt := f 30 1, pl := f 31 1, a := f 32 8, b := f 40 8, o := f 48 8, cp := f 56 8
    tab := f 64 8, stat := f 72 8, astr := f 80 4, bpix := f 84 4, brow := f 88 4, opix := f 92 4, orow := f 96 4
    zpb := f 100 1, zpo := f 101 1, lo := f 104 4, hi := f 108 4 }

namespace TenBlk

def bzc (t : TenBlk) : Bool := bit t.opt 0
def ozc (t : TenBlk) : Bool := bit t.opt 1
/-- DEDUCED, log entry 109. -/
def rowstat (t : TenBlk) : Bool := bit t.opt 2 && t.top != topPool
def axis (t : TenBlk) : Bool := bit t.opt 3
def bmode (t : TenBlk) : Nat := bits t.opt 4 2
def recip (t : TenBlk) : Bool := bit t.opt 6
def unit (t : TenBlk) : Bool := bit t.opt 7
def float (t : TenBlk) : Bool := t.btype == 3 || t.btype == 4
def isMat (t : TenBlk) : Bool := t.top == topMatmul
def isPool (t : TenBlk) : Bool := t.top == topPool
def poolMax (t : TenBlk) : Bool := t.isPool && t.pmode == 1
def ow (t : TenBlk) : Nat := if t.isMat then t.nw else t.nw % 65536
def oh (t : TenBlk) : Nat := if t.isMat then 1 else t.nw / 65536
/-- Output positions. -/
def npos (t : TenBlk) : Nat := t.ow * t.oh
def ea (t : TenBlk) : Nat := tenElemSize t.atype
def eb (t : TenBlk) : Nat := tenElemSize t.btype
def eo (t : TenBlk) : Nat := tenElemSize t.otype
/-- Length of the reduction. -/
def red (t : TenBlk) : Nat :=
  if t.isMat then t.k else if t.top = topConv then t.k * t.kh * t.kw else t.kh * t.kw
/-- Length of the B image (R399). -/
def bLen (t : TenBlk) : Nat :=
  if t.isMat then (t.nw - 1) * t.bpix + t.k * t.eb else (t.ih - 1) * t.brow + (t.iw - 1) * t.bpix + t.k * t.eb
def aLen (t : TenBlk) : Nat := (t.m - 1) * t.astr + t.red * t.ea
/-- Length of the output image (R399). -/
def oLen (t : TenBlk) : Nat :=
  if t.isMat then (t.nw - 1) * t.opix + t.m * t.eo else (t.oh - 1) * t.orow + (t.ow - 1) * t.opix + t.m * t.eo
/-- Bytes that an image occupies, plain or compressed. -/
def room (z : Bool) (len : Nat) : Nat := if z then 320 * ((len + 255) / 256) else len

/-- The zero point of B (R405). -/
def zpbVal (t : TenBlk) : Int := if t.btype = 2 then sgn 8 t.zpb else t.zpb
def zpoVal (t : TenBlk) : Int := if t.otype = 1 then t.zpo else sgn 8 t.zpo

end TenBlk

/-! ### Checks (R405 to R407, R414) -/

/-- The encodings are valid (check 3). -/
def tenFormatOk (raw : List Byte) (t : TenBlk) : Bool :=
  decide (1 ≤ t.top) && decide (t.top ≤ 4) && reservedZero raw [(7, 1), (102, 2), (126, 2)] && decide (t.act < 4) &&
    decide (fieldAt raw 114 2 < 1024) && decide (fieldAt raw 116 4 < 2 ^ 20) && t.bmode != 3 &&
    (if t.isPool then t.atype == 0 && t.otype == t.btype && (t.pmode == 1 || t.pmode == 2) else t.pmode == 0) &&
    (if t.float then
        (t.isPool || t.atype == t.btype) && (t.otype == 3 || t.otype == 4 || t.otype == 6) && t.zpb == 0 && t.zpo == 0 &&
          !(t.recip && t.unit)
      else
        (t.isPool || t.atype == 2) && (t.btype == 1 || t.btype == 2) && (t.otype == 1 || t.otype == 2 || t.otype == 5) &&
          !t.recip && !t.unit && !bit t.opt 2 && !(t.act == 3 && t.otype == 5)) &&
    (t.act != 2 || (if t.float then !((fp32.dec t.hi).lt (fp32.dec t.lo)) else decide (sgn 32 t.lo ≤ sgn 32 t.hi))) &&
    (!t.ozc || (decide (t.m * t.eo ≤ t.opix) && (t.isMat || decide (t.ow * t.opix ≤ t.orow))))

def inRange (lo hi x : Nat) : Bool := decide (lo ≤ x) && decide (x ≤ hi)

/-- The dimensions are valid (check 4). -/
def tenShapeOk (t : TenBlk) : Bool :=
  if t.isMat then
    inRange 1 (2 ^ 20) t.m && inRange 1 (2 ^ 20) t.nw && inRange 1 (2 ^ 20) t.k &&
      [t.ih, t.iw, t.kh, t.kw, t.sh, t.sw, t.dh, t.dw, t.pt, t.pl].all (fun x => x == 0) &&
      (t.nw == 1 || decide (t.m * t.eo ≤ t.opix))
  else
    inRange 1 16384 t.m && inRange 1 4096 t.ow && inRange 1 4096 t.oh &&
      (if t.top = topConv then inRange 1 16384 t.k && decide (t.k * t.kh * t.kw ≤ 2 ^ 20) else t.k == t.m) &&
      inRange 1 4096 t.ih && inRange 1 4096 t.iw && inRange 1 16 t.kh && inRange 1 16 t.kw && inRange 1 16 t.sh &&
      inRange 1 16 t.sw && (if t.isPool then t.dh == 1 && t.dw == 1 else inRange 1 16 t.dh && inRange 1 16 t.dw) &&
      ((t.ow == 1 && t.oh == 1) || (decide (t.m * t.eo ≤ t.opix) && decide (t.ow * t.opix ≤ t.orow)))

/-- The ranges of the own pack's SRAM a graph's commands may read, and the one they may write. -/
def packRanges (g : Graph) (p : Nat) : List (Nat × Nat) × List (Nat × Nat) :=
  let bs := g.base.filter fun b => b.1 == p
  let scr := bs.map fun b => (packBase p + b.2.2, g.scratch)
  ((bs.map fun b => (packBase p + b.2.1, g.codeLen)) ++ scr, scr)

/-- An extent lies inside one of some ranges. -/
def within (rs : List (Nat × Nat)) (a n : Nat) : Bool := rs.any fun r => decide (r.1 ≤ a) && decide (a + n ≤ r.1 + r.2)

/-- The flat address of an extent that a command of graph `g` in pack `p` reads or writes. -/
def Chip.tenExt (ch : Chip) (g : Graph) (p d n : Nat) (write : Bool) : Option Nat :=
  match ch.descAddr (some p) d n with
  | some a =>
    if bits d 48 2 = 2 then (if within (if write then (packRanges g p).2 else (packRanges g p).1) a n then some a else none)
    else some a
  | none => none

/-- An address that may be unused. -/
def opt0 (used : Bool) (x : Option Nat) : Option Nat := if used then x else some 0

/-- The addresses are valid (check 5). -/
def Chip.tenAddrs (ch : Chip) (g : Graph) (p : Nat) (t : TenBlk) : Option TenAddr :=
  let al := fun (used : Bool) (d n : Nat) => !used || d % n == 0
  let useA := !t.isPool
  let useCp := !t.poolMax
  let ok := al useA t.a t.ea && al useA t.astr t.ea && al true t.b (if t.bzc then 64 else t.eb) && al true t.bpix t.eb &&
    al (!t.isMat) t.brow t.eb && al true t.o (if t.ozc then 64 else t.eo) && al true t.opix t.eo && al (!t.isMat) t.orow t.eo &&
    al useCp t.cp 64 && al (t.act == 3) t.tab 64 && al t.rowstat t.stat 64
  if !ok then none
  else do
    let a ← opt0 useA (ch.tenExt g p t.a t.aLen false)
    let b ← ch.tenExt g p t.b (TenBlk.room t.bzc t.bLen) false
    let o ← ch.tenExt g p t.o (TenBlk.room t.ozc t.oLen) true
    let cp ← opt0 useCp (ch.tenExt g p t.cp (16 * (if t.axis then t.npos else t.m)) false)
    let tab ← opt0 (t.act == 3) (ch.tenExt g p t.tab (if t.float then 528 else 256) false)
    let stat ← opt0 t.rowstat (ch.tenExt g p t.stat (16 * t.npos) true)
    return ⟨a, b, o, cp, tab, stat⟩

/-! ### Compressed images (R399 to R401, R410) -/

/-- A block decoded: its 256 bytes, whether its read was poisoned, whether it is corrupt. -/
structure ZBlock where
  bytes : List Byte
  poison : Bool
  corrupt : Bool
  deriving DecidableEq, Repr

/-- The bytes of a block from its mask and data. -/
def unzip : List Bool → List Byte → List Byte
  | [], _ => []
  | false :: t, d => 0#8 :: unzip t d
  | true :: t, d => d.headD 0#8 :: unzip t d.tail

/-- Block `j` of the compressed image at `a`. -/
def Chip.zBlock (ch : Chip) (a j : Nat) : ZBlock :=
  let s := a + 320 * j
  let h := ch.bytes s 64
  let mask := fieldAt h 0 32
  let nnz := fieldAt h 32 2
  let bad := decide (256 < nnz) || popcount 256 mask != nnz || fieldAt h 34 30 != 0
  let n := roundUp (min 256 nnz) 64
  if bad then ⟨zeros 256, ch.anyPoison s 64, true⟩
  else ⟨unzip ((List.range 256).map fun i => bit mask i) (ch.bytes (s + 64) nnz), ch.anyPoison s (64 + n), false⟩

/-- A block slot of 256 bytes: header and data up to a multiple of 64 bytes. -/
def zipBlock (blk : Nat) (bs : List Byte) : List Byte :=
  let data := bs.filter fun b => b != 0#8
  let n := data.length
  let mask := bs.zipIdx.foldl (fun a e => if e.1 = 0#8 then a else a + 2 ^ e.2) 0
  toLe 32 mask ++ toLe 2 n ++ zeros 30 ++ data ++
    (List.range (roundUp n 64 - n)).map fun i => Config.tensorPad blk i

/-! ### Reading operands -/

/-- A value read and whether the read returned poison. -/
abbrev Rd := Nat × Bool

/-- `n` bytes of B at image offset `off`. -/
def Chip.readB (ch : Chip) (z : Option (List ZBlock)) (b off n : Nat) : Rd :=
  match z with
  | none => (ch.load (b + off) n, ch.anyPoison (b + off) n)
  | some bl =>
    let get (i : Nat) : Byte × Bool := match bl[i / 256]? with
      | some k => ((k.bytes[i % 256]?).getD 0#8, k.poison || k.corrupt)
      | none => (0#8, false)
    let xs := (List.range n).map fun i => get (off + i)
    (leNat (xs.map (·.1)), xs.any (·.2))

/-- The taps of an output (m, y, x) in the order of the reduction: offset of A, and offset of B where the tap lies inside the input
(R390 to R393). -/
def TenBlk.taps (t : TenBlk) (m y x : Nat) : List (Nat × Option Nat) :=
  if t.isMat then (List.range t.k).map fun k => (m * t.astr + k * t.ea, some (x * t.bpix + k * t.eb))
  else
    let inside (i j c : Nat) : Option Nat :=
      let iy : Int := (y * t.sh + i * t.dh : Nat) - (t.pt : Int)
      let ix : Int := (x * t.sw + j * t.dw : Nat) - (t.pl : Int)
      if 0 ≤ iy ∧ iy < t.ih ∧ 0 ≤ ix ∧ ix < t.iw then some (iy.toNat * t.brow + ix.toNat * t.bpix + c * t.eb) else none
    (List.range t.kh).flatMap fun i => (List.range t.kw).flatMap fun j =>
      if t.top = topConv then
        (List.range t.k).map fun c => (m * t.astr + ((i * t.kw + j) * t.k + c) * t.ea, inside i j c)
      else [(m * t.astr + (i * t.kw + j) * t.ea, inside i j m)]

/-- An integer element. -/
def intElem (ty v : Nat) : Int := if ty = 2 then sgn 8 v else v

/-- The accumulator of an output in integer mode, from its value `a0` before the tile. -/
def Chip.accInt (ch : Chip) (t : TenBlk) (r : TenAddr) (z : Option (List ZBlock)) (a0 : Int) (m y x : Nat) : Int × Bool :=
  (t.taps m y x).foldl (fun (st : Int × Bool) e =>
    match e.2 with
    | none =>
      if t.isPool then st
      else
        let a : Rd := (ch.load (r.a + e.1) t.ea, ch.anyPoison (r.a + e.1) t.ea)
        (st.1, st.2 || a.2)
    | some off =>
      let b := ch.readB z r.b off t.eb
      let bv := intElem t.btype b.1 - t.zpbVal
      if t.isPool then (st.1 + bv, st.2 || b.2)
      else
        let a : Rd := (ch.load (r.a + e.1) t.ea, ch.anyPoison (r.a + e.1) t.ea)
        (st.1 + intElem t.atype a.1 * bv, st.2 || a.2 || b.2)) (a0, false)

/-- The accumulator of an output in float mode, from its value `a0` before the tile: products in order, each sum rounded (R396). -/
def Chip.accFloat (ch : Chip) (t : TenBlk) (r : TenAddr) (z : Option (List ZBlock)) (a0 m y x : Nat) : Rd :=
  (t.taps m y x).foldl (fun (st : Rd) e =>
    let b : Option Rd := e.2.map fun off => ch.readB z r.b off t.eb
    let bv := (b.map fun v => (elemFmt t.btype).conv fp32 v.1).getD 0
    let bp := (b.map (·.2)).getD false
    if t.isPool then (if b.isSome then (fp32.add st.1 bv, st.2 || bp) else st)
    else
      let a : Rd := (ch.load (r.a + e.1) t.ea, ch.anyPoison (r.a + e.1) t.ea)
      (fp32.add st.1 (fp32.mul ((elemFmt t.atype).conv fp32 a.1) bv), st.2 || a.2 || bp)) (a0, false)

/-- The window's values inside the input, for POOL MAX. -/
def Chip.tenWindow (ch : Chip) (t : TenBlk) (r : TenAddr) (z : Option (List ZBlock)) (m y x : Nat) : List Nat × Bool :=
  let vs := (t.taps m y x).filterMap fun e => e.2.map fun off => ch.readB z r.b off t.eb
  (vs.map (·.1), vs.any (·.2))

/-- The largest raw value of a window (R393); the first of equal ones. -/
def windowMax (t : TenBlk) (vs : List Nat) : Nat :=
  match vs with
  | [] => if t.float then 0 else t.zpb
  | v :: rest =>
    if t.float then
      let f := elemFmt t.btype
      if vs.any fun x => (f.dec x).isNan then (Config.poolNan vs).toNat
      else rest.foldl (fun a x => if (f.dec a).lt (f.dec x) then x else a) v
    else rest.foldl (fun a x => if intElem t.btype a < intElem t.btype x then x else a) v

/-! ### Epilogue (R395 to R397) -/

/-- Activation in integer mode. `tab` is the table as read. -/
def actInt (t : TenBlk) (tab : List Byte) (o : Int) : Int :=
  match t.act with
  | 1 => max o t.zpoVal
  | 2 => min (max o (sgn 32 t.lo)) (sgn 32 t.hi)
  | 3 => intElem t.otype ((tab[usgn 8 o]?).getD 0#8).toNat
  | _ => o

/-- The range of an integer output type. -/
def outRange (ty : Nat) : Int × Int :=
  if ty = 1 then (0, 255) else if ty = 2 then (-128, 127) else (-(2 ^ 31), 2 ^ 31 - 1)

/-- The encoding of an integer output. -/
def encInt (t : TenBlk) (o : Int) : Nat :=
  let r := outRange t.otype
  if r.1 ≤ o ∧ o ≤ r.2 then usgn (8 * t.eo) o else (Config.tensorWide t.otype o).toNat % 2 ^ (8 * t.eo)

/-- The integer epilogue with a CP entry (R395): the output and whether it saturated. (DEDUCED, log entry 111.) -/
def epiInt (t : TenBlk) (cp : List Byte) (tab : List Byte) (a : Int) : Nat × Bool :=
  let bias := sgn 32 (fieldAt cp 0 4)
  let mult := sgn 32 (fieldAt cp 4 4)
  let shift := min 63 (fieldAt cp 8 1)
  let x := if t.bmode = 0 then a + bias else if t.bmode = 1 then a - bias else a
  let r := if shift = 0 then x * mult else sar (x * mult + 2 ^ (shift - 1)) shift
  let o := r + t.zpoVal
  let lim := outRange t.otype
  let s := clampI lim.1 lim.2 o
  (encInt t (actInt t tab s), decide (s ≠ o))

/-- Activation in float mode, on binary32. (DESIGN CHOICE, log entry 110.) -/
def actFloat (t : TenBlk) (tab : List Byte) (u : Nat) : Nat :=
  match t.act with
  | 1 => if (fp32.dec u).isNan then fp32.qnan else if (FV.fin false 0 0).lt (fp32.dec u) then u else 0
  | 2 =>
    if (fp32.dec u).isNan || (fp32.dec t.lo).isNan || (fp32.dec t.hi).isNan then (Config.clampNan u t.lo t.hi).toNat
    else
      let v := if (fp32.dec u).lt (fp32.dec t.lo) then t.lo else u
      if (fp32.dec t.hi).lt (fp32.dec v) then t.hi else v
  | 3 =>
    if (fp32.dec u).isNan then fp32.qnan
    else
      let q := fp32.mul (fp32.sub u (fieldAt tab 0 4)) (fieldAt tab 4 4)
      let s := ((fp32.dec q).floorClamp 0 63).toNat
      fp32.fma (fieldAt tab (16 + 8 * s) 4) u (fieldAt tab (20 + 8 * s) 4)
  | _ => u

/-- The float epilogue with a CP entry (R396), before the conversion to OTYPE. (DESIGN CHOICE, log entry 110.) -/
def epiFloat (t : TenBlk) (cp tab : List Byte) (a : Nat) : Nat :=
  let b := fieldAt cp 0 4
  let x := if t.bmode = 0 then fp32.add a b else if t.bmode = 1 then fp32.sub a b else fp32.add a 0
  let scale := fieldAt cp 4 4
  let u := if t.unit then fp32.mul x 0x3F800000 else fp32.mul x (if t.recip then fp32.recip scale else scale)
  actFloat t tab u

/-! ### Running a command (R394, R398, R401, R403) -/

/-- A tile in progress: the chip, whether its command is poisoned, saturated elements, the output image with its poison (OZC), the
statistics (MAX, SUM) of positions not written yet, the accumulators of the tile. -/
structure TenWork where
  ch : Chip
  poison : Bool
  sat : Nat
  img : Tab (Byte × Bool)
  stats : Tab (Nat × Nat)
  last : Tab Nat

/-- A list cut into pieces of `n`. -/
def pieces (n len : Nat) : List (List Nat) :=
  (List.range ((len + n - 1) / n)).map fun i => (List.range (min n (len - n * i))).map (· + n * i)

/-- The next statistics of a position: MAX ignores NaN, SUM rounds after each addition (R398). -/
def statAdd (st : Option (Nat × Nat)) (y : Nat) : Nat × Nat :=
  match st with
  | none => (if (fp32.dec y).isNan then fp32.qnan else y, fp32.add 0 y)
  | some (m, s) =>
    let m' := if (fp32.dec y).isNan then m else if (fp32.dec m).isNan then y else if (fp32.dec m).lt (fp32.dec y) then y else m
    (m', fp32.add s y)

/-- An output's bytes go to memory, or into the image that compression takes. -/
def TenWork.put (w : TenWork) (t : TenBlk) (r : TenAddr) (poison : Bool) (m y x : Nat) (out : List Byte) : TenWork :=
  let off := y * t.orow + x * t.opix + m * t.eo
  if t.ozc then { w with img := out.zipIdx.foldl (fun i e => Tab.put i (off + e.2) (e.1, poison)) w.img }
  else { w with ch := w.ch.store (r.o + off) out poison }

/-- What a tile reads: `src` is the chip before its outputs are written. -/
structure TileSrc where
  src : Chip
  t : TenBlk
  r : TenAddr
  z : Option (List ZBlock)
  tab : List Byte
  /-- the active set as the tile begins -/
  start : Tab Nat

/-- The accumulator of an output as 48 bits or binary32, or the largest value of its window, and the poison of its reads; `mi` and `ni` are
its place in the tile. -/
def TileSrc.acc (q : TileSrc) (m y x mi ni : Nat) : Nat × Bool :=
  let t := q.t
  let a0 := Tab.get 0 q.start (32 * mi + ni)
  if t.poolMax then
    let v := q.src.tenWindow t q.r q.z m y x
    let b := windowMax t v.1
    (if t.float then (elemFmt t.btype).conv fp32 b else usgn 48 (intElem t.btype b), v.2)
  else if t.float then q.src.accFloat t q.r q.z a0 m y x
  else
    let v := q.src.accInt t q.r q.z (sgn 48 a0) m y x
    (usgn 48 v.1, v.2)

/-- Address of the CP entry of an output. -/
def TileSrc.cpAt (q : TileSrc) (m n : Nat) : Nat := q.r.cp + 16 * (if q.t.axis then n else m)

/-- One output element; `mi` and `ni` are its place in the tile. (DEDUCED, log entry 111.) -/
def TenWork.element (w : TenWork) (q : TileSrc) (poison : Bool) (m y x mi ni : Nat) : TenWork :=
  let t := q.t
  let n := y * t.ow + x
  let cp := if t.poolMax then [] else q.src.bytes (q.cpAt m n) 16
  let acc := (q.acc m y x mi ni).1
  let w : TenWork := { w with last := Tab.set 0 w.last (32 * mi + ni) acc }
  if t.float then
    let v := if t.poolMax then actFloat t q.tab acc else epiFloat t cp q.tab acc
    let w : TenWork := if t.rowstat then { w with stats := Tab.put w.stats n (statAdd (Tab.find w.stats n) v) } else w
    w.put t q.r poison m y x (toLe t.eo (fp32.conv (elemFmt t.otype) v))
  else
    let a := sgn 48 acc
    let e := if t.poolMax then (encInt t (actInt t q.tab a), false) else epiInt t cp q.tab a
    ({ w with sat := w.sat + bnat e.2 } : TenWork).put t q.r poison m y x (toLe t.eo e.1)

/-- One tile: the channels `ms` at the positions (y, `xs`). A poisoned read poisons this tile's outputs and every later one. -/
def TenWork.tile (w : TenWork) (q : TileSrc) (ms : List Nat) (y : Nat) (xs : List Nat) : TenWork :=
  let q : TileSrc := { q with src := w.ch }
  let hurt := ms.any fun m => xs.any fun x =>
    (q.acc m y x 0 0).2 || (!q.t.poolMax && q.src.anyPoison (q.cpAt m (y * q.t.ow + x)) 16)
  let poison := w.poison || hurt
  xs.zipIdx.foldl (fun w ex => ms.zipIdx.foldl (fun (w : TenWork) em => w.element q poison em.1 y ex.1 em.2 ex.2) w)
    { w with poison := poison, last := [] }

/-- The statistics of an n-tile are written once its last channels are done. -/
def TenWork.writeStats (w : TenWork) (r : TenAddr) : TenWork :=
  { w with
    ch := w.stats.foldl (fun (c : Chip) e => c.store (r.stat + 16 * e.1) (toLe 4 e.2.1 ++ toLe 4 e.2.2 ++ zeros 8) w.poison) w.ch
    stats := [] }

/-- n-tiles of a row of outputs, and m-tiles (R394). -/
def TenBlk.nx (t : TenBlk) : Nat := (t.ow + 31) / 32
def TenBlk.nm (t : TenBlk) : Nat := (t.m + 63) / 64

/-- Tiles of a command. -/
def TenBlk.ntiles (t : TenBlk) : Nat := t.oh * t.nx * t.nm

/-- Channels, row and positions of tile `i`: n-tiles outer, m-tiles inner (R394). -/
def TenBlk.tileAt (t : TenBlk) (i : Nat) : List Nat × Nat × List Nat :=
  let n := i / t.nm
  (((pieces 64 t.m)[i % t.nm]?).getD [], n / t.nx, ((pieces 32 t.ow)[n % t.nx]?).getD [])

/-- Blocks of the output image that output writing has passed once `done` tiles are done (R401). -/
def TenBlk.passed (t : TenBlk) (done : Nat) : Nat :=
  if t.ntiles ≤ done then (t.oLen + 255) / 256
  else
    let n := done / t.nm
    min ((t.oLen + 255) / 256) ((n / t.nx * t.orow + n % t.nx * 32 * t.opix) / 256)

/-- The compressed output image from block `lo` up to block `hi` (R401): a byte the command does not produce is 0. -/
def TenWork.writeZ (w : TenWork) (t : TenBlk) (r : TenAddr) (lo hi : Nat) : TenWork :=
  let w := (List.range (hi - lo)).foldl (fun (w : TenWork) k =>
    let j := lo + k
    let n := min 256 (t.oLen - 256 * j)
    let xs := (List.range n).map fun i => Tab.get (0#8, false) w.img (256 * j + i)
    { w with ch := w.ch.store (r.o + 320 * j) (zipBlock j (xs.map (·.1))) (xs.any (·.2)) }) w
  { w with img := w.img.filter fun e => decide (256 * hi ≤ e.1) }

/-- MACs of a command (TEN_MACS): its reductions over every output. (DEDUCED, log entry 109.) -/
def TenBlk.macs (t : TenBlk) : Nat := t.m * t.npos * t.red

end Sys2Proof.Machine
end

