-- ==== Sys2Proof/Machine/Tensor.lean ====
section
/-! DEFINITION. The tensor engines' commands (spec/13_tensor.md R386 to R389, R402 to R406, R412 to R414). -/

namespace Sys2Proof.Machine

open Sys2Proof

/-- QLEVEL follows the queue; a stalled store enters as soon as there is room (R387). -/
def Chip.tenSync (ch : Chip) (p : Nat) : Chip :=
  let e := ch.ten p
  let n := 16 - e.queue.length
  let c := ch.setTen p { e with queue := e.queue ++ (e.stalled.take n).map (·.2), stalled := e.stalled.drop n }
  c.wr (F.TEN_STAT_QLEVEL p) (c.ten p).queue.length

/-- The node of a firing carries TENSOR (R67). -/
def Chip.tensorNode (ch : Chip) (slot node : Nat) : Bool := (ch.placeOf slot node).elim false (·.tensor)

/-- A command queued, or its store stalled. -/
def Chip.tenSubmit (ch : Chip) (core p slot node addr : Nat) : Chip :=
  let e := ch.ten p
  (ch.setTen p { e with stalled := e.stalled ++ [(core, ⟨addr, slot, ch.tensorNode slot node⟩)] }).tenSync p

/-- TENSOR_SUBMIT (R387, R389): a store of a running firing to the tensor submit word; a provisional one waits in its pack. -/
def execTensorSubmit (c : ChipId) (p : PackId) (n : PeId) (addr : Qword) (s : State) : Res :=
  onIsland s c fun ch =>
    ch.deviceCmd p.val n.val 4 addr fun ch f _ => ch.tenSubmit (16 * p.val + n.val) p.val f.slot f.node addr.toNat

/-- STATUS codes of a completion word (R411). -/
def tenBadShape : Nat := 1
def tenBadFormat : Nat := 2
def tenBadAddr : Nat := 3
def tenCorrupt : Nat := 4

/-- The completion token of a command block (R402, R411). -/
def tenToken (blk : List Byte) (st : Nat) (poison : Bool) : BitVec 128 :=
  let tg := fieldAt blk 112 2
  mkToken (st + fieldAt blk 120 6 * 2 ^ 16) (tg % 2 ^ 14) (tg / 2 ^ 14) (fieldAt blk 114 2 % 1024) (fieldAt blk 116 4 % 2 ^ 20)
    (tokPoison poison)

/-- A refused command: its bit, count, address and, where it has a context, its token with POISON (R406). -/
def Chip.tenRefuse (ch : Chip) (p addr st : Nat) (blk : Option (List Byte)) : Chip :=
  let f := if st = tenBadShape then F.TEN_ERR_BAD_SHAPE p else if st = tenBadFormat then F.TEN_ERR_BAD_FORMAT p
    else F.TEN_ERR_BAD_ADDR p
  let c := ((ch.setFlag f true).count (F.TEN_REFUSED_COUNT p) (F.TEN_ERR_OVF p) 0).wr (F.TEN_LAST_CMD_ADDR p) addr
  match blk with
  | some b => c.blockToken (tenToken b st true)
  | none => c

/-- The flat address of a command block: aligned, in the own pack's SRAM, whose flat addresses begin at 0 (R351), the Common Room or the
DRAM (R388). -/
def Chip.tenBlkAt (ch : Chip) (p a : Nat) : Option Nat :=
  if a % 64 ≠ 0 then none
  else if a + 128 ≤ 0x200000 then some (packBase p + a)
  else if ch.inShared a 128 then some a else none

/-- Each tile reads its operands anew: every block of a compressed B, and the table (R400, R403, R404, R414). -/
def Chip.tileSrc (ch : Chip) (p : Nat) (t : TenBlk) (r : TenAddr) : TileSrc :=
  ⟨ch, t, r, if t.bzc then some ((List.range ((t.bLen + 255) / 256)).map fun j => ch.zBlock r.b j) else none,
    if t.act = 3 then ch.bytes r.tab (if t.float then 528 else 256) else [], (ch.ten p).active⟩

/-- Corrupt blocks of B that a tile meets. -/
def TileSrc.corrupt (q : TileSrc) : List Nat :=
  (List.range (q.z.getD []).length).filter fun j => ((q.z.getD [])[j]?).elim false (·.corrupt)

/-- What a tile reads for all its outputs is poisoned: a block of B, or the table (R403). -/
def TileSrc.hurt (q : TileSrc) : Bool :=
  ((q.z.getD []).any fun b => b.poison || b.corrupt) ||
    (q.t.act == 3 && q.src.anyPoison q.r.tab (if q.t.float then 528 else 256))

/-- The next tile of a running command, with its drain: outputs written, the sets swapped (R390 to R404). -/
def Chip.tenTile (ch : Chip) (p : Nat) (r : TenRun) : Chip :=
  let t := TenBlk.ofBytes r.blk
  let q := ch.tileSrc p t r.addr
  let bad := q.corrupt.filter fun j => !r.corrupt.contains j
  let x := t.tileAt r.tile
  let w := (TenWork.mk ch (r.poison || q.hurt) 0 r.img r.stats []).tile q x.1 x.2.1 x.2.2
  let w := if (r.tile + 1) % t.nm = 0 then w.writeStats r.addr else w
  let hi := if t.ozc then t.passed (r.tile + 1) else 0
  let w := if t.ozc then w.writeZ t r.addr r.zdone hi else w
  let c := w.ch.countN (F.TEN_CORRUPT_COUNT p) (F.TEN_ERR_OVF p) 1 bad.length
  let c := if bad.isEmpty then c else c.setFlag (F.TEN_ERR_CORRUPT_SEEN p) true
  let c := c.countN (F.TEN_SAT_COUNT p) (F.TEN_ERR_OVF p) 2 w.sat
  let c := if w.sat = 0 then c else c.setFlag (F.TEN_ERR_SAT_SEEN p) true
  let c := if w.poison then c.setFlag (F.TEN_ERR_POISON_SEEN p) true else c
  c.setTen p { c.ten p with
    run := some { r with
      tile := r.tile + 1, poison := w.poison, corrupt := r.corrupt ++ bad, img := w.img, zdone := hi, stats := w.stats }
    active := [], shadow := w.last, float := t.float }

/-- All tiles of a running command are drained. -/
def TenRun.drained (r : TenRun) : Bool := decide ((TenBlk.ofBytes r.blk).ntiles ≤ r.tile)

/-- The running command goes on by at most `n` tiles; it stands still while frozen (R412). -/
def Chip.tenTiles (ch : Chip) (p : Nat) : Nat → Chip
  | 0 => ch
  | n + 1 =>
    match (ch.ten p).run with
    | none => ch
    | some r => if r.drained || ch.flag (F.TEN_STAT_FROZEN_LIVE p) then ch else (ch.tenTile p r).tenTiles p n

/-- A command that passed its checks is Running; the active set starts from 0. -/
def Chip.tenStart (ch : Chip) (p slot : Nat) (blk : List Byte) (poison : Bool) (r : TenAddr) : Chip :=
  let run : TenRun := ⟨slot, blk, r, 0, poison, [], [], 0, []⟩
  (ch.setTen p { ch.ten p with run := some run, active := [] }).setFlag (F.TEN_STAT_BUSY p) true

/-- The engine takes the command at the head of its queue, if its TOP is one of `tops`, and checks it (R388, R406). A block that lies
nowhere is refused without a token. (DEDUCED, log entry 108.) -/
def Chip.tenTake (ch : Chip) (p : Nat) (tops : Nat → Bool) : Chip :=
  let e := ch.ten p
  match e.queue with
  | [] => ch
  | cmd :: rest =>
    if e.run.isSome || ch.flag (F.TEN_STAT_FROZEN_LIVE p) then ch
    else
      let blk := (ch.tenBlkAt p cmd.addr).elim [] fun a => ch.bytes a 128
      if !tops (fieldAt blk 0 1) then ch
      else
        let c := (ch.setTen p { e with queue := rest }).tenSync p
        match ch.tenBlkAt p cmd.addr with
        | none => c.tenRefuse p cmd.addr tenBadAddr none
        | some at' =>
          let t := TenBlk.ofBytes blk
          match (ch.slot cmd.slot).graph with
          | none => c
          | some g =>
            let ctx := fieldAt blk 114 2 % 1024
            if ctx < g.ctxBase ∨ g.ctxBase + g.ctxCount ≤ ctx then
              (c.wr (F.TEN_LAST_CMD_ADDR p) cmd.addr).raise 33 (source (18 * p + 16) (slotQual cmd.slot)) cmd.addr
            else if cmd.tensor = false then c.tenRefuse p cmd.addr tenBadShape (some blk)
            else if tenFormatOk blk t = false then c.tenRefuse p cmd.addr tenBadFormat (some blk)
            else if tenShapeOk t = false then c.tenRefuse p cmd.addr tenBadShape (some blk)
            else match c.tenAddrs g p t with
              | none => c.tenRefuse p cmd.addr tenBadAddr (some blk)
              | some r => c.tenStart p cmd.slot blk (ch.anyPoison at' 128) r

/-- The engine takes a command of one of the operations `tops` if it is idle, and runs as many of its tiles as the command allows; a
running command of another operation goes on under that one's name. (DEDUCED, log entry 108.) -/
def Chip.tenGo (ch : Chip) (p tiles : Nat) (tops : Nat → Bool) : Chip :=
  let c := ch.tenTake p tops
  match (c.ten p).run with
  | some r => if tops (fieldAt r.blk 0 1) then c.tenTiles p tiles else c
  | none => c

/-- MATMUL (R390, R394 to R403); a block without a legal TOP is refused here. -/
def execMatmul (c : ChipId) (p : TenSteps) (s : State) : Res :=
  onIsland s c fun ch => ch.tenGo p.pack.val p.tiles fun t => t != topConv && t != topDwconv && t != topPool

/-- CONV (R391, R394 to R403). -/
def execConv (c : ChipId) (p : TenSteps) (s : State) : Res := onIsland s c fun ch => ch.tenGo p.pack.val p.tiles fun t => t == topConv

/-- DWCONV (R392, R394 to R403). -/
def execDwconv (c : ChipId) (p : TenSteps) (s : State) : Res := onIsland s c fun ch => ch.tenGo p.pack.val p.tiles fun t => t == topDwconv

/-- POOL (R393, R395 to R403). -/
def execPool (c : ChipId) (p : TenSteps) (s : State) : Res := onIsland s c fun ch => ch.tenGo p.pack.val p.tiles fun t => t == topPool

/-- TENSOR_COMMAND_COMPLETE (R402, R412): once the last tile is drained the token leaves; with FREEZE the engine stops before the next command. -/
def execTensorCommandComplete (c : ChipId) (p : PackId) (s : State) : Res :=
  onIsland s c fun ch =>
    let e := ch.ten p.val
    match e.run with
    | none => ch
    | some r =>
      if !r.drained || ch.flag (F.TEN_STAT_FROZEN_LIVE p.val) then ch
      else
      let c := (ch.setTen p.val { e with run := none }).setFlag (F.TEN_STAT_BUSY p.val) false
      let c := c.blockToken (tenToken r.blk (if r.corrupt.isEmpty then 0 else tenCorrupt) r.poison)
      let cnt (c : Chip) (f : Field) (w n : Nat) : Chip :=
        c.count64 f (F.TEN_ERR_WRAP p.val) w (F.TEN_WRAP_COUNT p.val) (F.TEN_ERR_WRAP_OVF p.val) 0 n
      let c := cnt (cnt c (F.TEN_CMDS_COUNT p.val) 0 1) (F.TEN_MACS_COUNT p.val) 1 (TenBlk.ofBytes r.blk).macs
      if c.flag (F.TEN_DBG_CTL_FREEZE p.val) then c.setFlag (F.TEN_STAT_FROZEN_LIVE p.val) true else c

/-- FREEZE set or cleared (R412): the engine stands at a tile boundary and freezes at once, but a command whose last tile is drained
completes first (R414). -/
def Chip.tenFreeze (ch : Chip) (p : Nat) (on : Bool) : Chip :=
  let c := ch.setFlag (F.TEN_DBG_CTL_FREEZE p) on
  if !on then c.setFlag (F.TEN_STAT_FROZEN_LIVE p) false
  else if (c.ten p).run.elim false (·.drained) then c
  else c.setFlag (F.TEN_STAT_FROZEN_LIVE p) true

/-- TENSOR_FREEZE (R412): in DEVELOP only (R10). -/
def execTensorFreeze (c : ChipId) (p : PackId) (on : Bool) (s : State) : Res :=
  onChip s c fun ch =>
    if ch.develop then ch.whenPowered (F.TEN_DBG_CTL_FREEZE p.val).reg (bnat on) fun ch => ch.tenFreeze p.val on else ch

/-- The accumulator that TEN_DBG_CTL selects, as TEN_DBG_ACC reads it. -/
def Chip.tenAcc (ch : Chip) (p : Nat) : Nat :=
  let e := ch.ten p
  let i := 32 * ch.rd (F.TEN_DBG_CTL_ROW p) + ch.rd (F.TEN_DBG_CTL_COL p)
  let v := Tab.get 0 (if ch.flag (F.TEN_DBG_CTL_SET p) then e.shadow else e.active) i
  if e.float then v % 2 ^ 32 else usgn 64 (sgn 48 v)

/-- TEN_DBG_ACC written: only while frozen. -/
def Chip.tenAccWrite (ch : Chip) (p v : Nat) : Chip :=
  if ch.flag (F.TEN_STAT_FROZEN_LIVE p) && ch.develop then
    let e := ch.ten p
    let i := 32 * ch.rd (F.TEN_DBG_CTL_ROW p) + ch.rd (F.TEN_DBG_CTL_COL p)
    let x := if e.float then v % 2 ^ 32 else v % 2 ^ 48
    if ch.flag (F.TEN_DBG_CTL_SET p) then ch.setTen p { e with shadow := Tab.set 0 e.shadow i x }
    else ch.setTen p { e with active := Tab.set 0 e.active i x }
  else ch

/-- TENSOR_DEBUG_ACC_WRITE (TEN_DBG_ACC). -/
def execTensorDebugAccWrite (c : ChipId) (p : PackId) (v : Qword) (s : State) : Res :=
  onIsland s c fun ch => ch.tenAccWrite p.val v.toNat

end Sys2Proof.Machine
end

