-- ==== Sys2Proof/Machine/CodeletOps.lean ====
section
/-! DEFINITION. What a bundle of a codelet is made of (spec/12_codelet_isa.md): locations and moves, context ports, the load/store
unit, the token unit, control actions, the stacks, exceptions, and what a firing performs when its verdict comes. -/

namespace Sys2Proof.Machine

open Sys2Proof

/-! ### Locations (R378) -/

/-- Kinds of location: registers g, v and p, and the port kinds. -/
inductive LocKind where
  | g | v | p | operand | trigger | result | context
  deriving DecidableEq, Repr

/-- Kind and width of the ports of a unit, from port 0. -/
def unitPorts : Nat → List (LocKind × Nat)
  | 0 => List.replicate 16 (.context, 64)
  | 1 => [(.operand, 64), (.operand, 64), (.trigger, 64), (.result, 64)]
  | 2 => [(.operand, 64), (.operand, 64), (.trigger, 64), (.result, 64)]
  | 3 => [(.operand, 64), (.operand, 64), (.trigger, 64), (.result, 64), (.result, 64)]
  | 4 => [(.operand, 512), (.operand, 512), (.operand, 512), (.operand, 32), (.trigger, 64), (.result, 512), (.result, 64)]
  | 5 => List.replicate 13 (.operand, 64) ++ [(.operand, 512), (.trigger, 32), (.result, 64), (.result, 512)]
  | 6 => [(.operand, 64), (.operand, 16), (.operand, 30), (.operand, 6), (.trigger, 64), (.context, 64)]
  | 7 => [(.operand, 64), (.operand, 64), (.operand, 8), (.trigger, 64), (.result, 64), (.result, 64)]
  | 8 => [(.operand, 32), (.operand, 32)] ++ List.replicate 6 (.trigger, 64) ++ List.replicate 3 (.context, 64)
  | 9 => List.replicate 5 (.operand, 64) ++ [(.context, 64), (.operand, 64), (.operand, 64), (.trigger, 64), (.trigger, 64),
      (.operand, 64), (.operand, 64)]
  | _ => []

/-- The unit of a location code at or above 0x100. -/
def codeUnit (code : Nat) : Nat := (code - 0x100) / 32

/-- The location of a code; none where it is reserved, or names unit 9 on a PE (R343). -/
def locOf (stew : Bool) (code : Nat) : Option (LocKind × Nat) :=
  if code < 0x40 then some (.g, 64)
  else if code < 0x50 then some (.v, 512)
  else if code < 0x58 then some (.p, 1)
  else if code < 0x100 then none
  else if codeUnit code = 9 ∧ stew = false then none
  else (unitPorts (codeUnit code))[(code - 0x100) % 32]?

/-- The core is the Steward pair. -/
def isSteward : CoreId → Bool
  | .steward => true
  | .pe _ _ => false

/-! ### Values and their conversions (R342) -/

/-- A value that moves: of 64 bits, or of 512. -/
inductive MVal where
  | q (x : Qword)
  | w (x : Vec)
  deriving DecidableEq, Repr

def MVal.toQ : MVal → Qword
  | .q x => x
  | .w x => x.setWidth 64

/-- A 64-bit value fills all eight qwords. -/
def MVal.toW : MVal → Vec
  | .q x => (List.range 8).foldl (fun (a : Vec) i => a ||| (x.setWidth 512 <<< (64 * i))) 0
  | .w x => x

/-! ### Bundles (R375 to R377) -/

/-- A move. -/
structure Move where
  guard : Nat
  dst : Nat
  imm : Bool
  src : Nat
  deriving DecidableEq, Repr

/-- The move of slot `k` of a bundle. -/
def moveOf (b k : Nat) : Move :=
  let s := bits b (32 + 60 * k) 60
  ⟨bits s 56 4, bits s 44 12, bit s 43, bits s 0 43⟩

def bundleGuard (b : Nat) : Nat := bits b 0 4
def bundleLend (b : Nat) : Bool := bit b 4
/-- DEDUCED, log entry 99. -/
def bundleHint (b : Nat) : Nat := bits b 5 2

/-- The header is illegal: reserved bits, or hint 3. -/
def headerBad (b : Nat) : Bool := bits b 7 25 != 0 || bundleHint b == 3

/-- A guard passes (R377); p0 reads 1. -/
def Core.passes (k : Core) (guard : Nat) : Bool := (guard % 8 == 0 || k.p.getLsbD (guard % 8)) != bit guard 3

/-- The encoding faults of R343 and R376. -/
def Move.illegal (stew : Bool) (m : Move) : Bool :=
  (match locOf stew m.dst with
    | none => true
    | some (kind, _) => kind == .result || kind == .context) ||
  (!m.imm && (bits m.src 12 31 != 0 ||
    (match locOf stew (bits m.src 0 12) with
      | none => true
      | some (kind, _) => kind == .trigger)))

/-! ### Context ports (R345, R358, R362, R372, R373, R378) -/

/-- The graph a firing runs in and its place in pack `p`: SRAM offsets of code and SCRATCH. -/
def Chip.firingBase (ch : Chip) (p : Nat) (f : Firing) : Option (Graph × Nat × Nat) :=
  (ch.graphOf f.slot).bind fun g => (g.base.find? fun b => b.1 == p).map fun b => (g, b.2.1, b.2.2)

/-- Ports of the SYS unit. (DEDUCED, log entry 101.) -/
def sysPort (n : Nat) : Nat := portCode 9 n

/-- STATUS.FIRM of the Steward. (DEDUCED, log entry 101.) -/
def Core.firm (k : Core) : Bool := bit (k.q (sysPort 0)).toNat 0

/-- Depth of the return-address stack. -/
def Core.depth (k : Core) : Nat := k.ret.length + k.spilled

/-- A context port of the CTX unit. -/
def Chip.ctxPort (ch : Chip) (id : CoreId) (k : Core) (n : Nat) : Nat :=
  match id with
  | .steward => if n = 9 then ch.pos.val + 0xFF * 4 else if n = 13 then ch.now else 0
  | .pe p e =>
    match k.firing with
    | none => 0
    | some f =>
      if n < 4 then (f.ops[n]?).elim 0 Token.value
      else match n with
        | 4 => f.ops.zipIdx.foldl (fun a t => a + bits t.1.toNat 110 6 * 2 ^ (8 * t.2)) 0
        | 5 => f.port
        | 6 => f.ctx
        | 7 => f.iter
        | 8 => f.node
        | 9 => ch.pos.val + p.val * 4 + e.val * 64 + f.slot * 1024
        | 10 => (ch.firingBase p.val f).elim 0 (·.2.1)
        | 11 => (ch.firingBase p.val f).elim 0 (·.2.2)
        | 12 => (ch.firingBase p.val f).elim 0 (·.1.scratch)
        | 13 => ch.now
        | 14 => k.steps
        | _ => bnat f.prov

/-- A context port of any unit. -/
def Chip.readCtx (ch : Chip) (id : CoreId) (k : Core) (code : Nat) : Nat :=
  let n := (code - 0x100) % 32
  match codeUnit code with
  | 0 => ch.ctxPort id k n
  | 6 => k.emitted
  | 8 => match n with
    | 8 => (k.loops.head?).elim 0 (·.done)
    | 9 => (k.loops.head?).elim 0 fun l => l.count - l.done
    | _ => k.loops.length + k.depth * 2 ^ 16
  | 9 => ch.fab.steward.ipend.toNat
  | _ => 0

/-- The value a move reads from a location. -/
def Chip.readLoc (ch : Chip) (id : CoreId) (k : Core) (code : Nat) : MVal :=
  match locOf (isSteward id) code with
  | some (.g, _) => .q (Tab.get 0 k.g code)
  | some (.v, _) => .w (Tab.get 0 k.v (code - 0x40))
  | some (.p, _) => .q (b2q (code == 0x50 || k.p.getLsbD (code - 0x50)))
  | some (.context, _) => .q (BitVec.ofNat 64 (ch.readCtx id k code))
  | some (_, w) => if w = 512 then .w (k.w code) else .q (k.q code)
  | none => .q 0

/-- The value of a move's source: an immediate is sign-extended first. -/
def Chip.moveValue (ch : Chip) (id : CoreId) (k : Core) (m : Move) : MVal :=
  if m.imm then .q (BitVec.ofInt 64 (sgn 43 m.src)) else ch.readLoc id k (bits m.src 0 12)

/-- A predicate register written; p0 discards it. -/
def Core.setP (k : Core) (i : Nat) (b : Bool) : Core :=
  if i = 0 then k else { k with p := BitVec.ofNat 8 (putBits k.p.toNat i 1 (bnat b)) }

/-- A value written to a location that is no trigger port. -/
def Core.writeLoc (k : Core) (stew : Bool) (code : Nat) (x : MVal) : Core :=
  match locOf stew code with
  | some (.g, _) => { k with g := Tab.set 0 k.g code x.toQ }
  | some (.v, _) => { k with v := Tab.set 0 k.v (code - 0x40) x.toW }
  | some (.p, _) => k.setP (code - 0x50) (x.toQ != 0)
  | some (.operand, w) => if w = 512 then k.setW code x.toW else k.setQ code (BitVec.ofNat 64 (x.toQ.toNat % 2 ^ w))
  | _ => k

/-! ### Exceptions (R369, R370, R374) -/

def exIllegal : Nat := 1
def exAccess : Nat := 2
def exAlign : Nat := 3
def exStack : Nat := 4
def exRstack : Nat := 5
def exLoop : Nat := 6
def exBranch : Nat := 7
def exToken : Nat := 8
/-- DEDUCED, log entry 94. -/
def exLimit : Nat := 9
/-- DEDUCED, log entry 98. -/
def exSram : Nat := 10

/-- An exception of a firing recorded, its class raised; with EXC_ABORT its slot is aborted. (DEDUCED, log entries 98, 155.) -/
def Chip.recordExc (ch : Chip) (p n : Nat) (f : Firing) (pc cause addr : Nat) : Chip :=
  let c := ch.count (F.PE_EXC_COUNT_COUNT p) (F.PE_EXC_STAT_OVF p) 0
  let c := if c.flag (F.PE_EXC_STAT_SEEN p) then c
    else ((((((((c.setFlag (F.PE_EXC_STAT_SEEN p) true).wr (F.PE_EXC_STAT_CAUSE p) cause).wr (F.PE_EXC_STAT_PE p) n).wr
      (F.PE_EXC_STAT_SLOT p) f.slot).wr (F.PE_EXC_NODE_NODE p) f.node).wr (F.PE_EXC_NODE_CONTEXT p) f.ctx).wr
      (F.PE_EXC_ITER_ITERATION p) f.iter).wr (F.PE_EXC_PC_PC p) pc |>.wr (F.PE_EXC_ADDR_ADDR p) addr).wr
      (F.PE_EXC_TIME_TIME p) c.now
  let src := source (18 * p + n) (slotQual f.slot)
  let c := if cause = exLimit then c.raise 23 src (pc + f.node * 2 ^ 32)
    else if cause = exSram then c.raise 5 src addr
    else c.raise 32 src (cause + pc * 2 ^ 4)
  if c.flag F.PE_CFG_EXC_ABORT then (c.raise 12 (source 232 (slotQual f.slot)) 0).abortSlot f.slot true else c

/-- STATUS after a trap: PFIRM and PIE hold FIRM and IE; FIRM is 1 and IE 0. -/
def trapStatus (s : Qword) : Qword := BitVec.ofNat 64 (putBits (putBits s.toNat 2 2 (bits s.toNat 0 2)) 0 2 1)

/-- The Steward traps: EPC, CAUSE and TVAL, the saved status, and the vector offset `off`. -/
def Core.trap (k : Core) (epc cause tval off : Nat) : Core :=
  let k1 := (((k.setQ (sysPort 1) (BitVec.ofNat 64 epc)).setQ (sysPort 2) (BitVec.ofNat 64 cause)).setQ (sysPort 3)
    (BitVec.ofNat 64 tval)).setQ (sysPort 0) (trapStatus (k.q (sysPort 0)))
  { k1 with pc := (k.q (sysPort 4)).toNat / 2048 * 2048 + off }

/-- A core raises an exception at its present bundle: a firing ends, a provisional one's exception waits for the verdict; the
Steward traps. -/
def Chip.coreExc (ch : Chip) (id : CoreId) (cause addr : Nat) : Chip :=
  let k := ch.getCore id
  match id with
  | .steward => ch.putCore id (k.trap k.pc cause addr (64 * cause))
  | .pe p n =>
    match k.firing with
    | none => ch
    | some f =>
      if f.prov then ch.putCore id { k with st := .draining, exc := some (cause, addr) }
      else (ch.putCore id { k with st := .draining }).recordExc p.val n.val f k.pc cause addr

/-! ### The load/store unit (R350 to R357, R372, R379) -/

/-- The fields of LSU.OP. -/
structure LsuOp where
  ar : Nat
  mode : Nat
  size : Nat
  st : Bool
  sx : Bool
  scale : Nat
  latch : Bool
  lop : Nat
  deriving DecidableEq, Repr

/-- Bytes of a SIZE code. -/
def lsuBytes (size : Nat) : Nat := if size = 4 then 64 else 2 ^ size

/-- LSU.OP taken apart; none where it raises ILLEGAL (R357, R379, R534). -/
def lsuDecode (w : Nat) : Option LsuOp :=
  let o : LsuOp := ⟨bits w 0 3, bits w 3 2, bits w 5 3, bit w 8, bit w 9, bits w 10 3, bit w 13, bits w 14 4⟩
  if 5 ≤ o.size ∨ 5 ≤ o.scale ∨ bits w 18 14 ≠ 0 then none
  else if o.latch ∧ (o.st ∨ o.size ≠ 3 ∨ o.mode ≠ 0 ∨ 9 ≤ o.lop) then none
  else some o

def lsuPort (n : Nat) : Nat := portCode 5 n

/-- The access address and the address register afterwards (R350). -/
def Core.lsuAddr (k : Core) (o : LsuOp) : Qword × Qword :=
  let a := k.q (lsuPort o.ar)
  match o.mode with
  | 0 => (a + k.q (lsuPort 8), a)
  | 1 => (a, a + k.q (lsuPort 10))
  | 2 => (a - k.q (lsuPort 10), a - k.q (lsuPort 10))
  | _ => (a + (k.q (lsuPort 9) <<< o.scale), a)

/-- Bytes `a` to `a + n - 1` lie in the `len` bytes from `lo`. -/
def spansIn (a n lo len : Nat) : Bool := decide (lo ≤ a) && decide (a + n ≤ lo + len)

/-- Offset of the area of PE `n` (R380). -/
def peArea (n : Nat) : Nat := 0x1E0000 + 0x2000 * n

/-- Where the core's own data stack area begins: in its pack SRAM, or in the Steward SRAM. -/
def areaOf : CoreId → Nat
  | .pe _ n => peArea n.val
  | .steward => 0x3E000

/-- A listed device word (R356). -/
def devWord (a : Nat) : Bool := decide (devBase ≤ a) && decide (a < devBase + 0x28) && a % 8 == 0

/-- The access lies in SCRATCH of the firing's graph. -/
def Chip.inScratch (ch : Chip) (id : CoreId) (k : Core) (a n : Nat) : Bool :=
  match id with
  | .steward => false
  | .pe p _ => match k.firing.bind fun f => ch.firingBase p.val f with
    | some (g, _, s) => spansIn a n s g.scratch
    | none => false

/-- The access is allowed (R352, R356; on the Steward R372). (DEDUCED, log entry 105.) -/
def Chip.allowed (ch : Chip) (id : CoreId) (k : Core) (a n : Nat) (st : Bool) : Bool :=
  ch.inShared a n || (st && decide (n = 8) && devWord a) ||
  match id with
  | .pe p e =>
    let own := peArea e.val
    ch.inScratch id k a n || spansIn a n own 0x1800 || (!st && spansIn a n (own + 0x1800) 0x800) ||
      (!st && (match k.firing.bind fun f => ch.firingBase p.val f with
        | some (g, b, _) => spansIn a n b g.codeLen
        | none => false))
  | .steward =>
    spansIn a n 0 0x40000 ||
      (k.firm && (spansIn a n (packBase 0) (12 * 0x200000) || (!st && spansIn a n romBase 0x10000) ||
        (decide (n = 4) && spansIn a n regBase 0x1000000)))

/-- The flat address of the Steward map that a core's flat address names. -/
def physOf (id : CoreId) (a : Nat) : Nat :=
  match id with
  | .pe p _ => if a < 0x200000 then packBase p.val + a else a
  | .steward => a

/-- The exception of an access (R353, R357): ACCESS or STACK first, then alignment. (DEDUCED, log entry 105.) -/
def Chip.lsuExc (ch : Chip) (id : CoreId) (k : Core) (w : Nat) : Option (Nat × Nat) :=
  match lsuDecode w with
  | none => some (exIllegal, 0)
  | some o =>
    let a := (k.lsuAddr o).1.toNat
    let n := lsuBytes o.size
    if !ch.allowed id k a n o.st then some (if o.ar = 7 then exStack else exAccess, a)
    else if o.latch && !ch.inShared a n then some (exAccess, a)
    else if a % n ≠ 0 then some (exAlign, a)
    else none

/-- A deferred store overlaps `n` bytes at `a`. -/
def Deferred.hits (a n : Nat) : Deferred → Bool
  | .store b bs _ => decide (a < b + bs.length) && decide (b < a + n)
  | _ => false

/-- The LSU cannot accept an access: 16 are in progress, or a Latch operation has not returned (R346, R535).
(DEDUCED, log entry 93.) -/
def Chip.lsuBusy (ch : Chip) (id : CoreId) (k : Core) : Bool :=
  k.latchWaits || decide (16 ≤ (k.deferred.filter Deferred.isLsu).length + ch.stalledStores (coreNo id))

/-- An address of the set-up registers (R372). -/
def inRegs (a : Nat) : Bool := decide (regBase ≤ a) && decide (a < regBase + 0x1000000)

/-- A load waits behind a deferred store to the same bytes, and an access to a set-up register behind all that waits (R354).
(DEDUCED, log entry 93.) -/
def lsuHeld (id : CoreId) (k : Core) (w : Nat) : Bool :=
  match lsuDecode w with
  | some o =>
    let a := physOf id (k.lsuAddr o).1.toNat
    (!o.st && !o.latch && k.deferred.any (Deferred.hits a (lsuBytes o.size))) || (inRegs a && !k.deferred.isEmpty)
  | none => false

/-- The word of a device store of the Steward, which has no slot, node or pack of its own: free. (DEDUCED, log entry 104.) -/
def Chip.freeSlot (ch : Chip) : Nat × Chip := let r := ch.draw; (r.1 % 16, r.2)

/-- A store to device word `w` (R356) by core `id`. (DEDUCED, log entry 104.) -/
def Chip.deviceStore (ch : Chip) (id : CoreId) (w : Nat) (v : Qword) (poison : Bool) : Chip :=
  let a := v.toNat
  if w = 1 then ch.audioRelease a
  else if w = 3 then ch.gbkStore (coreNo id) a poison
  else match id with
    | .pe p n => match (ch.core p.val n.val).firing with
      | none => ch
      | some f =>
        if w = 0 then ch.mosSubmit (coreNo id) f.slot a
        else if w = 2 then ch.featSubmit (coreNo id) f.slot a
        else ch.tenSubmit (coreNo id) p.val f.slot f.node a
    | .steward =>
      let r := ch.freeSlot
      let q := r.2.draw
      if w = 0 then r.2.mosSubmit (coreNo id) r.1 a
      else if w = 2 then r.2.featSubmit (coreNo id) r.1 a
      else
        let own := packBase (q.1 % 12)
        q.2.tenSubmit (coreNo id) (q.1 % 12) r.1 0 (if own ≤ a ∧ a < own + 0x200000 then a - own else a)

/-- A byte at a flat address of the Steward map. -/
def Chip.stewByte (ch : Chip) (a : Nat) : Byte :=
  if romBase ≤ a ∧ a < romBase + 0x10000 then Config.bootRom (a - romBase) else ch.byte a

/-- `n` bytes at a flat address of the Steward map as a number. -/
def Chip.stewLoad (ch : Chip) (a n : Nat) : Nat := leNat ((List.range n).map fun i => ch.stewByte (a + i))

/-- A load of 1 to 8 bytes, extended (R350). -/
def extend (o : LsuOp) (x : Nat) : Qword :=
  let w := 8 * lsuBytes o.size
  if o.sx then BitVec.ofInt 64 (sgn w x) else BitVec.ofNat 64 x

/-- A load delivered: to VLD for 64 bytes, else to LD; poison poisons the firing (R346, R355). -/
def Core.loaded (k : Core) (o : LsuOp) (x : Nat) (poison : Bool) : Core :=
  let k := if o.size = 4 then k.setW (lsuPort 16) (BitVec.ofNat 512 x) else k.setQ (lsuPort 15) (extend o x)
  if poison then { k with poison := true } else k

/-- A Latch operation returned (R534, R538). -/
def Chip.latchBy (ch : Chip) (id : CoreId) (lop a : Nat) (v cmp : Qword) (poison : Bool) : Chip :=
  let r := ch.latchOp a lop v cmp poison
  let k := (r.2.2.getCore id).setQ (lsuPort 15) r.1
  r.2.2.putCore id (if r.2.1 then { k with poison := true } else k)

/-- A store made: to memory, or to a device word. -/
def Chip.storeBy (ch : Chip) (id : CoreId) (a : Nat) (bs : List Byte) (poison : Bool) : Chip :=
  if devWord a then ch.deviceStore id ((a - devBase) / 8) (BitVec.ofNat 64 (leNat bs)) poison else ch.store a bs poison

/-- An action added to those that wait. -/
def Chip.defer (ch : Chip) (id : CoreId) (d : Deferred) : Chip :=
  let k := ch.getCore id
  ch.putCore id { k with deferred := k.deferred ++ [d] }

/-- The data of a store. -/
def Core.storeData (k : Core) (o : LsuOp) : List Byte :=
  if o.size = 4 then toLe 64 (k.w (lsuPort 13)).toNat else toLe (lsuBytes o.size) (k.q (lsuPort 11)).toNat

/-- An access of the Steward to the set-up registers: its offset, the value written, if any, and whether a load extends the sign. -/
structure RegAcc where
  off : Nat
  value : Option Nat
  sx : Bool
  deriving DecidableEq, Repr

abbrev RegReq := Option RegAcc

/-- An access that raises nothing and waits for nothing is made; a provisional firing's work beyond SCRATCH waits for the verdict, and
what follows a store that waits waits behind it in program order (R327, R350, R354 to R357, R366). (DEDUCED, log entry 91.) -/
def Chip.lsuRun (ch : Chip) (id : CoreId) (w : Nat) : Chip × RegReq :=
  match lsuDecode w with
  | none => (ch, none)
  | some o =>
    let k := ch.getCore id
    let r := k.lsuAddr o
    let a := physOf id r.1.toNat
    let n := lsuBytes o.size
    let c := ch.putCore id (k.setQ (lsuPort o.ar) r.2)
    if o.latch then
      let v := k.q (lsuPort 11)
      let cmp := k.q (lsuPort 12)
      if ch.mustWait (coreNo id) k then (c.defer id (.latch o.lop a v cmp k.poison), none)
      else (c.latchBy id o.lop a v cmp k.poison, none)
    else if inRegs a then
      (c, some ⟨a - regBase, if o.st then some ((k.q (lsuPort 11)).toNat % 2 ^ 32) else none, o.sx⟩)
    else if o.st then
      if ch.mustWait (coreNo id) k && !(k.prov && ch.inScratch id k r.1.toNat n && !k.deferred.any Deferred.isLsu) then
        let d : Deferred := if devWord a then .device ((a - devBase) / 8) (k.q (lsuPort 11)) k.poison
          else .store a (k.storeData o) k.poison
        (c.defer id d, none)
      else (c.storeBy id a (k.storeData o) k.poison, none)
    else (c.putCore id ((c.getCore id).loaded o (c.stewLoad a n) (c.anyPoison a n)), none)

/-! ### The token unit (R358, R359) -/

def tokPort (n : Nat) : Nat := portCode 6 n

/-- Node, port, context, iteration and FL of the token that TOK.OP `op` names. -/
structure TokPlan where
  node : Nat
  port : Nat
  ctx : Nat
  iter : Nat
  fl : Nat
  deriving DecidableEq, Repr

/-- The Steward's own tag reads 0. (DEDUCED, log entry 103.) -/
def Core.tokPlan (k : Core) (tagged : Bool) : TokPlan :=
  let d := (k.q (tokPort 1)).toNat
  let t := (k.q (tokPort 2)).toNat
  ⟨bits d 0 14, bits d 14 2, if tagged then bits t 20 10 else k.firing.elim 0 (·.ctx),
    if tagged then bits t 0 20 else k.firing.elim 0 (·.iter), (k.q (tokPort 3)).toNat % 64⟩

/-- The exception of an emission. (DEDUCED, log entry 103.) -/
def Chip.tokExc (ch : Chip) (id : CoreId) (k : Core) (tagged : Bool) : Option (Nat × Nat) :=
  let t := k.tokPlan tagged
  let both := bit t.fl 5 && bit t.fl 0
  match id with
  | .steward => if !k.firm then some (exIllegal, 0) else if both then some (exToken, 0) else none
  | .pe _ _ =>
    match k.firing.bind fun f => ch.graphOf f.slot with
    | none => none
    | some g =>
      if g.nnodes ≤ t.node ∨ (tagged ∧ ¬(g.ctxBase ≤ t.ctx ∧ t.ctx < g.ctxBase + g.ctxCount)) ∨ both then some (exToken, 0)
      else none

/-- The token unit cannot accept an emission: one waits, or a Latch operation has not returned (R346, R535).
(DEDUCED, log entry 92.) -/
def Core.tokBusy (k : Core) : Bool := k.latchWaits || k.deferred.any fun d => !d.isLsu

/-- Destinations in the kill-list entry of the firing on PE `n` of pack `p`. -/
def Chip.killDests (ch : Chip) (p n : Nat) : List (Nat × Nat × Nat) :=
  ((ch.inn p).klist.find? fun e => e.running == some n).elim [] (·.dests)

/-- An emission to a 17th distinct destination stalls until the verdict (R325). -/
def Chip.tokHeld (ch : Chip) (id : CoreId) (k : Core) (tagged : Bool) : Bool :=
  let t := k.tokPlan tagged
  match id with
  | .steward => false
  | .pe p n =>
    let ds := ch.killDests p.val n.val
    k.prov && !bit t.fl 5 && decide (16 ≤ ds.length) && !ds.contains (t.node, t.ctx, t.iter)

/-- A token leaves the core (R271): counted, and from a provisional firing recorded in its kill list. (DEDUCED, log entry 92.) -/
def Chip.emitTok (ch : Chip) (id : CoreId) (t : BitVec 128) : Chip :=
  let k := ch.getCore id
  let c := ch.putCore id { k with emitted := k.emitted + 1 }
  match id with
  | .steward => c.blockToken t
  | .pe p n =>
    let i := c.inn p.val
    let d := (Token.node t, Token.context t, Token.iteration t)
    let add (e : KillEntry) : KillEntry :=
      if e.running == some n.val && !e.dests.contains d then { e with dests := e.dests ++ [d] } else e
    let c := if k.prov && !Token.kill t then c.setInn p.val { i with klist := i.klist.map add } else c
    c.routeToken p.val n.val t

/-- An emission: a verdict of a provisional firing waits for the firing's own verdict, and what follows a store that waits waits behind it
(R354, R359). (DEDUCED, log entry 91.) -/
def Chip.tokRun (ch : Chip) (id : CoreId) (tagged : Bool) : Chip :=
  let k := ch.getCore id
  let t := k.tokPlan tagged
  let kill := bit t.fl 5
  let prov := match id with
    | .steward => false
    | .pe _ _ => bit t.fl 0
  let tok (p : Bool) : BitVec 128 := mkToken (k.q (tokPort 0)).toNat t.node t.port t.ctx t.iter
    (bnat p + bnat k.poison * 2 + bnat (bit t.fl 2) * 4 + bnat (bit t.fl 4) * 16 + bnat kill * 32)
  if ch.mustWait (coreNo id) k && !(k.prov && !kill && !k.deferred.any Deferred.isLsu) then ch.defer id (.emit (tok prov))
  else ch.emitTok id (tok (prov || (k.prov && !kill)))

/-! ### Confirmed firings (R327, R359, R370) -/

/-- One action that waited is performed. -/
def Chip.perform (ch : Chip) (id : CoreId) : Deferred → Chip
  | .store a bs poison => ch.store a bs poison
  | .device w v poison => ch.deviceStore id w v poison
  | .latch lop a v cmp poison => ch.latchBy id lop a v cmp poison
  | .emit t => ch.emitTok id t

/-- What waits in a core is performed in order, up to a store that a full queue or the Guestbook holds back (R354). -/
def Chip.resume (ch : Chip) (id : CoreId) : Nat → Chip
  | 0 => ch
  | fuel + 1 =>
    let k := ch.getCore id
    if k.prov || ch.stalledStores (coreNo id) != 0 then ch
    else match k.deferred with
      | [] => ch
      | d :: rest => ((ch.putCore id { k with deferred := rest }).perform id d).resume id fuel

/-- What waits in a core goes on as far as it can: a submission first where the Guestbook now takes it (R320). -/
def Chip.resumed (ch : Chip) (id : CoreId) : Chip :=
  let c := if ch.stalledStores (coreNo id) = 0 then ch else ch.gbkFreed
  c.resume id (c.getCore id).deferred.length

/-- The firing on a PE was confirmed: what waited is performed in order, and its exception is recorded. -/
def Chip.confirmed (ch : Chip) (p : PackId) (n : PeId) : Chip :=
  let id : CoreId := .pe p n
  let k := ch.getCore id
  let c := (ch.putCore id { k with exc := none }).resumed id
  match k.exc, k.firing with
  | some e, some f => c.recordExc p.val n.val f k.pc e.1 e.2
  | _, _ => c

/-! ### Stacks and control actions (R362 to R367) -/

/-- Address of entry `i` of a core's return spill area. -/
def spillAddr (id : CoreId) (i : Nat) : Nat := physOf id (areaOf id + 0x1800 + 8 * i)

/-- The oldest entry of the core's return stack moves to the spill area. -/
def Chip.spillRet (ch : Chip) (id : CoreId) : Chip :=
  let k := ch.getCore id
  match k.ret.getLast? with
  | none => ch
  | some x =>
    let c := ch.store (spillAddr id k.spilled) (toLe 8 x.toNat) false
    c.putCore id { c.getCore id with ret := k.ret.dropLast, spilled := k.spilled + 1 }

/-- The newest entry of the spill area returns behind those the core holds; an uncorrectable error leaves it. -/
def Chip.fillRet (ch : Chip) (id : CoreId) : Chip :=
  let k := ch.getCore id
  if k.spilled = 0 then ch
  else
    let a := spillAddr id (k.spilled - 1)
    if ch.isPoisoned a then ch
    else ch.putCore id { k with ret := k.ret ++ [BitVec.ofNat 64 (ch.load a 8)], spilled := k.spilled - 1 }

/-- `n` times an operation on a chip. -/
def Chip.times (ch : Chip) (f : Chip → Chip) : Nat → Chip
  | 0 => ch
  | n + 1 => (f ch).times f n

/-- The stack hint (R367). (DEDUCED, log entry 99.) -/
def Chip.stackHint (ch : Chip) (id : CoreId) (h : Nat) : Chip :=
  let k := ch.getCore id
  if h = 1 ∧ 24 < k.ret.length then ch.times (fun c => c.spillRet id) (min 8 (256 - k.spilled))
  else if h = 2 ∧ k.ret.length < 8 then ch.times (fun c => c.fillRet id) 8
  else ch

/-- The Steward may execute a bundle at a flat address: memory of its map, the boot ROM and the pack SRAMs in FIRM mode only.
(DEDUCED, log entry 102.) -/
def Chip.stewCode (ch : Chip) (k : Core) (a : Nat) : Bool :=
  spansIn a 64 0 0x40000 || ch.inShared a 64 || (k.firm && (spansIn a 64 (packBase 0) (12 * 0x200000) || spansIn a 64 romBase 0x10000))

/-- A bundle lies at `t`: aligned and below the code length. -/
def Chip.codeAt (ch : Chip) (id : CoreId) (k : Core) (t : Nat) : Bool :=
  t % 64 == 0 &&
  match id with
  | .steward => ch.stewCode k t
  | .pe p _ => match k.firing.bind fun f => ch.firingBase p.val f with
    | some (g, _, _) => decide (t < g.codeLen)
    | none => false

/-- Flat address of the bundle at `pc`. (DEDUCED, log entry 102.) -/
def Chip.codeAddr (ch : Chip) (id : CoreId) (k : Core) (pc : Nat) : Nat :=
  match id with
  | .steward => pc
  | .pe p _ => (k.firing.bind fun f => ch.firingBase p.val f).elim 0 fun b => b.2.1 + pc

/-- Control actions of a bundle. -/
inductive Control where
  | finish
  | ret
  | call (t : Qword)
  | jump (t : Qword)
  | loopBreak
  | loopStart
  | lend
  | next
  deriving DecidableEq, Repr

/-- DEDUCED, log entry 97. -/
def lbPort (n : Nat) : Nat := portCode 8 n

/-- Where LOOP_START opens and ends, and its count. -/
def Core.loopArgs (k : Core) : LoopLvl :=
  ⟨k.pc + 64, (k.q (lbPort 1)).toNat, (k.q (lbPort 0)).toNat, 0⟩

/-- The entry that RET pops, and whether reading it meets an uncorrectable error. -/
def Chip.retTop (ch : Chip) (id : CoreId) (k : Core) : Nat × Bool :=
  match k.ret with
  | x :: _ => (x.toNat, false)
  | [] => (ch.load (spillAddr id (k.spilled - 1)) 8, ch.isPoisoned (spillAddr id (k.spilled - 1)))

/-- The exception of a control action (R362 to R365; END on the Steward, R372). (DEDUCED, log entry 97.) -/
def Chip.controlExc (ch : Chip) (id : CoreId) (k : Core) : Control → Option (Nat × Nat)
  | .finish => if isSteward id then some (exIllegal, 0) else none
  | .ret =>
    if k.depth = 0 then some (exRstack, 0)
    else
      let r := ch.retTop id k
      if r.2 then some (exSram, areaOf id + 0x1800 + 8 * (k.spilled - 1))
      else if !ch.codeAt id k r.1 then some (exBranch, r.1) else none
  | .call t => if !ch.codeAt id k t.toNat then some (exBranch, t.toNat) else if 288 ≤ k.depth then some (exRstack, 0) else none
  | .jump t => if !ch.codeAt id k t.toNat then some (exBranch, t.toNat) else none
  | .loopBreak => if k.loops.isEmpty then some (exLoop, 0) else none
  | .loopStart =>
    let l := k.loopArgs
    if l.stop < l.start ∨ ch.codeAt id k l.stop = false ∨ 4 ≤ k.loops.length then some (exLoop, l.stop) else none
  | .lend => none
  | .next => none

/-- A control action that raises nothing. -/
def Chip.control (ch : Chip) (id : CoreId) (x : Control) : Chip :=
  let k := ch.getCore id
  let go (c : Chip) (f : Core → Core) : Chip := c.putCore id (f (c.getCore id))
  match x with
  | .finish => go ch fun k => { k with st := .draining, pc := k.pc + 64 }
  | .ret =>
    let r := ch.retTop id k
    match k.ret with
    | _ :: rest => go ch fun k => { k with ret := rest, pc := r.1 }
    | [] => go ch fun k => { k with spilled := k.spilled - 1, pc := r.1 }
  | .call t =>
    let c := if 32 ≤ k.ret.length then ch.spillRet id else ch
    go c fun k => { k with ret := BitVec.ofNat 64 (k.pc + 64) :: k.ret, pc := t.toNat }
  | .jump t => go ch fun k => { k with pc := t.toNat }
  | .loopBreak => go ch fun k => { k with loops := k.loops.drop 1, pc := (k.loops.head?).elim (k.pc + 64) (·.stop + 64) }
  | .loopStart =>
    let l := k.loopArgs
    if l.count = 0 then go ch fun k => { k with pc := l.stop + 64 }
    else go ch fun k => { k with loops := l :: k.loops, pc := l.start }
  | .lend =>
    match k.loops with
    | [] => go ch fun k => { k with pc := k.pc + 64 }
    | l :: rest =>
      if l.done + 1 < l.count then go ch fun k => { k with loops := { l with done := l.done + 1 } :: rest, pc := l.start }
      else go ch fun k => { k with loops := rest, pc := l.stop + 64 }
  | .next => go ch fun k => { k with pc := k.pc + 64 }

end Sys2Proof.Machine
end

