-- ==== Sys2Proof/Machine/Inn.lean ====
section
/-! DEFINITION. Commands of the Inn, the Annex, dispatch, the deadlock detector's local part and speculation
(spec/10_tokens_inn.md, spec/11_annex_guestbook.md). -/

namespace Sys2Proof.Machine

open Sys2Proof

/-! ### The arbiter (R281) -/

/-- The first pending token of a source. -/
def Inn.ofSrc (i : Inn) (src : Nat) : Option (InnIn × List InnIn) := pickFirst (fun x => x.src == src) i.inputs

/-- The token the arbiter grants next, with the rest of the inputs and the next start of the round robin. While a spill
waits, only verdicts and recalls are granted (R306). -/
def Inn.arbitrate (i : Inn) : Option (InnIn × Inn) :=
  match pickFirst (fun x => Token.kill x.tok) i.inputs with
  | some (x, rest) => some (x, { i with inputs := rest })
  | none => match pickFirst (fun (x : InnIn) => x.back != 0) i.inputs with
    | some (x, rest) => some (x, { i with inputs := rest })
    | none =>
      if !i.spillWait.isEmpty then none
      else match (List.range 20).findSome? fun k => i.ofSrc ((i.rr + k) % 20) with
        | some (x, rest) => some (x, { i with inputs := rest, rr := (x.src + 1) % 20 })
        | none => none

/-- A token through the checker of pack `p` (R268, R288): none where it is discarded. -/
def Chip.checked (ch : Chip) (p : Nat) (t : BitVec 128) : Option (BitVec 128) × Chip :=
  let detail := t.toNat / 2 ^ 64 + t.toNat % 2 ^ 64 * 2 ^ 64
  match checkToken t with
  | .clean t => (some t, ch)
  | .corrected t' =>
    (some t', ((ch.count (F.INN_ECC_CE_COUNT p) (F.INN_OVF_OVF p) 2).setFlag (F.INN_STAT_CE_SEEN p) true).raise 6
      (source (18 * p + 17) 0) detail)
  | .uncorrectable =>
    (none, ((ch.count (F.INN_ECC_UE_COUNT p) (F.INN_OVF_OVF p) 3).setFlag (F.INN_STAT_UE_SEEN p) true).raise 7
      (source (18 * p + 17) 0) detail)

/-- Firings of a node and tag confirmed (R326): those on a PE perform what waited for the verdict. -/
def Chip.confirmFirings (ch : Chip) (p node ctx iter : Nat) : Chip :=
  let i := ch.inn p
  let conf (f : Firing) : Firing := if f.provOf node ctx iter then { f with prov := false } else f
  let es := i.klist.filter fun e => e.node == node && e.ctx == ctx && e.iter == iter
  let cores := ch.provCores p node ctx iter
  let c := ch.setInn p { i with
    ready := i.ready.map conf
    dq := i.dq.map conf
    klist := i.klist.filter fun e => !(e.node == node && e.ctx == ctx && e.iter == iter) }
  let c := cores.foldl (fun (c : Chip) n => let k := c.core p n; c.setCore p n { k with firing := k.firing.map conf }) c
  let c := (es.foldl (fun c e => e.dests.foldl (fun c d => c.sendVerdict p true d) c) c).klistSync
  cores.foldl (fun (c : Chip) n => c.confirmed (Fin.ofNat 12 p) (Fin.ofNat 16 n)) c

/-- A verdict granted at its node's home (R326). -/
def Chip.verdict (ch : Chip) (p : Nat) (t : BitVec 128) : Chip :=
  let node := Token.node t
  let ctx := Token.context t
  let it := Token.iteration t
  let confirm := Token.value t % 2 == 1
  if ch.verdictFinds p node ctx it then
    if confirm then (ch.confirmTokens p node ctx it).confirmFirings p node ctx it
    else (ch.killTokens p node ctx it).killFirings p node ctx it
  else ch.holdVerdict p node ctx it confirm

/-- A token after the checker: a verdict acts, an orphan or bad token is discarded, a held verdict acts on its arrival, a
provisional token waits before a merging port, and any other takes its place (R277 to R283, R326). -/
def Chip.grantTok (ch : Chip) (p : Nat) (x : InnIn) (t : BitVec 128) : Chip :=
  match ch.ctxSlot (Token.context t) with
  | none => ch.count F.DFX_ORPHAN_COUNT F.DFX_STAT_ORPHAN_OVF 0
  | some s => match ch.nodeOf s (Token.node t) with
    | none => ch.badToken p s t
    | some d =>
      if !ch.homeHere s (Token.node t) p then ch.badToken p s t
      else if Token.kill t then ch.verdict p t
      else if d.nports ≤ Token.port t ∨ Token.sticky t ≠ (d.pkind (Token.port t) == pkSticky) then ch.badToken p s t
      else
        let i := ch.inn p
        match i.verdictFor t with
        | some v =>
          let c := ch.setInn p (i.actedOn t)
          if v.confirm then c.take p s d (confirmTok t) x.mc x.back else c.specCount F.DFX_SPEC_KTOK_COUNT 2 1
        | none =>
          if Token.provisional t ∧ d.pkind (Token.port t) = pkMerging ∧ d.isMerge = false then
            ch.setInn p { i with provWait := i.provWait ++ [t] }
          else ch.take p s d t x.mc x.back

/-- One grant of the arbiter; a recalled token was checked by the Annex (R268). -/
def Chip.grant (ch : Chip) (p : Nat) (x : InnIn) : Chip :=
  if x.back ≠ 0 then ch.grantTok p x x.tok
  else match ch.checked p x.tok with
    | (none, c) => c
    | (some t, c) => c.grantTok p x t

/-- INN_TOKEN_GRANT (R281 to R288): the arbiter grants one token. -/
def execInnTokenGrant (c : ChipId) (p : PackId) (s : State) : Res :=
  onIsland s c fun ch =>
    match (ch.inn p.val).arbitrate with
    | none => ch
    | some (x, i) => ch.innDo p.val fun ch => (ch.setInn p.val i).grant p.val x

/-- VERDICT (R326): the oldest verdict at the pack's input is granted. -/
def execVerdict (c : ChipId) (p : PackId) (s : State) : Res :=
  onIsland s c fun ch =>
    let i := ch.inn p.val
    match pickFirst (fun x => Token.kill x.tok) i.inputs with
    | none => ch
    | some (x, rest) => ch.innDo p.val fun ch => (ch.setInn p.val { i with inputs := rest }).grant p.val x

/-- ANNEX_SPILL_RESUME (R306): waiting spills are taken in arrival order, each as a newly granted token. -/
def execAnnexSpillResume (c : ChipId) (p : PackId) (s : State) : Res :=
  onIsland s c fun ch =>
    let i := ch.inn p.val
    ch.innDo p.val fun ch =>
      (i.spillWait.foldl (fun (c : Chip) e => c.grantTok p.val ⟨2, srcNet, e.1, e.2⟩ e.1)
        (ch.setInn p.val { i with spillWait := [] })).anxSync p.val

/-! ### Recalls (R304, R305) -/

/-- The tags an Annex token can complete: its own, or for a sticky value those of the tokens that wait for it. -/
def Inn.candTags (i : Inn) (t : BitVec 128) : List (Nat × Nat × Nat) :=
  let node := Token.node t
  let ctx := Token.context t
  if Token.sticky t then
    let all := (i.held ++ i.annexToks).filter fun e => Token.node e.1 == node && Token.context e.1 == ctx
    (all.filter fun e => !Token.sticky e.1 || e.1 == t).map fun e => (node, ctx, Token.iteration e.1)
  else [(node, ctx, Token.iteration t)]

/-- What counts for a tag: tokens in rooms, in the Annex, and recalled sticky values on their way to their rooms (R304). -/
def Inn.near (i : Inn) : List (BitVec 128 × Nat) :=
  i.held ++ ((i.inputs.filter fun x => x.back != 0 && Token.sticky x.tok).map fun x => (x.tok, x.mc)) ++ i.annexToks

/-- Inn and Annex together satisfy a tag (R304): combined entries count as their contributions. -/
def Inn.groupOk (i : Inn) (d : NodeDesc) (g : Nat × Nat × Nat) : Bool :=
  let held := i.near.filter fun e => Token.node e.1 == g.1 && Token.context e.1 == g.2.1
  (List.range d.nports).all fun k =>
    if d.pkind k = pkMerging then
      decide (d.mcnt k ≤ (held.filter fun e => Token.port e.1 == k && Token.iteration e.1 == g.2.2).foldl (fun a e => a + e.2) 0)
    else (portValue d g.1 g.2.1 g.2.2 k held).isSome

/-- The Annex tokens of a tag group in the order of their recall: sticky values, then the other ports ascending. -/
def Inn.groupToks (i : Inn) (d : NodeDesc) (g : Nat × Nat × Nat) : List (BitVec 128 × Nat) :=
  let xs := i.annexToks.filter fun e => Token.node e.1 == g.1 && Token.context e.1 == g.2.1
  let st := xs.filter fun e => Token.sticky e.1 && serves e.1 g.2.2
  let ot := xs.filter fun e => !Token.sticky e.1 && Token.iteration e.1 == g.2.2
  st ++ (List.range d.nports).flatMap fun k => ot.filter fun e => Token.port e.1 == k

/-- The first satisfied tag group of a pack that meets a test, oldest line first, of slot `s` where one is named. -/
def Chip.nextGroup (ch : Chip) (p : Nat) (only : Option Nat) (ok : NodeDesc → Nat × Nat × Nat → Bool) :
    Option (NodeDesc × (Nat × Nat × Nat)) :=
  let i := ch.inn p
  i.annexToks.findSome? fun e =>
    match ch.ctxSlot (Token.context e.1) with
    | none => none
    | some s =>
      if only ≠ none ∧ only ≠ some s then none
      else match ch.nodeOf s (Token.node e.1) with
        | none => none
        | some d => (i.candTags e.1).findSome? fun g => if i.groupOk d g && ok d g then some (d, g) else none

/-- An Annex token returns to the pack's input as a recall of a kind: its line is read from DRAM, whose poison it takes, and its code is
checked (R268, R304, R337). -/
def Chip.recallTok (ch : Chip) (p kind : Nat) (e : BitVec 128 × Nat) : Chip :=
  match (ch.inn p).annexFind e with
  | none => ch
  | some (idx, j) =>
    let a := ch.annexAddr p idx
    let raw := BitVec.ofNat 128 (ch.load (a + 16 * j) 16)
    let bad := ch.anyPoison a 64
    match ((ch.setAnnex p ((ch.inn p).annexTake idx j)).anxCount p true).checked p raw with
    | (none, c) => c
    | (some t, c) =>
      let t := setTokBit t 113 false
      let i := c.inn p
      c.setInn p { i with inputs := i.inputs ++ [⟨kind, srcNet, if bad then setTokBit t 111 true else t, e.2⟩] }

/-- Annex tokens recalled one after another. -/
def Chip.recallToks (ch : Chip) (p kind : Nat) (xs : List (BitVec 128 × Nat)) : Chip :=
  (xs.foldl (fun (c : Chip) e => c.recallTok p kind e) ch).anxSync p

/-- Reserve rooms in use, counting targeted recalls on their way. -/
def Inn.resvClaimed (i : Inn) : Nat := i.resv + (i.inputs.filter fun x => x.back == 1).length

/-- Reserve rooms free for recalls. -/
def Inn.resvFree (i : Inn) : Nat := 256 - i.resvClaimed

/-- A recalled token that must wait takes a room of its own, unless it combines into one (R286, R304). -/
def Inn.ownRoom (i : Inn) (d : NodeDesc) (t : BitVec 128) : Bool :=
  !(d.pkind (Token.port t) == pkMerging && i.rooms.any fun r => sameTag r.tok t && Token.port r.tok == Token.port t)

/-- Reserve rooms that a group takes: the last of its tokens completes the set and takes none, if it is not sticky (R286, R304). -/
def Inn.groupNeed (i : Inn) (d : NodeDesc) : List (BitVec 128 × Nat) → Nat
  | [] => 0
  | [e] => if Token.sticky e.1 then 1 else 0
  | e :: rest => bnat (i.ownRoom d e.1) + i.groupNeed d rest

/-- The first tokens of a group, as many as `free` reserve rooms let return now (R304, R305). (DEDUCED, log entry 156.) -/
def Inn.groupFit (i : Inn) (d : NodeDesc) : Nat → List (BitVec 128 × Nat) → List (BitVec 128 × Nat)
  | _, [] => []
  | free, [e] => if Token.sticky e.1 && free == 0 then [] else [e]
  | free, e :: rest =>
    if i.ownRoom d e.1 then (if free = 0 then [] else e :: i.groupFit d (free - 1) rest) else e :: i.groupFit d free rest

/-- The tokens of a group that a targeted recall returns now. (DEDUCED, log entry 156.) -/
def Inn.recallable (i : Inn) (d : NodeDesc) (g : Nat × Nat × Nat) : List (BitVec 128 × Nat) :=
  i.groupFit d i.resvFree (i.groupToks d g)

/-- ANNEX_TARGETED_RECALL (R304, R305): the first satisfied tag group of which the reserve has room for a token returns, as far as the room
goes. -/
def execAnnexTargetedRecall (c : ChipId) (p : PackId) (s : State) : Res :=
  onIsland s c fun ch =>
    let i := ch.inn p.val
    match ch.nextGroup p.val none fun d g => !(i.recallable d g).isEmpty with
    | none => ch
    | some (d, g) => ch.innDo p.val fun ch => ch.recallToks p.val 1 (i.recallable d g)

/-- The oldest Annex token that may lodge in the main store now. -/
def Chip.backTok (ch : Chip) (p : Nat) : Option (BitVec 128 × Nat) :=
  (ch.inn p).annexToks.find? fun e =>
    match ch.ctxSlot (Token.context e.1) with
    | some s => ch.canLodge p s e.1
    | none => false

/-- ANNEX_BACKGROUND_RECALL (R304): while MAIN is below LEVEL, the oldest line's token returns to a free way. -/
def execAnnexBackgroundRecall (c : ChipId) (p : PackId) (s : State) : Res :=
  onIsland s c fun ch =>
    if ch.rd (F.INN_LEVEL_MAIN p.val) < ch.rd F.ANX_RECALL_LEVEL then
      match ch.backTok p.val with
      | some e => ch.innDo p.val fun ch => ch.recallToks p.val 2 [e]
      | none => ch
    else ch

/-- RESERVE_PROMOTE (R305): the oldest waiting reserve token that may lodge moves into the main store. -/
def execReservePromote (c : ChipId) (p : PackId) (s : State) : Res :=
  onIsland s c fun ch =>
    let i := ch.inn p.val
    let ok (r : Room) : Bool := r.reserve && (match ch.ctxSlot (Token.context r.tok) with
      | some s => ch.canLodge p.val s r.tok
      | none => false)
    match findIdx ok i.rooms with
    | some j => ch.innDo p.val fun ch =>
      ch.setInn p.val { i with rooms := updAt i.rooms j fun r => { r with reserve := false } }
    | none => ch

/-! ### Dispatch, duplicates, loops -/

/-- DISPATCH_FIRING (R289 to R291): the dispatcher starts the oldest firing that may start. -/
def execDispatchFiring (c : ChipId) (p : PackId) (s : State) : Res :=
  onIsland s c fun ch => ch.innDo p.val fun ch => (ch.refillAll p.val).dispatch p.val

/-- The oldest duplicate leaves the queue. -/
def Chip.dupPop (ch : Chip) (p : Nat) : Chip :=
  ch.innDo p fun ch => let i := ch.inn p; ch.setInn p { i with dups := i.dups.drop 1 }

/-- INN_DUP_POP (R282): the oldest duplicate leaves the queue. -/
def execInnDupPop (c : ChipId) (p : PackId) (s : State) : Res :=
  onChip s c fun ch => ch.whenPowered (F.INN_DUP_CTL_POP p.val).reg 1 fun ch => ch.dupPop p.val

/-- LOOP_CLOSE_NOTICE (R309): the oldest notice at the pack. -/
def execLoopCloseNotice (c : ChipId) (p : PackId) (s : State) : Res :=
  onIsland s c fun ch =>
    let i := ch.inn p.val
    match i.notices with
    | [] => ch
    | n :: rest => ch.innDo p.val fun ch => (ch.setInn p.val { i with notices := rest }).closeLoop p.val n.1 n.2.1 n.2.2

/-! ### The detector (R311 to R316) -/

/-- The oldest waiting non-sticky reserve token of a pack that belongs to no recalled tag goes to the Annex (R313). -/
def Chip.evictReserve (ch : Chip) (p : Nat) (gs : List (Nat × Nat × Nat)) : Chip :=
  let i := ch.inn p
  let ok (r : Room) : Bool := r.reserve && !Token.sticky r.tok &&
    !gs.contains (Token.node r.tok, Token.context r.tok, Token.iteration r.tok)
  match pickFirst ok i.rooms with
  | none => ch
  | some (r, rest) =>
    let mop := match (ch.ctxSlot (Token.context r.tok)).bind fun s => ch.nodeOf s (Token.node r.tok) with
      | some d => d.mop (Token.port r.tok)
      | none => 0
    (ch.setInn p { i with rooms := rest }).spill p r.tok r.mc mop

/-- `n` reserve tokens go to the Annex. -/
def Chip.evictMany (ch : Chip) (p : Nat) (gs : List (Nat × Nat × Nat)) : Nat → Chip
  | 0 => ch
  | n + 1 => (ch.evictReserve p gs).evictMany p gs n

/-- The tag groups of slot `s` in pack `p` are recalled, each once; a full reserve gives up a token, and as many as the group needs
(R313, R314, R334). -/
def Chip.recoverPack (ch : Chip) (p s : Nat) (gs : List (Nat × Nat × Nat)) : Nat → Chip
  | 0 => ch
  | fuel + 1 =>
    match ch.nextGroup p (some s) fun d g => !gs.contains g && !((ch.inn p).groupToks d g).isEmpty with
    | none => ch
    | some (d, g) =>
      let i := ch.inn p
      let gs := gs ++ [g]
      let c := ch.evictMany p gs (max (i.groupNeed d (i.groupToks d g) - i.resvFree) (bnat (i.resvFree == 0)))
      (c.recallToks p 1 ((c.inn p).groupToks d g)).recoverPack p s gs fuel

/-- DEADLOCK_DETECT (R312 to R314, R334): 50 µs without a firing of a slot with blocked work: DEADLOCK and one recovery round. -/
def execDeadlockDetect (c : ChipId) (k : Fin 16) (s : State) : Res :=
  onIsland s c fun ch =>
    let sl := ch.slot k.val
    if ch.blockedWork k.val && decide (sl.lastFiring + 50000 ≤ ch.now) then
      let n := (ch.rd F.DFX_DL_COUNT_COUNT + 1) % 2 ^ 32
      let c := (ch.count F.DFX_DL_COUNT_COUNT F.DFX_DL_STAT_OVF 0).wr F.DFX_DL_TIME_TIME ch.now
      let c := ((c.setFlag F.DFX_DL_STAT_DL_SEEN true).setFlag F.DFX_DL_STAT_DL_LIVE true).wr F.DFX_DL_STAT_SLOT k.val
      let c := c.raise 10 (source 232 (slotQual k.val)) (if n = 0 then max32 else n)
      let c := (List.range 12).foldl (fun c p =>
        if c.blockedIn p k.val then
          c.innDo p fun c => (c.recoverPack p k.val [] (c.inn p).spilled).refillAll p
        else c) c
      c.setSlot k.val { c.slot k.val with lastFiring := c.now }
    else ch

/-- LINGER_SCAN (R316): rooms whose non-sticky token waited more than LINGER_MS are freed; slots that are WAITING are skipped
(R274). -/
def execLingerScan (c : ChipId) (s : State) : Res :=
  onIsland s c fun ch =>
    let ms := ch.rd F.DFX_DL_CTL_LINGER_MS
    if ms = 0 then ch
    else
      (List.range 12).foldl (fun c p =>
        let old (r : Room) : Bool := !Token.sticky r.tok && decide (r.since + ms * 1000000 < c.now) &&
          (match c.ctxSlot (Token.context r.tok) with
            | some s => c.armed s
            | none => true)
        let i := c.inn p
        let gone := i.rooms.filter old
        if gone.isEmpty then c
        else
          c.innDo p fun c => gone.foldl (fun (c : Chip) r =>
            let t := r.tok
            let q := (c.ctxSlot (Token.context t)).elim 0 slotQual
            ((((c.wr F.DFX_LINGER_LAST_TOKEN t.toNat).count F.DFX_LINGER_COUNT F.DFX_DL_STAT_OVF 1).setFlag
              F.DFX_DL_STAT_LINGER_SEEN true).raise 11 (source (18 * p + 17) q) (t.toNat / 2 ^ 64 + t.toNat % 2 ^ 64 * 2 ^ 64)))
            (c.setInn p { i with rooms := i.rooms.filter fun r => !old r })) ch

/-! ### Speculation -/

/-- VERDICT_HOLD_EXPIRY (R326): held verdicts whose HOLD has ended are discarded; one that acted on nothing counts. -/
def execVerdictHoldExpiry (c : ChipId) (p : PackId) (s : State) : Res :=
  onIsland s c fun ch =>
    let i := ch.inn p.val
    let due (v : Verdict) : Bool := decide (v.since + ch.rd F.DFX_SPEC_CTL_HOLD * 1000 ≤ ch.now)
    let lost := (i.verdicts.filter fun v => due v && !v.acted).length
    (ch.setInn p.val { i with verdicts := i.verdicts.filter fun v => !due v }).countN F.DFX_SPEC_VLOST_COUNT
      F.DFX_SPEC_STAT_VLOST_OVF 0 lost

/-- Nodes and tags of the provisional firings of a pack. -/
def Chip.provTags (ch : Chip) (p : Nat) : List (Nat × Nat × Nat) :=
  let i := ch.inn p
  ((i.ready ++ i.dq).filter (·.prov)).map (fun f => (f.node, f.ctx, f.iter)) ++ i.klist.map fun e => (e.node, e.ctx, e.iter)

/-- SPECULATION_DOZE_KILL (R336): provisional firings without a verdict 1 ms after a Doze request are killed. -/
def execSpeculationDozeKill (c : ChipId) (s : State) : Res :=
  onIsland s c fun ch =>
    if ch.pwr = pwrEntering then
      (List.range 12).foldl (fun c p => c.innDo p fun c =>
        (c.provTags p).foldl (fun (c : Chip) g => (c.killTokens p g.1 g.2.1 g.2.2).killFirings p g.1 g.2.1 g.2.2) c) ch
    else ch

end Sys2Proof.Machine
end

