-- ==== Sys2Proof/Machine/LineCode.lean ====
section
/-! DEFINITION. The inline code of a DRAM line (spec/17_memory.md R503 to R506): check words and the three steps of a read. -/

namespace Sys2Proof.Machine

open Sys2Proof

def markGood : Nat := 0
def markPoison : Nat := 0x9C4B

/-- Code position q(m) of message bit `m` (R504). -/
def memPos (m : Nat) : Nat :=
  if m = 0 then 3 else if m ≤ 3 then m + 4 else if m ≤ 10 then m + 5 else if m ≤ 25 then m + 6 else if m ≤ 56 then m + 7
  else if m ≤ 119 then m + 8 else if m ≤ 246 then m + 9 else if m ≤ 501 then m + 10 else m + 11

/-- HAM[9:0] of a message. -/
def ham10 (msg : Nat) : Nat := (List.range 592).foldl (fun a m => if bit msg m then a ^^^ memPos m else a) 0

/-- HAM of a message: ten position parities and the parity of everything. -/
def ham (msg : Nat) : Nat :=
  let h := ham10 msg
  h + (popcount 592 msg + popcount 10 h) % 2 * 2 ^ 10

/-- The message of R504. -/
def memMsg (data tag crc mark : Nat) : Nat := data % 2 ^ 512 + tag * 2 ^ 512 + crc * 2 ^ 544 + mark * 2 ^ 576

/-- The CRC field of a line. -/
def lineCrc (data tag : Nat) : Nat := crc32c (toLe 64 data ++ toLe 4 tag)

/-- The check word of a line (R503). -/
def checkWord (data tag mark : Nat) : Nat :=
  let crc := lineCrc data tag
  ham (memMsg data tag crc mark) + crc * 2 ^ 16 + mark * 2 ^ 48

/-- Classes of R527. -/
def mcCe : Nat := 1
def mcUe : Nat := 2
def mcCmd : Nat := 3

/-- What a read of a line finds: its data, corrected where the code corrects, whether it is poison, and the class (0: none). -/
structure LineRes where
  data : Nat
  poison : Bool
  cls : Nat
  deriving DecidableEq, Repr

/-- The message bit of a code position. -/
def posBit (s : Nat) : Option Nat := (List.range 592).find? fun m => memPos m == s

/-- The three steps of R505 on the data and check word as they come back; `tag` is the expected TAG. -/
def decodeLine (tag data check : Nat) : LineRes :=
  let crc := bits check 16 32
  let mark := bits check 48 16
  let msg := memMsg data tag crc mark
  let s := ham10 msg ^^^ bits check 0 10
  let p := (popcount 592 msg + popcount 11 (bits check 0 11)) % 2
  /- steps 2 and 3, after step 1 left `data`, `crc` and `mark` and corrected a bit or not -/
  let rest (data crc mark : Nat) (fixed : Bool) : LineRes :=
    if lineCrc data tag ≠ crc then ⟨data, true, mcUe⟩
    else if mark = markGood then ⟨data, false, if fixed then mcCe else 0⟩
    else if mark = markPoison then ⟨data, true, if fixed then mcCe else 0⟩
    else ⟨data, true, mcUe⟩
  if p = 0 then if s = 0 then rest data crc mark false else ⟨data, true, mcUe⟩
  else if s = 0 ∨ popcount 10 s = 1 then rest data crc mark true
  else match posBit s with
    | none => ⟨data, true, mcUe⟩
    | some m =>
      if 512 ≤ m ∧ m < 544 then ⟨data, true, mcCmd⟩
      else
        let msg := msg ^^^ 2 ^ m
        rest (bits msg 0 512) (bits msg 544 32) (bits msg 576 16) true

/-- A line read back: stored as `data` with or without poison, encoded under its TAG, and hurt as `e` says. An uncorrectable line
answers its data as they were read. -/
def readBack (tag data : Nat) (poison : Bool) (e : LineErr) : LineRes :=
  let enc := tag ^^^ e.tag.toNat
  let check := checkWord data enc (if poison then markPoison else markGood)
  let raw := e.flips.foldl (fun a i => a ^^^ 2 ^ i.val) (data % 2 ^ 512 + check * 2 ^ 512)
  decodeLine tag (bits raw 0 512) (bits raw 512 64)

end Sys2Proof.Machine
end

