-- ==== Sys2Proof/Machine/MemOps.lean ====
section
/-! DEFINITION. The memory controller's shared operations (spec/17_memory.md): locations, the serving rank, error reports,
retirement and migration. -/

namespace Sys2Proof.Machine

open Sys2Proof

/-- MEM_RANK states (R528). -/
def rkActive : Nat := 0
def rkSpare : Nat := 1
def rkSource : Nat := 2
def rkTarget : Nat := 3
def rkRetired : Nat := 4
def rkFailed : Nat := 5

def Chip.rankState (ch : Chip) (p : Nat) : Nat := ch.rd (F.MEM_RANK_STATE p)
def Chip.setRank (ch : Chip) (p st : Nat) : Chip := ch.wr (F.MEM_RANK_STATE p) st

def Chip.setMc (ch : Chip) (f : MemCtl → MemCtl) : Chip := { ch with mc := f ch.mc }

/-- Finders of R527. -/
def fdRead : Nat := 0
def fdWrite : Nat := 1
def fdScrub : Nat := 2
def fdMigrate : Nat := 3

/-- TAG of line λ of physical rank `p` (R500, R503). -/
def lineTag (p lam : Nat) : Nat :=
  let q := lam / 4
  let j := 4 * (q % 7) + lam % 4
  let r := q / 7
  let bank := (r % 16) ^^^ (r / 16 % 16)
  p / 2 + p % 2 * 2 ^ 4 + bank * 2 ^ 5 + r / 16 * 2 ^ 9 + j * 2 ^ 23

/-- The physical rank that carries a logical rank, or is its source. -/
def Chip.carrier (ch : Chip) (logical : Nat) : Option Nat :=
  (List.range 32).find? fun p =>
    (ch.rankState p == rkActive || ch.rankState p == rkSource) && ch.rd (F.MEM_RANK_SUBST p) == logical

/-- The physical rank that serves line λ of a logical rank: during a migration the target, below the pointer (R519). -/
def Chip.server (ch : Chip) (logical lam : Nat) : Option Nat :=
  (ch.carrier logical).map fun p =>
    if ch.rankState p = rkSource ∧ lam < ch.rd F.MEM_MIG_PTR_P then ch.rd F.MEM_MIG_DST else p

/-- The DRAM offset of line λ of a logical rank: R500 turned round. -/
def Chip.lineOff (ch : Chip) (logical lam : Nat) : Nat :=
  let list := if logical % 2 = 0 then List.range 16 else regionB (ch.usable / (448 * 1048576))
  let k := lam / 4 * list.length + (findIdx (fun c => c == logical / 2) list).getD 0
  64 * ((if logical % 2 = 0 then 0 else regionA) + 4 * k + lam % 4)

/-- The states of the ranks go to the Bupin, which keeps them as the record (R521). -/
def Chip.sendRecord (ch : Chip) : Chip :=
  ch.setMc fun m => { m with record := (List.range 32).map fun p => (ch.rankState p, ch.rd (F.MEM_RANK_SUBST p)) }

/-! ### The queues of a channel (R511 to R513)

A write shows in `Chip.mem` from the moment the controller accepts it, because a read of its line waits until it was issued (R513);
the queue says which writes have not reached the DRAM. -/

def DramReq.line (r : DramReq) : Nat :=
  match r.op with
  | .read l _ => l
  | .write l _ _ => l
  | .rmw l _ _ _ _ => l

def DramReq.isRead (r : DramReq) : Bool := match r.op with | .read _ _ => true | _ => false

/-- A write of a whole line. -/
def DramReq.full (r : DramReq) : Bool := match r.op with | .write _ _ _ => true | _ => false

def Chip.rdq (ch : Chip) (k : Nat) : List DramReq := Tab.get [] ch.mc.reads k
def Chip.wrq (ch : Chip) (k : Nat) : List DramReq := Tab.get [] ch.mc.writes k

/-- The read queue of a channel changes, and its level in MEM_CH_QLEVEL. -/
def Chip.setRdq (ch : Chip) (k : Nat) (q : List DramReq) : Chip :=
  (ch.setMc fun m => { m with reads := Tab.set [] m.reads k q }).wr (F.MEM_CH_QLEVEL_READS k) q.length

/-- The write queue of a channel changes, and its level in MEM_CH_QLEVEL. -/
def Chip.setWrq (ch : Chip) (k : Nat) (q : List DramReq) : Chip :=
  (ch.setMc fun m => { m with writes := Tab.set [] m.writes k q }).wr (F.MEM_CH_QLEVEL_WRITES k) q.length

/-- What a reader of its line finds once a write is accepted (R513). -/
def Chip.seeWrite (ch : Chip) (r : DramReq) : Chip :=
  match r.op with
  | .read _ _ => ch
  | .write l d p => ch.store (dramBase + 64 * l) (padTo 64 d) p
  | .rmw l o d p _ =>
    let a := dramBase + 64 * l
    ch.store a (patch (ch.bytes a 64) o (d.take (64 - o))) (p || ch.isPoisoned a)

/-! ### Retirement (R518 to R521) -/

def Chip.freeSpares (ch : Chip) : List Nat := (List.range 32).filter fun p => ch.rankState p == rkSpare

/-- Migration of physical rank `p` to a spare starts. -/
def Chip.startMigration (ch : Chip) (p spare : Nat) : Chip :=
  let c := (ch.setRank p rkSource).setRank spare rkTarget
  let c := ((c.wr F.MEM_MIG_SRC p).wr F.MEM_MIG_DST spare).setFlag F.MEM_MIG_ACTIVE true
  (c.wr F.MEM_MIG_PTR_P 0).sendRecord

/-- A trigger of R518 for physical rank `p`. -/
def Chip.retire (ch : Chip) (p : Nat) : Chip :=
  if ch.rankState p ≠ rkActive ∨ ch.mc.queue.contains p then ch
  else match ch.freeSpares with
    | [] => ch.setFlag F.MEM_MIG_NOSPARE_SEEN true
    | spare :: rest =>
      if ch.flag F.MEM_MIG_ACTIVE then
        if ch.mc.queue.length < rest.length + 1 then ch.setMc fun m => { m with queue := m.queue ++ [p] }
        else ch.setFlag F.MEM_MIG_NOSPARE_SEEN true
      else ch.startMigration p spare

/-- The next queued rank migrates; with no spare left it stays ACTIVE. -/
def Chip.nextMigration (ch : Chip) : Chip :=
  match ch.mc.queue with
  | [] => ch
  | p :: rest => (ch.setMc fun m => { m with queue := rest }).retire p

/-- The lines already copied are served from the source again, as it holds them (R520); what waits in the queues goes to it next.
(DEDUCED, log entry 132.) -/
def Chip.backToSource (ch : Chip) : Chip :=
  let c := ch.mc.copied.foldl (fun (c : Chip) e => c.store (dramBase + e.1) (toLe 64 e.2.1) e.2.2) ch
  let c := (ch.mc.writes.flatMap (·.2)).foldl Chip.seeWrite c
  c.setMc fun m => { m with copied := [] }

/-- P reached the end of the rank (R520). -/
def Chip.endMigration (ch : Chip) : Chip :=
  let src := ch.rd F.MEM_MIG_SRC
  let dst := ch.rd F.MEM_MIG_DST
  let ch := ch.setMc fun m => { m with copied := [] }
  let c := ((ch.setRank dst rkActive).wr (F.MEM_RANK_SUBST dst) (ch.rd (F.MEM_RANK_SUBST src))).setRank src rkRetired
  (((c.setFlag F.MEM_MIG_ACTIVE false).setFlag F.MEM_MIG_DONE_SEEN true).sendRecord).nextMigration

/-- An uncorrectable error in the target aborts the migration, which restarts with the next free spare (R520). -/
def Chip.abortMigration (ch : Chip) : Chip :=
  let src := ch.rd F.MEM_MIG_SRC
  let ch := ch.backToSource
  let c := (((ch.setRank (ch.rd F.MEM_MIG_DST) rkFailed).wr F.MEM_MIG_PTR_P 0).setFlag F.MEM_MIG_ABORT_SEEN true)
  match c.freeSpares with
  | spare :: _ => c.startMigration src spare
  | [] =>
    let c := (c.setRank src rkActive).setFlag F.MEM_MIG_ACTIVE false
    ((c.setFlag F.MEM_MIG_NOSPARE_SEEN true).sendRecord).nextMigration

/-! ### Errors (R505 to R509, R527) -/

/-- DETAIL of rows 1 to 3. -/
def memDetail (off tag finder : Nat) : Nat := off + tag * 2 ^ 64 + finder * 2 ^ 96

/-- A corrected error in physical rank `p`: counted and raised; CE_N of them within WIN_S start retirement. -/
def Chip.memCe (ch : Chip) (p off tag finder : Nat) : Chip :=
  let k := p / 2
  let c := ch.count (F.MEM_CH_CE_COUNT k) (F.MEM_CH_STAT_OVF k) 0
  let c := c.wr (F.MEM_CH_RANK_CE_COUNT k (p % 2)) (min max32 (c.rd (F.MEM_CH_RANK_CE_COUNT k (p % 2)) + 1))
  let c := c.raise 1 (source (256 + k) (p % 2)) (memDetail off tag finder)
  let n := c.rd F.MEM_RETIRE_CE_N
  if n = 0 then c
  else
    let win := c.rd F.MEM_RETIRE_WIN_S * 1000000000
    let times := ((c.now :: Tab.get [] c.mc.ceTimes p).take n).filter fun t => c.now < t + win
    let c := c.setMc fun m => { m with ceTimes := Tab.put m.ceTimes p times }
    if n ≤ times.length then c.retire p else c

/-- An uncorrectable error of class `cls` in physical rank `p`: counted, logged and raised. -/
def Chip.memUe (ch : Chip) (chan rank cls off tag finder : Nat) : Chip :=
  let c := if cls = mcCmd then ch.count (F.MEM_CH_CMD_COUNT chan) (F.MEM_CH_STAT_OVF chan) 2
    else ch.count (F.MEM_CH_UE_COUNT chan) (F.MEM_CH_STAT_OVF chan) 1
  let c := ((c.wr (F.MEM_CH_ERR_ADDR_OFFSET chan) off).wr (F.MEM_CH_ERR_TAG_TAG chan) tag).wr (F.MEM_CH_ERR_TIME_TIME chan) c.now
  let c := (c.wr (F.MEM_CH_ERR_KIND_CLASS chan) cls).wr (F.MEM_CH_ERR_KIND_FINDER chan) finder
  c.raise (if cls = mcCmd then 3 else 2) (source (256 + chan) rank) (memDetail off tag finder)

/-- Retirement that follows an uncorrectable error: in a target it aborts the migration. -/
def Chip.ueRank (ch : Chip) (p : Nat) : Chip :=
  if ch.rankState p = rkTarget then ch.abortMigration else ch.retire p

/-- Data bytes moved on a channel. -/
def Chip.countRd (ch : Chip) (k : Nat) : Chip :=
  ch.count64 (F.MEM_CH_RD_BYTES k) (F.MEM_CH_STAT_WRAP k) 0 (F.MEM_CH_WRAP_COUNT k) (F.MEM_CH_STAT_WRAP_OVF k) 0 64

def Chip.countWr (ch : Chip) (k : Nat) : Chip :=
  ch.count64 (F.MEM_CH_WR_BYTES k) (F.MEM_CH_STAT_WRAP k) 1 (F.MEM_CH_WRAP_COUNT k) (F.MEM_CH_STAT_WRAP_OVF k) 0 64

/-- The logical rank and λ of DRAM line `l`. -/
def Chip.lineAt (ch : Chip) (l : Nat) : Nat × Nat :=
  let x := ch.lineLoc l
  (2 * x.chan + x.rank, x.lam)

/-- A correction by a channel's link ECC (R510). -/
def Chip.countLink (ch : Chip) (k : Nat) (link : Bool) : Chip :=
  if link then ch.count (F.MEM_CH_LINK_COUNT k) (F.MEM_CH_STAT_OVF k) 3 else ch

/-- A line is read and decoded at physical rank `p` (R505): the result and the chip with the read counted. -/
def Chip.readLineAt (ch : Chip) (p lam off : Nat) (e : LineErr) : LineRes × Chip :=
  (readBack (lineTag p lam) (ch.load (dramBase + off) 64) (ch.isPoisoned (dramBase + off)) e, (ch.countRd (p / 2)).countLink (p / 2) e.link)

end Sys2Proof.Machine
end

