-- ==== Sys2Proof/Machine/Memory.lean ====
section
/-! DEFINITION. The memory controller's commands (spec/17_memory.md): accesses of one line, background work, retirement. -/

namespace Sys2Proof.Machine

open Sys2Proof

/-- The controller works: outside Doze (R524). -/
def Chip.memRuns (ch : Chip) : Bool := ch.pwr != pwrDoze

/-- A command of the memory controller of chip `c`; the Bupin logs rank states it is sent (R521). -/
def onMem (s : State) (c : ChipId) (f : Chip → Chip) : Res :=
  match onChip s c f with
  | .next t => .next (logRanks c s t)
  | r => r

/-! ### Accesses (R505 to R508, R522) -/

/-- A read of DRAM line `l` (R505, R508): corrected data are written back, an uncorrectable line becomes poison. -/
def Chip.demandRead (ch : Chip) (l : Nat) (e : LineErr) : Chip :=
  let off := 64 * l
  let (logical, lam) := ch.lineAt l
  match ch.server logical lam with
  | none => ch.memUe (logical / 2) (logical % 2) mcUe off 0 fdRead
  | some p =>
    let (r, c) := ch.readLineAt p lam off e
    if r.cls = 0 then c
    else if r.cls = mcCe then
      ((c.store (dramBase + off) (toLe 64 r.data) r.poison).countWr (p / 2)).memCe p off (lineTag p lam) fdRead
    else
      (((c.store (dramBase + off) (toLe 64 r.data) true).countWr (p / 2)).memUe (p / 2) (p % 2) r.cls off (lineTag p lam) fdRead).ueRank p

/-- A whole line is written (R506, R522). -/
def Chip.lineWrite (ch : Chip) (l : Nat) (data : List Byte) (poison : Bool) : Chip :=
  let (logical, lam) := ch.lineAt l
  match ch.server logical lam with
  | none => ch.memUe (logical / 2) (logical % 2) mcUe (64 * l) 0 fdWrite
  | some p => (ch.store (dramBase + 64 * l) (padTo 64 data) poison).countWr (p / 2)

/-- Bytes `o` on of a line are written: read, decoded, merged and encoded again (R507, R522). -/
def Chip.lineMerge (ch : Chip) (l o : Nat) (data : List Byte) (poison : Bool) (e : LineErr) : Chip :=
  let off := 64 * l
  let (logical, lam) := ch.lineAt l
  match ch.server logical lam with
  | none => ch.memUe (logical / 2) (logical % 2) mcUe off 0 fdWrite
  | some p =>
    let (r, c) := ch.readLineAt p lam off e
    let bs := data.take (64 - o)
    let c := (c.store (dramBase + off) (patch (toLe 64 r.data) o bs) (r.poison || poison)).countWr (p / 2)
    if r.cls = 0 then c
    else if r.cls = mcCe then c.memCe p off (lineTag p lam) fdWrite
    else (c.memUe (p / 2) (p % 2) r.cls off (lineTag p lam) fdWrite).ueRank p

/-! ### Requests (R511 to R513) -/

/-- Nothing waits at a channel. -/
def Chip.chanIdle (ch : Chip) (k : Nat) : Bool := (ch.rdq k).isEmpty && (ch.wrq k).isEmpty

/-- The physical rank that serves a line, or none, and the channel that takes its requests. -/
def Chip.lineRank (ch : Chip) (l : Nat) : Option Nat := ch.server (ch.lineAt l).1 (ch.lineAt l).2
def Chip.lineChan (ch : Chip) (l : Nat) : Nat := (ch.lineRank l).elim ((ch.lineAt l).1 / 2) (· / 2)

/-- A request enters its queue. A write replaces a waiting full-line write of its line; one of part of a line needs that line's
bytes, and so leaves it (R507, R512). (DESIGN CHOICE, log entry 138.) -/
def Chip.dramAccept (ch : Chip) (k : Nat) (r : DramReq) : Chip :=
  if r.isRead then ch.setRdq k (ch.rdq k ++ [r])
  else
    let q := if r.full then (ch.wrq k).filter fun w => !(w.full && w.line == r.line) else ch.wrq k
    (ch.setWrq k (q ++ [r])).seeWrite r

/-- Requests each queue of a channel holds (R511). -/
def queueDepth : Nat := 64

/-- The queue that a request enters has room. -/
def Chip.dramRoom (ch : Chip) (k : Nat) (r : DramReq) : Bool :=
  decide ((if r.isRead then ch.rdq k else ch.wrq k).length < queueDepth)

/-- The Common Room and Latch, from whose island requests cross to a channel. -/
def crDomain : Nat := 231

/-- A request reaches channel `k`: its queue takes it, or the crossing holds it while the channel's clock is stopped, the queue is
full or other requests wait (R83). -/
def Chip.dramArrive (ch : Chip) (k : Nat) (r : DramReq) : Chip :=
  let x := ch.xing crDomain (256 + k)
  if ch.clkRuns k && x.st == .run && x.held.isEmpty && x.wait.isEmpty && ch.dramRoom k r then ch.dramAccept k r
  else ch.setXing crDomain (256 + k) fun x => x.put (!ch.clkRuns k) crDomain (.dram r)

/-- Held requests enter the queues of a running channel, in order, while there is room. -/
def Chip.dramTake (ch : Chip) (k : Nat) : List XItem → Chip
  | .dram r :: rest =>
    if ch.dramRoom k r then
      ((ch.setXing crDomain (256 + k) fun x => { x with held := rest }).dramAccept k r).dramTake k rest
    else ch
  | _ => ch

/-- What the crossing holds enters, and writes that waited at it follow. -/
def Chip.dramAdmit (ch : Chip) (k : Nat) : Chip :=
  let x := ch.xing crDomain (256 + k)
  if ch.clkRuns k && x.st == .run && !x.held.isEmpty then
    (ch.dramTake k x.held).setXing crDomain (256 + k) fun x => x.refill x.wait.length
  else ch

/-- Bank, with its rank and channel, and row of a line at physical rank `p` (R503). -/
def bankOf (p lam : Nat) : Nat := lineTag p lam % 2 ^ 9
def rowOf (p lam : Nat) : Nat := lineTag p lam / 2 ^ 9 % 2 ^ 14

/-- The line's row is open. -/
def Chip.rowHit (ch : Chip) (l : Nat) : Bool :=
  match ch.lineRank l with
  | some p => Tab.get 0 ch.mc.openRow (bankOf p (ch.lineAt l).2) == rowOf p (ch.lineAt l).2 + 1
  | none => false

/-- A line was accessed: its row stays open. -/
def Chip.openLine (ch : Chip) (l : Nat) : Chip :=
  match ch.lineRank l with
  | some p => ch.setMc fun m => { m with openRow := Tab.set 0 m.openRow (bankOf p (ch.lineAt l).2) (rowOf p (ch.lineAt l).2 + 1) }
  | none => ch

/-- No row of a channel is open. -/
def Chip.closeRows (ch : Chip) (k : Nat) : Chip :=
  ch.setMc fun m => { m with openRow := m.openRow.filter fun e => e.1 % 16 != k }

/-- Writes of a channel go ahead of reads (R512): from WHI requests down to WLO; always with WHI 0. -/
def Chip.writesFirst (ch : Chip) (k : Nat) : Bool :=
  let n := (ch.wrq k).length
  let hi := ch.rd F.MEM_SCHED_WHI
  if hi = 0 then decide (0 < n)
  else if hi ≤ n then true
  else if n ≤ ch.rd F.MEM_SCHED_WLO then false
  else ch.mc.draining.contains k

/-- The request of channel `k` that the order of R511 and R512 puts first. -/
def Chip.dramPick (ch : Chip) (k : Nat) : Option DramReq :=
  let rs := ch.rdq k
  let ws := ch.wrq k
  match argMin (·.at') ((rs ++ ws).filter (·.safety)) with
  | some r => some r
  | none =>
    if ch.writesFirst k || rs.isEmpty then ws.head?
    else match rs.find? fun r => decide (r.at' + ch.rd F.MEM_SCHED_AGE ≤ ch.now) with
      | some r => some r
      | none => match rs.find? fun r => ch.rowHit r.line with
        | some r => some r
        | none => rs.head?

/-- The request that is issued where `r` comes first: the oldest write of its line, and if none waits the oldest read of it (R512,
R513). -/
def Chip.dramFirst (ch : Chip) (k : Nat) (r : DramReq) : DramReq :=
  (((ch.wrq k).find? fun w => w.line == r.line).or ((ch.rdq k).find? fun x => x.line == r.line)).getD r

/-- A request is issued to the DRAM; writes of its line that still wait keep their place in what readers find (R513). -/
def Chip.dramIssue (ch : Chip) (k : Nat) (r : DramReq) : Chip :=
  let q := if r.isRead then ch.setRdq k ((ch.rdq k).erase r) else ch.setWrq k ((ch.wrq k).erase r)
  let c := match r.op with
    | .read l e => q.demandRead l e
    | .write l d p => q.lineWrite l d p
    | .rmw l o d p e => q.lineMerge l o d p e
  ((((c.wrq k).filter fun w => w.line == r.line).foldl Chip.seeWrite c).openLine r.line).countLink k r.link

/-- One channel's turn: requests enter, and one is issued. -/
def Chip.dramTurn (ch : Chip) (k : Nat) : Chip :=
  let ch := ch.dramAdmit k
  if ch.clkRuns k && !ch.chanIdle k then
    let w := ch.writesFirst k
    let ch := ch.setMc fun m => { m with draining := if w then insNat m.draining k else m.draining.filter (· != k) }
    match ch.dramPick k with
    | some r => ch.dramIssue k (ch.dramFirst k r)
    | none => ch
  else ch

/-- Every channel's turn. (DESIGN CHOICE, log entries 2, 138.) -/
def Chip.memTurn (ch : Chip) : Chip := if ch.memRuns then (List.range 16).foldl Chip.dramTurn ch else ch

/-- A request of a line below the usable size: the controller receives no other (R501). -/
def Chip.dramRequest (ch : Chip) (r : LineReq) (op : DramOp) : Chip :=
  if 64 * r.line.toNat < ch.usable ∧ ch.memRuns then ch.dramArrive (ch.lineChan r.line.toNat) ⟨op, r.safety, r.link, ch.now⟩ else ch

/-- DRAM_READ (R505, R508, R511, R522): one line. It is served in its turn, when
its data, corrected or poisoned, return. (DEDUCED, log entries 128, 135.) -/
def execDramRead (c : ChipId) (line : LineReq) (e : LineErr) (s : State) : Res :=
  onChip s c fun ch => ch.dramRequest line (.read line.line.toNat e)

/-- DRAM_WRITE (R506, R512, R522): a whole line. (DEDUCED, log entries 128, 135.) -/
def execDramWrite (c : ChipId) (line : LineReq) (data : List Byte) (poison : Bool) (s : State) : Res :=
  onChip s c fun ch => ch.dramRequest line (.write line.line.toNat data poison)

/-- DRAM_READ_MODIFY_WRITE (R506, R507, R512, R522): bytes `o` on of a line. -/
def execDramReadModifyWrite (c : ChipId) (line : LineReq) (o : Fin 64) (data : List Byte) (poison : Bool) (e : LineErr)
    (s : State) : Res :=
  onChip s c fun ch => ch.dramRequest line (.rmw line.line.toNat o.val data poison e)

/-! ### Refresh, temperature, training (R514 to R516, R525) -/

/-- Limit of postponed refreshes, in tREFI (R514). (DEDUCED, log entry 129.) -/
def refreshLimit : Nat := 8

/-- REFRESH (R511, R514, R523): a refresh falls due on a channel. `demand`: 0 the bus is free, 1 safety requests want it, 2
foreground demand does, besides what waits in the channel's queues. It yields to both, but at the limit only to safety.
(DEDUCED, log entry 129.) -/
def execRefresh (c : ChipId) (k : Fin 16) (demand : Fin 3) (s : State) : Res :=
  onChip s c fun ch =>
    let n := Tab.get 0 ch.mc.postponed k.val
    let safety := demand.val == 1 || ((ch.rdq k.val ++ ch.wrq k.val).any (·.safety))
    let busy := demand.val != 0 || !ch.chanIdle k.val
    if ch.memRuns = false then ch
    else if busy = false ∨ (safety = false ∧ refreshLimit ≤ n) then
      (((ch.setFlag (F.MEM_CH_STAT_PD_LIVE k.val) false).setClk k.val true).closeRows k.val).setMc fun m =>
        { m with postponed := Tab.set 0 m.postponed k.val 0 }
    else if n < refreshLimit then ch.setMc fun m => { m with postponed := Tab.set 0 m.postponed k.val (n + 1) }
    else ch

/-- The MR4 code of LPDDR5X above the operating limit. PRESUMED from the JEDEC table. (PRESUMED, log entry 130.) -/
def mr4Over : Nat := 31

/-- MR4_POLL (R514): MR4 of both ranks of a channel, every 1 ms. (PRESUMED, log entry 130.) -/
def execMr4Poll (c : ChipId) (k : Fin 16) (r0 r1 : BitVec 5) (s : State) : Res :=
  onChip s c fun ch =>
    if ch.memRuns = false then ch
    else
      [(0, r0.toNat), (1, r1.toNat)].foldl (fun (c : Chip) e =>
        let c := c.setMc fun m => { m with mr4 := Tab.set 0 m.mr4 (2 * k.val + e.1) e.2 }
        if e.2 = mr4Over then (c.setFlag (F.MEM_CH_STAT_THERM_SEEN k.val) true).raise 21 (source (256 + k.val) e.1) e.2 else c) ch

/-- RETRAIN_DUE (R516): an interval of a rank; `idle`: a window of 1.2 µs was found in it. -/
def execRetrainDue (c : ChipId) (rank : Fin 32) (idle : Bool) (s : State) : Res :=
  onChip s c fun ch =>
    if ch.memRuns = false then ch
    else
      let n := if idle && ch.chanIdle (rank.val / 2) then 0 else Tab.get 0 ch.mc.deferred rank.val + 1
      ch.setMc fun m => { m with deferred := Tab.set 0 m.deferred rank.val n }

/-- RETRAIN_FORCED (R516): the step of a rank that found no window for 4 intervals. -/
def execRetrainForced (c : ChipId) (rank : Fin 32) (s : State) : Res :=
  onChip s c fun ch =>
    if 4 ≤ Tab.get 0 ch.mc.deferred rank.val ∧ ch.memRuns then
      let k := rank.val / 2
      ((ch.setMc fun m => { m with deferred := Tab.set 0 m.deferred rank.val 0 }).setFlag (F.MEM_CH_STAT_FORCED_SEEN k) true).count
        (F.MEM_CH_FORCED_COUNT k) (F.MEM_CH_STAT_OVF k) 4
    else ch

/-- TELEMETRY_SAMPLE (R525): MR4 of both ranks read at telemetry priority, or skipped for want of an idle slot. -/
def execTelemetrySample (c : ChipId) (k : Fin 16) (idle : Bool) (r0 r1 : BitVec 5) (s : State) : Res :=
  onChip s c fun ch =>
    if ch.rd F.MEM_TEL_PERIOD = 0 ∨ ch.memRuns = false then ch
    else if idle && ch.chanIdle k.val then (ch.wr (F.MEM_CH_TEMP_MR4_R0 k.val) r0.toNat).wr (F.MEM_CH_TEMP_MR4_R1 k.val) r1.toNat
    else ch.count (F.MEM_CH_TEL_SKIP_COUNT k.val) (F.MEM_CH_STAT_OVF k.val) 5

/-- CHANNEL_POWER_DOWN (R523): a channel idle for MEM_PD.IDLE ns. -/
def execChannelPowerDown (c : ChipId) (k : Fin 16) (s : State) : Res :=
  onChip s c fun ch =>
    if ch.rd F.MEM_PD_IDLE = 0 ∨ ch.memRuns = false ∨ ch.chanIdle k.val = false then ch
    else ((ch.setFlag (F.MEM_CH_STAT_PD_LIVE k.val) true).setClk k.val false).closeRows k.val

/-! ### Patrol scrub (R509, R517) -/

/-- Ranks of a channel that the scrubber reads. -/
def Chip.scrubRanks (ch : Chip) (k : Nat) : List Nat :=
  [2 * k, 2 * k + 1].filter fun p => [rkActive, rkSpare, rkTarget].contains (ch.rankState p)

/-- GSTAT follows the channels' late bits. -/
def Chip.lateSync (ch : Chip) : Chip :=
  ch.setFlag F.MEM_GSTAT_SCRUB_LATE_LIVE ((List.range 16).any fun k => ch.flag (F.MEM_CH_STAT_SCRUB_LATE_LIVE k))

/-- What the scrubber does with the line it read in physical rank `p`. The DRAM offset of a line that carries no data of a graph,
in a spare or above the pointer of a target, is a free value. -/
def Chip.scrubLine (ch : Chip) (p lam : Nat) (e : LineErr) : Chip :=
  let st := ch.rankState p
  let k := p / 2
  let tag := lineTag p lam
  let live := st == rkActive || (st == rkTarget && decide (lam < ch.rd F.MEM_MIG_PTR_P))
  let logical := if st = rkTarget then ch.rd (F.MEM_RANK_SUBST (ch.rd F.MEM_MIG_SRC)) else ch.rd (F.MEM_RANK_SUBST p)
  if live then
    let off := ch.lineOff logical lam
    let (r, c) := ch.readLineAt p lam off e
    if r.cls = 0 then c
    else if r.cls = mcCe then ((c.store (dramBase + off) (toLe 64 r.data) r.poison).countWr k).memCe p off tag fdScrub
    else
      let c := ((c.store (dramBase + off) (toLe 64 r.data) true).countWr k).memUe k (p % 2) r.cls off tag fdScrub
      if st = rkTarget then c.abortMigration
      else if c.freeSpares = [] then c.setFlag F.MEM_MIG_NOSPARE_SEEN true else c.retire p
  else
    let r := readBack tag 0 false e
    let (off, c) := ((ch.countRd k).countLink k e.link).draw
    let off := off % 2 ^ 64
    if r.cls = 0 then c
    else if r.cls = mcCe then (c.countWr k).memCe p off tag fdScrub
    else
      let c := (c.countWr k).memUe k (p % 2) r.cls off tag fdScrub
      if st = rkTarget then c.abortMigration else (c.setRank p rkFailed).sendRecord

/-- PATROL_SCRUB_READ (R509, R517): the next line of a channel's pass, while both queues of the channel are empty. -/
def execPatrolScrubRead (c : ChipId) (k : Fin 16) (e : LineErr) (s : State) : Res :=
  onMem s c fun ch =>
    let ranks := ch.scrubRanks k.val
    if ch.rd F.MEM_SCRUB_HOURS = 0 ∨ ch.memRuns = false ∨ ranks = [] ∨ ch.chanIdle k.val = false then ch
    else
      let pos := ch.rd (F.MEM_CH_SCRUB_POS k.val)
      let c := match ranks[pos / rankLines]? with
        | some p => ch.scrubLine p (pos % rankLines) e
        | none => ch
      if pos + 1 < ranks.length * rankLines then c.wr (F.MEM_CH_SCRUB_POS k.val) (pos + 1)
      else
        let n := min max32 (c.rd (F.MEM_CH_PASSES_COUNT k.val) + 1)
        (((c.wr (F.MEM_CH_SCRUB_POS k.val) 0).wr (F.MEM_CH_PASSES_COUNT k.val) n).setFlag (F.MEM_CH_STAT_SCRUB_LATE_LIVE k.val) false).lateSync

/-- SCRUB_DEADLINE (R517): a pass of a channel still runs HOURS hours of Run time after its start. -/
def execScrubDeadline (c : ChipId) (k : Fin 16) (s : State) : Res :=
  onChip s c fun ch =>
    if ch.rd F.MEM_SCRUB_HOURS = 0 then ch
    else ((ch.setFlag (F.MEM_CH_STAT_SCRUB_LATE_LIVE k.val) true).setFlag (F.MEM_CH_STAT_SCRUB_LATE_SEEN k.val) true).lateSync

/-! ### Retirement (R518 to R520) -/

/-- MEM_MIG_REQ.GO (R518, R532). -/
def Chip.migrationGo (ch : Chip) : Chip :=
  let p := ch.rd F.MEM_MIG_REQ_RANK
  if ch.rankState p ≠ rkActive ∨ ch.mc.queue.contains p then ch.setFlag F.MEM_MIG_REQ_BAD_SEEN true else ch.retire p

/-- MIGRATION_GO (R518). -/
def execMigrationGo (c : ChipId) (s : State) : Res := onMem s c fun ch => ch.whenPowered F.MEM_MIG_REQ_GO.reg (2 ^ 8) Chip.migrationGo

/-- MIGRATION_COPY_LINE (R519, R520): the line at P, while nothing of a higher class waits at its two channels (R511).
(DEDUCED, log entry 132.) -/
def execMigrationCopyLine (c : ChipId) (e : LineErr) (s : State) : Res :=
  onMem s c fun ch =>
    let src := ch.rd F.MEM_MIG_SRC
    let dst := ch.rd F.MEM_MIG_DST
    if ch.flag F.MEM_MIG_ACTIVE = false ∨ ch.memRuns = false ∨ ch.chanIdle (src / 2) = false ∨ ch.chanIdle (dst / 2) = false then ch
    else
      let lam := ch.rd F.MEM_MIG_PTR_P
      let off := ch.lineOff (ch.rd (F.MEM_RANK_SUBST src)) lam
      let (r, c) := ch.readLineAt src lam off e
      let c := (c.store (dramBase + off) (toLe 64 r.data) r.poison).countWr (dst / 2)
      let c :=
        if r.cls = 0 then c
        else if r.cls = mcCe then c.memCe src off (lineTag src lam) fdMigrate
        else c.memUe (src / 2) (src % 2) r.cls off (lineTag src lam) fdMigrate
      let c := (c.wr F.MEM_MIG_PTR_P (lam + 1)).setMc fun m => { m with copied := m.copied ++ [(off, r.data, r.poison)] }
      if lam + 1 = rankLines then c.endMigration else c

/-- MEM_CH_RANK_CE written: the count is set and the window of R518 restarts. -/
def Chip.rankCeWrite (ch : Chip) (k r v : Nat) : Chip :=
  (ch.wr (F.MEM_CH_RANK_CE_COUNT k r) v).setMc fun m => { m with ceTimes := Tab.del m.ceTimes (2 * k + r) }

/-- RANK_CE_CLEAR (R518). -/
def execRankCeClear (c : ChipId) (k : Fin 16) (r : Fin 2) (v : BitVec 32) (s : State) : Res :=
  onMem s c fun ch => ch.rankCeWrite k.val r.val v.toNat

/-! ### Start-up (R515, R521, R526, R705) -/

/-- MEM_USABLE for a SPARES value (R498). -/
def usableOf (spares : Nat) : Nat := (32 - min 2 spares) * 448 * 1048576

/-- Logical ranks that SPARES defines. -/
def logicalRanks (spares : Nat) : List Nat :=
  (List.range 32).filter fun l => l % 2 == 0 || (regionB (32 - min 2 spares)).contains (l / 2)

/-- The record after a reset that interrupted a migration (R521). The target carries what the source carried. -/
def afterReset (rec' : List (Nat × Nat)) : List (Nat × Nat) :=
  let src := (rec'.find? fun e => e.1 == rkSource).elim 0 (·.2)
  rec'.map fun e => if e.1 = rkSource then (rkRetired, 0) else if e.1 = rkTarget then (rkActive, src) else e

/-- The record reconciled with SPARES (R705): states by physical rank, and the logical ranks that nothing carries. -/
def reconcile (rec' : List (Nat × Nat)) (spares : Nat) : List (Nat × Nat) × List Nat :=
  let defined := logicalRanks spares
  let one := rec'.map fun e => if e.1 = rkActive ∧ !defined.contains e.2 then (rkSpare, 0) else e
  let two := defined.foldl (fun (st : List (Nat × Nat) × List Nat) l =>
    if st.1.any fun e => e.1 == rkActive && e.2 == l then st
    else
      let take (i : Nat) : List (Nat × Nat) × List Nat := (updAt st.1 i fun _ => (rkActive, l), st.2)
      if (st.1[l]?).any fun e => e.1 == rkSpare then take l
      else match findIdx (fun (e : Nat × Nat) => e.1 == rkSpare) st.1 with
        | some i => take i
        | none => (st.1, st.2 ++ [l])) (one, [])
  (two.1.map fun e => if e.1 = rkActive ∨ e.1 = rkRetired ∨ e.1 = rkFailed then e else (rkSpare, 0), two.2)

/-- An ACTIVE rank that failed training: a spare takes its place without a copy, or its logical rank is FAILED (R529). -/
def failTraining (st : List (Nat × Nat) × List Nat) (p : Nat) : List (Nat × Nat) × List Nat :=
  match st.1[p]? with
  | some (s, l) =>
    if s = rkActive then
      match findIdx (fun (e : Nat × Nat) => e.1 == rkSpare) st.1 with
      | some i => (updAt (updAt st.1 p fun _ => (rkRetired, 0)) i fun _ => (rkActive, l), st.2)
      | none => (updAt st.1 p fun _ => (rkFailed, 0), st.2 ++ [l])
    else if s = rkSpare then (updAt st.1 p fun _ => (rkFailed, 0), st.2)
    else st
  | none => st

/-- DRAM starts after a reset: record restored and reconciled, every rank trained; `bad` are the ranks that fail it. -/
def Chip.memStart (ch : Chip) (bad : List Nat) : Chip :=
  let spares := ch.rd F.MEM_GCFG_SPARES
  let st := reconcile (afterReset ch.mc.record) spares
  let had := st.1
  let st := (bad.filter fun p => (had[p]?).any fun e => e.1 == rkSpare).foldl failTraining st
  let st := (bad.filter fun p => !(had[p]?).any fun e => e.1 == rkSpare).foldl failTraining st
  let c := st.1.zipIdx.foldl (fun (c : Chip) e => (c.setRank e.2 e.1.1).wr (F.MEM_RANK_SUBST e.2) e.1.2) ch
  let c : Chip := { c with mc := { MemCtl.reset st.1 with failed := st.2 } }
  let c := if st.1.any (fun e => e.1 == rkSpare) || !(bad.any fun p => (had[p]?).any fun e => e.1 == rkActive) then c
    else c.setFlag F.MEM_MIG_NOSPARE_SEEN true
  let c := (c.wr F.MEM_USABLE_BYTES (usableOf spares)).wr F.MEM_RESERVED_OFFSET (usableOf spares)
  (List.range 16).foldl (fun (c : Chip) k => (c.setFlag (F.MEM_CH_STAT_TRAINED k) true).setClk k true) c

/-- DRAM contents wiped (R526, R630). (DESIGN CHOICE, log entry 4.) -/
def Chip.wipeDram (ch : Chip) : Chip :=
  { ch with
    mem := ch.mem.filter fun e => decide (e.1 < dramBase)
    poisoned := ch.poisoned.filter fun a => decide (a < dramBase) }

/-- DRAM_WIPE_COMPLETE (R526): every rank that is not RETIRED or FAILED holds zeros. -/
def execDramWipeComplete (c : ChipId) (s : State) : Res :=
  onChip s c fun ch => ch.wipeDram.setFlag F.MEM_GSTAT_WIPE_DONE true

end Sys2Proof.Machine
end

