-- ==== Sys2Proof/Machine/Power.lean ====
section
/-! DEFINITION. Input power, resets, start-up and Doze entry (spec/01_tray.md R31, R49, R51; spec/21_power_life.md). The end of a
wake is in Wake.lean. -/

namespace Sys2Proof.Machine

open Sys2Proof

/-! ### Resets (R13, R625 to R628) -/

/-- CAUSE codes of R637. -/
def rstCold : Nat := 1
def rstPerst : Nat := 2
def rstFlr : Nat := 3
def rstBupin : Nat := 4
def rstLife : Nat := 5

/-- A field that a chip warm reset keeps: its Reset column lacks W (R13). -/
def keptWarm (key : Nat) : Bool :=
  match findReg (key / 64 / 4 * 4) with
  | some h => h.fam.fields.any fun s => !s.warm && h.base * 64 + s.lo == key
  | none => false

/-- A chip enters reset with registers `regs` and host link `hif`. What the pads and the Bupin hold stays: the retirement record,
memory until the wipe, the host reference clock. (DEDUCED, log entry 13.) -/
def Chip.enterReset (ch : Chip) (regs : Tab Nat) (hif : HostLink) (cause : Nat) : Chip :=
  let c : Chip := { Chip.reset ch.pos ch.mc.record with
    regs := regs, hif := hif, mem := ch.mem, poisoned := ch.poisoned, out := ch.out, draws := ch.draws }
  (c.wr F.HIF_ID_POS ch.pos.val).wr F.PWR_RST_CAUSE cause

/-- Chip warm reset (R625, R627); an FLR keeps the link in L0 and the sticky AER status. (DEDUCED, log entry 13.) -/
def Chip.warm (ch : Chip) (cause : Nat) : Chip :=
  let h := ch.hif
  let base : HostLink := { HostLink.reset with refclk := h.refclk }
  let hif : HostLink := if cause = rstFlr then
      { base with linkUp := h.linkUp, linkWidth := h.linkWidth, linkGen := h.linkGen, aerCor := h.aerCor, aerUnc := h.aerUnc }
    else base
  ch.enterReset (ch.regs.filter fun e => keptWarm e.1) hif cause

/-- The chip's part of a cold start: every register restored. -/
def Chip.cold (ch : Chip) (cause : Nat) : Chip := ch.enterReset [] { HostLink.reset with refclk := ch.hif.refclk } cause

/-- Graphs shared with chip `d`, which resets, are aborted with a CONTAIN record each (R70). (DEDUCED, log entry 41.) -/
def Chip.lostChip (ch : Chip) (d : Nat) : Chip :=
  (List.range 16).foldl (fun (c : Chip) k =>
    let x := c.slot k
    if (x.st == .armed || x.st == .waiting) && ((x.graph.map fun g => bit g.chips d).getD false) then
      (c.abortSlot k false).raise 12 (source 232 (slotQual k)) 0
    else c) ch

/-- Some head is enabled on E0. -/
def Chip.headsOn (ch : Chip) : Bool := (List.range 8).any fun h => ch.headState h != hdDisabled

/-- The staging that a chip's FWU mailbox started ends with its reset: the bank is EMPTY (R671). A critical command that it
delivered is finished without a completion (R673). -/
def Tray.stagingReset (t : Tray) (c : ChipId) : Tray :=
  let t : Tray := { t with auth := t.auth.map fun a => if a.src = c.val then { a with ring := none } else a }
  match t.staging with
  | some g => if g.chip = some c then { t.setBank g.bank Bank.empty with staging := none } else t
  | none => t

/-- Chip warm reset of chip `c` with what the other chips see of it: shared graphs (R70), the takeover partner of E0 (R51, R465)
and the standby of E2. A chip in reset stays there. Until its release the supplies
keep the value PWR_SUPPLY had. (DESIGN CHOICE, log entry 140.) -/
def State.warmReset (s : State) (c : ChipId) (cause : Nat) : State :=
  let old := s.chip c
  if old.inReset then s
  else
    let others := chipIds.filter fun d => d != c && !(s.chip d).inReset
    let t := (s.modTray fun t => t.stagingReset c).setChip c (old.warm cause)
    let t := t.eachChip others fun ch => ch.lostChip c.val
    let t := if c = 0 ∧ old.headsOn ∧ others.contains 2 then t.modChip 2 fun ch => ch.raise 29 (source 283 8) 0 else t
    let t := if c = 2 ∧ others.contains 0 ∧ (t.chip 0).flag F.SEN_STAT_STBY_LIVE then
        t.modChip 0 fun ch => (ch.setFlag F.SEN_STAT_STBY_LIVE false).motionStatus 0xFF 6 ch.now
      else t
    t.mirror.supplySync

/-! ### Cold starts (R628, R629, R641, R656) -/

/-- The bank that runs next: a pending trial ends, a PENDING bank runs as TRIAL, and a good bank replaces an active one that fails
verification (R656, R657, R672). `force`: the ROM starts the bank it wrote. (DEDUCED, log entry 39.) -/
def Tray.nextBank (t : Tray) (force : Bool) : Tray :=
  let t := match t.trial with
    | some i => ({ t.bankSt i (if t.bankBad i then bkEmpty else bkValid) with
        fallback := true, owed := [0, 1, 2, 3], owedVersion := (t.bank i).version } : Tray).logGen 9 0xFF (toLe 1 i ++ toLe 1 0)
    | none =>
      if t.pins.recover && !force then t
      else match findIdx (fun (b : Bank) => b.st == bkPending) t.banks with
        | some i => t.bankSt i bkTrial
        | none => t
  let r := t.running
  if t.trial.isSome ∨ t.bankBad r = false ∨ t.bankBad (1 - r) = true then t
  else (t.bankSt r bkEmpty).bankSt (1 - r) bkActive

/-- PWR_SUPPLY of chip `c` as the selected copy has it, or its reset value (R32). -/
def Tray.supplyStart (t : Tray) (c : Nat) : Nat :=
  match t.selected with
  | some (_, b) => ((t.migrate b).find? fun e => e.chip == c && e.off == F.PWR_SUPPLY_SEN.reg).elim supplyReset (·.value)
  | none => supplyReset

/-- The Bupin's part of a cold start: volatile state goes, the straps are sampled, the records are read. `now0` is the board time
at which the model resumes, `cause` a code of R637. (DESIGN CHOICE, log entries 18, 19.) -/
def Tray.cold (t : Tray) (now0 cause : Nat) (force : Bool) : Tray :=
  let t := t.nextBank force
  let bad := t.bankBad 0 && t.bankBad 1
  let t : Tray := { t with
    now := now0, power := .powered, starts := t.starts + 1, straps := t.pins, recovery := !force && (t.pins.recover || bad)
    lcsTarget := none, lcsTime := 0, readied := [], cycleDue := false, staging := none, image := [], mctp := [], lastSrc := 4
    auth := none, accepted := [], receiver := none, events := [], lostEvents := 0, warn := [], beyond := [], eid := 0
    fanLow := false, duty := 240, supplies := (List.range 13).map fun _ => ⟨supOff, none, 0⟩
    chips := t.chips.map fun x => { BupChip.reset with perst := x.perst }, wakeUntil := none }
  let t : Tray := { t with
    supReg := (List.range 4).map t.supplyStart
    migrated := t.selected.any fun e => decide (cfgFormat e.2 < t.runFormat) }
  t.logGen 1 0xFF (toLe 1 cause)

/-- A cold start of the whole tray, which samples the straps as they stand (R50). (DESIGN CHOICE, log entries 18, 19.) -/
def State.coldStart (s : State) (now0 cause : Nat) (force : Bool) : State :=
  ((s.modTray fun t => t.cold now0 cause force).modAll fun _ ch => ch.cold cause).supplySync

/-- Board time when 12 V counts as valid (R628). -/
def validTime : Nat := 100000000

/-- POWER_VALID (R49, R50). -/
def execPowerValid (pins : BootPins) (s : State) : Res :=
  .next (if s.tray.power = .off then (s.modTray fun t => { t with pins := pins }).coldStart validTime rstCold false else s)

/-- POWER_RESTORE (R49). -/
def execPowerRestore (pins : BootPins) (s : State) : Res :=
  .next (if s.tray.power = .held then (s.modTray fun t => { t with pins := pins }).coldStart validTime rstCold false else s)

/-- POWER_FAULT (R49, R46): 12 V left 10.4 to 13.6 V for 1 ms. -/
def execPowerFault (mv : BitVec 16) (s : State) : Res :=
  .next (if s.tray.power = .powered ∧ (mv.toNat < 10400 ∨ 13600 < mv.toNat) then
    let t := chipIds.foldl (fun (t : State) c => t.warmReset c rstBupin) s
    (t.modTray fun x => ({ x with power := .held } : Tray).logGen 2 0xFF (toLe 2 mv.toNat)).supplySync
  else s)

/-- POWER_LOSS (R49): 12 V fell below 9.0 V in Held. -/
def execPowerLoss (s : State) : Res :=
  .next (if s.tray.power = .held then s.modTray fun t => { t with power := .off } else s)

/-- SUPPLY_TRIP (R31): an output beyond its limit for 100 µs. -/
def execSupplyTrip (n : Fin 13) (s : State) : Res :=
  .next (s.modTray fun t =>
    if (t.supplies[n.val]?).any fun x => x.st == supOn then
      ({ t with supplies := updAt t.supplies n.val fun x => { x with st := supTripped } } : Tray).logGen 4 0xFF (toLe 1 n.val)
    else t)

/-- PERST_ASSERT (R51, R625, R626). -/
def execPerstAssert (c : ChipId) (s : State) : Res :=
  .next ((s.modBup c fun b => { b with perst := true }).warmReset c rstPerst)

/-- FLR (R121, R625). -/
def execFlr (c : ChipId) (s : State) : Res := .next (s.warmReset c rstFlr)

/-! ### Leaving reset (R626, R641) -/

/-- The Bupin lets a chip leave reset. -/
def State.mayRelease (s : State) (c : ChipId) : Bool :=
  let b := s.bup c
  (s.chip c).inReset && s.tray.power == .powered && !s.tray.recovery && !b.trip && !b.vcore && !s.tray.bankBad s.tray.running

/-- SPARES as the selected copy has it, for a chip that starts (R498, R705). (DEDUCED, log entry 15.) -/
def Tray.sparesAt (t : Tray) (ch : Chip) : Nat :=
  match t.selected with
  | some (_, b) =>
    ((t.migrate b).find? fun e => e.chip == ch.pos.val && e.off == F.MEM_GCFG_SPARES.reg).elim (ch.rd F.MEM_GCFG_SPARES) (·.value)
  | none => ch.rd F.MEM_GCFG_SPARES

/-- A chip that leaves reset: ranks restored and trained, SRAM wiped, clocks running, the Bupin's records shown, the configuration
applied (R193, R530, R630, R659). (DEDUCED, log entry 15.) -/
def Chip.leaveReset (ch : Chip) (t : Tray) (bad : List Nat) : Chip :=
  let c := (ch.wr F.MEM_GCFG_SPARES (t.sparesAt ch)).memStart bad
  let c : Chip := { c with
    mem := c.mem.filter fun e => decide (dramBase ≤ e.1)
    poisoned := c.poisoned.filter fun a => decide (dramBase ≤ a)
    hif := { c.hif with state := .starting, bmFloor := t.floor, bmRetired := decide (t.lcs = 4) } }
  let e0 := decide (ch.pos.val = 0)
  let c := ((((c.setClk 24 true).setClk 25 true).setClk 26 e0).setClk 27 e0).setClk 16 c.hif.refclk
  let c := (c.setClk 17 true).setClk 18 true
  let c := t.mirror c
  let c := if t.lcs = 4 then c else c.cfgApply t
  let c := c.wr F.PWR_THERM_DEMAND (c.rd F.PWR_PACE_TARGET_TARGET)
  (c.linkStart 0).linkStart 1

/-- CHIP_RESET_RELEASE (R626): the later of the Bupin's release and perst_n deasserted; `bad`: physical ranks that fail training. -/
def execChipResetRelease (c : ChipId) (bad : List (Fin 32)) (s : State) : Res :=
  .next (if s.mayRelease c then
    let t := (s.modBup c fun b => { b with perst := false, hot := 0, memCap := 0 }).modChip c fun ch =>
      ch.leaveReset s.tray (bad.map (·.val))
    ((logRanks c s t).supplyFollow c)
  else s)

/-- Firmware runs on a chip (R121): READY, and the roles of E0 and E2 (R465). -/
def Chip.firmwareUp (ch : Chip) : Chip :=
  let c : Chip := { ch with hif := { ch.hif with state := .firmware }, fcu := { ch.fcu with kicked := ch.now } }
  let c := c.setSen { c.sen with rearm := c.now }
  let c := (c.wr F.HIF_STATUS_MODE 1).setFlag F.HIF_STATUS_READY true
  if ch.pos.val = 0 then c.wr F.COA_STAT_ROLE roleActive
  else if ch.pos.val = 2 then c.wr F.COA_STAT_ROLE roleStandby else c

/-- E0 and E2 both run firmware: E2 is the standby, whatever role it held before a reset of E0. (DEDUCED, log entry 24.) -/
def State.standby (s : State) : State :=
  if (s.chip 0).flag F.HIF_STATUS_READY ∧ (s.chip 2).flag F.HIF_STATUS_READY ∧ (s.chip 0).rd F.COA_STAT_ROLE = roleActive then
    (s.modChip 2 fun ch => ch.wr F.COA_STAT_ROLE roleStandby).modChip 0 fun ch => ch.setFlag F.SEN_STAT_STBY_LIVE true
  else s

/-- The migrated copy is written with SEQ + 1 into the other slot (R662). -/
def State.writeMigrated (s : State) : State :=
  let t := s.tray
  match t.selected with
  | some (slot, b) =>
    if t.migrated = true ∧ cfgSeq b + 1 < 2 ^ 32 then
      let new := cfgBytes t.runFormat (cfgSeq b + 1) (t.migrate b)
      let s := s.modTray fun t => { t with copies := updAt t.copies (1 - slot) fun _ => new, migrated := false }
      s.modAll fun _ ch =>
        if ch.rd F.CFG_STAT_SRC = 0 then ch.setFlag F.CFG_STAT_MIGRATED_LIVE false
        else
          let c := (ch.setFlag F.CFG_STAT_MIGRATED_LIVE false).wr F.CFG_STAT_SRC (2 - slot)
          (c.wr F.CFG_SEQ_SEQ (cfgSeq b + 1)).wr F.CFG_FORMAT_STORED t.runFormat
    else s
  | none => s

/-- A chip reached READY: a fallback is reported (R656); the first READY of every chip writes a migrated copy (R662).
(DEDUCED, log entry 24.) -/
def State.readied (s : State) (c : ChipId) : State :=
  let t := s.tray
  let s := if t.owed.contains c.val then
      (s.modChip c fun ch => ch.raise 34 (source 280 3) t.owedVersion).modTray fun t => { t with owed := t.owed.filter (· != c.val) }
    else s
  let s := (s.modTray fun t => { t with readied := insNat t.readied c.val }).standby
  if s.tray.readied.length = 4 ∧ s.tray.trial = none then s.writeMigrated else s

/-- Board time is loaded and within 1 ns of the board_sync instants: step 4 of R193. -/
def Chip.timeAligned (ch : Chip) : Bool := ch.rd F.TKP_STAT_STATE == 1 && !ch.flag F.TKP_STAT_SLEW_LIVE

/-- FIRMWARE_READY (R119, R121, R193, R632): verified firmware runs, board time is aligned and every wipe is done. -/
def execFirmwareReady (c : ChipId) (s : State) : Res :=
  let ch := s.chip c
  .next (if ch.hif.state = .starting ∧ ch.flag F.MEM_GSTAT_WIPE_DONE ∧ ch.timeAligned = true ∧ s.tray.lcs ≠ 4 then
    (s.modChip c Chip.firmwareUp).readied c
  else s)

/-- ROM_FALLBACK (R120): no verified firmware by the latest time of step 5; PWR_SUPPLY is at its reset value
again, and the Bupin follows it (R32). -/
def execRomFallback (c : ChipId) (s : State) : Res :=
  .next (if (s.chip c).hif.state = .starting then
    (s.modChip c fun ch =>
      let c := ch.cfgDrop
      let c : Chip := { c with hif := { c.hif with state := .rom } }
      (c.wr F.HIF_STATUS_MODE 0).setFlag F.HIF_STATUS_READY false).supplyFollow c
  else s)

/-- The collector takes every event that waits. -/
def Chip.takeFaults (ch : Chip) : Chip := ch.faultQ.foldl Chip.takeFault { ch with faultQ := [] }

/-- VCORE_LOW (R95, R683): VDD_CORE below 0.65 V for 1 ms holds the chip in reset. The collector, which VDD_LINK supplies (R76),
reports VOLT before the reset clears it. (DEDUCED, log entry 14.) -/
def execVcoreLow (c : ChipId) (mv : BitVec 10) (s : State) : Res :=
  .next (if mv.toNat < 650 ∧ (s.bup c).vcore = false ∧ (s.chip c).pwr ≠ pwrDoze ∧ s.tray.power ≠ .off then
    let t := s.modChip c fun ch => if ch.inReset then ch else (ch.raise 22 (source 280 4) mv.toNat).takeFaults
    let t := logHalt c s t
    let t := (t.modBup c fun b => { b with vcore := true }).warmReset c rstBupin
    t.modTray fun x => x.logGen 3 c.val (toLe 2 mv.toNat)
  else s)

/-- VCORE_RECOVER (R683): the rail reads 0.70 V again. -/
def execVcoreRecover (c : ChipId) (mv : BitVec 10) (s : State) : Res :=
  .next (if 700 ≤ mv.toNat then s.modBup c fun b => { b with vcore := false } else s)

/-! ### Doze entry (R618 to R621, R638, R639) -/

/-- The deferral ends, or there is none: POWER_REQ completes OK, fetching stops, and the waits of R619 run; on E0 motion is
disabled (R471). -/
def Chip.endDefer (ch : Chip) : Chip := ((ch.setFlag F.PWR_STATE_DEFER_LIVE false).powerReqDone stOk).beginDisable

/-- E0's Porch defers a Doze entry (R259, R619). -/
def State.porchDefers (s : State) : Bool :=
  let e0 := s.chip 0
  !e0.inReset && e0.flag F.PRC_STAT_PRE_LIVE && e0.rd F.PRC_WAKE_DEFER != 0

/-- A Doze request that a chip in Run takes (R618). (DEDUCED, log entry 29.) -/
def State.enterDoze (s : State) (c : ChipId) : State :=
  let s' := s.modChip c fun ch => ({ ch with dozeAt := ch.now } : Chip).wr F.PWR_STATE_STATE pwrEntering
  if s.porchDefers then
    (s'.modChip c fun ch => ch.setFlag F.PWR_STATE_DEFER_LIVE true).modChip 0 fun ch => ch.setFlag F.PRC_STAT_DEFER_SEEN true
  else s'.modChip c Chip.endDefer

/-- POWER_REQ (R148, R618, R620, R643). (DEDUCED, log entry 29.) -/
def execPowerReq (c : ChipId) (n : Fin 128) (s : State) : Res :=
  let ch := s.chip c
  if ch.inReset then .next s
  else match ch.nextDesc n.val opPowerReq with
    | none => .next s
    | some d =>
      let s := s.setChip c (ch.startDesc n.val d.idx)
      if !descOk d.bytes [(9, 55)] || fieldAt d.bytes 8 1 != 1 then .next (s.modChip c fun ch => ch.completeSt n.val d.idx stBadDesc)
      else if ch.pwr ≠ pwrRun then .next (s.modChip c fun ch => ch.completeSt n.val d.idx stBusy)
      else .next ((s.modChip c fun ch => { ch with pw := some (n.val, d.idx) }).enterDoze c)

/-- DOZE_DEFER_TIMEOUT (R259, R620): PRE_LIVE cleared, or DEFER ms passed since the request. -/
def execDozeDeferTimeout (c : ChipId) (s : State) : Res :=
  onChip s c fun ch =>
    if ch.pwr = pwrEntering ∧ ch.flag F.PWR_STATE_DEFER_LIVE = true ∧
        (s.porchDefers = false ∨ ch.dozeAt + (s.chip 0).rd F.PRC_WAKE_DEFER * 1000000 ≤ ch.now) then ch.endDefer
    else ch

/-- What waits in a pack's Inn spills to the Annex: rooms, and sets held back by a loop's bound (R301, R337).
(DEDUCED, log entry 22.) -/
def Chip.dozeSpill (ch : Chip) (p : Nat) : Chip :=
  let i := ch.inn p
  let mop (t : BitVec 128) : Nat :=
    (((ch.ctxSlot (Token.context t)).bind fun s => ch.nodeOf s (Token.node t)).map fun d => d.mop (Token.port t)).getD 0
  let mcOf (t : BitVec 128) : Nat :=
    (((ch.ctxSlot (Token.context t)).bind fun s => ch.nodeOf s (Token.node t)).map fun d =>
      if d.pkind (Token.port t) = pkMerging then d.mcnt (Token.port t) else 0).getD 0
  let gated := i.ready.flatMap fun f => (f.ops.filter fun t => !Token.sticky t).map fun t => (t, mcOf t)
  let toks := i.rooms.map (fun r => (r.tok, r.mc)) ++ gated
  toks.foldl (fun (c : Chip) e => c.spill p e.1 e.2 (mop e.1)) (ch.setInn p { i with rooms := [], ready := [] })

/-- A pack has nothing left to run or to send: no firing that may start, no token under way, no provisional firing.
(DEDUCED, log entry 21.) -/
def Chip.packQuiet (ch : Chip) (p : Nat) : Bool :=
  let i := ch.inn p
  i.inputs.isEmpty && i.notices.isEmpty && i.dq.isEmpty && i.klist.isEmpty && i.spillWait.isEmpty &&
    (i.ready.all fun f => f.gated || !ch.armed f.slot) && ((List.range 16).all fun n => (ch.core p n).st == .idle) &&
    (let e := ch.ten p; e.queue.isEmpty && e.stalled.isEmpty && e.run.isNone)

/-- A work queue is empty and its block idle. -/
def Chip.queueQuiet (ch : Chip) (b : QueueBlock) : Bool :=
  !ch.qBusy b && (!ch.qEnabled b || (ch.load (ch.qSlot b (ch.qHead b)) 8 == 0 && !ch.qOtherFull b))

/-- A link has no flit without acknowledgement and none queued (R552). -/
def Chip.linkQuiet (ch : Chip) (l : Nat) : Bool :=
  ch.trlState l != trlUp || ((ch.link l).replay.isEmpty && (ch.link l).queues.all (·.isEmpty))

/-- The waits of R619 that the chip itself shows. (DEDUCED, log entry 21.) -/
def Chip.dozeReady (ch : Chip) : Bool :=
  ch.pwr == pwrEntering && !ch.flag F.PWR_STATE_DEFER_LIVE && !ch.headsOn && (List.range 12).all ch.packQuiet &&
    ch.mos.run.isNone && ch.mos.recipes.isEmpty && ch.mos.codelet.isEmpty && ch.mos.stalled.isEmpty &&
    ch.aud.frun.isNone && ch.aud.fq.isEmpty && ch.aud.fstalled.isEmpty &&
    ([QueueBlock.sieve, .hound, .coachman, .dma].all ch.queueQuiet) && ch.media.engines.isEmpty &&
    (ch.xings.all fun x => decide (256 ≤ x.src) || (x.held.isEmpty && x.wait.isEmpty)) &&
    ((List.range 16).all ch.chanIdle) && ch.linkQuiet 0 && ch.linkQuiet 1

/-- Accumulator contents that Doze lost (R617): free values. (DESIGN CHOICE, log entry 23.) -/
def Chip.loseAccs (ch : Chip) : Chip :=
  let v (d i : Nat) : Nat := Config.number ch.pos.val (d + i) % 2 ^ 32
  let tab (d : Nat) : Tab Nat := ((List.range 1024).map fun i => (i, v d i)).filter fun e => e.2 != 0
  let c := (List.range 12).foldl (fun (c : Chip) p =>
    let d := ch.draws + 2048 * p
    c.setTen p { c.ten p with active := tab d, shadow := tab (d + 1024) }) ch
  { c with draws := ch.draws + 24576 }

/-- Doze entry empties every track set and room track set with no list; their IDs go on (R439). (DEDUCED, log entry 157.) -/
def Chip.dropTracks (ch : Chip) : Chip :=
  let sets := ch.hnd.sets.map fun (x : TrackSet) => { x with tracks := [] }
  let rooms := ch.hnd.rooms.map fun (e : Nat × RoomSet) => (e.1, { e.2 with tracks := [] })
  { ch with hnd := { ch.hnd with sets := sets, rooms := rooms } }.hndLive

/-- Before its island powers down the ring engine signals every ring that holds unsignalled records (R156). -/
def Chip.signalAll (ch : Chip) : Chip :=
  (List.range 128).foldl (fun (c : Chip) n => if (c.ring n).unsig = 0 then c else c.signal n) ch

/-- The commit point and the power-down that follows it, with the clocks that R75 stops in Doze (R75, R156, R524, R552, R617, R639).
(DEDUCED, log entries 20, 57.) -/
def Chip.dozeDown (ch : Chip) : Chip :=
  let c := ch.count F.PWR_DOZE_COUNT_COUNT F.PWR_STATE_DOZE_OVF 0
  let c := ((c.signalAll.wr F.PWR_ENTER_TIME_TIME c.now).msix 130).loseAccs.dropTracks
  let c := (c.linkSleep 0).linkSleep 1
  let c := (List.range 16).foldl (fun (c : Chip) k =>
    (((c.setFlag (F.MEM_CH_STAT_SR_LIVE k) true).setFlag (F.MEM_CH_STAT_PD_LIVE k) false).setClk k false).closeRows k) c
  let c := (c.setClk 17 false).setClk 18 false
  (c.audioClocks false).wr F.PWR_STATE_STATE pwrDoze

/-- DOZE_COMMIT (R619, R621, R639): every wait of R619 is met, among them that what waits in the Inns fits in the Annex.
(DEDUCED, log entry 20.) -/
def execDozeCommit (c : ChipId) (s : State) : Res :=
  let ch := s.chip c
  if ch.inReset || !ch.dozeReady || s.tray.auth.isSome then .next s
  else
    let sp := (List.range 12).foldl (fun (c : Chip) p => c.innDo p fun c => c.dozeSpill p) ch
    if (List.range 12).all fun p => (sp.inn p).spillWait.isEmpty then .next (s.setChip c sp.dozeDown).supplySync else .next s

/-! ### Wakes (R622) -/

/-- A wake event on some chips. -/
def State.wake (s : State) (cs : List ChipId) (code : Nat) : State :=
  s.eachChip cs fun ch => if ch.inReset then ch else ch.wakeUp code

/-- HOST_WAKE (R622): host_wake_n low for 10 µs. (DEDUCED, log entry 160.) -/
def execHostWake (s : State) : Res := .next (s.wake chipIds 3)

/-- PORCH_WAKE (R258, R622): the Bupin forwards a wake decision of E0. -/
def execPorchWake (s : State) : Res :=
  .next (if (s.chip 0).media.porch.raised then
    let dozed := chipIds.any fun c => !(s.chip c).inReset && (s.chip c).pwr == pwrDoze
    let t := s.modChip 0 fun ch => ch.setPorch { ch.media.porch with raised := false }
    let t := t.wake chipIds 1
    if dozed then t.modTray Tray.pulseWake else t
  else s)

/-- The Bupin timer of chip `c` fires (R622). (DEDUCED, log entry 45.) -/
def State.timerFires (s : State) (c : ChipId) : State :=
  let t := s.modChip c fun ch => (ch.wr F.PWR_DOZE_TIMER_WAKE_AT 0).wakeUp 4
  if (s.chip c).pwr = pwrDoze then t.modTray Tray.pulseWake else t

/-- BUPIN_TIMER_WAKE (R622): the timer of a chip reached its board time. -/
def execBupinTimerWake (c : ChipId) (s : State) : Res :=
  let ch := s.chip c
  let at' := ch.rd F.PWR_DOZE_TIMER_WAKE_AT
  .next (if ch.inReset = false ∧ at' ≠ 0 ∧ at' ≤ s.tray.now ∧ s.tray.power ≠ .off then s.timerFires c else s)

end Sys2Proof.Machine
end

