-- ==== Sys2Proof/Machine/Trust.lean ====
section
/-! DEFINITION. Critical commands, firmware banks and the boot mailbox (spec/22_trust.md; the secure log of spec/23_bupin.md). -/

namespace Sys2Proof.Machine

open Sys2Proof

/-! ### The check of a critical command (R647 to R652, R663 to R665) -/

/-- PLEN of a command (R650). -/
def cmdPlen (cmd : Nat) : Nat := if cmd = 2 ∨ cmd = 4 then 40 else if 1 ≤ cmd ∧ cmd ≤ 7 then 8 else 0

/-- Slots that may sign a life-cycle transition (R634); none: the transition does not exist. -/
def lcsSlots : Nat → Nat → List Nat
  | 0, 1 => [0]
  | 0, 2 => [0]
  | 1, 2 => [0]
  | 1, 3 => [0]
  | 2, 3 => [0]
  | 3, 1 => [1]
  | 3, 2 => [0]
  | 3, 4 => [0, 1]
  | _, _ => []

/-- Fields of a critical command. -/
def cmdOf (b : List Byte) : Nat := fieldAt b 5 1
def cmdSlot (b : List Byte) : Nat := fieldAt b 6 1
def cmdCounter (b : List Byte) : Nat := fieldAt b 16 8
def cmdPayload (b : List Byte) : List Byte := b.drop 32

/-- Length and header of a command (R647, R663). -/
def cmdHeaderOk (b : List Byte) : Bool :=
  decide (48 ≤ b.length) && decide (b.length ≤ 512) && b.length == 48 + fieldAt b 24 2 && fieldAt b 0 4 == 0x43434C4F &&
    fieldAt b 4 1 == 1 && decide (1 ≤ cmdOf b) && decide (cmdOf b ≤ 7) && decide (cmdSlot b ≤ 3) &&
    reservedZero b [(7, 1), (26, 6)] && fieldAt b 24 2 == cmdPlen (cmdOf b)

/-- The slots that may sign command `b` (R650). -/
def Tray.cmdSlots (t : Tray) (b : List Byte) : List Nat :=
  let target := fieldAt (cmdPayload b) 0 1
  match cmdOf b with
  | 1 => if lcsSlots t.lcs target = [] then [0, 1, 2, 3] else lcsSlots t.lcs target
  | 2 => if t.recovery then [0, 1, 3] else [0, 1]
  | 3 => [2]
  | 4 => match target with
    | 0 => [0, 3]
    | 1 => [1]
    | 2 => [0, 2]
    | 3 => [3]
    | _ => [0, 1, 2, 3]
  | 5 => [0, 1]
  | _ => [0]

/-- The life-cycle state grants command `b` (R633, R634). -/
def Tray.grants (t : Tray) (b : List Byte) : Bool :=
  match cmdOf b with
  | 1 => lcsSlots t.lcs (fieldAt (cmdPayload b) 0 1) != []
  | 3 => t.lcs == 1 || t.lcs == 2
  | 5 => t.lcs == 1
  | 6 => t.lcs == 1
  | _ => t.lcs != 4

/-- Bootstrap of the Owner slot (R651). -/
def Tray.bootstrap (t : Tray) (b : List Byte) : Bool :=
  t.lcs == 0 && (t.keys[0]?).getD none == none && cmdOf b == 4 && cmdSlot b == 0 && fieldAt (cmdPayload b) 0 1 == 0

/-- The key that authenticates command `b`. -/
def Tray.cmdKey (t : Tray) (b : List Byte) : List Byte :=
  if t.bootstrap b then zeros 32 else ((t.keys[cmdSlot b]?).getD none).getD []

/-- The key that a KEY_ROTATE carries, unwrapped (R652). -/
def Tray.unwrapped (t : Tray) (b : List Byte) : List Byte :=
  let p := cmdPayload b
  let kek := hmac256 (t.cmdKey b) ([0x4F#8, 0x4C#8, 0x4B#8, 0x57#8] ++ toLe 8 (fieldAt b 8 8) ++ toLe 8 (cmdCounter b) ++ toLe 1 (fieldAt p 0 1))
  xorBytes ((p.drop 8).take 32) kek

/-- The payload obeys R664. (DEDUCED, log entry 32.) -/
def Tray.payloadOk (t : Tray) (b : List Byte) : Bool :=
  let p := cmdPayload b
  let x := fieldAt p 0 1
  let y := fieldAt p 1 1
  match cmdOf b with
  | 1 => decide (1 ≤ x) && decide (x ≤ 4) && reservedZero p [(1, 7)]
  | 2 => decide (x ≤ 1) && decide (y ≤ 1) && reservedZero p [(2, 6)]
  | 3 => reservedZero p [(1, 3)]
  | 4 => decide (x ≤ 3) && reservedZero p [(1, 7)] && t.unwrapped b != zeros 32
  | 7 => (x == 1 || x == 2) && reservedZero p [(1, 3)] && (x == 1 || fieldAt p 4 4 == 0)
  | _ => decide (1 ≤ x) && decide (x ≤ 15) && decide (y ≤ 1) && reservedZero p [(2, 6)]

/-- The reason of refusal of critical command `b`, 0 for none (R647). (DEDUCED, log entry 31.) -/
def Tray.checkCmd (t : Tray) (b : List Byte) : Nat :=
  let slot := cmdSlot b
  let n := fieldAt b 24 2
  let macOk := (hmac256 (t.cmdKey b) (b.take (32 + n))).take 16 == (b.drop (32 + n)).take 16
  if !cmdHeaderOk b then 1
  else if fieldAt b 8 8 ≠ t.serial then 2
  else if t.lcs = 4 then 3
  else if (t.keys[slot]?).getD none = none ∧ t.bootstrap b = false then 4
  else if !(t.cmdSlots b).contains slot then 5
  else if !t.grants b then 6
  else if cmdCounter b ≤ (t.last[slot]?).getD 0 then 7
  else if !macOk then 8
  else if !t.payloadOk b then 9
  else 0

/-- The reason of refusal of a SECURE_LOG_READ block, which is checked as a command of the Service slot (R687). -/
def Tray.checkLogRead (t : Tray) (b : List Byte) : Nat :=
  let ok := b.length == 64 && fieldAt b 0 4 == 0x4C534C4F && reservedZero b [(4, 4), (29, 19)] && decide (1 ≤ fieldAt b 28 1) &&
    decide (fieldAt b 28 1 ≤ 32)
  let key := (t.keys[1]?).getD none
  if !ok then 1
  else if fieldAt b 8 8 ≠ t.serial then 2
  else if t.lcs = 4 ∧ t.recovery = true then 3
  else if key = none then 4
  else if cmdCounter b ≤ (t.last[1]?).getD 0 then 7
  else if (hmac256 (key.getD []) (b.take 48)).take 16 ≠ b.drop 48 then 8
  else 0

/-! ### Hand-over and completion (R646 to R649, R670) -/

/-- A command is handed over at t0: checked, and LAST persisted where it passes. (DEDUCED, log entry 31.) -/
def Tray.handOver (t : Tray) (src : Nat) (ring : Option (Nat × Nat)) (secure uart : Bool) (b : List Byte) : Tray :=
  let r := if secure then t.checkLogRead b else t.checkCmd b
  let slot := if secure then 1 else cmdSlot b
  let last := if r = 0 then updAt t.last slot fun _ => cmdCounter b else t.last
  { t with auth := some ⟨src, ring, b, secure, uart, r⟩, lastSrc := src, last := last }

/-- The ring of chip `c` whose next descriptor is a CRITICAL, with the descriptor. -/
def Chip.nextCritical (ch : Chip) : Option (Nat × Desc) :=
  if ch.inReset || decide (2 ≤ ch.pwr) then none
  else (List.range 128).findSome? fun n => (ch.nextDesc n opCritical).map fun d => (n, d)

/-- The status with which a CRITICAL descriptor completes without being handed over (R146, R157). -/
def critStatus (d : Desc) : Option Nat :=
  if !descOk d.bytes [(18, 46)] then some stBadDesc else if fieldAt d.bytes 16 2 = 0 then some stEmpty else none

/-- The sources in the order of service after the one served last (R646). -/
def Tray.sources (t : Tray) : List Nat := (List.range 5).map fun i => (t.lastSrc + 1 + i) % 5

/-- A source has a command to hand over. -/
def State.hasCritical (s : State) (src : Nat) : Bool :=
  if src < 4 then ((s.chip (Fin.ofNat 4 src)).nextCritical).isSome else !s.tray.mctp.isEmpty

/-- The bytes that a CRITICAL's read returned, and their poison, go into its completion (R151, R157). -/
def Chip.critRead (ch : Chip) (n idx len : Nat) (res : ReadResult) : Chip :=
  let r := ch.ring n
  ch.setRing n { r with descs := r.descs.map fun (d : Desc) =>
    if d.idx = idx ∧ d.done = false then
      { d with
        nbytes := if res.fail = .none then len else min len res.data.length
        poison := res.ep }
    else d }

/-- The chip's CRITICAL is read from host memory and handed over, poisoned or not (R149, R157); a read that fails completes it. -/
def State.handChip (s : State) (c : ChipId) (n : Nat) (d : Desc) (res : ReadResult) : State :=
  let len := fieldAt d.bytes 16 2
  let s := s.modChip c fun ch =>
    ((((ch.startDesc n d.idx).hostRead (.critical n) (fieldAt d.bytes 8 8) len).dropReads (.critical n)).readAer res).critRead n d.idx len res
  if res.fail ≠ .none then s.modChip c fun ch => ch.completeSt n d.idx stHostReadErr
  else (s.modTray fun t => t.handOver c.val (some (n, d.idx)) false false (padTo len res.data)).mirror

/-- One turn of the round-robin: descriptors that are refused complete; else the next source with a command hands it over, unless
one is in its 250 µs or a key is about to change. -/
def State.serveCritical (s : State) (res : ReadResult) : State :=
  let refused := chipIds.findSome? fun c => match (s.chip c).nextCritical with
    | some (n, d) => (critStatus d).map fun st => (c, n, d.idx, st)
    | none => none
  match refused with
  | some (c, n, i, st) => s.modChip c fun ch => (ch.startDesc n i).completeSt n i st
  | none =>
    if s.tray.auth.isSome || s.tray.accepted.any (fun a => cmdOf a.2 == 4) || s.tray.power == .off then s
    else match s.tray.sources.find? fun x => s.hasCritical x with
      | none => s
      | some src =>
        if src < 4 then
          match (s.chip (Fin.ofNat 4 src)).nextCritical with
          | some (n, d) => s.handChip (Fin.ofNat 4 src) n d res
          | none => s
        else match s.tray.mctp with
          | m :: rest =>
            (s.modTray fun t => ({ t with mctp := rest } : Tray).handOver 4 none m.secure m.uart m.cmd).mirror
          | [] => s

/-- CRITICAL (R149, R646, R647): `msg` arrives over MCTP first; `res` answers the read of a chip's command. -/
def execCritical (msg : Option (Transport × List Byte)) (res : ReadResult) (s : State) : Res :=
  let s := match msg with
    | some (tr, b) =>
      if s.tray.hears tr then s.modTray fun t => { t with mctp := t.mctp ++ [MctpCmd.mk (isUart tr) false b] } else s
    | none => s
  .next (s.serveCritical res)

/-- SECURE_LOG_READ (R687): it waits on MCTP like a critical command, and is handed over where MCTP is the source selected.
(DESIGN CHOICE, log entry 25.) -/
def execSecureLogRead (tr : Transport) (block : List Byte) (s : State) : Res :=
  if s.tray.hears tr then
    let s := s.modTray fun t => { t with mctp := t.mctp ++ [MctpCmd.mk (isUart tr) true block] }
    .next (if s.tray.sources.find? (fun x => s.hasCritical x) = some 4 then s.serveCritical (ReadResult.mk .none false []) else s)
  else .next s

/-- The CRITICAL of index `idx` that the Bupin holds still stands on its ring: a reset of the ring takes it away (R154). -/
def Chip.critStands (ch : Chip) (n idx : Nat) : Bool :=
  (ch.ring n).descs.any fun d => d.idx == idx && d.started && !d.done && d.opcode == opCritical

/-- What the delivering chip reports (R648, R670). -/
def Chip.authDone (ch : Chip) (n idx : Nat) (ok : Bool) : Chip :=
  let c := (ch.setFlag F.AUTH_STAT_DONE_SEEN true).setFlag F.AUTH_STAT_RESULT (!ok)
  let c := if ok then c else (c.count F.AUTH_REFUSALS_COUNT F.AUTH_STAT_OVF 0).raise 30 (source 280 2) 0
  let c := c.msix 131
  if c.critStands n idx then c.completeSt n idx (if ok then stOk else stAuthRefused) else c

/-- The reply of a command that came over MCTP (R687). -/
def Tray.authReply (t : Tray) (a : AuthRun) : Tray :=
  let st := if a.reason = 0 then mgOk else mgAuthRefused
  if a.secure then
    let es := if a.reason = 0 then (t.slog.read (fieldAt a.cmd 24 4) (fieldAt a.cmd 28 1)).flatMap LogEnt.bytes else []
    t.reply a.uart 4 st es
  else t.reply a.uart 2 st []

/-- CRITICAL_COMPLETE (R647 to R649, R670): the 250 µs have passed. -/
def execCriticalComplete (s : State) : Res :=
  match s.tray.auth with
  | none => .next s
  | some a =>
    if s.tray.power = .off then .next s else
    let s := s.modTray fun t =>
      let t : Tray := { t with auth := none }
      if a.reason ≠ 0 then
        t.logRefusal a.src (if a.secure then 0 else cmdOf a.cmd) (if a.secure then 1 else cmdSlot a.cmd) (cmdCounter a.cmd) a.reason
      else if a.secure then t
      else { t with
        accepted := t.accepted ++ [(a.src, a.cmd)]
        lcsTime := if cmdOf a.cmd = 1 then t.now else t.lcsTime }
    let s := s.mirror
    .next (match a.ring with
      | some (n, i) => s.modChip (Fin.ofNat 4 a.src) fun ch => ch.authDone n i (a.reason == 0)
      | none => if a.src = 4 then s.modTray fun t => t.authReply a else s)

/-! ### Effects (R649) -/

/-- The oldest accepted command that satisfies a test, and the state without it; without 12 V the Bupin has stopped (R49).
(DEDUCED, log entry 30.) -/
def State.takeAccepted (s : State) (p : List Byte → Bool) : Option (List Byte × State) :=
  match if s.tray.power = .off then none else pickFirst (fun (a : Nat × List Byte) => p a.2) s.tray.accepted with
  | some (a, rest) => some (a.2, s.modTray fun t => { t with accepted := rest })
  | none => none

/-- The effect of the oldest accepted command of a kind. (DEDUCED, log entry 30.) -/
def State.effect (s : State) (p : List Byte → Bool) (f : State → List Byte → State) : Res :=
  .next (match s.takeAccepted p with
    | some (b, t) => f t (cmdPayload b)
    | none => s)

/-- LIFECYCLE (R635, R642 step 2). -/
def execLifecycle (s : State) : Res :=
  s.effect (fun b => cmdOf b == 1) fun s p =>
    let s := (s.modTray fun t => { t with lcsTarget := some (fieldAt p 0 1) }).mirror
    let s := s.modAll fun _ ch => if !ch.inReset && ch.pwr == pwrRun then ch.msix 130 else ch
    s.modChip 0 fun ch => if ch.inReset then ch else ch.beginDisable

/-- The erasures of a change (R636). -/
def Tray.erase (t : Tray) (target : Nat) : Tray :=
  let t := if 3 ≤ target then { t with copies := [[], []], keys := updAt t.keys 2 fun _ => none } else t
  if target = 4 then { t with keys := updAt (updAt t.keys 0 fun _ => none) 3 fun _ => none } else t

/-- LIFECYCLE_RESET (R635, R636, R642 steps 3 to 5): the record is written and a cold start begins. -/
def execLifecycleReset (s : State) : Res :=
  .next (match s.tray.lcsTarget with
    | some x =>
      if s.tray.power ≠ .powered then s
      else (s.modTray fun t => (({ t with lcs := x } : Tray).erase x).logGen 11 0xFF (toLe 1 t.lcs ++ toLe 1 x)).coldStart 0 rstLife false
    | none => s)

/-- FWU_ERR bits from bit 0 (R671). -/
def feSelf : Nat := 0
def feBusy : Nat := 1
def feLen : Nat := 2
/-- DEDUCED, log entry 17. -/
def feRead : Nat := 3
def feFormat : Nat := 4
def feSig : Nat := 5
def feSvn : Nat := 6
def feFlash : Nat := 7
def feAbort : Nat := 8
def feDigest : Nat := 9

/-- A step of CFG or FWU finished on every chip that is out of reset: `f`, then vector 132. (DEDUCED, log entry 38.) -/
def State.fwuAll (s : State) (f : Chip → Chip) : State := s.modAll fun _ ch => if ch.inReset then ch else (f ch).msix 132

/-- Why an FW_ACTIVATE of bank `b` has no effect: the FWU_ERR bit (R656). (DEDUCED, log entry 16.) -/
def Tray.activateErr (t : Tray) (b : Nat) (digest : List Byte) : Option Nat :=
  if b = t.running ∧ t.recovery = false then some feSelf
  else if (t.bank b).st ≠ bkValid ∨ (t.bank b).digest ≠ digest then some feDigest
  else if (t.bank b).svn < t.floor then some feSvn
  else none

/-- A bank becomes PENDING; the activation of another is replaced (R672, R673). -/
def Tray.pend (t : Tray) (b : Nat) : Tray :=
  let t := if (t.bank (1 - b)).st = bkPending then t.bankSt (1 - b) bkValid else t
  t.bankSt b bkPending

/-- FW_ACTIVATE (R656, R657). -/
def execFwActivate (s : State) : Res :=
  s.effect (fun b => cmdOf b == 2) fun s p =>
    let b := fieldAt p 0 1
    match s.tray.activateErr b ((p.drop 8).take 32) with
    | some e => s.fwuAll fun ch => ch.orBit F.FWU_ERR_ERR e
    | none =>
      let s := (s.modTray fun t => { t.pend b with cycleDue := fieldAt p 1 1 == 1 && !t.recovery }).mirror
      if s.tray.recovery ∧ s.tray.power = .powered then s.coldStart 0 rstCold true else s

/-- ACTIVATION_POWER_CYCLE (R656): 1 ms after the 250 µs of an FW_ACTIVATE with WHEN 1. -/
def execActivationPowerCycle (s : State) : Res :=
  .next (if s.tray.cycleDue ∧ s.tray.power = .powered then s.coldStart 0 rstCold false else s)

/-- The code of the first precondition of motion that fails (R462). A stop loop is open from its first sample that reads open on.
(DEDUCED, log entry 139.) -/
def Chip.motionCheck (ch : Chip) (active : Bool) (heads crc : Nat) : Nat :=
  let hs := setBits 8 heads
  let out (h : Nat) : Bool := (List.range (ch.nax h)).any fun a =>
    let q := (((ch.head h).reported)[a]?).getD 0
    decide (q < ch.rdI (F.COA_AMIN_LIMIT h a)) || decide (ch.rdI (F.COA_AMAX_LIMIT h a) < q)
  if 0 < ch.sen.openA ∨ 0 < ch.sen.openB then 1
  else if crc ≠ ch.rd F.COA_CFG_CRC_CRC then 3
  else if hs.any fun h => !ch.flag (F.COA_HCFG_EN h) then 8
  else if hs.any fun h => ch.batch h == 0 then 4
  else if hs.any fun h => !(ch.head h).answered then 2
  else if hs.any fun h => (ch.head h).fault then 5
  else if hs.any out then 6
  else if !active then 7
  else 0

/-- The heads of a mask hold the positions reported to E0 (R463). -/
def Chip.restHeads (ch e0 : Chip) (heads : Nat) : Chip :=
  (setBits 8 heads).foldl (fun (c : Chip) h =>
    let x := c.head h
    (c.setHead h { x with
      rest := (List.range (e0.nax h)).map fun a => ((e0.head h).reported[a]?).getD 0
      segs := [], queue := [], sent := [], frame := none, seq := 0, off := 0, disabling := false
      next := roundUp (c.now + 1) 1000000 }).setHeadState h hdReady) ch

/-- Motion enabled for a head mask (R463). (DESIGN CHOICE, log entry 26.) -/
def Chip.enableHeads (ch : Chip) (heads : Nat) : Chip :=
  let c := ch.setFlag F.SEN_STAT_SAFE_LATCH false
  let c := c.setSen { c.sen with chanA := true, chanB := true, disabling := false }
  let c := c.wr F.SEN_STAT_ENABLED (c.rd F.SEN_STAT_ENABLED ||| heads)
  c.restHeads c heads

/-- What a motion enable at E0 does to the plans of E2 while its Coachman is the active one (R462, R465). -/
def Chip.partnerEnable (ch e0 : Chip) (heads : Nat) : Chip :=
  if ch.inReset then ch else if heads = 0 then ch.stopMoving else ch.restHeads e0 heads

/-- MOTION_ENABLE (R462, R463). (DESIGN CHOICE, log entry 26.) -/
def execMotionEnable (s : State) : Res :=
  s.effect (fun b => cmdOf b == 3) fun s p =>
    let heads := fieldAt p 0 1
    let e2 := s.chip 2
    let t := s.modChip 0 fun ch =>
      if ch.inReset || ch.halted then ch
      else if heads = 0 then ((ch.wr F.SEN_STAT_EN_RESULT 0).beginDisable).motionStatus 0xFF 2 ch.now
      else
        let active := ch.rd F.COA_STAT_ROLE == roleActive || (ch.sen.fromE2 && e2.rd F.COA_STAT_ROLE == roleActive)
        let r := ch.motionCheck active heads (fieldAt p 4 4)
        let c := ch.wr F.SEN_STAT_EN_RESULT r
        let c := if r = 0 then c.enableHeads heads else c
        c.motionStatus 0xFF 2 c.now
    let e0 := t.chip 0
    if e0.sen.fromE2 ∧ e0.inReset = false ∧ e0.halted = false ∧ e0.rd F.SEN_STAT_EN_RESULT = 0 then
      t.modChip 2 fun ch => ch.partnerEnable e0 heads
    else t

/-- KEY_ROTATE (R649, R651, R652). -/
def execKeyRotate (s : State) : Res :=
  .next (match s.takeAccepted fun b => cmdOf b == 4 with
    | some (b, t) =>
      (t.modTray fun x => { x with keys := updAt x.keys (fieldAt (cmdPayload b) 0 1) fun _ => some (x.unwrapped b) }).mirror
    | none => s)

/-- DEBUG_UNLOCK (R685). -/
def execDebugUnlock (s : State) : Res :=
  s.effect (fun b => cmdOf b == 5) fun s p =>
    let on := fieldAt p 1 1 == 1
    let s := s.eachChip (chipsOf (fieldAt p 0 1)) fun ch => if ch.inReset then ch else ch.setFlag F.PWR_BUP_DEBUG_OPEN on
    s.modTray fun t => t.logGen 14 0xFF (p.take 2)

/-- PIXEL_TAP (R652). -/
def execPixelTap (s : State) : Res :=
  s.effect (fun b => cmdOf b == 6) fun s p =>
    s.eachChip (chipsOf (fieldAt p 0 1)) fun ch => if ch.inReset then ch else { ch with pixelTap := fieldAt p 1 1 == 1 }

/-! ### Configuration commit (R661) -/

/-- RESULT codes of CFG_STAT. -/
def cfOk : Nat := 1
def cfInvalid : Nat := 2
def cfNotReady : Nat := 3
def cfBusy : Nat := 4
def cfSnap : Nat := 5
def cfSeqMax : Nat := 6
def cfWrite : Nat := 7

/-- DEDUCED, log entry 38. -/
def State.cfgResult (s : State) (r : Nat) : State := s.fwuAll fun ch => ch.wr F.CFG_STAT_RESULT r

/-- CRC-32C over CFG_SNAP of the four chips (R661). -/
def State.snapAll (s : State) : Nat := crc32c (chipIds.flatMap fun c => toLe 4 (s.chip c).cfgSnap)

/-- MODE 1: the steps of R661; `written`: the new copy reads back as written. (DESIGN CHOICE, log entry 27.) -/
def State.commit (s : State) (snap : Nat) (written : Bool) : State :=
  let t := s.tray
  let sel := t.selected
  let seq := sel.elim 0 fun e => cfgSeq e.2
  if !chipIds.all (fun c => (s.chip c).flag F.HIF_STATUS_READY && (s.chip c).pwr == pwrRun) then s.cfgResult cfNotReady
  else if chipIds.any fun c => (s.chip c).cfgBad.isSome then
    (s.modAll fun _ ch => ch.cfgBad.elim ch fun off => ch.cfgInvalid off).cfgResult cfInvalid
  else if snap ≠ s.snapAll then s.cfgResult cfSnap
  else if 0xFFFFFFFF ≤ seq then s.cfgResult cfSeqMax
  else if !written then s.cfgResult cfWrite
  else
    let slot := sel.elim 0 fun e => 1 - e.1
    let new := cfgBytes t.runFormat (seq + 1) (chipIds.flatMap fun c => (s.chip c).cfgSave)
    let s := s.modTray fun t => { t with copies := updAt t.copies slot fun _ => new, migrated := false }
    let s := s.modAll fun _ ch =>
      let c := (ch.commitActs.wr F.CFG_STAT_SRC (slot + 1)).wr F.CFG_SEQ_SEQ (seq + 1)
      (c.wr F.CFG_FORMAT_STORED t.runFormat).setFlag F.CFG_STAT_MIGRATED_LIVE false
    s.cfgResult cfOk

/-- CFG_COMMIT with MODE COMMIT (R661). -/
def execCfgCommit (written : Bool) (s : State) : Res :=
  s.effect (fun b => cmdOf b == 7 && fieldAt (cmdPayload b) 0 1 == 1) fun s p => s.commit (fieldAt p 4 4) written

/-- CFG_COMMIT with MODE OPEN (R661). -/
def execCfgOpen (s : State) : Res :=
  s.effect (fun b => cmdOf b == 7 && fieldAt (cmdPayload b) 0 1 == 2) fun s _ =>
    let busy := chipIds.any fun c =>
      let ch := s.chip c
      ((List.range 16).any fun k => (ch.slot k).st != .empty) || !ch.media.streams.isEmpty
    if busy then s.cfgResult cfBusy
    else (s.modAll fun _ ch => if ch.inReset then ch else ch.setFlag F.CFG_STAT_LOCKED false).cfgResult cfOk

/-! ### Containers (R653, R666, R667) -/

/-- REASON codes of the boot mailbox. (DEDUCED, log entry 28.) -/
def imFormat : Nat := 1
def imSig : Nat := 2
def imDigest : Nat := 3
def imSvn : Nat := 4
def imRetired : Nat := 5

/-- A component entry: type, offset, length and digest. -/
structure CompEnt where
  typ : Nat
  off : Nat
  len : Nat
  digest : List Byte
  deriving DecidableEq, Repr

def compEnt (img : List Byte) (i : Nat) : CompEnt :=
  let b := (img.drop (64 + 48 * i)).take 48
  ⟨fieldAt b 0 1, fieldAt b 4 4, fieldAt b 8 4, (b.drop 16).take 32⟩

/-- The largest component of a type. -/
def compMax (typ : Nat) : Nat := if typ = 2 then 14 * MiB else MiB

/-- MAGIC, HVER, TOTAL and the component table are valid. -/
def imgFormatOk (img : List Byte) : Bool :=
  let es := (List.range 3).map (compEnt img)
  let total := fieldAt img 16 4
  let apart (a b : CompEnt) : Bool := decide (a.off + a.len ≤ b.off) || decide (b.off + b.len ≤ a.off)
  fieldAt img 0 4 == 0x4D494C4F && fieldAt img 4 2 == 1 && fieldAt img 6 2 == 3 && total == img.length && decide (512 ≤ total) &&
    decide (total ≤ 16 * MiB) && reservedZero img [(22, 42), (208, 240)] &&
    ((List.range 3).all fun i => reservedZero img [(65 + 48 * i, 3), (76 + 48 * i, 4)]) &&
    ([1, 2, 3].all fun t => es.any fun e => e.typ == t) &&
    (es.all fun e => e.off % 64 == 0 && decide (512 ≤ e.off) && decide (e.len ≤ compMax e.typ) && decide (e.off + e.len ≤ total)) &&
    ((List.range 3).all fun i => (List.range 3).all fun j => i == j || apart (compEnt img i) (compEnt img j))

/-- The first check of R653 that fails, 0 for none; `types`: the components checked. (DEDUCED, log entry 28.) -/
def imgReason (img : List Byte) (floor : Nat) (types : List Nat) : Nat :=
  let es := ((List.range 3).map (compEnt img)).filter fun e => types.contains e.typ
  if !imgFormatOk img then imFormat
  else if !edVerify Config.releaseKey (img.take 448) ((img.drop 448).take 64) then imSig
  else if !es.all (fun e => sha256 ((img.drop e.off).take e.len) == e.digest) then imDigest
  else if fieldAt img 12 4 < floor then imSvn
  else 0

/-- The bank that holds a container. -/
def Bank.ofImage (img : List Byte) : Bank :=
  ⟨bkValid, fieldAt img 8 4, fieldAt img 12 4, fieldAt img 20 2, sha256 (img.take 512)⟩

/-! ### Staging (R655, R671) -/

def fwIdle : Nat := 0
def fwWriting : Nat := 1
def fwVerifying : Nat := 2
def fwStaged : Nat := 3
def fwFailed : Nat := 4

/-- FWU_STAT.STATE of a chip moves, with an error bit where there is one. -/
def Chip.fwuState (ch : Chip) (st : Nat) (err : Option Nat) : Chip :=
  let c := match err with
    | some e => ch.orBit F.FWU_ERR_ERR e
    | none => ch
  (c.wr F.FWU_STAT_STATE st).msix 132

/-- Why a staging into bank `b` cannot start, but for its length: the FWU_ERR bit. -/
def Tray.stageErr (t : Tray) (b : Nat) : Option Nat :=
  if b = t.running then some feSelf
  else if t.staging.isSome || t.trial.isSome then some feBusy
  else none

/-- A staging starts: the bank is EMPTY, and an activation of it is cancelled. -/
def Tray.stage (t : Tray) (b : Nat) (chip : Option ChipId) (uart : Bool) : Tray :=
  { t.setBank b Bank.empty with
    staging := some ⟨b, chip, false, [], uart⟩
    cycleDue := t.cycleDue && (t.bank b).st != bkPending }

/-- The staging that runs ends; the bank is EMPTY. -/
def Tray.stageFail (t : Tray) : Tray :=
  match t.staging with
  | some g => { t.setBank g.bank Bank.empty with staging := none }
  | none => t

/-- FWU_CTL.GO of chip `c` (R655, R671). (DEDUCED, log entry 16.) -/
def State.fwuGo (s : State) (c : ChipId) : State :=
  let ch := s.chip c
  let st := ch.rd F.FWU_STAT_STATE
  let b := ch.rd F.FWU_CTL_BANK
  let len := ch.rd F.FWU_LEN_BYTES
  let src := ch.rd F.FWU_SRC_ADDR
  if ch.inReset || st == fwWriting || st == fwVerifying then s
  else match s.tray.stageErr b with
    | some e => s.modChip c fun ch => ch.fwuState (if e = feSelf then fwFailed else st) (some e)
    | none =>
      if len = 0 ∨ 16 * MiB < len ∨ src % 64 ≠ 0 then s.modChip c fun ch => ch.fwuState fwFailed (some feLen)
      else
        let s := (s.modTray fun t => t.stage b (some c) false).mirror
        s.modChip c fun ch => (ch.wr F.FWU_STAT_STATE fwWriting).hostRead .container src len

/-- FWU_CTL.ABORT of chip `c` (R671). -/
def State.fwuAbort (s : State) (c : ChipId) : State :=
  match s.tray.staging with
  | some g =>
    if g.chip = some c then
      ((s.modTray Tray.stageFail).mirror).modChip c fun ch => (ch.dropReads .container).fwuState fwFailed (some feAbort)
    else s
  | none => s

/-- FWU_GO (R655, R671). (DEDUCED, log entry 17.) -/
def execFwuGo (c : ChipId) (s : State) : Res := .next (s.fwuGo c)

/-- FWU_ABORT (R671). -/
def execFwuAbort (c : ChipId) (s : State) : Res := .next (s.fwuAbort c)

/-- FWU_WRITE_COMPLETE (R671): the container is read and programmed; `flash`: without a program error.
(DESIGN CHOICE, log entry 143.) -/
def execFwuWriteComplete (c : ChipId) (res : ReadResult) (flash : Bool) (s : State) : Res :=
  .next (match s.tray.staging with
    | some g =>
      if g.chip ≠ some c ∨ g.verifying = true then s
      else
        let s := s.modChip c fun ch => (ch.dropReads .container).readAer res
        let bad := if res.fail ≠ .none ∨ res.ep = true then some feRead else if flash then none else some feFlash
        match bad with
        | some e => ((s.modTray Tray.stageFail).mirror).modChip c fun ch => ch.fwuState fwFailed (some e)
        | none =>
          let data := padTo ((s.chip c).rd F.FWU_LEN_BYTES) res.data
          (s.modTray fun t => { t with staging := some { g with verifying := true, data := data } }).modChip c fun ch =>
            ch.wr F.FWU_STAT_STATE fwVerifying
    | none => s)

/-- The FWU_ERR bit of a container that fails R653. -/
def fwuErrOf (reason : Nat) : Nat :=
  if reason = imFormat then feFormat else if reason = imSig then feSig else if reason = imSvn then feSvn else feDigest

/-- FWU_VERIFY_COMPLETE (R653, R671). -/
def execFwuVerifyComplete (s : State) : Res :=
  .next (match s.tray.staging with
    | some g =>
      if g.verifying = false ∨ s.tray.power = .off then s
      else
        let r := imgReason g.data s.tray.floor [1, 2, 3]
        let s := if r = 0 then s.modTray fun t => { t.setBank g.bank (Bank.ofImage g.data) with staging := none }
          else s.modTray Tray.stageFail
        match g.chip with
        | some c => s.mirror.modChip c fun ch =>
          ch.fwuState (if r = 0 then fwStaged else fwFailed) (if r = 0 then none else some (fwuErrOf r))
        | none => s.mirror.modTray fun t => t.emit (.pldm g.uart 0x17 r [])
    | none => s)

/-! ### Trials (R654, R656, R672) -/

/-- TRIAL_SUCCESS: 10 s after the last READY, with no HALT. -/
def execTrialSuccess (s : State) : Res :=
  let t := s.tray
  .next (match t.trial with
    | some b =>
      if t.power = .powered ∧ t.readied.length = 4 ∧ chipIds.all (fun c => !(s.chip c).halted) = true then
        let s := s.modTray fun t =>
          let t := if (t.bank (1 - b)).st = bkActive then t.bankSt (1 - b) bkValid else t
          ({ t.bankSt b bkActive with floor := max t.floor (t.bank b).svn } : Tray).logGen 9 0xFF (toLe 1 b ++ toLe 1 1)
        s.writeMigrated.mirror
      else s
    | none => s)

/-- TRIAL_FAILURE: a power cycle into the previous bank; `bad`: the bank failed verification. (DEDUCED, log entry 43.) -/
def execTrialFailure (bad : Bool) (s : State) : Res :=
  .next (match s.tray.trial with
    | some b =>
      if s.tray.power ≠ .powered then s
      else
      let s := if bad then s.modTray fun t => (t.nextBank false).setBank b Bank.empty else s
      s.coldStart 0 rstCold false
    | none => s)

/-! ### The boot mailbox (R120, R658, R669) -/

/-- A boot mailbox check refused. -/
def Chip.bootRefuse (ch : Chip) (reason version : Nat) : Chip :=
  let c : Chip := { ch with hif := { ch.hif with bmState := 3, bmReason := reason } }
  (c.raise 34 (source 280 5) version).msix 135

/-- BM_CTL.GO (R669): it starts the check in ROM mode, in WAIT or REFUSED. -/
def Chip.bootGo (ch : Chip) : Chip :=
  let n := ch.hif.bmLen
  if ch.hif.state ≠ .rom ∨ ch.hif.bmState = 1 ∨ ch.hif.bmState = 2 then ch
  else if n < 512 ∨ 16 * MiB < n then ch.bootRefuse imFormat 0
  else { ch with hif := { ch.hif with bmState := 1, bmReason := 0 } }

/-- BOOT_MAILBOX_GO (R669): BM_LEN is written, then GO. -/
def execBootMailboxGo (c : ChipId) (len : BitVec 25) (s : State) : Res :=
  onChip s c fun ch => ({ ch with hif := { ch.hif with bmLen := len.toNat } } : Chip).bootGo

/-- The container in the image window. -/
def Chip.windowImage (ch : Chip) : List Byte := (List.range ch.hif.bmLen).map fun i => Tab.get 0#8 ch.hif.image i

/-- BOOT_VERIFY_COMPLETE (R632, R658): the header, the signature and the ETROK component are checked. The firmware runs READY only with
every wipe done and board time aligned, as at FIRMWARE_READY. -/
def execBootVerifyComplete (c : ChipId) (s : State) : Res :=
  let ch := s.chip c
  .next (if ch.hif.state ≠ .rom ∨ ch.hif.bmState ≠ 1 then s
    else
      let img := ch.windowImage
      let r := if ch.hif.bmRetired then imRetired else imgReason img ch.hif.bmFloor [2]
      if r ≠ 0 then s.modChip c fun ch => ch.bootRefuse r (fieldAt img 8 4)
      else if ch.flag F.MEM_GSTAT_WIPE_DONE = false ∨ ch.timeAligned = false then s
      else
        let s := s.modChip c fun ch =>
          let c : Chip := { ch with hif := { ch.hif with bmState := 2, bmReason := 0 } }
          ((c.cfgApply s.tray).firmwareUp).msix 135
        (s.readied c).supplyFollow c)

end Sys2Proof.Machine
end

