-- ==== Sys2Proof/Machine/Bupin.lean ====
section
/-! DEFINITION. Tray management (spec/23_bupin.md): sensors and their events, the pace and thermal policy, connector supplies,
Wygus and PLDM messages. The DEBUG messages that reach a Steward's core or its map are in Debug.lean; critical commands and the
secure log are in Trust.lean. PLDM and MCTP control messages are modelled by their fields, not by the bytes of their standards. -/

namespace Sys2Proof.Machine

open Sys2Proof

/-! ### Platform events (R675, R679) -/

/-- smb_alert_n is low: a receiver is named and an event waits. -/
def Tray.alert (t : Tray) : Bool := t.receiver.isSome && !t.events.isEmpty

/-- smb_alert_n follows the event queue; `old` is the tray before. -/
def Tray.alertPin (t old : Tray) : Tray := if t.alert = old.alert then t else t.emit (.pin pinAlert (!t.alert))

/-- A platform event queued; a full queue drops its oldest event. -/
def Tray.queueEvent (t : Tray) (e : SensorEvent) : Tray :=
  if t.events.length < 32 then { t with events := t.events ++ [e] }
  else
    ({ t with events := t.events.drop 1 ++ [e], lostEvents := t.lostEvents + 1 } : Tray).logGen 15 0xFF
      (toLe 4 (t.lostEvents + 1))

/-- The thresholds of R679 as they ship: warning, critical and fatal above, then below. -/
def limitDefault (ac : Bool) (id place : Nat) : Option Int :=
  if 1 ≤ id ∧ id ≤ 4 then
    match place with
    | 0 => some 1600
    | 1 => some 1728
    | 2 => some 1840
    | _ => none
  else match id, place with
    | 13, 0 => some 13000
    | 13, 1 => some 13200
    | 13, 2 => some 13600
    | 13, 3 => some 11000
    | 13, 4 => some 10800
    | 13, 5 => some 10400
    | 14, 0 => some 1100
    | 14, 1 => some 1200
    | 15, 3 => if ac then none else some 1500
    | 15, 4 => if ac then none else some 1000
    | 16, 0 => if ac then some 1040 else none
    | 16, 1 => if ac then some 1120 else none
    | _, _ => none

/-- A threshold as it stands: SetSensorThresholds may have changed a warning. -/
def Tray.limit (t : Tray) (id place : Nat) : Option Int :=
  (limitDefault t.straps.varAc id place).map fun d => Tab.get d t.warn (6 * id + place)

/-- A value lies beyond a threshold: at or above an upper one, below a lower one. (DEDUCED, log entry 42.) -/
def beyondLimit (place : Nat) (v lim : Int) : Bool := if place < 3 then decide (lim ≤ v) else decide (v < lim)

/-- A sensor reads `v`: each threshold that it crosses, in either direction, queues a sensorEvent. -/
def Tray.sensorNote (t : Tray) (id : Nat) (v : Int) : Tray :=
  (List.range 6).foldl (fun (t : Tray) p =>
    match t.limit id p with
    | none => t
    | some lim =>
      let key := 6 * id + p
      let now := beyondLimit p v lim
      if now = t.beyond.contains key then t
      else
        let b := if now then insNat t.beyond key else t.beyond.filter (· != key)
        ({ t with beyond := b } : Tray).queueEvent (SensorEvent.mk id p now v)) t

/-- The PLDM operational states used here. -/
def opEnabled : Int := 0
def opUnavailable : Int := 2

/-- A chip's sensors are available: out of reset and not in Doze. -/
def Chip.sensed (ch : Chip) : Bool := !ch.inReset && decide (ch.pwr < 2)

/-- The straps as sensor 33 reports them. -/
def strapBits (p : BootPins) : Nat := p.smbAddr.toNat + 4 * bnat p.varAc + 8 * p.vsel.toNat

/-- What GetSensorReading of sensor `id` returns: operational state and value. (DEDUCED, log entry 42.) -/
def State.sensor (s : State) (id : Nat) : Option (Int × Int) :=
  let t := s.tray
  let chipVal (c : Nat) (live : Chip → Int) (last : BupChip → Int) : Option (Int × Int) :=
    let ch := s.chip (Fin.ofNat 4 c)
    if ch.sensed then some (opEnabled, live ch) else some (opUnavailable, last (s.bup (Fin.ofNat 4 c)))
  if 1 ≤ id ∧ id ≤ 4 then chipVal (id - 1) (fun ch => sgn 16 (ch.rd F.PWR_TJ_TJ)) fun b => sgn 16 b.tj
  else if 5 ≤ id ∧ id ≤ 8 then chipVal (id - 5) (fun ch => ch.rd F.PWR_VCORE_MV) fun b => b.mv
  else if 9 ≤ id ∧ id ≤ 12 then chipVal (id - 9) (fun ch => ch.rd F.PWR_PACE_MEAS_MEAS) fun b => b.pace
  else if id = 13 then some (opEnabled, t.mv12)
  else if id = 14 then some (opEnabled, t.power12)
  else if id = 15 ∧ t.straps.varAc = false then some (opEnabled, t.rpm)
  else if id = 16 ∧ t.straps.varAc = true then some (opEnabled, sgn 16 t.plate)
  else if 20 ≤ id ∧ id ≤ 32 then some (opEnabled, (((t.supplies[id - 20]?).map (·.st)).getD 0 : Nat))
  else if id = 33 then some (opEnabled, (strapBits t.straps : Nat))
  else none

/-- SENSOR_SAMPLE (R679): 12 V in mV, input power in 0.1 W, the fan in rpm and the plate in 1/16 °C. A fan at 1,000 rpm or more ends
the fan condition (R681). -/
def execSensorSample (mv power rpm plate : BitVec 16) (s : State) : Res :=
  .next (if s.tray.power = .off then s
  else
    let s := s.modTray fun t =>
      let u : Tray := { t with mv12 := mv.toNat, power12 := power.toNat, rpm := rpm.toNat, plate := plate.toNat }
      let u := (u.sensorNote 13 mv.toNat).sensorNote 14 power.toNat
      ((u.sensorNote 15 rpm.toNat).sensorNote 16 (sgn 16 plate.toNat)).alertPin t
    if s.tray.fanLow ∧ 1000 ≤ rpm.toNat then
      (s.modTray fun t => { t with fanLow := false }).modAll fun _ ch => ch.setFlag F.PWR_THERM_FAN_LOW_LIVE false
    else s)

/-- GET_SENSOR_READING (R675, R679). (DESIGN CHOICE, log entry 12.) -/
def execGetSensorReading (tr : Transport) (id : BitVec 16) (s : State) : Res :=
  onMgmt s tr fun s => s.modTray fun t => t.emit (match s.sensor id.toNat with
    | some r => .pldm (isUart tr) 0x11 0 [id.toNat, r.1, r.2]
    | none => .pldm (isUart tr) 0x11 0x80 [])

/-- A warning threshold may take value `v`: it exists and does not pass the critical one (R679, R690). -/
def Tray.warnOk (t : Tray) (id place : Nat) (v : Option (BitVec 32)) : Bool :=
  match v with
  | none => true
  | some x => match limitDefault t.straps.varAc id place, limitDefault t.straps.varAc id (place + 1) with
    | some _, some crit => if place < 3 then decide (x.toInt ≤ crit) else decide (crit ≤ x.toInt)
    | _, _ => false

/-- A warning threshold set. -/
def Tray.setWarn (t : Tray) (id place : Nat) (v : Option (BitVec 32)) : Tray :=
  match v with
  | none => t
  | some x => { t with warn := Tab.put t.warn (6 * id + place) x.toInt }

/-- SET_SENSOR_THRESHOLDS (R679, R690): only warnings change. -/
def execSetSensorThresholds (tr : Transport) (id : BitVec 16) (upper lower : Option (BitVec 32)) (s : State) : Res :=
  onMgmt s tr fun s =>
    let i := id.toNat
    if s.sensor i = none then s.modTray fun t => t.emit (.pldm (isUart tr) 0x12 0x80 [])
    else if s.tray.warnOk i 0 upper && s.tray.warnOk i 3 lower then
      s.modTray fun t => ((t.setWarn i 0 upper).setWarn i 3 lower).emit (.pldm (isUart tr) 0x12 0 [])
    else s.modTray fun t => t.emit (.pldm (isUart tr) 0x12 2 [])

/-- SET_EVENT_RECEIVER (R675). -/
def execSetEventReceiver (tr : Transport) (eid : Byte) (s : State) : Res :=
  onMgmt s tr fun s => s.modTray fun t =>
    if 1 ≤ eid.toNat ∧ eid.toNat ≤ 254 then
      (({ t with receiver := some eid.toNat } : Tray).alertPin t).emit (.pldm (isUart tr) 0x04 0 [])
    else t.emit (.pldm (isUart tr) 0x04 2 [])

/-- POLL_FOR_PLATFORM_EVENT_MESSAGE (R675): the oldest event, which leaves the queue. -/
def execPollForPlatformEventMessage (tr : Transport) (s : State) : Res :=
  onMgmt s tr fun s => s.modTray fun t =>
    match t.events with
    | [] => t.emit (.pldm (isUart tr) 0x0B 0 [])
    | e :: rest =>
      (({ t with events := rest } : Tray).alertPin t).emit
        (.pldm (isUart tr) 0x0B 0 [(e.id : Nat), (e.threshold : Nat), (bnat e.beyond : Nat), e.value])

/-! ### Pace and temperature (R681, R682, R689) -/

/-- The cap that a temperature (1/16 °C) gives. -/
def capStep (tj : Int) (cap meas : Nat) : Nat :=
  if 1840 ≤ tj then min cap 512
  else if 1728 ≤ tj then max 512 (min cap meas - 32)
  else if tj < 1648 then min 2047 (cap + 8)
  else cap

/-- The thermal stage that follows. -/
def stageStep (st : Nat) (tj : Int) : Nat :=
  match st with
  | 0 => if 1728 ≤ tj then 1 else 0
  | 1 => if 1840 ≤ tj then 2 else if tj < 1728 then 0 else 1
  | _ => if 1840 ≤ tj then 2 else if 1728 ≤ tj then 1 else 0

/-- THERM row 21 is LIVE on the chip: some rank reads beyond its range. -/
def Chip.memHot (ch : Chip) : Bool := ch.mc.mr4.any fun e => e.2 == 31

/-- THERM (row 20) with the chip's temperature. (DEDUCED, log entry 131.) -/
def Chip.therm (ch : Chip) : Chip := ch.raise 20 (source 280 1) (ch.rd F.PWR_TJ_TJ)

/-- PWR_PACE_TARGET and PWR_THERM of a chip after its 10 ms evaluation. -/
def Chip.thermStep (ch : Chip) (fan mem : Bool) : Chip :=
  let tj := sgn 16 (ch.rd F.PWR_TJ_TJ)
  let cap := capStep tj (ch.rd F.PWR_THERM_CAP) (ch.rd F.PWR_PACE_MEAS_MEAS)
  let st := ch.rd F.PWR_THERM_STAGE
  let c := ((ch.wr F.PWR_THERM_CAP cap).wr F.PWR_THERM_STAGE (stageStep st tj)).setFlag F.PWR_THERM_FAN_LOW_LIVE fan
  let demand := c.rd F.PWR_THERM_DEMAND
  let target := min (min demand cap) (min (if fan then 768 else 2047) (if mem then 768 else 2047))
  let c := (c.wr F.PWR_PACE_TARGET_TARGET target).paceSync
  let c := if target < demand then c.setFlag F.PWR_THERM_CAP_SEEN true else c
  if st = 0 ∧ stageStep st tj = 1 then c.therm else c

/-- One chip's 10 ms evaluation. -/
def State.thermChip (s : State) (c : ChipId) : State :=
  let ch := s.chip c
  if !ch.sensed then s
  else
    let b := s.bup c
    let tjRaw := ch.rd F.PWR_TJ_TJ
    let tj := sgn 16 tjRaw
    let st := ch.rd F.PWR_THERM_STAGE
    let nst := stageStep st tj
    let memUntil := if ch.memHot then s.tray.now + 1000000000 else b.memCap
    let hot := if 1920 ≤ tj then b.hot + 1 else 0
    let s := s.modChip c fun ch => ch.thermStep s.tray.fanLow (ch.memHot || decide (s.tray.now < memUntil))
    let s := s.modBup c fun x =>
      { x with hot := hot, memCap := memUntil, tj := tjRaw, mv := ch.rd F.PWR_VCORE_MV, pace := ch.rd F.PWR_PACE_MEAS_MEAS }
    let s := s.modTray fun t =>
      let u := if (st = 0 ∧ nst = 1) ∨ (st = 1 ∧ nst = 0) then t.logGen 6 c.val (toLe 1 st ++ toLe 1 nst ++ toLe 2 tjRaw) else t
      (u.sensorNote (c.val + 1) tj).alertPin t
    if 2 ≤ hot then
      let s := (s.modBup c fun x => { x with trip := true, hot := 0 }).warmReset c rstBupin
      s.modTray fun t => t.logGen 7 c.val (toLe 2 tjRaw)
    else s

/-- THERMAL_POLICY_TICK (R681, R682, R689): every 10 ms. (DEDUCED, log entry 131.) -/
def execThermalPolicyTick (s : State) : Res :=
  .next (if s.tray.power = .powered then chipIds.foldl (fun (s : State) c => s.thermChip c) s else s)

/-- CHIP_TRIP_RELEASE (R682): TJ stayed at or below 100 °C for 1 s. (DEDUCED, log entry 14.) -/
def execChipTripRelease (c : ChipId) (s : State) : Res := .next (s.modBup c fun b => { b with trip := false })

/-- FAN_UPDATE (R682): the duty in 1/8 per cent, 30 % at 60 °C or less, linear to 100 % at 95 °C. -/
def execFanUpdate (s : State) : Res :=
  .next (s.modTray fun t =>
    let hottest := chipIds.foldl (fun (a : Int) c =>
      max a (if (s.chip c).sensed then sgn 16 ((s.chip c).rd F.PWR_TJ_TJ) else sgn 16 (s.bup c).tj)) 0
    if t.straps.varAc || t.power == .off then t else { t with duty := (clampI 240 800 (240 + (hottest - 960))).toNat })

/-- FAN_LOW (R51, R681): the tachometer stayed below 1,000 rpm for 2 s on OL4-AF. -/
def execFanLow (s : State) : Res :=
  .next (if s.tray.straps.varAc ∨ s.tray.fanLow ∨ 1000 ≤ s.tray.rpm ∨ s.tray.power = .off then s
  else
    let s := s.modTray fun t => ({ t with fanLow := true } : Tray).logGen 13 0xFF (toLe 2 t.rpm)
    s.modAll fun _ ch => if ch.inReset then ch else (ch.setFlag F.PWR_THERM_FAN_LOW_LIVE true).therm)

/-- BUPIN_WATCHDOG (R684): only the Bupin core resets; a running trial fails, and the Bupin makes a power cycle (R656).
(DEDUCED, log entry 43.) -/
def execBupinWatchdog (pc : Dword) (s : State) : Res :=
  .next (if s.tray.power = .off then s
  else
    let s := s.modTray fun t => t.logGen 10 0xFF (toLe 4 pc.toNat)
    if s.tray.trial.isSome ∧ s.tray.power = .powered then s.coldStart 0 rstCold false else s)

/-! ### The service UART and MCTP (R674, R677) -/

/-- SV_PRESENT_CHANGE (R48, R50, R677): a service cable is fitted or taken off, which sv_present_n shows; a strap moved while 12 V
is present waits for the next cold start. -/
def execSvPresentChange (p : PinEvent) (s : State) : Res :=
  .next (match p with
    | .svPresent low => (s.modTray fun t => { t with present := low }).mirror
    | .straps pins => s.modTray fun t => { t with pins := { pins with badA := t.pins.badA, badB := t.pins.badB } })

/-- UART_BAD_FRAME (R677): discarded silently. -/
def execUartBadFrame (s : State) : Res := .next s

/-- SET_ENDPOINT_ID (R674): EIDs 0 and 255 are none. -/
def execSetEndpointId (tr : Transport) (eid : Byte) (s : State) : Res :=
  onMgmt s tr fun s =>
    if 1 ≤ eid.toNat ∧ eid.toNat ≤ 254 then
      (s.modTray fun t => ({ t with eid := eid.toNat } : Tray).emit (.pldm (isUart tr) 0x01 0 [eid.toNat])).mirror
    else s.modTray fun t => t.emit (.pldm (isUart tr) 0x01 2 [])

/-! ### Wygus messages (R678, R687) -/

/-- A Wygus reply of STATUS alone, with what the request did. (DEDUCED, log entry 40.) -/
def State.answer (s : State) (tr : Transport) (code status : Nat) : State := s.modTray fun t => t.reply (isUart tr) code status []

/-- The identity record (R680). (DEDUCED, log entry 40.) -/
def State.identity (s : State) : List Byte :=
  let t := s.tray
  padTo 64 ([0x4F#8, 0x4C#8, 0x49#8, 0x44#8, 0x01#8] ++ toLe 1 (bnat t.straps.varAc) ++ [Config.boardRev, 0#8] ++ toLe 8 t.serial ++
    (chipIds.flatMap fun c => toLe 1 ((s.chip c).rd F.HIF_ID_STEP)) ++ toLe 4 Config.madeOn.toNat ++ toLe 4 Config.romVersion.toNat ++
    toLe 4 (t.bank t.running).version ++ toLe 4 t.floor ++ toLe 1 t.lcs ++ toLe 1 t.running)

/-- IDENTITY (R680, R687). -/
def execIdentity (tr : Transport) (s : State) : Res :=
  onMgmt s tr fun s => s.modTray fun t => t.reply (isUart tr) 0x01 mgOk s.identity

/-- LOG_READ (R687, R690). -/
def execLogRead (tr : Transport) (index : Dword) (count : Byte) (s : State) : Res :=
  onMgmt s tr fun s =>
    if 1 ≤ count.toNat ∧ count.toNat ≤ 32 then
      s.modTray fun t => t.reply (isUart tr) 0x03 mgOk
        (toLe 4 t.log.next ++ toLe 4 t.log.lost ++ (t.log.read index.toNat count.toNat).flatMap LogEnt.bytes)
    else s.answer tr 0x03 mgBadReq

/-- A message whose CHIPS byte names chips. -/
def withChips (s : State) (tr : Transport) (code : Nat) (chips : Byte) (f : State → List ChipId → State) : Res :=
  onMgmt s tr fun s => if 16 ≤ chips.toNat then s.answer tr code mgBadReq else f s (chipsOf chips.toNat)

/-- BUPIN_DOZE_REQUEST (R618, R690): BUSY where some chip named is not in Run. -/
def execBupinDozeRequest (tr : Transport) (chips : Byte) (s : State) : Res :=
  withChips s tr 0x05 chips fun s cs =>
    if cs.all fun c => (s.chip c).flag F.HIF_STATUS_READY && (s.chip c).pwr == pwrRun then
      (cs.foldl (fun (s : State) c => s.enterDoze c) s).answer tr 0x05 mgOk
    else s.answer tr 0x05 mgBusy

/-- POWER_WAKE_REQUEST (R622). -/
def execPowerWakeRequest (tr : Transport) (chips : Byte) (s : State) : Res :=
  withChips s tr 0x05 chips fun s cs => (s.wake cs 5).answer tr 0x05 mgOk

/-- BUPIN_CHIP_RESET (R625, R690). -/
def execBupinChipReset (tr : Transport) (chips : Byte) (s : State) : Res :=
  withChips s tr 0x05 chips fun s cs => (cs.foldl (fun (s : State) c => s.warmReset c rstBupin) s).answer tr 0x05 mgOk

/-- TRAY_POWER_CYCLE (R625, R629): a cold start with board time 0. -/
def execTrayPowerCycle (tr : Transport) (chips : Byte) (s : State) : Res :=
  withChips s tr 0x05 chips fun s _ =>
    if s.tray.power = .powered then (s.answer tr 0x05 mgOk).coldStart 0 rstCold false else s.answer tr 0x05 mgNotAllowed

/-- TIMER (R622, R687, R690): 0 cancels; a time already past wakes at once. (DEDUCED, log entry 45.) -/
def execTimer (tr : Transport) (chips : Byte) (wakeAt : Qword) (s : State) : Res :=
  withChips s tr 0x06 chips fun s cs =>
    let w := wakeAt.toNat
    let one (s : State) (c : ChipId) : State :=
      if (s.chip c).inReset then s
      else if w ≠ 0 ∧ w ≤ s.tray.now then s.timerFires c
      else s.modChip c fun ch => ch.wr F.PWR_DOZE_TIMER_WAKE_AT w
    (cs.foldl one s).answer tr 0x06 mgOk

/-- PACE (R681, R690). -/
def execPace (tr : Transport) (chips : Byte) (demand : BitVec 16) (s : State) : Res :=
  withChips s tr 0x07 chips fun s cs =>
    if 2047 < demand.toNat then s.answer tr 0x07 mgBadReq
    else (s.eachChip cs fun ch => if ch.inReset then ch else ch.wr F.PWR_THERM_DEMAND demand.toNat).answer tr 0x07 mgOk

/-- CCI (R687, R690): `answer`: what the sensor returned, none where it did not acknowledge. (DEDUCED, log entry 44.) -/
def execCci (tr : Transport) (chip port addr wlen rlen : Byte) (data : List Byte) (answer : Option (List Byte)) (s : State) : Res :=
  onMgmt s tr fun s =>
    let c := chip.toNat
    let p := port.toNat
    if 4 ≤ c ∨ 2 ≤ p ∨ 128 ≤ addr.toNat ∨ 32 < wlen.toNat ∨ 32 < rlen.toNat ∨ data.length ≠ wlen.toNat then s.answer tr 0x08 mgBadReq
    else if 2 ≤ (s.chip (Fin.ofNat 4 c)).pwr ∨ (s.tray.supplies[2 * c + p]?).map (·.st) ≠ some supOn then
      s.answer tr 0x08 mgNotAllowed
    else
      let s := s.modTray fun t => t.emit (.cci c p addr.toNat data)
      match answer with
      | none => s.answer tr 0x08 mgBadReq
      | some bs => s.modTray fun t => t.reply (isUart tr) 0x08 mgOk (padTo rlen.toNat bs)

/-- SUPPLY (R32, R687): it overrides PWR_SUPPLY up to the next cold start; ON ends a trip. -/
def execSupply (tr : Transport) (mask : BitVec 16) (on : Byte) (s : State) : Res :=
  onMgmt s tr fun s =>
    if 2 ^ 13 ≤ mask.toNat ∨ 2 ≤ on.toNat then s.answer tr 0x0A mgBadReq
    else
      let b := on.toNat == 1
      let one (x : ConnSupply) : ConnSupply := { x with force := some b, st := if b && x.st == supTripped then supOff else x.st }
      let s := s.modTray fun t => { t with supplies := t.supplies.zipIdx.map fun e => if bit mask.toNat e.2 then one e.1 else e.1 }
      s.supplySync.answer tr 0x0A mgOk

/-! ### Images in ROM recovery, and PLDM firmware update (R657, R676) -/

/-- The bank that the ROM writes: the one that fails verification, A when both fail, the inactive one when both verify. -/
def Tray.romBank (t : Tray) : Nat :=
  if t.bankBad 0 then 0 else if t.bankBad 1 then 1 else 1 - t.running

/-- A verified container in a bank, whose image no longer fails verification. -/
def Tray.romWrite (t : Tray) (img : List Byte) : Tray :=
  let b := t.romBank
  { t.setBank b (Bank.ofImage img) with
    pins := if b = 0 then { t.pins with badA := false } else { t.pins with badB := false } }

/-- IMAGE (R657, R687, R690). (DEDUCED, log entry 44.) -/
def execImage (tr : Transport) (off : Dword) (final : Byte) (data : List Byte) (s : State) : Res :=
  onMgmt s tr fun s =>
    let t := s.tray
    let o := off.toNat
    if t.recovery = false ∨ t.lcs = 4 then s.answer tr 0x10 mgNotAllowed
    else if 1024 < data.length ∨ 16 * MiB < o + data.length ∨ 2 ≤ final.toNat then s.answer tr 0x10 mgBadReq
    else
      let img := patch (padTo (max t.image.length o) t.image) o data
      if final.toNat = 0 then (s.modTray fun t => { t with image := img }).answer tr 0x10 mgOk
      else
        let s := s.modTray fun t => { t with image := [] }
        if imgReason img t.floor [1, 2, 3] = 0 then ((s.modTray fun t => t.romWrite img).mirror).answer tr 0x10 mgOk
        else s.answer tr 0x10 mgBadReq

/-- PLDM_FIRMWARE_UPDATE (R655, R676): a whole transfer into bank A or B (true: B); `flash`: without a program error. The values of
an error reply name the bit of FWU_ERR. (DESIGN CHOICE, log entry 12.) -/
def execPldmFirmwareUpdate (tr : Transport) (bank : Bool) (data : List Byte) (flash : Bool) (s : State) : Res :=
  onMgmt s tr fun s =>
    let b := bnat bank
    let fail (s : State) (e : Nat) : State := s.modTray fun t => t.emit (.pldm (isUart tr) 0x13 1 [(e : Nat)])
    match s.tray.stageErr b with
    | some e => fail s e
    | none =>
      if data = [] ∨ 16 * MiB < data.length then fail s feLen
      else
        let s := s.modTray fun t => t.stage b none (isUart tr)
        if flash then
          (s.modTray fun t => ({ t with
            staging := t.staging.map fun g => { g with verifying := true, data := data } } : Tray).emit
              (.pldm (isUart tr) 0x13 0 [])).mirror
        else fail (s.modTray Tray.stageFail).mirror feFlash

/-- ACTIVATE_FIRMWARE (R676): it ends the update session and changes no bank. -/
def execActivateFirmware (tr : Transport) (s : State) : Res :=
  onMgmt s tr fun s => s.modTray fun t => t.emit (.pldm (isUart tr) 0x1A 0 [])

end Sys2Proof.Machine
end

