-- ==== Sys2Proof/Machine/Coachman.lean ====
section
/-! DEFINITION. The Coachman's jobs (R445 to R454, R468) and the mirror on E2 (R464, R465). -/

namespace Sys2Proof.Machine

open Sys2Proof

/-- Completion word of a Coachman job (R468). -/
def coaWord (status : Nat) (clamped via : Bool) (mid cookie : Nat) : Nat :=
  status + 2 ^ 8 * bnat clamped + 2 ^ 9 * bnat via + mid % 65536 * 2 ^ 16 + cookie * 2 ^ 32

/-- A refused Coachman job. -/
def Chip.coaRefuse (ch : Chip) (j : QJob) (st : Nat) : Chip :=
  ch.qRefuse .coachman j 40 (coaWord st false false 0 (fieldAt j.blk 56 4))

/-- A completed Coachman job's token. -/
def coaToken (j : QJob) (st : Nat) (clamped via : Bool) (mid : Nat) : BitVec 128 :=
  jobToken j.blk 40 (coaWord st clamped via mid (fieldAt j.blk 56 4)) false

/-- What the active Coachman of E0 sends to its mirror (R464). Once E2 is active it announces its generations to the Sentry
of E0, which checks its batches against them (R456). -/
def Chip.mirror (ch : Chip) (code : Nat) (data : List Byte) : Chip :=
  if ch.pos.val = 0 then ch.sendMotion 2 code data
  else if ch.pos.val = 2 ∧ code = 2 then ch.sendMotion 0 2 data else ch

/-! ### OCC -/

/-- The persons of a room track list (R448). -/
def Chip.personsOf (ch : Chip) (a n : Nat) : List Person :=
  (List.range n).filterMap fun i =>
    let e := ch.bytes (a + 64 + 64 * i) 64
    if fieldAt e 4 1 ≠ 4 ∧ fieldAt e 6 1 < 32 ∧ bit (ch.rd F.COA_OCC_CLS_CLASSMASK) (fieldAt e 6 1) then
      some ⟨sgn 32 (fieldAt e 8 4), sgn 32 (fieldAt e 12 4), sgn 32 (fieldAt e 20 4), sgn 32 (fieldAt e 24 4)⟩
    else none

/-- An OCC job (R447 to R449): a generation under construction, complete at OCC_GENERATION_COMPLETE. -/
def Chip.occJob (ch : Chip) (j : QJob) : Chip :=
  let b := j.blk
  let a := fieldAt b 8 8
  let n := ch.load (a + 8) 2
  if !(tagOk b 40 && reservedZero b [(1, 7), (16, 24), (48, 8), (60, 4), (72, 56)] && a % 64 == 0) then ch.coaRefuse j 1
  else if !(ch.extentOk a 64 && ch.extentOk a (64 + 64 * n)) then ch.coaRefuse j 2
  else if j.poison || ch.anyPoison a (64 + 64 * n) then ch.coaRefuse j 6
  else
    let t0 := ch.load a 8
    let late := match ch.coa.lastTime with
      | some t => decide (t0 ≤ t)
      | none => false
    if late then ch.coaRefuse j 3
    else
      let ps := ch.personsOf a n
      let crowded := decide (256 < ps.length)
      let num := (ch.rd F.COA_GEN_GEN + 1) % 2 ^ 32
      let g : OccGen := ⟨num, t0, ps, crowded, none⟩
      let c := ch.wr F.COA_GEN_GEN num
      let c : Chip := { c with coa := { c.coa with
        gens := g :: c.coa.gens.take 15
        lastTime := some t0
        run := some ⟨coaToken j (if crowded then 7 else 0) false false num, j.slot, b⟩ } }
      c.mirror 1 b

/-- Every sample of head `h` not yet transmitted, and its last pose to the horizon, is free under a generation (R449). -/
def Chip.planFree (ch : Chip) (g : OccGen) (h : Nat) : Bool :=
  let x := ch.head h
  let t0 := x.firstUnsent
  let fin := match x.segs.getLast? with
    | some s => max t0 s.stop
    | none => t0
  ((List.range ((fin - t0) / 1000000 + 1)).all fun k =>
    !ch.contactLeaf g h (x.posAt (t0 + k * 1000000)) (g.slice (t0 + k * 1000000))) &&
  (List.range 16).all fun sl => decide (sl < g.slice fin) || !ch.contactLeaf g h x.endPose sl

/-- The re-check of every moving head under a generation (R449, R453, R493). -/
def Chip.recheck (ch : Chip) (g : OccGen) : Chip :=
  (List.range 8).foldl (fun c h =>
    if c.headState h = hdMoving && !c.planFree g h then
      ((c.planStop h).setFlag (F.COA_HSTAT_CONFLICT_SEEN h) true).motionStatus h 5 c.now
    else c) ch

/-- OCC (R447 to R449): the Coachman takes the OCC job at HEAD. -/
def execOcc (c : ChipId) (s : State) : Res :=
  onIsland s c fun ch =>
    let a := ch.load (ch.qSlot .coachman (ch.qHead .coachman)) 8
    if ch.inShared a 128 ∧ ch.load a 1 = 2 then ch
    else match ch.takeJob .coachman with
      | (none, ch) => ch
      | (some j, ch) => if fieldAt j.blk 0 1 = 1 then ch.occJob j else ch.coaRefuse j 1

/-- OCC_GENERATION_COMPLETE (R449, R453): the newest generation is complete; planned samples are re-checked and the job's
token leaves. -/
def execOccGenerationComplete (c : ChipId) (s : State) : Res :=
  onIsland s c fun ch =>
    match ch.coa.run, ch.coa.gens with
    | some r, g :: rest =>
      let g' : OccGen := { g with done := some ch.now }
      let c : Chip := { ch with coa := { ch.coa with run := none, gens := g' :: rest } }
      ((c.recheck g').mirror 2 (toLe 4 g'.num ++ zeros 4 ++ r.blk)).qToken r.token
    | _, _ => ch

/-- OCCUPANCY_STALE (R449): the newest generation's T0 is more than 200 ms old: every moving head stops. -/
def execOccupancyStale (c : ChipId) (s : State) : Res :=
  onIsland s c fun ch =>
    match ch.coa.gens with
    | g :: _ => if g.t0 + 200000000 < ch.now then ch.stopMoving else ch
    | [] => ch

/-! ### AIM -/

/-- A goal clamped into the limits of its axes, and whether that changed it (R452). -/
def Chip.clampGoal (ch : Chip) (h : Nat) (goal : List Int) : List Int × Bool :=
  let q := goal.zipIdx.map fun e => clampI (ch.rdI (F.COA_AMIN_LIMIT h e.2)) (ch.rdI (F.COA_AMAX_LIMIT h e.2)) e.1
  (q, decide (q ≠ goal))

/-- A pose with one axis changed. -/
def setAxis (q : List Int) (a : Nat) (v : Int) : List Int := updAt q a fun _ => v

/-- The plan of an AIM (R452): start time, segments and VIA; none where no candidate is free. (DEDUCED, log entry 117.) -/
def Chip.aimPlan (ch : Chip) (h : Nat) (goal : List Int) : Option (Nat × List Seg × Bool) :=
  let x := ch.head h
  let s0 := roundUp (ch.now + 3000000) 1000000
  let kept := x.segs.filter fun s => decide (s.t0 < s0)
  let start := kept.foldl (fun m s => max m s.stop) s0
  let q0 := match kept.getLast? with
    | some s => s.at s.dur
    | none => x.rest
  let g := ch.curGen.getD ⟨0, 0, [], false, none⟩
  let direct := ch.planChain h start q0 [goal]
  if direct.isEmpty then some (start, kept, false)
  else if ch.chainFree g h start q0 direct then some (start, kept ++ direct, false)
  else match ch.axisOf h kindLift with
    | none => none
    | some a =>
      let safe := sgn 32 (ch.rd (F.COA_HGEO_LIFT_SAFE_V h))
      let via := ch.planChain h start q0 [setAxis q0 a safe, setAxis goal a safe, goal]
      if ch.chainFree g h start q0 via then some (start, kept ++ via, true) else none

/-- An AIM job (R452). (DEDUCED, log entry 117.) -/
def Chip.aimJob (ch : Chip) (j : QJob) : Chip :=
  let b := j.blk
  let h := fieldAt b 1 1
  let goal : List Int := [sgn 32 (fieldAt b 4 4), sgn 32 (fieldAt b 8 4), sgn 32 (fieldAt b 12 4), sgn 32 (fieldAt b 16 4)]
  let n := ch.nax h
  if !(tagOk b 40 && decide (h < 8) && reservedZero b [(2, 2), (20, 20), (48, 8), (60, 4), (72, 56)] &&
      (goal.drop n).all fun v => v == 0) then ch.coaRefuse j 1
  else if j.poison then ch.coaRefuse j 6
  else
    let ch := ch.mirror 1 b
    let q := ch.clampGoal h (goal.take n)
    if ch.headState h = hdDisabled then ch.qToken (coaToken j 4 q.2 false 0)
    else match ch.aimPlan h q.1 with
      | none => ch.qToken (coaToken j 5 q.2 false 0)
      | some (start, segs, via) =>
        let x := ch.head h
        let fin := segs.foldl (fun m s => max m s.stop) start
        let c := ch.setHead h { x with segs := segs, next := min x.next start }
        let c := if ch.headState h = hdReady ∧ segs ≠ [] then c.setHeadState h hdMoving else c
        let c := c.mirror 3 (toLe 8 h ++ toLe 8 start)
        c.qToken (coaToken j 0 q.2 via (min 65535 ((fin - start) / 1000000)))

/-- AIM (R452): the Coachman takes the AIM job at HEAD. -/
def execAim (c : ChipId) (s : State) : Res :=
  onIsland s c fun ch =>
    let a := ch.load (ch.qSlot .coachman (ch.qHead .coachman)) 8
    if ch.inShared a 128 ∧ ch.load a 1 = 1 then ch
    else match ch.takeJob .coachman with
      | (none, ch) => ch
      | (some j, ch) => if fieldAt j.blk 0 1 = 2 then ch.aimJob j else ch.coaRefuse j 1

/-! ### The mirror (R464, R465) -/

/-- A piece of a MOTION message joins those received; the whole message once its last piece is there. -/
def Chip.motionPiece (ch : Chip) (code i n : Nat) (data : List Byte) : Option (List Byte) × Chip :=
  let old := if i = 0 then [] else (ch.coa.pieces.find? fun p => p.1 == code).elim [] (·.2)
  let all := old ++ data
  let rest := ch.coa.pieces.filter fun p => p.1 != code
  if i + 1 < n then (none, { ch with coa := { ch.coa with pieces := rest ++ [(code, all)] } })
  else (some all, { ch with coa := { ch.coa with pieces := rest } })

/-- The standby holds the generations and plans of the active Coachman (R464): the planner is deterministic. -/
def Chip.mirrorFrom (ch peer : Chip) : Chip :=
  let c : Chip := { ch with coa := { ch.coa with gens := peer.coa.gens, lastTime := peer.coa.lastTime } }
  let c := c.wr F.COA_GEN_GEN (peer.rd F.COA_GEN_GEN)
  (List.range 8).foldl (fun c h =>
    let p := peer.head h
    (c.setHead h { c.head h with rest := p.rest, segs := p.segs, next := p.firstUnsent }).wr (F.COA_HSTAT_STATE h)
      (peer.headState h)) c

/-- The samples of a setpoint frame's bytes (R469), under a generation. -/
def setpointSamples (d : List Byte) (gen : Nat) : List Smp :=
  let n := fieldAt d 3 1
  (List.range (fieldAt d 2 1)).map fun k =>
    ⟨fieldAt d 8 8 + k * 1000000, (List.range n).map fun a => sgn 32 (fieldAt d (16 + 4 * (n * k + a)) 4), gen⟩

/-- A whole MOTION message at its destination (R464, R465, R558): 1 to 3 mirror E0's planning to E2, 4 makes E2 active,
5 brings a batch of the active E2 to E0's Sentry. -/
def Chip.motionMsg (ch peer : Chip) (code : Nat) (d : List Byte) : Chip :=
  match code with
  | 4 => if ch.pos.val = 2 ∧ ch.rd F.COA_STAT_ROLE = roleStandby then ch.wr F.COA_STAT_ROLE roleActive else ch
  | 5 =>
    if ch.pos.val = 0 ∧ ch.sen.fromE2 ∧ fieldAt d 1 1 < 8 then
      let g := match ch.curGen with
        | some g => g.num
        | none => 0
      ch.takeBatch (fieldAt d 1 1) (setpointSamples d g)
    else ch
  | _ =>
    if ch.pos.val = 2 ∧ 1 ≤ code ∧ code ≤ 3 ∧ ch.rd F.COA_STAT_ROLE = roleStandby then ch.mirrorFrom peer
    else if ch.pos.val = 0 ∧ code = 2 ∧ ch.sen.fromE2 then
      { ch with coa := { ch.coa with gens := peer.coa.gens } }.wr F.COA_GEN_GEN (peer.rd F.COA_GEN_GEN)
    else ch

end Sys2Proof.Machine
end

