-- ==== Sys2Proof/Machine/Graph.lean ====
section
/-! DEFINITION. Graph slots: loading and unloading graphs, the activity exchange and the abort of a slot that stands still
(spec/10_tokens_inn.md R275, R298; spec/11_annex_guestbook.md R315). -/

namespace Sys2Proof.Machine

open Sys2Proof

/-- GRAPH_LOAD (R148, R157, R298): the slot starts reading its image. -/
def execGraphLoad (c : ChipId) (n : Fin 128) (s : State) : Res :=
  onChip s c fun ch => ch.runDesc n.val opGraphLoad fun ch d =>
    let addr := fieldAt d.bytes 8 8
    let len := fieldAt d.bytes 16 4
    let k := fieldAt d.bytes 20 1
    if !descOk d.bytes [(21, 43)] || addr % 64 != 0 || decide (64 * MiB < len) || decide (15 < k) then
      ch.completeSt n.val d.idx stBadDesc
    else if len = 0 then ch.completeSt n.val d.idx stEmpty
    else if (ch.slot k).st ≠ .empty then ch.completeSt n.val d.idx stBusy
    else
      ((ch.setSlot k { ch.slot k with st := .loading, load := some (n.val, d.idx) }).slotSync k).hostRead (.image k) addr len

/-- The slot is EMPTY again. Announcements of other chips are kept: a later load of the graph needs them. -/
def Chip.slotEmpty (ch : Chip) (s : Nat) : Chip :=
  (ch.setSlot s { Slot.reset with announced := (ch.slot s).announced }).slotSync s

/-- The image of slot `s` was read (R275, R298): installed, or refused with class CFG_INVALID. -/
def Chip.imageRead (ch : Chip) (s : Nat) (res : ReadResult) : Chip :=
  match ch.takeRead (.image s), (ch.slot s).load with
  | some c, some (n, i) =>
    let c := c.readAer res
    let fin (c : Chip) (st detail : Nat) : Chip :=
      c.complete n i fun d => { d with status := st, nbytes := res.data.length, detail := detail, poison := res.ep }
    if res.fail ≠ .none then fin (c.slotEmpty s) stHostReadErr 0
    else match c.checkImage res.data with
      | .inl node =>
        let g := Graph.ofImage res.data
        let c := if headerOk res.data && (g.flows.any fun d => c.sysFlow d.flow) then c.setFlag F.GBK_MSTAT_SYSFLOW_SEEN true else c
        fin ((c.slotEmpty s).raise 31 (source 280 0) node) stRefusedCfg node
      | .inr g => (fin (c.install s g res.data) stOk 0).tryArm s
  | some c, none => c
  | none, _ => ch

/-- GRAPH_IMAGE_READ_COMPLETE (R275, R298). -/
def execGraphImageReadComplete (c : ChipId) (slot : Fin 16) (res : ReadResult) (s : State) : Res :=
  onChip s c fun ch => ch.imageRead slot.val res

/-- GRAPH_UNLOAD (R148, R298): the graph is aborted; the command completes with the abort. (DESIGN CHOICE, log entry 149.) -/
def execGraphUnload (c : ChipId) (n : Fin 128) (s : State) : Res :=
  onChip s c fun ch => ch.runDesc n.val opGraphUnload fun ch d =>
    let k := fieldAt d.bytes 8 1
    let x := ch.slot k
    if !descOk d.bytes [(9, 55)] || decide (15 < k) || x.st == .empty then ch.completeSt n.val d.idx stBadDesc
    else if x.st = .loading ∨ x.unload.isSome then ch.completeSt n.val d.idx stBusy
    else
      let c := ch.abortSlot k true
      c.setSlot k { c.slot k with unload := some (n.val, d.idx) }

/-- GRAPH_ABORT_COMPLETE (R298, R386): every pack has freed the slot's rooms. -/
def execGraphAbortComplete (c : ChipId) (slot : Fin 16) (s : State) : Res :=
  onChip s c fun ch =>
    let k := slot.val
    let x := ch.slot k
    if x.st = .aborting then
      let c := (List.range 12).foldl (fun (c : Chip) p =>
        if c.flag (F.TEN_STAT_HELD p) && c.rd (F.TEN_STAT_SLOT p) == k then (c.setFlag (F.TEN_STAT_HELD p) false).wr (F.TEN_STAT_SLOT p) 0
        else c) ch
      let c := c.slotEmpty k
      match x.unload with
      | some (n, i) => c.completeSt n i stOk
      | none => c
    else ch

/-- Own activity and blocked bits of slot `s` for the interval that ends (R315). -/
def Chip.ownBits (ch : Chip) (s : Nat) : Bool × Bool :=
  let x := ch.slot s
  (x.fired, x.blocked && ch.blockedWork s)

/-- The next interval of slot `s` begins: the one that ends is judged by the chip's own bits and those received (R315).
(DEDUCED, log entry 82.) -/
def Chip.nextInterval (ch : Chip) (s : Nat) : Chip :=
  let x := ch.slot s
  if x.st = .armed then
    let own := ch.ownBits s
    let act := own.1 || x.activity.any fun a => a.2.1
    let blk := own.2 || x.activity.any fun a => a.2.2
    ch.setSlot s { x with
      quiet := if !act && blk then x.quiet + 1 else 0
      activity := [], fired := false, blocked := ch.blockedWork s }
  else ch

/-- ACTIVITY_EXCHANGE (R315): every 10 µs each chip sends its bits to the chips that share a slot with it.
(DEDUCED, log entry 82.) -/
def execActivityExchange (c : ChipId) (s : State) : Res :=
  onChip s c fun ch =>
    let shared (d : Nat) : List Nat := (List.range 16).filter fun k =>
      ch.armed k && ((ch.graphOf k).elim false fun g => bit g.chips d)
    let mask (ks : List Nat) (f : Bool × Bool → Bool) : Nat := ks.foldl (fun a k => if f (ch.ownBits k) then orBit a k else a) 0
    let c := ((List.range 4).filter fun d => d != ch.pos.val && !(shared d).isEmpty).foldl (fun (c : Chip) d =>
      c.sendFlit d 3 3 (slotMsg 3 0 0 0 0 (mask (shared d) (·.1)) (mask (shared d) (·.2)))) ch
    (List.range 16).foldl (fun (c : Chip) k => c.nextInterval k) c

/-- DEADLOCK_ABORT (R315): no chip showed activity for ABORT_MS ms while some chip was blocked throughout. -/
def execDeadlockAbort (c : ChipId) (k : Fin 16) (s : State) : Res :=
  onChip s c fun ch =>
    let ms := ch.rd F.DFX_DL_CTL_ABORT_MS
    if ms ≠ 0 ∧ ms * 100 ≤ (ch.slot k.val).quiet ∧ ch.armed k.val = true then
      ((ch.setFlag F.DFX_DL_STAT_ABORT_SEEN true).raise 12 (source 232 (slotQual k.val)) 0).abortSlot k.val true
    else ch

end Sys2Proof.Machine
end

