-- ==== Sys2Proof/Machine/HostLink.lean ====
section
/-! DEFINITION. The host link beside its registers (spec/04_host_link.md): configuration space, link and reference clock, failed
reads, BAR2, PTM and Lightweight Notification. -/

namespace Sys2Proof.Machine

open Sys2Proof

/-! ### Link and reference clock (R51, R75, R96) -/

/-- HOST_REFCLK_LOSS (R51, R83, R95): the PCIe domain stops, the link goes down, and the Bupin logs it. -/
def execHostRefclkLoss (c : ChipId) (s : State) : Res :=
  .next (if (s.chip c).hif.refclk = false then s
  else
    let s := s.modChip c fun ch =>
      let x : Chip := { ch with hif := { ch.hif with refclk := false, linkUp := false, linkWidth := 0, linkGen := 0 } }
      if ch.inReset then x else x.setClk 16 false
    s.modTray fun t => t.logGen 5 c.val [])

/-- HOST_REFCLK_RETURN (R83): the domain runs, and what its crossing holds leaves in order. -/
def execHostRefclkReturn (c : ChipId) (s : State) : Res :=
  onHeld s c fun ch =>
    if ch.hif.refclk then ch
    else
      let x : Chip := { ch with hif := { ch.hif with refclk := true } }
      if ch.inReset then x else (x.setClk 16 true).pcieDeliver.fetchAll

/-- CROSSING_RESYNC (R92, R93): a step of the resync. Writes that waited pass once flow resumes, and the
ring engine goes on. -/
def execCrossingResync (c : ChipId) (src : Fin 512) (dst : Fin 512) (s : State) : Res :=
  onChip s c fun ch => (ch.setXing src.val dst.val fun x => x.resync (ch.domRuns dst.val)).pcieDeliver.fetchAll

/-- PCIE_LINK_UP (R96, R119): link training ends in L0 at the negotiated width and rate. -/
def execPcieLinkUp (c : ChipId) (width : Fin 5) (gen : Fin 5) (s : State) : Res :=
  onChip s c fun ch =>
    let w := width.val
    if ch.hif.refclk && !ch.hif.linkUp && (w == 1 || w == 2 || w == 4) && gen.val != 0 then
      { ch with hif := { ch.hif with linkUp := true, linkWidth := w, linkGen := gen.val } }
    else ch

/-- The AER error of a link-layer error. -/
def linkAer : LinkErr → AerErr
  | .receiverError => .receiverError
  | .badTlp => .badTlp
  | .badDllp => .badDllp
  | .replayTimeout => .replayTimeout
  | .replayRollover => .replayRollover
  | .dataLinkProtocol => .linkProtocol
  | .receiverOverflow => .receiverOverflow
  | .flowControl => .flowControl

/-- RECEIVER_ERROR (R117): a link-layer error, correctable or of the severity that AER gives it. -/
def execReceiverError (c : ChipId) (err : LinkErr) (s : State) : Res := onChip s c fun ch => ch.aer (linkAer err)

/-- ECRC checking is enabled in the AER capability. -/
def Chip.ecrcChecked (ch : Chip) : Bool := bit (ch.cfg 0x118) 8

/-- MALFORMED_TLP (R117): the TLP is discarded; `ecrc`: it fails ECRC, which counts while checking is enabled. -/
def execMalformedTlp (c : ChipId) (ecrc : Bool) (s : State) : Res :=
  onChip s c fun ch => if ecrc then (if ch.ecrcChecked then ch.aer .ecrc else ch) else ch.aer .malformedTlp

/-- UNEXPECTED_COMPLETION (R117): no read with this tag is outstanding. -/
def execUnexpectedCompletion (c : ChipId) (tag : BitVec 8) (s : State) : Res :=
  onChip s c fun ch => if ch.hif.reads.any fun r => r.tag == tag.toNat then ch else ch.aer .unexpectedCompletion

/-- The read with a tag, moved to the front of those outstanding. -/
def Chip.readFirst (ch : Chip) (tag : Nat) : Option (ReadReq × Chip) :=
  (pickFirst (fun (r : ReadReq) => r.tag == tag) ch.hif.reads).map fun p =>
    (p.1, { ch with hif := { ch.hif with reads := p.1 :: p.2 } })

/-- COMPLETION_TIMEOUT (R117, R157): the read is abandoned, and what asked for it takes the failure. -/
def execCompletionTimeout (c : ChipId) (tag : BitVec 8) (s : State) : Res :=
  match if (s.chip c).inReset then none else (s.chip c).readFirst tag.toNat with
  | none => .next s
  | some (r, ch) =>
    let s := s.setChip c ch
    let res : ReadResult := ⟨.timeout, false, []⟩
    match r.use with
    | .doorbell line => .next (s.modChip c fun ch => ch.doorbellRead line res)
    | .descriptor n => .next (s.modChip c fun ch => ch.descRead n res)
    | .payload k => execPayloadReadComplete c (Fin.ofNat 64 k) res s
    | .image k => .next (s.modChip c fun ch => ch.imageRead k res)
    | .critical n => .next (s.modChip c fun ch => (ch.dropReads (.critical n)).readAer res)
    | .job n => .next (s.modChip c fun ch => (ch.dropReads (.job n)).readAer res)
    | .container => execFwuWriteComplete c res true s

/-! ### PTM (R109 to R111, R122) -/

/-- Dialogue `k` of an exchange starts: t1 in board time. -/
def Chip.ptmAsk (ch : Chip) (k : Nat) : Chip :=
  ({ ch with hif := { ch.hif with ptmDlg := k, ptmT1 := some ch.now } } : Chip).send .ptmRequest

/-- An exchange of two dialogues starts (R109). -/
def Chip.ptmRequest (ch : Chip) : Chip := if ch.hif.ptmEnable then ch.ptmAsk 1 else ch

/-- PTM_DIALOGUE (R109): the periodic exchange; PERIOD 0 has none. -/
def execPtmDialogue (c : ChipId) (s : State) : Res :=
  onChip s c fun ch => if ch.rd F.HIF_PTM_CTL_PERIOD = 0 then ch else ch.ptmRequest

/-- PTM_GO (R109, R122). -/
def execPtmGo (c : ChipId) (s : State) : Res := onChip s c Chip.ptmRequest

/-- LINK_DELAY of a dialogue: it saturates; of a negative delay the register's value is free. (DEDUCED, log entry 51.) -/
def Chip.linkDelay (ch : Chip) (d : Int) : Chip :=
  if d < 0 then
    let r := ch.draw
    r.2.wr F.HIF_PTM_STAT_LINK_DELAY r.1
  else ch.wr F.HIF_PTM_STAT_LINK_DELAY (min 0xFFFF d.toNat)

/-- PTM_RESPONSE (R109): the response of the first dialogue starts the second, whose ResponseD commits the offset.
(DEDUCED, log entry 51.) -/
def execPtmResponse (c : ChipId) (masterT2 : Qword) (propDelay : Dword) (s : State) : Res :=
  onChip s c fun ch =>
    match ch.hif.ptmT1 with
    | none => ch
    | some t1 =>
      if ch.hif.ptmDlg = 1 then ch.ptmAsk 2
      else
        let delay := tdivI ((ch.now : Int) - t1 - propDelay.toNat) 2
        let off : Int := (masterT2.toNat : Int) - delay - t1
        let regained := ch.hif.ptmCommitted && !ch.flag F.HIF_PTM_STAT_VALID
        let x : Chip := { ch with hif := { ch.hif with ptmDlg := 0, ptmT1 := none, ptmCommitted := true, ptmLast := ch.now } }
        let x := ((x.wr F.HIF_PTM_OFF_OFFSET (usgn 64 off)).linkDelay delay).setFlag F.HIF_PTM_STAT_VALID true
        if regained then x.msix 129 else x

/-- The correlation is lost. -/
def Chip.ptmLost (ch : Chip) : Chip :=
  if ch.flag F.HIF_PTM_STAT_VALID then
    ((ch.setFlag F.HIF_PTM_STAT_VALID false).setFlag F.HIF_PTM_STAT_LOST_SEEN true).msix 129
  else ch

/-- PTM_TIMEOUT (R111, R122): no dialogue completed within 4 × PERIOD ms, or 4 ms where PERIOD is 0. -/
def execPtmTimeout (c : ChipId) (s : State) : Res :=
  onChip s c fun ch =>
    if ch.hif.ptmLast + 4000000 * max 1 (ch.rd F.HIF_PTM_CTL_PERIOD) ≤ ch.now then ch.ptmLost else ch

/-- PTM Enable takes a value; clearing it ends the correlation at once. -/
def Chip.ptmSet (ch : Chip) (on : Bool) : Chip :=
  let x : Chip := { ch with hif := { ch.hif with ptmEnable := on, ptmDlg := if on then ch.hif.ptmDlg else 0, ptmT1 := if on then ch.hif.ptmT1 else none } }
  if on then x else x.ptmLost

/-- PTM_DISABLE (R122): PTM Enable is cleared. -/
def execPtmDisable (c : ChipId) (s : State) : Res :=
  onChip s c fun ch => (ch.setCfg 0x148 (putBits (ch.cfg 0x148) 0 1 0)).ptmSet false

/-! ### Lightweight Notification (R112 to R114, R122, R131) -/

/-- Registrations that a Registration Limit field allows. (PRESUMED, log entry 52.) -/
def lnLimit (field : Nat) : Nat := min 32 (2 ^ field)

/-- LNR Enable, CLS and Registration Limit as software sets them; the line size is taken where Enable goes from 0 to 1. -/
def Chip.lnSet (ch : Chip) (on cls : Bool) (limit : Nat) : Chip :=
  let h := ch.hif
  let x : Chip := { ch with hif := { h with
    lnrEnable := on, lnrCls := if on && !h.lnrEnable then cls else h.lnrCls, lnrLimit := lnLimit limit
    lnHeld := if on then h.lnHeld else [] } }
  x.lnUpdate

/-- LNR control as configuration space holds it. (PRESUMED, log entry 52.) -/
def lnCfg (old : Nat) (on cls : Bool) (limit : Nat) : Nat := putBits old 16 13 (bnat on + 2 * bnat cls + 256 * limit)

/-- LNR_ENABLE (R112 to R114). -/
def execLnrEnable (c : ChipId) (cls : Bool) (limit : Fin 32) (s : State) : Res :=
  onChip s c fun ch => (ch.setCfg 0x154 (lnCfg (ch.cfg 0x154) true cls limit.val)).lnSet true cls limit.val

/-- LNR_DISABLE (R114): every registration lapses. -/
def execLnrDisable (c : ChipId) (s : State) : Res :=
  onChip s c fun ch =>
    (ch.setCfg 0x154 (putBits (ch.cfg 0x154) 16 1 0)).lnSet false ch.hif.lnrCls (bits (ch.cfg 0x154) 24 5)

/-- LN_MESSAGE (R113, R122): a registered line is read and registered again; in Doze the message waits and wakes the chip. A halted
chip fetches nothing (R603). (DEDUCED, log entry 53.) -/
def execLnMessage (c : ChipId) (line : BitVec 64) (s : State) : Res :=
  onChip s c fun ch =>
    let size := 8 * ch.ringsPerLine
    let l := (line.toNat - ch.dbPage) / size
    if !ch.halted && ch.hif.lnRegs.contains l && ch.dbPage + size * l == line.toNat / size * size then
      if ch.pwr = pwrDoze ∨ ch.pwr = pwrWaking then
        ({ ch with hif := { ch.hif with lnHeld := insNat ch.hif.lnHeld l } } : Chip).wakeUp 2
      else ch.readLine true l
    else ch

/-! ### Configuration space (R97, R98, R117 to R119) -/

/-- Bytes of `v` that `be` enables, over `old`. -/
def mergeBe (be old v : Nat) : Nat :=
  (List.range 4).foldl (fun a i => if bit be i then putBits a (8 * i) 8 (bits v (8 * i) 8) else a) old

/-- The errors of an AER status register as its bits. (DESIGN CHOICE, log entry 48.) -/
def aerBits (es : List AerErr) : Nat := es.foldl (fun a e => a ||| 2 ^ e.place.2) 0

/-- A configuration dword as read: what software wrote, with the bits that follow the hardware. (DESIGN CHOICE, log entry 48.) -/
def Chip.cfgRead (ch : Chip) (off : Nat) : Nat :=
  let v := ch.cfg off
  match off with
  | 0x44 => v + (if ch.hif.d3hot then 3 else 0)
  | 0x78 => v + (if ch.hif.reads.isEmpty then 0 else 2 ^ 21)
  | 0x80 => v + 2 ^ 16 * ch.hif.linkGen + 2 ^ 20 * ch.hif.linkWidth
  | 0x104 => aerBits ch.hif.aerUnc
  | 0x110 => aerBits ch.hif.aerCor
  | 0x118 => v + (ch.hif.aerUnc.head?).elim 0 fun e => e.place.2
  | 0x11C => if ch.hif.aerUnc.isEmpty then 0 else (Config.headerLog ch.pos.val ch.draws 0).toNat
  | 0x120 => if ch.hif.aerUnc.isEmpty then 0 else (Config.headerLog ch.pos.val ch.draws 1).toNat
  | 0x124 => if ch.hif.aerUnc.isEmpty then 0 else (Config.headerLog ch.pos.val ch.draws 2).toNat
  | 0x128 => if ch.hif.aerUnc.isEmpty then 0 else (Config.headerLog ch.pos.val ch.draws 3).toNat
  | _ => v

/-- Messages that wait for a mask leave once it no longer covers them. -/
def Chip.msixFlush (ch : Chip) : Chip :=
  let go := ch.hif.pba.filter fun v => !ch.msixMasked v
  let x : Chip := { ch with hif := { ch.hif with pba := ch.hif.pba.filter ch.msixMasked } }
  go.foldl (fun (c : Chip) v => c.send (.msix v)) x

/-- D-state written to the Power Management capability: 0 is D0 and 3 D3hot; the others are not supported. -/
def Chip.setD (ch : Chip) (d : Nat) : Chip :=
  if d = 0 ∨ d = 3 then { ch with hif := { ch.hif with d3hot := d == 3 } } else ch

/-- A configuration write, but for Initiate FLR. (DESIGN CHOICE, log entry 49.) -/
def Chip.cfgWrite (ch : Chip) (off be v : Nat) : Chip :=
  let old := ch.cfg off
  let new := (old - (old &&& cfgMask off)) + (mergeBe be old v &&& cfgMask off)
  let x := if cfgMask off = 0 then ch else ch.setCfg off new
  let ones := mergeBe be 0 v
  match off with
  | 0x44 => if bit be 0 then ch.setD (bits v 0 2) else ch
  | 0x50 => x.msixFlush
  | 0x104 => { ch with hif := { ch.hif with aerUnc := ch.hif.aerUnc.filter fun e => !bit ones e.place.2 } }
  | 0x110 => { ch with hif := { ch.hif with aerCor := ch.hif.aerCor.filter fun e => !bit ones e.place.2 } }
  | 0x148 => x.ptmSet (bit new 0)
  | 0x154 => x.lnSet (bit new 16) (bit new 17) (bits new 24 5)
  | _ => x

/-- CONFIG_REQUEST (R97, R118, R119, R122): answered once the chip is ready, with Initiate FLR acting after the answer.
(DESIGN CHOICE, log entry 50.) -/
def execConfigRequest (c : ChipId) (wr : Bool) (off : BitVec 12) (be : BitVec 4) (v : Dword) (s : State) : Res :=
  let ch := s.chip c
  let o := off.toNat / 4 * 4
  if ch.inReset && !ch.hif.linkUp then .next s
  else if ch.hif.state = .reset ∨ ch.hif.state = .starting then .next (s.modChip c fun ch => ch.send (.cpl .crs false []))
  else if wr then
    let s := s.modChip c fun ch => (ch.cfgWrite o be.toNat v.toNat).send (.cpl .sc false [])
    .next (if o = 0x78 ∧ bit be.toNat 1 ∧ bit v.toNat 15 then s.warmReset c rstFlr else s)
  else .next (s.modChip c fun ch => ch.send (.cpl .sc false (toLe 4 (ch.cfgRead o))))

/-- PM_STATE_CHANGE (R97, R122): no reset in either direction. -/
def execPmStateChange (c : ChipId) (d3hot : Bool) (s : State) : Res :=
  onChip s c fun ch => if ch.hif.state = .starting then ch else ch.setD (if d3hot then 3 else 0)

/-! ### BAR2 (R105, R106, R658, R669) -/

/-- The image window is open: MODE is ROM and no check runs (R105, R669). -/
def Chip.imageOpen (ch : Chip) : Bool := ch.romMode && ch.hif.bmState != 1

/-- Enabled bytes written into the firmware image window from offset `o` on. -/
def Chip.imageStore (ch : Chip) (o : Nat) (bs : List (Option Byte)) : Chip :=
  { ch with hif := { ch.hif with
    image := bs.zipIdx.foldl (fun (m : Tab Byte) e => match e.1 with
      | some b => Tab.set 0#8 m (o + e.2) b
      | none => m) ch.hif.image } }

/-- IMAGE_WINDOW_WRITE (R105, R117, R122, R669): contiguous bytes from offset `off` of the window. -/
def execImageWindowWrite (c : ChipId) (off : BitVec 24) (ep : Bool) (data : List Byte) (s : State) : Res :=
  onChip s c fun ch =>
    let bar := 0x1000000 + off.toNat
    if !ch.memSpace then ch.aer .unsupportedRequest
    else if ep then (ch.hifErr 4 true bar).aer .poisonedTlp
    else if ch.imageOpen then ch.imageStore off.toNat ((data.take (0x1000000 - off.toNat)).map some)
    else ch.hifErr 6 true bar

/-- A memory byte that the debug window reaches (R105, R372, R501). (DEDUCED, log entry 60.) -/
def Chip.dbgMem (ch : Chip) (a : Nat) : Bool :=
  (decide (a < 0x40000) || (decide (packBase 0 ≤ a) && decide (a < packBase 12)) || ch.inShared a 1) &&
    (ch.pixelTap || !(ch.tapped.any (inSpan a)))

/-- A byte read through the debug window. (DEDUCED, log entry 60.) -/
def Chip.dbgByte (ch : Chip) (a : Nat) : Byte :=
  if romBase ≤ a ∧ a < romBase + 0x10000 then Config.bootRom (a - romBase)
  else if ch.dbgMem a then ch.byte a else 0#8

/-- Bytes written one run of enabled, reachable bytes after another: a run covers whole granules as one write. -/
def Chip.dbgStore (ch : Chip) (a : Nat) (run : List Byte) : List (Option Byte) → Chip
  | [] => if run.isEmpty then ch else ch.store (a - run.length) run.reverse false
  | b :: t =>
    match if ch.dbgMem a then b else none with
    | some x => ch.dbgStore (a + 1) (x :: run) t
    | none => (if run.isEmpty then ch else ch.store (a - run.length) run.reverse false).dbgStore (a + 1) [] t

/-- A byte of the boot mailbox as it reads (R669): BM_CTL, BM_LEN, BM_STAT, BM_FLOOR; it exists in ROM mode. -/
def Chip.mailboxByte (ch : Chip) (o : Nat) : Byte :=
  let w := match o / 4 with
    | 1 => ch.hif.bmLen
    | 2 => ch.hif.bmState + 16 * ch.hif.bmReason
    | 3 => ch.hif.bmFloor
    | _ => 0
  BitVec.ofNat 8 (bits w (8 * (o % 4)) 8)

/-- A byte of BAR2 as the host reads it (R105). `a` is the flat address that offset 0 of the debug window maps onto. -/
def Chip.bar2Byte (ch : Chip) (a o : Nat) : Byte :=
  if o < 0x1000 then ch.mailboxByte o
  else if o < 0x1000000 then 0#8
  else if o < 0x2000000 then (if ch.romMode then Tab.get 0#8 ch.hif.image (o - 0x1000000) else 0#8)
  else if ch.develop then ch.dbgByte (a + (o - 0x2000000))
  else 0#8

/-- A dword write of the boot mailbox (R99, R669). BM_LEN keeps its value outside ROM mode, where GO starts nothing. -/
def Chip.mailboxWrite (ch : Chip) (o be v : Nat) : Chip :=
  if be ≠ 15 then ch.hifErr 1 true o
  else match o / 4 with
    | 0 => if bit v 0 then ch.bootGo else ch
    | 1 => { ch with hif := { ch.hif with bmLen := v % 2 ^ 25 } }
    | _ => ch

/-- Enabled bytes from an offset on as dwords in ascending order: offset, byte enables and value. -/
def asDwords (o : Nat) (bs : List (Option Byte)) : List (Nat × Nat × Nat) :=
  let bs := List.replicate (o % 4) none ++ bs
  (List.range ((bs.length + 3) / 4)).map fun i =>
    let d := (bs.drop (4 * i)).take 4
    (o / 4 * 4 + 4 * i, d.zipIdx.foldl (fun a e => a + bnat e.1.isSome * 2 ^ e.2) 0, leNat (d.map fun b => b.getD 0#8))

/-- A write of enabled bytes to BAR2 (R105). A TLP lies within one region. -/
def Chip.bar2Write (ch : Chip) (a o : Nat) (data : List (Option Byte)) : Chip :=
  if o < 0x1000 then (asDwords o data).foldl (fun (c : Chip) d => c.mailboxWrite d.1 d.2.1 d.2.2) ch
  else if o < 0x1000000 then (asDwords o data).foldl (fun (c : Chip) d => c.hifErr 2 true d.1) ch
  else if o < 0x2000000 then (if ch.imageOpen then ch.imageStore (o - 0x1000000) data else ch.hifErr 6 true o)
  else if ch.develop then ch.dbgStore (a + (o - 0x2000000)) [] data
  else ch

/-- DEBUG_WINDOW_ACCESS (R105, R106, R117, R501, R54): the debug window, and every other access of BAR2: the boot mailbox (R669), the
reserved region, and the image window. -/
def execDebugWindowAccess (c : ChipId) (off : BitVec 26) (acc : WindowAccess) (s : State) : Res :=
  onChip s c fun ch =>
    let o := off.toNat
    let a := ch.rd F.HIF_DBG_BASE_BASE * 2 ^ 25
    match acc with
    | .read n =>
      let n := min n (0x4000000 - o)
      if !ch.memSpace then ch.unsupported
      else
        let os := (List.range n).map (o + ·)
        let ep := ch.develop && os.any fun x =>
          let m := a + (x - 0x2000000)
          decide (0x2000000 ≤ x) && decide (dramBase ≤ m) && ch.dbgMem m && ch.isPoisoned m
        ch.cplData ep (os.map (ch.bar2Byte a)) n
    | .write ep data =>
      if !ch.memSpace then ch.aer .unsupportedRequest
      else if ep then (ch.hifErr 4 true o).aer .poisonedTlp
      else ch.bar2Write a o (data.take (0x4000000 - o))

end Sys2Proof.Machine
end

