-- ==== Sys2Proof/Machine/Dma.lean ====
section
/-! DEFINITION. The DMA engine (spec/18_latch_trail.md R554 to R556, R560). -/

namespace Sys2Proof.Machine

open Sys2Proof

/-- STATUS codes of a DMA completion word (R560). -/
def dmaBadJob : Nat := 1
def dmaBadAddr : Nat := 2
def dmaEmpty : Nat := 3
def dmaLink : Nat := 4

def maxCopy : Nat := 16777216

/-- The descriptor `n` bytes further on. -/
def descPlus (d n : Nat) : Nat := d / 2 ^ 48 * 2 ^ 48 + min (2 ^ 48 - 1) (bits d 0 48 + n)

/-- The chip a descriptor names. -/
def descChip (d : Nat) : Nat := bits d 50 2

/-- A request payload (R558). -/
def Chip.reqPayload (ch : Chip) (poison last : Bool) (tag len lop target : Nat) (data : List Byte) : List Byte :=
  zeros 1 ++ toLe 1 (bnat poison + 2 * bnat last) ++ toLe 2 tag ++ toLe 2 len ++ toLe 1 lop ++ toLe 1 ch.pos.val ++ toLe 8 target ++
    padTo 40 data

/-- Bytes copied inside the chip, read before any is written; poison goes with them, by line of the source (R57). -/
def Chip.copyLocal (ch : Chip) (src dst len : Nat) : Chip :=
  let o := src % 64
  (List.range ((len + o + 63) / 64)).foldl (fun (c : Chip) i =>
    let lo := 64 * i - o
    let n := min len (64 * (i + 1) - o) - lo
    c.store (dst + lo) (ch.bytes (src + lo) n) (ch.isPoisoned (src + lo))) ch

/-- WRITE flits for `n` bytes from flat address `a` to a remote descriptor; the last one carries LAST. -/
def Chip.writeFlits (ch : Chip) (a dst tag n : Nat) : Chip :=
  (List.range ((n + 39) / 40)).foldl (fun (c : Chip) i =>
    let k := min 40 (n - 40 * i)
    c.sendFlit (descChip dst) 1 2 (c.reqPayload (c.anyPoison (a + 40 * i) k) (decide (n ≤ 40 * i + k)) tag k 0
      (descPlus dst (40 * i)) (c.bytes (a + 40 * i) k))) ch

/-- The running COPY issues requests while fewer than 16 are out (R554). -/
def Chip.dmaPump (ch : Chip) : Nat → Chip
  | 0 => ch
  | fuel + 1 =>
    match ch.trail.dma with
    | none => ch
    | some d =>
      let len := fieldAt d.blk 4 4
      if fieldAt d.blk 0 1 ≠ 1 ∨ len ≤ d.next ∨ 16 ≤ d.reqs.length then ch
      else
        let src := fieldAt d.blk 8 8
        let dst := fieldAt d.blk 16 8
        let n := min 4096 (len - d.next)
        let tag := d.next / 4096
        let put (c : Chip) (r : DmaReq) : Chip := c.setTrail fun t =>
          { t with dma := some { d with next := d.next + n, reqs := d.reqs ++ [r] } }
        match ch.descAddr none src len, ch.descAddr none dst len with
        | some a, some b =>
          let poison := ch.anyPoison a len
          (ch.copyLocal a b len).setTrail fun t => { t with dma := some { d with next := len, poison := d.poison || poison } }
        | some a, none =>
          let p := ch.anyPoison (a + d.next) n
          let c := ch.setTrail fun t => { t with dma := some { d with poison := d.poison || p } }
          let c := c.setTrail fun t => { t with dma := t.dma.map fun e =>
            { e with next := d.next + n, reqs := d.reqs ++ [⟨tag, descChip dst, 0, n⟩] } }
          if c.routeCode (descChip dst) = 3 then c.dmaLost fun x => x == descChip dst
          else (c.writeFlits (a + d.next) (descPlus dst d.next) tag n).dmaPump fuel
        | none, some b =>
          let c := put ch ⟨tag, descChip src, b + d.next, n⟩
          if c.routeCode (descChip src) = 3 then c.dmaLost fun x => x == descChip src
          else (c.sendFlit (descChip src) 1 1 (c.reqPayload false false tag n 0 (descPlus src d.next) [])).dmaPump fuel
        | none, none => ch

/-- A response to the request of its TAG. -/
def Chip.dmaAnswer (ch : Chip) (tag bytes : Nat) (bad poison : Bool) : Chip :=
  (ch.setTrail fun t => { t with dma := t.dma.map fun d => { d with
    status := if bad then dmaBadAddr else d.status
    poison := d.poison || poison
    reqs := (d.reqs.map fun r => if r.tag = tag then { r with left := if bad then 0 else r.left - bytes } else r).filter
      fun r => decide (0 < r.left) } }).dmaPump 16

/-- The request of a TAG that is out. -/
def Chip.dmaReq (ch : Chip) (tag : Nat) : Option DmaReq := ch.trail.dma.bind fun d => d.reqs.find? fun r => r.tag == tag

/-- The completion word (R560). -/
def dmaWord (blk : List Byte) (st : Nat) : Nat := st + fieldAt blk 56 4 * 2 ^ 32

/-- Fields that every job must satisfy (R232, R560). -/
def dmaFieldsOk (blk : List Byte) : Bool :=
  reservedZero blk [(2, 2), (60, 4), (72, 56)] && tagOk blk 40 && fieldAt blk 40 2 / 2 ^ 14 < 4

/-- A descriptor names memory a job may use: SPACE 0 or 1, and on this chip an extent that exists. (DEDUCED, log entry 127.) -/
def Chip.dmaDescOk (ch : Chip) (d n : Nat) : Bool :=
  decide (bits d 48 2 ≤ 1) && (descChip d != ch.pos.val || (ch.descAddr none d n).isSome)

/-- A job begins. (DEDUCED, log entry 127.) -/
def Chip.dmaStart (ch : Chip) (j : QJob) : Chip :=
  (ch.setTrail fun t => { t with dma := some ⟨j.slot, j.blk, 0, j.poison, 0, []⟩ }).setFlag F.TRL_DMA_STAT_BUSY true

/-- JOP of the job at HEAD. -/
def Chip.dmaHeadJop (ch : Chip) : Nat :=
  let a := ch.load (ch.qSlot .dma (ch.qHead .dma)) 8
  if ch.inShared a 128 then ch.load a 1 else 0

/-- COPY (R554, R560): the engine takes the job at HEAD and issues its requests; a running one goes on issuing. A job that is
neither COPY nor ATOMIC is refused here. -/
def execCopy (c : ChipId) (s : State) : Res :=
  onIsland s c fun ch =>
    if ch.trail.dma.isSome then ch.dmaPump 16
    else if ch.dmaHeadJop = 2 then ch
    else match ch.takeJob .dma with
      | (none, ch) => ch
      | (some j, ch) =>
        let len := fieldAt j.blk 4 4
        let src := fieldAt j.blk 8 8
        let dst := fieldAt j.blk 16 8
        if fieldAt j.blk 0 1 ≠ 1 ∨ dmaFieldsOk j.blk = false ∨ maxCopy < len then ch.qRefuse .dma j 40 (dmaWord j.blk dmaBadJob)
        else if len = 0 then ch.qToken (jobToken j.blk 40 (dmaWord j.blk dmaEmpty) j.poison)
        else if ch.dmaDescOk src len = false ∨ ch.dmaDescOk dst len = false ∨
            (descChip src ≠ ch.pos.val ∧ descChip dst ≠ ch.pos.val) then
          ch.qRefuse .dma j 40 (dmaWord j.blk dmaBadAddr)
        else (ch.dmaStart j).dmaPump 16

/-- ATOMIC (R534, R554, R560): a Latch operation on any chip; the old value goes to RESULT. -/
def execAtomic (c : ChipId) (s : State) : Res :=
  onIsland s c fun ch =>
    if ch.trail.dma.isSome ∨ ch.dmaHeadJop ≠ 2 then ch
    else match ch.takeJob .dma with
      | (none, ch) => ch
      | (some j, ch) =>
        let lop := fieldAt j.blk 1 1
        let target := fieldAt j.blk 16 8
        let res := fieldAt j.blk 48 8
        let v := BitVec.ofNat 64 (fieldAt j.blk 24 8)
        let cmp := BitVec.ofNat 64 (fieldAt j.blk 32 8)
        if dmaFieldsOk j.blk = false ∨ 9 ≤ lop then ch.qRefuse .dma j 40 (dmaWord j.blk dmaBadJob)
        else if ch.dmaDescOk target 8 = false ∨ target % 8 ≠ 0 ∨ res % 8 ≠ 0 ∨ ch.inShared res 8 = false then
          ch.qRefuse .dma j 40 (dmaWord j.blk dmaBadAddr)
        else
          let c := ch.dmaStart j
          match c.descAddr none target 8 with
          | some a =>
            let r := c.latchOp a lop v cmp j.poison
            (r.2.2.store res (toLe 8 r.1.toNat) r.2.1).setTrail fun t =>
              { t with dma := t.dma.map fun d => { d with poison := d.poison || r.2.1 } }
          | none =>
            let c := c.setTrail fun t => { t with dma := t.dma.map fun d => { d with reqs := [⟨0, descChip target, res, 8⟩] } }
            if c.routeCode (descChip target) = 3 then c.dmaLost fun x => x == descChip target
            else c.sendFlit (descChip target) 1 3 (c.reqPayload j.poison false 0 8 lop target (toLe 8 v.toNat ++ toLe 8 cmp.toNat))

/-- DMA_JOB_COMPLETE (R556): every byte moved and every answer in, or the job lost; the token leaves. -/
def execDmaJobComplete (c : ChipId) (s : State) : Res :=
  onIsland s c fun ch =>
    match ch.trail.dma with
    | none => ch
    | some d =>
      let whole := decide (fieldAt d.blk 0 1 = 2) || decide (fieldAt d.blk 4 4 ≤ d.next)
      if d.reqs.isEmpty && whole then
        ((ch.setTrail fun t => { t with dma := none }).setFlag F.TRL_DMA_STAT_BUSY false).qToken
          (jobToken d.blk 40 (dmaWord d.blk d.status) d.poison)
      else ch

end Sys2Proof.Machine
end

