-- ==== Sys2Proof/Machine/Trail.lean ====
section
/-! DEFINITION. Trail: the flits of R558 as they arrive, and the events of a link (spec/18_latch_trail.md). -/

namespace Sys2Proof.Machine

open Sys2Proof

/-- A flit of a kind arrives and, where it is delivered, acts on the chip. -/
def onFlit (s : State) (c : ChipId) (l : Fin 2) (h : FlitHdr) (pl : List Byte) (vc kind : Nat) (act : Chip → List Byte → Chip) :
    Res :=
  onChip s c fun ch =>
    match ch.arrive l.val h pl vc kind with
    | (none, ch) => ch
    | (some p, ch) => act ch p

/-! ### Virtual channel 0 -/

/-- A token that leaves a link goes to its home pack; one without a home goes to the Inn of pack 0, which discards it (R283). -/
def Chip.trailToken (ch : Chip) (t : BitVec 128) : Chip :=
  match ch.trailCheck t with
  | (none, ch) => ch
  | (some t, ch) =>
    let home := ((ch.ctxSlot (Token.context t)).bind fun s => ch.placeOf s (Token.node t)).elim 0 fun pl =>
      if pl.chip = ch.pos.val then pl.pack else 0
    ch.toInn home srcTrail t

/-- TRAIL_IDLE (R545). -/
def execTrailIdle (c : ChipId) (l : Fin 2) (h : FlitHdr) (_p : List Byte) (s : State) : Res :=
  onChip s c fun ch => (ch.receive l.val h).2

/-- TRAIL_TOKENS (R268, R548, R558). -/
def execTrailTokens (c : ChipId) (l : Fin 2) (h : FlitHdr) (p : List Byte) (s : State) : Res :=
  onFlit s c l h p 0 1 fun ch p =>
    (List.range (min 3 (fieldAt p 48 1))).foldl (fun c i => c.trailToken (BitVec.ofNat 128 (fieldAt p (16 * i) 16))) ch

/-- TRAIL_CLOSE (R309, R558). -/
def execTrailClose (c : ChipId) (l : Fin 2) (h : FlitHdr) (p : List Byte) (s : State) : Res :=
  onFlit s c l h p 0 2 fun ch p =>
    (List.range (min 6 (fieldAt p 48 1))).foldl (fun (c : Chip) i =>
      let n := fieldAt p (8 * i) 8
      let slot := bits n 0 4
      let loop := bits n 8 16
      match (c.graphOf slot).bind fun g => (g.loops[loop]?).bind fun e => g.place[e.1]? with
      | some pl =>
        if pl.chip = c.pos.val then
          let x := c.inn pl.pack
          c.setInn pl.pack { x with notices := x.notices ++ [(slot, loop, bits n 24 10)] }
        else c
      | none => c) ch

/-! ### Virtual channel 1: requests served (R554, R555) -/

/-- A response payload (R558). -/
def respPayload (poison : Bool) (tag off len status : Nat) (data : List Byte) : List Byte :=
  zeros 1 ++ toLe 1 (bnat poison) ++ toLe 2 tag ++ toLe 2 off ++ toLe 1 len ++ toLe 1 status ++ padTo 48 data

/-- Status code BAD_ADDR of a response. -/
def respBadAddr : Nat := 1

/-- TRAIL_READ (R555): DATA responses of at most 48 bytes. -/
def execTrailRead (c : ChipId) (l : Fin 2) (h : FlitHdr) (p : List Byte) (s : State) : Res :=
  onFlit s c l h p 1 1 fun ch p =>
    let tag := fieldAt p 2 2
    let len := fieldAt p 4 2
    let src := fieldAt p 7 1 % 4
    match ch.descAddr none (fieldAt p 8 8) len with
    | none => ch.sendFlit src 2 1 (respPayload false tag 0 0 respBadAddr [])
    | some a =>
      (List.range ((len + 47) / 48)).foldl (fun (c : Chip) i =>
        let n := min 48 (len - 48 * i)
        c.sendFlit src 2 1 (respPayload (c.anyPoison (a + 48 * i) n) tag (48 * i) n 0 (c.bytes (a + 48 * i) n))) ch

/-- TRAIL_WRITE (R555): the data is stored; a LAST write is acknowledged, with BAD_ADDR if a write of its TAG was out of range. -/
def execTrailWrite (c : ChipId) (l : Fin 2) (h : FlitHdr) (p : List Byte) (s : State) : Res :=
  onFlit s c l h p 1 2 fun ch p =>
    let tag := fieldAt p 2 2
    let len := min 40 (fieldAt p 4 2)
    let src := fieldAt p 7 1 % 4
    let key := (src, tag)
    let (c, bad) := match ch.descAddr none (fieldAt p 8 8) len with
      | some a => (ch.store a ((p.drop 16).take len) (bit (fieldAt p 1 1) 0), ch.trail.badWrites.contains key)
      | none => (ch, true)
    let rest := c.trail.badWrites.filter fun e => e != key
    if bit (fieldAt p 1 1) 1 then
      (c.setTrail fun t => { t with badWrites := rest }).sendFlit src 2 2 (respPayload false tag 0 0 (if bad then respBadAddr else 0) [])
    else if bad then c.setTrail fun t => { t with badWrites := rest ++ [key] }
    else c

/-- TRAIL_ATOMIC (R534, R555): a Latch operation, answered with the old value. -/
def execTrailAtomic (c : ChipId) (l : Fin 2) (h : FlitHdr) (p : List Byte) (s : State) : Res :=
  onFlit s c l h p 1 3 fun ch p =>
    let tag := fieldAt p 2 2
    let src := fieldAt p 7 1 % 4
    match ch.descAddr none (fieldAt p 8 8) 8 with
    | some a =>
      if a % 8 = 0 ∧ fieldAt p 6 1 ≤ 8 then
        let r := ch.latchOp a (fieldAt p 6 1) (BitVec.ofNat 64 (fieldAt p 16 8)) (BitVec.ofNat 64 (fieldAt p 24 8))
          (bit (fieldAt p 1 1) 0)
        r.2.2.sendFlit src 2 3 (respPayload r.2.1 tag 0 8 0 (toLe 8 r.1.toNat))
      else ch.sendFlit src 2 3 (respPayload false tag 0 0 respBadAddr [])
    | none => ch.sendFlit src 2 3 (respPayload false tag 0 0 respBadAddr [])

/-! ### Virtual channel 2: responses to the DMA engine -/

/-- DATA (R554, R558): read data for the DMA engine's job. -/
def execTrailData (c : ChipId) (l : Fin 2) (h : FlitHdr) (p : List Byte) (s : State) : Res :=
  onFlit s c l h p 2 1 fun ch p =>
    let tag := fieldAt p 2 2
    let len := min 48 (fieldAt p 6 1)
    match ch.dmaReq tag with
    | none => ch
    | some r =>
      if fieldAt p 7 1 = respBadAddr then ch.dmaAnswer tag 0 true false
      else
        let poison := bit (fieldAt p 1 1) 0
        (ch.store (r.dst + fieldAt p 4 2) ((p.drop 8).take len) poison).dmaAnswer tag len false poison

/-- WACK (R554, R555). -/
def execWack (c : ChipId) (l : Fin 2) (h : FlitHdr) (p : List Byte) (s : State) : Res :=
  onFlit s c l h p 2 2 fun ch p =>
    let tag := fieldAt p 2 2
    match ch.dmaReq tag with
    | none => ch
    | some r => ch.dmaAnswer tag r.left (fieldAt p 7 1 == respBadAddr) false

/-- ARES (R554): the old value goes to RESULT. -/
def execAres (c : ChipId) (l : Fin 2) (h : FlitHdr) (p : List Byte) (s : State) : Res :=
  onFlit s c l h p 2 3 fun ch p =>
    let tag := fieldAt p 2 2
    match ch.dmaReq tag with
    | none => ch
    | some r =>
      if fieldAt p 7 1 = respBadAddr then ch.dmaAnswer tag 0 true false
      else
        let poison := bit (fieldAt p 1 1) 0
        (ch.store r.dst ((p.drop 8).take 8) poison).dmaAnswer tag r.left false poison

/-! ### Virtual channel 3 -/

/-- A saturating unsigned value of `w` bits. -/
def satU (w : Nat) (x : Int) : Nat := (clampI 0 (2 ^ w - 1) x).toNat

/-- A TIME flit accepted on link `l` (R553). It is ignored within 2 µs after a NAK that this side sent; it yields no result before
this side's first TIME flit was answered. (DEDUCED, log entry 126.) -/
def Chip.timeFlit (ch : Chip) (l : Nat) (p : List Byte) : Chip :=
  let k := ch.link l
  let now := ch.now
  let ignored := match k.nakTime with
    | some t => decide (now < t + 2000)
    | none => false
  if ignored then ch
  else
    let t3 := fieldAt p 0 8
    let t1 := fieldAt p 8 8
    let t2 := fieldAt p 16 8
    let c := ch.setLink l { k with rx := some (t3, now) }
    if t1 = 0 then c
    else
      let offset := tdivI (((t2 : Int) - t1) + ((t3 : Int) - now)) 2
      let delay := tdivI (((now : Int) - t1) - ((t3 : Int) - t2)) 2
      let c := (c.wr (F.TRL_TIME_OFF l) (usgn 16 (satI 16 offset))).wr (F.TRL_TIME_DELAY l) (satU 16 delay)
      let limit := ch.rd F.TRL_GCFG_LIMIT
      if limit ≠ 0 ∧ limit < offset.natAbs then
        let n := k.excess + 1
        let c := c.setLink l { c.link l with excess := n }
        if 3 ≤ n then (c.setFlag (F.TRL_STAT_EXCESS_SEEN l) true).raise 19 (source (273 + l) 0)
            (c.rd (F.TRL_TIME_OFF l) + c.rd (F.TRL_TIME_DELAY l) * 2 ^ 16)
        else c
      else c.setLink l { c.link l with excess := 0 }

/-- TIME (R553). (DEDUCED, log entry 126.) -/
def execTrailTime (c : ChipId) (l : Fin 2) (h : FlitHdr) (p : List Byte) (s : State) : Res :=
  onFlit s c l h p 3 1 fun ch p => ch.timeFlit l.val p

/-- A LINKS message (R547): the ring links at its origin are taken from it; the neighbour's own message is relayed once.
(DEDUCED, log entry 125.) -/
def Chip.linksFlit (ch : Chip) (l : Nat) (p : List Byte) : Chip :=
  let up := fieldAt p 0 1
  let origin := fieldAt p 1 1 % 4
  let own := ch.pos.val
  let theirs := [origin, (origin + 3) % 4].filter fun i => i != own && i != (own + 3) % 4
  let ring := theirs.foldl (fun r i => putBits r i 1 (bits up i 1)) (ch.rd F.TRL_RING_UP)
  let c := (ch.wr F.TRL_RING_UP ring).routeSync
  let o := 1 - l
  if origin = ch.neighbour l ∧ c.trlState o = trlUp then
    c.queueFlit o ⟨3, 2, newHdr (c.neighbour o) false, padTo 56 (toLe 1 up ++ toLe 1 origin)⟩
  else c

/-- LINKS (R547). -/
def execLinks (c : ChipId) (l : Fin 2) (h : FlitHdr) (p : List Byte) (s : State) : Res :=
  onFlit s c l h p 3 2 fun ch p => ch.linksFlit l.val p

/-- MARK (R549): answered with the same serial. -/
def execMark (c : ChipId) (l : Fin 2) (h : FlitHdr) (p : List Byte) (s : State) : Res :=
  onFlit s c l h p 3 5 fun ch p => ch.sendFlit (fieldAt p 1 1 % 4) 3 6 (p.take 4)

/-- MARK_ACK (R549): once every virtual channel was answered, the preferred route returns. -/
def execMarkAck (c : ChipId) (l : Fin 2) (h : FlitHdr) (p : List Byte) (s : State) : Res :=
  onFlit s c l h p 3 6 fun ch p =>
    if fieldAt p 2 2 = ch.trail.markSerial ∧ ch.trail.marks.contains (fieldAt p 0 1) then
      let rest := ch.trail.marks.filter fun v => v != fieldAt p 0 1
      (ch.setTrail fun t => { t with marks := rest, detour := !rest.isEmpty }).routeSync
    else ch

/-- SLEEP (R552): the neighbour enters Doze; this side holds its queue for the link. -/
def execSleep (c : ChipId) (l : Fin 2) (h : FlitHdr) (p : List Byte) (s : State) : Res :=
  onFlit s c l h p 3 7 fun ch _ =>
    let c := ch.wr (F.TRL_STAT_STATE l.val) trlSleep
    (c.setLink l.val { c.link l.val with resume := true }).msix 133

/-- SLOT_ANNOUNCE (R298): the announcement is kept; the slot arms once every chip of CHIPS agrees. -/
def execSlotAnnounce (c : ChipId) (l : Fin 2) (h : FlitHdr) (p : List Byte) (s : State) : Res :=
  onFlit s c l h p 3 3 fun ch p =>
    if fieldAt p 0 1 = 1 ∧ fieldAt p 1 1 < 16 then
      let k := fieldAt p 1 1
      let from' := match h.hop, l.val with
        | true, _ => (ch.pos.val + 2) % 4
        | false, l => ch.neighbour l
      let x := ch.slot k
      (ch.setSlot k { x with announced := x.announced.filter (fun a => a.1 != from') ++
        [(from', fieldAt p 2 2, fieldAt p 4 2, fieldAt p 8 4)] }).tryArm k
    else ch

/-- SLOT_ABORT (R298): the shared graph is aborted on this chip. -/
def execSlotAbort (c : ChipId) (l : Fin 2) (h : FlitHdr) (p : List Byte) (s : State) : Res :=
  onFlit s c l h p 3 3 fun ch p =>
    if fieldAt p 0 1 = 2 ∧ fieldAt p 1 1 < 16 then ch.abortSlot (fieldAt p 1 1) false else ch

/-- SLOT_ACTIVITY (R315): the bits of another chip for the present interval. -/
def execSlotActivity (c : ChipId) (l : Fin 2) (h : FlitHdr) (p : List Byte) (s : State) : Res :=
  onFlit s c l h p 3 3 fun ch p =>
    if fieldAt p 0 1 = 3 then
      let from' := if h.hop then (ch.pos.val + 2) % 4 else ch.neighbour l.val
      (List.range 16).foldl (fun (c : Chip) k =>
        let x := c.slot k
        if x.st == .armed && ((x.graph.map fun g => bit g.chips from').getD false) then
          c.setSlot k { x with activity := x.activity.filter (fun a => a.1 != from') ++
            [(from', bit (fieldAt p 12 2) k, bit (fieldAt p 14 2) k)] }
        else c) ch
    else ch

/-- MOTION (R464, R465, R558): a piece of a message between the Coachmen of E0 and E2. -/
def execTrailMotion (c : ChipId) (l : Fin 2) (h : FlitHdr) (p : List Byte) (s : State) : Res :=
  onFlit s c l h p 3 4 fun ch p =>
    let code := fieldAt p 0 1
    match ch.motionPiece code (fieldAt p 1 1) (fieldAt p 2 1) (p.drop 8) with
    | (none, ch) => ch
    | (some d, ch) => ch.motionMsg (if ch.pos = 0 then s.e2 else s.e0) code d

/-! ### Events of a link -/

/-- A KIND of a virtual channel that R558 lists. -/
def kindListed (vc kind : Nat) : Bool :=
  match vc with
  | 0 => decide (kind ≤ 2)
  | 1 => decide (1 ≤ kind) && decide (kind ≤ 3)
  | 2 => decide (1 ≤ kind) && decide (kind ≤ 3)
  | _ => decide (1 ≤ kind)

/-- TRAIL_BAD_FLIT (R544, R558): a flit whose CRC fails, one out of sequence, or one with an unlisted KIND, which is discarded and counted
in TRL_DROP. -/
def execTrailBadFlit (c : ChipId) (l : Fin 2) (b : BadFlit) (s : State) : Res :=
  onChip s c fun ch =>
    let k := ch.link l.val
    if ch.trlState l.val ≠ trlUp then ch
    else match b with
      | .crc => ((ch.setLink l.val { k with nak := true }).count (F.TRL_CRC_COUNT l.val) (F.TRL_STAT_OVF l.val) 0).raise 16
          (source (273 + l.val) 0) k.expected
      | .sequence q =>
        let d := (q.toNat + 256 - k.expected) % 256
        if d = 0 ∨ 128 ≤ d then ch else ch.setLink l.val { k with nak := true }
      | .unlisted h vc kind =>
        if kindListed vc.val kind.val then ch
        else match ch.receive l.val h with
          | (false, c) => c
          | (true, c) => (c.freeFlit l.val (2 * vc.val + bnat h.hop)).trailDrop l.val 1

/-- FLIT_TRANSMIT (R546). -/
def execFlitTransmit (c : ChipId) (l : Fin 2) (s : State) : Res := onChip s c fun ch => ch.transmit l.val

/-- REPLAY_TIMEOUT (R544): 2 µs without ACK progress while flits are unacknowledged. -/
def execReplayTimeout (c : ChipId) (l : Fin 2) (s : State) : Res :=
  onChip s c fun ch =>
    let k := ch.link l.val
    if ch.trlState l.val ≠ trlUp ∨ k.replay = [] then ch
    else if 4 ≤ k.resends then ch.retrain l.val
    else ch.resendAll l.val

/-- LINKS_BROADCAST (R547). -/
def execLinksBroadcast (c : ChipId) (s : State) : Res := onChip s c fun ch => ch.sendLinks

/-- TIME_EXCHANGE_SEND (R553): none with TIME_MS 0 (R564). -/
def execTimeExchangeSend (c : ChipId) (l : Fin 2) (s : State) : Res :=
  onChip s c fun ch =>
    if ch.rd F.TRL_GCFG_TIME_MS = 0 ∨ ch.trlState l.val ≠ trlUp then ch
    else ch.queueFlit l.val ⟨3, 1, newHdr (ch.neighbour l.val) false, zeros 56⟩

/-- LANE_FAILURE (R541, R550): lane errors counted; a lane without block lock, or with 16 errors within 1 ms, has failed. -/
def execLaneFailure (c : ChipId) (l : Fin 2) (_lane : Fin 4) (lock : Bool) (errs : Nat) (s : State) : Res :=
  onChip s c fun ch =>
    let st := ch.trlState l.val
    if st = trlOff ∨ st = trlSleep ∨ st = trlDown then ch
    else
      let c := ch.countN (F.TRL_LANE_ERR_COUNT l.val) (F.TRL_STAT_OVF l.val) 4 errs
      if !lock || decide (16 ≤ errs) then c.retrain l.val else c

/-- TRAIL_RETRAIN (R550): TRL_CTL.RETRAIN written. -/
def execTrailRetrain (c : ChipId) (l : Fin 2) (s : State) : Res := 
  onChip s c fun ch => ch.whenPowered (F.TRL_CTL_RETRAIN l.val).reg 2 fun ch => ch.retrain l.val

/-- TRAIN_COMPLETE (R550, R551, R561). -/
def execTrainComplete (c : ChipId) (l : Fin 2) (lanes : BitVec 4) (resume : Bool) (exp : BitVec 8) (s : State) : Res :=
  onChip s c fun ch => ch.trained l.val lanes.toNat resume exp.toNat

/-- TRAIN_ATTEMPT_TIMEOUT (R561): 100 µs without UP. -/
def execTrainAttemptTimeout (c : ChipId) (l : Fin 2) (s : State) : Res :=
  onChip s c fun ch =>
    let st := ch.trlState l.val
    let k := ch.link l.val
    if st = trlTrain ∨ st = trlRetrain then
      if 3 ≤ k.attempts then ch.linkDown l.val else ch.setLink l.val { k with attempts := k.attempts + 1 }
    else ch

/-- LINK_DOWN_RETRY (R561): 10 ms after DOWN. -/
def execLinkDownRetry (c : ChipId) (l : Fin 2) (s : State) : Res :=
  onIsland s c fun ch => if ch.trlState l.val = trlDown then ch.train l.val else ch

end Sys2Proof.Machine
end

