-- ==== Sys2Proof/Machine/RegAccess.lean ====
section
/-! DEFINITION. Register accesses (spec/00_scope.md R10 to R16, R21; spec/04_host_link.md R99 to R103): the access codes, the two
halves of 64-bit quantities, what a write starts, and the MSI-X table. -/

namespace Sys2Proof.Machine

open Sys2Proof

/-! ### Where an offset lies -/

/-- The MSI-X table and the PBA (R107), as dword numbers. -/
def msixDword (off : Nat) : Option Nat := if 0x8000 ≤ off ∧ off < 0x8880 then some ((off - 0x8000) / 4) else none
def pbaDword (off : Nat) : Option Nat := if 0x9000 ≤ off ∧ off < 0x9018 then some ((off - 0x9000) / 4) else none

/-- In ROM mode only the HIF, FCU, PWR/LCS/AUTH and CFG/FWU blocks answer the host (R103). (DEDUCED, log entry 46.) -/
def Chip.answers (ch : Chip) (r : Requester) (off : Nat) : Bool :=
  match r with
  | .steward => true
  | .host => !ch.romMode || decide (off < 0x10000) || (decide (0x160000 ≤ off) && decide (off < 0x190000))

/-! ### Holding registers (R100) -/

def Chip.holdR (ch : Chip) (r : Requester) (off : Nat) : Nat :=
  match r with
  | .host => Tab.get 0 ch.hif.holdHostR off
  | .steward => Tab.get 0 ch.hif.holdStewR off

def Chip.setHoldR (ch : Chip) (r : Requester) (off v : Nat) : Chip :=
  match r with
  | .host => { ch with hif := { ch.hif with holdHostR := Tab.set 0 ch.hif.holdHostR off v } }
  | .steward => { ch with hif := { ch.hif with holdStewR := Tab.set 0 ch.hif.holdStewR off v } }

def Chip.holdW (ch : Chip) (r : Requester) (off : Nat) : Nat :=
  match r with
  | .host => Tab.get 0 ch.hif.holdHostW off
  | .steward => Tab.get 0 ch.hif.holdStewW off

def Chip.setHoldW (ch : Chip) (r : Requester) (off v : Nat) : Chip :=
  match r with
  | .host => { ch with hif := { ch.hif with holdHostW := Tab.set 0 ch.hif.holdHostW off v } }
  | .steward => { ch with hif := { ch.hif with holdStewW := Tab.set 0 ch.hif.holdStewW off v } }

/-! ### Reads -/

/-- What a field reads as: its access code, and the fields whose value is computed (R412, R594, R661, MEM_CH_UTIL). -/
def Chip.readField (ch : Chip) (h : RegHit) (s : FieldSpec) : Nat :=
  let f := h.field s
  if s.acc = .w1p ∨ f.key = F.FCU_INJECT_GO.key then 0
  else if s.acc = .dbg ∧ ch.develop = false then 0
  else if h.fam.base = (F.TEN_DBG_ACC_VALUE 0).reg then ch.tenAcc h.idx
  else if h.fam.base = (F.FCU_REC_STAT_LIVE 0).reg ∧ s.lo = 9 then
    bnat (decide (ch.rd (F.FCU_REC_STAT_CLASS h.idx) ≠ 0) && ch.liveNow h.idx)
  else if f.key = F.CFG_SNAP_CRC.key then ch.cfgSnap
  else if h.fam.base = (F.MEM_CH_UTIL_PERMILLE 0).reg then Config.busUse ch.pos.val h.idx ch.now % 1001
  else ch.rd f

/-- A whole register as it reads. -/
def Chip.readWhole (ch : Chip) (h : RegHit) : Nat := h.fam.fields.foldl (fun a s => a + ch.readField h s * 2 ^ s.lo) 0

/-- A dword of the MSI-X table: after reset every vector is masked. -/
def Chip.msixDwordValue (ch : Chip) (i : Nat) : Nat := Tab.get (if i % 4 = 3 then 1 else 0) ch.hif.msixTab i

/-- A dword of the PBA. -/
def Chip.pbaValue (ch : Chip) (i : Nat) : Nat := (List.range 32).foldl (fun a b => a + bnat (ch.hif.pba.contains (32 * i + b)) * 2 ^ b) 0

/-- A read of the dword at `off` (R12, R99, R100): its value, and the chip with the requester's holding register.
(DEDUCED, log entry 46.) -/
def Chip.regRead (ch : Chip) (r : Requester) (off : Nat) : Nat × Chip :=
  if !ch.answers r off then (0, ch)
  else match msixDword off, pbaDword off, findReg off with
    | some i, _, _ => (ch.msixDwordValue i, ch)
    | none, some i, _ => (ch.pbaValue i, ch)
    | none, none, none => (0, ch)
    | none, none, some h =>
      let v := ch.readWhole h
      if h.fam.dwords = 1 then (bits v 0 32, ch)
      else if h.dw % 2 = 0 then (bits v (32 * h.dw) 32, ch.setHoldR r off (bits v (32 * (h.dw + 1)) 32))
      else (ch.holdR r (off - 4), ch)

/-! ### Writes -/

/-- A field written by its access code (R10); `x` is the register's new value. -/
def Chip.writeField (ch : Chip) (h : RegHit) (x : Nat) (s : FieldSpec) : Chip :=
  let f := h.field s
  let n := bits x s.lo s.width
  match s.acc with
  | .rw => ch.wr f n
  | .w1c => ch.wr f (ch.rd f - (ch.rd f &&& n))
  | .rwl => if ch.locked then ch else ch.wr f n
  | .dbg => if ch.develop then ch.wr f n else ch
  | .ro => ch
  | .w1p => ch

/-- The write would change an RWL field that commit locked (R10). (DEDUCED, log entry 56.) -/
def Chip.lockedBy (ch : Chip) (h : RegHit) (x : Nat) : Bool :=
  ch.locked && h.fam.fields.any fun s => s.acc == .rwl && ch.rd (h.field s) != bits x s.lo s.width

/-- Some ring is enabled. (DEDUCED, log entry 54.) -/
def Chip.anyRing (ch : Chip) : Bool :=
  (List.range 128).any fun n =>
    let st := ch.ringState n
    st == ringActive || st == ringOverflow || st == ringDraining

/-- RNG_CTL of ring `n`: RESET, or else ENABLE (R154, R157). (DEDUCED, log entry 55.) -/
def Chip.ringCtl (ch : Chip) (n v : Nat) : Chip :=
  if bit v 1 then
    let c := ch.ringReset n
    if bit v 0 then c.setFlag (F.RNG_ERR_OVERRIDE n) true else c
  else if bit v 0 then ch.ringEnable n
  else ch.ringDisable n

/-- A register of the family of `f` (its entry 0). -/
def RegHit.isReg (h : RegHit) (f : Field) : Bool := h.fam.base == f.reg

/-- What the bits of a write start, once the block has power: W1P actions, ENABLE, FREEZE and the injected fault.
(DESIGN CHOICE, log entry 50.) -/
def Chip.regAct (ch : Chip) (r : Requester) (h : RegHit) (v : Nat) : Chip :=
  let i := h.idx
  let load (c : Chip) (b : Nat) (hwm level : Field) : Chip := if bit v b then c.wr hwm (c.rd level) else c
  if h.isReg F.HIF_PTM_CTL_GO then (if bit v 8 then ch.ptmRequest else ch)
  else if h.isReg (F.RNG_CTL_RESET 0) then ch.ringCtl i v
  else if h.isReg F.TKP_CTL_MAX_CLR then
    (if bit v 0 then ch.wr F.TKP_SYNC_MAX_MAX (sgn 16 (ch.rd F.TKP_SYNC_ERR_E)).natAbs else ch)
  else if h.isReg (F.KEN_STAT_HWM_CLR 0) then load ch 6 (F.KEN_HWM_BYTES i) (F.KEN_LEVEL_BYTES i)
  else if h.isReg F.MOS_ERR_HWM_CLR then load ch 9 F.MOS_QHWM_LEVEL F.MOS_STAT_QLEVEL
  else if h.isReg (F.INN_WM_HWM_CLR 0) then load ch 16 (F.INN_HWM_MAIN i) (F.INN_LEVEL_MAIN i)
  else if h.isReg (F.ANX_PSTAT_HWM_CLR 0) then load ch 5 (F.ANX_HWM_TOKENS i) (F.ANX_USED_TOKENS i)
  else if h.isReg (F.INN_DUP_CTL_POP 0) then (if bit v 0 then ch.dupPop i else ch)
  else if h.isReg F.MEM_MIG_REQ_GO then (if bit v 8 then ch.migrationGo else ch)
  else if h.isReg (F.TRL_CTL_RETRAIN 0) then (if bit v 1 then ch.retrain i else ch)
  else if h.isReg F.FCU_ACK_GO then (if bit v 8 then ch.fcuAckGo else ch)
  else if h.isReg F.FCU_WDOG_KICK then (if bit v 8 then ch.wdogKick r else ch)
  else if h.isReg F.FCU_INJECT_GO then (if bit v 31 then ch.faultInject else ch)
  else if h.isReg (F.TEN_DBG_CTL_FREEZE 0) then (if ch.develop then ch.tenFreeze i (bit v 0) else ch)
  else ch

/-- The bits of a write that start something; no bits: the write starts nothing that could wait. -/
def actBits (h : RegHit) (v : Nat) : Option Nat :=
  if h.isReg (F.RNG_CTL_RESET 0) then some (v % 4)
  else if h.isReg (F.TEN_DBG_CTL_FREEZE 0) then some (v % 2)
  else
    let m := (h.fam.fields.filter fun s => s.acc == .w1p).foldl (fun a s => a + 2 ^ s.lo) 0
    if v &&& m = 0 then none else some (v &&& m)

/-- A block without power in Doze: every one but HIF, the Timekeeper, FCU, PWR/LCS/AUTH and CFG/FWU (R617).
(DEDUCED, log entry 57.) -/
def gatedBlock (off : Nat) : Bool := decide (0x10000 ≤ off) && decide (off < 0x160000) && off / 0x10000 != 2

/-- The fields of a register written, but for what the write starts. ENABLE, FREEZE and GO of FCU_INJECT are left to `regAct`, and
fields with a rule of their own take it: RNG_DB_BASE, MEM_CH_RANK_CE (R518), TEN_DBG_ACC (R412). (DEDUCED, log entry 54.) -/
def Chip.regFields (ch : Chip) (h : RegHit) (x : Nat) : Chip :=
  let own (s : FieldSpec) : Bool :=
    let k := (h.field s).key
    k == (F.RNG_CTL_ENABLE h.idx).key || k == F.FCU_INJECT_GO.key || k == (F.TEN_DBG_CTL_FREEZE h.idx).key
  if h.isReg F.RNG_DB_BASE_BASE ∧ ch.anyRing = true then ch.setFlag F.RNG_GSTAT_DB_BUSY_SEEN true
  else if h.isReg (F.MEM_CH_RANK_CE_COUNT 0 0) then ch.rankCeWrite ((h.base - h.fam.base) / 0x4000) h.idx x
  else if h.isReg (F.TEN_DBG_ACC_VALUE 0) then ch.tenAccWrite h.idx x
  else (h.fam.fields.filter fun s => !own s).foldl (fun (c : Chip) s => c.writeField h x s) ch

/-- What else follows fields that a chip's own hardware watches: PWR_PACE_TARGET before commit sets DEMAND (R681), TRL_CTL.EN
starts or stops the link (R561), CSI_CTL.ENABLE asks for a legal number of lanes (R194). (DEDUCED, log entry 59.) -/
def Chip.regFollow (ch old : Chip) (h : RegHit) : Chip :=
  if h.isReg F.PWR_PACE_TARGET_TARGET then
    (if old.locked then ch else (ch.wr F.PWR_THERM_DEMAND (ch.rd F.PWR_PACE_TARGET_TARGET)).paceSync)
  else if h.isReg (F.TRL_CTL_EN 0) then
    (if ch.flag (F.TRL_CTL_EN h.idx) == old.flag (F.TRL_CTL_EN h.idx) || 2 ≤ ch.pwr then ch
    else if ch.flag (F.TRL_CTL_EN h.idx) then ch.linkStart h.idx else ch.linkOff h.idx)
  else if h.isReg (F.CSI_CTL_ENABLE 0) then ch.csiLanes h.idx
  else ch

/-- A register takes value `x` as one write (R10, R14, R101). (DEDUCED, log entry 59.) -/
def Chip.regCommit (ch : Chip) (r : Requester) (h : RegHit) (off x : Nat) : Chip :=
  let c := if ch.lockedBy h x then ch.hifErr 3 false off else ch
  let c := (c.regFields h x).regFollow ch h
  match actBits h x with
  | none => c.regAct r h x
  | some v => if gatedBlock off then c.whenPowered off v fun c => c.regAct r h v else c.regAct r h x

/-- A MSI-X table dword written; of Vector Control bit 0 only. -/
def Chip.msixWrite (ch : Chip) (i v : Nat) : Chip :=
  let (d, x) := if i % 4 = 3 then (1, v % 2) else (0, v)
  ({ ch with hif := { ch.hif with msixTab := Tab.set d ch.hif.msixTab i x } } : Chip).msixFlush

/-- A whole-dword write of `v` at `off` (R12, R99, R100). -/
def Chip.regWrite (ch : Chip) (r : Requester) (off v : Nat) : Chip :=
  if !ch.answers r off then ch.hifErr 2 false off
  else match msixDword off, pbaDword off, findReg off with
    | some i, _, _ => ch.msixWrite i v
    | none, some _, _ => ch
    | none, none, none => ch.hifErr 2 false off
    | none, none, some h =>
      if h.fam.dwords = 1 then ch.regCommit r h off v
      else if h.fam.dwords = 4 then ch
      else if h.dw = 0 then ch.setHoldW r off v
      else ch.regCommit r h off (ch.holdW r (off - 4) + v * 2 ^ 32)

/-- What a write means for the tray: the firmware mailbox, FALLBACK_SEEN and the connector supplies (R32, R656, R671).
(DEDUCED, log entry 37.) -/
def State.regTray (s : State) (c : ChipId) (off v : Nat) : State :=
  if off = F.FWU_CTL_GO.reg then
    let s := if bit v 9 then s.fwuAbort c else s
    if bit v 8 then s.fwuGo c else s
  else if off = F.FWU_STAT_FALLBACK_SEEN.reg then
    (if bit v 5 then (s.modTray fun t => { t with fallback := false }).mirror else s)
  else if off = F.PWR_SUPPLY_SEN.reg then s.supplyFollow c
  else s

/-- A write of a requester to register `off` of chip `c` that no rule of R99 discards. (DESIGN CHOICE, log entry 10.) -/
def State.regWrite (s : State) (c : ChipId) (r : Requester) (off v : Nat) : State :=
  logRanks c s ((s.modChip c fun ch => ch.regWrite r off v).regTray c off v)

/-- A dword of the Latch host window. -/
def inWindow (o : Nat) : Bool := decide (0x148000 ≤ o) && decide (o < 0x150000)

/-- A BAR0 or Steward write of a dword with its checks: Memory Space, EP, byte enables (R99, R117). The Steward writes whole
dwords only. Offsets of the Latch window go to the window (R116). -/
def regAccess (c : ChipId) (r : Requester) (off be : Nat) (ep : Bool) (v : Nat) (s : State) : Res :=
  let ch := s.chip c
  let o := off / 4 * 4
  if ch.inReset then .next s
  else match r with
    | .steward => .next (s.regWrite c r o v)
    | .host =>
      if !ch.memSpace then .next (s.modChip c fun ch => ch.aer .unsupportedRequest)
      else if ep then .next (s.modChip c fun ch => (ch.hifErr 4 false o).aer .poisonedTlp)
      else if inWindow o then
        .next (s.modChip c fun ch =>
          if ch.winOn then ch.winWrite ((o - 0x148000) / 8) (o % 8 == 4) be v else ch.hifErr 2 false o)
      else if be ≠ 15 then .next (s.modChip c fun ch => ch.hifErr 1 false o)
      else .next (s.regWrite c r o v)

/-- REGISTER_WRITE (R10 to R12, R99, R103, R117). (DESIGN CHOICE, log entry 10.) -/
def execRegisterWrite (c : ChipId) (r : Requester) (off : BitVec 24) (be : BitVec 4) (ep : Bool) (v : Dword) (s : State) : Res :=
  regAccess c r off.toNat be.toNat ep v.toNat s

/-- A read of the dword at `o`: a register, or for the host a word of the Latch window (R99, R100, R116). -/
def Chip.dwordRead (ch : Chip) (r : Requester) (o : Nat) : Nat × Chip :=
  if r = .host ∧ inWindow o = true then (if ch.winOn then ch.winRead ((o - 0x148000) / 8) (o % 8 == 4) else (0, ch))
  else ch.regRead r o

/-- LOW_DWORD_READ (R99, R100): a read of a dword, of a low or a high half or of a register of one dword. It is answered to the host; the
Steward's read is its load. -/
def execLowDwordRead (c : ChipId) (r : Requester) (off : BitVec 24) (s : State) : Res :=
  onChip s c fun ch =>
    let q := ch.dwordRead r (off.toNat / 4 * 4)
    match r with
    | .steward => q.2
    | .host => if ch.memSpace then q.2.send (.cpl .sc false (toLe 4 q.1)) else ch.unsupported

/-- The offset of the low dword of the 64-bit quantity that holds the dword at `o`: most lie at multiples of 8, DEC_PICS does not. -/
def lowOff (o : Nat) : Nat :=
  match findReg o with
  | some h => o - 4 * (h.dw % 2)
  | none => o / 8 * 8

/-- LOW_DWORD_WRITE (R100): the value waits in the requester's holding register. -/
def execLowDwordWrite (c : ChipId) (r : Requester) (off : BitVec 24) (be : BitVec 4) (ep : Bool) (v : Dword) (s : State) : Res :=
  regAccess c r (lowOff (off.toNat / 4 * 4)) be.toNat ep v.toNat s

/-- HIGH_DWORD_WRITE (R100, R101): both halves commit together. -/
def execHighDwordWrite (c : ChipId) (r : Requester) (off : BitVec 24) (be : BitVec 4) (ep : Bool) (v : Dword) (s : State) : Res :=
  regAccess c r (lowOff (off.toNat / 4 * 4) + 4) be.toNat ep v.toNat s

/-- Register and bit of a high-water clear field (R21). -/
def hwmPlace : HwmReg → Nat × Nat
  | .kennel k => ((F.KEN_STAT_HWM_CLR k.val).reg, 6)
  | .mosaic => (F.MOS_ERR_HWM_CLR.reg, 9)
  | .inn p => ((F.INN_WM_HWM_CLR p.val).reg, 16)
  | .annex p => ((F.ANX_PSTAT_HWM_CLR p.val).reg, 5)
  | .syncMax => (F.TKP_CTL_MAX_CLR.reg, 0)

/-- HWM_CLR (R21): the high-water register takes the level. -/
def execHwmClr (c : ChipId) (w : HwmReg) (s : State) : Res :=
  onChip s c fun ch =>
    let p := hwmPlace w
    match findReg p.1 with
    | none => ch
    | some h =>
      let act (c : Chip) : Chip := c.regAct .host h (2 ^ p.2)
      if gatedBlock p.1 then ch.whenPowered p.1 (2 ^ p.2) act else act ch

end Sys2Proof.Machine
end

