-- ==== Sys2Proof/Machine/Codelet.lean ====
section
/-! DEFINITION. Codelet cores issuing bundles (spec/12_codelet_isa.md R338 to R341, R364, R368, R371, R374, R381), the Steward's
interrupts, and the commands of single operations of a core. -/

namespace Sys2Proof.Machine

open Sys2Proof

/-! ### A bundle -/

/-- The bundle at the core's pc: its bits, and whether an uncorrectable error was met. -/
def Chip.fetchBundle (ch : Chip) (id : CoreId) (k : Core) : Nat × Bool :=
  let a := physOf id (ch.codeAddr id k k.pc)
  (ch.stewLoad a 64, ch.anyPoison a 64)

/-- Moves that pass, with their slots (R339, R377). -/
def Core.passing (k : Core) (b : Nat) : List (Nat × Move) :=
  if k.passes (bundleGuard b) then ((List.range 8).map fun i => (i, moveOf b i)).filter fun m => k.passes m.2.guard else []

/-- The values that the moves write, by location code; the highest slot decides (R341). (DEDUCED, log entry 96.) -/
def Chip.staged (ch : Chip) (id : CoreId) (k : Core) (ms : List (Nat × Move)) : Tab (Nat × MVal) :=
  ms.foldl (fun (t : Tab (Nat × MVal)) m => Tab.put t m.2.dst (m.1, ch.moveValue id k m.2)) []

/-- A location code is a trigger port. -/
def isTrigger (stew : Bool) (code : Nat) : Bool := (locOf stew code).elim false fun x => x.1 == .trigger

/-- The core after the writes of a bundle. (DEDUCED, log entry 96.) -/
def Core.written (k : Core) (stew : Bool) (ws : Tab (Nat × MVal)) : Core :=
  ws.foldl (fun (k : Core) w => k.writeLoc stew w.1 w.2.2) k

/-- The control action of a bundle: the first in the order of R364. -/
def controlOf (ws : Tab (Nat × MVal)) (lend : Bool) : Control × Nat :=
  let at' (n : Nat) : Option (Nat × Qword) := (Tab.find ws (lbPort n)).map fun w => (w.1, w.2.toQ)
  match at' 7, at' 6, at' 5, at' 4, at' 3, at' 2 with
  | some w, _, _, _, _, _ => (.finish, w.1)
  | none, some w, _, _, _, _ => (.ret, w.1)
  | none, none, some w, _, _, _ => (.call w.2, w.1)
  | none, none, none, some w, _, _ => (.jump w.2, w.1)
  | none, none, none, none, some w, _ => (.loopBreak, w.1)
  | none, none, none, none, none, some w => (.loopStart, w.1)
  | none, none, none, none, none, none => (if lend then .lend else .next, 0)

/-- The exception of a triggered operation (R343, R347 to R349, R353, R357 to R360). `k`: the core with the bundle's writes.
(DEDUCED, log entry 95.) -/
def Chip.triggerExc (ch : Chip) (id : CoreId) (k : Core) (code : Nat) (x : Qword) : Option (Nat × Nat) :=
  let v := x.toNat
  let bad (b : Bool) : Option (Nat × Nat) := if b then some (exIllegal, 0) else none
  match codeUnit code with
  | 1 => bad (ch.aluFn id v 0 0).isNone
  | 2 => bad (ch.aluFn id v 0 0).isNone
  | 3 => bad (mulFn v 0 0).isNone
  | 4 => bad (vecFn v).isNone
  | 5 => ch.lsuExc id k (v % 2 ^ 32)
  | 6 => if 2 ≤ v then some (exIllegal, 0) else ch.tokExc id k (v == 1)
  | 7 => bad (decFn v).isNone
  | _ => none

/-- A triggered operation started; its result is there at once. Accesses to set-up registers are left to the caller. -/
def Chip.trigger (ch : Chip) (id : CoreId) (code : Nat) (x : Qword) : Chip × RegReq :=
  let v := x.toNat
  let k := ch.getCore id
  let put (k : Core) : Chip × RegReq := (ch.putCore id k, none)
  match codeUnit code with
  | 1 => put (k.runAlu false fun a b => (ch.aluFn id v a b).getD 0)
  | 2 => put (k.runAlu true fun a b => (ch.aluFn id v a b).getD 0)
  | 3 => put (k.runMul fun a b => (mulFn v a b).getD (0, 0))
  | 4 => put (k.runVec fun x => ((vecFn v).map fun f => f x).getD (0, 0))
  | 5 => ch.lsuRun id (v % 2 ^ 32)
  | 6 => (ch.tokRun id (v == 1), none)
  | 7 => put (k.runDec fun a b r => ((decFn v).map fun f => f a b r).getD ⟨0, 0⟩)
  | _ => (ch, none)

/-- The exception with the lowest slot. (DEDUCED, log entry 95.) -/
def firstExc (es : List (Nat × Option (Nat × Nat))) : Option (Nat × Nat) :=
  (es.foldl (fun (b : Option (Nat × Nat × Nat)) e =>
    match e.2, b with
    | some x, none => some (e.1, x)
    | some x, some y => if e.1 < y.1 then some (e.1, x) else some y
    | none, y => y) none).map (·.2)

/-- A SYS port named by a passing move in TASK mode (R372). -/
def taskSys (k : Core) (m : Move) : Bool :=
  !k.firm && ((decide (0x220 ≤ m.dst) && decide (m.dst < 0x240)) ||
    (!m.imm && decide (0x220 ≤ bits m.src 0 12) && decide (bits m.src 0 12 < 0x240)))

/-- What a core does with the bundle at its pc. -/
inductive Issue where
  /-- it waits (R340) -/
  | wait
  /-- it raises an exception: cause and address -/
  | exc (cause addr : Nat)
  /-- it issues: its bits, the values written, the core after the writes, the control action -/
  | go (b : Nat) (ws : Tab (Nat × MVal)) (k : Core) (x : Control)
  deriving DecidableEq, Repr

/-- The decision of R339 to R343, R369 and R371 on the bundle at the core's pc. -/
def Chip.issue (ch : Chip) (id : CoreId) (k : Core) : Issue :=
  let stew := isSteward id
  let limit := ch.rd F.PE_CFG_STEP_LIMIT * 1024
  if !stew && limit != 0 && decide (limit ≤ k.steps) then .exc exLimit 0
  else
    let f := ch.fetchBundle id k
    let b := f.1
    let isEnd := (k.loops.head?).elim false fun l => l.stop == k.pc
    if f.2 then .exc exSram (ch.codeAddr id k k.pc)
    else if !ch.codeAt id k k.pc then .exc exBranch k.pc
    else if headerBad b then .exc exIllegal 0
    else if bundleLend b != isEnd then .exc exLoop ((k.loops.head?).elim 0 (·.stop))
    else
      let ms := k.passing b
      let ws := ch.staged id k (ms.filter fun m => !m.2.illegal stew)
      let trigs := ws.filter fun w => isTrigger stew w.1
      let fires (u : Nat) : Option Qword := (trigs.find? fun w => codeUnit w.1 == u).map (·.2.2.toQ)
      let readsLd := ms.any fun m => !m.2.imm && bits m.2.src 0 12 == lsuPort 15
      if (readsLd && k.latchWaits) || ((fires 5).isSome && ch.lsuBusy id k) || ((fires 6).isSome && k.tokBusy) then .wait
      else
        let k1 := k.written stew ws
        let x := controlOf ws (bundleLend b)
        let es := ((List.range 8).map fun i => (i, if (moveOf b i).illegal stew then some (exIllegal, 0) else none)) ++
          (ms.map fun m => (m.1, if stew && taskSys k m.2 then some (exIllegal, 0) else none)) ++
          (trigs.map fun w => (w.2.1, ch.triggerExc id k1 w.1 w.2.2.toQ)) ++ [(x.2, ch.controlExc id k1 x.1)]
        match firstExc es with
        | some e => .exc e.1 e.2
        | none =>
          if ((fires 5).elim false fun v => lsuHeld id k1 (v.toNat % 2 ^ 32)) ||
              ((fires 6).elim false fun v => ch.tokHeld id k1 (v == 1)) then .wait
          else .go b ws k1 x.1

/-- ERET (R373). -/
def Core.eret (k : Core) : Core :=
  let s := (k.q (sysPort 0)).toNat
  let k1 := k.setQ (sysPort 0) (BitVec.ofNat 64 (putBits s 0 2 (bits s 2 2)))
  { k1 with pc := (k.q (sysPort 1)).toNat }

/-- SYS triggers of a bundle. -/
def Chip.sysRun (ch : Chip) (id : CoreId) (ws : Tab (Nat × MVal)) : Chip :=
  match id with
  | .pe _ _ => ch
  | .steward =>
    let c := if (Tab.find ws (sysPort 8)).isSome then ch.putCore id (ch.getCore id).eret else ch
    if (Tab.find ws (sysPort 9)).isSome then { c with fab := { c.fab with steward := { c.fab.steward with wfi := true } } } else c

/-- A core issues its bundle, waits, or raises an exception. (DEDUCED, log entry 94.) -/
def Chip.bundle (ch : Chip) (id : CoreId) : Chip × RegReq :=
  match ch.issue id (ch.getCore id) with
  | .wait => (ch, none)
  | .exc cause addr => (ch.coreExc id cause addr, none)
  | .go b ws k x =>
    let c := ch.putCore id { k with steps := k.steps + 1 }
    let trigs := ws.filter fun w => isTrigger (isSteward id) w.1
    let r := trigs.foldl (fun (a : Chip × RegReq) w =>
      let q := a.1.trigger id w.1 w.2.2.toQ
      (q.1, q.2.or a.2)) (c, none)
    (((r.1.control id x).sysRun id ws).stackHint id (bundleHint b), r.2)

/-! ### Commands of a core -/

/-- The access of the Steward to a set-up register that a bundle left (R372). -/
def regDone (c : ChipId) (r : RegReq) (s : State) : State :=
  match r with
  | none => s
  | some ⟨off, some v, _⟩ => s.regWrite c .steward off v
  | some ⟨off, none, sx⟩ => s.modChip c fun ch =>
    let q := ch.regRead .steward off
    q.2.putCore .steward ((q.2.getCore .steward).setQ (lsuPort 15)
      (if sx then BitVec.ofInt 64 (sgn 32 q.1) else BitVec.ofNat 64 q.1))

/-- A command of a core that may end in a register access, once what waited in the core has gone on; a PE acts only while its firing
runs, and no core in Doze (R617). (DESIGN CHOICE, log entry 107.) -/
def coreCmd (s : State) (c : ChipId) (id : CoreId) (f : Chip → Chip × RegReq) : Res :=
  let ch := s.chip c
  .next (if ch.hif.state = .reset ∨ 2 ≤ ch.rd F.PWR_STATE_STATE ∨ (ch.getCore id).st ≠ .running then s
    else let r := f (ch.resumed id); regDone c r.2 (s.setChip c r.1))

/-- A command of a core that touches no register. (DESIGN CHOICE, log entry 107.) -/
def coreAct (s : State) (c : ChipId) (id : CoreId) (f : Chip → Chip) : Res := coreCmd s c id fun ch => (f ch, none)

/-! #### Interrupts (R373, R374) -/

/-- IPEND sampled: line 0 from TCMP; the manual gives no condition for lines 1 to 8, which are free; lines 9 to 31 are 0. -/
def Chip.sampleIrq (ch : Chip) : Chip :=
  let r := ch.draw
  let t := decide ((ch.fab.steward.core.q (sysPort 7)).toNat ≤ ch.now)
  let p := BitVec.ofNat 32 (r.1 % 256 * 2 + bnat t)
  let c := r.2
  { c with fab := { c.fab with steward := { c.fab.steward with ipend := p } } }

/-- IPEND & IMASK. -/
def Steward.enabled (w : Steward) : Nat := w.ipend.toNat &&& (w.core.q (sysPort 6)).toNat

/-- The lowest enabled pending line is taken, if IE is 1; it ends WFI in any case. (DEDUCED, log entry 90.) -/
def Chip.takeIrq (ch : Chip) : Chip :=
  let w := ch.fab.steward
  if w.enabled = 0 then ch
  else
    let k := w.core
    let k := if bit (k.q (sysPort 0)).toNat 1 then k.trap k.pc (2 ^ 31 + ctz 32 w.enabled * 2 ^ 16) 0 0x400 else k
    { ch with fab := { ch.fab with steward := { w with core := k, wfi := false } } }

/-- The Steward goes on by one bundle: an enabled pending interrupt is taken first; WFI holds issue. -/
def Chip.stewardStep (ch : Chip) : Chip × RegReq :=
  let c := ch.sampleIrq
  let w := c.fab.steward
  if w.enabled ≠ 0 ∧ bit (w.core.q (sysPort 0)).toNat 1 = true then (c.takeIrq, none)
  else if w.wfi = true ∧ w.enabled = 0 then (c, none)
  else c.takeIrq.bundle .steward

/-- BUNDLE_ISSUE (R338 to R343, R369 to R374). (DESIGN CHOICE, log entry 11.) -/
def execBundleIssue (c : ChipId) (k : CoreId) (s : State) : Res :=
  coreCmd s c k fun ch =>
    match k with
    | .pe _ _ => ch.bundle k
    | .steward => if ch.fab.steward.halted then (ch, none) else ch.stewardStep

/-- STEWARD_INTERRUPT (R373, R374). (DEDUCED, log entry 90.) -/
def execStewardInterrupt (c : ChipId) (s : State) : Res :=
  coreAct s c .steward fun ch => if ch.fab.steward.halted then ch else ch.sampleIrq.takeIrq

/-- FIRING_DRAIN_COMPLETE (R309, R336, R368, R381): nothing of the firing waits any more; the PE becomes idle. -/
def execFiringDrainComplete (c : ChipId) (p : PackId) (n : PeId) (s : State) : Res :=
  onIsland s c fun ch =>
    let ch := if (ch.core p.val n.val).st = .draining then ch.resumed (.pe p n) else ch
    let k := ch.core p.val n.val
    if k.st ≠ .draining ∨ k.deferred.isEmpty = false ∨ k.exc.isSome = true ∨ ch.stalledStores (16 * p.val + n.val) ≠ 0 then ch
    else
      ch.innDo p.val fun ch =>
        let i := ch.inn p.val
        let done (e : KillEntry) : KillEntry := if e.running == some n.val then { e with running := none, steps := k.steps } else e
        let c := (ch.setInn p.val { i with klist := i.klist.map done }).setCore p.val n.val Core.reset
        match k.firing with
        | some f => if k.aborted then c else c.firingEnded f
        | none => c

/-! #### Single operations -/

/-- An operation of the LSU with operation word `w`: it waits, raises its exception or is made. -/
def Chip.lsuCmd (ch : Chip) (id : CoreId) (w : Nat) : Chip × RegReq :=
  let k := ch.getCore id
  if ch.lsuBusy id k then (ch, none)
  else match ch.lsuExc id k w with
    | some e => (ch.coreExc id e.1 e.2, none)
    | none => if lsuHeld id k w then (ch, none) else ch.lsuRun id w

/-- LSU_LOAD (R350, R352 to R355, R379): the operation word `op` read as that of a load. (DESIGN CHOICE, log entry 11.) -/
def execLsuLoad (c : ChipId) (k : CoreId) (op : Dword) (s : State) : Res :=
  coreCmd s c k fun ch => ch.lsuCmd k (putBits (putBits op.toNat 8 1 0) 13 1 0)

/-- LSU_STORE (R327, R350, R352 to R356, R379): the operation word `op` read as that of a store. -/
def execLsuStore (c : ChipId) (k : CoreId) (op : Dword) (s : State) : Res :=
  coreCmd s c k fun ch => ch.lsuCmd k (putBits (putBits op.toNat 8 1 1) 13 1 0)

/-- A Latch operation of a core at a computed address, with SD and CMP as its operands (R357, R533 to R538). -/
def Chip.latchCmd (ch : Chip) (lop : Nat) (q : LatchReq) : Chip :=
  let id := q.core
  let k := ch.getCore id
  let a := q.addr.toNat
  if ch.lsuBusy id k then ch
  else if !ch.inShared a 8 then ch.coreExc id exAccess a
  else if a % 8 ≠ 0 then ch.coreExc id exAlign a
  else
    let v := k.q (lsuPort 11)
    let cmp := k.q (lsuPort 12)
    if ch.mustWait (coreNo id) k then ch.defer id (.latch lop a v cmp k.poison) else ch.latchBy id lop a v cmp k.poison

/-- Latch SWAP (R534). -/
def execSwap (c : ChipId) (q : LatchReq) (s : State) : Res := coreAct s c q.core fun ch => ch.latchCmd 0 q
/-- Latch CAS (R534). -/
def execCas (c : ChipId) (q : LatchReq) (s : State) : Res := coreAct s c q.core fun ch => ch.latchCmd 1 q
/-- Latch FADD (R534). -/
def execFadd (c : ChipId) (q : LatchReq) (s : State) : Res := coreAct s c q.core fun ch => ch.latchCmd 2 q
/-- Latch FAND (R534). -/
def execFand (c : ChipId) (q : LatchReq) (s : State) : Res := coreAct s c q.core fun ch => ch.latchCmd 3 q
/-- Latch FOR (R534). -/
def execOpFor (c : ChipId) (q : LatchReq) (s : State) : Res := coreAct s c q.core fun ch => ch.latchCmd 4 q
/-- Latch FMAX (R534). -/
def execFmax (c : ChipId) (q : LatchReq) (s : State) : Res := coreAct s c q.core fun ch => ch.latchCmd 5 q
/-- Latch FMIN (R534). -/
def execFmin (c : ChipId) (q : LatchReq) (s : State) : Res := coreAct s c q.core fun ch => ch.latchCmd 6 q
/-- Latch DECPOS (R534). -/
def execDecpos (c : ChipId) (q : LatchReq) (s : State) : Res := coreAct s c q.core fun ch => ch.latchCmd 7 q
/-- Latch LOAD (R534). -/
def execLoad (c : ChipId) (q : LatchReq) (s : State) : Res := coreAct s c q.core fun ch => ch.latchCmd 8 q

/-- An emission: it waits, raises its exception or leaves. -/
def Chip.tokCmd (ch : Chip) (id : CoreId) (tagged : Bool) : Chip :=
  let k := ch.getCore id
  if k.tokBusy then ch
  else match ch.tokExc id k tagged with
    | some e => ch.coreExc id e.1 e.2
    | none => if ch.tokHeld id k tagged then ch else ch.tokRun id tagged

/-- EMIT, TOK.OP 0 (R358, R359). -/
def execEmit (c : ChipId) (k : CoreId) (s : State) : Res := coreAct s c k fun ch => ch.tokCmd k false
/-- EMIT_TAGGED, TOK.OP 1 (R358, R359). -/
def execEmitTagged (c : ChipId) (k : CoreId) (s : State) : Res := coreAct s c k fun ch => ch.tokCmd k true

/-- A control action alone: it raises its exception or takes place. -/
def Chip.controlCmd (ch : Chip) (id : CoreId) (x : Control) : Chip :=
  match ch.controlExc id (ch.getCore id) x with
  | some e => ch.coreExc id e.1 e.2
  | none => ch.control id x

/-- LB LOOP_START (R362). -/
def execLoopStart (c : ChipId) (k : CoreId) (s : State) : Res := coreAct s c k fun ch => ch.controlCmd k .loopStart
/-- LB LOOP_BREAK (R363). -/
def execLoopBreak (c : ChipId) (k : CoreId) (s : State) : Res := coreAct s c k fun ch => ch.controlCmd k .loopBreak
/-- LB JUMP (R364). -/
def execJump (c : ChipId) (k : CoreId) (target : Qword) (s : State) : Res := coreAct s c k fun ch => ch.controlCmd k (.jump target)
/-- LB CALL (R364, R365). -/
def execCall (c : ChipId) (k : CoreId) (target : Qword) (s : State) : Res := coreAct s c k fun ch => ch.controlCmd k (.call target)
/-- LB RET (R364, R365). -/
def execRet (c : ChipId) (k : CoreId) (s : State) : Res := coreAct s c k fun ch => ch.controlCmd k .ret
/-- LB END (R364, R368, R372). -/
def execOpEnd (c : ChipId) (k : CoreId) (s : State) : Res := coreAct s c k fun ch => ch.controlCmd k .finish

/-- A SYS trigger of the Steward: in TASK mode ILLEGAL (R372). -/
def sysCmd (s : State) (c : ChipId) (f : Chip → Chip) : Res :=
  coreAct s c .steward fun ch => if ch.fab.steward.core.firm then f ch else ch.coreExc .steward exIllegal 0

/-- SYS ERET (R373). -/
def execEret (c : ChipId) (s : State) : Res := sysCmd s c fun ch => ch.putCore .steward ch.fab.steward.core.eret

/-- SYS WFI (R373): issue stops; execution goes on at the next bundle. -/
def execWfi (c : ChipId) (s : State) : Res :=
  sysCmd s c fun ch =>
    let w := ch.fab.steward
    { ch with fab := { ch.fab with steward := { w with wfi := true, core := { w.core with pc := w.core.pc + 64 } } } }

end Sys2Proof.Machine
end

