-- ==== Sys2Proof/Machine/Debug.lean ====
section
/-! DEFINITION. The Steward debug port: the DEBUG message of the Bupin (spec/23_bupin.md R685, R687). -/

namespace Sys2Proof.Machine

open Sys2Proof

/-- The reply to DEBUG: STATUS, and VALUE. (DEDUCED, log entry 106.) -/
def State.debugAnswer (s : State) (tr : Transport) (status v : Nat) : State :=
  s.modTray fun t => t.reply (isUart tr) 0x09 status (if status = mgOk then toLe 8 v else [])

/-- A DEBUG message to a chip: the port must be open and the chip out of reset and Doze. (DEDUCED, log entry 106.) -/
def onDebug (s : State) (tr : Transport) (chip : Byte) (f : ChipId → State → State) : Res :=
  onMgmt s tr fun s =>
    if 4 ≤ chip.toNat then s.debugAnswer tr mgBadReq 0
    else
      let c : ChipId := Fin.ofNat 4 chip.toNat
      let ch := s.chip c
      if ch.hif.state = .reset ∨ 2 ≤ ch.pwr ∨ ch.flag F.PWR_BUP_DEBUG_OPEN = false then s.debugAnswer tr mgNotAllowed 0
      else f c s

def Chip.setHalted (ch : Chip) (b : Bool) : Chip :=
  { ch with fab := { ch.fab with steward := { ch.fab.steward with halted := b } } }

/-- DEBUG OP 1 (R685). -/
def execDebugHalt (t : Transport) (chip : Byte) (s : State) : Res :=
  onDebug s t chip fun c s => (s.modChip c fun ch => ch.setHalted true).debugAnswer t mgOk 0

/-- DEBUG OP 2 (R685): one bundle of a halted Steward. -/
def execDebugStep (t : Transport) (chip : Byte) (s : State) : Res :=
  onDebug s t chip fun c s =>
    if (s.chip c).fab.steward.halted then
      let r := (s.chip c).stewardStep
      (regDone c r.2 (s.setChip c r.1)).debugAnswer t mgOk 0
    else s.debugAnswer t mgBadReq 0

/-- DEBUG OP 3 (R685). -/
def execDebugResume (t : Transport) (chip : Byte) (s : State) : Res :=
  onDebug s t chip fun c s => (s.modChip c fun ch => ch.setHalted false).debugAnswer t mgOk 0

/-- A qword of memory of the Steward map (R372). -/
def Chip.dbgQword (ch : Chip) (a : Nat) : Bool :=
  a % 8 == 0 && (spansIn a 8 0 0x40000 || spansIn a 8 (packBase 0) (12 * 0x200000) || ch.inShared a 8)

/-- DEBUG OP 4 (R685): a qword that R54 hides reads 0 (DEDUCED, log entry 144); of the set-up registers, whose accesses are of 4 bytes, both dwords, low dword first. -/
def execDebugRead (t : Transport) (chip : Byte) (addr : Qword) (s : State) : Res :=
  onDebug s t chip fun c s =>
    let a := addr.toNat
    let ch := s.chip c
    if ch.dbgQword a || (a % 8 == 0 && spansIn a 8 romBase 0x10000) then
      s.debugAnswer t mgOk (if ch.dbgQword a && ch.tapHides a then 0 else ch.stewLoad a 8)
    else if a % 8 == 0 && spansIn a 8 regBase 0x1000000 then
      let r := ch.regRead .steward (a - regBase)
      let q := r.2.regRead .steward (a - regBase + 4)
      (s.setChip c q.2).debugAnswer t mgOk (r.1 + q.1 * 2 ^ 32)
    else s.debugAnswer t mgBadReq 0

/-- DEBUG OP 5 (R685). -/
def execDebugWrite (t : Transport) (chip : Byte) (addr value : Qword) (s : State) : Res :=
  onDebug s t chip fun c s =>
    let a := addr.toNat
    let ch := s.chip c
    if ch.dbgQword a then (s.modChip c fun ch => ch.store a (toLe 8 value.toNat) false).debugAnswer t mgOk 0
    else if devWord a then (s.modChip c fun ch => ch.deviceStore .steward ((a - devBase) / 8) value false).debugAnswer t mgOk 0
    else if a % 8 == 0 && spansIn a 8 regBase 0x1000000 then
      ((s.regWrite c .steward (a - regBase) (bits value.toNat 0 32)).regWrite c .steward (a - regBase + 4)
        (bits value.toNat 32 32)).debugAnswer t mgOk 0
    else s.debugAnswer t mgBadReq 0

end Sys2Proof.Machine
end

