-- ==== Sys2Proof/Machine/Sieve.lean ====
section
/-! DEFINITION. The Sieve (R421 to R428, R434, R437 to R441): rows decoded into candidates, suppression, the detection list. -/

namespace Sys2Proof.Machine

open Sys2Proof

/-! ### Job fields (R434) -/

/-- Element size of ETYPE, 0 for an element type the Sieve does not take. -/
def sivElem (ety : Nat) : Nat := if ety = 2 then 1 else if ety = 3 then 2 else if ety = 6 then 4 else 0

/-- Completion word (R437). -/
def listWord (status count cookie : Nat) : Nat := status + count % 65536 * 2 ^ 16 + cookie * 2 ^ 32

/-- The largest element index a job uses, plus one. -/
def sivTop (b : List Byte) : Nat :=
  let opt := fieldAt b 4 1
  let nl := fieldAt b 5 1
  max (max (fieldAt b 16 2 + fieldAt b 6 2) (if bit opt 1 then fieldAt b 18 2 + 1 else 0))
    (max (fieldAt b 20 2 + 4) (if nl = 0 then 0 else fieldAt b 22 2 + 2 * nl))

/-- Every field in its range and every reserved byte 0 (R434). -/
def sivFieldsOk (b : List Byte) : Bool :=
  let e := sivElem (fieldAt b 2 1)
  let form := fieldAt b 1 1
  let sigma := fp32.dec (fieldAt b 44 4)
  fieldAt b 0 1 == 1 && decide (1 ≤ form) && decide (form ≤ 4) && decide (0 < e) && decide (fieldAt b 3 1 ≤ 3) &&
    decide (fieldAt b 4 1 < 128) && decide (fieldAt b 5 1 ≤ 5) && decide (1 ≤ fieldAt b 6 2) && decide (fieldAt b 6 2 ≤ 1024) &&
    decide (1 ≤ fieldAt b 8 4) && decide (fieldAt b 8 4 ≤ 262144) &&
    fieldAt b 12 4 % (max e 1) == 0 && decide (e * sivTop b ≤ fieldAt b 12 4) &&
    decide (fieldAt b 38 2 ≤ 256) && decide (fieldAt b 40 2 ≤ 4096) &&
    (fieldAt b 3 1 != 3 || (FV.fin false 0 0).lt sigma) &&
    fieldAt b 64 8 % 64 == 0 && ((form == 1 || form == 2) || fieldAt b 72 8 % 64 == 0) && fieldAt b 80 8 % 64 == 0 &&
    tagOk b 88 && decide (fieldAt b 101 1 ≤ 63) && reservedZero b [(29, 3), (42, 2), (102, 2), (112, 16)]

/-- Every extent of the job is good (R438). -/
def Chip.sivAddrOk (ch : Chip) (b : List Byte) : Bool :=
  let e := sivElem (fieldAt b 2 1)
  let n := fieldAt b 8 4
  let form := fieldAt b 1 1
  ch.extentOk (fieldAt b 56 8) ((n - 1) * fieldAt b 12 4 + e * sivTop b) && ch.extentOk (fieldAt b 64 8) 64 &&
    (form != 3 || ch.extentOk (fieldAt b 72 8) (16 * n)) && (form != 4 || ch.extentOk (fieldAt b 72 8) 64) &&
    ch.outOk .sieve (fieldAt b 80 8) (64 + 64 * fieldAt b 38 2)

/-- Levels of a FORM 4 table: (W, H, stride). -/
def levels (t : List Byte) : List (Nat × Nat × Nat) :=
  (List.range (fieldAt t 40 1)).map fun l => (fieldAt t (8 * l) 2, fieldAt t (8 * l + 2) 2, fieldAt t (8 * l + 4) 4)

/-- The level table is good for a number of rows. -/
def levelsOk (t : List Byte) (rows : Nat) : Bool :=
  let n := fieldAt t 40 1
  decide (1 ≤ n) && decide (n ≤ 5) && reservedZero t [(41, 23)] &&
    decide (rows ≤ (levels t).foldl (fun a l => a + l.1 * l.2.1) 0)

/-! ### Decode (R421 to R424) -/

/-- Element `i` of the row at `a`, as binary32. -/
def Chip.sivEl (ch : Chip) (b : List Byte) (a i : Nat) : Nat :=
  match fieldAt b 2 1 with
  | 2 => fp32.mul (fp32.ofInt (sgn 8 (ch.load (a + i) 1) - sgn 8 (fieldAt b 28 1))) (fieldAt b 24 4)
  | 3 => fp16.conv fp32 (ch.load (a + 2 * i) 2)
  | _ => ch.load (a + 4 * i) 4

def one32 : Nat := 0x3F800000

/-- 1 / (1 + exp(-x)), each operation rounded. -/
def sigmoid32 (x : Nat) : Nat := fp32.div one32 (fp32.add one32 (fp32.exp (x ^^^ 0x80000000)))

/-- f of R422. -/
def sivF (opt x : Nat) : Nat := if bit opt 0 then sigmoid32 x else x

/-- The Q16 score of a binary32 score. -/
def q16 (x : Nat) : Nat :=
  match fp32.dec x with
  | .nan => 0
  | .inf s => if s then 0 else 65535
  | .fin s m e => if s then 0 else match (FV.fin false m (e + 16)).nearestInt with
    | some i => min 65535 i.toNat
    | none => 0

/-- A candidate (R422, R424): score, row, class, corners (x0, y0, x1, y1) and landmarks in picture coordinates. -/
structure Cand where
  score : Nat
  row : Nat
  cls : Nat
  x0 : Nat
  y0 : Nat
  x1 : Nat
  y1 : Nat
  lmk : List (Nat × Nat)
  deriving DecidableEq, Repr

/-- Q16 scores of the row at `a`, by class. -/
def Chip.sivScores (ch : Chip) (b : List Byte) (a : Nat) : List Nat :=
  let opt := fieldAt b 4 1
  let o := sivF opt (ch.sivEl b a (fieldAt b 18 2))
  (List.range (fieldAt b 6 2)).map fun c =>
    let s := sivF opt (ch.sivEl b a (fieldAt b 16 2 + c))
    q16 (if bit opt 1 then fp32.mul s o else s)

/-- The (class, score) pairs of a row that count (R422). -/
def sivPicks (opt thresh : Nat) (scores : List Nat) : List (Nat × Nat) :=
  let cs := scores.zipIdx.map fun e => (e.2, e.1)
  let cs := if bit opt 2 then cs
    else match argMin (fun (e : Nat × Nat) => 65536 - e.2) cs with
      | some e => [e]
      | none => []
  cs.filter fun e => decide (thresh ≤ e.2)

/-- The level of a row and its index in the level. -/
def levelOfRow : List (Nat × Nat × Nat) → Nat → Option (Nat × Nat × Nat)
  | [], _ => none
  | (w, h, s) :: t, q => if q < w * h then some (w, s, q) else levelOfRow t (q - w * h)

/-- The reference of a row: the anchor of FORM 3 as (ax, ay, aw, ah), the point and factor of FORM 4 as (px, py, s, s). -/
def Chip.sivRef (ch : Chip) (b : List Byte) (r : Nat) : Nat × Nat × Nat × Nat :=
  match fieldAt b 1 1 with
  | 3 =>
    let a := fieldAt b 72 8 + 16 * r
    (ch.load a 4, ch.load (a + 4) 4, ch.load (a + 8) 4, ch.load (a + 12) 4)
  | 4 =>
    match levelOfRow (levels (ch.bytes (fieldAt b 72 8) 64)) r with
    | some (w, s, q) =>
      let half := 0x3F000000
      let k := if bit (fieldAt b 4 1) 4 then s else one32
      (fp32.mul (fp32.add (fp32.ofInt (q % w : Nat)) half) s, fp32.mul (fp32.add (fp32.ofInt (q / w : Nat)) half) s, k, k)
    | none => (0, 0, 0, 0)
  | _ => (0, 0, 0, 0)

/-- The smaller of x and 16; a NaN stays. -/
def min16 (x : Nat) : Nat := if (fp32.dec 0x41800000).lt (fp32.dec x) then 0x41800000 else x

/-- The decoded box in model pixels: (x0, y0, x1, y1) (R423). -/
def sivBox (b : List Byte) (rf : Nat × Nat × Nat × Nat) (b0 b1 b2 b3 : Nat) : Nat × Nat × Nat × Nat :=
  let half := 0x3F000000
  let corners (cx cy w h : Nat) : Nat × Nat × Nat × Nat :=
    (fp32.sub cx (fp32.mul w half), fp32.sub cy (fp32.mul h half), fp32.add cx (fp32.mul w half), fp32.add cy (fp32.mul h half))
  let v0 := fieldAt b 48 4
  let v1 := fieldAt b 52 4
  match fieldAt b 1 1 with
  | 2 => corners b0 b1 b2 b3
  | 3 =>
    corners (fp32.add rf.1 (fp32.mul (fp32.mul b0 v0) rf.2.2.1)) (fp32.add rf.2.1 (fp32.mul (fp32.mul b1 v0) rf.2.2.2))
      (fp32.mul rf.2.2.1 (fp32.exp (min16 (fp32.mul b2 v1)))) (fp32.mul rf.2.2.2 (fp32.exp (min16 (fp32.mul b3 v1))))
  | 4 =>
    (fp32.sub rf.1 (fp32.mul b0 rf.2.2.1), fp32.sub rf.2.1 (fp32.mul b1 rf.2.2.1), fp32.add rf.1 (fp32.mul b2 rf.2.2.1),
      fp32.add rf.2.1 (fp32.mul b3 rf.2.2.1))
  | _ => (b0, b1, b2, b3)

/-- A landmark in model pixels (R423). -/
def sivLmk (b : List Byte) (rf : Nat × Nat × Nat × Nat) (d e : Nat) : Nat × Nat :=
  let v0 := fieldAt b 48 4
  match fieldAt b 1 1 with
  | 3 => (fp32.add rf.1 (fp32.mul (fp32.mul d v0) rf.2.2.1), fp32.add rf.2.1 (fp32.mul (fp32.mul e v0) rf.2.2.2))
  | 4 => (fp32.add rf.1 (fp32.mul d rf.2.2.1), fp32.add rf.2.1 (fp32.mul e rf.2.2.1))
  | _ => (d, e)

/-- A model coordinate in picture coordinates (R424), in binary64: corner + (x - o)·extent / p, rounded and clamped.
(DESIGN CHOICE, log entry 113.) -/
def sivMap (x o corner extent p : Nat) : Nat :=
  let i (n : Nat) : Nat := fp64.ofInt (n : Int)
  let u := fp64.add (i corner) (fp64.div (fp64.mul (fp64.sub (fp32.conv fp64 x) (i o)) (i extent)) (i p))
  match fp64.dec u with
  | .nan => max corner (min (corner + extent) (Config.nanCoord corner extent))
  | .inf s => if s then corner else corner + extent
  | v => match v.nearestInt with
    | some k => (clampI corner (corner + extent : Nat) k).toNat
    | none => corner

/-- The candidates of row `r` (R421 to R424), before the degenerate ones go. `st` is the status entry. -/
def Chip.sivRow (ch : Chip) (b st : List Byte) (r : Nat) : List Cand :=
  let a := fieldAt b 56 8 + r * fieldAt b 12 4
  let el := ch.sivEl b a
  let rf := ch.sivRef b r
  let bo := fieldAt b 20 2
  let lo := fieldAt b 22 2
  let mx (x : Nat) : Nat := sivMap x (fieldAt st 20 2) (fieldAt st 24 4) (fieldAt st 32 4) (fieldAt st 16 2)
  let my (y : Nat) : Nat := sivMap y (fieldAt st 22 2) (fieldAt st 28 4) (fieldAt st 36 4) (fieldAt st 18 2)
  (sivPicks (fieldAt b 4 1) (fieldAt b 32 2) (ch.sivScores b a)).map fun p =>
    let box := sivBox b rf (el bo) (el (bo + 1)) (el (bo + 2)) (el (bo + 3))
    let lm := (List.range (fieldAt b 5 1)).map fun k =>
      let m := sivLmk b rf (el (lo + 2 * k)) (el (lo + 2 * k + 1))
      (mx m.1, my m.2)
    ⟨p.2, r, p.1, mx box.1, my box.2.1, mx box.2.2.1, my box.2.2.2, lm⟩

/-- Some element that row `r` reads is poisoned (R420): its scores, and its box and landmarks where it gives a candidate. -/
def Chip.sivRowPoison (ch : Chip) (b : List Byte) (r : Nat) (used : Bool) : Bool :=
  let e := sivElem (fieldAt b 2 1)
  let a := fieldAt b 56 8 + r * fieldAt b 12 4
  ch.anyPoison (a + e * fieldAt b 16 2) (e * fieldAt b 6 2) ||
    (bit (fieldAt b 4 1) 1 && ch.anyPoison (a + e * fieldAt b 18 2) e) ||
    (used && (ch.anyPoison (a + e * fieldAt b 20 2) (4 * e) || ch.anyPoison (a + e * fieldAt b 22 2) (2 * fieldAt b 5 1 * e)))

/-! ### Suppression (R425) -/

def Cand.degenerate (c : Cand) : Bool := decide (c.x1 ≤ c.x0) || decide (c.y1 ≤ c.y0)

/-- `a` comes before `b` in the sort: higher score, then lower row, then lower class. -/
def Cand.before (a b : Cand) : Bool :=
  decide (b.score < a.score) ||
    (a.score == b.score && (decide (a.row < b.row) || (a.row == b.row && decide (a.cls ≤ b.cls))))

def insCand (c : Cand) : List Cand → List Cand
  | [] => [c]
  | d :: t => if c.before d then c :: d :: t else d :: insCand c t

def sortCands (xs : List Cand) : List Cand := xs.foldl (fun a c => insCand c a) []

/-- Q16 IoU of two boxes given by their corners, in exact integers. -/
def iouQ16 (ax0 ay0 ax1 ay1 bx0 by0 bx1 by1 : Int) : Nat :=
  let iw := min ax1 bx1 - max ax0 bx0
  let ih := min ay1 by1 - max ay0 by0
  let inter := if iw ≤ 0 ∨ ih ≤ 0 then 0 else iw * ih
  let union := (ax1 - ax0) * (ay1 - ay0) + (bx1 - bx0) * (by1 - by0) - inter
  if union ≤ 0 then 0 else (inter * 65536 / union).toNat

def Cand.iou (a b : Cand) : Nat := iouQ16 a.x0 a.y0 a.x1 a.y1 b.x0 b.y0 b.x1 b.y1

/-- "Overlaps" (R425). -/
def Cand.overlaps (blk : List Byte) (a b : Cand) : Bool :=
  (!bit (fieldAt blk 4 1) 3 || a.cls == b.cls) && decide (fieldAt blk 36 2 < a.iou b)

/-- Greedy suppression. -/
def nmsGreedy (blk : List Byte) (maxOut : Nat) : List Cand → List Cand → List Cand
  | [], kept => kept
  | c :: t, kept =>
    if maxOut ≤ kept.length then kept
    else if kept.any fun k => c.overlaps blk k then nmsGreedy blk maxOut t kept
    else nmsGreedy blk maxOut t (kept ++ [c])

/-- A decayed score (NMS 2 and 3). -/
def decay (blk : List Byte) (s iou : Nat) : Nat :=
  if fieldAt blk 3 1 = 2 then s * (65536 - iou) / 65536
  else
    let x := fp32.div (fp32.ofInt (iou : Nat)) (fp32.ofInt 65536)
    let g := fp32.exp (fp32.div (fp32.mul x x ^^^ 0x80000000) (fieldAt blk 44 4))
    ((FV.fin false s 0).mul (fp32.dec g)).floorClamp 0 65535 |>.toNat

/-- Soft suppression, one kept box per round. (DEDUCED, log entry 114.) -/
def nmsSoft (blk : List Byte) : Nat → List Cand → List Cand
  | 0, _ => []
  | n + 1, xs =>
    match sortCands xs with
    | [] => []
    | c :: t =>
      c :: nmsSoft blk n (t.filterMap fun d =>
        if d.overlaps blk c then
          let s := decay blk d.score (d.iou c)
          if s < fieldAt blk 34 2 then none else some { d with score := s }
        else some d)

/-- Kept detections in the order kept. (DEDUCED, log entry 114.) -/
def sivKeep (blk : List Byte) (cands : List Cand) : List Cand :=
  let xs := (sortCands cands).take (fieldAt blk 40 2)
  let m := fieldAt blk 38 2
  match fieldAt blk 3 1 with
  | 0 => xs.take m
  | 1 => nmsGreedy blk m xs []
  | _ => nmsSoft blk m xs

/-! ### Output (R426, R437) -/

/-- A detection entry. -/
def Cand.bytes (c : Cand) : List Byte :=
  padTo 64 (toLe 4 c.x0 ++ toLe 4 c.y0 ++ toLe 4 c.x1 ++ toLe 4 c.y1 ++ toLe 2 c.score ++ toLe 2 c.cls ++ toLe 4 c.row ++
    c.lmk.flatMap fun p => toLe 4 p.1 ++ toLe 4 p.2)

/-- A detection list header. -/
def listHeader (st : Stamp) (count ncand lflags ndegen : Nat) : List Byte :=
  padTo 64 (st.bytes ++ toLe 2 count ++ toLe 2 (min 65535 ncand) ++ toLe 1 lflags ++ zeros 1 ++ toLe 2 (min 65535 ndegen))

/-- LFLAGS bits. -/
def lfStale : Nat := 1
def lfCrop : Nat := 2
def lfPoison : Nat := 4

/-- The FRAME_SUMMARY record (R485). -/
def summaryRec (st : Stamp) (count ncand ndegen lflags cookie : Nat) : List Byte :=
  padTo 64 (toLe 1 0x10 ++ toLe 1 (bnat (bit lflags 2)) ++ zeros 14 ++ st.bytes ++ toLe 2 count ++ toLe 2 (min 65535 ncand) ++
    toLe 2 (min 65535 ndegen) ++ toLe 1 lflags ++ zeros 1 ++ toLe 4 cookie)

/-- The job's result is ready: its token leaves at the completion. (DEDUCED, log entry 112.) -/
def Chip.sivRun (ch : Chip) (j : QJob) (status count : Nat) (poison : Bool) : Chip :=
  let t := jobToken j.blk 88 (listWord status count (fieldAt j.blk 96 4)) poison
  let c : Chip := { ch with siv := some ⟨j.slot, t⟩ }
  (c.setFlag F.SIV_STAT_BUSY true).qPoison .sieve poison

/-- The frame of a status entry: the chip's record of it, or the entry's own words where the frame is on the route no more. -/
def Chip.sivStamp (ch : Chip) (st : List Byte) : Stamp :=
  match ch.frameOf (fieldAt st 0 2) (fieldAt st 4 4) with
  | some s => s
  | none => ⟨fieldAt st 0 2, 0, 0, fieldAt st 4 4, fieldAt st 8 8, 0, 0⟩

/-- The level table of a FORM 4 job. -/
def sivTable (b : List Byte) : Nat := fieldAt b 72 8

/-- A job whose checks passed (R421 to R426). The level table of FORM 4 was read in the checks. (DEDUCED, log entry 112.) -/
def Chip.sivBody (ch : Chip) (j : QJob) : Chip :=
  let b := j.blk
  let st := ch.bytes (fieldAt b 64 8) 64
  let form := fieldAt b 1 1
  let p0 := j.poison || ch.anyPoison (fieldAt b 64 8) 64 || (form == 4 && ch.anyPoison (sivTable b) 64)
  let out := fieldAt b 80 8
  let stamp := ch.sivStamp st
  let flags := 8 * bnat (bit (fieldAt st 3 1) 1) + 16 * bnat (bit (fieldAt st 3 1) 2)
  let head (ch : Chip) (lf status : Nat) (p : Bool) : Chip :=
    (ch.store out (listHeader stamp 0 0 (lf + lfPoison * bnat p + flags) 0) p).sivRun j status 0 p
  if fieldAt st 2 1 ≠ 0 then head ch lfCrop 4 p0
  else if (ch.frameOf stamp.stream stamp.frame).isSome && stamp.stale ch.now then
    (head ch lfStale 3 p0).dropFrame stamp 6 0 226
  else
    let rows := (List.range (fieldAt b 8 4)).map fun r => (r, ch.sivRow b st r)
    let n := fieldAt b 8 4
    let p := p0 || (form == 3 && ch.anyPoison (fieldAt b 72 8) (16 * n)) ||
      rows.any fun e => ch.sivRowPoison b e.1 (!e.2.isEmpty)
    let all := rows.flatMap fun e => e.2
    let good := all.filter fun c => !c.degenerate
    let ndeg := all.length - good.length
    let kept := sivKeep b good
    let lf := lfPoison * bnat p + flags
    let c := ch.countN F.SIV_DEGEN_COUNT F.SIV_STAT_OVF 2 ndeg
    let c := c.store out (listHeader stamp kept.length all.length lf ndeg ++ kept.flatMap Cand.bytes) p
    let c := if bit (fieldAt b 4 1) 5 then
        c.blockSubmit (fieldAt b 100 1) (bit (fieldAt b 4 1) 6) (fieldAt b 101 1) stamp.frame stamp false
          (summaryRec stamp kept.length all.length ndeg lf (fieldAt b 96 4))
      else c
    c.sivRun j 0 kept.length p

/-- SIEVE_JOB (R421 to R427, R438): the Sieve takes the job at HEAD and runs it, or refuses it. -/
def execSieveJob (c : ChipId) (s : State) : Res :=
  onIsland s c fun ch =>
    match ch.takeJob .sieve with
    | (none, ch) => ch
    | (some j, ch) =>
      let refuse (st : Nat) : Chip := ch.qRefuse .sieve j 88 (listWord st 0 (fieldAt j.blk 96 4))
      if !sivFieldsOk j.blk then refuse 1
      else if !ch.sivAddrOk j.blk then refuse 2
      else if fieldAt j.blk 1 1 == 4 && !levelsOk (ch.bytes (sivTable j.blk) 64) (fieldAt j.blk 8 4) then
        (refuse 1).qPoison .sieve (ch.anyPoison (sivTable j.blk) 64)
      else ch.sivBody j

/-- SIEVE_JOB_COMPLETE (R427, R439): the list is visible: the token is emitted and JOBS counts. -/
def execSieveJobComplete (c : ChipId) (s : State) : Res :=
  onIsland s c fun ch =>
    match ch.siv with
    | none => ch
    | some r =>
      let c : Chip := { ch with siv := none }
      ((c.setFlag F.SIV_STAT_BUSY false).qToken r.token).count64 F.SIV_JOBS_COUNT F.SIV_STAT_JOBS_WRAP 0 F.SIV_WRAP_COUNT
        F.SIV_STAT_WRAP_OVF 0 1

end Sys2Proof.Machine
end

