-- ==== Sys2Proof/Machine/Hound.lean ====
section
/-! DEFINITION. The Hound (R429 to R433, R435 to R441): image tracks of a stream and room tracks of a set. -/

namespace Sys2Proof.Machine

open Sys2Proof

/-! ### Shared arithmetic -/

/-- Track states under their codes (R437). -/
def tkTentative : Nat := 1
def tkConfirmed : Nat := 2
def tkCoasting : Nat := 3
def tkDeleted : Nat := 4

/-- v · dt / 10^9, rounded half to even (R430). -/
def advance (v dt : Int) : Int := roundEven ((v * dt : Int) / (1000000000 : Rat))

/-- A position corrected by ALPHA (R430). -/
def alphaStep (alpha : Nat) (x r : Int) : Int := x + ((alpha : Int) * r + 32768) / 65536

/-- A velocity corrected by BETA (R430). -/
def betaStep (beta : Nat) (v r dt : Int) : Int := v + (beta : Int) * r * 1000000000 / (65536 * max dt 1000000)

/-- Pairs taken one after another, each when both sides are free. A pair is (track, detection). -/
def takePairs : List (Nat × Nat) → List (Nat × Nat) → List (Nat × Nat)
  | [], acc => acc
  | p :: t, acc =>
    if acc.any fun q => q.1 == p.1 || q.2 == p.2 then takePairs t acc else takePairs t (acc ++ [p])

/-- Insertion by a measure, after equal measures. -/
def insBy {α : Type} (f : α → Nat) (x : α) : List α → List α
  | [] => [x]
  | y :: t => if f x < f y then x :: y :: t else y :: insBy f x t

def sortBy {α : Type} (f : α → Nat) (xs : List α) : List α := xs.foldl (fun a x => insBy f x a) []

/-- The next serial (R429). -/
def nextSerial (s : Nat) : Nat := if s + 1 < 2 ^ 29 then s + 1 else 1

/-- State and counts after a job that matched, or did not match, a track (R440): (state, hits, misses). -/
def lifeStep (nConfirm maxAge st hits misses : Nat) (hit : Bool) : Nat × Nat × Nat :=
  if st = tkTentative then
    if hit then (if nConfirm ≤ hits + 1 then tkConfirmed else tkTentative, hits + 1, misses)
    else (tkDeleted, hits, misses)
  else if hit then (tkConfirmed, hits, 0)
  else (if maxAge < misses + 1 then tkDeleted else tkCoasting, hits, misses + 1)

/-- State at birth. -/
def birthState (nConfirm : Nat) : Nat := if nConfirm ≤ 1 then tkConfirmed else tkTentative

/-! ### TRACK (R430, R431, R435) -/

/-- A detection as the list gives it. -/
structure Det where
  x0 : Int
  y0 : Int
  x1 : Int
  y1 : Int
  score : Nat
  cls : Nat
  deriving DecidableEq, Repr

def Det.ofBytes (e : List Byte) : Det :=
  ⟨fieldAt e 0 4, fieldAt e 4 4, fieldAt e 8 4, fieldAt e 12 4, fieldAt e 16 2, fieldAt e 18 2⟩

/-- The box of a track (R430). -/
def Track.box (t : Track) : Int × Int × Int × Int :=
  let x0 := t.cx - t.w / 2
  let y0 := t.cy - t.h / 2
  (x0, y0, x0 + t.w, y0 + t.h)

/-- Predicted to a stamp. -/
def Track.predict (t : Track) (stamp : Nat) : Track :=
  let dt : Int := (stamp : Int) - t.stamp
  { t with cx := t.cx + advance t.vx dt, cy := t.cy + advance t.vy dt }

def Track.iou (t : Track) (d : Det) : Nat :=
  let b := t.box
  iouQ16 b.1 b.2.1 b.2.2.1 b.2.2.2 d.x0 d.y0 d.x1 d.y1

/-- Eligible pairs in the order of R430: IoU descending, then track slot, then detection index. -/
def eligible (gate : Nat) (ts : List Track) (ds : List (Nat × Det)) : List (Nat × Nat) :=
  let ps := ts.flatMap fun t => (ds.filter fun d => d.2.cls == t.cls && decide (0 < t.iou d.2) && decide (gate ≤ t.iou d.2)).map
    fun d => (t.slot, d.1, t.iou d.2)
  (sortBy (fun (p : Nat × Nat × Nat) => 65536 - p.2.2) ps).map fun p => (p.1, p.2.1)

/-- A matched track corrected by its detection (R430); `t` is predicted. -/
def Track.update (t : Track) (d : Det) (alpha beta : Nat) (dt : Int) : Track :=
  let rx := (d.x0 + d.x1) / 2 - t.cx
  let ry := (d.y0 + d.y1) / 2 - t.cy
  { t with
    cx := alphaStep alpha t.cx rx
    cy := alphaStep alpha t.cy ry
    vx := betaStep beta t.vx rx dt
    vy := betaStep beta t.vy ry dt
    w := alphaStep alpha t.w (d.x1 - d.x0 - t.w)
    h := alphaStep alpha t.h (d.y1 - d.y0 - t.h)
    score := d.score }

/-- The room point of a track's box under a calibration block (R431): X, Y, Z in mm. -/
def roomPoint (cal : List Byte) (b : Int × Int × Int × Int) : Option (Int × Int × Int) :=
  let h (i : Nat) : Nat := fieldAt cal (4 * i) 4
  let px := fp32.enc (FV.ofInt (b.1 + b.2.2.1) (-9) false)
  let py := fp32.enc (FV.ofInt b.2.2.2 (-8) false)
  let lin (i : Nat) : Nat := fp32.add (fp32.add (fp32.mul (h i) px) (fp32.mul (h (i + 1)) py)) (h (i + 2))
  let w := lin 6
  if (FV.fin false 0 0).lt (fp32.dec w) then
    match (fp32.dec (fp32.div (lin 0) w)).nearestInt, (fp32.dec (fp32.div (lin 3) w)).nearestInt with
    | some x, some y => some (x, y, sgn 32 (fieldAt cal 36 4))
    | _, _ => none
  else none

/-- A room observation (R436). -/
def roomObs (chip tslot cls : Nat) (p : Int × Int × Int) : Nat :=
  let xy (v : Int) : Nat := usgn 16 (clampI (-32767) 32767 (roundEven (v / (4 : Rat))))
  xy p.1 + xy p.2.1 * 2 ^ 16 + (clampI 0 1023 (roundEven (p.2.2 / (8 : Rat)))).toNat * 2 ^ 32 + chip % 4 * 2 ^ 42 +
    tslot % 4096 * 2 ^ 44 + cls % 256 * 2 ^ 56

/-- A track entry (R437). -/
def Track.bytes (t : Track) (matched new : Bool) (det : Option Nat) (room : Option (Int × Int × Int)) : List Byte :=
  let b := t.box
  let i32 (v : Int) : List Byte := toLe 4 (usgn 32 v)
  let p := room.getD (0, 0, 0)
  padTo 64 (toLe 4 t.id ++ toLe 1 t.state ++
    toLe 1 (bnat matched + 2 * bnat t.poison + 4 * bnat room.isSome + 8 * bnat new) ++ toLe 2 t.cls ++
    i32 b.1 ++ i32 b.2.1 ++ i32 b.2.2.1 ++ i32 b.2.2.2 ++ i32 t.vx ++ i32 t.vy ++ toLe 2 t.score ++
    toLe 2 (det.getD 0xFFFF) ++ toLe 2 (min 0xFFFF t.hits) ++ toLe 1 (min 255 t.misses) ++ zeros 1 ++
    toLe 4 (min max32 t.age) ++ i32 (satI 32 p.1) ++ i32 (satI 32 p.2.1) ++ i32 (satI 32 p.2.2) ++ toLe 4 t.slot)

/-- The track set of a stream. -/
def Chip.trackSet (ch : Chip) (stream : Nat) : Option TrackSet := ch.hnd.sets.find? fun s => s.stream == stream

def Chip.putTrackSet (ch : Chip) (x : TrackSet) : Chip :=
  { ch with hnd := { ch.hnd with sets := (ch.hnd.sets.filter fun s => s.stream != x.stream) ++ [x] } }

/-- Tracks in use on the chip, by slot. -/
def Chip.trackSlots (ch : Chip) : List Nat := ch.hnd.sets.flatMap fun s => s.tracks.map (·.slot)

/-- The lowest free number below `n`. -/
def lowestFree (n : Nat) (used : List Nat) : Option Nat := (List.range n).find? fun i => !used.contains i

/-- Fields of a TRACK block in range (R435, R438). (DEDUCED, log entry 115.) -/
def Chip.trackFieldsOk (ch : Chip) (j : QJob) : Bool :=
  let b := j.blk
  let opt := fieldAt b 1 1
  let kindOk := match ch.stream (fieldAt b 2 2) with
    | some s => s.kind == 1 || s.kind == 2
    | none => false
  let setOk := match ch.trackSet (fieldAt b 2 2) with
    | some x => x.slot == j.slot
    | none => true
  decide (opt < 4) && kindOk && setOk && (!bit opt 0 || (fieldAt b 52 4 != 0 && fieldAt b 32 8 % 64 == 0)) && tagOk b 40 &&
    decide (fieldAt b 50 2 < 1024) && reservedZero b [(60, 4), (72, 56)]

/-- The number of entries a TRACK job can write. -/
def Chip.trackMax (ch : Chip) (b : List Byte) (n : Nat) : Nat :=
  min 256 (n + (match ch.trackSet (fieldAt b 2 2) with
    | some x => x.tracks.length
    | none => 0))

/-- Extents of a TRACK job (R438). -/
def Chip.trackAddrOk (ch : Chip) (b : List Byte) : Bool :=
  let a := fieldAt b 16 8
  let n := if ch.extentOk a 64 then ch.load (a + 32) 2 else 0
  ch.extentOk a (64 + 64 * n) && ch.outOk .hound (fieldAt b 24 8) (64 + 64 * ch.trackMax b n) &&
    (!bit (fieldAt b 1 1) 0 || ch.extentOk (fieldAt b 32 8) 64)

/-- A finished job: its tokens leave at the completion. -/
def Chip.hndRun (ch : Chip) (slot : Nat) (tokens : List (BitVec 128)) (poison : Bool) : Chip :=
  let c : Chip := { ch with hnd := { ch.hnd with run := some ⟨slot, tokens⟩ } }
  (c.setFlag F.HND_STAT_BUSY true).hndLive.qPoison .hound poison

/-- The births of a TRACK job (R430): each free high detection in index order, or FULL. Answers the chip's serial, the new
tracks and the number refused. -/
def birthTracks (chip nConfirm stamp : Nat) (poison : Bool) :
    List (Nat × Det) → (used : List Nat) → (room : Nat) → (serial : Nat) → List Track × Nat × Nat
  | [], _, _, serial => ([], serial, 0)
  | (_, d) :: t, used, room, serial =>
    match (if 0 < room then lowestFree 4096 used else none) with
    | none =>
      let r := birthTracks chip nConfirm stamp poison t used room serial
      (r.1, r.2.1, r.2.2 + 1)
    | some k =>
      let s := nextSerial serial
      let trk : Track := ⟨k, chip * 2 ^ 30 + s, d.cls, birthState nConfirm, (d.x0 + d.x1) / 2, (d.y0 + d.y1) / 2, d.x1 - d.x0,
        d.y1 - d.y0, 0, 0, 1, 0, 0, stamp, d.score, poison⟩
      let r := birthTracks chip nConfirm stamp poison t (used ++ [k]) (room - 1) s
      (trk :: r.1, r.2.1, r.2.2)

/-- A track list header (R437): bytes 0 to 36 of the detection list with the entry count. -/
def trackHeader (list : List Byte) (count lflags new ended : Nat) : List Byte :=
  padTo 64 (list.take 32 ++ toLe 2 count ++ (list.drop 34).take 2 ++ toLe 1 lflags ++ zeros 1 ++ toLe 2 new ++ toLe 2 ended)

/-- The six steps of a TRACK job on a set (R430, R431). -/
def Chip.trackBody (ch : Chip) (j : QJob) (set : TrackSet) (list : List Byte) (poison : Bool) : Chip :=
  let b := j.blk
  let opt := fieldAt b 1 1
  let stamp := fieldAt list 8 8
  let lf := fieldAt list 36 1 ||| (lfPoison * bnat poison)
  let dets : List (Nat × Det) := (List.range (fieldAt list 32 2)).map fun i =>
    (i, Det.ofBytes (ch.bytes (fieldAt b 16 8 + 64 + 64 * i) 64))
  let hi := fieldAt b 8 2
  let lo := fieldAt b 10 2
  let alpha := fieldAt b 12 2
  let beta := fieldAt b 14 2
  let nc := fieldAt b 4 1
  let ma := fieldAt b 5 1
  let ts := sortBy (·.slot) (set.tracks.map fun t => t.predict stamp)
  let high := dets.filter fun d => decide (hi ≤ d.2.score)
  let pass1 := takePairs (eligible (fieldAt b 6 2) ts high) []
  let pass2 := if bit opt 1 then
      takePairs (eligible (fieldAt b 6 2) (ts.filter fun t => t.state == tkConfirmed || t.state == tkCoasting)
        (dets.filter fun d => decide (lo ≤ d.2.score) && decide (d.2.score < hi))) pass1
    else pass1
  let old := ts.map fun t =>
    let m := (pass2.find? fun p => p.1 == t.slot).map (·.2)
    let dt : Int := (stamp : Int) - t.stamp
    let t' := match m.bind fun i => dets.find? fun d => d.1 == i with
      | some d => { t.update d.2 alpha beta dt with poison := poison }
      | none => t
    let l := lifeStep nc ma t.state t.hits t.misses m.isSome
    ({ t' with state := l.1, hits := l.2.1, misses := l.2.2, age := t.age + 1, stamp := stamp }, m)
  let free := high.filter fun d => !pass2.any fun p => p.2 == d.1
  let born := birthTracks ch.pos.val nc stamp poison free ch.trackSlots (256 - old.length) ch.hnd.serial
  let cal := ch.bytes (fieldAt b 32 8) 64
  let room (t : Track) : Option (Int × Int × Int) := if bit opt 0 then roomPoint cal t.box else none
  let ended := (old.filter fun e => e.1.state == tkDeleted).length
  let entries := sortBy (fun (e : Track × Option Nat × Bool) => e.1.slot)
    (old.map (fun e => (e.1, e.2, false)) ++ born.1.map fun t => (t, none, true))
  let out := entries.flatMap fun e => e.1.bytes e.2.1.isSome e.2.2 e.2.1 (room e.1)
  let iter := if fieldAt b 52 4 = 0 then 0 else stamp / fieldAt b 52 4 % 2 ^ 20
  let rt := fieldAt b 48 2
  let obs := if bit opt 0 then entries.filterMap fun e =>
      if e.1.state == tkConfirmed && e.2.1.isSome then
        (room e.1).map fun p =>
          mkToken (roomObs ch.pos.val e.1.slot e.1.cls p) (rt % 2 ^ 14) (rt / 2 ^ 14) (fieldAt b 50 2) iter (tokPoison poison)
      else none
    else []
  let c := ch.store (fieldAt b 24 8) (trackHeader list entries.length lf born.1.length ended ++ out) poison
  let c := c.putTrackSet { set with
    last := some (fieldAt list 4 4), tracks := (entries.map (·.1)).filter fun t => t.state != tkDeleted }
  let c : Chip := { c with hnd := { c.hnd with serial := born.2.1 } }
  let c := c.countN F.HND_FULL_COUNT F.HND_STAT_OVF 2 born.2.2
  let c := if 0 < born.2.2 then c.setFlag F.HND_STAT_FULL_SEEN true else c
  c.hndRun j.slot (obs ++ [jobToken b 40 (listWord 0 entries.length (fieldAt b 56 4)) poison]) poison

/-- A TRACK job (R430, R438). (DEDUCED, log entry 115.) -/
def Chip.trackJob (ch : Chip) (j : QJob) : Chip :=
  let b := j.blk
  let head := fieldAt b 16 8
  let refuse (st : Nat) : Chip :=
    (ch.qRefuse .hound j 40 (listWord st 0 (fieldAt b 56 4))).qPoison .hound
      (ch.trackFieldsOk j && ch.extentOk head 64 && ch.anyPoison head 64)
  if !ch.trackFieldsOk j then refuse 1
  else if !ch.trackAddrOk b then refuse 2
  else
    let list := ch.bytes (fieldAt b 16 8) 64
    let n := fieldAt list 32 2
    let poison := j.poison || ch.anyPoison (fieldAt b 16 8) (64 + 64 * n) ||
      (bit (fieldAt b 1 1) 0 && ch.anyPoison (fieldAt b 32 8) 64)
    let set := (ch.trackSet (fieldAt b 2 2)).getD ⟨fieldAt b 2 2, j.slot, none, []⟩
    let late := match set.last with
      | some f => decide (fieldAt list 4 4 ≤ f)
      | none => false
    if fieldAt list 0 2 ≠ fieldAt b 2 2 then refuse 1
    else if late then refuse 5
    else
      let lf := fieldAt list 36 1
      if bit lf 0 || bit lf 1 then
        let c := ch.store (fieldAt b 24 8) (trackHeader list 0 (lf ||| (lfPoison * bnat poison)) 0 0) poison
        let c := c.putTrackSet { set with last := some (fieldAt list 4 4) }
        c.hndRun j.slot [jobToken b 40 (listWord 0 0 (fieldAt b 56 4)) poison] poison
      else ch.trackBody j set list poison

/-! ### FUSE (R432, R435) -/

/-- An observation decoded (R436): x, y, z in mm and class. -/
structure Obs where
  x : Int
  y : Int
  z : Int
  cls : Nat
  deriving DecidableEq, Repr

def Obs.ofNat (q : Nat) : Obs :=
  ⟨4 * sgn 16 (bits q 0 16), 4 * sgn 16 (bits q 16 16), 8 * (bits q 32 10 : Nat), bits q 56 8⟩

def RoomTrack.predict (t : RoomTrack) (dt : Int) : RoomTrack :=
  { t with x := t.x + advance t.vx dt, y := t.y + advance t.vy dt, z := t.z + advance t.vz dt }

/-- d² of an observation and a place. -/
def dist2 (o : Obs) (x y : Int) : Nat := ((o.x - x) ^ 2 + (o.y - y) ^ 2).toNat

/-- Floor of the mean of a coordinate. -/
def meanOf (f : Obs → Int) (os : List Obs) : Int := if os = [] then 0 else (os.foldl (fun a o => a + f o) 0) / (os.length : Int)

/-- A room track entry (R437). -/
def RoomTrack.bytes (t : RoomTrack) : List Byte :=
  let i32 (v : Int) : List Byte := toLe 4 (usgn 32 v)
  padTo 64 (toLe 4 t.id ++ toLe 1 t.state ++ toLe 1 (min 255 t.nsrc) ++ toLe 1 t.cls ++ zeros 1 ++ i32 t.x ++ i32 t.y ++ i32 t.z ++
    i32 t.vx ++ i32 t.vy ++ i32 t.vz ++ toLe 2 (min 0xFFFF t.hits) ++ toLe 1 (min 255 t.misses) ++ zeros 1 ++
    toLe 4 (min max32 t.age))

def Chip.roomIdxs (ch : Chip) : List Nat := ch.hnd.rooms.flatMap fun s => s.2.tracks.map (·.idx)

/-- Births of room tracks: a free observation starts a track, or joins one born before it in the job within MERGE_R. Each
track under way is (its track, its observations); the answer adds the serial and the number refused. -/
def birthRooms (chip nConfirm merge : Nat) :
    List Obs → List (RoomTrack × List Obs) → (used : List Nat) → (serial : Nat) → List (RoomTrack × List Obs) × Nat × Nat
  | [], acc, _, serial => (acc, serial, 0)
  | o :: t, acc, used, serial =>
    match findIdx (fun (e : RoomTrack × List Obs) => decide (dist2 o e.1.x e.1.y ≤ merge * merge)) acc with
    | some i => birthRooms chip nConfirm merge t (updAt acc i fun e => (e.1, e.2 ++ [o])) used serial
    | none =>
      match lowestFree 1024 used with
      | none =>
        let r := birthRooms chip nConfirm merge t acc used serial
        (r.1, r.2.1, r.2.2 + 1)
      | some k =>
        let s := nextSerial serial
        let trk : RoomTrack := ⟨k, chip * 2 ^ 30 + 2 ^ 29 + s, o.cls, birthState nConfirm, o.x, o.y, o.z, 0, 0, 0, 1, 1, 0, 0⟩
        birthRooms chip nConfirm merge t (acc ++ [(trk, [o])]) (used ++ [k]) s

/-- Fields of a FUSE block in range (R435, R438). -/
def Chip.fuseFieldsOk (ch : Chip) (j : QJob) : Bool :=
  let b := j.blk
  let setOk := match Tab.find ch.hnd.rooms (fieldAt b 2 2) with
    | some x => x.slot == j.slot
    | none => true
  decide (fieldAt b 2 2 ≤ 3) && setOk && decide (fieldAt b 6 2 ≤ 4096) && tagOk b 48 &&
    reservedZero b [(1, 1), (36, 4), (60, 4), (72, 56)]

/-- The set a FUSE job names. -/
def Chip.roomSet (ch : Chip) (b : List Byte) (slot : Nat) : RoomSet :=
  (Tab.find ch.hnd.rooms (fieldAt b 2 2)).getD ⟨slot, none, []⟩

/-- Extents of a FUSE job (R438). -/
def Chip.fuseAddrOk (ch : Chip) (b : List Byte) (slot : Nat) : Bool :=
  ch.extentOk (fieldAt b 16 8) (8 * fieldAt b 6 2) &&
    ch.outOk .hound (fieldAt b 24 8) (64 + 64 * min 1024 ((ch.roomSet b slot).tracks.length + fieldAt b 6 2))

/-- The four steps of a FUSE job (R432). -/
def Chip.fuseBody (ch : Chip) (j : QJob) (set : RoomSet) (poison : Bool) : Chip :=
  let b := j.blk
  let time := fieldAt b 40 8
  let dt : Int := (time : Int) - (set.last.getD time : Nat)
  let n := fieldAt b 6 2
  let gate := fieldAt b 8 4
  let merge := fieldAt b 12 4
  let alpha := fieldAt b 32 2
  let beta := fieldAt b 34 2
  let obs : List (Nat × Obs) := (List.range n).map fun i => (i, Obs.ofNat (ch.load (fieldAt b 16 8 + 8 * i) 8))
  let ts := sortBy (·.idx) (set.tracks.map fun t => t.predict dt)
  let ps := ts.flatMap fun t => (obs.filter fun o => o.2.cls == t.cls && decide (dist2 o.2 t.x t.y ≤ gate * gate)).map fun o =>
    (t.idx, o.1, dist2 o.2 t.x t.y)
  let pairs := takePairs ((sortBy (fun (p : Nat × Nat × Nat) => p.2.2) ps).map fun p => (p.1, p.2.1)) []
  let matched := ts.filter fun t => pairs.any fun p => p.1 == t.idx
  let joins := obs.filterMap fun o =>
    if pairs.any fun p => p.2 == o.1 then none
    else match argMin (fun (t : RoomTrack) => dist2 o.2 t.x t.y)
        (matched.filter fun t => decide (dist2 o.2 t.x t.y ≤ merge * merge)) with
      | some t => some (t.idx, o.1)
      | none => none
  let taken := pairs ++ joins
  let old := ts.map fun t =>
    let os := (obs.filter fun o => taken.any fun p => p.1 == t.idx && p.2 == o.1).map (·.2)
    let l := lifeStep (fieldAt b 4 1) (fieldAt b 5 1) t.state t.hits t.misses (!os.isEmpty)
    let t' := if os.isEmpty then t else
      let rx := meanOf (·.x) os - t.x
      let ry := meanOf (·.y) os - t.y
      let rz := meanOf (·.z) os - t.z
      { t with x := alphaStep alpha t.x rx, y := alphaStep alpha t.y ry, z := alphaStep alpha t.z rz,
               vx := betaStep beta t.vx rx dt, vy := betaStep beta t.vy ry dt, vz := betaStep beta t.vz rz dt }
    { t' with state := l.1, hits := l.2.1, misses := l.2.2, age := t.age + 1, nsrc := os.length }
  let free := (obs.filter fun o => !taken.any fun p => p.2 == o.1).map (·.2)
  let r := birthRooms ch.pos.val (fieldAt b 4 1) merge free [] ch.roomIdxs ch.hnd.roomSerial
  let born := r.1.map fun e =>
    { e.1 with x := meanOf (·.x) e.2, y := meanOf (·.y) e.2, z := meanOf (·.z) e.2, nsrc := e.2.length }
  let entries := sortBy (·.idx) (old ++ born)
  let head := padTo 64 (toLe 8 time ++ toLe 2 entries.length ++ toLe 1 (lfPoison * bnat poison))
  let c := ch.store (fieldAt b 24 8) (head ++ entries.flatMap RoomTrack.bytes) poison
  let set' : RoomSet := { set with last := some time, tracks := entries.filter fun t => t.state != tkDeleted }
  let c : Chip := { c with hnd := { c.hnd with rooms := Tab.put c.hnd.rooms (fieldAt b 2 2) set', roomSerial := r.2.1 } }
  let c := c.countN F.HND_FULL_COUNT F.HND_STAT_OVF 2 r.2.2
  let c := if 0 < r.2.2 then c.setFlag F.HND_STAT_FULL_SEEN true else c
  c.hndRun j.slot [jobToken b 48 (listWord 0 entries.length (fieldAt b 56 4)) poison] poison

/-- A FUSE job (R432, R438). -/
def Chip.fuseJob (ch : Chip) (j : QJob) : Chip :=
  let b := j.blk
  let refuse (st : Nat) : Chip := ch.qRefuse .hound j 48 (listWord st 0 (fieldAt b 56 4))
  if !ch.fuseFieldsOk j then refuse 1
  else if !ch.fuseAddrOk b j.slot then refuse 2
  else
    let set := ch.roomSet b j.slot
    let late := match set.last with
      | some t => decide (fieldAt b 40 8 ≤ t)
      | none => false
    if late then refuse 5
    else ch.fuseBody j set (j.poison || ch.anyPoison (fieldAt b 16 8) (8 * fieldAt b 6 2))

/-- The Hound takes the job at HEAD where it has the JOP that `take` accepts, or refuses an unknown JOP. -/
def Chip.hndTake (ch : Chip) (jop : Nat) (run : Chip → QJob → Chip) : Chip :=
  let a := ch.load (ch.qSlot .hound (ch.qHead .hound)) 8
  let head := if ch.inShared a 128 then ch.load a 1 else 0
  if head ≠ jop ∧ (head = 2 ∨ head = 3) then ch
  else match ch.takeJob .hound with
    | (none, ch) => ch
    | (some j, ch) =>
      if fieldAt j.blk 0 1 = jop then run ch j
      else ch.qRefuse .hound j 40 (listWord 1 0 (fieldAt j.blk 56 4))

/-- TRACK (R430, R431): the Hound takes the TRACK job at HEAD. -/
def execTrack (c : ChipId) (s : State) : Res := onIsland s c fun ch => ch.hndTake 2 Chip.trackJob

/-- FUSE (R432): the Hound takes the FUSE job at HEAD. -/
def execFuse (c : ChipId) (s : State) : Res := onIsland s c fun ch => ch.hndTake 3 Chip.fuseJob

/-- HOUND_JOB_COMPLETE (R431, R439): the outputs are visible: room tokens, then the completion token; JOBS counts. -/
def execHoundJobComplete (c : ChipId) (s : State) : Res :=
  onIsland s c fun ch =>
    match ch.hnd.run with
    | none => ch
    | some r =>
      let c : Chip := { ch with hnd := { ch.hnd with run := none } }
      let c := r.tokens.foldl (fun (c : Chip) t => c.qToken t) (c.setFlag F.HND_STAT_BUSY false)
      c.count64 F.HND_JOBS_COUNT F.HND_STAT_JOBS_WRAP 0 F.HND_WRAP_COUNT F.HND_STAT_WRAP_OVF 0 1

end Sys2Proof.Machine
end

