-- ==== Sys2Proof/Machine/Sentry.lean ====
section
/-! DEFINITION. Commands of the Sentry, the CAN FD buses and the stop loops (spec/15_coachman.md, R47, R700). Only E0 has a
Sentry: on the other chips these events do nothing. -/

namespace Sys2Proof.Machine

open Sys2Proof

/-- A command of E0's Sentry. -/
def onSentry (s : State) (c : ChipId) (f : Chip → Chip) : Res :=
  onIsland s c fun ch => if ch.pos.val = 0 then f ch else ch

/-- The batch of head `h` that starts at its next sample time. -/
def Chip.nextBatch (ch : Chip) (h : Nat) : List Smp :=
  let x := ch.head h
  let g := match ch.curGen with
    | some g => g.num
    | none => 0
  (List.range (ch.batch h)).map fun k => ⟨x.next + k * 1000000, x.posAt (x.next + k * 1000000), g⟩

/-- A batch as a SETPOINT frame carries it (R469). -/
def Chip.setpointBytes (ch : Chip) (h : Nat) (seq : Nat) (xs : List Smp) : List Byte :=
  let t := match xs with
    | s :: _ => s.time
    | [] => 0
  toLe 1 1 ++ toLe 1 h ++ toLe 1 (ch.batch h) ++ toLe 1 (ch.nax h) ++ toLe 4 seq ++ toLe 8 t ++
    xs.flatMap fun s => (List.range (ch.nax h)).flatMap fun a => toLe 4 (usgn 32 ((s.pos[a]?).getD 0))

/-- SETPOINT_BATCH_HANDOFF (R455, R456): the active Coachman hands the next batch of an ENABLED head to the Sentry; E2, once
active, sends it over Trail (R465). -/
def execSetpointBatchHandoff (c : ChipId) (h : Fin 8) (s : State) : Res :=
  onIsland s c fun ch =>
    if ch.rd F.COA_STAT_ROLE ≠ roleActive ∨ ch.headState h.val = hdDisabled ∨ ch.batch h.val = 0 then ch
    else
      let xs := ch.nextBatch h.val
      let x := ch.head h.val
      let ch := ch.setHead h.val { x with next := x.next + ch.batch h.val * 1000000 }
      if ch.pos.val = 0 then ch.takeBatch h.val xs
      else
        ch.sendMotion 0 5 (padTo 64 (ch.setpointBytes h.val 0 xs))

/-- SETPOINT_FRAME_QUEUE (R457, R458): the head's next batch is checked for freshness and its frame queued; a missing batch
or a stale generation raises MOTION_TIMEOUT. -/
def execSetpointFrameQueue (c : ChipId) (h : Fin 8) (s : State) : Res :=
  onSentry s c fun ch =>
    let n := ch.batch h.val
    if ch.headState h.val = hdDisabled ∨ n = 0 then ch
    else
      let x := ch.head h.val
      let xs := x.queue.take n
      match xs with
      | [] => ch.safeStop 29 h.val 2 h.val 0
      | s0 :: _ =>
        if xs.length < n then ch.safeStop 29 h.val 2 h.val s0.time
        else if (xs.all fun q => ch.genFresh q.gen) = false then ch.safeStop 29 h.val 3 h.val s0.time
        else
          let data := canBytes (ch.rd (F.COA_HSAFE_SAFE_ID h.val)) (ch.setpointBytes h.val x.seq xs)
          let ch := ch.setHead h.val { x with frame := some ⟨s0.time, data⟩, seq := (x.seq + 1) % 2 ^ 32 }
          ch.queueCan (ch.rd (F.COA_HCFG_BUS h.val)) ⟨0x100 + h.val, data⟩

/-- SETPOINT_TX_LATE (R458): the queued frame is aborted, counted and raises MOTION_TIMEOUT. -/
def execSetpointTxLate (c : ChipId) (h : Fin 8) (s : State) : Res :=
  onSentry s c fun ch =>
    let x := ch.head h.val
    match x.frame with
    | none => ch
    | some f =>
      let q := ch.sen
      let keep (l : List CanFrame) : List CanFrame := l.filter fun g => g.id != 0x100 + h.val
      let ch := ch.setSen { q with can0 := keep q.can0, can1 := keep q.can1 }
      let ch := ch.setHead h.val { x with frame := none }
      (ch.count F.SEN_TXLATE_COUNT F.SEN_STAT_OVF 0).safeStop 29 h.val 2 h.val f.time

/-- The samples of head `h` whose frame was sent move to the transmitted ones; the last 16 are kept. -/
def Chip.markSent (ch : Chip) (h : Nat) : Chip :=
  let x := ch.head h
  match x.frame with
  | none => ch
  | some f =>
    let lim := f.time + ch.batch h * 1000000
    let done := x.queue.filter fun s => decide (s.time < lim)
    let sent := (x.sent ++ done).reverse.take 16 |>.reverse
    ch.setHead h { x with frame := none, queue := x.queue.filter fun s => decide (lim ≤ s.time), sent := sent }

/-- CAN_FRAME_TX_COMPLETE (R459): the oldest frame of the bus went out with its start-of-frame stamp; a readback that differs
raises MOTION_DISAGREE. -/
def execCanFrameTxComplete (c : ChipId) (bus : Bool) (sof : Qword) (readback : Bool) (s : State) : Res :=
  onSentry s c fun ch =>
    let q := ch.sen
    let off := if bus then q.busOff1 else q.busOff0
    match (if bus then q.can1 else q.can0), off with
    | f :: rest, false =>
      let ch := ch.setSen (if bus then { q with can1 := rest } else { q with can0 := rest })
      let ch := ch.emit (.can (bnat bus) f.id f.data)
      let ch :=
        if f.id = 0x10 then
          let q := ch.sen
          let ch := ch.setSen { q with prevSof := updAt q.prevSof (bnat bus) fun _ => sof.toNat }
          (List.range 8).foldl (fun c h =>
            if c.rd (F.COA_HCFG_BUS h) = bnat bus then c.setHead h { c.head h with answered := false } else c) ch
        else if 0x100 ≤ f.id ∧ f.id < 0x108 then ch.markSent (f.id - 0x100)
        else ch
      if readback then ch
      else if 0x100 ≤ f.id ∧ f.id < 0x108 then ch.safeStop 28 (f.id - 0x100) 6 (f.id - 0x100) 0
      else ch.safeStop 28 8 6 15 0
    | _, _ => ch

/-- CAN_TIME_FRAME (R466, R469): a TIME frame with PREV_SOF is queued on each bus. -/
def execCanTimeFrame (c : ChipId) (s : State) : Res :=
  onSentry s c fun ch =>
    let mk (b : Nat) : CanFrame := ⟨0x10, canBytes 0 (toLe 1 2 ++ zeros 3 ++ toLe 4 ch.sen.timeSeq ++
      toLe 8 ((ch.sen.prevSof[b]?).getD 0))⟩
    let ch' := (ch.queueCan 0 (mk 0)).queueCan 1 (mk 1)
    ch'.setSen { ch'.sen with timeSeq := (ch'.sen.timeSeq + 1) % 2 ^ 32 }

/-- STATUS (R459, R469, R474): a STATUS frame of head `h` is checked for its CRC, the following error and FAULT. -/
def execStatus (c : ChipId) (h : Fin 8) (data : List Byte) (s : State) : Res :=
  onSentry s c fun ch =>
    let n := ch.nax h.val
    let l := canLen (16 + 4 * n + 4)
    let body := data.take (l - 4)
    let good := decide (data.length = l) && fieldAt data (l - 4) 4 == crc32 (toLe 4 (ch.rd (F.COA_HSAFE_SAFE_ID h.val)) ++ body) &&
      fieldAt data 0 1 == 0x81 && fieldAt data 1 1 == h.val && ch.flag (F.COA_HCFG_EN h.val)
    if !good then ch.count F.SEN_CRCERR_COUNT F.SEN_STAT_OVF 1
    else
      let x := ch.head h.val
      let t := fieldAt data 8 8
      let pos := (List.range n).map fun a => sgn 32 (fieldAt data (16 + 4 * a) 4)
      let fault := bit (fieldAt data 2 1) 0
      let ref := ((x.sent ++ x.queue).filter fun q => q.time == t / 1000000 * 1000000).getLast?
      let far := match ref with
        | some q => (List.range n).any fun a =>
          decide (ch.rd (F.COA_AF_FOLLOW h.val a) < (((pos[a]?).getD 0) - ((q.pos[a]?).getD 0)).natAbs)
        | none => false
      let off := if far then x.off + 1 else 0
      let ch := ch.setHead h.val { x with reported := pos, statusTime := ch.now, fault := fault, answered := true, off := off }
      if fault then ch.safeStop 28 h.val 5 h.val t
      else if 2 ≤ off ∧ ch.headState h.val ≠ hdDisabled then ch.safeStop 28 h.val 5 h.val t
      else ch

/-- CAN_FRAME_IGNORED (R466): counted. -/
def execCanFrameIgnored (c : ChipId) (s : State) : Res :=
  onSentry s c fun ch => ch.count F.SEN_CANIGN_COUNT F.SEN_STAT_OVF 2

/-- STATUS_TIMEOUT (R459): an ENABLED head without a valid STATUS frame for 2·BATCH + 1 ms raises MOTION_TIMEOUT. -/
def execStatusTimeout (c : ChipId) (h : Fin 8) (s : State) : Res :=
  onSentry s c fun ch =>
    if ch.headState h.val = hdDisabled then ch else ch.safeStop 29 h.val 4 h.val 0

/-- SENTRY_TIMER_REARM (R460); a Steward that DEBUG halted stops the Sentry (R685). -/
def execSentryTimerRearm (c : ChipId) (s : State) : Res :=
  onSentry s c fun ch => if ch.fab.steward.halted then ch else ch.setSen { ch.sen with rearm := ch.now }

/-- SENTRY_TIMER_EXPIRY (R460): 4 ms without a rearm open both channels and raise WDOG, row 26. -/
def execSentryTimerExpiry (c : ChipId) (s : State) : Res :=
  onSentry s c fun ch => if ch.sen.rearm + 4000000 ≤ ch.now then ch.openChannels.safeStop 26 8 7 15 0 else ch

/-- MOTION_DISABLE_TIMEOUT (R462): the disable in progress ends. -/
def execMotionDisableTimeout (c : ChipId) (s : State) : Res :=
  onSentry s c fun ch => if ch.sen.disabling then ch.finishDisable else ch

/-- TAKEOVER (R465): E0's Coachman is FAILED and E2 is told to plan, where the route to E2 is up. -/
def execTakeover (c : ChipId) (s : State) : Res :=
  onSentry s c fun ch =>
    if ch.rd F.COA_STAT_ROLE ≠ roleActive ∨ ch.routeCode 2 = 3 then ch
    else
      let ch := ch.wr F.COA_STAT_ROLE roleFailed
      let ch := ch.setSen { ch.sen with fromE2 := true }
      let ch := ch.count F.SEN_TAKEOVER_COUNT F.SEN_STAT_OVF 3
      (ch.sendMotion 2 4 []).motionStatus 0xFF 4 ch.now

/-- SEGMENT_END (R471): the last segment of a moving head has ended; it holds its rest pose. -/
def execSegmentEnd (c : ChipId) (h : Fin 8) (s : State) : Res :=
  onIsland s c fun ch =>
    let x := ch.head h.val
    if ch.headState h.val = hdMoving then
      (ch.setHead h.val { x with rest := x.endPose, segs := [] }).setHeadState h.val hdReady
    else ch

/-- The segments after the last stop of a plan. -/
def afterStop : List Seg → List Seg → List Seg
  | [], acc => acc
  | s :: t, acc => if s.halt then afterStop t [] else afterStop t (acc ++ [s])

/-- The pose the last stop of a plan ends in. -/
def Head.stopPose (x : Head) : List Int :=
  match (x.segs.filter fun s => s.halt).getLast? with
  | some s => s.at s.dur
  | none => x.endPose

/-- STOP_AT_REST (R471, R474): a stopping head is at rest: READY, or DISABLED with the others after a disable. A plan made
while the stop ran runs from its end. -/
def execStopAtRest (c : ChipId) (h : Fin 8) (s : State) : Res :=
  onIsland s c fun ch =>
    let x := ch.head h.val
    if ch.headState h.val = hdStopping then
      let rest := afterStop x.segs []
      let ch := (ch.setHead h.val { x with rest := x.stopPose, segs := rest }).setHeadState h.val hdReady
      if ch.sen.disabling && ch.allAtRest then ch.finishDisable
      else if rest.isEmpty then ch else ch.setHeadState h.val hdMoving
    else ch

/-- One loop's count of open readings after a sample. -/
def loopCount (r : LoopReading) (n : Nat) : Nat :=
  match r with
  | .closed => 0
  | .openLoop => n + 1
  | .kept => if n = 0 then 0 else n + 1

/-- STOP_LOOP_SAMPLE (R47, R700): a loop open on two consecutive samples opens both channels; both causes are recorded.
With no head configured the channels stay open, and nothing else changes. (DEDUCED, log entry 139.) -/
def execStopLoopSample (a b : LoopReading) (s : State) : Res :=
  onSentry s 0 fun ch =>
    let q := ch.sen
    let na := loopCount a q.openA
    let nb := loopCount b q.openB
    let fitted := (List.range 8).any fun h => ch.flag (F.COA_HCFG_EN h)
    let newA := fitted && decide (2 ≤ na) && !q.loopA
    let newB := fitted && decide (2 ≤ nb) && !q.loopB
    let ch := ch.setSen { q with openA := na, openB := nb, loopA := decide (2 ≤ na), loopB := decide (2 ≤ nb) }
    let ch := if newA then ch.safeStop 28 9 9 15 0 else ch
    if newB then ch.safeStop 28 10 9 15 0 else ch

/-- BUS_OFF (R466, ISO 11898-1): the controller leaves the bus; the heads on it go silent. -/
def execBusOff (c : ChipId) (bus : Bool) (s : State) : Res :=
  onSentry s c fun ch => ch.setSen (if bus then { ch.sen with busOff1 := true } else { ch.sen with busOff0 := true })

/-- BUS_OFF_RECOVERY (ISO 11898-1): the controller rejoins the bus. -/
def execBusOffRecovery (c : ChipId) (bus : Bool) (s : State) : Res :=
  onSentry s c fun ch => ch.setSen (if bus then { ch.sen with busOff1 := false } else { ch.sen with busOff0 := false })

end Sys2Proof.Machine
end

