-- ==== Sys2Proof/Machine/Wake.lean ====
section
/-! DEFINITION. The end of a wake (spec/21_power_life.md R622 to R624, R638, R640). -/

namespace Sys2Proof.Machine

open Sys2Proof

/-- A session at wake: its DPB is emptied without output, and it is in RESYNC (R213). -/
def Chip.sessWake (ch : Chip) (k : Nat) : Chip :=
  let st := ch.sessState k
  if st = sessResync ∨ st = sessDecoding then
    let c := match ch.session k with
      | some x => ch.setSession k { x with awaiting := [], refs := [], scan := false }
      | none => ch
    let c := c.wr (F.DEC_SESS_STAT_STATE k) sessResync
    if st = sessDecoding then c.count (F.DEC_RESYNC_COUNT k) (F.DEC_ERR_RESYNC_OVF k) 0 else c
  else ch

/-- Every spilled token of pack `p` that may lodge is recalled, whatever LEVEL holds (R337). -/
def Chip.wakeRecall (ch : Chip) (p : Nat) : Nat → Chip
  | 0 => ch
  | n + 1 =>
    match ch.backTok p with
    | some e => (ch.innDo p fun c => c.recallToks p 2 [e]).wakeRecall p n
    | none => ch

/-- Actions that W1P writes left waiting in crossings are carried out in order (R95). -/
def Chip.wakeActs (ch : Chip) : Chip :=
  ch.dozeActs.foldl (fun (c : Chip) a =>
    match findReg a.1 with
    | some h => c.regAct .host h a.2
    | none => c) { ch with dozeActs := [] }

/-- FAULT records that waited for the wake (R494, R600). -/
def Chip.wakeRecs (ch : Chip) : Chip :=
  let g := ch.fab.gbk
  g.dozeRecs.foldl (fun (c : Chip) e => c.sysSubmit e.1 e.2)
    { ch with fab := { ch.fab with gbk := { g with dozeRecs := [], woke := true } } }

/-- LN Messages held in the PCIe crossing are delivered (R83, R122). (DEDUCED, log entry 53.) -/
def Chip.wakeLines (ch : Chip) : Chip :=
  ch.hif.lnHeld.foldl (fun (c : Chip) l => if c.hif.lnRegs.contains l then c.readLine true l else c)
    { ch with hif := { ch.hif with lnHeld := [] } }

/-- A chip in WAKING is in Run again (R524, R552, R600, R624, R640). (DEDUCED, log entry 58.) -/
def Chip.wakeDone (ch : Chip) : Chip :=
  let c := ch.wr F.PWR_STATE_STATE pwrRun
  let c := (List.range 16).foldl (fun (c : Chip) k => (c.setFlag (F.MEM_CH_STAT_SR_LIVE k) false).setClk k true) c
  let c := (c.setClk 17 true).setClk 18 true
  let c := c.audioClocks true
  let c := (c.linkWake 0).linkWake 1
  let c := c.fcu.dozeAborts.foldl (fun (c : Chip) k => c.abortSlot k true) { c with fcu := { c.fcu with dozeAborts := [], kicked := c.now } }
  let c := c.setSen { c.sen with rearm := c.now }
  let c := (List.range 64).foldl (fun (c : Chip) k => (c.kWake k).sessWake k) c
  let c := c.audWake
  let c := (List.range 12).foldl (fun (c : Chip) p => c.wakeRecall p (c.inn p).spilled) c
  let c := c.wakeRecs.wakeActs
  let c := (c.wakeLines.fetchAll).wr F.PWR_WAKE_TIME_TIME c.now
  c.msix 130

/-- WAKE_COMPLETE (R622 to R624, R638, R640). (DEDUCED, log entry 58.) -/
def execWakeComplete (c : ChipId) (s : State) : Res :=
  let ch := s.chip c
  .next (if ch.inReset = false ∧ ch.pwr = pwrWaking then (logRanks c s (s.modChip c Chip.wakeDone)).supplySync else s)

end Sys2Proof.Machine
end

