-- ==== Sys2Proof/Machine/Dispatch.lean ====
section
/-! DEFINITION. One arm per command: a direct call of its meaning, or a rejection by name. -/

namespace Sys2Proof.Machine

open Sys2Proof

def exec (i : Instr) (s : State) : Host.Outcome State Fault Refusal :=
  match i with
  | .registerWrite c r off be ep v => Sys2Proof.Machine.execRegisterWrite c r off be ep v s
  | .lowDwordRead c r off => Sys2Proof.Machine.execLowDwordRead c r off s
  | .lowDwordWrite c r off be ep v => Sys2Proof.Machine.execLowDwordWrite c r off be ep v s
  | .highDwordWrite c r off be ep v => Sys2Proof.Machine.execHighDwordWrite c r off be ep v s
  | .hwmClr c w => Sys2Proof.Machine.execHwmClr c w s
  | .powerValid pins => Sys2Proof.Machine.execPowerValid pins s
  | .powerFault mv => Sys2Proof.Machine.execPowerFault mv s
  | .powerRestore pins => Sys2Proof.Machine.execPowerRestore pins s
  | .powerLoss => Sys2Proof.Machine.execPowerLoss s
  | .supplyTrip n => Sys2Proof.Machine.execSupplyTrip n s
  | .boardSyncEdge c => Sys2Proof.Machine.execBoardSyncEdge c s
  | .syncLossTimeout c => Sys2Proof.Machine.execSyncLossTimeout c s
  | .senFsyncEdge c p => Sys2Proof.Machine.execSenFsyncEdge c p s
  | .stopLoopSample a b => Sys2Proof.Machine.execStopLoopSample a b s
  | .perstAssert c => Sys2Proof.Machine.execPerstAssert c s
  | .chipResetRelease c bad => Sys2Proof.Machine.execChipResetRelease c bad s
  | .firmwareReady c => Sys2Proof.Machine.execFirmwareReady c s
  | .romFallback c => Sys2Proof.Machine.execRomFallback c s
  | .flr c => Sys2Proof.Machine.execFlr c s
  | .configRequest c wr off be v => Sys2Proof.Machine.execConfigRequest c wr off be v s
  | .pmStateChange c d3hot => Sys2Proof.Machine.execPmStateChange c d3hot s
  | .unexpectedCompletion c tag => Sys2Proof.Machine.execUnexpectedCompletion c tag s
  | .completionTimeout c tag => Sys2Proof.Machine.execCompletionTimeout c tag s
  | .imageWindowWrite c off ep data => Sys2Proof.Machine.execImageWindowWrite c off ep data s
  | .debugWindowAccess c off acc => Sys2Proof.Machine.execDebugWindowAccess c off acc s
  | .ptmDialogue c => Sys2Proof.Machine.execPtmDialogue c s
  | .ptmGo c => Sys2Proof.Machine.execPtmGo c s
  | .ptmResponse c masterT2 propDelay => Sys2Proof.Machine.execPtmResponse c masterT2 propDelay s
  | .ptmTimeout c => Sys2Proof.Machine.execPtmTimeout c s
  | .ptmDisable c => Sys2Proof.Machine.execPtmDisable c s
  | .lnrEnable c cls limit => Sys2Proof.Machine.execLnrEnable c cls limit s
  | .lnMessage c line => Sys2Proof.Machine.execLnMessage c line s
  | .hostAtomicop c bar2 off op size v cmp => Sys2Proof.Machine.execHostAtomicop c bar2 off op size v cmp s
  | .latchWindowAccess c off size8 wr be ep v => Sys2Proof.Machine.execLatchWindowAccess c off size8 wr be ep v s
  | .ringEnable c n => Sys2Proof.Machine.execRingEnable c n s
  | .ringDisable c n => Sys2Proof.Machine.execRingDisable c n s
  | .ringDrained c n => Sys2Proof.Machine.execRingDrained c n s
  | .ringReset c n => Sys2Proof.Machine.execRingReset c n s
  | .doorbellPoll c => Sys2Proof.Machine.execDoorbellPoll c s
  | .doorbellFallbackPoll c => Sys2Proof.Machine.execDoorbellFallbackPoll c s
  | .doorbellSweep c => Sys2Proof.Machine.execDoorbellSweep c s
  | .dozeDoorbellPoll c => Sys2Proof.Machine.execDozeDoorbellPoll c s
  | .doorbellReadComplete c line res => Sys2Proof.Machine.execDoorbellReadComplete c line res s
  | .descriptorFetchComplete c n res => Sys2Proof.Machine.execDescriptorFetchComplete c n res s
  | .nop c n => Sys2Proof.Machine.execNop c n s
  | .graphLoad c n => Sys2Proof.Machine.execGraphLoad c n s
  | .graphImageReadComplete c slot res => Sys2Proof.Machine.execGraphImageReadComplete c slot res s
  | .graphUnload c n => Sys2Proof.Machine.execGraphUnload c n s
  | .graphAbortComplete c slot => Sys2Proof.Machine.execGraphAbortComplete c slot s
  | .streamOpen c n => Sys2Proof.Machine.execStreamOpen c n s
  | .streamClose c n => Sys2Proof.Machine.execStreamClose c n s
  | .streamSet c n => Sys2Proof.Machine.execStreamSet c n s
  | .flowBind c n => Sys2Proof.Machine.execFlowBind c n s
  | .epochSet c n => Sys2Proof.Machine.execEpochSet c n s
  | .faultAck c n => Sys2Proof.Machine.execFaultAck c n s
  | .powerReq c n => Sys2Proof.Machine.execPowerReq c n s
  | .buf c n => Sys2Proof.Machine.execBuf c n s
  | .payloadReadComplete c k res => Sys2Proof.Machine.execPayloadReadComplete c k res s
  | .irqModerationTimer c n => Sys2Proof.Machine.execIrqModerationTimer c n s
  | .outputOverflowTimeout c n => Sys2Proof.Machine.execOutputOverflowTimeout c n s
  | .recordCqWrite c f => Sys2Proof.Machine.execRecordCqWrite c f s
  | .kennelRead c k n => Sys2Proof.Machine.execKennelRead c k n s
  | .kennelMark c k n => Sys2Proof.Machine.execKennelMark c k n s
  | .kennelRewind c k => Sys2Proof.Machine.execKennelRewind c k s
  | .kennelRelease c k o => Sys2Proof.Machine.execKennelRelease c k o s
  | .kennelForcedRelease c k => Sys2Proof.Machine.execKennelForcedRelease c k s
  | .csiEnable c p => Sys2Proof.Machine.execCsiEnable c p s
  | .csiFrameStart c p vc => Sys2Proof.Machine.execCsiFrameStart c p vc s
  | .csiFrameEnd c p vc => Sys2Proof.Machine.execCsiFrameEnd c p vc s
  | .csiPictureLine c p vc dt crcOk samples => Sys2Proof.Machine.execCsiPictureLine c p vc dt crcOk samples s
  | .csiOtherPacket c p vc dt => Sys2Proof.Machine.execCsiOtherPacket c p vc dt s
  | .csiHeaderEccError c p line => Sys2Proof.Machine.execCsiHeaderEccError c p line s
  | .csiFrameTimeout c p vc => Sys2Proof.Machine.execCsiFrameTimeout c p vc s
  | .decodeTakeAu c e aus => Sys2Proof.Machine.execDecodeTakeAu c e aus s
  | .decodePrescanComplete c e rap sets => Sys2Proof.Machine.execDecodePrescanComplete c e rap sets s
  | .decodeAuComplete c e r => Sys2Proof.Machine.execDecodeAuComplete c e r s
  | .sessionDrained c k => Sys2Proof.Machine.execSessionDrained c k s
  | .mosaicSubmit c p n addr => Sys2Proof.Machine.execMosaicSubmit c p n addr s
  | .cropJob c => Sys2Proof.Machine.execCropJob c s
  | .mosaicJobComplete c => Sys2Proof.Machine.execMosaicJobComplete c s
  | .pictureHoldExpiry c stream frame => Sys2Proof.Machine.execPictureHoldExpiry c stream frame s
  | .tdmFrame c lane n slots => Sys2Proof.Machine.execTdmFrame c lane n slots s
  | .pdmSample c x => Sys2Proof.Machine.execPdmSample c x s
  | .audioBlockComplete c stream => Sys2Proof.Machine.execAudioBlockComplete c stream s
  | .audioRelease c addr => Sys2Proof.Machine.execAudioRelease c addr s
  | .featureSubmit c p n addr => Sys2Proof.Machine.execFeatureSubmit c p n addr s
  | .featureJob c => Sys2Proof.Machine.execFeatureJob c s
  | .featureJobComplete c => Sys2Proof.Machine.execFeatureJobComplete c s
  | .porchSample c x => Sys2Proof.Machine.execPorchSample c x s
  | .porchFrame c => Sys2Proof.Machine.execPorchFrame c s
  | .porchHandover c => Sys2Proof.Machine.execPorchHandover c s
  | .innTokenGrant c p => Sys2Proof.Machine.execInnTokenGrant c p s
  | .annexSpillResume c p => Sys2Proof.Machine.execAnnexSpillResume c p s
  | .annexTargetedRecall c p => Sys2Proof.Machine.execAnnexTargetedRecall c p s
  | .annexBackgroundRecall c p => Sys2Proof.Machine.execAnnexBackgroundRecall c p s
  | .reservePromote c p => Sys2Proof.Machine.execReservePromote c p s
  | .dispatchFiring c p => Sys2Proof.Machine.execDispatchFiring c p s
  | .innDupPop c p => Sys2Proof.Machine.execInnDupPop c p s
  | .slotAnnounce c l hdr payload => Sys2Proof.Machine.execSlotAnnounce c l hdr payload s
  | .slotAbort c l hdr payload => Sys2Proof.Machine.execSlotAbort c l hdr payload s
  | .slotActivity c l hdr payload => Sys2Proof.Machine.execSlotActivity c l hdr payload s
  | .loopCloseNotice c p => Sys2Proof.Machine.execLoopCloseNotice c p s
  | .deadlockDetect c k => Sys2Proof.Machine.execDeadlockDetect c k s
  | .activityExchange c => Sys2Proof.Machine.execActivityExchange c s
  | .deadlockAbort c k => Sys2Proof.Machine.execDeadlockAbort c k s
  | .lingerScan c => Sys2Proof.Machine.execLingerScan c s
  | .guestbookSubmit c p n addr => Sys2Proof.Machine.execGuestbookSubmit c p n addr s
  | .guestbookDeadline c f => Sys2Proof.Machine.execGuestbookDeadline c f s
  | .verdict c p => Sys2Proof.Machine.execVerdict c p s
  | .verdictHoldExpiry c p => Sys2Proof.Machine.execVerdictHoldExpiry c p s
  | .speculationDozeKill c => Sys2Proof.Machine.execSpeculationDozeKill c s
  | .bundleIssue c k => Sys2Proof.Machine.execBundleIssue c k s
  | .stewardInterrupt c => Sys2Proof.Machine.execStewardInterrupt c s
  | .firingDrainComplete c p n => Sys2Proof.Machine.execFiringDrainComplete c p n s
  | .add c k u => Sys2Proof.Machine.execAdd c k u s
  | .sub c k u => Sys2Proof.Machine.execSub c k u s
  | .opAnd c k u => Sys2Proof.Machine.execOpAnd c k u s
  | .opOr c k u => Sys2Proof.Machine.execOpOr c k u s
  | .xor c k u => Sys2Proof.Machine.execXor c k u s
  | .andn c k u => Sys2Proof.Machine.execAndn c k u s
  | .shl c k u => Sys2Proof.Machine.execShl c k u s
  | .shr c k u => Sys2Proof.Machine.execShr c k u s
  | .sar c k u => Sys2Proof.Machine.execSar c k u s
  | .rol c k u => Sys2Proof.Machine.execRol c k u s
  | .eq c k u => Sys2Proof.Machine.execEq c k u s
  | .ne c k u => Sys2Proof.Machine.execNe c k u s
  | .lt c k u => Sys2Proof.Machine.execLt c k u s
  | .ltu c k u => Sys2Proof.Machine.execLtu c k u s
  | .le c k u => Sys2Proof.Machine.execLe c k u s
  | .leu c k u => Sys2Proof.Machine.execLeu c k u s
  | .min c k u => Sys2Proof.Machine.execMin c k u s
  | .max c k u => Sys2Proof.Machine.execMax c k u s
  | .minu c k u => Sys2Proof.Machine.execMinu c k u s
  | .maxu c k u => Sys2Proof.Machine.execMaxu c k u s
  | .clz c k u => Sys2Proof.Machine.execClz c k u s
  | .ctz c k u => Sys2Proof.Machine.execCtz c k u s
  | .popc c k u => Sys2Proof.Machine.execPopc c k u s
  | .sext c k u => Sys2Proof.Machine.execSext c k u s
  | .zext c k u => Sys2Proof.Machine.execZext c k u s
  | .adds c k u => Sys2Proof.Machine.execAdds c k u s
  | .subs c k u => Sys2Proof.Machine.execSubs c k u s
  | .d2a c k u => Sys2Proof.Machine.execD2a c k u s
  | .pack c k u => Sys2Proof.Machine.execPack c k u s
  | .a2d c k u => Sys2Proof.Machine.execA2d c k u s
  | .mul c k => Sys2Proof.Machine.execMul c k s
  | .mulu c k => Sys2Proof.Machine.execMulu c k s
  | .div c k => Sys2Proof.Machine.execDiv c k s
  | .divu c k => Sys2Proof.Machine.execDivu c k s
  | .vadd c k => Sys2Proof.Machine.execVadd c k s
  | .vsub c k => Sys2Proof.Machine.execVsub c k s
  | .vadds c k => Sys2Proof.Machine.execVadds c k s
  | .vsubs c k => Sys2Proof.Machine.execVsubs c k s
  | .vmul c k => Sys2Proof.Machine.execVmul c k s
  | .vmulq c k => Sys2Proof.Machine.execVmulq c k s
  | .vmacq c k => Sys2Proof.Machine.execVmacq c k s
  | .vmin c k => Sys2Proof.Machine.execVmin c k s
  | .vmax c k => Sys2Proof.Machine.execVmax c k s
  | .vand c k => Sys2Proof.Machine.execVand c k s
  | .vor c k => Sys2Proof.Machine.execVor c k s
  | .vxor c k => Sys2Proof.Machine.execVxor c k s
  | .vshl c k => Sys2Proof.Machine.execVshl c k s
  | .vshr c k => Sys2Proof.Machine.execVshr c k s
  | .vsar c k => Sys2Proof.Machine.execVsar c k s
  | .vcmpeq c k => Sys2Proof.Machine.execVcmpeq c k s
  | .vcmplt c k => Sys2Proof.Machine.execVcmplt c k s
  | .vsel c k => Sys2Proof.Machine.execVsel c k s
  | .vperm c k => Sys2Proof.Machine.execVperm c k s
  | .vrsum c k => Sys2Proof.Machine.execVrsum c k s
  | .vrmax c k => Sys2Proof.Machine.execVrmax c k s
  | .vrmin c k => Sys2Proof.Machine.execVrmin c k s
  | .vhadd c k => Sys2Proof.Machine.execVhadd c k s
  | .vhmul c k => Sys2Proof.Machine.execVhmul c k s
  | .vhfma c k => Sys2Proof.Machine.execVhfma c k s
  | .vcvthi c k => Sys2Proof.Machine.execVcvthi c k s
  | .vcvtih c k => Sys2Proof.Machine.execVcvtih c k s
  | .vext c k => Sys2Proof.Machine.execVext c k s
  | .vins c k => Sys2Proof.Machine.execVins c k s
  | .lsuLoad c k op => Sys2Proof.Machine.execLsuLoad c k op s
  | .lsuStore c k op => Sys2Proof.Machine.execLsuStore c k op s
  | .swap c q => Sys2Proof.Machine.execSwap c q s
  | .cas c q => Sys2Proof.Machine.execCas c q s
  | .fadd c q => Sys2Proof.Machine.execFadd c q s
  | .fand c q => Sys2Proof.Machine.execFand c q s
  | .opFor c q => Sys2Proof.Machine.execOpFor c q s
  | .fmax c q => Sys2Proof.Machine.execFmax c q s
  | .fmin c q => Sys2Proof.Machine.execFmin c q s
  | .decpos c q => Sys2Proof.Machine.execDecpos c q s
  | .load c q => Sys2Proof.Machine.execLoad c q s
  | .emit c k => Sys2Proof.Machine.execEmit c k s
  | .emitTagged c k => Sys2Proof.Machine.execEmitTagged c k s
  | .badd c k => Sys2Proof.Machine.execBadd c k s
  | .bsub c k => Sys2Proof.Machine.execBsub c k s
  | .dadj c k => Sys2Proof.Machine.execDadj c k s
  | .b2d c k => Sys2Proof.Machine.execB2d c k s
  | .d2b c k => Sys2Proof.Machine.execD2b c k s
  | .tcadd c k => Sys2Proof.Machine.execTcadd c k s
  | .tcsub c k => Sys2Proof.Machine.execTcsub c k s
  | .tcdiff c k => Sys2Proof.Machine.execTcdiff c k s
  | .tc2f c k => Sys2Proof.Machine.execTc2f c k s
  | .f2tc c k => Sys2Proof.Machine.execF2tc c k s
  | .ns2tc c k => Sys2Proof.Machine.execNs2tc c k s
  | .loopStart c k => Sys2Proof.Machine.execLoopStart c k s
  | .loopBreak c k => Sys2Proof.Machine.execLoopBreak c k s
  | .jump c k target => Sys2Proof.Machine.execJump c k target s
  | .call c k target => Sys2Proof.Machine.execCall c k target s
  | .ret c k => Sys2Proof.Machine.execRet c k s
  | .opEnd c k => Sys2Proof.Machine.execOpEnd c k s
  | .eret c => Sys2Proof.Machine.execEret c s
  | .wfi c => Sys2Proof.Machine.execWfi c s
  | .tensorSubmit c p n addr => Sys2Proof.Machine.execTensorSubmit c p n addr s
  | .matmul c p => Sys2Proof.Machine.execMatmul c p s
  | .conv c p => Sys2Proof.Machine.execConv c p s
  | .dwconv c p => Sys2Proof.Machine.execDwconv c p s
  | .pool c p => Sys2Proof.Machine.execPool c p s
  | .tensorCommandComplete c p => Sys2Proof.Machine.execTensorCommandComplete c p s
  | .tensorFreeze c p on => Sys2Proof.Machine.execTensorFreeze c p on s
  | .tensorDebugAccWrite c p v => Sys2Proof.Machine.execTensorDebugAccWrite c p v s
  | .queueSlotStore c b slot v => Sys2Proof.Machine.execQueueSlotStore c b slot v s
  | .queueSkipTimeout c b => Sys2Proof.Machine.execQueueSkipTimeout c b s
  | .sieveJob c => Sys2Proof.Machine.execSieveJob c s
  | .sieveJobComplete c => Sys2Proof.Machine.execSieveJobComplete c s
  | .track c => Sys2Proof.Machine.execTrack c s
  | .fuse c => Sys2Proof.Machine.execFuse c s
  | .houndJobComplete c => Sys2Proof.Machine.execHoundJobComplete c s
  | .occ c => Sys2Proof.Machine.execOcc c s
  | .occGenerationComplete c => Sys2Proof.Machine.execOccGenerationComplete c s
  | .occupancyStale c => Sys2Proof.Machine.execOccupancyStale c s
  | .aim c => Sys2Proof.Machine.execAim c s
  | .setpointBatchHandoff c h => Sys2Proof.Machine.execSetpointBatchHandoff c h s
  | .setpointFrameQueue c h => Sys2Proof.Machine.execSetpointFrameQueue c h s
  | .setpointTxLate c h => Sys2Proof.Machine.execSetpointTxLate c h s
  | .canFrameTxComplete c bus sof readback => Sys2Proof.Machine.execCanFrameTxComplete c bus sof readback s
  | .canTimeFrame c => Sys2Proof.Machine.execCanTimeFrame c s
  | .status c h data => Sys2Proof.Machine.execStatus c h data s
  | .canFrameIgnored c => Sys2Proof.Machine.execCanFrameIgnored c s
  | .statusTimeout c h => Sys2Proof.Machine.execStatusTimeout c h s
  | .sentryTimerRearm c => Sys2Proof.Machine.execSentryTimerRearm c s
  | .sentryTimerExpiry c => Sys2Proof.Machine.execSentryTimerExpiry c s
  | .motionDisableTimeout c => Sys2Proof.Machine.execMotionDisableTimeout c s
  | .takeover c => Sys2Proof.Machine.execTakeover c s
  | .trailMotion c l hdr payload => Sys2Proof.Machine.execTrailMotion c l hdr payload s
  | .segmentEnd c h => Sys2Proof.Machine.execSegmentEnd c h s
  | .stopAtRest c h => Sys2Proof.Machine.execStopAtRest c h s
  | .healthSample c => Sys2Proof.Machine.execHealthSample c s
  | .dramRead c line e => Sys2Proof.Machine.execDramRead c line e s
  | .dramWrite c line data poison => Sys2Proof.Machine.execDramWrite c line data poison s
  | .dramReadModifyWrite c line o data poison e => Sys2Proof.Machine.execDramReadModifyWrite c line o data poison e s
  | .refresh c k demand => Sys2Proof.Machine.execRefresh c k demand s
  | .mr4Poll c k r0 r1 => Sys2Proof.Machine.execMr4Poll c k r0 r1 s
  | .retrainDue c rank idle => Sys2Proof.Machine.execRetrainDue c rank idle s
  | .retrainForced c rank => Sys2Proof.Machine.execRetrainForced c rank s
  | .patrolScrubRead c k e => Sys2Proof.Machine.execPatrolScrubRead c k e s
  | .scrubDeadline c k => Sys2Proof.Machine.execScrubDeadline c k s
  | .migrationGo c => Sys2Proof.Machine.execMigrationGo c s
  | .migrationCopyLine c e => Sys2Proof.Machine.execMigrationCopyLine c e s
  | .rankCeClear c k r v => Sys2Proof.Machine.execRankCeClear c k r v s
  | .channelPowerDown c k => Sys2Proof.Machine.execChannelPowerDown c k s
  | .telemetrySample c k idle r0 r1 => Sys2Proof.Machine.execTelemetrySample c k idle r0 r1 s
  | .dramWipeComplete c => Sys2Proof.Machine.execDramWipeComplete c s
  | .clockWake c d => Sys2Proof.Machine.execClockWake c d s
  | .crossingStallTimeout c src dst => Sys2Proof.Machine.execCrossingStallTimeout c src dst s
  | .crossingReset c src dst n => Sys2Proof.Machine.execCrossingReset c src dst n s
  | .crossingResync c src dst => Sys2Proof.Machine.execCrossingResync c src dst s
  | .paceMeasure c temps tj => Sys2Proof.Machine.execPaceMeasure c temps tj s
  | .paceLoopStep c => Sys2Proof.Machine.execPaceLoopStep c s
  | .vcoreLow c mv => Sys2Proof.Machine.execVcoreLow c mv s
  | .trailTokens c l hdr payload => Sys2Proof.Machine.execTrailTokens c l hdr payload s
  | .trailClose c l hdr payload => Sys2Proof.Machine.execTrailClose c l hdr payload s
  | .trailRead c l hdr payload => Sys2Proof.Machine.execTrailRead c l hdr payload s
  | .trailWrite c l hdr payload => Sys2Proof.Machine.execTrailWrite c l hdr payload s
  | .trailAtomic c l hdr payload => Sys2Proof.Machine.execTrailAtomic c l hdr payload s
  | .trailData c l hdr payload => Sys2Proof.Machine.execTrailData c l hdr payload s
  | .wack c l hdr payload => Sys2Proof.Machine.execWack c l hdr payload s
  | .ares c l hdr payload => Sys2Proof.Machine.execAres c l hdr payload s
  | .trailTime c l hdr payload => Sys2Proof.Machine.execTrailTime c l hdr payload s
  | .links c l hdr payload => Sys2Proof.Machine.execLinks c l hdr payload s
  | .mark c l hdr payload => Sys2Proof.Machine.execMark c l hdr payload s
  | .markAck c l hdr payload => Sys2Proof.Machine.execMarkAck c l hdr payload s
  | .sleep c l hdr payload => Sys2Proof.Machine.execSleep c l hdr payload s
  | .trailIdle c l hdr payload => Sys2Proof.Machine.execTrailIdle c l hdr payload s
  | .trailBadFlit c l b => Sys2Proof.Machine.execTrailBadFlit c l b s
  | .flitTransmit c l => Sys2Proof.Machine.execFlitTransmit c l s
  | .replayTimeout c l => Sys2Proof.Machine.execReplayTimeout c l s
  | .linksBroadcast c => Sys2Proof.Machine.execLinksBroadcast c s
  | .timeExchangeSend c l => Sys2Proof.Machine.execTimeExchangeSend c l s
  | .laneFailure c l lane lock errs => Sys2Proof.Machine.execLaneFailure c l lane lock errs s
  | .trailRetrain c l => Sys2Proof.Machine.execTrailRetrain c l s
  | .trainComplete c l lanes resume exp => Sys2Proof.Machine.execTrainComplete c l lanes resume exp s
  | .trainAttemptTimeout c l => Sys2Proof.Machine.execTrainAttemptTimeout c l s
  | .linkDownRetry c l => Sys2Proof.Machine.execLinkDownRetry c l s
  | .copy c => Sys2Proof.Machine.execCopy c s
  | .atomic c => Sys2Proof.Machine.execAtomic c s
  | .dmaJobComplete c => Sys2Proof.Machine.execDmaJobComplete c s
  | .adaptStart c n res => Sys2Proof.Machine.execAdaptStart c n res s
  | .adaptCancel c n res => Sys2Proof.Machine.execAdaptCancel c n res s
  | .adaptJobRun c => Sys2Proof.Machine.execAdaptJobRun c s
  | .adaptBatchDeliver c => Sys2Proof.Machine.execAdaptBatchDeliver c s
  | .adaptCreditPoll c => Sys2Proof.Machine.execAdaptCreditPoll c s
  | .adaptLinkRetry c => Sys2Proof.Machine.execAdaptLinkRetry c s
  | .faultEvent c ext => Sys2Proof.Machine.execFaultEvent c ext s
  | .fcuAckGo c => Sys2Proof.Machine.execFcuAckGo c s
  | .faultLiveClear c r => Sys2Proof.Machine.execFaultLiveClear c r s
  | .watchdogKick c r => Sys2Proof.Machine.execWatchdogKick c r s
  | .stewardWatchdogExpiry c => Sys2Proof.Machine.execStewardWatchdogExpiry c s
  | .lockstepSelftest c ok => Sys2Proof.Machine.execLockstepSelftest c ok s
  | .faultInject c => Sys2Proof.Machine.execFaultInject c s
  | .bupinDozeRequest t chips => Sys2Proof.Machine.execBupinDozeRequest t chips s
  | .dozeDeferTimeout c => Sys2Proof.Machine.execDozeDeferTimeout c s
  | .dozeCommit c => Sys2Proof.Machine.execDozeCommit c s
  | .hostWake => Sys2Proof.Machine.execHostWake s
  | .porchWake => Sys2Proof.Machine.execPorchWake s
  | .bupinTimerWake c => Sys2Proof.Machine.execBupinTimerWake c s
  | .wakeComplete c => Sys2Proof.Machine.execWakeComplete c s
  | .lifecycle => Sys2Proof.Machine.execLifecycle s
  | .lifecycleReset => Sys2Proof.Machine.execLifecycleReset s
  | .fwActivate => Sys2Proof.Machine.execFwActivate s
  | .motionEnable => Sys2Proof.Machine.execMotionEnable s
  | .keyRotate => Sys2Proof.Machine.execKeyRotate s
  | .debugUnlock => Sys2Proof.Machine.execDebugUnlock s
  | .pixelTap => Sys2Proof.Machine.execPixelTap s
  | .cfgCommit written => Sys2Proof.Machine.execCfgCommit written s
  | .cfgOpen => Sys2Proof.Machine.execCfgOpen s
  | .criticalComplete => Sys2Proof.Machine.execCriticalComplete s
  | .fwuGo c => Sys2Proof.Machine.execFwuGo c s
  | .fwuAbort c => Sys2Proof.Machine.execFwuAbort c s
  | .fwuWriteComplete c res flash => Sys2Proof.Machine.execFwuWriteComplete c res flash s
  | .fwuVerifyComplete => Sys2Proof.Machine.execFwuVerifyComplete s
  | .trialSuccess => Sys2Proof.Machine.execTrialSuccess s
  | .trialFailure bad => Sys2Proof.Machine.execTrialFailure bad s
  | .bootMailboxGo c len => Sys2Proof.Machine.execBootMailboxGo c len s
  | .bootVerifyComplete c => Sys2Proof.Machine.execBootVerifyComplete c s
  | .setEndpointId t eid => Sys2Proof.Machine.execSetEndpointId t eid s
  | .uartBadFrame => Sys2Proof.Machine.execUartBadFrame s
  | .identity t => Sys2Proof.Machine.execIdentity t s
  | .logRead t index count => Sys2Proof.Machine.execLogRead t index count s
  | .secureLogRead t block => Sys2Proof.Machine.execSecureLogRead t block s
  | .powerWakeRequest t chips => Sys2Proof.Machine.execPowerWakeRequest t chips s
  | .bupinChipReset t chips => Sys2Proof.Machine.execBupinChipReset t chips s
  | .trayPowerCycle t chips => Sys2Proof.Machine.execTrayPowerCycle t chips s
  | .timer t chips wakeAt => Sys2Proof.Machine.execTimer t chips wakeAt s
  | .pace t chips demand => Sys2Proof.Machine.execPace t chips demand s
  | .cci t chip port addr wlen rlen data answer => Sys2Proof.Machine.execCci t chip port addr wlen rlen data answer s
  | .debugHalt t chip => Sys2Proof.Machine.execDebugHalt t chip s
  | .debugStep t chip => Sys2Proof.Machine.execDebugStep t chip s
  | .debugResume t chip => Sys2Proof.Machine.execDebugResume t chip s
  | .debugRead t chip addr => Sys2Proof.Machine.execDebugRead t chip addr s
  | .debugWrite t chip addr value => Sys2Proof.Machine.execDebugWrite t chip addr value s
  | .supply t mask on => Sys2Proof.Machine.execSupply t mask on s
  | .image t off final data => Sys2Proof.Machine.execImage t off final data s
  | .getSensorReading t id => Sys2Proof.Machine.execGetSensorReading t id s
  | .setSensorThresholds t id upper lower => Sys2Proof.Machine.execSetSensorThresholds t id upper lower s
  | .setEventReceiver t eid => Sys2Proof.Machine.execSetEventReceiver t eid s
  | .pollForPlatformEventMessage t => Sys2Proof.Machine.execPollForPlatformEventMessage t s
  | .pldmFirmwareUpdate t bank data flash => Sys2Proof.Machine.execPldmFirmwareUpdate t bank data flash s
  | .activateFirmware t => Sys2Proof.Machine.execActivateFirmware t s
  | .sensorSample mv power rpm plate => Sys2Proof.Machine.execSensorSample mv power rpm plate s
  | .thermalPolicyTick => Sys2Proof.Machine.execThermalPolicyTick s
  | .chipTripRelease c => Sys2Proof.Machine.execChipTripRelease c s
  | .fanUpdate => Sys2Proof.Machine.execFanUpdate s
  | .fanLow => Sys2Proof.Machine.execFanLow s
  | .bupinWatchdog pc => Sys2Proof.Machine.execBupinWatchdog pc s
  | .critical msg res => Sys2Proof.Machine.execCritical msg res s
  | .audioBlockStale c stream slot => Sys2Proof.Machine.execAudioBlockStale c stream slot s
  | .hostRefclkLoss c => Sys2Proof.Machine.execHostRefclkLoss c s
  | .hostRefclkReturn c => Sys2Proof.Machine.execHostRefclkReturn c s
  | .csiClockLaneStop c p => Sys2Proof.Machine.execCsiClockLaneStop c p s
  | .csiClockLaneStart c p => Sys2Proof.Machine.execCsiClockLaneStart c p s
  | .pcieLinkUp c width gen => Sys2Proof.Machine.execPcieLinkUp c width gen s
  | .lnrDisable c => Sys2Proof.Machine.execLnrDisable c s
  | .vcoreRecover c mv => Sys2Proof.Machine.execVcoreRecover c mv s
  | .svPresentChange p => Sys2Proof.Machine.execSvPresentChange p s
  | .activationPowerCycle => Sys2Proof.Machine.execActivationPowerCycle s
  | .malformedTlp c ecrc => Sys2Proof.Machine.execMalformedTlp c ecrc s
  | .receiverError c err => Sys2Proof.Machine.execReceiverError c err s
  | .busOff c bus => Sys2Proof.Machine.execBusOff c bus s
  | .busOffRecovery c bus => Sys2Proof.Machine.execBusOffRecovery c bus s

end Sys2Proof.Machine
end

