-- ==== Sys2Proof/Machine/Idle.lean ====
section
/-! DEFINITION. What an empty queue does: one nanosecond of board time passes, and each DRAM channel issues one
request (DESIGN CHOICE, see log entry 2; spec/01_tray.md R27,
spec/03_self_timed.md R181, spec/21_power_life.md R622). -/

namespace Sys2Proof.Machine

open Sys2Proof

/-- The Bupin's board time advances, and tray_wake_n is released when its 10 ms have passed. (DESIGN CHOICE, log entry 2.) -/
def Tray.tick (t : Tray) : Tray :=
  let t := { t with now := t.now + 1 }
  match t.wakeUntil with
  | some w => if w ≤ t.now then ({ t with wakeUntil := none } : Tray).emit (.pin pinWake true) else t
  | none => t

/-- One nanosecond without a command: nothing passes while the tray has no 12 V. (DESIGN CHOICE, log entry 2.) -/
def State.idle (s : State) : State :=
  if s.tray.power = .off then s
  else
    let s := s.modTray Tray.tick
    let t := s.modAll fun _ ch => if ch.inReset then ch else ch.memTurn.tick s.tray.now
    chipIds.foldl (fun t c => logRanks c s t) t

end Sys2Proof.Machine
end

