-- ==== Sys2Proof/WellFormed.lean ====
section
/-! DEFINITION. Which commands are well formed: the operands that a command of its kind can carry, by the manual's formats. Every
command has its meaning, well formed or not; this says which of them the outside can send. -/

namespace Sys2Proof

/-- `n` bytes from offset `o` lie in a window of `size` bytes, and there is at least one. -/
def fits (o n size : Nat) : Bool := decide (0 < n) && decide (o + n ≤ size)

/-- No element twice. -/
def noRepeat {α : Type} [DecidableEq α] : List α → Bool
  | [] => true
  | x :: t => !t.contains x && noRepeat t

/-- An access of BAR2 stays inside one of its regions (R105). -/
def inRegion (off n : Nat) : Bool :=
  [(0, 0x1000), (0x1000, 0x1000000), (0x1000000, 0x2000000), (0x2000000, 0x4000000)].any fun r =>
    decide (0 < n) && decide (r.1 ≤ off) && decide (off + n ≤ r.2)

def WindowAccess.wf (off : Nat) : WindowAccess → Bool
  | .read n => inRegion off n
  | .write _ data => inRegion off data.length

/-- A host read brings at most `most` bytes: 4,096 for one request, an image or a container where the command is the end of all its
requests (spec/04_host_link.md, R295, R653). One that timed out brings no poison. -/
def ReadResult.wf (r : ReadResult) (most : Nat) : Bool := decide (r.data.length ≤ most) && (r.fail != .timeout || !r.ep)

/-- A management message has at most 1,088 bytes (R674). -/
def msgWf (b : List Byte) : Bool := decide (b.length ≤ 1088)

/-- An access unit has a length. -/
def AuHead.wf (a : AuHead) : Bool := decide (0 < a.len)

/-- A parameter set crops to no more than it codes. -/
def ParamSet.wf (p : ParamSet) : Bool := decide (p.cropW ≤ p.codedW) && decide (p.cropH ≤ p.codedH)

/-- What a decoded access unit reports hangs together: a block is named once, and lies in the picture. -/
def AuResult.wf (r : AuResult) : Bool :=
  noRepeat r.concealed && r.concealed.all (fun b => decide (b < (r.w + 15) / 16 * ((r.h + 15) / 16))) && r.sets.all ParamSet.wf

/-- A line error names each flipped bit once (R505). -/
def LineErr.wf (e : LineErr) : Bool := noRepeat e.flips

/-- The command is well formed. -/
def Instr.wf : Instr → Bool
  | .registerWrite _ _ off _ _ _ => off.toNat % 4 == 0
  | .lowDwordRead _ _ off => off.toNat % 4 == 0
  | .lowDwordWrite _ _ off _ _ _ => off.toNat % 4 == 0
  | .highDwordWrite _ _ off _ _ _ => off.toNat % 4 == 0
  | .chipResetRelease _ bad => noRepeat bad
  | .imageWindowWrite _ off _ data => fits off.toNat data.length 0x1000000
  | .debugWindowAccess _ off acc => acc.wf off.toNat
  | .latchWindowAccess _ off _ _ _ _ _ => off.toNat % 4 == 0
  | .doorbellReadComplete _ _ res => res.wf 4096
  | .descriptorFetchComplete _ _ res => res.wf 4096
  | .graphImageReadComplete _ _ res => res.wf 0x4000000
  | .payloadReadComplete _ _ res => res.wf 4096
  | .kennelRead _ _ n => decide (0 < n)
  | .csiPictureLine _ _ _ _ _ samples => samples.all (fun v => decide (v < 2 ^ 14))
  | .decodeTakeAu _ _ aus => aus.all AuHead.wf && noRepeat (aus.map (·.sess))
  | .decodePrescanComplete _ _ _ sets => sets.all ParamSet.wf
  | .decodeAuComplete _ _ r => r.wf
  | .tdmFrame _ _ _ slots => decide (slots.length ≤ 16)
  | .pdmSample _ x => decide (x.bits.length ≤ 16)
  | .porchSample _ x => decide (x.bits.length ≤ 4)
  | .slotAnnounce _ _ _ payload => payload.length == 56
  | .slotAbort _ _ _ payload => payload.length == 56
  | .slotActivity _ _ _ payload => payload.length == 56
  | .status _ _ data => decide (data.length ≤ 64)
  | .trailMotion _ _ _ payload => payload.length == 56
  | .dramRead _ _ e => e.wf
  | .dramWrite _ _ data _ => data.length == 64
  | .dramReadModifyWrite _ _ o data _ e => fits o.val data.length 64 && e.wf
  | .patrolScrubRead _ _ e => e.wf
  | .migrationCopyLine _ e => e.wf
  | .paceMeasure _ reps _ => reps.length == 13
  | .trailTokens _ _ _ payload => payload.length == 56
  | .trailClose _ _ _ payload => payload.length == 56
  | .trailRead _ _ _ payload => payload.length == 56
  | .trailWrite _ _ _ payload => payload.length == 56
  | .trailAtomic _ _ _ payload => payload.length == 56
  | .trailData _ _ _ payload => payload.length == 56
  | .wack _ _ _ payload => payload.length == 56
  | .ares _ _ _ payload => payload.length == 56
  | .trailTime _ _ _ payload => payload.length == 56
  | .links _ _ _ payload => payload.length == 56
  | .mark _ _ _ payload => payload.length == 56
  | .markAck _ _ _ payload => payload.length == 56
  | .sleep _ _ _ payload => payload.length == 56
  | .trailIdle _ _ _ payload => payload.length == 56
  | .adaptStart _ _ res => res.wf 4096
  | .adaptCancel _ _ res => res.wf 4096
  | .faultEvent _ ext => ext.all (fun f => f.row != 0)
  | .fwuWriteComplete _ res _ => res.wf 0x1000000
  | .secureLogRead _ block => msgWf block
  | .cci _ _ _ _ wlen rlen data answer => data.length == wlen.toNat && answer.all (fun a => a.length == rlen.toNat)
  | .image _ _ _ data => decide (data.length ≤ 1024)
  | .pldmFirmwareUpdate _ _ data _ => decide (data.length ≤ 0x1000000)
  | .critical msg res => res.wf 512 && msg.all (fun m => msgWf m.2)
  | .hwmClr .. => true
  | .powerValid .. => true
  | .powerFault .. => true
  | .powerRestore .. => true
  | .powerLoss .. => true
  | .supplyTrip .. => true
  | .boardSyncEdge .. => true
  | .syncLossTimeout .. => true
  | .senFsyncEdge .. => true
  | .stopLoopSample .. => true
  | .perstAssert .. => true
  | .firmwareReady .. => true
  | .romFallback .. => true
  | .flr .. => true
  | .configRequest .. => true
  | .pmStateChange .. => true
  | .unexpectedCompletion .. => true
  | .completionTimeout .. => true
  | .ptmDialogue .. => true
  | .ptmGo .. => true
  | .ptmResponse .. => true
  | .ptmTimeout .. => true
  | .ptmDisable .. => true
  | .lnrEnable .. => true
  | .lnMessage .. => true
  | .hostAtomicop .. => true
  | .ringEnable .. => true
  | .ringDisable .. => true
  | .ringDrained .. => true
  | .ringReset .. => true
  | .doorbellPoll .. => true
  | .doorbellFallbackPoll .. => true
  | .doorbellSweep .. => true
  | .dozeDoorbellPoll .. => true
  | .nop .. => true
  | .graphLoad .. => true
  | .graphUnload .. => true
  | .graphAbortComplete .. => true
  | .streamOpen .. => true
  | .streamClose .. => true
  | .streamSet .. => true
  | .flowBind .. => true
  | .epochSet .. => true
  | .faultAck .. => true
  | .powerReq .. => true
  | .buf .. => true
  | .irqModerationTimer .. => true
  | .outputOverflowTimeout .. => true
  | .recordCqWrite .. => true
  | .kennelMark .. => true
  | .kennelRewind .. => true
  | .kennelRelease .. => true
  | .kennelForcedRelease .. => true
  | .csiEnable .. => true
  | .csiFrameStart .. => true
  | .csiFrameEnd .. => true
  | .csiOtherPacket .. => true
  | .csiHeaderEccError .. => true
  | .csiFrameTimeout .. => true
  | .sessionDrained .. => true
  | .mosaicSubmit .. => true
  | .cropJob .. => true
  | .mosaicJobComplete .. => true
  | .pictureHoldExpiry .. => true
  | .audioBlockComplete .. => true
  | .audioRelease .. => true
  | .featureSubmit .. => true
  | .featureJob .. => true
  | .featureJobComplete .. => true
  | .porchFrame .. => true
  | .porchHandover .. => true
  | .innTokenGrant .. => true
  | .annexSpillResume .. => true
  | .annexTargetedRecall .. => true
  | .annexBackgroundRecall .. => true
  | .reservePromote .. => true
  | .dispatchFiring .. => true
  | .innDupPop .. => true
  | .loopCloseNotice .. => true
  | .deadlockDetect .. => true
  | .activityExchange .. => true
  | .deadlockAbort .. => true
  | .lingerScan .. => true
  | .guestbookSubmit .. => true
  | .guestbookDeadline .. => true
  | .verdict .. => true
  | .verdictHoldExpiry .. => true
  | .speculationDozeKill .. => true
  | .bundleIssue .. => true
  | .stewardInterrupt .. => true
  | .firingDrainComplete .. => true
  | .add .. => true
  | .sub .. => true
  | .opAnd .. => true
  | .opOr .. => true
  | .xor .. => true
  | .andn .. => true
  | .shl .. => true
  | .shr .. => true
  | .sar .. => true
  | .rol .. => true
  | .eq .. => true
  | .ne .. => true
  | .lt .. => true
  | .ltu .. => true
  | .le .. => true
  | .leu .. => true
  | .min .. => true
  | .max .. => true
  | .minu .. => true
  | .maxu .. => true
  | .clz .. => true
  | .ctz .. => true
  | .popc .. => true
  | .sext .. => true
  | .zext .. => true
  | .adds .. => true
  | .subs .. => true
  | .d2a .. => true
  | .pack .. => true
  | .a2d .. => true
  | .mul .. => true
  | .mulu .. => true
  | .div .. => true
  | .divu .. => true
  | .vadd .. => true
  | .vsub .. => true
  | .vadds .. => true
  | .vsubs .. => true
  | .vmul .. => true
  | .vmulq .. => true
  | .vmacq .. => true
  | .vmin .. => true
  | .vmax .. => true
  | .vand .. => true
  | .vor .. => true
  | .vxor .. => true
  | .vshl .. => true
  | .vshr .. => true
  | .vsar .. => true
  | .vcmpeq .. => true
  | .vcmplt .. => true
  | .vsel .. => true
  | .vperm .. => true
  | .vrsum .. => true
  | .vrmax .. => true
  | .vrmin .. => true
  | .vhadd .. => true
  | .vhmul .. => true
  | .vhfma .. => true
  | .vcvthi .. => true
  | .vcvtih .. => true
  | .vext .. => true
  | .vins .. => true
  | .lsuLoad .. => true
  | .lsuStore .. => true
  | .swap .. => true
  | .cas .. => true
  | .fadd .. => true
  | .fand .. => true
  | .opFor .. => true
  | .fmax .. => true
  | .fmin .. => true
  | .decpos .. => true
  | .load .. => true
  | .emit .. => true
  | .emitTagged .. => true
  | .badd .. => true
  | .bsub .. => true
  | .dadj .. => true
  | .b2d .. => true
  | .d2b .. => true
  | .tcadd .. => true
  | .tcsub .. => true
  | .tcdiff .. => true
  | .tc2f .. => true
  | .f2tc .. => true
  | .ns2tc .. => true
  | .loopStart .. => true
  | .loopBreak .. => true
  | .jump .. => true
  | .call .. => true
  | .ret .. => true
  | .opEnd .. => true
  | .eret .. => true
  | .wfi .. => true
  | .tensorSubmit .. => true
  | .matmul .. => true
  | .conv .. => true
  | .dwconv .. => true
  | .pool .. => true
  | .tensorCommandComplete .. => true
  | .tensorFreeze .. => true
  | .tensorDebugAccWrite .. => true
  | .queueSlotStore .. => true
  | .queueSkipTimeout .. => true
  | .sieveJob .. => true
  | .sieveJobComplete .. => true
  | .track .. => true
  | .fuse .. => true
  | .houndJobComplete .. => true
  | .occ .. => true
  | .occGenerationComplete .. => true
  | .occupancyStale .. => true
  | .aim .. => true
  | .setpointBatchHandoff .. => true
  | .setpointFrameQueue .. => true
  | .setpointTxLate .. => true
  | .canFrameTxComplete .. => true
  | .canTimeFrame .. => true
  | .canFrameIgnored .. => true
  | .statusTimeout .. => true
  | .sentryTimerRearm .. => true
  | .sentryTimerExpiry .. => true
  | .motionDisableTimeout .. => true
  | .takeover .. => true
  | .segmentEnd .. => true
  | .stopAtRest .. => true
  | .healthSample .. => true
  | .refresh .. => true
  | .mr4Poll .. => true
  | .retrainDue .. => true
  | .retrainForced .. => true
  | .scrubDeadline .. => true
  | .migrationGo .. => true
  | .rankCeClear .. => true
  | .channelPowerDown .. => true
  | .telemetrySample .. => true
  | .dramWipeComplete .. => true
  | .clockWake .. => true
  | .crossingStallTimeout .. => true
  | .crossingReset .. => true
  | .crossingResync .. => true
  | .paceLoopStep .. => true
  | .vcoreLow .. => true
  | .trailBadFlit .. => true
  | .flitTransmit .. => true
  | .replayTimeout .. => true
  | .linksBroadcast .. => true
  | .timeExchangeSend .. => true
  | .laneFailure .. => true
  | .trailRetrain .. => true
  | .trainComplete .. => true
  | .trainAttemptTimeout .. => true
  | .linkDownRetry .. => true
  | .copy .. => true
  | .atomic .. => true
  | .dmaJobComplete .. => true
  | .adaptJobRun .. => true
  | .adaptBatchDeliver .. => true
  | .adaptCreditPoll .. => true
  | .adaptLinkRetry .. => true
  | .fcuAckGo .. => true
  | .faultLiveClear .. => true
  | .watchdogKick .. => true
  | .stewardWatchdogExpiry .. => true
  | .lockstepSelftest .. => true
  | .faultInject .. => true
  | .bupinDozeRequest .. => true
  | .dozeDeferTimeout .. => true
  | .dozeCommit .. => true
  | .hostWake .. => true
  | .porchWake .. => true
  | .bupinTimerWake .. => true
  | .wakeComplete .. => true
  | .lifecycle .. => true
  | .lifecycleReset .. => true
  | .fwActivate .. => true
  | .motionEnable .. => true
  | .keyRotate .. => true
  | .debugUnlock .. => true
  | .pixelTap .. => true
  | .cfgCommit .. => true
  | .cfgOpen .. => true
  | .criticalComplete .. => true
  | .fwuGo .. => true
  | .fwuAbort .. => true
  | .fwuVerifyComplete .. => true
  | .trialSuccess .. => true
  | .trialFailure .. => true
  | .bootMailboxGo .. => true
  | .bootVerifyComplete .. => true
  | .setEndpointId .. => true
  | .uartBadFrame .. => true
  | .identity .. => true
  | .logRead .. => true
  | .powerWakeRequest .. => true
  | .bupinChipReset .. => true
  | .trayPowerCycle .. => true
  | .timer .. => true
  | .pace .. => true
  | .debugHalt .. => true
  | .debugStep .. => true
  | .debugResume .. => true
  | .debugRead .. => true
  | .debugWrite .. => true
  | .supply .. => true
  | .getSensorReading .. => true
  | .setSensorThresholds .. => true
  | .setEventReceiver .. => true
  | .pollForPlatformEventMessage .. => true
  | .activateFirmware .. => true
  | .sensorSample .. => true
  | .thermalPolicyTick .. => true
  | .chipTripRelease .. => true
  | .fanUpdate .. => true
  | .fanLow .. => true
  | .bupinWatchdog .. => true
  | .audioBlockStale .. => true
  | .hostRefclkLoss .. => true
  | .hostRefclkReturn .. => true
  | .csiClockLaneStop .. => true
  | .csiClockLaneStart .. => true
  | .pcieLinkUp .. => true
  | .lnrDisable .. => true
  | .vcoreRecover .. => true
  | .svPresentChange .. => true
  | .activationPowerCycle .. => true
  | .malformedTlp .. => true
  | .receiverError .. => true
  | .busOff .. => true
  | .busOffRecovery .. => true

end Sys2Proof
end

