-- ==== Sys2Proof/Safety.lean ====
section
/-! DEFINITION. The conditions that claims about the block are made under, the properties a safe run keeps, and the words the
claims use for the parts of a state. -/

namespace Sys2Proof.Machine

open Sys2Proof

/-! ### When a chip acts -/

/-- Chip `c` is out of reset (R626). -/
abbrev Awake (s : State) (c : ChipId) : Prop := (s.chip c).hif.state ≠ .reset

/-- Chip `c` is out of reset and its self-timed islands have power: PWR_STATE reads Run or Entering Doze (R617). -/
abbrev Live (s : State) (c : ChipId) : Prop := (s.chip c).hif.state ≠ .reset ∧ (s.chip c).rd F.PWR_STATE_STATE < 2

/-- Core `k` of chip `c` runs a firing, or is the Steward at work (R338). -/
abbrev Runs (s : State) (c : ChipId) (k : CoreId) : Prop := Live s c ∧ ((s.chip c).getCore k).st = .running

/-! ### Parts of a state -/

/-- A 64-bit port of core `k` of chip `c`, by its location code (R378). -/
def State.portOf (s : State) (c : ChipId) (k : CoreId) (code : Nat) : Qword := ((s.chip c).getCore k).q code

/-- A 512-bit port. -/
def State.vportOf (s : State) (c : ChipId) (k : CoreId) (code : Nat) : Vec := ((s.chip c).getCore k).w code

/-- The state with core `k` of chip `c` changed by `f`, and nothing else. -/
def State.withCore (s : State) (c : ChipId) (k : CoreId) (f : Core → Core) : State :=
  s.modChip c fun ch => ch.putCore k (f ((s.chip c).getCore k))

/-- `t` differs from `s` in chip `c` alone. -/
abbrev SameBut (s t : State) (c : ChipId) : Prop := (∀ d : ChipId, d ≠ c → t.chip d = s.chip d) ∧ t.tray = s.tray ∧ t.pending = s.pending

/-! ### Commands of one chip -/

/-- The chip that is all a command may change, and that does nothing while it is held in reset; none for a command of the tray, of
several chips, or of one that may reach the Bupin's records. -/
def homeOf : Instr → Option ChipId
  | .lowDwordRead c _ _ | .debugWindowAccess c _ _ | .ptmResponse c _ _ | .lnrEnable c _ _ | .doorbellReadComplete c _ _
  | .descriptorFetchComplete c _ _ | .graphImageReadComplete c _ _ | .payloadReadComplete c _ _ | .kennelRead c _ _
  | .kennelMark c _ _ | .kennelRelease c _ _ | .csiFrameStart c _ _ | .csiFrameEnd c _ _ | .csiHeaderEccError c _ _
  | .csiFrameTimeout c _ _ | .decodeTakeAu c _ _ | .decodeAuComplete c _ _ | .pictureHoldExpiry c _ _
  | .firingDrainComplete c _ _ | .add c _ _ | .sub c _ _ | .opAnd c _ _ | .opOr c _ _ | .xor c _ _ | .andn c _ _ | .shl c _ _
  | .shr c _ _ | .sar c _ _ | .rol c _ _ | .eq c _ _ | .ne c _ _ | .lt c _ _ | .ltu c _ _ | .le c _ _ | .leu c _ _
  | .min c _ _ | .max c _ _ | .minu c _ _ | .maxu c _ _ | .clz c _ _ | .ctz c _ _ | .popc c _ _ | .sext c _ _ | .zext c _ _
  | .adds c _ _ | .subs c _ _ | .d2a c _ _ | .pack c _ _ | .a2d c _ _ | .tensorFreeze c _ _ | .tensorDebugAccWrite c _ _
  | .status c _ _ | .refresh c _ _ | .retrainDue c _ _ | .crossingStallTimeout c _ _ | .crossingResync c _ _
  | .paceMeasure c _ _ | .trailBadFlit c _ _ | .adaptStart c _ _ | .adaptCancel c _ _ | .audioBlockStale c _ _
  | .pcieLinkUp c _ _ => some c
  | .hwmClr c _ | .senFsyncEdge c _ | .pmStateChange c _ | .unexpectedCompletion c _ | .lnMessage c _ | .ringEnable c _
  | .ringDisable c _ | .ringDrained c _ | .ringReset c _ | .nop c _ | .graphLoad c _ | .graphUnload c _
  | .graphAbortComplete c _ | .streamOpen c _ | .streamClose c _ | .streamSet c _ | .flowBind c _ | .epochSet c _
  | .faultAck c _ | .buf c _ | .irqModerationTimer c _ | .outputOverflowTimeout c _ | .recordCqWrite c _ | .kennelRewind c _
  | .kennelForcedRelease c _ | .csiEnable c _ | .sessionDrained c _ | .pdmSample c _ | .audioBlockComplete c _
  | .audioRelease c _ | .porchSample c _ | .innTokenGrant c _ | .annexSpillResume c _ | .annexTargetedRecall c _
  | .annexBackgroundRecall c _ | .reservePromote c _ | .dispatchFiring c _ | .innDupPop c _ | .loopCloseNotice c _
  | .deadlockDetect c _ | .deadlockAbort c _ | .guestbookDeadline c _ | .verdict c _ | .verdictHoldExpiry c _ | .mul c _
  | .mulu c _ | .div c _ | .divu c _ | .vadd c _ | .vsub c _ | .vadds c _ | .vsubs c _ | .vmul c _ | .vmulq c _ | .vmacq c _
  | .vmin c _ | .vmax c _ | .vand c _ | .vor c _ | .vxor c _ | .vshl c _ | .vshr c _ | .vsar c _ | .vcmpeq c _ | .vcmplt c _
  | .vsel c _ | .vperm c _ | .vrsum c _ | .vrmax c _ | .vrmin c _ | .vhadd c _ | .vhmul c _ | .vhfma c _ | .vcvthi c _
  | .vcvtih c _ | .vext c _ | .vins c _ | .badd c _ | .bsub c _ | .dadj c _ | .b2d c _ | .d2b c _ | .tcadd c _ | .tcsub c _
  | .tcdiff c _ | .tc2f c _ | .f2tc c _ | .ns2tc c _ | .matmul c _ | .conv c _ | .dwconv c _ | .pool c _
  | .tensorCommandComplete c _ | .queueSkipTimeout c _ | .setpointBatchHandoff c _ | .setpointFrameQueue c _
  | .setpointTxLate c _ | .statusTimeout c _ | .segmentEnd c _ | .stopAtRest c _ | .retrainForced c _ | .scrubDeadline c _
  | .channelPowerDown c _ | .clockWake c _ | .flitTransmit c _ | .replayTimeout c _ | .timeExchangeSend c _
  | .trailRetrain c _ | .trainAttemptTimeout c _ | .linkDownRetry c _ | .faultLiveClear c _ | .watchdogKick c _
  | .lockstepSelftest c _ | .bootMailboxGo c _ | .csiClockLaneStop c _ | .csiClockLaneStart c _ | .malformedTlp c _
  | .receiverError c _ | .busOff c _ | .busOffRecovery c _ => some c
  | .boardSyncEdge c | .syncLossTimeout c | .ptmDialogue c | .ptmGo c | .ptmTimeout c | .ptmDisable c | .doorbellPoll c
  | .doorbellFallbackPoll c | .doorbellSweep c | .dozeDoorbellPoll c | .cropJob c | .mosaicJobComplete c | .featureJob c
  | .featureJobComplete c | .porchFrame c | .porchHandover c | .activityExchange c | .lingerScan c | .speculationDozeKill c
  | .sieveJob c | .sieveJobComplete c | .track c | .fuse c | .houndJobComplete c | .occ c | .occGenerationComplete c
  | .occupancyStale c | .aim c | .canTimeFrame c | .canFrameIgnored c | .sentryTimerRearm c | .sentryTimerExpiry c
  | .motionDisableTimeout c | .takeover c | .healthSample c | .dramWipeComplete c | .paceLoopStep c | .linksBroadcast c
  | .copy c | .atomic c | .dmaJobComplete c | .adaptJobRun c | .fcuAckGo c | .stewardWatchdogExpiry c | .faultInject c
  | .dozeDeferTimeout c | .lnrDisable c => some c
  | .stopLoopSample _ _ => some 0
  | .imageWindowWrite c _ _ _ | .csiOtherPacket c _ _ _ | .decodePrescanComplete c _ _ _ | .mosaicSubmit c _ _ _
  | .tdmFrame c _ _ _ | .featureSubmit c _ _ _ | .slotAnnounce c _ _ _ | .slotAbort c _ _ _ | .slotActivity c _ _ _
  | .guestbookSubmit c _ _ _ | .tensorSubmit c _ _ _ | .queueSlotStore c _ _ _ | .canFrameTxComplete c _ _ _
  | .trailMotion c _ _ _ | .dramWrite c _ _ _ | .mr4Poll c _ _ _ | .crossingReset c _ _ _ | .trailTokens c _ _ _
  | .trailClose c _ _ _ | .trailRead c _ _ _ | .trailWrite c _ _ _ | .trailAtomic c _ _ _ | .trailData c _ _ _
  | .wack c _ _ _ | .ares c _ _ _ | .trailTime c _ _ _ | .links c _ _ _ | .mark c _ _ _ | .markAck c _ _ _ | .sleep c _ _ _
  | .trailIdle c _ _ _ => some c
  | .hostAtomicop c _ _ _ _ _ _ | .latchWindowAccess c _ _ _ _ _ _ => some c
  | .csiPictureLine c _ _ _ _ _ => some c
  | .telemetrySample c _ _ _ _ | .laneFailure c _ _ _ _ | .trainComplete c _ _ _ _ => some c
  | _ => none

/-! ### The life cycle (R634) -/

/-- The transitions of R634, as codes 0 BLANK, 1 DEVELOP, 2 FIELD, 3 RETURNED, 4 RETIRED. -/
def lifeCycleTable : List (Nat × Nat) := [(0, 1), (0, 2), (1, 2), (1, 3), (2, 3), (3, 1), (3, 2), (3, 4)]

/-- The target that a LIFECYCLE command names (R664). -/
def lifeCycleTarget (cmd : List Byte) : Nat := fieldAt (cmdPayload cmd) 0 1

/-- A LIFECYCLE command whose transition the table has, or another command. -/
def LifeCycleGranted (t : Tray) (cmd : List Byte) : Prop := cmdOf cmd = 1 → (t.lcs, lifeCycleTarget cmd) ∈ lifeCycleTable

/-- What waits for the life cycle was granted in the present state: the change under way, every accepted command and the one that passed
its check; in RETIRED none is accepted and only a SECURE_LOG_READ passes. -/
def State.LifeCycleInv (s : State) : Prop :=
  (∀ x, s.tray.lcsTarget = some x → (s.tray.lcs, x) ∈ lifeCycleTable) ∧
  (∀ a ∈ s.tray.accepted, LifeCycleGranted s.tray a.2) ∧
  (∀ a, s.tray.auth = some a → a.reason = 0 → a.secure = true ∨ LifeCycleGranted s.tray a.cmd) ∧
  (s.tray.lcs = 4 → s.tray.accepted = [] ∧ ∀ a, s.tray.auth = some a → a.reason = 0 → a.secure = true)

/-! ### Safe runs -/

/-- The memory of every chip is in its canonical form. -/
def State.memWf (s : State) : Bool := s.e0.memWf && s.e1.memWf && s.e2.memWf && s.e3.memWf

end Sys2Proof.Machine
end

