-- ==== Sys2Proof/Certificates/Slice0/Obligations.lean ====
section
/-! DEFINITION. The statements about the block: what every command of the table does, what holds of every step, and what the state
after reset is. -/

open Sys2Proof Sys2Proof.Machine

/-- A step takes the command at the front of the queue and executes it on the state that keeps the queue's rest. -/
def Obligations.StepRunsFrontCommand : Prop :=
  ∀ (s : State) (i : Instr), step { s with pending := i :: s.pending } = exec i s

/-- On an empty queue a step is one nanosecond of board time. This is the model's own choice (log entry 2). -/
def Obligations.EmptyQueuePassesOneNanosecond : Prop :=
  ∀ s : State, s.pending = [] →
    (s.tray.power = .off → step s = .next s) ∧
    (s.tray.power ≠ .off → ∃ t, step s = .next t ∧ t.tray.now = s.tray.now + 1 ∧ t.pending = [] ∧ t.tray.power = s.tray.power ∧
      ∀ c : ChipId, (∀ k, k < 16 → (s.chip c).chanIdle k = true) → (∀ x ∈ (s.chip c).xings, x.held = []) →
        (t.chip c).mem = (s.chip c).mem ∧ (t.chip c).poisoned = (s.chip c).poisoned)

/-- The state after reset: chips held, registers at the reset values of the map (R13), POS at the strap (R24), memory empty. -/
def Obligations.ResetLeavesEveryFieldAtItsResetValue : Prop :=
  State.reset.pending = [] ∧
  ∀ c : ChipId, (State.reset.chip c).hif.state = .reset ∧ (State.reset.chip c).rd F.HIF_ID_POS = c.val ∧
    (∀ f : Field, f.key ≠ F.HIF_ID_POS.key → (State.reset.chip c).rd f = f.rst) ∧
    (∀ a : Nat, (State.reset.chip c).byte a = memDefault) ∧ (State.reset.chip c).poisoned = [] ∧ (State.reset.chip c).out = [] ∧
    (State.reset.chip c).faultQ = []

/-- R347: the arithmetic operations of the two ALUs. Only R of the unit changes. -/
def Obligations.AluArithmeticResults : Prop :=
  ∀ (s : State) (c : ChipId) (k : CoreId) (u : Bool), Live s c →
    let n := if u then 2 else 1
    let a := s.portOf c k (portCode n 0)
    let b := s.portOf c k (portCode n 1)
    let gives (v : Qword) : Res := .next (s.withCore c k fun x => x.setQ (portCode n 3) v)
    let sat (x : Int) : Qword := BitVec.ofInt 64 (max (-2 ^ 63) (min (2 ^ 63 - 1) x))
    exec (.add c k u) s = gives (BitVec.ofNat 64 (a.toNat + b.toNat)) ∧
    exec (.sub c k u) s = gives (BitVec.ofInt 64 ((a.toNat : Int) - b.toNat)) ∧
    exec (.adds c k u) s = gives (sat (a.toInt + b.toInt)) ∧
    exec (.subs c k u) s = gives (sat (a.toInt - b.toInt)) ∧
    exec (.min c k u) s = gives (if a.toInt < b.toInt then a else b) ∧
    exec (.max c k u) s = gives (if a.toInt < b.toInt then b else a) ∧
    exec (.minu c k u) s = gives (if a.toNat < b.toNat then a else b) ∧
    exec (.maxu c k u) s = gives (if a.toNat < b.toNat then b else a) ∧
    exec (.pack c k u) s = gives (a.extractLsb' 0 32 ++ b.extractLsb' 0 32)

/-- R347: the bitwise operations, shifts and extensions of the two ALUs, bit by bit or as arithmetic. Only R changes. -/
def Obligations.AluLogicAndShiftResults : Prop :=
  ∀ (s : State) (c : ChipId) (k : CoreId) (u : Bool), Live s c →
    let n := if u then 2 else 1
    let a := s.portOf c k (portCode n 0)
    let b := s.portOf c k (portCode n 1)
    let m := b.toNat % 64
    let gives (v : Qword) : Res := .next (s.withCore c k fun x => x.setQ (portCode n 3) v)
    let ofBits (i : Instr) (f : Nat → Bool) : Prop := ∃ v : Qword, (∀ j, j < 64 → v.getLsbD j = f j) ∧ exec i s = gives v
    ofBits (.opAnd c k u) (fun j => a.getLsbD j && b.getLsbD j) ∧
    ofBits (.opOr c k u) (fun j => a.getLsbD j || b.getLsbD j) ∧
    ofBits (.xor c k u) (fun j => a.getLsbD j ^^ b.getLsbD j) ∧
    ofBits (.andn c k u) (fun j => a.getLsbD j && !b.getLsbD j) ∧
    exec (.shl c k u) s = gives (BitVec.ofNat 64 (a.toNat * 2 ^ m)) ∧
    exec (.shr c k u) s = gives (BitVec.ofNat 64 (a.toNat / 2 ^ m)) ∧
    exec (.sar c k u) s = gives (BitVec.ofInt 64 (a.toInt / 2 ^ m)) ∧
    ofBits (.rol c k u) (fun j => a.getLsbD ((j + 64 - m) % 64)) ∧
    ofBits (.sext c k u) (fun j => a.getLsbD (if j < m then j else m)) ∧
    ofBits (.zext c k u) (fun j => decide (j ≤ m) && a.getLsbD j)

/-- R347: comparisons and counts of the two ALUs. Only R changes. -/
def Obligations.AluComparisonAndCountResults : Prop :=
  ∀ (s : State) (c : ChipId) (k : CoreId) (u : Bool), Live s c →
    let n := if u then 2 else 1
    let a := s.portOf c k (portCode n 0)
    let b := s.portOf c k (portCode n 1)
    let gives (v : Qword) : Res := .next (s.withCore c k fun x => x.setQ (portCode n 3) v)
    let flag (b : Bool) : Res := gives (if b then 1#64 else 0#64)
    exec (.eq c k u) s = flag (decide (a.toNat = b.toNat)) ∧
    exec (.ne c k u) s = flag (decide (a.toNat ≠ b.toNat)) ∧
    exec (.lt c k u) s = flag (decide (a.toInt < b.toInt)) ∧
    exec (.ltu c k u) s = flag (decide (a.toNat < b.toNat)) ∧
    exec (.le c k u) s = flag (decide (a.toInt ≤ b.toInt)) ∧
    exec (.leu c k u) s = flag (decide (a.toNat ≤ b.toNat)) ∧
    (∃ z, z ≤ 64 ∧ a.toNat < 2 ^ (64 - z) ∧ (z < 64 → 2 ^ (63 - z) ≤ a.toNat) ∧
      exec (.clz c k u) s = gives (BitVec.ofNat 64 z)) ∧
    (∃ z, z ≤ 64 ∧ (∀ j, j < z → a.getLsbD j = false) ∧ (z < 64 → a.getLsbD z = true) ∧
      exec (.ctz c k u) s = gives (BitVec.ofNat 64 z)) ∧
    exec (.popc c k u) s = gives (BitVec.ofNat 64 ((List.range 64).countP fun j => a.getLsbD j))

/-- R351: D2A and A2D on a PE. Only R of the ALU changes. -/
def Obligations.AluAddressConversions : Prop :=
  ∀ (s : State) (c : ChipId) (p : PackId) (n : PeId) (u : Bool), Live s c →
    let k : CoreId := .pe p n
    let ch := s.chip c
    let m := if u then 2 else 1
    let a := (s.portOf c k (portCode m 0)).toNat
    let gives (v : Nat) : Res := .next (s.withCore c k fun x => x.setQ (portCode m 3) (BitVec.ofNat 64 v))
    let addr := a % 2 ^ 48
    let space := a / 2 ^ 48 % 4
    let mine := a / 2 ^ 50 % 4 = ch.pos.val
    let pack := a / 2 ^ 52 % 16
    (mine → space = 0 → pack = 0 → addr < ch.usable → exec (.d2a c k u) s = gives (0x100000000 + addr)) ∧
    (mine → space = 1 → pack = 0 → addr < 0x800000 → exec (.d2a c k u) s = gives (0x10000000 + addr)) ∧
    (mine → space = 2 → pack = p.val → addr < 0x200000 → exec (.d2a c k u) s = gives addr) ∧
    ((¬ mine ∨ space = 3 ∨ (space = 2 ∧ pack ≠ p.val) ∨ (space = 2 ∧ 0x200000 ≤ addr) ∨ (space = 1 ∧ 0x800000 ≤ addr) ∨
        (space = 0 ∧ ch.usable ≤ addr)) → exec (.d2a c k u) s = gives (2 ^ 64 - 1)) ∧
    (0x10000000 ≤ a → a < 0x10800000 → exec (.a2d c k u) s = gives (a - 0x10000000 + 2 ^ 48 + ch.pos.val * 2 ^ 50)) ∧
    (0x100000000 ≤ a → a < 0x100000000 + ch.usable → exec (.a2d c k u) s = gives (a - 0x100000000 + ch.pos.val * 2 ^ 50)) ∧
    (a < 0x200000 → exec (.a2d c k u) s = gives (a + 2 * 2 ^ 48 + ch.pos.val * 2 ^ 50 + p.val * 2 ^ 52)) ∧
    ((0x200000 ≤ a ∧ a < 0x10000000 ∨ 0x10800000 ≤ a ∧ a < 0x100000000 ∨ 0x100000000 + ch.usable ≤ a) →
      exec (.a2d c k u) s = gives (2 ^ 64 - 1))

/-- R348, with no case left out: the four operations of MUL on every pair of operands. Only RLO and RHI change. -/
def Obligations.MulResults : Prop :=
  ∀ (s : State) (c : ChipId) (k : CoreId), Live s c →
    let a := s.portOf c k (portCode 3 0)
    let b := s.portOf c k (portCode 3 1)
    let gives (lo hi : Qword) : Res := .next (s.withCore c k fun x => (x.setQ (portCode 3 3) lo).setQ (portCode 3 4) hi)
    (∃ lo hi : Qword, hi.toInt * 2 ^ 64 + lo.toNat = a.toInt * b.toInt ∧ exec (.mul c k) s = gives lo hi) ∧
    (∃ lo hi : Qword, hi.toNat * 2 ^ 64 + lo.toNat = a.toNat * b.toNat ∧ exec (.mulu c k) s = gives lo hi) ∧
    (b ≠ 0 → ¬ (a.toInt = -2 ^ 63 ∧ b.toInt = -1) → ∃ q r : Qword, q.toInt * b.toInt + r.toInt = a.toInt ∧
      r.toInt.natAbs < b.toInt.natAbs ∧ (r = 0 ∨ (r.toInt < 0 ↔ a.toInt < 0)) ∧ exec (.div c k) s = gives q r) ∧
    (a.toInt = -2 ^ 63 → b.toInt = -1 → exec (.div c k) s = gives (BitVec.ofInt 64 (-2 ^ 63)) 0) ∧
    (b ≠ 0 → ∃ q r : Qword, q.toNat * b.toNat + r.toNat = a.toNat ∧ r.toNat < b.toNat ∧ exec (.divu c k) s = gives q r) ∧
    (b = 0 → exec (.div c k) s = gives 0xFFFFFFFFFFFFFFFF a ∧ exec (.divu c k) s = gives 0xFFFFFFFFFFFFFFFF a)

/-- R349: the lane-wise operations of VEC. Only VR and VS change. -/
def Obligations.VecLaneResults : Prop :=
  ∀ (s : State) (c : ChipId) (k : CoreId), Live s c →
    let va := s.vportOf c k (portCode 4 0)
    let vb := s.vportOf c k (portCode 4 1)
    let vc := s.vportOf c k (portCode 4 2)
    let vm := s.portOf c k (portCode 4 3)
    let sat (x : Int) : BitVec 16 := BitVec.ofInt 16 (max (-32768) (min 32767 x))
    let lanes (i : Instr) (f : BitVec 16 → BitVec 16 → BitVec 16 → BitVec 16) : Prop :=
      ∃ v : Vec, (∀ j, j < 32 → lane v j = if vm.getLsbD j then f (lane va j) (lane vb j) (lane vc j) else lane va j) ∧
        exec i s = .next (s.withCore c k fun x => (x.setW (portCode 4 5) v).setQ (portCode 4 6) 0)
    lanes (.vadd c k) (fun a b _ => BitVec.ofNat 16 (a.toNat + b.toNat)) ∧
    lanes (.vsub c k) (fun a b _ => BitVec.ofInt 16 (a.toInt - b.toInt)) ∧
    lanes (.vadds c k) (fun a b _ => sat (a.toInt + b.toInt)) ∧
    lanes (.vsubs c k) (fun a b _ => sat (a.toInt - b.toInt)) ∧
    lanes (.vmul c k) (fun a b _ => BitVec.ofNat 16 (a.toNat * b.toNat)) ∧
    lanes (.vmulq c k) (fun a b _ => sat ((a.toInt * b.toInt + 0x4000) / 2 ^ 15)) ∧
    lanes (.vmacq c k) (fun a b x => sat (x.toInt + (a.toInt * b.toInt + 0x4000) / 2 ^ 15)) ∧
    lanes (.vmin c k) (fun a b _ => if a.toInt < b.toInt then a else b) ∧
    lanes (.vmax c k) (fun a b _ => if a.toInt < b.toInt then b else a) ∧
    lanes (.vand c k) (fun a b _ => a &&& b) ∧
    lanes (.vor c k) (fun a b _ => a ||| b) ∧
    lanes (.vxor c k) (fun a b _ => a ^^^ b) ∧
    lanes (.vshl c k) (fun a b _ => BitVec.ofNat 16 (a.toNat * 2 ^ (b.toNat % 16))) ∧
    lanes (.vshr c k) (fun a b _ => BitVec.ofNat 16 (a.toNat / 2 ^ (b.toNat % 16))) ∧
    lanes (.vsar c k) (fun a b _ => BitVec.ofInt 16 (a.toInt / 2 ^ (b.toNat % 16))) ∧
    lanes (.vhadd c k) (fun a b _ => BitVec.ofNat 16 (fp16.add a.toNat b.toNat)) ∧
    lanes (.vhmul c k) (fun a b _ => BitVec.ofNat 16 (fp16.mul a.toNat b.toNat)) ∧
    lanes (.vhfma c k) (fun a b x => BitVec.ofNat 16 (fp16.fma a.toNat b.toNat x.toNat)) ∧
    lanes (.vcvthi c k) (fun a _ _ => BitVec.ofInt 16 (halfToInt a.toNat)) ∧
    lanes (.vcvtih c k) (fun a _ _ => BitVec.ofNat 16 (fp16.ofInt a.toInt))

/-- R349: the VEC operations that are no plain lane-wise ones. Only VR and VS change. -/
def Obligations.VecMaskAndReductionResults : Prop :=
  ∀ (s : State) (c : ChipId) (k : CoreId), Live s c →
    let va := s.vportOf c k (portCode 4 0)
    let vb := s.vportOf c k (portCode 4 1)
    let vc := s.vportOf c k (portCode 4 2)
    let vm := s.portOf c k (portCode 4 3)
    let on := (List.range 32).filter fun j => vm.getLsbD j
    let vals := on.map fun j => (lane va j).toInt
    let gives (i : Instr) (v : Vec) (q : Qword) : Prop :=
      exec i s = .next (s.withCore c k fun x => (x.setW (portCode 4 5) v).setQ (portCode 4 6) q)
    let compares (i : Instr) (f : BitVec 16 → BitVec 16 → Bool) : Prop :=
      ∃ (v : Vec) (q : Qword),
        (∀ j, j < 32 → lane v j = if vm.getLsbD j then (if f (lane va j) (lane vb j) then 0xFFFF#16 else 0#16) else lane va j) ∧
        (∀ j, j < 64 → q.getLsbD j = (decide (j < 32) && vm.getLsbD j && f (lane va j) (lane vb j))) ∧ gives i v q
    let fills (i : Instr) (f : Nat → BitVec 16) : Prop := ∃ v : Vec, (∀ j, j < 32 → lane v j = f j) ∧ gives i v 0
    let qw := vb.toNat % 8
    compares (.vcmpeq c k) (fun a b => decide (a.toNat = b.toNat)) ∧
    compares (.vcmplt c k) (fun a b => decide (a.toInt < b.toInt)) ∧
    fills (.vsel c k) (fun j => if vm.getLsbD j then lane va j else lane vb j) ∧
    fills (.vperm c k) (fun j => lane va ((lane vb j).toNat % 32)) ∧
    gives (.vrsum c k) 0 (BitVec.ofInt 64 (vals.foldr (· + ·) 0)) ∧
    (∃ q : Qword, (∀ x, x ∈ vals → x ≤ q.toInt) ∧ (q.toInt ∈ vals ∨ q.toInt = -32768) ∧ gives (.vrmax c k) 0 q) ∧
    (∃ q : Qword, (∀ x, x ∈ vals → q.toInt ≤ x) ∧ (q.toInt ∈ vals ∨ q.toInt = 32767) ∧ gives (.vrmin c k) 0 q) ∧
    gives (.vext c k) 0 (va.extractLsb' (64 * qw) 64) ∧
    fills (.vins c k) (fun j => if vm.getLsbD j && decide (j / 4 = qw) then lane vc (j % 4) else lane va j)

/-- R360: the BCD operations. `nib`, `bcdOk` and `bcdVal` are digit, legality and value of a packed number. Only R and C change. -/
def Obligations.DecimalResults : Prop :=
  ∀ (s : State) (c : ChipId) (k : CoreId), Live s c →
    let a := (s.portOf c k (portCode 7 0)).toNat
    let b := (s.portOf c k (portCode 7 1)).toNat
    let gives (i : Instr) (r cc : Nat) : Prop :=
      exec i s = .next (s.withCore c k fun x => (x.setQ (portCode 7 4) (BitVec.ofNat 64 r)).setQ (portCode 7 5) (BitVec.ofNat 64 cc))
    let packed (i : Instr) (v cc : Nat) : Prop := ∃ r, r < 2 ^ 64 ∧ bcdOk r = true ∧ bcdVal r = v ∧ gives i r cc
    (bcdOk a = true → bcdOk b = true →
      packed (.badd c k) ((bcdVal a + bcdVal b) % 10 ^ 16) (if 10 ^ 16 ≤ bcdVal a + bcdVal b then 1 else 0) ∧
      packed (.bsub c k) ((bcdVal a + 10 ^ 16 - bcdVal b) % 10 ^ 16) (if bcdVal a < bcdVal b then 1 else 0)) ∧
    (bcdOk a = true → gives (.d2b c k) (bcdVal a) 0) ∧
    ((bcdOk a && bcdOk b) = false → gives (.badd c k) 0 2 ∧ gives (.bsub c k) 0 2) ∧
    (bcdOk a = false → gives (.d2b c k) 0 2) ∧
    (a < 10 ^ 16 → packed (.b2d c k) a 0) ∧
    (10 ^ 16 ≤ a → gives (.b2d c k) 0x9999999999999999 1) ∧
    (∃ (r : Nat) (cy : Nat → Nat), r < 2 ^ 64 ∧ cy 0 = 0 ∧
      (∀ j, j < 16 → nib r j + 10 * cy (j + 1) = nib a j + cy j ∧ nib r j < 10 ∧ cy (j + 1) ≤ 1) ∧ gives (.dadj c k) r (cy 16))

/-- R360 and R361: the timecode operations. `tc` packs hours, minutes, seconds and frames as two BCD digits each. -/
def Obligations.TimecodeResults : Prop :=
  ∀ (s : State) (c : ChipId) (k : CoreId), Live s c →
    let a := (s.portOf c k (portCode 7 0)).toNat
    let b := (s.portOf c k (portCode 7 1)).toNat
    let rate := (s.portOf c k (portCode 7 2)).toNat % 256
    let day := 86400 * rate
    let bcd2 (n : Nat) : Nat := n / 10 * 16 + n % 10
    let tc (n : Nat) : Nat := bcd2 (n / rate / 3600) * 2 ^ 24 + bcd2 (n / rate / 60 % 60) * 2 ^ 16 + bcd2 (n / rate % 60) * 2 ^ 8 + bcd2 (n % rate)
    let gives (i : Instr) (r cc : Nat) : Prop :=
      exec i s = .next (s.withCore c k fun x => (x.setQ (portCode 7 4) (BitVec.ofNat 64 r)).setQ (portCode 7 5) (BitVec.ofNat 64 cc))
    let wraps (i : Instr) (r d : Nat) : Prop := gives i r ((if d = 0 then 0 else 1) + min d 0xFFFFFFFF * 2 ^ 32)
    (1 ≤ rate → rate ≤ 100 →
      wraps (.f2tc c k) (tc (a % day)) (a / day) ∧
      wraps (.ns2tc c k) (tc (a * rate / 10 ^ 9 % day)) (a * rate / 10 ^ 9 / day) ∧
      (∀ x, x < day → a = tc x →
        gives (.tc2f c k) x 0 ∧ wraps (.tcadd c k) (tc ((x + b) % day)) ((x + b) / day) ∧
        (∀ d, b ≤ x + d * day → (0 < d → x + (d - 1) * day < b) → wraps (.tcsub c k) (tc (x + d * day - b)) d) ∧
        (∀ y, y < day → b = tc y → gives (.tcdiff c k) ((x + day - y) % day) 0))) ∧
    (rate = 0 ∨ 100 < rate → gives (.f2tc c k) 0 2 ∧ gives (.ns2tc c k) 0 2 ∧ gives (.tc2f c k) 0 2 ∧ gives (.tcadd c k) 0 2 ∧
      gives (.tcsub c k) 0 2 ∧ gives (.tcdiff c k) 0 2)

/-- R534 with V = LSU.SD and CMP = LSU.CMP: the stored word, the old value in LSU.LD, the count. -/
def Obligations.LatchResults : Prop :=
  ∀ (s : State) (c : ChipId) (q : LatchReq), Runs s c q.core →
    let ch := (s.chip c).resumed q.core
    let k := ch.getCore q.core
    let a := q.addr.toNat
    ch.lsuBusy q.core k = false → ch.mustWait (coreNo q.core) k = false → ch.inShared a 8 = true → a % 8 = 0 →
    let old : Qword := BitVec.ofNat 64 (ch.load a 8)
    let v := k.q (lsuPort 11)
    let cmp := k.q (lsuPort 12)
    let gives (i : Instr) (new : Qword) : Prop :=
      exec i s = .next (s.setChip c (((ch.store a (toLe 8 new.toNat) k.poison).latchCount).putCore q.core
        { k.setQ (lsuPort 15) old with poison := k.poison || ch.isPoisoned a }))
    gives (.swap c q) v ∧
    gives (.cas c q) (if old = cmp then v else old) ∧
    gives (.fadd c q) (BitVec.ofNat 64 (old.toNat + v.toNat)) ∧
    gives (.fand c q) (old &&& v) ∧
    gives (.opFor c q) (old ||| v) ∧
    gives (.fmax c q) (if old.toInt < v.toInt then v else old) ∧
    gives (.fmin c q) (if v.toInt < old.toInt then v else old) ∧
    gives (.decpos c q) (if 0 < old.toInt then BitVec.ofInt 64 (old.toInt - 1) else old) ∧
    gives (.load c q) old

/-- Where a Latch operation of a core is not made at once (R346, R353, R354, R357). -/
def Obligations.LatchOperationsThatDoNotRun : Prop :=
  ∀ (s : State) (c : ChipId) (q : LatchReq), Runs s c q.core →
    let ch := (s.chip c).resumed q.core
    let k := ch.getCore q.core
    let a := q.addr.toNat
    ((s.chip c).stalledStores (coreNo q.core) = 0 → ((s.chip c).getCore q.core).deferred = [] → ch = s.chip c) ∧
    ∀ e ∈ [(Instr.swap c q, 0), (.cas c q, 1), (.fadd c q, 2), (.fand c q, 3), (.opFor c q, 4), (.fmax c q, 5), (.fmin c q, 6),
        (.decpos c q, 7), (.load c q, 8)],
      (ch.lsuBusy q.core k = true → exec e.1 s = .next (s.setChip c ch)) ∧
      (ch.lsuBusy q.core k = false → ch.inShared a 8 = false → exec e.1 s = .next (s.setChip c (ch.coreExc q.core exAccess a))) ∧
      (ch.lsuBusy q.core k = false → ch.inShared a 8 = true → a % 8 ≠ 0 →
        exec e.1 s = .next (s.setChip c (ch.coreExc q.core exAlign a))) ∧
      (ch.lsuBusy q.core k = false → ch.inShared a 8 = true → a % 8 = 0 → ch.mustWait (coreNo q.core) k = true →
        exec e.1 s = .next (s.setChip c (ch.putCore q.core
          { k with deferred := k.deferred ++ [.latch e.2 a (k.q (lsuPort 11)) (k.q (lsuPort 12)) k.poison] })))

/-- R350 to R356 for an access outside the set-up registers: the address register, the data, and nothing else. -/
def Obligations.LsuAccesses : Prop :=
  ∀ (s : State) (c : ChipId) (k : CoreId) (op : Dword), Runs s c k →
    let ch := (s.chip c).resumed k
    let x := ch.getCore k
    let wl := putBits (putBits op.toNat 8 1 0) 13 1 0
    let ws := putBits (putBits op.toNat 8 1 1) 13 1 0
    ch.lsuBusy k x = false →
    (∀ o, lsuDecode wl = some o → ch.lsuExc k x wl = none → lsuHeld k x wl = false →
      let a := physOf k (x.lsuAddr o).1.toNat
      let n := lsuBytes o.size
      ¬ (regBase ≤ a ∧ a < regBase + 0x1000000) →
      exec (.lsuLoad c k op) s = .next (s.setChip c (ch.putCore k
        ((x.setQ (lsuPort o.ar) (x.lsuAddr o).2).loaded o (ch.stewLoad a n) (ch.anyPoison a n))))) ∧
    (∀ o, lsuDecode ws = some o → ch.lsuExc k x ws = none →
      let a := physOf k (x.lsuAddr o).1.toNat
      let goes := ch.mustWait (coreNo k) x = false ∨ (x.prov = true ∧
        ch.inScratch k x (x.lsuAddr o).1.toNat (lsuBytes o.size) = true ∧ x.deferred.any Deferred.isLsu = false)
      ¬ (regBase ≤ a ∧ a < regBase + 0x1000000) →
      let ch' := ch.putCore k (x.setQ (lsuPort o.ar) (x.lsuAddr o).2)
      (goes → devWord a = false → exec (.lsuStore c k op) s = .next (s.setChip c (ch'.store a (x.storeData o) x.poison))) ∧
      (goes → devWord a = true → exec (.lsuStore c k op) s =
        .next (s.setChip c (ch'.deviceStore k ((a - devBase) / 8) (BitVec.ofNat 64 (leNat (x.storeData o))) x.poison))) ∧
      (¬ goes → exec (.lsuStore c k op) s = .next (s.setChip c (ch'.defer k
        (if devWord a then .device ((a - devBase) / 8) (x.q (lsuPort 11)) x.poison else .store a (x.storeData o) x.poison))))) ∧
    (∀ cause addr, ch.lsuExc k x wl = some (cause, addr) →
      exec (.lsuLoad c k op) s = .next (s.setChip c (ch.coreExc k cause addr))) ∧
    (∀ cause addr, ch.lsuExc k x ws = some (cause, addr) →
      exec (.lsuStore c k op) s = .next (s.setChip c (ch.coreExc k cause addr)))

/-- R358 and R359 on a PE; the verdict of a provisional firing and emissions behind deferred stores wait instead (R354). -/
def Obligations.TokenEmissions : Prop :=
  ∀ (s : State) (c : ChipId) (p : PackId) (n : PeId) (f : Firing) (g : Graph), Runs s c (.pe p n) →
    let ch := (s.chip c).resumed (.pe p n)
    let k := ch.core p.val n.val
    k.firing = some f → ch.graphOf f.slot = some g → k.tokBusy = false →
    let fl := (k.q (tokPort 3)).toNat
    let dest := (k.q (tokPort 1)).toNat
    let tag := (k.q (tokPort 2)).toNat
    let tok (prov : Bool) (ctx iter : Nat) : BitVec 128 := mkToken (k.q (tokPort 0)).toNat (bits dest 0 14) (bits dest 14 2) ctx iter
      (bnat prov + bnat k.poison * 2 + bnat (bit fl 2) * 4 + bnat (bit fl 4) * 16 + bnat (bit fl 5) * 32)
    let goes := ch.mustWait (16 * p.val + n.val) k = false ∨
      (f.prov = true ∧ bit fl 5 = false ∧ k.deferred.any Deferred.isLsu = false)
    let sends (i : Instr) (ctx iter : Nat) : Prop :=
      (goes → exec i s = .next (s.setChip c (ch.emitTok (.pe p n) (tok (bit fl 0 || f.prov) ctx iter)))) ∧
      (¬ goes → exec i s = .next (s.setChip c (ch.putCore (.pe p n)
        { k with deferred := k.deferred ++ [.emit (tok (bit fl 0) ctx iter)] })))
    (bits dest 0 14 < g.nnodes → (bit fl 5 && bit fl 0) = false →
      (ch.tokHeld (.pe p n) k false = false → sends (.emit c (.pe p n)) f.ctx f.iter) ∧
      (g.ctxBase ≤ bits tag 20 10 → bits tag 20 10 < g.ctxBase + g.ctxCount → ch.tokHeld (.pe p n) k true = false →
        sends (.emitTagged c (.pe p n)) (bits tag 20 10) (bits tag 0 20))) ∧
    (g.nnodes ≤ bits dest 0 14 ∨ (bit fl 5 && bit fl 0) = true →
      exec (.emit c (.pe p n)) s = .next (s.setChip c (ch.coreExc (.pe p n) exToken 0)) ∧
      exec (.emitTagged c (.pe p n)) s = .next (s.setChip c (ch.coreExc (.pe p n) exToken 0)))

/-- R362 to R365, R368 and R372: what each control action does to the core's pc, loop stack and return stack. -/
def Obligations.LoopsAndBranches : Prop :=
  ∀ (s : State) (c : ChipId) (k : CoreId) (t : Qword), Runs s c k →
    let ch := (s.chip c).resumed k
    let x := ch.getCore k
    let gives (i : Instr) (y : Core) : Prop := exec i s = .next (s.setChip c (ch.putCore k y))
    let stop := (x.q (lbPort 1)).toNat
    let count := (x.q (lbPort 0)).toNat
    let raises (i : Instr) (cause addr : Nat) : Prop := exec i s = .next (s.setChip c (ch.coreExc k cause addr))
    (x.pc + 64 ≤ stop → ch.codeAt k x stop = true → x.loops.length < 4 →
      (count ≠ 0 → gives (.loopStart c k) { x with loops := ⟨x.pc + 64, stop, count, 0⟩ :: x.loops, pc := x.pc + 64 }) ∧
      (count = 0 → gives (.loopStart c k) { x with pc := stop + 64 })) ∧
    (stop < x.pc + 64 ∨ ch.codeAt k x stop = false ∨ 4 ≤ x.loops.length → raises (.loopStart c k) exLoop stop) ∧
    (∀ l rest, x.loops = l :: rest →
      gives (.loopBreak c k) { x with loops := rest, pc := l.stop + 64 }) ∧
    (x.loops = [] → raises (.loopBreak c k) exLoop 0) ∧
    (ch.codeAt k x t.toNat = true →
      gives (.jump c k t) { x with pc := t.toNat } ∧
      (x.ret.length < 32 → x.ret.length + x.spilled < 288 →
        gives (.call c k t) { x with ret := BitVec.ofNat 64 (x.pc + 64) :: x.ret, pc := t.toNat }) ∧
      (288 ≤ x.ret.length + x.spilled → raises (.call c k t) exRstack 0)) ∧
    (ch.codeAt k x t.toNat = false → raises (.jump c k t) exBranch t.toNat ∧ raises (.call c k t) exBranch t.toNat) ∧
    (∀ y rest, x.ret = y :: rest →
      (ch.codeAt k x y.toNat = true → gives (.ret c k) { x with ret := rest, pc := y.toNat }) ∧
      (ch.codeAt k x y.toNat = false → raises (.ret c k) exBranch y.toNat)) ∧
    (x.ret = [] → x.spilled = 0 → raises (.ret c k) exRstack 0) ∧
    (isSteward k = false → gives (.opEnd c k) { x with st := .draining, pc := x.pc + 64 }) ∧
    (isSteward k = true → raises (.opEnd c k) exIllegal 0)

/-- R373 and R374 on the Steward. -/
def Obligations.StewardSystemOperations : Prop :=
  ∀ (s : State) (c : ChipId), Runs s c .steward →
    let ch := (s.chip c).resumed .steward
    let k := ch.fab.steward.core
    let st := (k.q (sysPort 0)).toNat
    let trapped (k : Core) (epc cause tval pc : Nat) : Core :=
      let st := (k.q (sysPort 0)).toNat
      { (((k.setQ (sysPort 1) (BitVec.ofNat 64 epc)).setQ (sysPort 2) (BitVec.ofNat 64 cause)).setQ (sysPort 3)
          (BitVec.ofNat 64 tval)).setQ (sysPort 0) (BitVec.ofNat 64 (st / 16 * 16 + st % 4 * 4 + 1)) with pc := pc }
    let vector (k : Core) : Nat := (k.q (sysPort 4)).toNat / 2048 * 2048
    (st % 2 = 1 →
      exec (.eret c) s = .next (s.setChip c (ch.putCore .steward
        { k.setQ (sysPort 0) (BitVec.ofNat 64 (st / 4 * 4 + st / 4 % 4)) with pc := (k.q (sysPort 1)).toNat })) ∧
      exec (.wfi c) s = .next (s.setChip c { ch with fab := { ch.fab with steward :=
        { ch.fab.steward with wfi := true, core := { k with pc := k.pc + 64 } } } })) ∧
    (st % 2 = 0 →
      exec (.eret c) s = .next (s.setChip c (ch.putCore .steward (trapped k k.pc 1 0 (vector k + 64)))) ∧
      exec (.wfi c) s = .next (s.setChip c (ch.putCore .steward (trapped k k.pc 1 0 (vector k + 64))))) ∧
    (∀ cause addr, ch.coreExc .steward cause addr = ch.putCore .steward (trapped k k.pc cause addr (vector k + 64 * cause))) ∧
    (ch.fab.steward.halted = false →
      let w := ch.sampleIrq.fab.steward
      let k := w.core
      let set (w : Steward) : State := s.setChip c { ch.sampleIrq with fab := { ch.sampleIrq.fab with steward := w } }
      (w.enabled = 0 → exec (.stewardInterrupt c) s = .next (set w)) ∧
      (w.enabled ≠ 0 → bit (k.q (sysPort 0)).toNat 1 = false → exec (.stewardInterrupt c) s = .next (set { w with wfi := false })) ∧
      (∀ line, line < 32 → bit w.enabled line = true → (∀ j, j < line → bit w.enabled j = false) →
        bit (k.q (sysPort 0)).toNat 1 = true → exec (.stewardInterrupt c) s =
          .next (set { w with wfi := false, core := trapped k k.pc (2 ^ 31 + line * 2 ^ 16) 0 (vector k + 0x400) })))

/-- R338 to R343, R364, R367 and R368: the three outcomes of a bundle, and the end of a firing. -/
def Obligations.BundleIssueAndFiringEnd : Prop :=
  ∀ (s : State) (c : ChipId) (p : PackId) (n : PeId),
    let id : CoreId := .pe p n
    let ch := (s.chip c).resumed id
    let k := ch.core p.val n.val
    (Runs s c id →
      (ch.issue id k = .wait → exec (.bundleIssue c id) s = .next (s.setChip c ch)) ∧
      (∀ cause addr, ch.issue id k = .exc cause addr →
        exec (.bundleIssue c id) s = .next (s.setChip c (ch.coreExc id cause addr))) ∧
      (∀ b ws k' x, ch.issue id k = .go b ws k' x →
        (∀ w ∈ ws, isTrigger false w.1 = false) → exec (.bundleIssue c id) s =
          .next (s.setChip c (((ch.putCore id { k' with steps := k'.steps + 1 }).control id x).stackHint id (bundleHint b))))) ∧
    (Runs s c .steward → ((s.chip c).resumed .steward).fab.steward.halted = true → exec (.bundleIssue c .steward) s =
      .next (s.setChip c ((s.chip c).resumed .steward))) ∧
    (Live s c → ((s.chip c).core p.val n.val).st = .draining → k.st = .draining → k.deferred = [] → k.exc = none → ch.stalledStores (16 * p.val + n.val) = 0 →
      let i := ch.inn p.val
      let done (e : KillEntry) : KillEntry := if e.running = some n.val then { e with running := none, steps := k.steps } else e
      let ch' := (ch.setInn p.val { i with klist := i.klist.map done }).setCore p.val n.val Core.reset
      (k.aborted = true ∨ k.firing = none → exec (.firingDrainComplete c p n) s =
        .next (s.setChip c ((ch'.innSync p.val i.main).gapSync))) ∧
      (∀ f, k.firing = some f → k.aborted = false → exec (.firingDrainComplete c p n) s =
        .next (s.setChip c (((ch'.firingEnded f).innSync p.val i.main).gapSync))))

/-- R21, R99 to R101, R116 and R117: what becomes of an access to a dword of BAR0, and the high-water clears. -/
def Obligations.RegisterAccesses : Prop :=
  ∀ (s : State) (c : ChipId), Awake s c →
    let ch := s.chip c
    let next (x : Chip) : Res := .next (s.setChip c x)
    (∀ (off : BitVec 24) (be : BitVec 4) (ep : Bool) (v : Dword),
      let o := off.toNat / 4 * 4
      let o8 := lowOff o
      exec (.registerWrite c .steward off be ep v) s = .next (s.regWrite c .steward o v.toNat) ∧
      exec (.lowDwordWrite c .steward off be ep v) s = .next (s.regWrite c .steward o8 v.toNat) ∧
      exec (.highDwordWrite c .steward off be ep v) s = .next (s.regWrite c .steward (o8 + 4) v.toNat) ∧
      (ch.memSpace = false → exec (.registerWrite c .host off be ep v) s = next (ch.aer .unsupportedRequest)) ∧
      (ch.memSpace = true → ep = true → exec (.registerWrite c .host off be ep v) s = next ((ch.hifErr 4 false o).aer .poisonedTlp)) ∧
      (ch.memSpace = true → ep = false → ¬ (0x148000 ≤ o ∧ o < 0x150000) →
        (be ≠ 15 → exec (.registerWrite c .host off be ep v) s = next (ch.hifErr 1 false o)) ∧
        (be = 15 → exec (.registerWrite c .host off be ep v) s = .next (s.regWrite c .host o v.toNat))) ∧
      (ch.memSpace = true → ep = false → 0x148000 ≤ o → o < 0x150000 → ch.winOn = true →
        exec (.registerWrite c .host off be ep v) s = next (ch.winWrite ((o - 0x148000) / 8) (o % 8 == 4) be.toNat v.toNat)) ∧
      (ch.memSpace = true → ep = false → inWindow o8 = false → inWindow (o8 + 4) = false → be = 15 →
        exec (.lowDwordWrite c .host off be ep v) s = .next (s.regWrite c .host o8 v.toNat) ∧
        exec (.highDwordWrite c .host off be ep v) s = .next (s.regWrite c .host (o8 + 4) v.toNat))) ∧
    (∀ (off : BitVec 24),
      let o := off.toNat / 4 * 4
      let answers (q : Nat × Chip) : Prop := exec (.lowDwordRead c .host off) s = next (q.2.send (.cpl .sc false (toLe 4 q.1)))
      (ch.memSpace = true → ¬ (0x148000 ≤ o ∧ o < 0x150000) → answers (ch.regRead .host o)) ∧
      (ch.memSpace = true → 0x148000 ≤ o → o < 0x150000 → ch.winOn = true →
        answers (ch.winRead ((o - 0x148000) / 8) (o % 8 == 4))) ∧
      (ch.memSpace = false → exec (.lowDwordRead c .host off) s = next ((ch.aer .unsupportedRequest).send (.cpl .ur false []))) ∧
      exec (.lowDwordRead c .steward off) s = next (ch.regRead .steward o).2) ∧
    (∀ (r : Requester) (off v : Nat) (h : RegHit), ch.answers r off = true → msixDword off = none → pbaDword off = none →
      findReg off = some h → h.fam.dwords = 2 →
      (h.dw = 0 → ch.regWrite r off v = ch.setHoldW r off v ∧
        ch.regRead r off = (bits (ch.readWhole h) 0 32, ch.setHoldR r off (bits (ch.readWhole h) 32 32))) ∧
      (h.dw = 1 → ch.regWrite r off v = ch.regCommit r h off (ch.holdW r (off - 4) + v * 2 ^ 32) ∧
        ch.regRead r off = (ch.holdR r (off - 4), ch))) ∧
    (∀ (k : Fin 64), ch.rd F.PWR_STATE_STATE < 2 →
      exec (.hwmClr c (.kennel k)) s = next (ch.wr (F.KEN_HWM_BYTES k.val) (ch.rd (F.KEN_LEVEL_BYTES k.val)))) ∧
    exec (.hwmClr c .syncMax) s = next (ch.wr F.TKP_SYNC_MAX_MAX (sgn 16 (ch.rd F.TKP_SYNC_ERR_E)).natAbs) ∧
    (ch.rd F.PWR_STATE_STATE < 2 → exec (.hwmClr c .mosaic) s = next (ch.wr F.MOS_QHWM_LEVEL (ch.rd F.MOS_STAT_QLEVEL))) ∧
    (∀ (p : PackId), ch.rd F.PWR_STATE_STATE < 2 →
      exec (.hwmClr c (.inn p)) s = next (ch.wr (F.INN_HWM_MAIN p.val) (ch.rd (F.INN_LEVEL_MAIN p.val))) ∧
      exec (.hwmClr c (.annex p)) s = next (ch.wr (F.ANX_HWM_TOKENS p.val) (ch.rd (F.ANX_USED_TOKENS p.val))))

/-- R10 and R12 for one field of a register, and the frame of the write. -/
def Obligations.FieldsFollowTheirAccessCodes : Prop :=
  ∀ (ch : Chip) (h : RegHit) (x : Nat) (f : FieldSpec),
    let old := ch.rd (h.field f)
    let n := x / 2 ^ f.lo % 2 ^ f.width
    let ch' := ch.writeField h x f
    (f.acc = .rw → ch'.rd (h.field f) = n) ∧
    (f.acc = .w1c → ∀ b, (ch'.rd (h.field f)).testBit b = (decide (b < f.width) && old.testBit b && !n.testBit b)) ∧
    (f.acc = .rwl → ch'.rd (h.field f) = if ch.locked then old else n) ∧
    (f.acc = .dbg → ch'.rd (h.field f) = if ch.develop then n else old) ∧
    (f.acc = .ro ∨ f.acc = .w1p → ch' = ch) ∧
    (∀ g : Field, g.key ≠ (h.field f).key → ch'.rd g = ch.rd g) ∧
    ch'.mem = ch.mem ∧ ch'.poisoned = ch.poisoned ∧ ch'.out = ch.out ∧ ch'.hif = ch.hif

/-- R51, R83, R95, R96, R117 and R157: events of the link, its clock and its reads. -/
def Obligations.LinkEvents : Prop :=
  ∀ (s : State) (c : ChipId),
    let ch := s.chip c
    let next (x : Chip) : Res := .next (s.setChip c x)
    let noClock : HostLink := { ch.hif with refclk := false, linkUp := false, linkWidth := 0, linkGen := 0 }
    (ch.hif.refclk = true → Awake s c →
      exec (.hostRefclkLoss c) s = .next ((s.setChip c ({ ch with hif := noClock }.setClk 16 false)).modTray fun t => t.logGen 5 c.val [])) ∧
    (ch.hif.refclk = true → ch.hif.state = .reset →
      exec (.hostRefclkLoss c) s = .next ((s.setChip c { ch with hif := noClock }).modTray fun t => t.logGen 5 c.val [])) ∧
    (ch.hif.refclk = false → Awake s c → exec (.hostRefclkReturn c) s =
      next (({ ch with hif := { ch.hif with refclk := true } }.setClk 16 true).pcieDeliver.fetchAll)) ∧
    (Awake s c →
      (∀ (w g : Fin 5), ch.hif.refclk = true → ch.hif.linkUp = false → w.val = 1 ∨ w.val = 2 ∨ w.val = 4 → g.val ≠ 0 →
        exec (.pcieLinkUp c w g) s =
          next { ch with hif := { ch.hif with linkUp := true, linkWidth := w.val, linkGen := g.val } }) ∧
      (∀ e ∈ [(LinkErr.receiverError, AerErr.receiverError), (.badTlp, .badTlp), (.badDllp, .badDllp),
          (.replayTimeout, .replayTimeout), (.replayRollover, .replayRollover), (.dataLinkProtocol, .linkProtocol),
          (.receiverOverflow, .receiverOverflow), (.flowControl, .flowControl)],
        exec (.receiverError c e.1) s = next (ch.aer e.2)) ∧
      exec (.malformedTlp c false) s = next (ch.aer .malformedTlp) ∧
      exec (.malformedTlp c true) s = next (if ch.ecrcChecked then ch.aer .ecrc else ch) ∧
      (∀ (tag : BitVec 8), (∀ r ∈ ch.hif.reads, r.tag ≠ tag.toNat) →
        exec (.unexpectedCompletion c tag) s = next (ch.aer .unexpectedCompletion) ∧ exec (.completionTimeout c tag) s = .next s) ∧
      (∀ (tag : BitVec 8) (r : ReadReq) (rest : List ReadReq), ch.hif.reads = r :: rest → r.tag = tag.toNat →
        exec (.unexpectedCompletion c tag) s = .next s ∧
        (∀ line, r.use = .doorbell line →
          exec (.completionTimeout c tag) s = next (ch.doorbellRead line ⟨.timeout, false, []⟩)) ∧
        (∀ n, r.use = .descriptor n → exec (.completionTimeout c tag) s = next (ch.descRead n ⟨.timeout, false, []⟩)) ∧
        (∀ n, r.use = .critical n →
          exec (.completionTimeout c tag) s = next ((ch.dropReads (.critical n)).readAer ⟨.timeout, false, []⟩)) ∧
        (∀ k, r.use = .image k → exec (.completionTimeout c tag) s = next (ch.imageRead k ⟨.timeout, false, []⟩))))

/-- R109 to R114, R122 and R131. -/
def Obligations.PtmAndNotification : Prop :=
  ∀ (s : State) (c : ChipId), Awake s c →
    let ch := s.chip c
    let next (x : Chip) : Res := .next (s.setChip c x)
    let asked (k : Nat) : Chip := ({ ch with hif := { ch.hif with ptmDlg := k, ptmT1 := some ch.now } } : Chip).send .ptmRequest
    (ch.hif.ptmEnable = true → exec (.ptmGo c) s = next (asked 1) ∧
      (ch.rd F.HIF_PTM_CTL_PERIOD ≠ 0 → exec (.ptmDialogue c) s = next (asked 1))) ∧
    (ch.rd F.HIF_PTM_CTL_PERIOD = 0 → exec (.ptmDialogue c) s = .next s) ∧
    (∀ (t2 : Qword) (pd : Dword) (t1 : Nat), ch.hif.ptmT1 = some t1 → ch.hif.ptmDlg = 1 →
      exec (.ptmResponse c t2 pd) s = next (asked 2)) ∧
    (∀ (t2 : Qword) (pd : Dword) (t1 : Nat), ch.hif.ptmT1 = some t1 → ch.hif.ptmDlg ≠ 1 →
      let delay := Int.tdiv ((ch.now : Int) - t1 - pd.toNat) 2
      let x : Chip := { ch with hif := { ch.hif with ptmDlg := 0, ptmT1 := none, ptmCommitted := true, ptmLast := ch.now } }
      let y := ((x.wr F.HIF_PTM_OFF_OFFSET (usgn 64 ((t2.toNat : Int) - delay - t1))).linkDelay delay).setFlag F.HIF_PTM_STAT_VALID true
      exec (.ptmResponse c t2 pd) s =
        next (if ch.hif.ptmCommitted && !ch.flag F.HIF_PTM_STAT_VALID then y.msix 129 else y)) ∧
    (∀ (t2 : Qword) (pd : Dword), ch.hif.ptmT1 = none → exec (.ptmResponse c t2 pd) s = .next s) ∧
    (ch.hif.ptmLast + 4000000 * max 1 (ch.rd F.HIF_PTM_CTL_PERIOD) ≤ ch.now → ch.flag F.HIF_PTM_STAT_VALID = true →
      exec (.ptmTimeout c) s =
        next (((ch.setFlag F.HIF_PTM_STAT_VALID false).setFlag F.HIF_PTM_STAT_LOST_SEEN true).msix 129)) ∧
    exec (.ptmDisable c) s = next ((ch.setCfg 0x148 (putBits (ch.cfg 0x148) 0 1 0)).ptmSet false) ∧
    (∀ (cls : Bool) (n : Fin 32), exec (.lnrEnable c cls n) s =
      next ((ch.setCfg 0x154 (lnCfg (ch.cfg 0x154) true cls n.val)).lnSet true cls n.val)) ∧
    exec (.lnrDisable c) s =
      next ((ch.setCfg 0x154 (putBits (ch.cfg 0x154) 16 1 0)).lnSet false ch.hif.lnrCls (bits (ch.cfg 0x154) 24 5)) ∧
    (∀ (line : BitVec 64),
      let size := 8 * ch.ringsPerLine
      let l := (line.toNat - ch.dbPage) / size
      (ch.halted = true ∨ ch.hif.lnRegs.contains l = false → exec (.lnMessage c line) s = .next s) ∧
      (ch.halted = false → ch.hif.lnRegs.contains l = true → ch.dbPage + size * l = line.toNat / size * size →
        (ch.pwr < 2 → exec (.lnMessage c line) s = next (ch.readLine true l)) ∧
        (ch.pwr = pwrDoze ∨ ch.pwr = pwrWaking → exec (.lnMessage c line) s =
          next (({ ch with hif := { ch.hif with lnHeld := insNat ch.hif.lnHeld l } } : Chip).wakeUp 2))))

/-- R97, R105, R106, R115 to R119, R122, R537 and R538: completions and windows. -/
def Obligations.HostWindows : Prop :=
  ∀ (s : State) (c : ChipId),
    let ch := s.chip c
    let next (x : Chip) : Res := .next (s.setChip c x)
    (∀ (wr : Bool) (off : BitVec 12) (be : BitVec 4) (v : Dword),
      (ch.hif.state = .starting → exec (.configRequest c wr off be v) s = next (ch.send (.cpl .crs false []))) ∧
      (ch.hif.state = .firmware ∨ ch.hif.state = .rom →
        (wr = false → exec (.configRequest c wr off be v) s =
          next (ch.send (.cpl .sc false (toLe 4 (ch.cfgRead (off.toNat / 4 * 4)))))) ∧
        (wr = true → off.toNat / 4 * 4 ≠ 0x78 → exec (.configRequest c wr off be v) s =
          next ((ch.cfgWrite (off.toNat / 4 * 4) be.toNat v.toNat).send (.cpl .sc false []))) ∧
        (wr = true → off.toNat / 4 * 4 = 0x78 → bit be.toNat 1 = true → bit v.toNat 15 = true →
          exec (.configRequest c wr off be v) s =
            .next ((s.setChip c ((ch.cfgWrite 0x78 be.toNat v.toNat).send (.cpl .sc false []))).warmReset c rstFlr)))) ∧
    (Awake s c →
      (ch.hif.state ≠ .starting → ∀ d3 : Bool,
        exec (.pmStateChange c d3) s = next { ch with hif := { ch.hif with d3hot := d3 } }) ∧
      (∀ (off : BitVec 24) (data : List Byte), ch.memSpace = true →
        (ch.romMode = true → ch.hif.bmState ≠ 1 → off.toNat + data.length ≤ 0x1000000 →
          exec (.imageWindowWrite c off false data) s = next { ch with hif := { ch.hif with
            image := data.zipIdx.foldl (fun (m : Tab Byte) e => Tab.set 0#8 m (off.toNat + e.2) e.1) ch.hif.image } }) ∧
        (ch.romMode = false ∨ ch.hif.bmState = 1 →
          exec (.imageWindowWrite c off false data) s = next (ch.hifErr 6 true (0x1000000 + off.toNat))) ∧
        exec (.imageWindowWrite c off true data) s = next ((ch.hifErr 4 true (0x1000000 + off.toNat)).aer .poisonedTlp)) ∧
      (∀ (off : BitVec 26) (n : Nat), ch.memSpace = true → 0x2000000 ≤ off.toNat → off.toNat + n ≤ 0x4000000 →
        let a := ch.rd F.HIF_DBG_BASE_BASE * 2 ^ 25 + (off.toNat - 0x2000000)
        (ch.develop = false → exec (.debugWindowAccess c off (.read n)) s = next (ch.cplData false (zeros n) n)) ∧
        (ch.develop = true → exec (.debugWindowAccess c off (.read n)) s = next (ch.cplData
          (((List.range n).map (a + ·)).any fun x => decide (dramBase ≤ x) && ch.dbgMem x && ch.isPoisoned x)
          (((List.range n).map (a + ·)).map ch.dbgByte) n)) ∧
        (∀ data : List (Option Byte), data.length = n →
          (ch.develop = true → exec (.debugWindowAccess c off (.write false data)) s = next (ch.dbgStore a [] data)) ∧
          (ch.develop = false → exec (.debugWindowAccess c off (.write false data)) s = .next s))) ∧
      (∀ (off : BitVec 26) (op : AtomicKind) (v cmp : Qword) (a : Nat), ch.memSpace = true → ch.winOn = true →
        0x148000 ≤ off.toNat → off.toNat < 0x150000 →
        (off.toNat % 8 ≠ 0 → exec (.hostAtomicop c false off op .s8 v cmp) s = next (ch.aer .malformedTlp)) ∧
        (off.toNat % 8 = 0 → ch.winWord ((off.toNat - 0x148000) / 8) = some a → ch.tapHides a = false → ch.isPoisoned a = false →
          exec (.hostAtomicop c false off op .s8 v cmp) s =
            next ((ch.latchOp a (atomicLop op) v cmp false).2.2.send (.cpl .sc false (toLe 8 (BitVec.ofNat 64 (ch.load a 8)).toNat)))) ∧
        (off.toNat % 8 = 0 → ch.winWord ((off.toNat - 0x148000) / 8) = some a → ch.tapHides a = false → ch.isPoisoned a = true →
          exec (.hostAtomicop c false off op .s8 v cmp) s = next ch.hostPoison.unsupported)) ∧
      (∀ (off : BitVec 15) (be : BitVec 8) (v : Qword), ch.memSpace = true → ch.winOn = true →
        let o := off.toNat / 4 * 4
        exec (.latchWindowAccess c off false true be false v) s =
          next (ch.winWrite (o / 8) (o % 8 == 4) (bits be.toNat 0 4) (bits v.toNat 0 32)) ∧
        exec (.latchWindowAccess c off false false be false v) s =
          next ((ch.winRead (o / 8) (o % 8 == 4)).2.send (.cpl .sc false (toLe 4 (ch.winRead (o / 8) (o % 8 == 4)).1))))) 

/-- R136 to R144, R154 and R155: the states of a ring. -/
def Obligations.RingControl : Prop :=
  ∀ (s : State) (c : ChipId) (n : Fin 128), Live s c →
    let ch := s.chip c
    let next (x : Chip) : Res := .next (s.setChip c x)
    let st := ch.rd (F.RNG_STATE_STATE n.val)
    let fresh : Ring := { Ring.reset with
      typ := ch.rd (F.RNG_CTL_TYPE n.val), gen := ch.rd (F.RNG_CTL_GEN n.val), size := ch.rd (F.RNG_SIZE_SIZE n.val),
      sqBase := 64 * ch.rd (F.RNG_SQ_BASE_BASE n.val), cqBase := 64 * ch.rd (F.RNG_CQ_BASE_BASE n.val) }
    (st = ringDisabled → ch.enableCheck n.val = none → exec (.ringEnable c n) s =
      next (((((ch.setRing n.val fresh).wr (F.RNG_SQ_CONS_INDEX n.val) 0).wr (F.RNG_CQ_PROD_INDEX n.val) 0).wr
        (F.RNG_STATE_STATE n.val) ringActive).setFlag (F.RNG_CTL_ENABLE n.val) true).lnUpdate) ∧
    (st = ringDisabled → ∀ e, ch.enableCheck n.val = some e → exec (.ringEnable c n) s =
      next ((ch.setFlag (F.RNG_CTL_ENABLE n.val) false).setFlag e true)) ∧
    (st = ringActive ∨ st = ringOverflow → exec (.ringDisable c n) s =
      next ((ch.setFlag (F.RNG_CTL_ENABLE n.val) false).wr (F.RNG_STATE_STATE n.val) ringDraining)) ∧
    (st = ringDraining → (ch.ring n.val).descs = [] → (ch.ring n.val).fetching = none → exec (.ringDrained c n) s =
      next (ch.wr (F.RNG_STATE_STATE n.val) ringDisabled).lnUpdate) ∧
    exec (.ringReset c n) s = next (ch.ringReset n.val) ∧
    (ch.rd (F.RNG_IRQ_TIME n.val) ≠ 0 → (ch.ring n.val).unsig ≠ 0 →
      (ch.ring n.val).oldest + ch.rd (F.RNG_IRQ_TIME n.val) * 1000 ≤ ch.now → ch.halted = false → ch.pcieWaits = false →
      exec (.irqModerationTimer c n) s = next ((ch.setRing n.val { ch.ring n.val with unsig := 0 }).msix n.val)) ∧
    (st = ringActive → (ch.ring n.val).typ = 3 → ch.outFull n.val = true → exec (.outputOverflowTimeout c n) s =
      next ((ch.wr (F.RNG_STATE_STATE n.val) ringOverflow).outFlush n.val)) ∧
    (∀ f : Fin 256, (ch.halted = false → ch.pcieWaits = false → exec (.recordCqWrite c f) s = next (ch.recordOut f.val)) ∧
      (ch.halted = true ∨ ch.pcieWaits = true → exec (.recordCqWrite c f) s = .next s))

/-- R130 to R135, R154 and R157. -/
def Obligations.DoorbellsAndFetches : Prop :=
  ∀ (s : State) (c : ChipId), Awake s c →
    let ch := s.chip c
    let next (x : Chip) : Res := .next (s.setChip c x)
    let polled (ls : List Nat) : Chip := ls.foldl (fun (x : Chip) l => x.readLine false l) ch
    ch.halted = false →
    (ch.pwr = pwrRun → ch.rd F.RNG_POLL_PERIOD ≠ 0 → exec (.doorbellPoll c) s = next (polled ch.pollLines)) ∧
    (ch.pwr = pwrRun → ch.rd F.RNG_POLL_PERIOD = 0 → ch.pollLines ≠ [] →
      exec (.doorbellFallbackPoll c) s = next ((polled ch.pollLines).setFlag F.RNG_GSTAT_FALLBACK_SEEN true)) ∧
    (ch.pwr = pwrRun → ch.rd F.RNG_POLL_SWEEP ≠ 0 → exec (.doorbellSweep c) s = next (polled ch.linesNeeded)) ∧
    (ch.pwr = pwrDoze → ch.rd F.RNG_POLL_DOZE ≠ 0 → exec (.dozeDoorbellPoll c) s = next (polled ch.pollLines)) ∧
    (∀ (r : ReadReq) (rest : List ReadReq) (data : List Byte), ch.hif.reads = r :: rest →
      let got : Chip := ch.setReads rest
      (∀ line, r.use = .doorbell line →
        exec (.doorbellReadComplete c line ⟨.none, false, data⟩) s = next (got.doorbells line data)) ∧
      (∀ line, r.use = .doorbell line →
        exec (.doorbellReadComplete c line ⟨.timeout, false, data⟩) s = next (got.aer .completionTimeout)) ∧
      (∀ (n : Fin 128) (at' cnt : Nat), r.use = .descriptor n.val → (got.ring n.val).fetching = some (at', cnt) →
        let q := got.ring n.val
        let ds := (List.range cnt).map fun j => newDesc q.typ ((at' + j) % 2 ^ 32) (padTo 64 ((data.drop (64 * j)).take 64))
        let x := (got.setRing n.val { q with fetching := none, descs := q.descs ++ ds }).wr (F.RNG_SQ_CONS_INDEX n.val) (at' + cnt)
        exec (.descriptorFetchComplete c n ⟨.none, false, data⟩) s =
          next ((x.flushDone n.val (q.descs.length + cnt)).ringFetch n.val) ∧
        exec (.descriptorFetchComplete c n ⟨.none, true, data⟩) s =
          next ((got.aer .poisonedTlp).descFail n.val at' stHostPoison false true) ∧
        exec (.descriptorFetchComplete c n ⟨.timeout, false, data⟩) s =
          next ((got.aer .completionTimeout).descFail n.val at' stHostReadErr true false)))

/-- R146 to R157: the short descriptors. `d` is the descriptor that the ring starts next. -/
def Obligations.ShortDescriptors : Prop :=
  ∀ (s : State) (c : ChipId) (n : Fin 128) (d : Desc), Awake s c →
    let ch := s.chip c
    let x := ch.startDesc n.val d.idx
    let next (x : Chip) : Res := .next (s.setChip c x)
    let done (st : Nat) : Res := next (x.complete n.val d.idx fun e => { e with status := st })
    let doneId (st id : Nat) : Res := next (x.complete n.val d.idx fun e => { e with status := st, id := id })
    (ch.nextDesc n.val opNop = some d →
      exec (.nop c n) s = done (if descOk d.bytes [(8, 56)] then stOk else stBadDesc)) ∧
    (ch.nextDesc n.val opNop = none → exec (.nop c n) s = .next s) ∧
    (ch.nextDesc n.val opFlowBind = some d →
      let f := fieldAt d.bytes 8 2
      let r := fieldAt d.bytes 10 1
      (descOk d.bytes [(11, 53)] = true → f < 256 → r < 128 → x.outEnabled r = true → exec (.flowBind c n) s =
        next ((x.setFlow f { x.flow f with bound := some r }).complete n.val d.idx fun e => { e with status := stOk, id := f })) ∧
      (descOk d.bytes [(11, 53)] = false ∨ 256 ≤ f ∨ 128 ≤ r ∨ x.outEnabled r = false →
        exec (.flowBind c n) s = doneId stBadDesc f)) ∧
    (ch.nextDesc n.val opEpochSet = some d → descOk d.bytes [(16, 48)] = true →
      exec (.epochSet c n) s = next ((x.wr F.TKP_EPOCH_OFFSET (fieldAt d.bytes 8 8)).complete n.val d.idx
        fun e => { e with status := stOk, detail64 := x.rd F.TKP_EPOCH_OFFSET })) ∧
    (ch.nextDesc n.val opFaultAck = some d → descOk d.bytes [(10, 54)] = true →
      (∀ y, x.ackRec (fieldAt d.bytes 8 2) = some y →
        exec (.faultAck c n) s = next (y.complete n.val d.idx fun e => { e with status := stOk })) ∧
      (x.ackRec (fieldAt d.bytes 8 2) = none → exec (.faultAck c n) s = done stBadDesc)) ∧
    (ch.nextDesc n.val opStreamSet = some d → descOk d.bytes [(10, 2), (16, 48)] = true →
      let i := fieldAt d.bytes 8 2
      let b := fieldAt d.bytes 12 4
      (b = 0 ∨ 10000000 < b → exec (.streamSet c n) s = doneId stBadDesc i) ∧
      (1 ≤ b → b ≤ 10000000 →
        (x.stream i = none → exec (.streamSet c n) s = doneId stBadStream i) ∧
        (∀ y, x.stream i = some y → exec (.streamSet c n) s = doneId stOk i) ∧
        (∀ (z : Chip) (y : Stream), z.stream i = some y →
          z.budgetSet { d with status := stOk } = z.setStream i { y with budgets := (z.now, b) :: y.budgets }))) ∧
    (ch.nextDesc n.val opPowerReq = some d →
      (descOk d.bytes [(9, 55)] = false ∨ fieldAt d.bytes 8 1 ≠ 1 → exec (.powerReq c n) s = done stBadDesc) ∧
      (descOk d.bytes [(9, 55)] = true → fieldAt d.bytes 8 1 = 1 → ch.pwr ≠ pwrRun → exec (.powerReq c n) s = done stBusy) ∧
      (descOk d.bytes [(9, 55)] = true → fieldAt d.bytes 8 1 = 1 → ch.pwr = pwrRun →
        exec (.powerReq c n) s = .next ((s.setChip c { x with pw := some (n.val, d.idx) }).enterDoze c))) ∧
    (ch.nextDesc n.val opBuf = some d → ch.ringBlocked n.val = false → ch.fetches = true →
      descOk d.bytes [(11, 1), (32, 32)] = true → fieldAt d.bytes 10 1 < 16 → fieldAt d.bytes 12 4 ≤ 0x1000000 →
      let i := fieldAt d.bytes 8 2
      (ch.bufKennel i = none → exec (.buf c n) s = doneId stBadStream i) ∧
      (∀ k y, ch.bufKennel i = some k → ch.stream i = some y → (ch.kennel k).fill = none →
        (fieldAt d.bytes 12 4 = 0 → exec (.buf c n) s = doneId stEmpty i) ∧
        (0 < fieldAt d.bytes 12 4 → (ch.slot y.graph).st = .empty → exec (.buf c n) s =
          next ((x.setKennel k { x.kennel k with discont := true }).complete n.val d.idx
            fun e => { e with status := stNoFlow, id := i })) ∧
        (0 < fieldAt d.bytes 12 4 → (ch.slot y.graph).st ≠ .empty → exec (.buf c n) s =
          next ((x.setKennel k { x.kennel k with fill := some ⟨n.val, d.idx, fieldAt d.bytes 16 8, fieldAt d.bytes 12 4, 0, 0,
            fieldAt d.bytes 24 8, fieldAt d.bytes 10 1, false⟩ }).kFill k))))

/-- R148, R157, R190, R283 to R290 and R583: the long descriptors. `d` is the descriptor that the ring starts next. -/
def Obligations.LongDescriptors : Prop :=
  ∀ (s : State) (c : ChipId) (n : Fin 128) (d : Desc), Live s c →
    let ch := s.chip c
    let x := ch.startDesc n.val d.idx
    let next (x : Chip) : Res := .next (s.setChip c x)
    let done (y : Chip) (f : Desc → Desc) : Res := next (y.complete n.val d.idx f)
    (ch.nextDesc n.val opStreamOpen = some d →
      let r := OpenReq.ofBytes d.bytes
      (r.legal d.bytes = false → exec (.streamOpen c n) s = done x fun e => { e with status := stBadDesc, id := r.stream }) ∧
      (r.legal d.bytes = true → (x.stream r.stream).isSome = true →
        exec (.streamOpen c n) s = done x fun e => { e with status := stBusy, id := r.stream }) ∧
      (r.legal d.bytes = true → x.stream r.stream = none →
        (r.kind = 1 → exec (.streamOpen c n) s =
          done (x.openBits r).2.2 fun e => { e with status := (x.openBits r).1, id := r.stream, detail := (x.openBits r).2.1 }) ∧
        (r.kind = 2 → exec (.streamOpen c n) s = done (x.openRaw r).2 fun e => { e with status := (x.openRaw r).1, id := r.stream }) ∧
        (r.kind = 3 → exec (.streamOpen c n) s =
          done (x.openAudio r).2 fun e => { e with status := (x.openAudio r).1, id := r.stream }))) ∧
    (ch.nextDesc n.val opStreamClose = some d → descOk d.bytes [(10, 54)] = true →
      let i := fieldAt d.bytes 8 2
      (x.stream i = none → exec (.streamClose c n) s = done x fun e => { e with status := stBadStream, id := i }) ∧
      (∀ y, x.stream i = some y → y.closing ≠ none →
        exec (.streamClose c n) s = done x fun e => { e with status := stBadStream, id := i }) ∧
      (∀ y, x.stream i = some y → y.closing = none →
        let closed (y : Stream) : Stream :=
          { y with live := y.live.filter (fun f => !y.done.contains f.frame), done := [], closing := some (n.val, d.idx) }
        let ends (z : Chip) (y : Stream) : Prop :=
          ((closed y).live ≠ [] → exec (.streamClose c n) s = next (z.setStream i (closed y))) ∧
          ((closed y).live = [] → exec (.streamClose c n) s = next (((z.setStream i (closed y)).closeNow i).gbkFreed))
        (y.kind = 1 → exec (.streamClose c n) s = next ((x.setStream i (closed y)).closeBits y.unit)) ∧
        (y.kind = 2 → ∀ y', (x.closeRaw y.source).stream i = some y' → y'.kind = 2 → ends (x.closeRaw y.source) y') ∧
        (y.kind = 3 → ends x y))) ∧
    (ch.nextDesc n.val opGraphLoad = some d → descOk d.bytes [(21, 43)] = true →
      let addr := fieldAt d.bytes 8 8
      let len := fieldAt d.bytes 16 4
      let k := fieldAt d.bytes 20 1
      addr % 64 = 0 → len ≤ 64 * 1048576 → k < 16 →
      (len = 0 → exec (.graphLoad c n) s = done x fun e => { e with status := stEmpty }) ∧
      (0 < len → (x.slot k).st ≠ .empty → exec (.graphLoad c n) s = done x fun e => { e with status := stBusy }) ∧
      (0 < len → (x.slot k).st = .empty → exec (.graphLoad c n) s =
        next (((x.setSlot k { x.slot k with st := .loading, load := some (n.val, d.idx) }).slotSync k).hostRead (.image k) addr len))) ∧
    (ch.nextDesc n.val opGraphUnload = some d → descOk d.bytes [(9, 55)] = true → fieldAt d.bytes 8 1 < 16 →
      let k := fieldAt d.bytes 8 1
      ((x.slot k).st = .empty → exec (.graphUnload c n) s = done x fun e => { e with status := stBadDesc }) ∧
      ((x.slot k).st = .loading → exec (.graphUnload c n) s = done x fun e => { e with status := stBusy }) ∧
      ((x.slot k).st ≠ .empty → (x.slot k).unload.isSome = true →
        exec (.graphUnload c n) s = done x fun e => { e with status := stBusy }) ∧
      ((x.slot k).st ≠ .empty → (x.slot k).st ≠ .loading → (x.slot k).unload = none → exec (.graphUnload c n) s =
        next ((x.abortSlot k true).setSlot k { (x.abortSlot k true).slot k with unload := some (n.val, d.idx) }))) ∧
    (∀ (addr : Nat) (b : List Byte), ch.nextDesc n.val opJobSubmit = some d → jobHead d = .inr (addr, b.length) → ch.fetches = true →
      let y := ((x.hostRead (.job n.val) addr b.length).dropReads (.job n.val))
      let j := fieldAt b 1 1
      let answer (st : Nat) (e : Desc) : Desc := { e with status := st, nbytes := b.length, poison := false }
      (fieldAt b 0 1 ≠ 2 → b.length = 192 → y.startOk b = true → y.adpLive j = true →
        exec (.adaptStart c n ⟨.none, false, b⟩) s = done y (answer stBusy)) ∧
      (fieldAt b 0 1 ≠ 2 → b.length = 192 → y.startOk b = false →
        exec (.adaptStart c n ⟨.none, false, b⟩) s = done y (answer stBadDesc)) ∧
      (fieldAt b 0 1 ≠ 2 → b.length = 192 → y.startOk b = true → y.adpLive j = false →
        let r := AdpReq.ofBytes b
        let job : AdpJob := ⟨b, ⟨r.epoch0, 0, 0, 0, List.replicate r.nbuck [], 0⟩, none⟩
        let z : Chip := { y with adp := { y.adp with jobs := Tab.put y.adp.jobs j job } }
        exec (.adaptStart c n ⟨.none, false, b⟩) s = done (((((((((z.wr (F.ADP_JOB_STATE j) adpQueued).wr (F.ADP_JOB_SLOT j)
          ((z.ctxSlot r.context).getD 0)).wr (F.ADP_JOB_CHIPS j) r.chips).wr (F.ADP_EPOCH_VALUE j) 0).wr (F.ADP_INDEX_VALUE j) 0).wr
          (F.ADP_SERIAL_VALUE j) 0).wr (F.ADP_DELIV_VALUE j) 0).wr (F.ADP_END_TIME j) 0)) (answer stOk)) ∧
      (fieldAt b 0 1 = 2 → b.length = 64 → j < 4 → fieldAt b 2 62 = 0 → y.adpLive j = true →
        exec (.adaptCancel c n ⟨.none, false, b⟩) s = done (y.adpEnd j adpCancelled) (answer stOk)))

/-- R157 to R167, R191 and R194: the reader's operations, the payload, and the forced release. -/
def Obligations.KennelOperations : Prop :=
  ∀ (s : State) (c : ChipId) (k : Fin 64) (n : Nat), Live s c →
    let ch := s.chip c
    let x := ch.kennel k.val
    let next (x : Chip) : Res := .next (s.setChip c x)
    let r := ch.kR k.val
    let w := ch.kW k.val
    (ch.flag (F.KEN_STAT_OPEN k.val) = true →
      (n = 0 → exec (.kennelRead c k n) s = next (ch.setKennel k.val { x with waitRead := none, lastRead := [], readEnd := false })) ∧
      (0 < n → r = w → exec (.kennelRead c k n) s =
        next (ch.setKennel k.val { x with waitRead := some n, lastRead := [], readEnd := false })) ∧
      (0 < n → r ≠ w →
        let m := min n ((ch.kEos k.val).elim w (fun e => min w e) - r)
        exec (.kennelRead c k n) s = next (ch.kDo k.val fun y =>
          (y.setKennel k.val (Kennel.endMark { x with
            waitRead := none
            lastRead := ch.kBytes k.val r m
            readEnd := decide (ch.kEos k.val = some (r + m)) } (r + m) (ch.kL k.val))).wr (F.KEN_RPOS_VALUE k.val) (r + m))) ∧
      exec (.kennelMark c k n) s = next (ch.kDo k.val fun y => y.setKennel k.val { x with mark := some (r, min n ch.bankBytes) }) ∧
      (∀ m len, x.mark = some (m, len) → len ≠ 0 → exec (.kennelRewind c k) s = next (ch.kDo k.val fun y =>
        (y.setKennel k.val { x with waitRead := none }).wr (F.KEN_RPOS_VALUE k.val) m)) ∧
      (x.mark = none → exec (.kennelRewind c k) s = .next s) ∧
      exec (.kennelRelease c k n) s = next (ch.kDo k.val fun y => y.kRelease k.val n)) ∧
    (ch.flag (F.KEN_STAT_OPEN k.val) = false →
      exec (.kennelRead c k n) s = .next s ∧ exec (.kennelMark c k n) s = .next s ∧ exec (.kennelRewind c k) s = .next s ∧
      exec (.kennelRelease c k n) s = .next s) ∧
    (∀ (q : ReadReq) (rest : List ReadReq) (f : Fill) (res : ReadResult), ch.hif.reads = q :: rest → q.use = .payload k.val →
      x.fill = some f → ch.halted = false → exec (.payloadReadComplete c k res) s =
        next (((ch.setReads rest).readAer res).payload k.val f res)) ∧
    (ch.flag (F.KEN_STAT_FULL_LIVE k.val) = true → x.waitRead ≠ none → r = w →
      let freed := ch.kDo k.val fun y =>
        let z := (y.setKennel k.val { x with mark := none }).setFlag (F.KEN_STAT_FORCE_SEEN k.val) true
        z.kRelease k.val (z.kR k.val)
      let oversize (y : Chip) : Chip := ((y.setFlag (F.DEC_ERR_OVERSIZE k.val) true).resync k.val true).auEnd k.val
      (freed.session k.val = none → exec (.kennelForcedRelease c k) s = next freed) ∧
      (freed.session k.val ≠ none → freed.onEngine k.val = none → exec (.kennelForcedRelease c k) s = next (oversize freed)) ∧
      (∀ e a, freed.session k.val ≠ none → freed.onEngine k.val = some e → freed.engine e = some a →
        (a.scanned = true → exec (.kennelForcedRelease c k) s = next freed) ∧
        (a.scanned = false → exec (.kennelForcedRelease c k) s =
          next (oversize ((freed.setKennel k.val { freed.kennel k.val with waitRead := none }).setEngine e none)))))

/-- R171 to R176, R181 and R183: what each packet of a sensor port does. -/
def Obligations.SensorPorts : Prop :=
  ∀ (s : State) (c : ChipId) (p : Fin 2) (vc : Fin 4), Live s c →
    let ch := s.chip c
    let next (x : Chip) : Res := .next (s.setChip c x)
    let lanes := ch.rd (F.CSI_CTL_LANES p.val)
    let ignored := next (ch.count (F.CSI_IGN_COUNT p.val) (F.CSI_STAT_OVF p.val) 2)
    (ch.locked = false →
      (lanes = 1 ∨ lanes = 2 ∨ lanes = 4 → exec (.csiEnable c p) s = next (ch.setFlag (F.CSI_CTL_ENABLE p.val) true)) ∧
      (lanes ≠ 1 → lanes ≠ 2 → lanes ≠ 4 → exec (.csiEnable c p) s =
        next ((ch.setFlag (F.CSI_CTL_ENABLE p.val) false).setFlag (F.CSI_STAT_CFG_SEEN p.val) true))) ∧
    (ch.csiOn p.val = true → ch.csiStream p.val vc.val = none →
      exec (.csiFrameStart c p vc) s = ignored ∧ exec (.csiFrameEnd c p vc) s = ignored ∧
      (∀ dt ok xs, exec (.csiPictureLine c p vc dt ok xs) s = ignored) ∧ (∀ dt, exec (.csiOtherPacket c p vc dt) s = ignored)) ∧
    (ch.csiOn p.val = true → (ch.csiStream p.val vc.val).isSome = true →
      let z := ch.csiTruncate p.val vc.val
      ∀ sn x, z.csiStream p.val vc.val = some (sn, x) →
      let st := z.sofStamp p.val vc.val sn x
      let y := z.addLive st
      (ch.csiFrame p.val vc.val = none → z = ch) ∧
      (∀ b, ((List.range 4).find? fun b => !(y.rawHeld sn).contains b) = some b → exec (.csiFrameStart c p vc) s =
        next (y.setCsi p.val vc.val (some ⟨sn, st, 0, [], [], false, b, false⟩))) ∧
      (((List.range 4).find? fun b => !(y.rawHeld sn).contains b) = none → exec (.csiFrameStart c p vc) s =
        next ((y.dropFrame st 3 1 (rfeDomain p.val)).setCsi p.val vc.val (some ⟨sn, st, 0, [], [], false, 0, true⟩)))) ∧
    (ch.csiOn p.val = true → (ch.csiStream p.val vc.val).isSome = true → ch.csiFrame p.val vc.val = none →
      ∀ dt ok xs, exec (.csiPictureLine c p vc dt ok xs) s = ignored) ∧
    (ch.csiOn p.val = true → (ch.csiStream p.val vc.val).isSome = true → ∀ dt : BitVec 6,
      let silent := dt.toNat = 2 ∨ dt.toNat = 3 ∨ (8 ≤ dt.toNat ∧ dt.toNat ≤ 15) ∨ dt.toNat = 0x12
      (silent → exec (.csiOtherPacket c p vc dt) s = .next s) ∧ (¬ silent → exec (.csiOtherPacket c p vc dt) s = ignored)) ∧
    (ch.csiOn p.val = true → ∀ sn x f, ch.csiStream p.val vc.val = some (sn, x) → ch.csiFrame p.val vc.val = some f →
      let format := ch.rd (F.RFE_CFG_DT p.val vc.val)
      let y := ch.setCsi p.val vc.val none
      (∀ (dt : BitVec 6) ok xs, dt.toNat ≠ format → exec (.csiPictureLine c p vc dt ok xs) s = ignored) ∧
      (∀ (dt : BitVec 6) ok xs, dt.toNat = format → f.gone = false → exec (.csiPictureLine c p vc dt ok xs) s =
        next (ch.csiLine p.val vc.val x f (some (xs.map fun v => v % 2 ^ (if dtBits dt.toNat = 0 then 8 else dtBits dt.toNat))) ok)) ∧
      (∀ (dt : BitVec 6) ok xs, dt.toNat = format → f.gone = true → exec (.csiPictureLine c p vc dt ok xs) s = .next s) ∧
      (f.gone = true → exec (.csiFrameEnd c p vc) s = next y) ∧
      (f.gone = false → f.lines = [] ∨ f.width = 0 → exec (.csiFrameEnd c p vc) s = next (y.frameGone f.stream f.stamp.frame)) ∧
      (f.gone = false → f.lines ≠ [] → f.width ≠ 0 → dtBits format ≠ 0 ∧ f.lines.length % 2 = 1 → exec (.csiFrameEnd c p vc) s =
        next (((y.setFlag (F.CSI_STAT_DIM_SEEN p.val) true).csiReport p.val vc.val).frameGone f.stream f.stamp.frame)) ∧
      (f.gone = false → f.lines ≠ [] → f.width ≠ 0 → dtBits format = 0 ∨ f.lines.length % 2 = 0 → ∀ w, y.stream f.stream = some w →
        let st : Stamp := { f.stamp with fflags := f.stamp.fflags ||| (if f.concealed then 2 ^ ffConcealed else 0) }
        let z := y.setStream f.stream { w with live := w.live.map fun (l : Stamp) => if l.frame = st.frame then st else l }
        (st.stale ch.now = true → exec (.csiFrameEnd c p vc) s = next (z.dropFrame st 3 0 (rfeDomain p.val))) ∧
        (st.stale ch.now = false → exec (.csiFrameEnd c p vc) s =
          next ((z.rfeWrite p.val vc.val x { f with stamp := st }).1.deliver (z.rfeWrite p.val vc.val x { f with stamp := st }).2))) ∧
      (f.gone = false → exec (.csiHeaderEccError c p (some vc)) s =
        next ((ch.count (F.CSI_CRC_COUNT p.val) (F.CSI_STAT_OVF p.val) 0).csiLine p.val vc.val x f none false)) ∧
      (ch.rd (F.CSI_CTL_FRAME_TO p.val) ≠ 0 → f.gone = false → exec (.csiFrameTimeout c p vc) s =
        next (((ch.csiDiscard p.val vc.val f false).csiTrunc p.val).csiReport p.val vc.val))) ∧
    (ch.csiOn p.val = true → exec (.csiHeaderEccError c p none) s =
      next (ch.count (F.CSI_CRC_COUNT p.val) (F.CSI_STAT_OVF p.val) 0))

/-- R185 to R187, R198 to R206 and R213. -/
def Obligations.DecodeEngines : Prop :=
  ∀ (s : State) (c : ChipId) (e : Fin 6), Live s c →
    let ch := s.chip c
    let next (x : Chip) : Res := .next (s.setChip c x)
    (ch.engine e.val = none → ∀ aus : List AuHead,
      let y := aus.foldl (fun (c : Chip) h =>
        if (c.session h.sess.val).any fun x => x.engine == e.val then c.trustSkip h.sess.val else c) ch
      let first := argMin (fun h => y.auDeadline h) (aus.filter fun h => y.auFits e.val h)
      (first = none → exec (.decodeTakeAu c e aus) s = next y) ∧
      (∀ h x b j, first = some h → y.session h.sess.val = some x → y.auBuf x h = some (b, j) →
        exec (.decodeTakeAu c e aus) s = next (y.auTake e.val x h b j))) ∧
    (ch.engine e.val = none → ∀ h x, ch.session h.sess.val = some x → x.engine ≠ e.val →
      exec (.decodeTakeAu c e [h]) s = .next s) ∧
    (ch.engine e.val = none → exec (.decodeTakeAu c e []) s = .next s) ∧
    (∀ a x, ch.engine e.val = some a → ch.session a.sess = some x →
      (a.scanned = false → ∀ rap sets y, ch.auCheck e.val a x rap sets = .inl y →
        exec (.decodePrescanComplete c e rap sets) s = next y) ∧
      (a.scanned = false → ∀ rap sets y, ch.auCheck e.val a x rap sets = .inr y → exec (.decodePrescanComplete c e rap sets) s =
        next ((y.kRewind a.sess).setEngine e.val (some { a with scanned := true, rap := rap }))) ∧
      (a.scanned = true → ∀ r : AuResult, ch.auResultOk a.sess r x = true →
        let small := a.len ≤ ch.bankBytes
        let rap := (if small then a.rap else r.rap) || x.codec == 4
        (¬ small → ∀ y, ch.auCheck e.val a x rap r.sets = .inl y → exec (.decodeAuComplete c e r) s = next y) ∧
        (small ∨ ch.auCheck e.val a x rap r.sets = .inr ch →
          ((r.features.any fun f => !featureOk f) = true → exec (.decodeAuComplete c e r) s =
            next ((ch.setFlag (F.DEC_ERR_UNSUPPORTED a.sess) true).auStop e.val a)) ∧
          ((r.features.any fun f => !featureOk f) = false →
            (r.rasl = true → exec (.decodeAuComplete c e r) s =
              next ((((ch.auRelease e.val a).outFirst a.sess r.out).eosFlush a).auEnd a.sess)) ∧
            (r.rasl = false → ch.rd F.DEC_CFG_CONCEAL_MAX * auBlocks r < 100 * r.concealed.length →
              exec (.decodeAuComplete c e r) s = next ((ch.setFlag (F.DEC_ERR_CONCEAL_MAX a.sess) true).auStop e.val a)) ∧
            (r.rasl = false → 100 * r.concealed.length ≤ ch.rd F.DEC_CFG_CONCEAL_MAX * auBlocks r →
              exec (.decodeAuComplete c e r) s = next (((ch.auPicture a x r rap).auRelease e.val a).auEnd a.sess)))))) ∧
    (∀ (k : Fin 64) x y, ch.session k.val = some x → ch.stream x.stream = some y → y.live = [] → x.awaiting = [] →
      ch.sessState k.val = sessDraining → ch.onEngine k.val = none →
      (ch.kennel k.val).fill = none → exec (.sessionDrained c k) s = next (((ch.sessFree k.val).closeNow x.stream).gbkFreed))

/-- R216 to R227: the job queues of Mosaic. -/
def Obligations.MosaicJobs : Prop :=
  ∀ (s : State) (c : ChipId), Live s c →
    let ch := s.chip c
    let m := ch.mos
    let next (x : Chip) : Res := .next (s.setChip c x)
    (∀ (p : PackId) (n : PeId) (addr : Qword) (f : Firing), (ch.core p.val n.val).firing = some f →
      let k := ch.core p.val n.val
      (ch.mustWait (16 * p.val + n.val) k = false →
        exec (.mosaicSubmit c p n addr) s = next (ch.mosSubmit (16 * p.val + n.val) f.slot addr.toNat)) ∧
      (ch.mustWait (16 * p.val + n.val) k = true →
        exec (.mosaicSubmit c p n addr) s = next (ch.setCore p.val n.val { k with deferred := k.deferred ++ [.device 0 addr k.poison] }))) ∧
    (m.run = none → m.pickRecipe = true → ∀ j rest, m.recipes = j :: rest →
      exec (.cropJob c) s = next ((ch.setMos { m with recipes := rest, lastRecipe := true }).mosRun j)) ∧
    (m.run = none → m.pickRecipe = false → ∀ j rest, m.codelet = j :: rest → exec (.cropJob c) s =
      next ((ch.setMos { m with codelet := rest, lastRecipe := false }).mosRun j)) ∧
    (∀ r, m.run = some r → exec (.cropJob c) s = .next s ∧
      (let idle := ch.setMos { m with run := none }
      let checked := r.frames.foldl (fun (y : Chip) k => match y.frameOf k.1 k.2 with
        | some st => if st.stale y.now then y.dropPic st 5 mosDomain else y
        | none => y) idle
      let returned (y : Chip) : Chip := r.release.foldl (fun (y : Chip) k => y.returnPic k.1 k.2) y
      (r.aborted = false → exec (.mosaicJobComplete c) s = next (returned ((checked.count64 F.MOS_JOBS_COUNT F.MOS_ERR_JOBS_WRAP 0
        F.MOS_JOBS_WRAP_COUNT F.MOS_ERR_WRAP_OVF 0 1).blockToken r.token))) ∧
      (r.aborted = true → exec (.mosaicJobComplete c) s = next (returned idle)))) ∧
    (∀ (stream : Fin 256) (frame : BitVec 32) h, (m.held.find? fun h => h.is stream.val frame.toNat) = some h →
      (h.stamp.stale ch.now = true → exec (.pictureHoldExpiry c stream frame) s = next (ch.returnPic stream.val frame.toNat)) ∧
      (h.stamp.stale ch.now = false → exec (.pictureHoldExpiry c stream frame) s = .next s))

/-- R230 to R268: the audio units and the Porch. -/
def Obligations.AudioAndPorch : Prop :=
  ∀ (s : State) (c : ChipId), Live s c →
    let ch := s.chip c
    let a := ch.aud
    let next (x : Chip) : Res := .next (s.setChip c x)
    (∀ (lane : Fin 2) (n : Nat) (slots : List (BitVec 32)), ch.audioOn = false ∨ ch.flag (F.AUD_LANE_EN lane.val) = false →
      exec (.tdmFrame c lane n slots) s = .next s) ∧
    (∀ (lane : Fin 2) (n : Nat) (slots : List (BitVec 32)), ch.audioOn = true → ch.flag (F.AUD_LANE_EN lane.val) = true →
      instant n ≤ ch.now → ch.rd (F.AUD_LANE_LAT lane.val) ≤ n →
      let i := n - ch.rd (F.AUD_LANE_LAT lane.val)
      let w := laneWidth (ch.rd (F.AUD_LANE_WIDTH lane.val))
      let put (a : Audio) (k : Nat) : Audio :=
        let v := if k < ch.rd (F.AUD_LANE_SLOTS lane.val) then (slots[k]?).getD 0 else 0
        if (a.newest (16 * lane.val + k)).any fun m => decide (i ≤ m) then a
        else a.push (16 * lane.val + k) i (BitVec.ofNat 32 (v.toNat % 2 ^ w * 2 ^ (32 - w)))
      exec (.tdmFrame c lane n slots) s = next ((ch.setAud ((List.range 16).foldl put a)).audStarts)) ∧
    (∀ x : PdmIn, ch.audioOn = true → ch.flag F.AUD_PDM_EN = true → instant x.n + 500000 ≤ ch.now → ch.rd F.AUD_PDM_LAT ≤ x.n →
      let i := x.n - ch.rd F.AUD_PDM_LAT
      let b := (List.range 16).foldl (fun (a : Audio) k =>
        { a with pdm := Tab.put a.pdm k (((x.bits[k]?).getD 0 :: Tab.get [] a.pdm k).take 128) }) a
      let put (a : Audio) (k : Nat) : Audio :=
        if (a.newest (16 + k)).any fun m => decide (i ≤ m) then a
        else a.push (16 + k) i (BitVec.ofNat 32 (pdmOut (Tab.get [] a.pdm k)))
      (b.settle < 128 → exec (.pdmSample c x) s = next ((ch.setAud { b with settle := b.settle + 1 }).audStarts)) ∧
      (128 ≤ b.settle → exec (.pdmSample c x) s = next ((ch.setAud ((List.range 16).foldl put b)).audStarts))) ∧
    (∀ stream : Fin 256, ch.audStarts.audOf stream.val = none → exec (.audioBlockComplete c stream) s = next ch.audStarts) ∧
    (∀ (stream : Fin 256) x r rest, ch.audStarts.audOf stream.val = some x → x.cur = r :: rest →
      ch.audStarts.blockReady x = true → ch.audStarts.audioOn = true →
      let y := ch.audStarts
      let xs := y.blockSamples x.bset r.page r.first
      let past := (List.range xs.length).map fun j => (((xs[j]?).getD []).reverse ++ (x.past[j]?).getD []).take 4096
      let x' : AudStream := { x with cur := rest, past := past }
      let st : Stamp := { r.stamp with
        arrival := y.blockArrival x.bset r.first
        fflags := r.stamp.fflags ||| (bnat y.inHold * 2 ^ ffTimeHold) ||| (bnat y.aud.ecc * 2 ^ ffPoison) }
      let z := y.setAud { y.aud with ecc := false }
      (r.slot = none → exec (.audioBlockComplete c stream) s = next (y.modAud stream.val fun _ => x')) ∧
      (∀ i v, r.slot = some i → z.stream stream.val = some v →
        let u := z.setStream stream.val { v with live := v.live.map fun (l : Stamp) => if l.frame = st.frame then st else l }
        let addr := ((x.slots[i]?).map (·.addr)).getD x.base
        let rec' := u.blockRec x r st xs
        let kept (sent : Bool) : Chip := (rec'.2.store addr rec'.1 false).modAud stream.val fun _ =>
          { x' with slots := updAt x'.slots i fun b => { b with held := some st, tokenSent := sent } }
        (st.stale y.now = true → exec (.audioBlockComplete c stream) s =
          next ((u.modAud stream.val fun _ => x'.free i).dropFrame st 8 0 audDomain)) ∧
        (st.stale y.now = false → ((rec'.2.store addr rec'.1 false).slot v.graph).st ≠ .armed →
          exec (.audioBlockComplete c stream) s = next (kept false)) ∧
        (st.stale y.now = false → ((rec'.2.store addr rec'.1 false).slot v.graph).st = .armed →
          exec (.audioBlockComplete c stream) s = next ((kept true).blockToken (mkToken ((kept true).descOf addr)
            (x.bset.target % 2 ^ 14) (x.bset.target / 2 ^ 14) x.bset.context (st.frame % 2 ^ 20)
            (2 * bnat (bit st.fflags ffPoison))))))) ∧
    (∀ (stream : Fin 256) (slot : Fin 8) x b st, ch.audOf stream.val = some x → x.slots[slot.val]? = some b → b.held = some st →
      (x.cur.any fun r => r.slot == some slot.val) = false → st.stale ch.now = true →
      let freed := ch.modAud stream.val fun a => a.free slot.val
      exec (.audioBlockStale c stream slot) s =
        next (if b.tokenSent then freed.pictureDone stream.val st.frame else freed.dropFrame st 9 0 audDomain)) ∧
    (∀ addr : Qword, exec (.audioRelease c addr) s = next (ch.audioRelease addr.toNat)) ∧
    (∀ (p : PackId) (n : PeId) (addr : Qword) (f : Firing), (ch.core p.val n.val).firing = some f →
      let k := ch.core p.val n.val
      (ch.mustWait (16 * p.val + n.val) k = false →
        exec (.featureSubmit c p n addr) s = next (ch.featSubmit (16 * p.val + n.val) f.slot addr.toNat)) ∧
      (ch.mustWait (16 * p.val + n.val) k = true →
        exec (.featureSubmit c p n addr) s = next (ch.setCore p.val n.val { k with deferred := k.deferred ++ [.device 2 addr k.poison] }))) ∧
    (a.frun = none → ch.audioOn = true → (a.streams.any fun x => ch.blockReady x) = false → ∀ j rest, a.fq = j :: rest →
      exec (.featureJob c) s =
        next ((ch.setAud { a with fq := rest }).featRun j)) ∧
    (∀ j t, a.frun = some (j, t) → exec (.featureJobComplete c) s = next ((ch.setAud { a with frun := none }).blockToken t)) ∧
    (ch.pos ≠ 0 ∨ ch.rd F.PRC_STAT_STATE = prcOff →
      exec (.porchFrame c) s = .next s ∧ ∀ m, exec (.porchSample c m) s = .next s) ∧
    (ch.pos = 0 → ch.rd F.PRC_STAT_STATE ≠ prcOff →
      let q := ch.media.porch
      (∀ x : PorchIn, 62500 * x.m + 2000000 ≤ ch.now → ((q.ring.head?).any fun e => decide (x.m ≤ e.1)) = false →
        let mics := (List.range 4).foldl (fun (t : Tab (List (BitVec 150))) k =>
          Tab.put t k (((x.bits[k]?).getD 0 :: Tab.get [] t k).take 128)) q.mics
        exec (.porchSample c x) s = next (ch.setPorch { q with
          mics := mics, ring := ((x.m, porchMono (ch.rd F.PRC_CTL_MICMASK) mics) :: q.ring).take 49152 })) ∧
      (let st := ch.rd F.PRC_STAT_STATE
      let score := (Config.porchScore (porchMel q.ring)).toNat
      let scored := ch.wr F.PRC_STAT_SCORE score
      let dozing := chipIds.any fun d => !(s.chip d).inReset && ((s.chip d).pwr == pwrEntering || (s.chip d).pwr == pwrDoze)
      let low := score < ch.rd F.PRC_TH_PRE_TH
      let high := ch.rd F.PRC_TH_WAKE_TH ≤ score
      let n := ch.rd F.PRC_WAKE_WAKE_N
      let wakes := n ≠ 0 ∧ n ≤ q.run + 1
      (st = prcIdle ∨ (st ≠ prcRefract ∧ low) → exec (.porchFrame c) s = next ((scored.setPorch { q with run := 0 }).porchRest score)) ∧
      (st = prcRefract → q.refract ≤ 1 → exec (.porchFrame c) s =
        next ((scored.setPorch { q with refract := q.refract - 1, run := 0 }).porchRest score)) ∧
      (st = prcRefract → 1 < q.refract → exec (.porchFrame c) s =
        next (scored.setPorch { q with refract := q.refract - 1, run := 0 })) ∧
      (st ≠ prcIdle → st ≠ prcRefract → ¬ low → ¬ high → exec (.porchFrame c) s = next (scored.setPorch { q with run := 0 })) ∧
      (st ≠ prcIdle → st ≠ prcRefract → ¬ low → high → wakes → exec (.porchFrame c) s = next (scored.wakeDecide score dozing)) ∧
      (st ≠ prcIdle → st ≠ prcRefract → ¬ low → high → ¬ wakes → exec (.porchFrame c) s =
        next (scored.setPorch { q with run := min 15 (q.run + 1) })))) ∧
    (∀ w rest, ch.media.porch.handover = w :: rest → ch.pwr = pwrRun →
      let st := (ch.slot (ch.rd F.PRC_HAND_SLOT)).st
      let taken := (ch.draw).2.setPorch { ch.media.porch with handover := rest }
      let missed := (taken.setFlag F.PRC_STAT_HAND_MISS_SEEN true).sysSubmit (ch.rd F.PRC_FLOW_FLOW) (wakeRec w false 0 0 false)
      (ch.flag F.PRC_HAND_HAND_EN = false ∨ st = .empty → exec (.porchHandover c) s = next missed) ∧
      (ch.flag F.PRC_HAND_HAND_EN = true → st = .armed →
        (ch.handPlace (ch.draw).1 = none → exec (.porchHandover c) s = next missed) ∧
        (∀ at', ch.handPlace (ch.draw).1 = some at' → exec (.porchHandover c) s = next (taken.handCopy w at'))) ∧
      (ch.flag F.PRC_HAND_HAND_EN = true → st ≠ .empty → st ≠ .armed → exec (.porchHandover c) s = .next s))

/-- R277 to R291, R305 and R309: the commands of an Inn. -/
def Obligations.InnCommands : Prop :=
  ∀ (s : State) (c : ChipId) (p : PackId), Live s c →
    let ch := s.chip c
    let i := ch.inn p.val
    let next (x : Chip) : Res := .next (s.setChip c x)
    let put (j : Inn) : Chip := ch.setInn p.val j
    let synced (x : Chip) : Res := next ((x.innSync p.val i.main).gapSync)
    (i.arbitrate = none → exec (.innTokenGrant c p) s = .next s) ∧
    (∀ x j, i.arbitrate = some (x, j) → exec (.innTokenGrant c p) s = synced ((put j).grant p.val x)) ∧
    (∀ x j, i.arbitrate = some (x, j) → x.back = 0 →
      (∀ t, checkToken x.tok = .clean t →
        (ch.ctxSlot (Token.context t) = none → exec (.innTokenGrant c p) s =
          synced ((put j).count F.DFX_ORPHAN_COUNT F.DFX_STAT_ORPHAN_OVF 0)) ∧
        (∀ k, ch.ctxSlot (Token.context t) = some k → ch.nodeOf k (Token.node t) = none → exec (.innTokenGrant c p) s =
          synced ((put j).badToken p.val k t)) ∧
        (∀ k d, ch.ctxSlot (Token.context t) = some k → ch.nodeOf k (Token.node t) = some d →
          (ch.homeHere k (Token.node t) p.val = false → exec (.innTokenGrant c p) s =
            synced ((put j).badToken p.val k t)) ∧
          (ch.homeHere k (Token.node t) p.val = true → Token.kill t = false → Token.port t < d.nports →
            Token.sticky t = (d.pkind (Token.port t) == pkSticky) → j.verdictFor t = none → Token.provisional t = false →
            exec (.innTokenGrant c p) s = synced ((put j).take p.val k d t x.mc 0)))) ∧
      (checkToken x.tok = .uncorrectable → exec (.innTokenGrant c p) s =
        synced (((put j).checked p.val x.tok).2))) ∧
    (∀ x rest, pickFirst (fun x => Token.kill x.tok) i.inputs = some (x, rest) → exec (.verdict c p) s =
      synced ((put { i with inputs := rest }).grant p.val x)) ∧
    ((∀ x ∈ i.inputs, Token.kill x.tok = false) → exec (.verdict c p) s = .next s) ∧
    ((∀ r ∈ i.rooms, r.reserve = false) → exec (.reservePromote c p) s = .next s) ∧
    (let ok (r : Room) : Bool := r.reserve && (ch.ctxSlot (Token.context r.tok)).any fun k => ch.canLodge p.val k r.tok
     ∀ n, findIdx ok i.rooms = some n → exec (.reservePromote c p) s =
       synced (put { i with rooms := updAt i.rooms n fun r => { r with reserve := false } })) ∧
    exec (.dispatchFiring c p) s = synced ((ch.refillAll p.val).dispatch p.val) ∧
    exec (.innDupPop c p) s = synced (put { i with dups := i.dups.tail }) ∧
    (i.notices = [] → exec (.loopCloseNotice c p) s = .next s) ∧
    (∀ slot loop ctx rest, i.notices = (slot, loop, ctx) :: rest → exec (.loopCloseNotice c p) s =
      synced ((put { i with notices := rest }).closeLoop p.val slot loop ctx))

/-- R302 to R306, R311 to R316, R326 and R336. -/
def Obligations.AnnexAndDetector : Prop :=
  ∀ (s : State) (c : ChipId) (p : PackId) (k : Fin 16), Live s c →
    let ch := s.chip c
    let i := ch.inn p.val
    let next (x : Chip) : Res := .next (s.setChip c x)
    let sl := ch.slot k.val
    exec (.annexSpillResume c p) s = next ((((i.spillWait.foldl (fun (x : Chip) e => x.grantTok p.val ⟨2, srcNet, e.1, e.2⟩ e.1)
      (ch.setInn p.val { i with spillWait := [] })).anxSync p.val).innSync p.val i.main).gapSync) ∧
    (let fits (d : NodeDesc) (g : Nat × Nat × Nat) : Bool := !(i.recallable d g).isEmpty
     (ch.nextGroup p.val none fits = none → exec (.annexTargetedRecall c p) s = .next s) ∧
     (∀ d g, ch.nextGroup p.val none fits = some (d, g) → exec (.annexTargetedRecall c p) s =
       next (((ch.recallToks p.val 1 (i.recallable d g)).innSync p.val i.main).gapSync))) ∧
    (ch.rd F.ANX_RECALL_LEVEL ≤ ch.rd (F.INN_LEVEL_MAIN p.val) → exec (.annexBackgroundRecall c p) s = .next s) ∧
    (∀ e, ch.rd (F.INN_LEVEL_MAIN p.val) < ch.rd F.ANX_RECALL_LEVEL → ch.backTok p.val = some e →
      exec (.annexBackgroundRecall c p) s = next (((ch.recallToks p.val 2 [e]).innSync p.val i.main).gapSync)) ∧
    (ch.backTok p.val = none → exec (.annexBackgroundRecall c p) s = .next s) ∧
    (ch.blockedWork k.val = true → sl.lastFiring + 50000 ≤ ch.now →
      let n := (ch.rd F.DFX_DL_COUNT_COUNT + 1) % 2 ^ 32
      let y := ((((ch.count F.DFX_DL_COUNT_COUNT F.DFX_DL_STAT_OVF 0).wr F.DFX_DL_TIME_TIME ch.now).setFlag F.DFX_DL_STAT_DL_SEEN
        true).setFlag F.DFX_DL_STAT_DL_LIVE true).wr F.DFX_DL_STAT_SLOT k.val
      let z := (List.range 12).foldl (fun x q => if x.blockedIn q k.val then
        x.innDo q fun x => (x.recoverPack q k.val [] (x.inn q).spilled).refillAll q else x)
        (y.raise 10 (source 232 (slotQual k.val)) (if n = 0 then max32 else n))
      exec (.deadlockDetect c k) s = next (z.setSlot k.val { z.slot k.val with lastFiring := z.now })) ∧
    (ch.now < sl.lastFiring + 50000 → exec (.deadlockDetect c k) s = .next s) ∧
    (ch.armed k.val = false → exec (.deadlockDetect c k) s = .next s) ∧
    (ch.rd F.DFX_DL_CTL_LINGER_MS = 0 → exec (.lingerScan c) s = .next s) ∧
    (let ms := ch.rd F.DFX_DL_CTL_LINGER_MS
     let report (q : Nat) (x : Chip) (r : Room) : Chip :=
       (((x.wr F.DFX_LINGER_LAST_TOKEN r.tok.toNat).count F.DFX_LINGER_COUNT F.DFX_DL_STAT_OVF 1).setFlag
         F.DFX_DL_STAT_LINGER_SEEN true).raise 11
           (source (18 * q + 17) ((x.ctxSlot (Token.context r.tok)).elim 0 slotQual))
           (r.tok.toNat / 2 ^ 64 + r.tok.toNat % 2 ^ 64 * 2 ^ 64)
     ms ≠ 0 → exec (.lingerScan c) s = next ((List.range 12).foldl (fun (x : Chip) q =>
       let old (r : Room) : Bool := !Token.sticky r.tok && decide (r.since + ms * 1000000 < x.now) &&
         (x.ctxSlot (Token.context r.tok)).all fun k => x.armed k
       let gone := (x.inn q).rooms.filter old
       if gone = [] then x
       else x.innDo q fun y => gone.foldl (report q) (y.setInn q { x.inn q with rooms := (x.inn q).rooms.filter fun r => !old r })) ch)) ∧
    (let due (v : Verdict) : Bool := decide (v.since + ch.rd F.DFX_SPEC_CTL_HOLD * 1000 ≤ ch.now)
     exec (.verdictHoldExpiry c p) s = next ((ch.setInn p.val { i with verdicts := i.verdicts.filter fun v => !due v }).countN
       F.DFX_SPEC_VLOST_COUNT F.DFX_SPEC_STAT_VLOST_OVF 0 (i.verdicts.filter fun v => due v && !v.acted).length)) ∧
    (ch.pwr ≠ pwrEntering → exec (.speculationDozeKill c) s = .next s) ∧
    (ch.pwr = pwrEntering → exec (.speculationDozeKill c) s = next ((List.range 12).foldl (fun x q => x.innDo q fun x =>
      (x.provTags q).foldl (fun (x : Chip) g => (x.killTokens q g.1 g.2.1 g.2.2).killFirings q g.1 g.2.1 g.2.2) x) ch)) ∧
    ((∀ n < 16, ch.armed n = false) → exec (.activityExchange c) s = .next s) ∧
    (let shared (d : Nat) : List Nat := (List.range 16).filter fun n => ch.armed n && (ch.graphOf n).any fun g => bit g.chips d
     let mask (ns : List Nat) (f : Bool × Bool → Bool) : Nat := ns.foldl (fun a n => if f (ch.ownBits n) then orBit a n else a) 0
     let sent := ((List.range 4).filter fun d => d != ch.pos.val && !(shared d).isEmpty).foldl (fun (x : Chip) d =>
       x.sendFlit d 3 3 (slotMsg 3 0 0 0 0 (mask (shared d) (·.1)) (mask (shared d) (·.2)))) ch
     exec (.activityExchange c) s = next ((List.range 16).foldl (fun (x : Chip) n => x.nextInterval n) sent)) ∧
    (let ms := ch.rd F.DFX_DL_CTL_ABORT_MS
     (ms ≠ 0 → ms * 100 ≤ sl.quiet → ch.armed k.val = true → exec (.deadlockAbort c k) s =
       next (((ch.setFlag F.DFX_DL_STAT_ABORT_SEEN true).raise 12 (source 232 (slotQual k.val)) 0).abortSlot k.val true)) ∧
     (ms = 0 → exec (.deadlockAbort c k) s = .next s) ∧ (sl.quiet < ms * 100 → exec (.deadlockAbort c k) s = .next s) ∧
     (ch.armed k.val = false → exec (.deadlockAbort c k) s = .next s))

/-- R275, R298 and R315: graph slots. -/
def Obligations.GraphSlots : Prop :=
  ∀ (s : State) (c : ChipId) (k : Fin 16), Awake s c →
    let ch := s.chip c
    let sl := ch.slot k.val
    let next (x : Chip) : Res := .next (s.setChip c x)
    (∀ y n i (data : List Byte) (ep : Bool), ch.takeRead (.image k.val) = some y → sl.load = some (n, i) →
      let fin (x : Chip) (st detail : Nat) : Chip :=
        x.complete n i fun d => { d with status := st, nbytes := data.length, detail := detail, poison := ep }
      let z := y.readAer ⟨.none, ep, data⟩
      (∀ g, z.checkImage data = .inr g → exec (.graphImageReadComplete c k ⟨.none, ep, data⟩) s =
        next ((fin (z.install k.val g data) stOk 0).tryArm k.val)) ∧
      (∀ node, z.checkImage data = .inl node →
        let named := headerOk data && (Graph.ofImage data).flows.any fun d => z.sysFlow d.flow
        let u := if named then z.setFlag F.GBK_MSTAT_SYSFLOW_SEEN true else z
        exec (.graphImageReadComplete c k ⟨.none, ep, data⟩) s =
          next (fin ((u.slotEmpty k.val).raise 31 (source 280 0) node) stRefusedCfg node)) ∧
      (∀ fail, fail ≠ .none → exec (.graphImageReadComplete c k ⟨fail, ep, data⟩) s =
        next (fin ((y.readAer ⟨fail, ep, data⟩).slotEmpty k.val) stHostReadErr 0))) ∧
    (sl.st ≠ .aborting → exec (.graphAbortComplete c k) s = .next s) ∧
    (sl.st = .aborting →
      let released := (List.range 12).foldl (fun (x : Chip) p =>
        if x.flag (F.TEN_STAT_HELD p) && x.rd (F.TEN_STAT_SLOT p) == k.val then
          (x.setFlag (F.TEN_STAT_HELD p) false).wr (F.TEN_STAT_SLOT p) 0
        else x) ch
      ((∀ p < 12, ch.flag (F.TEN_STAT_HELD p) = false) → released = ch) ∧
      (sl.unload = none → exec (.graphAbortComplete c k) s = next (released.slotEmpty k.val)) ∧
      (∀ n i, sl.unload = some (n, i) →
        exec (.graphAbortComplete c k) s = next ((released.slotEmpty k.val).completeSt n i stOk))) ∧
    (∀ (l : Fin 2) (h : FlitHdr) (pl msg : List Byte) (y : Chip), ch.arrive l.val h pl 3 3 = (some msg, y) →
      let code := fieldAt msg 0 1
      let n := fieldAt msg 1 1
      let from' := if h.hop then (y.pos.val + 2) % 4 else y.neighbour l.val
      let z := y.slot n
      let said := z.announced.filter (fun a => a.1 != from') ++ [(from', fieldAt msg 2 2, fieldAt msg 4 2, fieldAt msg 8 4)]
      (code = 1 → n < 16 → exec (.slotAnnounce c l h pl) s = next ((y.setSlot n { z with announced := said }).tryArm n)) ∧
      (code = 2 → n < 16 → exec (.slotAbort c l h pl) s = next (y.abortSlot n false)) ∧
      (code = 3 → exec (.slotActivity c l h pl) s = next ((List.range 16).foldl (fun (u : Chip) n =>
        let x := u.slot n
        if x.st = .armed ∧ (x.graph.any fun g => bit g.chips from') = true then
          u.setSlot n { x with activity := x.activity.filter (fun a => a.1 != from') ++
            [(from', bit (fieldAt msg 12 2) n, bit (fieldAt msg 14 2) n)] }
        else u) y)) ∧
      (code ≠ 1 → exec (.slotAnnounce c l h pl) s = next y) ∧ (code ≠ 2 → exec (.slotAbort c l h pl) s = next y) ∧
      (code ≠ 3 → exec (.slotActivity c l h pl) s = next y)) ∧
    (∀ (l : Fin 2) (h : FlitHdr) (pl : List Byte) (y : Chip), ch.arrive l.val h pl 3 3 = (none, y) →
      exec (.slotAnnounce c l h pl) s = next y ∧ exec (.slotAbort c l h pl) s = next y ∧
      exec (.slotActivity c l h pl) s = next y)

/-- R318 to R323, R327, R333 and R492 to R494. -/
def Obligations.GuestbookCommands : Prop :=
  ∀ (s : State) (c : ChipId), Live s c →
    let ch := s.chip c
    let next (x : Chip) : Res := .next (s.setChip c x)
    (∀ (p : PackId) (n : PeId) (addr : Qword),
      let k := ch.core p.val n.val
      (∀ f, k.firing = some f → ch.mustWait (16 * p.val + n.val) k = false →
        (ch.inShared addr.toNat 128 = true → addr.toNat % 64 = 0 → exec (.guestbookSubmit c p n addr) s =
          next (ch.submitBytes addr.toNat (ch.bytes addr.toNat 128) (k.poison || ch.anyPoison addr.toNat 128)
            (some (16 * p.val + n.val)))) ∧
        (ch.inShared addr.toNat 128 = false ∨ addr.toNat % 64 ≠ 0 → exec (.guestbookSubmit c p n addr) s =
          next (ch.badSub addr.toNat))) ∧
      (∀ f, k.firing = some f → ch.mustWait (16 * p.val + n.val) k = true → exec (.guestbookSubmit c p n addr) s =
        next (ch.setCore p.val n.val { k with deferred := k.deferred ++ [.device 3 addr k.poison] })) ∧
      (k.firing = none → exec (.guestbookSubmit c p n addr) s = .next s)) ∧
    (∀ f : Fin 256,
      (ch.flowMode f.val ≠ modePass → (ch.flow f.val).headSet = true → ch.headDue f.val = true →
        exec (.guestbookDeadline c f) s = next (ch.fillHead f.val)) ∧
      (ch.flowMode f.val = modePass → exec (.guestbookDeadline c f) s = .next s) ∧
      ((ch.flow f.val).headSet = false → exec (.guestbookDeadline c f) s = .next s) ∧
      (ch.headDue f.val = false → exec (.guestbookDeadline c f) s = .next s)) ∧
    (let ms := ch.rd F.GBK_TCFG_HEALTH_MS
     let f := ch.rd F.GBK_SYSFLOW_HEALTH_FLOW
     let withGbk (x : Chip) (g : Guestbook) : Chip := { x with fab := { x.fab with gbk := g } }
     (ch.flag F.GBK_SYSFLOW_HEALTH_EN = true → ms ≠ 0 → ch.pwr = pwrRun → ch.now % (ms * 1000000) = 0 →
       (ch.healthBlocked f = false → exec (.healthSample c) s =
         next ((withGbk ch { ch.fab.gbk with healthStale := 0, healthSkips := 0, woke := false }).sysSubmit f ch.healthRec)) ∧
       (ch.healthBlocked f = true → exec (.healthSample c) s =
         next (withGbk (ch.count F.GBK_HEALTH_SKIP_COUNT F.GBK_MSTAT_HSKIP_OVF 0)
           { (ch.count F.GBK_HEALTH_SKIP_COUNT F.GBK_MSTAT_HSKIP_OVF 0).fab.gbk with
             healthSkips := min max32 (ch.fab.gbk.healthSkips + 1) }))) ∧
     (ms = 0 → exec (.healthSample c) s = .next s) ∧ (ch.pwr ≠ pwrRun → exec (.healthSample c) s = .next s) ∧
     (ch.now % (ms * 1000000) ≠ 0 → exec (.healthSample c) s = .next s))

/-- R386 to R389, R402, R406 and R412: the commands of a tensor engine. -/
def Obligations.TensorCommands : Prop :=
  ∀ (s : State) (c : ChipId) (p : TenSteps), Live s c →
    let ch := s.chip c
    let pk := p.pack.val
    let e := ch.ten pk
    let next (x : Chip) : Res := .next (s.setChip c x)
    let frozen := ch.flag (F.TEN_STAT_FROZEN_LIVE pk)
    let rows : List (Instr × (Nat → Bool)) := [(.conv c p, fun t => t == topConv), (.dwconv c p, fun t => t == topDwconv),
      (.pool c p, fun t => t == topPool), (.matmul c p, fun t => t != topConv && t != topDwconv && t != topPool)]
    (∀ (n : PeId) (addr : Qword) (f : Firing), (ch.core pk n.val).firing = some f →
      (ch.mustWait (16 * pk + n.val) (ch.core pk n.val) = false → exec (.tensorSubmit c p.pack n addr) s = next ((ch.setTen pk { e with
        stalled := e.stalled ++ [(16 * pk + n.val, ⟨addr.toNat, f.slot, ch.tensorNode f.slot f.node⟩)] }).tenSync pk)) ∧
      (ch.mustWait (16 * pk + n.val) (ch.core pk n.val) = true → exec (.tensorSubmit c p.pack n addr) s =
        next (ch.setCore pk n.val { ch.core pk n.val with
          deferred := (ch.core pk n.val).deferred ++ [.device 4 addr (ch.core pk n.val).poison] }))) ∧
    (∀ (n : PeId) (addr : Qword), (ch.core pk n.val).firing = none → exec (.tensorSubmit c p.pack n addr) s = .next s) ∧
    (∀ r ∈ rows,
      (e.queue = [] → e.run = none → exec r.1 s = .next s) ∧ (frozen = true → exec r.1 s = .next s) ∧
      (∀ x, e.run = some x → r.2 (fieldAt x.blk 0 1) = true → exec r.1 s = next (ch.tenTiles pk p.tiles)) ∧
      (∀ x, e.run = some x → r.2 (fieldAt x.blk 0 1) = false → exec r.1 s = .next s) ∧
      (∀ cmd rest, e.queue = cmd :: rest → e.run = none → frozen = false →
        let y := (ch.setTen pk { e with queue := rest }).tenSync pk
        (ch.tenBlkAt pk cmd.addr = none → r.2 0 = true → exec r.1 s = next (y.tenRefuse pk cmd.addr tenBadAddr none)) ∧
        (ch.tenBlkAt pk cmd.addr = none → r.2 0 = false → exec r.1 s = .next s) ∧
        (∀ at', ch.tenBlkAt pk cmd.addr = some at' →
          let blk := ch.bytes at' 128
          let t := TenBlk.ofBytes blk
          let ctx := fieldAt blk 114 2 % 1024
          (r.2 (fieldAt blk 0 1) = false → exec r.1 s = .next s) ∧
          (r.2 (fieldAt blk 0 1) = true → (ch.slot cmd.slot).graph = none → exec r.1 s = next y) ∧
          (∀ g, r.2 (fieldAt blk 0 1) = true → (ch.slot cmd.slot).graph = some g →
            (ctx < g.ctxBase ∨ g.ctxBase + g.ctxCount ≤ ctx → exec r.1 s =
              next ((y.wr (F.TEN_LAST_CMD_ADDR pk) cmd.addr).raise 33 (source (18 * pk + 16) (slotQual cmd.slot)) cmd.addr)) ∧
            (g.ctxBase ≤ ctx → ctx < g.ctxBase + g.ctxCount →
              (cmd.tensor = false → exec r.1 s = next (y.tenRefuse pk cmd.addr tenBadShape (some blk))) ∧
              (cmd.tensor = true → tenFormatOk blk t = false →
                exec r.1 s = next (y.tenRefuse pk cmd.addr tenBadFormat (some blk))) ∧
              (cmd.tensor = true → tenFormatOk blk t = true → tenShapeOk t = false →
                exec r.1 s = next (y.tenRefuse pk cmd.addr tenBadShape (some blk))) ∧
              (cmd.tensor = true → tenFormatOk blk t = true → tenShapeOk t = true → y.tenAddrs g pk t = none →
                exec r.1 s = next (y.tenRefuse pk cmd.addr tenBadAddr (some blk))) ∧
              (∀ a, cmd.tensor = true → tenFormatOk blk t = true → tenShapeOk t = true → y.tenAddrs g pk t = some a →
                exec r.1 s = next ((y.tenStart pk cmd.slot blk (ch.anyPoison at' 128) a).tenTiles pk p.tiles))))))) ∧
    (e.run = none → exec (.tensorCommandComplete c p.pack) s = .next s) ∧
    (∀ r, e.run = some r →
      let cnt (x : Chip) (f : Field) (w n : Nat) : Chip :=
        x.count64 f (F.TEN_ERR_WRAP pk) w (F.TEN_WRAP_COUNT pk) (F.TEN_ERR_WRAP_OVF pk) 0 n
      let y := cnt (cnt (((ch.setTen pk { e with run := none }).setFlag (F.TEN_STAT_BUSY pk) false).blockToken
        (tenToken r.blk (if r.corrupt.isEmpty then 0 else tenCorrupt) r.poison)) (F.TEN_CMDS_COUNT pk) 0 1)
        (F.TEN_MACS_COUNT pk) 1 (TenBlk.ofBytes r.blk).macs
      (r.drained = false ∨ frozen = true → exec (.tensorCommandComplete c p.pack) s = .next s) ∧
      (r.drained = true → frozen = false → y.flag (F.TEN_DBG_CTL_FREEZE pk) = true →
        exec (.tensorCommandComplete c p.pack) s = next (y.setFlag (F.TEN_STAT_FROZEN_LIVE pk) true)) ∧
      (r.drained = true → frozen = false → y.flag (F.TEN_DBG_CTL_FREEZE pk) = false →
        exec (.tensorCommandComplete c p.pack) s = next y)) ∧
    (ch.develop = false → ∀ on, exec (.tensorFreeze c p.pack on) s = .next s) ∧
    (ch.develop = true → exec (.tensorFreeze c p.pack false) s =
      next ((ch.setFlag (F.TEN_DBG_CTL_FREEZE pk) false).setFlag (F.TEN_STAT_FROZEN_LIVE pk) false)) ∧
    (ch.develop = true → (∀ r, e.run = some r → r.drained = false) → exec (.tensorFreeze c p.pack true) s =
      next ((ch.setFlag (F.TEN_DBG_CTL_FREEZE pk) true).setFlag (F.TEN_STAT_FROZEN_LIVE pk) true)) ∧
    (∀ r, ch.develop = true → e.run = some r → r.drained = true → exec (.tensorFreeze c p.pack true) s =
      next (ch.setFlag (F.TEN_DBG_CTL_FREEZE pk) true)) ∧
    (∀ v : Qword,
      let i := 32 * ch.rd (F.TEN_DBG_CTL_ROW pk) + ch.rd (F.TEN_DBG_CTL_COL pk)
      let x := if e.float then v.toNat % 2 ^ 32 else v.toNat % 2 ^ 48
      (frozen = false ∨ ch.develop = false → exec (.tensorDebugAccWrite c p.pack v) s = .next s) ∧
      (frozen = true → ch.develop = true → ch.flag (F.TEN_DBG_CTL_SET pk) = false → exec (.tensorDebugAccWrite c p.pack v) s =
        next (ch.setTen pk { e with active := Tab.set 0 e.active i x })) ∧
      (frozen = true → ch.develop = true → ch.flag (F.TEN_DBG_CTL_SET pk) = true → exec (.tensorDebugAccWrite c p.pack v) s =
        next (ch.setTen pk { e with shadow := Tab.set 0 e.shadow i x })))

/-- R415 to R419, R430 to R432 and R438 to R446: the queues and jobs of the blocks. -/
def Obligations.QueueJobs : Prop :=
  ∀ (s : State) (c : ChipId), Live s c →
    let ch := s.chip c
    let next (x : Chip) : Res := .next (s.setChip c x)
    let rows : List (QueueBlock × List Instr) := [(.sieve, [.sieveJob c]), (.hound, [.track c, .fuse c]),
      (.coachman, [.occ c, .aim c])]
    (∀ (b : QueueBlock) (i : Fin 64) (v : Qword), exec (.queueSlotStore c b i v) s =
      next (ch.store (crBase + 64 * ch.rd (queueRegs b).offset + 64 + 8 * i.val) (toLe 8 v.toNat) false)) ∧
    (∀ b : QueueBlock,
      (ch.qEnabled b = true → 0 < ch.rd (queueRegs b).skipUs → ch.load (ch.qSlot b (ch.qHead b)) 8 = 0 → ch.qOtherFull b = true →
        exec (.queueSkipTimeout c b) s = next ((ch.qAdvance b).qSkip b)) ∧
      (ch.qEnabled b = false ∨ ch.rd (queueRegs b).skipUs = 0 ∨ ch.load (ch.qSlot b (ch.qHead b)) 8 ≠ 0 ∨ ch.qOtherFull b = false →
        exec (.queueSkipTimeout c b) s = .next s)) ∧
    (∀ r ∈ rows, ∀ i ∈ r.2, (ch.qEnabled r.1 = false ∨ ch.qBusy r.1 = true ∨ ch.load (ch.qSlot r.1 (ch.qHead r.1)) 8 = 0) →
      exec i s = .next s) ∧
    (∀ j y, ch.takeJob .sieve = (some j, y) →
      let refuse (st : Nat) : Chip := y.qRefuse .sieve j 88 (listWord st 0 (fieldAt j.blk 96 4))
      (sivFieldsOk j.blk = false → exec (.sieveJob c) s = next (refuse 1)) ∧
      (sivFieldsOk j.blk = true → y.sivAddrOk j.blk = false → exec (.sieveJob c) s = next (refuse 2)) ∧
      (let levels := levelsOk (y.bytes (sivTable j.blk) 64) (fieldAt j.blk 8 4)
       (sivFieldsOk j.blk = true → y.sivAddrOk j.blk = true → fieldAt j.blk 1 1 ≠ 4 ∨ levels = true →
         exec (.sieveJob c) s = next (y.sivBody j)) ∧
       (sivFieldsOk j.blk = true → y.sivAddrOk j.blk = true → fieldAt j.blk 1 1 = 4 → levels = false →
         exec (.sieveJob c) s = next ((refuse 1).qPoison .sieve (y.anyPoison (sivTable j.blk) 64))))) ∧
    (∀ y, ch.takeJob .sieve = (none, y) → exec (.sieveJob c) s = next y) ∧
    (∀ r, ch.siv = some r → exec (.sieveJobComplete c) s =
      next (((({ ch with siv := none } : Chip).setFlag F.SIV_STAT_BUSY false).blockToken r.token).count64 F.SIV_JOBS_COUNT
        F.SIV_STAT_JOBS_WRAP 0 F.SIV_WRAP_COUNT F.SIV_STAT_WRAP_OVF 0 1)) ∧
    (ch.siv = none → exec (.sieveJobComplete c) s = .next s) ∧
    (∀ j y, ch.takeJob .hound = (some j, y) →
      let a := ch.load (ch.qSlot .hound (ch.qHead .hound)) 8
      let jop := fieldAt j.blk 0 1
      ch.inShared a 128 = true → ch.load a 1 = jop →
      (jop = 2 → exec (.track c) s = next (y.trackJob j) ∧ exec (.fuse c) s = .next s) ∧
      (jop = 3 → exec (.fuse c) s = next (y.fuseJob j) ∧ exec (.track c) s = .next s) ∧
      (jop ≠ 2 → jop ≠ 3 → exec (.track c) s = next (y.qRefuse .hound j 40 (listWord 1 0 (fieldAt j.blk 56 4))) ∧
        exec (.fuse c) s = next (y.qRefuse .hound j 40 (listWord 1 0 (fieldAt j.blk 56 4))))) ∧
    (∀ y, ch.takeJob .hound = (none, y) →
      let a := ch.load (ch.qSlot .hound (ch.qHead .hound)) 8
      let jop := if ch.inShared a 128 then ch.load a 1 else 0
      exec (.track c) s = (if jop = 3 then .next s else next y) ∧ exec (.fuse c) s = (if jop = 2 then .next s else next y)) ∧
    (∀ r, ch.hnd.run = some r → exec (.houndJobComplete c) s =
      next ((r.tokens.foldl (fun (x : Chip) t => x.blockToken t)
        (({ ch with hnd := { ch.hnd with run := none } } : Chip).setFlag F.HND_STAT_BUSY false)).count64 F.HND_JOBS_COUNT
          F.HND_STAT_JOBS_WRAP 0 F.HND_WRAP_COUNT F.HND_STAT_WRAP_OVF 0 1)) ∧
    (ch.hnd.run = none → exec (.houndJobComplete c) s = .next s) ∧
    (∀ j y, ch.takeJob .coachman = (some j, y) →
      let a := ch.load (ch.qSlot .coachman (ch.qHead .coachman)) 8
      let jop := fieldAt j.blk 0 1
      ch.inShared a 128 = true → ch.load a 1 = jop →
      (jop = 1 → exec (.occ c) s = next (y.occJob j) ∧ exec (.aim c) s = .next s) ∧
      (jop = 2 → exec (.aim c) s = next (y.aimJob j) ∧ exec (.occ c) s = .next s) ∧
      (jop ≠ 1 → jop ≠ 2 → exec (.occ c) s = next (y.coaRefuse j 1) ∧ exec (.aim c) s = next (y.coaRefuse j 1))) ∧
    (∀ y, ch.takeJob .coachman = (none, y) →
      let a := ch.load (ch.qSlot .coachman (ch.qHead .coachman)) 8
      let jop := if ch.inShared a 128 then ch.load a 1 else 0
      exec (.occ c) s = (if jop = 2 then .next s else next y) ∧ exec (.aim c) s = (if jop = 1 then .next s else next y)) ∧
    (∀ r g rest, ch.coa.run = some r → ch.coa.gens = g :: rest →
      let g' : OccGen := { g with done := some ch.now }
      exec (.occGenerationComplete c) s =
        next (((({ ch with coa := { ch.coa with run := none, gens := g' :: rest } } : Chip).recheck g').mirror 2
          (toLe 4 g'.num ++ zeros 4 ++ r.blk)).blockToken r.token)) ∧
    (ch.coa.run = none → exec (.occGenerationComplete c) s = .next s) ∧
    (ch.coa.gens = [] → exec (.occGenerationComplete c) s = .next s ∧ exec (.occupancyStale c) s = .next s) ∧
    (∀ g rest, ch.coa.gens = g :: rest →
      (g.t0 + 200000000 < ch.now → exec (.occupancyStale c) s = next ch.stopMoving) ∧
      (ch.now ≤ g.t0 + 200000000 → exec (.occupancyStale c) s = .next s))

/-- R554 to R556, R560, R575 and R579: the DMA engine and the Adapt feeder. -/
def Obligations.DmaAndAdapt : Prop :=
  ∀ (s : State) (c : ChipId), Live s c →
    let ch := s.chip c
    let next (x : Chip) : Res := .next (s.setChip c x)
    let ownChip (d : Nat) : Bool := descChip d == ch.pos.val
    (ch.trail.dma.isSome = true → exec (.copy c) s = next (ch.dmaPump 16) ∧ exec (.atomic c) s = .next s) ∧
    (ch.trail.dma = none → ch.dmaHeadJop = 2 → exec (.copy c) s = .next s) ∧
    (ch.dmaHeadJop ≠ 2 → exec (.atomic c) s = .next s) ∧
    (∀ j y, ch.trail.dma = none → ch.dmaHeadJop = 1 → ch.takeJob .dma = (some j, y) → fieldAt j.blk 0 1 = 1 → y.pos = ch.pos →
      let len := fieldAt j.blk 4 4
      let src := fieldAt j.blk 8 8
      let dst := fieldAt j.blk 16 8
      let fit := y.dmaDescOk src len && y.dmaDescOk dst len && (ownChip src || ownChip dst)
      (dmaFieldsOk j.blk = false ∨ maxCopy < len → exec (.copy c) s = next (y.qRefuse .dma j 40 (dmaWord j.blk dmaBadJob))) ∧
      (dmaFieldsOk j.blk = true → len = 0 →
        exec (.copy c) s = next (y.blockToken (jobToken j.blk 40 (dmaWord j.blk dmaEmpty) j.poison))) ∧
      (dmaFieldsOk j.blk = true → 0 < len → len ≤ maxCopy → fit = false →
        exec (.copy c) s = next (y.qRefuse .dma j 40 (dmaWord j.blk dmaBadAddr))) ∧
      (dmaFieldsOk j.blk = true → 0 < len → len ≤ maxCopy → fit = true → exec (.copy c) s = next ((y.dmaStart j).dmaPump 16))) ∧
    (∀ j y, ch.trail.dma = none → ch.dmaHeadJop ≠ 2 → ch.takeJob .dma = (some j, y) → fieldAt j.blk 0 1 ≠ 1 →
      exec (.copy c) s = next (y.qRefuse .dma j 40 (dmaWord j.blk dmaBadJob))) ∧
    (∀ y, ch.trail.dma = none → ch.takeJob .dma = (none, y) →
      exec (.copy c) s = (if ch.dmaHeadJop = 2 then .next s else next y) ∧
      exec (.atomic c) s = (if ch.dmaHeadJop = 2 then next y else .next s)) ∧
    (∀ j y, ch.trail.dma = none → ch.dmaHeadJop = 2 → ch.takeJob .dma = (some j, y) →
      let lop := fieldAt j.blk 1 1
      let target := fieldAt j.blk 16 8
      let res := fieldAt j.blk 48 8
      let z := y.dmaStart j
      (dmaFieldsOk j.blk = false ∨ 9 ≤ lop → exec (.atomic c) s = next (y.qRefuse .dma j 40 (dmaWord j.blk dmaBadJob))) ∧
      (dmaFieldsOk j.blk = true → lop < 9 →
        (y.dmaDescOk target 8 = false ∨ target % 8 ≠ 0 ∨ res % 8 ≠ 0 ∨ y.inShared res 8 = false →
          exec (.atomic c) s = next (y.qRefuse .dma j 40 (dmaWord j.blk dmaBadAddr))) ∧
        (∀ a, y.dmaDescOk target 8 = true → target % 8 = 0 → res % 8 = 0 → y.inShared res 8 = true →
          z.descAddr none target 8 = some a →
          let r := z.latchOp a lop (BitVec.ofNat 64 (fieldAt j.blk 24 8)) (BitVec.ofNat 64 (fieldAt j.blk 32 8)) j.poison
          exec (.atomic c) s = next ((r.2.2.store res (toLe 8 r.1.toNat) r.2.1).setTrail fun t =>
            { t with dma := t.dma.map fun d => { d with poison := d.poison || r.2.1 } })) ∧
        (y.dmaDescOk target 8 = true → target % 8 = 0 → res % 8 = 0 → y.inShared res 8 = true →
          z.descAddr none target 8 = none →
          let w := z.setTrail fun t => { t with dma := t.dma.map fun d => { d with reqs := [⟨0, descChip target, res, 8⟩] } }
          (w.routeCode (descChip target) = 3 →
            exec (.atomic c) s = next (w.dmaLost fun x => x == descChip target)) ∧
          (w.routeCode (descChip target) ≠ 3 → exec (.atomic c) s =
            next (w.sendFlit (descChip target) 1 3 (w.reqPayload j.poison false 0 8 lop target
              (toLe 8 (fieldAt j.blk 24 8) ++ toLe 8 (fieldAt j.blk 32 8)))))))) ∧
    (∀ d, ch.trail.dma = some d →
      (d.reqs = [] → fieldAt d.blk 4 4 ≤ d.next ∨ fieldAt d.blk 0 1 = 2 → exec (.dmaJobComplete c) s =
        next (((ch.setTrail fun t => { t with dma := none }).setFlag F.TRL_DMA_STAT_BUSY false).blockToken
          (jobToken d.blk 40 (dmaWord d.blk d.status) d.poison))) ∧
      (d.reqs ≠ [] ∨ (d.next < fieldAt d.blk 4 4 ∧ fieldAt d.blk 0 1 ≠ 2) → exec (.dmaJobComplete c) s = .next s)) ∧
    (ch.trail.dma = none → exec (.dmaJobComplete c) s = .next s) ∧
    ((∀ j < 4, ch.adpState j ≠ adpQueued) → exec (.adaptJobRun c) s = .next s) ∧
    (∀ j job k, ((List.range 4).find? fun j => ch.adpState j == adpQueued) = some j → Tab.find ch.adp.jobs j = some job →
      let r := AdpReq.ofBytes job.blk
      ch.ctxSlot r.context = some k →
      ((ch.slot k).st ≠ .armed ∨ ch.pwr ≠ pwrRun → exec (.adaptJobRun c) s = .next s) ∧
      ((∃ i < 4, ch.adpState i = adpRunning ∨ ch.adpState i = adpWaiting) → exec (.adaptJobRun c) s = .next s) ∧
      ((∀ i < 4, ch.adpState i ≠ adpRunning ∧ ch.adpState i ≠ adpWaiting) → (ch.slot k).st = .armed → ch.pwr = pwrRun →
        let clip (i : Nat) : Bool :=
          let e := ch.bytes ((ch.adpAddr r.noise (16 * r.nnoise)).getD 0 + 16 * i) 16
          decide (1 ≤ fieldAt e 8 4) && decide (fieldAt e 8 4 ≤ 2880000) && fieldAt e 12 4 == 0 &&
            ch.dataOk r (fieldAt e 0 8) (4 * fieldAt e 8 4)
        let y := (ch.wr (F.ADP_JOB_STATE j) adpRunning).wr (F.ADP_JOB_SLOT j) k
        ((∃ i < r.nnoise, clip i = false) → exec (.adaptJobRun c) s = next (y.adpEnd j adpAborted)) ∧
        ((∀ i < r.nnoise, clip i = true) → exec (.adaptJobRun c) s =
          next ((y.store ((y.adpAddr r.credit 8).getD 0) (zeros 8) false).adpBuild j)))) ∧
    (∀ j job b, ch.adpIn adpRunning = some j → Tab.find ch.adp.jobs j = some job → job.built = some b →
      let r := AdpReq.ofBytes job.blk
      let n := ch.rd (F.ADP_DELIV_VALUE j)
      let v := ch.load ((ch.adpAddr r.credit 8).getD 0) 8
      let y := if n < v then ch.setFlag F.ADP_STAT_CREDIT_SEEN true else ch
      (ch.feederOn = false → exec (.adaptBatchDeliver c) s = next ch.adpSync) ∧
      (ch.feederOn = true → ch.adpFar r b = true → exec (.adaptBatchDeliver c) s =
        next ((ch.wr (F.ADP_JOB_STATE j) adpRunning).setFlag F.ADP_STAT_LINK_LIVE true)) ∧
      (ch.feederOn = true → ch.adpFar r b = false →
        (n - min n v < r.nslot → exec (.adaptBatchDeliver c) s =
          next (s.adpWrite (y.wr (F.ADP_JOB_STATE j) adpRunning) j job b)) ∧
        (r.nslot ≤ n - min n v → exec (.adaptBatchDeliver c) s = next ((y.wr (F.ADP_JOB_STATE j) adpWaiting).adpSync)))) ∧
    (ch.adpIn adpRunning = none → exec (.adaptBatchDeliver c) s = .next s) ∧
    (∀ j job b, ch.adpIn adpWaiting = some j → Tab.find ch.adp.jobs j = some job → job.built = some b →
      let r := AdpReq.ofBytes job.blk
      let n := ch.rd (F.ADP_DELIV_VALUE j)
      let v := ch.load ((ch.adpAddr r.credit 8).getD 0) 8
      ch.feederOn = true → ch.adpFar r b = false → v ≤ n → n - v < r.nslot →
        exec (.adaptCreditPoll c) s = next (s.adpWrite (ch.wr (F.ADP_JOB_STATE j) adpRunning) j job b)) ∧
    (ch.adpIn adpWaiting = none → exec (.adaptCreditPoll c) s = .next s) ∧
    (∀ j, ch.adpIn adpWaiting = some j → exec (.adaptCreditPoll c) s = next (s.adpDeliver ch j)) ∧
    (ch.adpIn adpRunning = none → ch.flag F.ADP_STAT_LINK_LIVE = true →
      exec (.adaptLinkRetry c) s = next (ch.setFlag F.ADP_STAT_LINK_LIVE false)) ∧
    (ch.flag F.ADP_STAT_LINK_LIVE = false → exec (.adaptLinkRetry c) s = .next s) ∧
    (∀ j, ch.flag F.ADP_STAT_LINK_LIVE = true → ch.adpIn adpRunning = some j → exec (.adaptLinkRetry c) s =
      next (s.adpDeliver (ch.setFlag F.ADP_STAT_LINK_LIVE false) j))

/-- R455 to R458, R462, R465, R471 and R474: batches, frames and the ends of motion. -/
def Obligations.MotionBatchesAndEnds : Prop :=
  ∀ (s : State) (c : ChipId) (h : Fin 8), Live s c →
    let ch := s.chip c
    let x := ch.head h.val
    let n := ch.batch h.val
    let next (x : Chip) : Res := .next (s.setChip c x)
    let handed := ch.setHead h.val { x with next := x.next + n * 1000000 }
    (ch.rd F.COA_STAT_ROLE ≠ roleActive ∨ ch.headState h.val = hdDisabled ∨ n = 0 →
      exec (.setpointBatchHandoff c h) s = .next s) ∧
    (ch.rd F.COA_STAT_ROLE = roleActive → ch.headState h.val ≠ hdDisabled → n ≠ 0 →
      (ch.pos.val = 0 → exec (.setpointBatchHandoff c h) s = next (handed.takeBatch h.val (ch.nextBatch h.val))) ∧
      (ch.pos.val ≠ 0 → exec (.setpointBatchHandoff c h) s =
        next (handed.sendMotion 0 5 (padTo 64 (handed.setpointBytes h.val 0 (ch.nextBatch h.val)))))) ∧
    (ch.headState h.val = hdMoving → exec (.segmentEnd c h) s =
      next ((ch.setHead h.val { x with rest := x.endPose, segs := [] }).setHeadState h.val hdReady)) ∧
    (ch.headState h.val ≠ hdMoving → exec (.segmentEnd c h) s = .next s) ∧
    (ch.headState h.val ≠ hdStopping → exec (.stopAtRest c h) s = .next s) ∧
    (ch.headState h.val = hdStopping → ch.sen.disabling = false →
      let y := (ch.setHead h.val { x with rest := x.stopPose, segs := afterStop x.segs [] }).setHeadState h.val hdReady
      y.sen.disabling = false →
      (afterStop x.segs [] = [] → exec (.stopAtRest c h) s = next y) ∧
      (afterStop x.segs [] ≠ [] → exec (.stopAtRest c h) s = next (y.setHeadState h.val hdMoving))) ∧
    (ch.headState h.val = hdStopping →
      let y := (ch.setHead h.val { x with rest := x.stopPose, segs := afterStop x.segs [] }).setHeadState h.val hdReady
      (y.sen.disabling = true → y.allAtRest = true → exec (.stopAtRest c h) s = next y.finishDisable) ∧
      (y.sen.disabling = true → y.allAtRest = false → exec (.stopAtRest c h) s =
        next (if afterStop x.segs [] = [] then y else y.setHeadState h.val hdMoving))) ∧
    (ch.pos.val ≠ 0 → exec (.setpointFrameQueue c h) s = .next s ∧ exec (.setpointTxLate c h) s = .next s ∧
      exec (.motionDisableTimeout c) s = .next s ∧ exec (.takeover c) s = .next s) ∧
    (ch.pos.val = 0 →
      (ch.headState h.val = hdDisabled ∨ n = 0 → exec (.setpointFrameQueue c h) s = .next s) ∧
      (ch.headState h.val ≠ hdDisabled → n ≠ 0 →
        (x.queue = [] → exec (.setpointFrameQueue c h) s = next (ch.safeStop 29 h.val 2 h.val 0)) ∧
        (∀ s0 rest, x.queue = s0 :: rest → x.queue.length < n →
          exec (.setpointFrameQueue c h) s = next (ch.safeStop 29 h.val 2 h.val s0.time)) ∧
        (∀ s0 rest, x.queue.take n = s0 :: rest → n ≤ x.queue.length →
          (((x.queue.take n).all fun q => ch.genFresh q.gen) = false →
            exec (.setpointFrameQueue c h) s = next (ch.safeStop 29 h.val 3 h.val s0.time)) ∧
          (((x.queue.take n).all fun q => ch.genFresh q.gen) = true →
            let data := canBytes (ch.rd (F.COA_HSAFE_SAFE_ID h.val)) (ch.setpointBytes h.val x.seq (x.queue.take n))
            let y := ch.setHead h.val { x with frame := some ⟨s0.time, data⟩, seq := (x.seq + 1) % 2 ^ 32 }
            exec (.setpointFrameQueue c h) s = next (y.queueCan (y.rd (F.COA_HCFG_BUS h.val)) ⟨0x100 + h.val, data⟩)))) ∧
      (x.frame = none → exec (.setpointTxLate c h) s = .next s) ∧
      (∀ f, x.frame = some f →
        let keep (l : List CanFrame) : List CanFrame := l.filter fun g => g.id != 0x100 + h.val
        exec (.setpointTxLate c h) s =
          next ((((ch.setSen { ch.sen with can0 := keep ch.sen.can0, can1 := keep ch.sen.can1 }).setHead h.val
            { x with frame := none }).count F.SEN_TXLATE_COUNT F.SEN_STAT_OVF 0).safeStop 29 h.val 2 h.val f.time)) ∧
      (ch.sen.disabling = true → exec (.motionDisableTimeout c) s = next ch.finishDisable) ∧
      (ch.sen.disabling = false → exec (.motionDisableTimeout c) s = .next s) ∧
      (ch.rd F.COA_STAT_ROLE ≠ roleActive ∨ ch.routeCode 2 = 3 → exec (.takeover c) s = .next s) ∧
      (ch.rd F.COA_STAT_ROLE = roleActive → ch.routeCode 2 ≠ 3 →
        let y := ch.wr F.COA_STAT_ROLE roleFailed
        let z := ((y.setSen { y.sen with fromE2 := true }).count F.SEN_TAKEOVER_COUNT F.SEN_STAT_OVF 3).sendMotion 2 4 []
        exec (.takeover c) s = next (z.motionStatus 0xFF 4
          ((y.setSen { y.sen with fromE2 := true }).count F.SEN_TAKEOVER_COUNT F.SEN_STAT_OVF 3).now)))

/-- R47, R459, R460, R466, R469, R474 and R700: the Sentry's bus, timer and stop loops. -/
def Obligations.SentryEvents : Prop :=
  ∀ (s : State) (c : ChipId) (h : Fin 8), Live s c →
    let ch := s.chip c
    let q := ch.sen
    let x := ch.head h.val
    let next (x : Chip) : Res := .next (s.setChip c x)
    (ch.pos.val ≠ 0 → ∀ bus sof rb data,
      exec (.canFrameTxComplete c bus sof rb) s = .next s ∧ exec (.canTimeFrame c) s = .next s ∧
      exec (.status c h data) s = .next s ∧ exec (.canFrameIgnored c) s = .next s ∧ exec (.statusTimeout c h) s = .next s ∧
      exec (.sentryTimerRearm c) s = .next s ∧ exec (.sentryTimerExpiry c) s = .next s ∧ exec (.busOff c bus) s = .next s ∧
      exec (.busOffRecovery c bus) s = .next s) ∧
    (ch.pos.val = 0 →
      (∀ sof rb, q.can0 = [] ∨ q.busOff0 = true → exec (.canFrameTxComplete c false sof rb) s = .next s) ∧
      (∀ sof rb, q.can1 = [] ∨ q.busOff1 = true → exec (.canFrameTxComplete c true sof rb) s = .next s) ∧
      (∀ (f : CanFrame) rest sof, q.can0 = f :: rest → q.busOff0 = false → f.id = 0x100 + h.val →
        let y := ((ch.setSen { q with can0 := rest }).emit (.can 0 f.id f.data)).markSent h.val
        exec (.canFrameTxComplete c false sof true) s = next y ∧
        exec (.canFrameTxComplete c false sof false) s = next (y.safeStop 28 h.val 6 h.val 0)) ∧
      (∀ (f : CanFrame) rest sof, q.can1 = f :: rest → q.busOff1 = false → f.id = 0x100 + h.val →
        let y := ((ch.setSen { q with can1 := rest }).emit (.can 1 f.id f.data)).markSent h.val
        exec (.canFrameTxComplete c true sof true) s = next y ∧
        exec (.canFrameTxComplete c true sof false) s = next (y.safeStop 28 h.val 6 h.val 0)) ∧
      (∀ (f : CanFrame) rest sof, q.can0 = f :: rest → q.busOff0 = false → f.id = 1 →
        let y := (ch.setSen { q with can0 := rest }).emit (.can 0 f.id f.data)
        exec (.canFrameTxComplete c false sof true) s = next y ∧
        exec (.canFrameTxComplete c false sof false) s = next (y.safeStop 28 8 6 15 0)) ∧
      (∀ (bus : Bool) (f : CanFrame) rest sof rb, (if bus then q.can1 else q.can0) = f :: rest →
        (if bus then q.busOff1 else q.busOff0) = false →
        let y := (ch.setSen (if bus then { q with can1 := rest } else { q with can0 := rest })).emit (.can (bnat bus) f.id f.data)
        let stamped := y.setSen { y.sen with prevSof := updAt y.sen.prevSof (bnat bus) fun _ => sof.toNat }
        let z := if f.id = 0x10 then
            (List.range 8).foldl (fun (x : Chip) n => if x.rd (F.COA_HCFG_BUS n) = bnat bus then
              x.setHead n { x.head n with answered := false } else x) stamped
          else if 0x100 ≤ f.id ∧ f.id < 0x108 then y.markSent (f.id - 0x100)
          else y
        exec (.canFrameTxComplete c bus sof rb) s = next (if rb then z
          else if 0x100 ≤ f.id ∧ f.id < 0x108 then z.safeStop 28 (f.id - 0x100) 6 (f.id - 0x100) 0
          else z.safeStop 28 8 6 15 0)) ∧
      (let frame (b : Nat) : CanFrame := ⟨0x10, canBytes 0 (toLe 1 2 ++ zeros 3 ++ toLe 4 q.timeSeq ++
        toLe 8 ((q.prevSof[b]?).getD 0))⟩
       exec (.canTimeFrame c) s = next (ch.setSen { q with
         can0 := q.can0 ++ [frame 0], can1 := q.can1 ++ [frame 1], timeSeq := (q.timeSeq + 1) % 2 ^ 32 })) ∧
      (∀ data : List Byte,
        let l := canLen (16 + 4 * ch.nax h.val + 4)
        let bad := next (ch.count F.SEN_CRCERR_COUNT F.SEN_STAT_OVF 1)
        (data.length ≠ l → exec (.status c h data) s = bad) ∧
        (fieldAt data (l - 4) 4 ≠ crc32 (toLe 4 (ch.rd (F.COA_HSAFE_SAFE_ID h.val)) ++ data.take (l - 4)) →
          exec (.status c h data) s = bad) ∧
        (fieldAt data 0 1 ≠ 0x81 → exec (.status c h data) s = bad) ∧ (fieldAt data 1 1 ≠ h.val → exec (.status c h data) s = bad) ∧
        (ch.flag (F.COA_HCFG_EN h.val) = false → exec (.status c h data) s = bad) ∧
        (data.length = l → fieldAt data (l - 4) 4 = crc32 (toLe 4 (ch.rd (F.COA_HSAFE_SAFE_ID h.val)) ++ data.take (l - 4)) →
          fieldAt data 0 1 = 0x81 → fieldAt data 1 1 = h.val → ch.flag (F.COA_HCFG_EN h.val) = true →
          x.sent = [] → x.queue = [] →
          let fault := bit (fieldAt data 2 1) 0
          let pos := (List.range (ch.nax h.val)).map fun a => sgn 32 (fieldAt data (16 + 4 * a) 4)
          let y := ch.setHead h.val { x with reported := pos, statusTime := ch.now, fault := fault, answered := true, off := 0 }
          (fault = true → exec (.status c h data) s = next (y.safeStop 28 h.val 5 h.val (fieldAt data 8 8))) ∧
          (fault = false → exec (.status c h data) s = next y)) ∧
        (data.length = l → fieldAt data (l - 4) 4 = crc32 (toLe 4 (ch.rd (F.COA_HSAFE_SAFE_ID h.val)) ++ data.take (l - 4)) →
          fieldAt data 0 1 = 0x81 → fieldAt data 1 1 = h.val → ch.flag (F.COA_HCFG_EN h.val) = true →
          let fault := bit (fieldAt data 2 1) 0
          let time := fieldAt data 8 8
          let pos := (List.range (ch.nax h.val)).map fun a => sgn 32 (fieldAt data (16 + 4 * a) 4)
          let far (q : Smp) : Bool := (List.range (ch.nax h.val)).any fun a =>
            decide (ch.rd (F.COA_AF_FOLLOW h.val a) < (((pos[a]?).getD 0) - ((q.pos[a]?).getD 0)).natAbs)
          let ref := ((x.sent ++ x.queue).filter fun q => q.time == time / 1000000 * 1000000).getLast?
          let y (off : Nat) : Chip := ch.setHead h.val
            { x with reported := pos, statusTime := ch.now, fault := fault, answered := true, off := off }
          let answer (off : Nat) : Res := next (if fault = true ∨ (2 ≤ off ∧ (y off).headState h.val ≠ hdDisabled) then
            (y off).safeStop 28 h.val 5 h.val time else y off)
          (ref = none → exec (.status c h data) s = answer 0) ∧
          (∀ q, ref = some q → far q = false → exec (.status c h data) s = answer 0) ∧
          (∀ q, ref = some q → far q = true → exec (.status c h data) s = answer (x.off + 1)))) ∧
      exec (.canFrameIgnored c) s = next (ch.count F.SEN_CANIGN_COUNT F.SEN_STAT_OVF 2) ∧
      (ch.headState h.val = hdDisabled → exec (.statusTimeout c h) s = .next s) ∧
      (ch.headState h.val ≠ hdDisabled → exec (.statusTimeout c h) s = next (ch.safeStop 29 h.val 4 h.val 0)) ∧
      (ch.fab.steward.halted = false → exec (.sentryTimerRearm c) s = next (ch.setSen { q with rearm := ch.now })) ∧
      (ch.fab.steward.halted = true → exec (.sentryTimerRearm c) s = .next s) ∧
      (q.rearm + 4000000 ≤ ch.now → exec (.sentryTimerExpiry c) s =
        next ((ch.setSen { q with chanA := false, chanB := false }).safeStop 26 8 7 15 0)) ∧
      (ch.now < q.rearm + 4000000 → exec (.sentryTimerExpiry c) s = .next s) ∧
      exec (.busOff c false) s = next (ch.setSen { q with busOff0 := true }) ∧
      exec (.busOff c true) s = next (ch.setSen { q with busOff1 := true }) ∧
      exec (.busOffRecovery c false) s = next (ch.setSen { q with busOff0 := false }) ∧
      exec (.busOffRecovery c true) s = next (ch.setSen { q with busOff1 := false })) ∧
    (c = 0 → ch.pos.val = 0 →
      exec (.stopLoopSample .closed .closed) s =
        next (ch.setSen { q with openA := 0, openB := 0, loopA := false, loopB := false }) ∧
      (∀ a b : LoopReading,
        let na := loopCount a q.openA
        let nb := loopCount b q.openB
        let fitted := (List.range 8).any fun n => ch.flag (F.COA_HCFG_EN n)
        let y := ch.setSen { q with openA := na, openB := nb, loopA := decide (2 ≤ na), loopB := decide (2 ≤ nb) }
        let z := if fitted = true ∧ 2 ≤ na ∧ q.loopA = false then y.safeStop 28 9 9 15 0 else y
        exec (.stopLoopSample a b) s =
          next (if fitted = true ∧ 2 ≤ nb ∧ q.loopB = false then z.safeStop 28 10 9 15 0 else z)) ∧
      (q.openA = 1 → q.loopA = false → (∃ n < 8, ch.flag (F.COA_HCFG_EN n) = true) → exec (.stopLoopSample .openLoop .closed) s =
        next ((ch.setSen { q with openA := 2, openB := 0, loopA := true, loopB := false }).safeStop 28 9 9 15 0)) ∧
      (q.openB = 1 → q.loopB = false → (∃ n < 8, ch.flag (F.COA_HCFG_EN n) = true) → exec (.stopLoopSample .closed .openLoop) s =
        next ((ch.setSen { q with openA := 0, openB := 2, loopA := false, loopB := true }).safeStop 28 10 9 15 0)) ∧
      ((∀ n < 8, ch.flag (F.COA_HCFG_EN n) = false) → q.openA = 1 → exec (.stopLoopSample .openLoop .closed) s =
        next (ch.setSen { q with openA := 2, openB := 0, loopA := true, loopB := false })) ∧
      (q.openA = 0 → exec (.stopLoopSample .openLoop .closed) s =
        next (ch.setSen { q with openA := 1, openB := 0, loopA := false, loopB := false })))

/-- R464, R465 and R558: the messages between the Coachmen of E0 and E2. -/
def Obligations.MotionMessages : Prop :=
  ∀ (s : State) (c : ChipId) (l : Fin 2) (h : FlitHdr) (pl : List Byte), Awake s c →
    let ch := s.chip c
    let next (x : Chip) : Res := .next (s.setChip c x)
    (∀ y, ch.arrive l.val h pl 3 4 = (none, y) → exec (.trailMotion c l h pl) s = next y) ∧
    (∀ y p z, ch.arrive l.val h pl 3 4 = (some p, y) →
      y.motionPiece (fieldAt p 0 1) (fieldAt p 1 1) (fieldAt p 2 1) (p.drop 8) = (none, z) →
      exec (.trailMotion c l h pl) s = next z) ∧
    (∀ y p d z, ch.arrive l.val h pl 3 4 = (some p, y) →
      y.motionPiece (fieldAt p 0 1) (fieldAt p 1 1) (fieldAt p 2 1) (p.drop 8) = (some d, z) →
      (z.pos = 0 → exec (.trailMotion c l h pl) s = next (z.motionMsg s.e2 (fieldAt p 0 1) d)) ∧
      (z.pos ≠ 0 → exec (.trailMotion c l h pl) s = next (z.motionMsg s.e0 (fieldAt p 0 1) d)))

/-- R505 to R509, R511, R514 to R526: the commands of the memory controller. -/
def Obligations.MemoryCommands : Prop :=
  ∀ (s : State) (c : ChipId), Awake s c → (s.chip c).memRuns = true →
    let ch := s.chip c
    let next (x : Chip) : Res := .next (s.setChip c x)
    let logged (x : Chip) : Res := .next (logRanks c s (s.setChip c x))
    (∀ (line : LineReq) (e : LineErr) (o : Fin 64) (data : List Byte) (poison : Bool),
      let l := line.line.toNat
      let k := ch.lineChan l
      let x := ch.xing crDomain (256 + k)
      let rows : List (Instr × DramOp) := [(.dramRead c line e, .read l e), (.dramWrite c line data poison, .write l data poison),
        (.dramReadModifyWrite c line o data poison e, .rmw l o.val data poison e)]
      ∀ r ∈ rows,
        let q : DramReq := ⟨r.2, line.safety, line.link, ch.now⟩
        (ch.usable ≤ 64 * l → exec r.1 s = .next s) ∧
        (64 * l < ch.usable → ch.clkRuns k = true → x.st = .run → x.held = [] → x.wait = [] → ch.dramRoom k q = true →
          exec r.1 s = next (ch.dramAccept k q)) ∧
        (64 * l < ch.usable →
          (ch.clkRuns k = false ∨ x.st ≠ .run ∨ x.held ≠ [] ∨ x.wait ≠ [] ∨ ch.dramRoom k q = false) →
          exec r.1 s = next (ch.setXing crDomain (256 + k) fun x => x.put (!ch.clkRuns k) crDomain (.dram q)))) ∧
    (∀ (l p : Nat) (e : LineErr) (o : Fin 64) (data : List Byte) (poison : Bool),
      let off := 64 * l
      let at' := ch.lineAt l
      ch.server at'.1 at'.2 = some p →
      let r := readBack (lineTag p at'.2) (ch.load (dramBase + off) 64) (ch.isPoisoned (dramBase + off)) e
      let y := (ch.countRd (p / 2)).countLink (p / 2) e.link
      let good := (y.store (dramBase + off) (toLe 64 r.data) r.poison).countWr (p / 2)
      let lost := (y.store (dramBase + off) (toLe 64 r.data) true).countWr (p / 2)
      let merged := (y.store (dramBase + off) (patch (toLe 64 r.data) o.val (data.take (64 - o.val))) (r.poison || poison)).countWr
        (p / 2)
      ch.lineWrite l data poison = (ch.store (dramBase + off) (padTo 64 data) poison).countWr (p / 2) ∧
      (r.cls = 0 → ch.demandRead l e = y ∧ ch.lineMerge l o.val data poison e = merged) ∧
      (r.cls = mcCe → ch.demandRead l e = good.memCe p off (lineTag p at'.2) fdRead ∧
        ch.lineMerge l o.val data poison e = merged.memCe p off (lineTag p at'.2) fdWrite) ∧
      (r.cls ≠ 0 → r.cls ≠ mcCe →
        ch.demandRead l e = (lost.memUe (p / 2) (p % 2) r.cls off (lineTag p at'.2) fdRead).ueRank p ∧
        ch.lineMerge l o.val data poison e =
          (merged.memUe (p / 2) (p % 2) r.cls off (lineTag p at'.2) fdWrite).ueRank p)) ∧
    (∀ k : Fin 16,
      let n := Tab.get 0 ch.mc.postponed k.val
      let idle := ch.chanIdle k.val
      let safe := (ch.rdq k.val ++ ch.wrq k.val).any fun r => r.safety
      let refreshed := next ((((ch.setFlag (F.MEM_CH_STAT_PD_LIVE k.val) false).setClk k.val true).closeRows k.val).setMc fun m =>
        { m with postponed := Tab.set 0 m.postponed k.val 0 })
      (idle = true → exec (.refresh c k 0) s = refreshed) ∧
      (∀ d : Fin 3, d ≠ 1 → safe = false → 8 ≤ n → exec (.refresh c k d) s = refreshed) ∧
      (∀ d : Fin 3, d ≠ 0 ∨ idle = false → n < 8 → exec (.refresh c k d) s =
        next (ch.setMc fun m => { m with postponed := Tab.set 0 m.postponed k.val (n + 1) })) ∧
      (∀ d : Fin 3, d = 1 ∨ safe = true → 8 ≤ n → exec (.refresh c k d) s = .next s) ∧
      (∀ r0 r1 : BitVec 5, r0.toNat ≠ mr4Over → r1.toNat ≠ mr4Over → exec (.mr4Poll c k r0 r1) s = next (ch.setMc fun m =>
        { m with mr4 := Tab.set 0 (Tab.set 0 m.mr4 (2 * k.val) r0.toNat) (2 * k.val + 1) r1.toNat })) ∧
      (∀ r0 r1 : BitVec 5, r0.toNat = mr4Over → r1.toNat ≠ mr4Over → exec (.mr4Poll c k r0 r1) s =
        next ((((ch.setMc fun m => { m with mr4 := Tab.set 0 m.mr4 (2 * k.val) mr4Over }).setFlag (F.MEM_CH_STAT_THERM_SEEN k.val)
          true).raise 21 (source (256 + k.val) 0) mr4Over).setMc fun m =>
            { m with mr4 := Tab.set 0 m.mr4 (2 * k.val + 1) r1.toNat })) ∧
      (∀ r0 r1 : BitVec 5,
        let poll (x : Chip) (e : Nat) (v : BitVec 5) : Chip :=
          let y := x.setMc fun m => { m with mr4 := Tab.set 0 m.mr4 (2 * k.val + e) v.toNat }
          if v.toNat = mr4Over then
            (y.setFlag (F.MEM_CH_STAT_THERM_SEEN k.val) true).raise 21 (source (256 + k.val) e) v.toNat else y
        exec (.mr4Poll c k r0 r1) s = next (poll (poll ch 0 r0) 1 r1)) ∧
      (∀ r0 r1 : BitVec 5, ch.rd F.MEM_TEL_PERIOD ≠ 0 →
        let skipped := next (ch.count (F.MEM_CH_TEL_SKIP_COUNT k.val) (F.MEM_CH_STAT_OVF k.val) 5)
        (idle = true → exec (.telemetrySample c k true r0 r1) s =
          next ((ch.wr (F.MEM_CH_TEMP_MR4_R0 k.val) r0.toNat).wr (F.MEM_CH_TEMP_MR4_R1 k.val) r1.toNat)) ∧
        (idle = false → exec (.telemetrySample c k true r0 r1) s = skipped) ∧
        exec (.telemetrySample c k false r0 r1) s = skipped) ∧
      (∀ idle r0 r1, ch.rd F.MEM_TEL_PERIOD = 0 → exec (.telemetrySample c k idle r0 r1) s = .next s) ∧
      (ch.rd F.MEM_PD_IDLE = 0 → exec (.channelPowerDown c k) s = .next s) ∧
      (idle = false → exec (.channelPowerDown c k) s = .next s) ∧
      (ch.rd F.MEM_PD_IDLE ≠ 0 → idle = true → exec (.channelPowerDown c k) s =
        next (((ch.setFlag (F.MEM_CH_STAT_PD_LIVE k.val) true).setClk k.val false).closeRows k.val)) ∧
      (ch.rd F.MEM_SCRUB_HOURS = 0 → ∀ e, exec (.scrubDeadline c k) s = .next s ∧ exec (.patrolScrubRead c k e) s = logged ch) ∧
      (ch.rd F.MEM_SCRUB_HOURS ≠ 0 → exec (.scrubDeadline c k) s =
        next (((ch.setFlag (F.MEM_CH_STAT_SCRUB_LATE_LIVE k.val) true).setFlag (F.MEM_CH_STAT_SCRUB_LATE_SEEN k.val) true).lateSync)) ∧
      (∀ e, ch.scrubRanks k.val = [] ∨ idle = false → exec (.patrolScrubRead c k e) s = logged ch) ∧
      (∀ e p, ch.rd F.MEM_SCRUB_HOURS ≠ 0 → ch.scrubRanks k.val ≠ [] → idle = true →
        let pos := ch.rd (F.MEM_CH_SCRUB_POS k.val)
        (ch.scrubRanks k.val)[pos / rankLines]? = some p →
        let y := ch.scrubLine p (pos % rankLines) e
        (pos + 1 < (ch.scrubRanks k.val).length * rankLines → exec (.patrolScrubRead c k e) s =
          logged (y.wr (F.MEM_CH_SCRUB_POS k.val) (pos + 1))) ∧
        ((ch.scrubRanks k.val).length * rankLines ≤ pos + 1 → exec (.patrolScrubRead c k e) s =
          logged ((((y.wr (F.MEM_CH_SCRUB_POS k.val) 0).wr (F.MEM_CH_PASSES_COUNT k.val)
            (min max32 (y.rd (F.MEM_CH_PASSES_COUNT k.val) + 1))).setFlag (F.MEM_CH_STAT_SCRUB_LATE_LIVE k.val) false).lateSync))) ∧
      (∀ (r : Fin 2) (v : BitVec 32), exec (.rankCeClear c k r v) s =
        logged ((ch.wr (F.MEM_CH_RANK_CE_COUNT k.val r.val) v.toNat).setMc fun m =>
          { m with ceTimes := Tab.del m.ceTimes (2 * k.val + r.val) }))) ∧
    (∀ r : Fin 32,
      let n := Tab.get 0 ch.mc.deferred r.val
      (ch.chanIdle (r.val / 2) = true →
        exec (.retrainDue c r true) s = next (ch.setMc fun m => { m with deferred := Tab.set 0 m.deferred r.val 0 })) ∧
      (ch.chanIdle (r.val / 2) = false →
        exec (.retrainDue c r true) s = next (ch.setMc fun m => { m with deferred := Tab.set 0 m.deferred r.val (n + 1) })) ∧
      exec (.retrainDue c r false) s = next (ch.setMc fun m => { m with deferred := Tab.set 0 m.deferred r.val (n + 1) }) ∧
      (n < 4 → exec (.retrainForced c r) s = .next s) ∧
      (4 ≤ n → exec (.retrainForced c r) s =
        next (((ch.setMc fun m => { m with deferred := Tab.set 0 m.deferred r.val 0 }).setFlag
          (F.MEM_CH_STAT_FORCED_SEEN (r.val / 2)) true).count (F.MEM_CH_FORCED_COUNT (r.val / 2)) (F.MEM_CH_STAT_OVF (r.val / 2)) 4))) ∧
    (ch.rd F.PWR_STATE_STATE < 2 →
      let p := ch.rd F.MEM_MIG_REQ_RANK
      (ch.rankState p ≠ rkActive ∨ ch.mc.queue.contains p = true →
        exec (.migrationGo c) s = logged (ch.setFlag F.MEM_MIG_REQ_BAD_SEEN true)) ∧
      (ch.rankState p = rkActive → ch.mc.queue.contains p = false → exec (.migrationGo c) s = logged (ch.retire p))) ∧
    (2 ≤ ch.rd F.PWR_STATE_STATE → exec (.migrationGo c) s =
      logged { ch with dozeActs := ch.dozeActs ++ [(F.MEM_MIG_REQ_GO.reg, 2 ^ 8)] }) ∧
    (∀ e, ch.flag F.MEM_MIG_ACTIVE = false ∨ ch.chanIdle (ch.rd F.MEM_MIG_SRC / 2) = false ∨
      ch.chanIdle (ch.rd F.MEM_MIG_DST / 2) = false → exec (.migrationCopyLine c e) s = logged ch) ∧
    (∀ e, ch.flag F.MEM_MIG_ACTIVE = true → ch.chanIdle (ch.rd F.MEM_MIG_SRC / 2) = true →
      ch.chanIdle (ch.rd F.MEM_MIG_DST / 2) = true →
      let src := ch.rd F.MEM_MIG_SRC
      let lam := ch.rd F.MEM_MIG_PTR_P
      let off := ch.lineOff (ch.rd (F.MEM_RANK_SUBST src)) lam
      let r := readBack (lineTag src lam) (ch.load (dramBase + off) 64) (ch.isPoisoned (dramBase + off)) e
      let y := (((ch.countRd (src / 2)).countLink (src / 2) e.link).store (dramBase + off) (toLe 64 r.data) r.poison).countWr
        (ch.rd F.MEM_MIG_DST / 2)
      let told := if r.cls = 0 then y else if r.cls = mcCe then y.memCe src off (lineTag src lam) fdMigrate
        else y.memUe (src / 2) (src % 2) r.cls off (lineTag src lam) fdMigrate
      let z := (told.wr F.MEM_MIG_PTR_P (lam + 1)).setMc fun m => { m with copied := m.copied ++ [(off, r.data, r.poison)] }
      (lam + 1 ≠ rankLines → exec (.migrationCopyLine c e) s = logged z) ∧
      (lam + 1 = rankLines → exec (.migrationCopyLine c e) s = logged z.endMigration)) ∧
    exec (.dramWipeComplete c) s = next (({ ch with
      mem := ch.mem.filter fun e => decide (e.1 < dramBase)
      poisoned := ch.poisoned.filter fun a => decide (a < dramBase) } : Chip).setFlag F.MEM_GSTAT_WIPE_DONE true)

/-- R75 to R95 and R180 to R184: the borders of the self-timed fabric and the Timekeeper. -/
def Obligations.ClocksAndTime : Prop :=
  ∀ (s : State) (c : ChipId), Awake s c →
    let ch := s.chip c
    let next (x : Chip) : Res := .next (s.setChip c x)
    (∀ d : Fin 28,
      (ch.wakeAsked d.val = true → ch.clkRuns d.val = false → ch.pwr ≠ pwrDoze →
        (16 ≤ d.val → exec (.clockWake c d) s = next (ch.setClk d.val true)) ∧
        (d.val < 16 → exec (.clockWake c d) s =
          next ((ch.setClk d.val true).setFlag (F.MEM_CH_STAT_PD_LIVE d.val) false))) ∧
      (ch.wakeAsked d.val = false → exec (.clockWake c d) s = .next s) ∧
      (wakeable d.val = false → exec (.clockWake c d) s = .next s) ∧ (ch.clkRuns d.val = true → exec (.clockWake c d) s = .next s) ∧
      (ch.pwr = pwrDoze → exec (.clockWake c d) s = .next s)) ∧
    (∀ src dst : Fin 512,
      let x := ch.xing src.val dst.val
      let stalled := next ((((((ch.setXing src.val dst.val fun x => { x with st := .held, stalled := true }).stallSync).setFlag
        F.DFX_XING_STAT_STALL_SEEN true).wr F.DFX_XING_STAT_STALL_DOMAIN dst.val).raise 24 (source dst.val 0) dst.val))
      (ch.stallable dst.val = true → ch.clkRuns (dst.val - 256) = false → dst.val ≠ pcieDomain ∨ x.held ≠ [] →
        exec (.crossingStallTimeout c src dst) s = stalled) ∧
      (dst.val = pcieDomain → x.held = [] → exec (.crossingStallTimeout c src dst) s = .next s) ∧
      (ch.stallable dst.val = false → exec (.crossingStallTimeout c src dst) s = .next s) ∧
      (ch.clkRuns (dst.val - 256) = true → exec (.crossingStallTimeout c src dst) s = .next s) ∧
      (∀ n, exec (.crossingReset c src dst n) s =
        next ((((ch.countN F.DFX_XING_DROP_COUNT F.DFX_XING_STAT_DROP_OVF 0 (n + x.held.length)).setXing src.val dst.val
          fun x => { x with held := [], st := .resetWait, bothReset := x.st == .resetWait, stalled := false }).stallSync))) ∧
      exec (.crossingResync c src dst) s = next ((ch.setXing src.val dst.val fun x => match x.st with
        | .resetWait => if x.bothReset then { x with bothReset := false } else { x with st := .resync }
        | .resync => { x with st := if ch.domRuns dst.val then .run else .held }
        | _ => x).pcieDeliver.fetchAll)) ∧
    (∀ p : Fin 2,
      exec (.csiClockLaneStop c p) s = next ((ch.setClk (19 + p.val) false).setFlag (F.CSI_STAT_CLK_LIVE p.val) false) ∧
      exec (.csiClockLaneStart c p) s =
        next ((ch.setClk (19 + p.val) true).setFlag (F.CSI_STAT_CLK_LIVE p.val) true) ∧
      (ch.tkp.fsync[p.val]? = some (ch.fsyncAt p.val) → exec (.senFsyncEdge c p) s = .next s) ∧
      (ch.tkp.fsync[p.val]? ≠ some (ch.fsyncAt p.val) → exec (.senFsyncEdge c p) s =
        next ((ch.setTkp { ch.tkp with fsync := updAt ch.tkp.fsync p.val fun _ => ch.fsyncAt p.val }).emit
          (.pin (20 + p.val) (ch.fsyncAt p.val))))) ∧
    (∀ (temps : List (BitVec 16)) (tj : BitVec 16),
      let low := argMin (fun (e : Nat × Nat) => e.1) (((temps.take 13).map fun t => ch.replica t.toInt).zipIdx)
      (low = none → exec (.paceMeasure c temps tj) s = .next s) ∧
      (∀ m, ch.paceRuns = true → low = some m → exec (.paceMeasure c temps tj) s =
        next ((((ch.wr F.PWR_PACE_MEAS_MEAS m.1).wr F.PWR_PACE_MEAS_SLOWEST m.2).wr F.PWR_TJ_TJ tj.toNat).paceSync))) ∧
    (ch.paceRuns = false → ∀ temps tj, exec (.paceMeasure c temps tj) s = .next s ∧ exec (.paceLoopStep c) s = .next s) ∧
    (ch.paceRuns = true →
      let m := ch.rd F.PWR_PACE_MEAS_MEAS
      let t := ch.rd F.PWR_PACE_TARGET_TARGET
      let v := ch.rd F.PWR_VCORE_MV
      (let v' := if m + 8 < t ∧ v < 850 then v + 5 else if t + 24 < m ∧ 650 < v then v - 5 else v
       let n := if v' = 850 ∧ m < t then ch.ceil + 1 else 0
       let y := (({ ch with ceil := n } : Chip).wr F.PWR_VCORE_MV v').paceSync
       (n ≠ 100 → exec (.paceLoopStep c) s = next y) ∧
       (n = 100 → exec (.paceLoopStep c) s = next (((y.setFlag F.PWR_PACE_STAT_CEIL_SEEN true).wr F.PWR_THERM_CAP
         (min (y.rd F.PWR_THERM_CAP) (8 * (m / 8)))).raise 22 (source 280 4) v'))) ∧
      (m + 8 < t → v < 845 → exec (.paceLoopStep c) s = next ((({ ch with ceil := 0 } : Chip).wr F.PWR_VCORE_MV (v + 5)).paceSync)) ∧
      (t + 24 < m → 650 < v → exec (.paceLoopStep c) s = next ((({ ch with ceil := 0 } : Chip).wr F.PWR_VCORE_MV (v - 5)).paceSync)) ∧
      (t ≤ m → m ≤ t + 24 → exec (.paceLoopStep c) s = next ((({ ch with ceil := 0 } : Chip).wr F.PWR_VCORE_MV v).paceSync))) ∧
    (let t := s.tray.now / 1000000 * 1000000
     (ch.rd F.TKP_STAT_STATE = 0 → exec (.boardSyncEdge c) s =
       next ((((ch.setTkp { ch.tkp with slew := 0 }).wr F.TKP_NOW_TIME t).wr F.TKP_STAT_STATE 1).setFlag F.TKP_STAT_SYNC_LIVE true)) ∧
     (ch.rd F.TKP_STAT_STATE ≠ 0 → exec (.boardSyncEdge c) s = next (ch.syncEdge t))) ∧
    (ch.rd F.TKP_STAT_STATE = 1 →
      let y := (((ch.wr F.TKP_STAT_STATE 2).setFlag F.TKP_STAT_SYNC_LIVE false).setFlag F.TKP_STAT_LOSS_SEEN true)
      exec (.syncLossTimeout c) s = next ((y.msix 129).raise 18 (source 281 0) (y.rd F.TKP_SYNC_ERR_E))) ∧
    (ch.rd F.TKP_STAT_STATE ≠ 1 → exec (.syncLossTimeout c) s = .next s)

/-- R593 to R615: the commands of the fault unit. -/
def Obligations.FaultCommands : Prop :=
  ∀ (s : State) (c : ChipId), Awake s c →
    let ch := s.chip c
    let next (x : Chip) : Res := .next (s.setChip c x)
    (ch.faultQ = [] → exec (.faultEvent c none) s = .next s) ∧
    (∀ e rest, ch.faultQ = e :: rest →
      let y := ({ ch with faultQ := rest } : Chip).collect e
      exec (.faultEvent c none) s = .next (logHalt c s (s.setChip c (y.2.react y.1 e)))) ∧
    (∀ f : FaultIn, f.row.val = 0 ∨ srcReal f.source.toNat = false → ch.faultQ = [] → exec (.faultEvent c (some f)) s = .next s) ∧
    (∀ f : FaultIn, f.row.val ≠ 0 → srcReal f.source.toNat = true →
      let e : FaultEv := ⟨f.row.val, f.source.toNat, f.detail.toNat, ch.now⟩
      let x := ch.audioEcc f.row.val f.source.toNat
      (ch.faultQ = [] →
        let y := x.collect e
        exec (.faultEvent c (some f)) s = .next (logHalt c s (s.setChip c (y.2.react y.1 e)))) ∧
      (∀ e0 rest, ch.faultQ = e0 :: rest →
        let y := ({ x with faultQ := rest ++ [e] } : Chip).collect e0
        exec (.faultEvent c (some f)) s = .next (logHalt c s (s.setChip c (y.2.react y.1 e0))))) ∧
    (∀ i, i = ch.rd F.FCU_ACK_RECORD →
      (256 ≤ i ∨ ch.rd (F.FCU_REC_STAT_CLASS i) = 0 ∨ ch.flag (F.FCU_REC_STAT_SEEN i) = false →
        exec (.fcuAckGo c) s = next (ch.setFlag F.FCU_STAT_ACK_BAD_SEEN true)) ∧
      (i < 256 → ch.rd (F.FCU_REC_STAT_CLASS i) ≠ 0 → ch.flag (F.FCU_REC_STAT_SEEN i) = true →
        let y := ((ch.setFlag (F.FCU_REC_STAT_SEEN i) false).wr (F.FCU_REC_STAT_LEVEL i) 0).setFlag (F.FCU_REC_STAT_LIVE i) (ch.liveNow i)
        let z := ({ y with fcu := { y.fcu with wins := Tab.del y.fcu.wins i } } : Chip).submitRec i 3 (ch.rd (F.FCU_REC_STAT_LEVEL i))
        exec (.fcuAckGo c) s = next ((if ch.liveNow i then z else z.freeRec i).fcuSummary))) ∧
    (∀ i : Fin 256,
      (ch.rd (F.FCU_REC_STAT_CLASS i.val) = 0 ∨ ch.liveNow i.val = true → exec (.faultLiveClear c i) s = .next s) ∧
      (ch.rd (F.FCU_REC_STAT_CLASS i.val) ≠ 0 → ch.liveNow i.val = false →
        (ch.flag (F.FCU_REC_STAT_SEEN i.val) = true →
          exec (.faultLiveClear c i) s = next (ch.setFlag (F.FCU_REC_STAT_LIVE i.val) false)) ∧
        (ch.flag (F.FCU_REC_STAT_SEEN i.val) = false → exec (.faultLiveClear c i) s = next ((ch.freeRec i.val).fcuSummary)))) ∧
    exec (.watchdogKick c .steward) s = next { ch with fcu := { ch.fcu with kicked := ch.now } } ∧
    exec (.watchdogKick c .host) s = next (ch.hifErr 2 false 0x160010) ∧
    (ch.flag F.HIF_STATUS_READY = true → ch.pwr ≠ pwrDoze → ch.fcu.kicked + ch.rd F.FCU_WDOG_PERIOD * 1000000 ≤ ch.now →
      exec (.stewardWatchdogExpiry c) s = next (ch.raise 25 (source 229 0) ch.fab.steward.core.pc)) ∧
    (ch.flag F.HIF_STATUS_READY = false ∨ ch.pwr = pwrDoze ∨ ch.now < ch.fcu.kicked + ch.rd F.FCU_WDOG_PERIOD * 1000000 →
      exec (.stewardWatchdogExpiry c) s = .next s) ∧
    (ch.flag F.HIF_STATUS_READY = true → exec (.lockstepSelftest c false) s =
      next (ch.raise 27 (source 229 0) ch.fab.steward.core.pc)) ∧
    (ch.flag F.HIF_STATUS_READY = true → exec (.lockstepSelftest c true) s =
      next { ch with fab := { ch.fab with steward := { ch.fab.steward with selftest := ch.fab.steward.selftest + 1 } } }) ∧
    (ch.flag F.HIF_STATUS_READY = false → ∀ ok, exec (.lockstepSelftest c ok) s = .next s) ∧
    (let row := ch.rd F.FCU_INJECT_ROW
     let src := ch.rd F.FCU_INJECT_SOURCE
     (ch.develop = true → 1 ≤ row → row ≤ 34 → srcReal src = true → exec (.faultInject c) s = next (ch.raise row src 0)) ∧
     (ch.develop = false ∨ row = 0 ∨ 34 < row ∨ srcReal src = false → exec (.faultInject c) s = .next s))

/-- R543 to R555 and R558: the arrival of a flit of each kind. -/
def Obligations.TrailFlits : Prop :=
  ∀ (s : State) (c : ChipId) (l : Fin 2) (h : FlitHdr) (pl : List Byte), Awake s c →
    let ch := s.chip c
    let k := ch.link l.val
    let next (x : Chip) : Res := .next (s.setChip c x)
    let rows : List (Nat × Nat × Instr) := [(0, 1, .trailTokens c l h pl), (0, 2, .trailClose c l h pl), (1, 1, .trailRead c l h pl),
      (1, 2, .trailWrite c l h pl), (1, 3, .trailAtomic c l h pl), (2, 1, .trailData c l h pl), (2, 2, .wack c l h pl),
      (2, 3, .ares c l h pl), (3, 1, .trailTime c l h pl), (3, 2, .links c l h pl), (3, 5, .mark c l h pl),
      (3, 6, .markAck c l h pl), (3, 7, .sleep c l h pl)]
    let d := (h.seq.toNat + 256 - k.expected) % 256
    let accepted := (((ch.setLink l.val { k with expected := (k.expected + 1) % 256, nak := false }).count64 (F.TRL_FLITS_COUNT l.val)
      (F.TRL_STAT_WRAP l.val) 0 (F.TRL_WRAP_COUNT l.val) (F.TRL_STAT_WRAP_OVF l.val) 0 1).gotAck l.val h.ack.toNat h.nak).gotCredits
      l.val h.cpool.val h.cred.val
    (∀ r ∈ rows,
      (ch.trlState l.val ≠ trlUp → exec r.2.2 s = .next s) ∧
      (ch.trlState l.val = trlUp →
        (d ≠ 0 → d < 128 → exec r.2.2 s = next (ch.setLink l.val { k with nak := true })) ∧ (128 ≤ d → exec r.2.2 s = .next s) ∧
        (d = 0 → h.dest ≠ accepted.pos → h.hop = true →
          exec r.2.2 s = next ((accepted.freeFlit l.val (2 * r.1 + 1)).trailDrop l.val 1)) ∧
        (d = 0 → h.dest ≠ accepted.pos → h.hop = false →
          exec r.2.2 s = next (accepted.relay l.val ⟨r.1, r.2.1, h, padTo 56 pl⟩)))) ∧
    (ch.trlState l.val = trlUp → d = 0 → exec (.trailIdle c l h pl) s = next accepted) ∧
    (ch.trlState l.val ≠ trlUp ∨ 128 ≤ d → exec (.trailIdle c l h pl) s = .next s) ∧
    (ch.trlState l.val = trlUp → d ≠ 0 → d < 128 → exec (.trailIdle c l h pl) s = next (ch.setLink l.val { k with nak := true })) ∧
    (ch.trlState l.val = trlUp → d = 0 → h.dest = accepted.pos →
      let p := padTo 56 pl
      let at' (vc : Nat) : Chip := accepted.freeFlit l.val (2 * vc + bnat h.hop)
      let tag := fieldAt p 2 2
      let src := fieldAt p 7 1 % 4
      let target := fieldAt p 8 8
      exec (.trailTokens c l h pl) s = next ((List.range (min 3 (fieldAt p 48 1))).foldl
        (fun x i => x.trailToken (BitVec.ofNat 128 (fieldAt p (16 * i) 16))) (at' 0)) ∧
      (let lodge (x : Chip) (i : Nat) : Chip :=
         let n := fieldAt p (8 * i) 8
         match (x.graphOf (bits n 0 4)).bind fun g => (g.loops[bits n 8 16]?).bind fun e => g.place[e.1]? with
         | some w => if w.chip = x.pos.val then
             x.setInn w.pack { x.inn w.pack with notices := (x.inn w.pack).notices ++ [(bits n 0 4, bits n 8 16, bits n 24 10)] }
           else x
         | none => x
       exec (.trailClose c l h pl) s = next ((List.range (min 6 (fieldAt p 48 1))).foldl lodge (at' 0))) ∧
      ((at' 1).descAddr none target (fieldAt p 4 2) = none → exec (.trailRead c l h pl) s =
        next ((at' 1).sendFlit src 2 1 (respPayload false tag 0 0 1 []))) ∧
      (∀ a, (at' 1).descAddr none target (fieldAt p 4 2) = some a →
        let len := fieldAt p 4 2
        exec (.trailRead c l h pl) s = next ((List.range ((len + 47) / 48)).foldl (fun (x : Chip) i =>
          let n := min 48 (len - 48 * i)
          x.sendFlit src 2 1 (respPayload (x.anyPoison (a + 48 * i) n) tag (48 * i) n 0 (x.bytes (a + 48 * i) n))) (at' 1))) ∧
      (let w := min 40 (fieldAt p 4 2)
       let key := (src, tag)
       let rest (x : Chip) := x.trail.badWrites.filter fun e => e != key
       let ack (x : Chip) (bad : Bool) : Chip := (x.setTrail fun t => { t with badWrites := rest x }).sendFlit src 2 2
         (respPayload false tag 0 0 (if bad then 1 else 0) [])
       let kept (x : Chip) : Chip := x.setTrail fun t => { t with badWrites := rest x ++ [key] }
       (∀ a, (at' 1).descAddr none target w = some a →
         let y := (at' 1).store a ((p.drop 16).take w) (bit (fieldAt p 1 1) 0)
         let bad := (at' 1).trail.badWrites.contains key
         (bit (fieldAt p 1 1) 1 = true → exec (.trailWrite c l h pl) s = next (ack y bad)) ∧
         (bit (fieldAt p 1 1) 1 = false → bad = true → exec (.trailWrite c l h pl) s = next (kept y)) ∧
         (bit (fieldAt p 1 1) 1 = false → bad = false → exec (.trailWrite c l h pl) s = next y)) ∧
       ((at' 1).descAddr none target w = none →
         (bit (fieldAt p 1 1) 1 = true → exec (.trailWrite c l h pl) s = next (ack (at' 1) true)) ∧
         (bit (fieldAt p 1 1) 1 = false → exec (.trailWrite c l h pl) s = next (kept (at' 1))))) ∧
      (∀ a, (at' 1).descAddr none target 8 = some a → a % 8 = 0 → fieldAt p 6 1 ≤ 8 →
        let r := (at' 1).latchOp a (fieldAt p 6 1) (BitVec.ofNat 64 (fieldAt p 16 8)) (BitVec.ofNat 64 (fieldAt p 24 8))
          (bit (fieldAt p 1 1) 0)
        exec (.trailAtomic c l h pl) s = next (r.2.2.sendFlit src 2 3 (respPayload r.2.1 tag 0 8 0 (toLe 8 r.1.toNat)))) ∧
      (∀ a, (at' 1).descAddr none target 8 = some a → a % 8 ≠ 0 ∨ 8 < fieldAt p 6 1 → exec (.trailAtomic c l h pl) s =
        next ((at' 1).sendFlit src 2 3 (respPayload false tag 0 0 1 []))) ∧
      ((at' 1).descAddr none target 8 = none → exec (.trailAtomic c l h pl) s =
        next ((at' 1).sendFlit src 2 3 (respPayload false tag 0 0 1 []))) ∧
      ((at' 2).dmaReq tag = none → exec (.trailData c l h pl) s = next (at' 2) ∧ exec (.wack c l h pl) s = next (at' 2) ∧
        exec (.ares c l h pl) s = next (at' 2)) ∧
      (∀ r, (at' 2).dmaReq tag = some r →
        let poison := bit (fieldAt p 1 1) 0
        let n := min 48 (fieldAt p 6 1)
        (fieldAt p 7 1 = 1 → exec (.trailData c l h pl) s = next ((at' 2).dmaAnswer tag 0 true false) ∧
          exec (.ares c l h pl) s = next ((at' 2).dmaAnswer tag 0 true false) ∧
          exec (.wack c l h pl) s = next ((at' 2).dmaAnswer tag r.left true false)) ∧
        (fieldAt p 7 1 ≠ 1 →
          exec (.trailData c l h pl) s = next (((at' 2).store (r.dst + fieldAt p 4 2) ((p.drop 8).take n) poison).dmaAnswer tag n false
            poison) ∧
          exec (.ares c l h pl) s = next (((at' 2).store r.dst ((p.drop 8).take 8) poison).dmaAnswer tag r.left false poison) ∧
          exec (.wack c l h pl) s = next ((at' 2).dmaAnswer tag r.left false false))) ∧
      exec (.trailTime c l h pl) s = next ((at' 3).timeFlit l.val p) ∧
      exec (.links c l h pl) s = next ((at' 3).linksFlit l.val p) ∧
      exec (.mark c l h pl) s = next ((at' 3).sendFlit (fieldAt p 1 1 % 4) 3 6 (p.take 4)) ∧
      (fieldAt p 2 2 ≠ (at' 3).trail.markSerial → exec (.markAck c l h pl) s = next (at' 3)) ∧
      ((at' 3).trail.marks.contains (fieldAt p 0 1) = false → exec (.markAck c l h pl) s = next (at' 3)) ∧
      (fieldAt p 2 2 = (at' 3).trail.markSerial → (at' 3).trail.marks.contains (fieldAt p 0 1) = true →
        let rest := (at' 3).trail.marks.filter fun v => v != fieldAt p 0 1
        exec (.markAck c l h pl) s =
          next (((at' 3).setTrail fun t => { t with marks := rest, detour := !rest.isEmpty }).routeSync)) ∧
      (let y := (at' 3).wr (F.TRL_STAT_STATE l.val) trlSleep
       exec (.sleep c l h pl) s = next ((y.setLink l.val { y.link l.val with resume := true }).msix 133)))

/-- R541 to R553 and R561: the states of a link. -/
def Obligations.TrailLinks : Prop :=
  ∀ (s : State) (c : ChipId) (l : Fin 2), Live s c →
    let ch := s.chip c
    let k := ch.link l.val
    let st := ch.trlState l.val
    let next (x : Chip) : Res := .next (s.setChip c x)
    (st ≠ trlUp → ∀ b, exec (.trailBadFlit c l b) s = .next s ∧ exec (.flitTransmit c l) s = .next s ∧
      exec (.replayTimeout c l) s = .next s ∧ exec (.timeExchangeSend c l) s = .next s) ∧
    (st = trlUp →
      exec (.trailBadFlit c l .crc) s =
        next (((ch.setLink l.val { k with nak := true }).count (F.TRL_CRC_COUNT l.val) (F.TRL_STAT_OVF l.val) 0).raise 16
          (source (273 + l.val) 0) k.expected) ∧
      (∀ q : BitVec 8,
        let d := (q.toNat + 256 - k.expected) % 256
        (d = 0 ∨ 128 ≤ d → exec (.trailBadFlit c l (.sequence q)) s = .next s) ∧
        (d ≠ 0 → d < 128 → exec (.trailBadFlit c l (.sequence q)) s = next (ch.setLink l.val { k with nak := true }))) ∧
      (∀ (x : FlitHdr) (vc : Fin 4) (kind : Fin 8),
        let d := (x.seq.toNat + 256 - k.expected) % 256
        let accepted := (((ch.setLink l.val { k with expected := (k.expected + 1) % 256, nak := false }).count64
          (F.TRL_FLITS_COUNT l.val) (F.TRL_STAT_WRAP l.val) 0 (F.TRL_WRAP_COUNT l.val) (F.TRL_STAT_WRAP_OVF l.val) 0 1).gotAck l.val
          x.ack.toNat x.nak).gotCredits l.val x.cpool.val x.cred.val
        (kindListed vc.val kind.val = true → exec (.trailBadFlit c l (.unlisted x vc kind)) s = .next s) ∧
        (kindListed vc.val kind.val = false → d = 0 → exec (.trailBadFlit c l (.unlisted x vc kind)) s =
          next ((accepted.freeFlit l.val (2 * vc.val + bnat x.hop)).trailDrop l.val 1))) ∧
      (∀ f rest, k.resend = f :: rest →
        let g : Flit := { f with hdr := { f.hdr with ack := BitVec.ofNat 8 (k.expected + 255), nak := k.nak } }
        exec (.flitTransmit c l) s = next ((ch.setLink l.val { k with
          resend := rest, nakTime := if k.nak then some ch.now else k.nakTime }).emit (.flit l.val (flitWire g)))) ∧
      (∀ v f q, k.resend = [] → k.replay.length < 128 → k.choose = some v → k.ready v = some (f, q) →
        let waited := (List.range 4).map fun u => if u != v && (k.ready u).isSome then (k.waited[u]?).getD 0 + 1 else 0
        let y := (ch.setLink l.val { k with
          queues := updAt k.queues v fun _ => q
          credits := updAt k.credits (2 * v + bnat f.hdr.hop) (· - 1)
          waited := waited }).launch l.val f
        (f.hdr.hop = false → exec (.flitTransmit c l) s = next y) ∧
        (f.hdr.hop = true → exec (.flitTransmit c l) s = next (y.freeFlit (1 - l.val) (2 * v)))) ∧
      (k.resend = [] → 128 ≤ k.replay.length → exec (.flitTransmit c l) s = .next s) ∧
      (k.resend = [] → k.replay.length < 128 → k.choose = none → exec (.flitTransmit c l) s =
        next ((ch.setLink l.val { k with waited := [0, 0, 0, 0] }).launch l.val idleFlit)) ∧
      (k.replay = [] → exec (.replayTimeout c l) s = .next s) ∧
      (k.replay ≠ [] → k.resends < 4 → exec (.replayTimeout c l) s =
        next ((ch.setLink l.val { k with resend := k.replay, resends := k.resends + 1 }).count (F.TRL_REPLAY_COUNT l.val)
          (F.TRL_STAT_OVF l.val) 1)) ∧
      (k.replay ≠ [] → 4 ≤ k.resends → exec (.replayTimeout c l) s = next (ch.retrain l.val)) ∧
      (ch.rd F.TRL_GCFG_TIME_MS = 0 → exec (.timeExchangeSend c l) s = .next s) ∧
      (ch.rd F.TRL_GCFG_TIME_MS ≠ 0 → exec (.timeExchangeSend c l) s =
        next (ch.queueFlit l.val ⟨3, 1, newHdr (ch.neighbour l.val) false, zeros 56⟩))) ∧
    exec (.linksBroadcast c) s = next ch.sendLinks ∧
    (∀ lane lock errs,
      (st = trlOff ∨ st = trlSleep ∨ st = trlDown → exec (.laneFailure c l lane lock errs) s = .next s) ∧
      (st = trlUp ∨ st = trlTrain ∨ st = trlRetrain →
        let y := ch.countN (F.TRL_LANE_ERR_COUNT l.val) (F.TRL_STAT_OVF l.val) 4 errs
        (lock = true → errs < 16 → exec (.laneFailure c l lane lock errs) s = next y) ∧
        (lock = false ∨ 16 ≤ errs → exec (.laneFailure c l lane lock errs) s = next (y.retrain l.val)))) ∧
    (st = trlUp →
      let y := (ch.wr (F.TRL_STAT_STATE l.val) trlRetrain).count (F.TRL_RETRAIN_COUNT l.val) (F.TRL_STAT_OVF l.val) 2
      exec (.trailRetrain c l) s = next ((y.setLink l.val { y.link l.val with attempts := 1, resume := true }).msix 133)) ∧
    (st ≠ trlUp → exec (.trailRetrain c l) s = .next s) ∧
    (∀ (lanes : BitVec 4) resume exp,
      (ch.training l.val = false → exec (.trainComplete c l lanes resume exp) s = .next s) ∧
      (lanes ≠ 15 → lanes ≠ 3 → lanes ≠ 12 → exec (.trainComplete c l lanes resume exp) s = .next s) ∧
      exec (.trainComplete c l lanes resume exp) s = next (ch.trained l.val lanes.toNat resume exp.toNat)) ∧
    (st ≠ trlTrain → st ≠ trlRetrain → exec (.trainAttemptTimeout c l) s = .next s) ∧
    (st = trlTrain ∨ st = trlRetrain →
      (k.attempts < 3 → exec (.trainAttemptTimeout c l) s = next (ch.setLink l.val { k with attempts := k.attempts + 1 })) ∧
      (3 ≤ k.attempts → exec (.trainAttemptTimeout c l) s = next (ch.linkDown l.val))) ∧
    (st ≠ trlDown → exec (.linkDownRetry c l) s = .next s) ∧
    (st = trlDown →
      let y := ch.wr (F.TRL_STAT_STATE l.val) trlTrain
      exec (.linkDownRetry c l) s = next ((y.setLink l.val { y.link l.val with attempts := 1 }).msix 133))

/-- R31, R49 to R51, R121, R618 to R640 and R683: power, resets and Doze. -/
def Obligations.PowerAndDoze : Prop :=
  ∀ (s : State) (c : ChipId),
    let ch := s.chip c
    let t := s.tray
    let pins (p : BootPins) : State := s.modTray fun t => { t with pins := p }
    (∀ p, (t.power = .off → exec (.powerValid p) s = .next ((pins p).coldStart validTime rstCold false)) ∧
      (t.power ≠ .off → exec (.powerValid p) s = .next s) ∧
      (t.power = .held → exec (.powerRestore p) s = .next ((pins p).coldStart validTime rstCold false)) ∧
      (t.power ≠ .held → exec (.powerRestore p) s = .next s)) ∧
    (∀ mv : BitVec 16,
      (t.power = .powered → mv.toNat < 10400 ∨ 13600 < mv.toNat → exec (.powerFault mv) s =
        .next ((((chipIds.foldl (fun (t : State) c => t.warmReset c rstBupin) s).modTray fun x =>
          ({ x with power := .held } : Tray).logGen 2 0xFF (toLe 2 mv.toNat))).supplySync)) ∧
      (t.power ≠ .powered → exec (.powerFault mv) s = .next s) ∧
      (10400 ≤ mv.toNat → mv.toNat ≤ 13600 → exec (.powerFault mv) s = .next s)) ∧
    (t.power = .held → exec .powerLoss s = .next (s.modTray fun t => { t with power := .off })) ∧
    (t.power ≠ .held → exec .powerLoss s = .next s) ∧
    (∀ (n : Fin 13) x, t.supplies[n.val]? = some x →
      (x.st = supOn → exec (.supplyTrip n) s = .next (s.modTray fun t =>
        ({ t with supplies := updAt t.supplies n.val fun x => { x with st := supTripped } } : Tray).logGen 4 0xFF (toLe 1 n.val))) ∧
      (x.st ≠ supOn → exec (.supplyTrip n) s = .next s)) ∧
    exec (.perstAssert c) s = .next ((s.modBup c fun b => { b with perst := true }).warmReset c rstPerst) ∧
    exec (.flr c) s = .next (s.warmReset c rstFlr) ∧ (ch.inReset = true → exec (.flr c) s = .next s) ∧
    (∀ bad, (s.mayRelease c = false → exec (.chipResetRelease c bad) s = .next s) ∧
      (s.mayRelease c = true →
        let u := (s.modBup c fun b => { b with perst := false, hot := 0, memCap := 0 }).modChip c fun x =>
          x.leaveReset s.tray (bad.map (·.val))
        exec (.chipResetRelease c bad) s = .next ((logRanks c s u).supplyFollow c))) ∧
    (ch.hif.state = .starting → ch.flag F.MEM_GSTAT_WIPE_DONE = true → ch.timeAligned = true → t.lcs ≠ 4 →
      exec (.firmwareReady c) s = .next ((s.modChip c Chip.firmwareUp).readied c)) ∧
    (ch.hif.state ≠ .starting ∨ ch.flag F.MEM_GSTAT_WIPE_DONE = false ∨ ch.timeAligned = false ∨ t.lcs = 4 →
      exec (.firmwareReady c) s = .next s) ∧
    (ch.hif.state = .starting →
      let y := ch.cfgDrop
      exec (.romFallback c) s = .next ((s.setChip c ((({ y with hif := { y.hif with state := .rom } } : Chip).wr F.HIF_STATUS_MODE
        0).setFlag F.HIF_STATUS_READY false)).supplyFollow c)) ∧
    (ch.hif.state ≠ .starting → exec (.romFallback c) s = .next s) ∧
    (∀ mv : BitVec 10,
      (650 ≤ mv.toNat ∨ (s.bup c).vcore = true ∨ ch.pwr = pwrDoze ∨ t.power = .off → exec (.vcoreLow c mv) s = .next s) ∧
      (mv.toNat < 650 → (s.bup c).vcore = false → ch.pwr ≠ pwrDoze → t.power ≠ .off →
        let held (u : State) : State := ((u.modBup c fun b => { b with vcore := true }).warmReset c rstBupin).modTray fun x =>
          x.logGen 3 c.val (toLe 2 mv.toNat)
        (ch.inReset = true → exec (.vcoreLow c mv) s = .next (held s)) ∧
        (ch.inReset = false → exec (.vcoreLow c mv) s =
          .next (held (logHalt c s (s.setChip c ((ch.raise 22 (source 280 4) mv.toNat).takeFaults)))))) ∧
      (mv.toNat < 700 → exec (.vcoreRecover c mv) s = .next s) ∧
      (700 ≤ mv.toNat → exec (.vcoreRecover c mv) s = .next (s.modBup c fun b => { b with vcore := false }))) ∧
    (∀ (tr : Transport) (chips : Byte), t.hears tr = true →
      (16 ≤ chips.toNat → exec (.bupinDozeRequest tr chips) s = .next (s.answer tr 5 mgBadReq)) ∧
      (chips.toNat < 16 →
        ((chipsOf chips.toNat).all (fun d => (s.chip d).flag F.HIF_STATUS_READY && (s.chip d).pwr == pwrRun) = true →
          exec (.bupinDozeRequest tr chips) s =
            .next (((chipsOf chips.toNat).foldl (fun (s : State) d => s.enterDoze d) s).answer tr 5 mgOk)) ∧
        ((chipsOf chips.toNat).all (fun d => (s.chip d).flag F.HIF_STATUS_READY && (s.chip d).pwr == pwrRun) = false →
          exec (.bupinDozeRequest tr chips) s = .next (s.answer tr 5 mgBusy)))) ∧
    (Awake s c → ch.pwr = pwrEntering → ch.flag F.PWR_STATE_DEFER_LIVE = true →
      let limit := ch.dozeAt + (s.chip 0).rd F.PRC_WAKE_DEFER * 1000000
      (s.porchDefers = false ∨ limit ≤ ch.now → exec (.dozeDeferTimeout c) s = .next (s.setChip c ch.endDefer)) ∧
      (s.porchDefers = true → ch.now < limit → exec (.dozeDeferTimeout c) s = .next s)) ∧
    (ch.flag F.PWR_STATE_DEFER_LIVE = false → exec (.dozeDeferTimeout c) s = .next s) ∧
    (ch.pwr ≠ pwrEntering → exec (.dozeDeferTimeout c) s = .next s) ∧
    (ch.inReset = true ∨ ch.dozeReady = false ∨ t.auth.isSome = true → exec (.dozeCommit c) s = .next s) ∧
    (ch.inReset = false → ch.dozeReady = true → t.auth = none →
      let sp := (List.range 12).foldl (fun (x : Chip) p => x.innDo p fun x => x.dozeSpill p) ch
      ((List.range 12).all (fun p => (sp.inn p).spillWait.isEmpty) = true →
        exec (.dozeCommit c) s = .next (s.setChip c sp.dozeDown).supplySync) ∧
      ((List.range 12).all (fun p => (sp.inn p).spillWait.isEmpty) = false → exec (.dozeCommit c) s = .next s)) ∧
    exec .hostWake s = .next (s.wake chipIds 3) ∧
    ((s.chip 0).media.porch.raised = false → exec .porchWake s = .next s) ∧
    ((s.chip 0).media.porch.raised = true → chipIds.any (fun d => !(s.chip d).inReset && (s.chip d).pwr == pwrDoze) = false →
      exec .porchWake s =
        .next ((s.modChip 0 fun x => x.setPorch { x.media.porch with raised := false }).wake chipIds 1)) ∧
    ((s.chip 0).media.porch.raised = true → chipIds.any (fun d => !(s.chip d).inReset && (s.chip d).pwr == pwrDoze) = true →
      exec .porchWake s = .next (((s.modChip 0 fun x => x.setPorch { x.media.porch with raised := false }).wake chipIds 1).modTray
        Tray.pulseWake)) ∧
    (let w := ch.rd F.PWR_DOZE_TIMER_WAKE_AT
     (ch.inReset = false → w ≠ 0 → w ≤ t.now → t.power ≠ .off → exec (.bupinTimerWake c) s = .next (s.timerFires c)) ∧
     (w = 0 ∨ t.now < w ∨ ch.inReset = true ∨ t.power = .off → exec (.bupinTimerWake c) s = .next s)) ∧
    (ch.inReset = false → ch.pwr = pwrWaking → exec (.wakeComplete c) s =
      .next (logRanks c s (s.modChip c Chip.wakeDone)).supplySync) ∧
    (ch.inReset = true ∨ ch.pwr ≠ pwrWaking → exec (.wakeComplete c) s = .next s)

/-- R635, R642, R646 to R652, R462, R463, R670 and R685: critical commands and their effects. -/
def Obligations.CriticalCommands : Prop :=
  ∀ (s : State),
    let t := s.tray
    let kind (n : Nat) (b : List Byte) : Bool := cmdOf b == n
    (∀ tr block, (t.hears tr = false → exec (.secureLogRead tr block) s = .next s) ∧
      (t.hears tr = true →
        let u := s.modTray fun t => { t with mctp := t.mctp ++ [MctpCmd.mk (isUart tr) true block] }
        (u.tray.sources.find? (fun x => u.hasCritical x) ≠ some 4 → exec (.secureLogRead tr block) s = .next u) ∧
        (u.tray.sources.find? (fun x => u.hasCritical x) = some 4 → exec (.secureLogRead tr block) s =
          .next (u.serveCritical ⟨.none, false, []⟩)))) ∧
    (∀ res,
      exec (.critical none res) s = .next (s.serveCritical res) ∧
      (∀ tr block, t.hears tr = false → exec (.critical (some (tr, block)) res) s = .next (s.serveCritical res)) ∧
      (∀ tr block, t.hears tr = true → exec (.critical (some (tr, block)) res) s =
        .next ((s.modTray fun t => { t with mctp := t.mctp ++ [MctpCmd.mk (isUart tr) false block] }).serveCritical res))) ∧
    (∀ res (c : ChipId) n d, t.auth = none → (∀ a ∈ t.accepted, cmdOf a.2 ≠ 4) → t.power ≠ .off →
      (∀ (e : ChipId) m q, (s.chip e).nextCritical = some (m, q) → critStatus q = none) →
      t.sources.find? (fun x => s.hasCritical x) = some c.val → (s.chip c).nextCritical = some (n, d) →
      exec (.critical none res) s = .next (s.handChip c n d res)) ∧
    (∀ res, t.auth.isSome = true → (∀ c : ChipId, (s.chip c).nextCritical = none) → exec (.critical none res) s = .next s) ∧
    (∀ (m : MctpCmd) rest res, t.auth = none → t.accepted = [] → t.power ≠ .off → t.mctp = m :: rest →
      (∀ c : ChipId, (s.chip c).nextCritical = none) → exec (.critical none res) s =
        .next (s.modTray fun t => ({ t with mctp := rest } : Tray).handOver 4 none m.secure m.uart m.cmd).mirror) ∧
    (t.auth = none ∨ t.power = .off → exec .criticalComplete s = .next s) ∧
    (∀ a : AuthRun, t.auth = some a → t.power ≠ .off → a.secure = true →
      let refused := (s.modTray fun t => ({ t with auth := none } : Tray).logRefusal a.src 0 1 (cmdCounter a.cmd) a.reason).mirror
      let done := if a.reason = 0 then (s.modTray fun t => { t with auth := none }).mirror else refused
      a.ring = none → a.src = 4 → exec .criticalComplete s = .next (done.modTray fun t => t.authReply a)) ∧
    (∀ a : AuthRun, t.auth = some a → t.power ≠ .off → a.secure = false →
      let refused := (s.modTray fun t => ({ t with auth := none } : Tray).logRefusal a.src (cmdOf a.cmd) (cmdSlot a.cmd)
        (cmdCounter a.cmd) a.reason).mirror
      let kept := (s.modTray fun t => { t with
        auth := none, accepted := t.accepted ++ [(a.src, a.cmd)], lcsTime := if cmdOf a.cmd = 1 then t.now else t.lcsTime }).mirror
      let done := if a.reason = 0 then kept else refused
      (∀ n i, a.ring = some (n, i) → exec .criticalComplete s =
        .next (done.modChip (Fin.ofNat 4 a.src) fun x => x.authDone n i (a.reason == 0))) ∧
      (a.ring = none → a.src = 4 → exec .criticalComplete s = .next (done.modTray fun t => t.authReply a)) ∧
      (a.ring = none → a.src ≠ 4 → exec .criticalComplete s = .next done)) ∧
    ((s.takeAccepted (kind 1)) = none → exec .lifecycle s = .next s) ∧ ((s.takeAccepted (kind 3)) = none → exec .motionEnable s = .next s) ∧
    ((s.takeAccepted (kind 4)) = none → exec .keyRotate s = .next s) ∧ ((s.takeAccepted (kind 5)) = none → exec .debugUnlock s = .next s) ∧
    ((s.takeAccepted (kind 6)) = none → exec .pixelTap s = .next s) ∧
    (∀ b u, s.takeAccepted (kind 1) = some (b, u) → exec .lifecycle s =
      .next ((((u.modTray fun t => { t with lcsTarget := some (fieldAt (cmdPayload b) 0 1) }).mirror).modAll fun _ x =>
        if !x.inReset && x.pwr == pwrRun then x.msix 130 else x).modChip 0 fun x => if x.inReset then x else x.beginDisable)) ∧
    (t.lcsTarget = none ∨ t.power ≠ .powered → exec .lifecycleReset s = .next s) ∧
    (∀ x, t.lcsTarget = some x → t.power = .powered → exec .lifecycleReset s =
      .next ((s.modTray fun t => (({ t with lcs := x } : Tray).erase x).logGen 11 0xFF (toLe 1 t.lcs ++ toLe 1 x)).coldStart 0 rstLife
        false)) ∧
    (∀ b u, s.takeAccepted (kind 4) = some (b, u) → exec .keyRotate s =
      .next (u.modTray fun x => { x with keys := updAt x.keys (fieldAt (cmdPayload b) 0 1) fun _ => some (x.unwrapped b) }).mirror) ∧
    (∀ b u, s.takeAccepted (kind 5) = some (b, u) → exec .debugUnlock s =
      .next ((u.eachChip (chipsOf (fieldAt (cmdPayload b) 0 1)) fun x => if x.inReset then x
        else x.setFlag F.PWR_BUP_DEBUG_OPEN (fieldAt (cmdPayload b) 1 1 == 1)).modTray fun t =>
          t.logGen 14 0xFF ((cmdPayload b).take 2))) ∧
    (∀ b u, s.takeAccepted (kind 6) = some (b, u) → exec .pixelTap s =
      .next (u.eachChip (chipsOf (fieldAt (cmdPayload b) 0 1)) fun x => if x.inReset then x
        else { x with pixelTap := fieldAt (cmdPayload b) 1 1 == 1 })) ∧
    (∀ b u, s.takeAccepted (kind 3) = some (b, u) → (u.chip 0).inReset = true ∨ (u.chip 0).halted = true →
      exec .motionEnable s = .next u) ∧
    (∀ b u, s.takeAccepted (kind 3) = some (b, u) → (u.chip 0).inReset = false → (u.chip 0).halted = false →
      let ch := u.chip 0
      let heads := fieldAt (cmdPayload b) 0 1
      let active := ch.rd F.COA_STAT_ROLE == roleActive || (ch.sen.fromE2 && (u.chip 2).rd F.COA_STAT_ROLE == roleActive)
      let r := ch.motionCheck active heads (fieldAt (cmdPayload b) 4 4)
      let y := ch.wr F.SEN_STAT_EN_RESULT r
      let both (x : Chip) : Res := .next (if x.sen.fromE2 = true ∧ x.inReset = false ∧ x.halted = false ∧ x.rd F.SEN_STAT_EN_RESULT = 0
        then (u.setChip 0 x).modChip 2 fun z => z.partnerEnable x heads else u.setChip 0 x)
      (heads = 0 → exec .motionEnable s = both (((ch.wr F.SEN_STAT_EN_RESULT 0).beginDisable).motionStatus 0xFF 2 ch.now)) ∧
      (heads ≠ 0 → r = 0 → exec .motionEnable s = both ((y.enableHeads heads).motionStatus 0xFF 2 (y.enableHeads heads).now)) ∧
      (heads ≠ 0 → r ≠ 0 → exec .motionEnable s = both (y.motionStatus 0xFF 2 y.now)))

/-- R653 to R662 and R669 to R673: firmware and configuration. -/
def Obligations.FirmwareAndConfig : Prop :=
  ∀ (s : State) (c : ChipId),
    let ch := s.chip c
    let t := s.tray
    let kind (n : Nat) (b : List Byte) : Bool := cmdOf b == n
    let mode (n : Nat) (b : List Byte) : Bool := cmdOf b == 7 && fieldAt (cmdPayload b) 0 1 == n
    (s.takeAccepted (kind 2) = none → exec .fwActivate s = .next s) ∧
    (∀ b u, s.takeAccepted (kind 2) = some (b, u) →
      let k := fieldAt (cmdPayload b) 0 1
      let err := u.tray.activateErr k (((cmdPayload b).drop 8).take 32)
      (∀ e, err = some e → exec .fwActivate s = .next (u.fwuAll fun x => x.orBit F.FWU_ERR_ERR e)) ∧
      (err = none →
        let y := (u.modTray fun t => { t.pend k with cycleDue := fieldAt (cmdPayload b) 1 1 == 1 && !t.recovery }).mirror
        (y.tray.recovery = false ∨ y.tray.power ≠ .powered → exec .fwActivate s = .next y) ∧
        (y.tray.recovery = true → y.tray.power = .powered → exec .fwActivate s = .next (y.coldStart 0 rstCold true)))) ∧
    (t.cycleDue = true → t.power = .powered → exec .activationPowerCycle s = .next (s.coldStart 0 rstCold false)) ∧
    (t.cycleDue = false ∨ t.power ≠ .powered → exec .activationPowerCycle s = .next s) ∧
    (let st := ch.rd F.FWU_STAT_STATE
     let b := ch.rd F.FWU_CTL_BANK
     let len := ch.rd F.FWU_LEN_BYTES
     let src := ch.rd F.FWU_SRC_ADDR
     (ch.inReset = true ∨ st = fwWriting ∨ st = fwVerifying → exec (.fwuGo c) s = .next s) ∧
     (ch.inReset = false → st ≠ fwWriting → st ≠ fwVerifying →
       (b = t.running → exec (.fwuGo c) s = .next (s.setChip c (ch.fwuState fwFailed (some feSelf)))) ∧
       (b ≠ t.running → t.staging.isSome = true ∨ t.trial.isSome = true →
         exec (.fwuGo c) s = .next (s.setChip c (ch.fwuState st (some feBusy)))) ∧
       (b ≠ t.running → t.staging = none → t.trial = none →
         (len = 0 ∨ 16 * MiB < len ∨ src % 64 ≠ 0 → exec (.fwuGo c) s = .next (s.setChip c (ch.fwuState fwFailed (some feLen)))) ∧
         (0 < len → len ≤ 16 * MiB → src % 64 = 0 → exec (.fwuGo c) s =
           .next ((s.modTray fun t => t.stage b (some c) false).mirror.modChip c fun x =>
             (x.wr F.FWU_STAT_STATE fwWriting).hostRead .container src len))))) ∧
    ((∀ g, t.staging = some g → g.chip ≠ some c) → exec (.fwuAbort c) s = .next s ∧
      ∀ res flash, exec (.fwuWriteComplete c res flash) s = .next s) ∧
    (∀ g, t.staging = some g → g.chip = some c →
      exec (.fwuAbort c) s = .next ((s.modTray Tray.stageFail).mirror.modChip c fun x =>
        (x.dropReads .container).fwuState fwFailed (some feAbort)) ∧
      (g.verifying = true → ∀ res flash, exec (.fwuWriteComplete c res flash) s = .next s) ∧
      (g.verifying = false → ∀ res : ReadResult,
        let u := s.modChip c fun x => (x.dropReads .container).readAer res
        (res.fail ≠ .none ∨ res.ep = true → ∀ flash, exec (.fwuWriteComplete c res flash) s =
          .next ((u.modTray Tray.stageFail).mirror.modChip c fun x => x.fwuState fwFailed (some feRead))) ∧
        (res.fail = .none → res.ep = false → exec (.fwuWriteComplete c res false) s =
          .next ((u.modTray Tray.stageFail).mirror.modChip c fun x => x.fwuState fwFailed (some feFlash))) ∧
        (res.fail = .none → res.ep = false → exec (.fwuWriteComplete c res true) s =
          .next ((u.modTray fun t => { t with
            staging := some { g with verifying := true, data := padTo ((u.chip c).rd F.FWU_LEN_BYTES) res.data } }).modChip c fun x =>
              x.wr F.FWU_STAT_STATE fwVerifying)))) ∧
    (t.staging = none ∨ t.power = .off → exec .fwuVerifyComplete s = .next s) ∧
    (∀ g, t.staging = some g → g.verifying = false → exec .fwuVerifyComplete s = .next s) ∧
    (∀ g, t.staging = some g → g.verifying = true → t.power ≠ .off →
      let r := imgReason g.data t.floor [1, 2, 3]
      let kept := (s.modTray fun t => { t.setBank g.bank (Bank.ofImage g.data) with staging := none }).mirror
      let lost := (s.modTray Tray.stageFail).mirror
      (∀ d, g.chip = some d → exec .fwuVerifyComplete s =
        if r = 0 then .next (kept.modChip d fun x => x.fwuState fwStaged none)
        else .next (lost.modChip d fun x => x.fwuState fwFailed (some (fwuErrOf r)))) ∧
      (g.chip = none → exec .fwuVerifyComplete s =
        .next ((if r = 0 then kept else lost).modTray fun t => t.emit (.pldm g.uart 0x17 r [])))) ∧
    (t.trial = none ∨ t.power ≠ .powered → exec .trialSuccess s = .next s ∧ ∀ bad, exec (.trialFailure bad) s = .next s) ∧
    (∀ b, t.trial = some b →
      (t.readied.length ≠ 4 ∨ (∃ d : ChipId, (s.chip d).halted = true) → exec .trialSuccess s = .next s) ∧
      (t.power = .powered → t.readied.length = 4 → (∀ d : ChipId, (s.chip d).halted = false) → exec .trialSuccess s =
        .next (s.modTray fun t =>
          let t := if (t.bank (1 - b)).st = bkActive then t.bankSt (1 - b) bkValid else t
          ({ t.bankSt b bkActive with floor := max t.floor (t.bank b).svn } : Tray).logGen 9 0xFF (toLe 1 b ++ toLe 1 1)
            ).writeMigrated.mirror) ∧
      (t.power = .powered → exec (.trialFailure false) s = .next (s.coldStart 0 rstCold false) ∧
        exec (.trialFailure true) s =
          .next ((s.modTray fun t => (t.nextBank false).setBank b Bank.empty).coldStart 0 rstCold false))) ∧
    (Awake s c → ∀ len : BitVec 25,
      let y : Chip := { ch with hif := { ch.hif with bmLen := len.toNat } }
      (ch.hif.state ≠ .rom ∨ ch.hif.bmState = 1 ∨ ch.hif.bmState = 2 → exec (.bootMailboxGo c len) s = .next (s.setChip c y)) ∧
      (ch.hif.state = .rom → ch.hif.bmState ≠ 1 → ch.hif.bmState ≠ 2 →
        (len.toNat < 512 ∨ 16 * MiB < len.toNat → exec (.bootMailboxGo c len) s = .next (s.setChip c (y.bootRefuse imFormat 0))) ∧
        (512 ≤ len.toNat → len.toNat ≤ 16 * MiB → exec (.bootMailboxGo c len) s =
          .next (s.setChip c { y with hif := { y.hif with bmState := 1, bmReason := 0 } })))) ∧
    (ch.hif.state ≠ .rom ∨ ch.hif.bmState ≠ 1 → exec (.bootVerifyComplete c) s = .next s) ∧
    (ch.hif.state = .rom → ch.hif.bmState = 1 → ch.hif.bmRetired = true → exec (.bootVerifyComplete c) s =
      .next (s.setChip c (ch.bootRefuse imRetired (fieldAt ch.windowImage 8 4)))) ∧
    (ch.hif.state = .rom → ch.hif.bmState = 1 → ch.hif.bmRetired = false →
      let r := imgReason ch.windowImage ch.hif.bmFloor [2]
      let ran := (({ ch with hif := { ch.hif with bmState := 2, bmReason := 0 } } : Chip).cfgApply t).firmwareUp.msix 135
      (r ≠ 0 → exec (.bootVerifyComplete c) s = .next (s.setChip c (ch.bootRefuse r (fieldAt ch.windowImage 8 4)))) ∧
      (r = 0 → ch.flag F.MEM_GSTAT_WIPE_DONE = false ∨ ch.timeAligned = false → exec (.bootVerifyComplete c) s = .next s) ∧
      (r = 0 → ch.flag F.MEM_GSTAT_WIPE_DONE = true → ch.timeAligned = true → exec (.bootVerifyComplete c) s =
        .next (((s.setChip c ran).readied c).supplyFollow c))) ∧
    (∀ (w : Bool), s.takeAccepted (mode 1) = none → exec (.cfgCommit w) s = .next s) ∧
    (∀ (w : Bool) b u, s.takeAccepted (mode 1) = some (b, u) → exec (.cfgCommit w) s = .next (u.commit (fieldAt (cmdPayload b) 4 4) w)) ∧
    (s.takeAccepted (mode 2) = none → exec .cfgOpen s = .next s) ∧
    (∀ b u, s.takeAccepted (mode 2) = some (b, u) →
      let busy := chipIds.any fun d => ((List.range 16).any fun k => ((u.chip d).slot k).st != .empty) || !(u.chip d).media.streams.isEmpty
      (busy = true → exec .cfgOpen s = .next (u.cfgResult cfBusy)) ∧
      (busy = false → exec .cfgOpen s = .next ((u.modAll fun _ x => if x.inReset then x
        else x.setFlag F.CFG_STAT_LOCKED false).cfgResult cfOk)))

/-- R622, R674 to R680, R687 and R690: the management messages of the Bupin. -/
def Obligations.ManagementMessages : Prop :=
  ∀ (s : State) (tr : Transport),
    let t := s.tray
    let say (e : Emit) : Res := .next (s.modTray fun t => t.emit e)
    let ans (code st : Nat) : Res := .next (s.answer tr code st)
    exec .uartBadFrame s = .next s ∧
    (t.hears tr = false → ∀ (b b2 b3 b4 b5 : Byte) (w : BitVec 16) (d : Dword) (q : Qword) xs ob od od2 fl,
      exec (.setEndpointId tr b) s = .next s ∧ exec (.identity tr) s = .next s ∧ exec (.logRead tr d b) s = .next s ∧
      exec (.powerWakeRequest tr b) s = .next s ∧ exec (.bupinChipReset tr b) s = .next s ∧ exec (.trayPowerCycle tr b) s = .next s ∧
      exec (.timer tr b q) s = .next s ∧ exec (.pace tr b w) s = .next s ∧ exec (.cci tr b b2 b3 b4 b5 xs ob) s = .next s ∧
      exec (.supply tr w b) s = .next s ∧ exec (.image tr d b xs) s = .next s ∧ exec (.getSensorReading tr w) s = .next s ∧
      exec (.setSensorThresholds tr w od od2) s = .next s ∧ exec (.setEventReceiver tr b) s = .next s ∧
      exec (.pollForPlatformEventMessage tr) s = .next s ∧ exec (.pldmFirmwareUpdate tr fl xs fl) s = .next s ∧
      exec (.activateFirmware tr) s = .next s ∧ exec (.debugHalt tr b) s = .next s) ∧
    (t.hears tr = true → ∀ (b : Byte) (w : BitVec 16) (q : Qword),
      let cs := chipsOf b.toNat
      (1 ≤ b.toNat → b.toNat ≤ 254 → exec (.setEndpointId tr b) s =
        .next (s.modTray fun t => ({ t with eid := b.toNat } : Tray).emit (.pldm (isUart tr) 1 0 [b.toNat])).mirror) ∧
      (b.toNat = 0 ∨ b.toNat = 255 → exec (.setEndpointId tr b) s = say (.pldm (isUart tr) 1 2 [])) ∧
      exec (.identity tr) s = .next (s.modTray fun t => t.reply (isUart tr) 1 mgOk s.identity) ∧
      (∀ index : Dword, (b.toNat = 0 ∨ 32 < b.toNat → exec (.logRead tr index b) s = ans 3 mgBadReq) ∧
        (1 ≤ b.toNat → b.toNat ≤ 32 → exec (.logRead tr index b) s = .next (s.modTray fun t => t.reply (isUart tr) 3 mgOk
          (toLe 4 t.log.next ++ toLe 4 t.log.lost ++ (t.log.read index.toNat b.toNat).flatMap LogEnt.bytes)))) ∧
      (16 ≤ b.toNat → exec (.powerWakeRequest tr b) s = ans 5 mgBadReq ∧ exec (.bupinChipReset tr b) s = ans 5 mgBadReq ∧
        exec (.trayPowerCycle tr b) s = ans 5 mgBadReq ∧ exec (.timer tr b q) s = ans 6 mgBadReq ∧
        exec (.pace tr b w) s = ans 7 mgBadReq) ∧
      (b.toNat < 16 →
        exec (.powerWakeRequest tr b) s = .next ((s.wake cs 5).answer tr 5 mgOk) ∧
        exec (.bupinChipReset tr b) s = .next ((cs.foldl (fun (s : State) c => s.warmReset c rstBupin) s).answer tr 5 mgOk) ∧
        (t.power = .powered → exec (.trayPowerCycle tr b) s = .next ((s.answer tr 5 mgOk).coldStart 0 rstCold false)) ∧
        (t.power ≠ .powered → exec (.trayPowerCycle tr b) s = ans 5 mgNotAllowed) ∧
        (let one (u : State) (c : ChipId) : State := if (u.chip c).inReset = true then u
           else if q.toNat ≠ 0 ∧ q.toNat ≤ u.tray.now then u.timerFires c
           else u.modChip c fun x => x.wr F.PWR_DOZE_TIMER_WAKE_AT q.toNat
         exec (.timer tr b q) s = .next ((cs.foldl one s).answer tr 6 mgOk)) ∧
        (cs = [] → exec (.timer tr b q) s = ans 6 mgOk) ∧
        (∀ c, cs = [c] → (s.chip c).inReset = false → t.now < q.toNat → exec (.timer tr b q) s =
          .next ((s.modChip c fun x => x.wr F.PWR_DOZE_TIMER_WAKE_AT q.toNat).answer tr 6 mgOk)) ∧
        (2047 < w.toNat → exec (.pace tr b w) s = ans 7 mgBadReq) ∧
        (w.toNat ≤ 2047 → exec (.pace tr b w) s = .next ((s.eachChip cs fun x => if x.inReset then x
          else x.wr F.PWR_THERM_DEMAND w.toNat).answer tr 7 mgOk))) ∧
      (∀ (chip port addr wlen rlen : Byte) data answer,
        (4 ≤ chip.toNat ∨ 2 ≤ port.toNat ∨ 128 ≤ addr.toNat ∨ 32 < wlen.toNat ∨ 32 < rlen.toNat →
          exec (.cci tr chip port addr wlen rlen data answer) s = ans 8 mgBadReq) ∧
        (data.length ≠ wlen.toNat → exec (.cci tr chip port addr wlen rlen data answer) s = ans 8 mgBadReq) ∧
        (chip.toNat < 4 → port.toNat < 2 → addr.toNat < 128 → wlen.toNat ≤ 32 → rlen.toNat ≤ 32 → data.length = wlen.toNat →
          let on := (t.supplies[2 * chip.toNat + port.toNat]?).map (·.st)
          let sent := s.modTray fun t => t.emit (.cci chip.toNat port.toNat addr.toNat data)
          (2 ≤ (s.chip (Fin.ofNat 4 chip.toNat)).pwr ∨ on ≠ some supOn →
            exec (.cci tr chip port addr wlen rlen data answer) s = ans 8 mgNotAllowed) ∧
          ((s.chip (Fin.ofNat 4 chip.toNat)).pwr < 2 → on = some supOn →
            (∀ bs, answer = some bs → exec (.cci tr chip port addr wlen rlen data answer) s =
              .next (sent.modTray fun t => t.reply (isUart tr) 8 mgOk (padTo rlen.toNat bs))) ∧
            (answer = none → exec (.cci tr chip port addr wlen rlen data answer) s = .next (sent.answer tr 8 mgBadReq))))) ∧
      (2 ^ 13 ≤ w.toNat ∨ 2 ≤ b.toNat → exec (.supply tr w b) s = ans 10 mgBadReq) ∧
      (let one (x : ConnSupply) : ConnSupply := { x with
         force := some (b.toNat == 1), st := if b.toNat == 1 && x.st == supTripped then supOff else x.st }
       w.toNat < 2 ^ 13 → b.toNat < 2 → exec (.supply tr w b) s =
        .next ((s.modTray fun t => { t with supplies := t.supplies.zipIdx.map fun e => if bit w.toNat e.2 then one e.1 else e.1
          }).supplySync.answer tr 10 mgOk)) ∧
      (∀ d xs, t.recovery = false ∨ t.lcs = 4 → exec (.image tr d b xs) s = ans 16 mgNotAllowed) ∧
      (∀ (d : Dword) (xs : List Byte), t.recovery = true → t.lcs ≠ 4 →
        let img := patch (padTo (max t.image.length d.toNat) t.image) d.toNat xs
        let ended := s.modTray fun t => { t with image := [] }
        (1024 < xs.length ∨ 16 * MiB < d.toNat + xs.length ∨ 2 ≤ b.toNat → exec (.image tr d b xs) s = ans 16 mgBadReq) ∧
        (xs.length ≤ 1024 → d.toNat + xs.length ≤ 16 * MiB → b.toNat = 0 →
          exec (.image tr d b xs) s = .next ((s.modTray fun t => { t with image := img }).answer tr 16 mgOk)) ∧
        (xs.length ≤ 1024 → d.toNat + xs.length ≤ 16 * MiB → b.toNat = 1 →
          (imgReason img t.floor [1, 2, 3] = 0 → exec (.image tr d b xs) s =
            .next (((ended.modTray fun t => t.romWrite img).mirror).answer tr 16 mgOk)) ∧
          (imgReason img t.floor [1, 2, 3] ≠ 0 → exec (.image tr d b xs) s = .next (ended.answer tr 16 mgBadReq)))) ∧
      (∀ r, s.sensor w.toNat = some r → exec (.getSensorReading tr w) s = say (.pldm (isUart tr) 0x11 0 [w.toNat, r.1, r.2])) ∧
      (s.sensor w.toNat = none → exec (.getSensorReading tr w) s = say (.pldm (isUart tr) 0x11 0x80 []) ∧
        ∀ up lo, exec (.setSensorThresholds tr w up lo) s = say (.pldm (isUart tr) 0x12 0x80 [])) ∧
      (∀ r up lo, s.sensor w.toNat = some r →
        (t.warnOk w.toNat 0 up = true → t.warnOk w.toNat 3 lo = true → exec (.setSensorThresholds tr w up lo) s =
          .next (s.modTray fun t => ((t.setWarn w.toNat 0 up).setWarn w.toNat 3 lo).emit (.pldm (isUart tr) 0x12 0 []))) ∧
        (t.warnOk w.toNat 0 up = false ∨ t.warnOk w.toNat 3 lo = false →
          exec (.setSensorThresholds tr w up lo) s = say (.pldm (isUart tr) 0x12 2 []))) ∧
      (1 ≤ b.toNat → b.toNat ≤ 254 → exec (.setEventReceiver tr b) s = .next (s.modTray fun t =>
        (({ t with receiver := some b.toNat } : Tray).alertPin t).emit (.pldm (isUart tr) 4 0 []))) ∧
      (b.toNat = 0 ∨ b.toNat = 255 → exec (.setEventReceiver tr b) s = say (.pldm (isUart tr) 4 2 [])) ∧
      (t.events = [] → exec (.pollForPlatformEventMessage tr) s = say (.pldm (isUart tr) 0x0B 0 [])) ∧
      (∀ e rest, t.events = e :: rest → exec (.pollForPlatformEventMessage tr) s = .next (s.modTray fun t =>
        (({ t with events := rest } : Tray).alertPin t).emit
          (.pldm (isUart tr) 0x0B 0 [(e.id : Nat), (e.threshold : Nat), (bnat e.beyond : Nat), e.value]))) ∧
      (∀ e bank xs flash, t.stageErr (bnat bank) = some e → exec (.pldmFirmwareUpdate tr bank xs flash) s =
        say (.pldm (isUart tr) 0x13 1 [(e : Nat)])) ∧
      (∀ bank flash, t.stageErr (bnat bank) = none → exec (.pldmFirmwareUpdate tr bank [] flash) s =
        say (.pldm (isUart tr) 0x13 1 [(feLen : Nat)])) ∧
      (∀ bank xs flash, t.stageErr (bnat bank) = none → 16 * MiB < xs.length → exec (.pldmFirmwareUpdate tr bank xs flash) s =
        say (.pldm (isUart tr) 0x13 1 [(feLen : Nat)])) ∧
      (∀ bank (xs : List Byte), t.stageErr (bnat bank) = none → xs ≠ [] → xs.length ≤ 16 * MiB →
        exec (.pldmFirmwareUpdate tr bank xs false) s =
          .next ((((s.modTray fun t => t.stage (bnat bank) none (isUart tr)).modTray Tray.stageFail).mirror).modTray fun t =>
            t.emit (.pldm (isUart tr) 0x13 1 [(feFlash : Nat)]))) ∧
      (∀ bank xs, t.stageErr (bnat bank) = none → xs ≠ [] → xs.length ≤ 16 * MiB → exec (.pldmFirmwareUpdate tr bank xs true) s =
        .next ((s.modTray fun t => t.stage (bnat bank) none (isUart tr)).modTray fun t => ({ t with
          staging := t.staging.map fun g => { g with verifying := true, data := xs } } : Tray).emit
            (.pldm (isUart tr) 0x13 0 [])).mirror) ∧
      exec (.activateFirmware tr) s = say (.pldm (isUart tr) 0x1A 0 []))

/-- R48, R679 to R685, R687 and R690: what the Bupin watches, and the debug port. -/
def Obligations.BupinWatchAndDebug : Prop :=
  ∀ (s : State) (c : ChipId) (tr : Transport) (chip : Byte),
    let t := s.tray
    let ch := s.chip c
    let bad := s.debugAnswer tr mgBadReq 0
    (t.power = .off → (∀ mv p r pl, exec (.sensorSample mv p r pl) s = .next s) ∧ (∀ pc, exec (.bupinWatchdog pc) s = .next s)) ∧
    (∀ mv p r pl : BitVec 16, t.power ≠ .off →
      let y := s.modTray fun t =>
        (((({ t with mv12 := mv.toNat, power12 := p.toNat, rpm := r.toNat, plate := pl.toNat } : Tray).sensorNote 13
          mv.toNat).sensorNote 14 p.toNat).sensorNote 15 r.toNat).sensorNote 16 (sgn 16 pl.toNat) |>.alertPin t
      (y.tray.fanLow = false ∨ r.toNat < 1000 → exec (.sensorSample mv p r pl) s = .next y) ∧
      (y.tray.fanLow = true → 1000 ≤ r.toNat → exec (.sensorSample mv p r pl) s =
        .next ((y.modTray fun t => { t with fanLow := false }).modAll fun _ x => x.setFlag F.PWR_THERM_FAN_LOW_LIVE false))) ∧
    (t.power = .powered → exec .thermalPolicyTick s = .next (chipIds.foldl (fun (s : State) c => s.thermChip c) s)) ∧
    (t.power ≠ .powered → exec .thermalPolicyTick s = .next s) ∧
    exec (.chipTripRelease c) s = .next (s.modBup c fun b => { b with trip := false }) ∧
    (t.straps.varAc = true ∨ t.power = .off → exec .fanUpdate s = .next s) ∧
    (t.straps.varAc = false → t.power ≠ .off →
      let hottest := chipIds.foldl (fun (a : Int) d =>
        max a (if (s.chip d).sensed then sgn 16 ((s.chip d).rd F.PWR_TJ_TJ) else sgn 16 (s.bup d).tj)) 0
      exec .fanUpdate s = .next (s.modTray fun t => { t with duty := (clampI 240 800 (240 + (hottest - 960))).toNat })) ∧
    (t.straps.varAc = false → t.power ≠ .off → (∀ d : ChipId, (s.chip d).sensed = true ∧ sgn 16 ((s.chip d).rd F.PWR_TJ_TJ) ≤ 960) →
      exec .fanUpdate s = .next (s.modTray fun t => { t with duty := 240 })) ∧
    (t.straps.varAc = true ∨ t.fanLow = true ∨ 1000 ≤ t.rpm ∨ t.power = .off → exec .fanLow s = .next s) ∧
    (t.straps.varAc = false → t.fanLow = false → t.rpm < 1000 → t.power ≠ .off → exec .fanLow s =
      .next ((s.modTray fun t => ({ t with fanLow := true } : Tray).logGen 13 0xFF (toLe 2 t.rpm)).modAll fun _ x =>
        if x.inReset then x else (x.setFlag F.PWR_THERM_FAN_LOW_LIVE true).therm)) ∧
    (∀ pc : Dword, t.power ≠ .off →
      let u := s.modTray fun t => t.logGen 10 0xFF (toLe 4 pc.toNat)
      (u.tray.trial = none ∨ u.tray.power ≠ .powered → exec (.bupinWatchdog pc) s = .next u) ∧
      (u.tray.trial.isSome = true → u.tray.power = .powered → exec (.bupinWatchdog pc) s = .next (u.coldStart 0 rstCold false))) ∧
    (∀ low, exec (.svPresentChange (.svPresent low)) s = .next (s.modTray fun t => { t with present := low }).mirror) ∧
    (∀ pins : BootPins, exec (.svPresentChange (.straps pins)) s =
      .next (s.modTray fun t => { t with pins := { pins with badA := t.pins.badA, badB := t.pins.badB } })) ∧
    (t.hears tr = true →
      (4 ≤ chip.toNat → exec (.debugHalt tr chip) s = .next bad ∧ exec (.debugStep tr chip) s = .next bad ∧
        exec (.debugResume tr chip) s = .next bad ∧ (∀ a, exec (.debugRead tr chip a) s = .next bad) ∧
        (∀ a v, exec (.debugWrite tr chip a v) s = .next bad)) ∧
      (chip.toNat = c.val → ch.hif.state = .reset ∨ 2 ≤ ch.pwr ∨ ch.flag F.PWR_BUP_DEBUG_OPEN = false →
        let no := s.debugAnswer tr mgNotAllowed 0
        exec (.debugHalt tr chip) s = .next no ∧ exec (.debugStep tr chip) s = .next no ∧ exec (.debugResume tr chip) s = .next no ∧
        (∀ a, exec (.debugRead tr chip a) s = .next no) ∧ (∀ a v, exec (.debugWrite tr chip a v) s = .next no)) ∧
      (chip.toNat = c.val → ch.hif.state ≠ .reset → ch.pwr < 2 → ch.flag F.PWR_BUP_DEBUG_OPEN = true →
        let ok (x : Chip) (v : Nat) : Res := .next ((s.setChip c x).debugAnswer tr mgOk v)
        exec (.debugHalt tr chip) s = ok (ch.setHalted true) 0 ∧ exec (.debugResume tr chip) s = ok (ch.setHalted false) 0 ∧
        (ch.fab.steward.halted = false → exec (.debugStep tr chip) s = .next bad) ∧
        (ch.fab.steward.halted = true → exec (.debugStep tr chip) s =
          .next ((regDone c ch.stewardStep.2 (s.setChip c ch.stewardStep.1)).debugAnswer tr mgOk 0)) ∧
        (∀ a : Qword, ch.dbgQword a.toNat = true →
          (ch.tapHides a.toNat = false → exec (.debugRead tr chip a) s = ok ch (ch.stewLoad a.toNat 8)) ∧
          (ch.tapHides a.toNat = true → exec (.debugRead tr chip a) s = ok ch 0) ∧
          ∀ v : Qword, exec (.debugWrite tr chip a v) s = ok (ch.store a.toNat (toLe 8 v.toNat) false) 0) ∧
        (∀ a : Qword, a.toNat % 8 = 0 → spansIn a.toNat 8 regBase 0x1000000 = true → ch.dbgQword a.toNat = false →
          spansIn a.toNat 8 romBase 0x10000 = false →
          let lo := ch.regRead .steward (a.toNat - regBase)
          let hi := lo.2.regRead .steward (a.toNat - regBase + 4)
          exec (.debugRead tr chip a) s = ok hi.2 (lo.1 + hi.1 * 2 ^ 32)) ∧
        (∀ a v : Qword, devWord a.toNat = true → ch.dbgQword a.toNat = false → exec (.debugWrite tr chip a v) s =
          ok (ch.deviceStore .steward ((a.toNat - devBase) / 8) v false) 0) ∧
        (∀ a : Qword, a.toNat % 8 ≠ 0 → exec (.debugRead tr chip a) s = .next bad)))

/-- R654 for every step of the block, from every state. -/
def Obligations.FloorRisesOnlyBySuccessfulTrials : Prop :=
  State.reset.tray.floor = 0 ∧
  ∀ s t : State, step s = .next t →
    s.tray.floor ≤ t.tray.floor ∧
    (t.tray.floor ≠ s.tray.floor → ∃ rest b, s.pending = .trialSuccess :: rest ∧ s.tray.trial = some b ∧
      s.tray.readied.length = 4 ∧ ∀ c : ChipId, (s.chip c).halted = false) ∧
    (∀ rest b, s.pending = .trialSuccess :: rest → s.tray.trial = some b → s.tray.power = .powered → s.tray.readied.length = 4 →
      (∀ c : ChipId, (s.chip c).halted = false) → t.tray.floor = max s.tray.floor (s.tray.bank b).svn)

/-- R633, R634 and R636 as an invariant of every step. -/
def Obligations.LifeCycleFollowsItsTable : Prop :=
  ∀ s t : State, s.LifeCycleInv → step s = .next t →
    t.LifeCycleInv ∧ (t.tray.lcs = s.tray.lcs ∨ (s.tray.lcs, t.tray.lcs) ∈ lifeCycleTable) ∧ (s.tray.lcs = 4 → t.tray.lcs = 4)

/-- R636 and R647: LAST over every step of the block, from every state. -/
def Obligations.CountersNeverFall : Prop :=
  ∀ s t : State, step s = .next t →
    (∀ i : Nat, (s.tray.last[i]?).getD 0 ≤ (t.tray.last[i]?).getD 0) ∧
    (t.tray.last ≠ s.tray.last →
      (∃ msg res rest, s.pending = .critical msg res :: rest) ∨ (∃ tr b rest, s.pending = .secureLogRead tr b :: rest))

/-- The base of the invariants. BLANK at reset is the model's choice (log entry 3). -/
def Obligations.InvariantsHoldAtReset : Prop :=
  State.reset.LifeCycleInv ∧ State.reset.tray.lcs = 0 ∧ (∀ i : Nat, (State.reset.tray.last[i]?).getD 0 = 0) ∧ State.reset.memWf = true

/-- No command of the table stops the block. -/
def Obligations.EveryCommandAnswersNext : Prop :=
  ∀ (i : Instr) (s : State), ∃ t, exec i s = .next t ∧ t.pending = s.pending

/-- The frame of the commands that `homeOf` places on a chip. -/
def Obligations.CommandsStayOnTheirChip : Prop :=
  ∀ (i : Instr) (s t : State) (c : ChipId), homeOf i = some c → exec i s = .next t →
    SameBut s t c ∧ ((s.chip c).hif.state = .reset → t = s)

/-- R506: what a full-line write stores, and its frame over all of memory. -/
def Obligations.DramLineReadsBack : Prop :=
  ∀ (s : State) (c : ChipId) (line : LineReq) (data : List Byte) (poison : Bool) (p : Nat), Awake s c →
    let ch := s.chip c
    let n := line.line.toNat
    let a := dramBase + 64 * n
    let k := ch.lineChan n
    let x := ch.xing crDomain (256 + k)
    let r : DramReq := ⟨.write n data poison, line.safety, line.link, ch.now⟩
    ch.memRuns = true → 64 * n < ch.usable → ch.mc.failed = [] → data.length = 64 →
    ch.clkRuns k = true → x.st = .run → x.held = [] → x.wait = [] → ch.dramRoom k r = true →
    ch.server (ch.lineAt n).1 (ch.lineAt n).2 = some p →
    let kept (y : Chip) : Prop :=
      (∀ i (h : i < data.length), y.byte (a + i) = data[i]) ∧ (∀ b, b < a ∨ a + 64 ≤ b → y.byte b = ch.byte b) ∧
      y.isPoisoned a = poison ∧ (∀ g, g ≠ a → y.poisoned.contains g = ch.poisoned.contains g)
    ∃ t, exec (.dramWrite c line data poison) s = .next t ∧ SameBut s t c ∧ kept (t.chip c) ∧ r ∈ (t.chip c).wrq k ∧
      (ch.wrq k = [] → kept ((t.chip c).dramIssue k r))
end

