-- ==== Sys2Proof/Laws/Commands.lean ====
section
/-! SUPPORT. Once for each shape of command: what it answers where its chip acts, and that it changes nothing where it does not. -/

namespace Sys2Proof.Machine

open Sys2Proof

/-! ### Chips of the tray -/

/-- A position is 0, 1, 2 or 3. -/
theorem chipId_cases (c : ChipId) : c = 0 ∨ c = 1 ∨ c = 2 ∨ c = 3 := by
  revert c; decide

@[simp] theorem chip_setChip_self (s : State) (c : ChipId) (x : Chip) : (s.setChip c x).chip c = x := by
  obtain rfl | rfl | rfl | rfl := chipId_cases c <;> rfl

theorem chip_setChip_ne (s : State) (c d : ChipId) (x : Chip) (h : d ≠ c) : (s.setChip c x).chip d = s.chip d := by
  obtain rfl | rfl | rfl | rfl := chipId_cases c <;> obtain rfl | rfl | rfl | rfl := chipId_cases d <;>
    first | rfl | exact absurd rfl h

@[simp] theorem setChip_tray (s : State) (c : ChipId) (x : Chip) : (s.setChip c x).tray = s.tray := by
  obtain rfl | rfl | rfl | rfl := chipId_cases c <;> rfl

@[simp] theorem setChip_pending (s : State) (c : ChipId) (x : Chip) : (s.setChip c x).pending = s.pending := by
  obtain rfl | rfl | rfl | rfl := chipId_cases c <;> rfl

@[simp] theorem setChip_self (s : State) (c : ChipId) : s.setChip c (s.chip c) = s := by
  obtain rfl | rfl | rfl | rfl := chipId_cases c <;> rfl

@[simp] theorem setChip_setChip (s : State) (c : ChipId) (x y : Chip) : (s.setChip c x).setChip c y = s.setChip c y := by
  obtain rfl | rfl | rfl | rfl := chipId_cases c <;> rfl

theorem modChip_eq (s : State) (c : ChipId) (f : Chip → Chip) : s.modChip c f = s.setChip c (f (s.chip c)) := rfl

@[simp] theorem modTray_chip (s : State) (f : Tray → Tray) (c : ChipId) : (s.modTray f).chip c = s.chip c := rfl

@[simp] theorem modTray_pending (s : State) (f : Tray → Tray) : (s.modTray f).pending = s.pending := rfl

@[simp] theorem modTray_tray (s : State) (f : Tray → Tray) : (s.modTray f).tray = f s.tray := rfl

@[simp] theorem modAll_chip (s : State) (f : ChipId → Chip → Chip) (c : ChipId) : (s.modAll f).chip c = f c (s.chip c) := by
  obtain rfl | rfl | rfl | rfl := chipId_cases c <;> rfl

@[simp] theorem modAll_tray (s : State) (f : ChipId → Chip → Chip) : (s.modAll f).tray = s.tray := rfl

@[simp] theorem modAll_pending (s : State) (f : ChipId → Chip → Chip) : (s.modAll f).pending = s.pending := rfl

/-! ### Shapes of commands -/

theorem onChip_awake {s : State} {c : ChipId} (h : Awake s c) (f : Chip → Chip) :
    onChip s c f = .next (s.setChip c (f (s.chip c))) := by
  rw [onChip, if_neg h, modChip_eq]

theorem onChip_held {s : State} {c : ChipId} (h : (s.chip c).hif.state = .reset) (f : Chip → Chip) : onChip s c f = .next s := by
  rw [onChip, if_pos h]

theorem onIsland_live {s : State} {c : ChipId} (h : Live s c) (f : Chip → Chip) :
    onIsland s c f = .next (s.setChip c (f (s.chip c))) := by
  rw [onIsland, if_neg fun h' => h'.elim h.1 fun g => absurd h.2 (Nat.not_lt.mpr g), modChip_eq]

theorem onIsland_off {s : State} {c : ChipId} (h : (s.chip c).hif.state = .reset ∨ 2 ≤ (s.chip c).rd F.PWR_STATE_STATE)
    (f : Chip → Chip) : onIsland s c f = .next s := by
  rw [onIsland, if_pos h]

theorem onSentry_live {s : State} {c : ChipId} (h : Live s c) (h0 : (s.chip c).pos.val = 0) (f : Chip → Chip) :
    onSentry s c f = .next (s.setChip c (f (s.chip c))) := by
  rw [onSentry, onIsland_live h, if_pos h0]

theorem onHeld_eq (s : State) (c : ChipId) (f : Chip → Chip) : onHeld s c f = .next (s.setChip c (f (s.chip c))) := rfl

theorem onMem_awake {s : State} {c : ChipId} (h : Awake s c) (f : Chip → Chip) :
    onMem s c f = .next (logRanks c s (s.setChip c (f (s.chip c)))) := by
  rw [onMem, onChip_awake h]

theorem onMgmt_heard {s : State} {tr : Transport} (h : s.tray.hears tr = true) (f : State → State) : onMgmt s tr f = .next (f s) := by
  rw [onMgmt, if_pos h]

theorem onMgmt_deaf {s : State} {tr : Transport} (h : s.tray.hears tr = false) (f : State → State) : onMgmt s tr f = .next s := by
  rw [onMgmt, if_neg (by rw [h]; decide)]

theorem coreCmd_runs {s : State} {c : ChipId} {k : CoreId} (h : Runs s c k) (f : Chip → Chip × RegReq) :
    coreCmd s c k f = .next (regDone c (f ((s.chip c).resumed k)).2 (s.setChip c (f ((s.chip c).resumed k)).1)) := by
  simp only [coreCmd]
  rw [if_neg]
  exact fun h' => h'.elim h.1.1 fun g => g.elim (fun g => absurd h.1.2 (Nat.not_lt.mpr g)) fun g => g h.2

theorem coreAct_runs {s : State} {c : ChipId} {k : CoreId} (h : Runs s c k) (f : Chip → Chip) :
    coreAct s c k f = .next (s.setChip c (f ((s.chip c).resumed k))) := by
  rw [coreAct, coreCmd_runs h]; rfl

theorem onCore_live {s : State} {c : ChipId} (h : Live s c) (k : CoreId) (f : Core → Core) :
    onCore s c k f = .next (s.withCore c k f) := by
  rw [onCore, onIsland_live h]; rfl

end Sys2Proof.Machine
end

