-- ==== Sys2Proof/Laws/State.lean ====
section
/-! SUPPORT. One lemma for each field of a chip and each update: an update leaves every field but its own as it was. Updates of the
tray of four chips are in Commands.lean. -/

namespace Sys2Proof.Machine

open Sys2Proof

/-! ### wr: R10: a register field written -/

@[simp] theorem wr_pos (ch : Chip) (f : Field) (v : Nat) : (ch.wr f v).pos = ch.pos := rfl
@[simp] theorem wr_mem (ch : Chip) (f : Field) (v : Nat) : (ch.wr f v).mem = ch.mem := rfl
@[simp] theorem wr_poisoned (ch : Chip) (f : Field) (v : Nat) : (ch.wr f v).poisoned = ch.poisoned := rfl
@[simp] theorem wr_out (ch : Chip) (f : Field) (v : Nat) : (ch.wr f v).out = ch.out := rfl
@[simp] theorem wr_faultQ (ch : Chip) (f : Field) (v : Nat) : (ch.wr f v).faultQ = ch.faultQ := rfl
@[simp] theorem wr_draws (ch : Chip) (f : Field) (v : Nat) : (ch.wr f v).draws = ch.draws := rfl
@[simp] theorem wr_tkp (ch : Chip) (f : Field) (v : Nat) : (ch.wr f v).tkp = ch.tkp := rfl
@[simp] theorem wr_ceil (ch : Chip) (f : Field) (v : Nat) : (ch.wr f v).ceil = ch.ceil := rfl
@[simp] theorem wr_hif (ch : Chip) (f : Field) (v : Nat) : (ch.wr f v).hif = ch.hif := rfl
@[simp] theorem wr_xings (ch : Chip) (f : Field) (v : Nat) : (ch.wr f v).xings = ch.xings := rfl
@[simp] theorem wr_media (ch : Chip) (f : Field) (v : Nat) : (ch.wr f v).media = ch.media := rfl
@[simp] theorem wr_fab (ch : Chip) (f : Field) (v : Nat) : (ch.wr f v).fab = ch.fab := rfl
@[simp] theorem wr_trail (ch : Chip) (f : Field) (v : Nat) : (ch.wr f v).trail = ch.trail := rfl
@[simp] theorem wr_mc (ch : Chip) (f : Field) (v : Nat) : (ch.wr f v).mc = ch.mc := rfl
@[simp] theorem wr_fcu (ch : Chip) (f : Field) (v : Nat) : (ch.wr f v).fcu = ch.fcu := rfl
@[simp] theorem wr_coa (ch : Chip) (f : Field) (v : Nat) : (ch.wr f v).coa = ch.coa := rfl
@[simp] theorem wr_sen (ch : Chip) (f : Field) (v : Nat) : (ch.wr f v).sen = ch.sen := rfl
@[simp] theorem wr_siv (ch : Chip) (f : Field) (v : Nat) : (ch.wr f v).siv = ch.siv := rfl
@[simp] theorem wr_hnd (ch : Chip) (f : Field) (v : Nat) : (ch.wr f v).hnd = ch.hnd := rfl
@[simp] theorem wr_adp (ch : Chip) (f : Field) (v : Nat) : (ch.wr f v).adp = ch.adp := rfl
@[simp] theorem wr_pw (ch : Chip) (f : Field) (v : Nat) : (ch.wr f v).pw = ch.pw := rfl
@[simp] theorem wr_dozeAt (ch : Chip) (f : Field) (v : Nat) : (ch.wr f v).dozeAt = ch.dozeAt := rfl
@[simp] theorem wr_pixelTap (ch : Chip) (f : Field) (v : Nat) : (ch.wr f v).pixelTap = ch.pixelTap := rfl
@[simp] theorem wr_dozeActs (ch : Chip) (f : Field) (v : Nat) : (ch.wr f v).dozeActs = ch.dozeActs := rfl

/-! ### setFlag: a flag of a register written -/

@[simp] theorem setFlag_pos (ch : Chip) (f : Field) (b : Bool) : (ch.setFlag f b).pos = ch.pos := rfl
@[simp] theorem setFlag_mem (ch : Chip) (f : Field) (b : Bool) : (ch.setFlag f b).mem = ch.mem := rfl
@[simp] theorem setFlag_poisoned (ch : Chip) (f : Field) (b : Bool) : (ch.setFlag f b).poisoned = ch.poisoned := rfl
@[simp] theorem setFlag_out (ch : Chip) (f : Field) (b : Bool) : (ch.setFlag f b).out = ch.out := rfl
@[simp] theorem setFlag_faultQ (ch : Chip) (f : Field) (b : Bool) : (ch.setFlag f b).faultQ = ch.faultQ := rfl
@[simp] theorem setFlag_draws (ch : Chip) (f : Field) (b : Bool) : (ch.setFlag f b).draws = ch.draws := rfl
@[simp] theorem setFlag_tkp (ch : Chip) (f : Field) (b : Bool) : (ch.setFlag f b).tkp = ch.tkp := rfl
@[simp] theorem setFlag_ceil (ch : Chip) (f : Field) (b : Bool) : (ch.setFlag f b).ceil = ch.ceil := rfl
@[simp] theorem setFlag_hif (ch : Chip) (f : Field) (b : Bool) : (ch.setFlag f b).hif = ch.hif := rfl
@[simp] theorem setFlag_xings (ch : Chip) (f : Field) (b : Bool) : (ch.setFlag f b).xings = ch.xings := rfl
@[simp] theorem setFlag_media (ch : Chip) (f : Field) (b : Bool) : (ch.setFlag f b).media = ch.media := rfl
@[simp] theorem setFlag_fab (ch : Chip) (f : Field) (b : Bool) : (ch.setFlag f b).fab = ch.fab := rfl
@[simp] theorem setFlag_trail (ch : Chip) (f : Field) (b : Bool) : (ch.setFlag f b).trail = ch.trail := rfl
@[simp] theorem setFlag_mc (ch : Chip) (f : Field) (b : Bool) : (ch.setFlag f b).mc = ch.mc := rfl
@[simp] theorem setFlag_fcu (ch : Chip) (f : Field) (b : Bool) : (ch.setFlag f b).fcu = ch.fcu := rfl
@[simp] theorem setFlag_coa (ch : Chip) (f : Field) (b : Bool) : (ch.setFlag f b).coa = ch.coa := rfl
@[simp] theorem setFlag_sen (ch : Chip) (f : Field) (b : Bool) : (ch.setFlag f b).sen = ch.sen := rfl
@[simp] theorem setFlag_siv (ch : Chip) (f : Field) (b : Bool) : (ch.setFlag f b).siv = ch.siv := rfl
@[simp] theorem setFlag_hnd (ch : Chip) (f : Field) (b : Bool) : (ch.setFlag f b).hnd = ch.hnd := rfl
@[simp] theorem setFlag_adp (ch : Chip) (f : Field) (b : Bool) : (ch.setFlag f b).adp = ch.adp := rfl
@[simp] theorem setFlag_pw (ch : Chip) (f : Field) (b : Bool) : (ch.setFlag f b).pw = ch.pw := rfl
@[simp] theorem setFlag_dozeAt (ch : Chip) (f : Field) (b : Bool) : (ch.setFlag f b).dozeAt = ch.dozeAt := rfl
@[simp] theorem setFlag_pixelTap (ch : Chip) (f : Field) (b : Bool) : (ch.setFlag f b).pixelTap = ch.pixelTap := rfl
@[simp] theorem setFlag_dozeActs (ch : Chip) (f : Field) (b : Bool) : (ch.setFlag f b).dozeActs = ch.dozeActs := rfl

/-! ### orBit: a bit of a register field set -/

@[simp] theorem orBit_pos (ch : Chip) (f : Field) (b : Nat) : (ch.orBit f b).pos = ch.pos := rfl
@[simp] theorem orBit_mem (ch : Chip) (f : Field) (b : Nat) : (ch.orBit f b).mem = ch.mem := rfl
@[simp] theorem orBit_poisoned (ch : Chip) (f : Field) (b : Nat) : (ch.orBit f b).poisoned = ch.poisoned := rfl
@[simp] theorem orBit_out (ch : Chip) (f : Field) (b : Nat) : (ch.orBit f b).out = ch.out := rfl
@[simp] theorem orBit_faultQ (ch : Chip) (f : Field) (b : Nat) : (ch.orBit f b).faultQ = ch.faultQ := rfl
@[simp] theorem orBit_draws (ch : Chip) (f : Field) (b : Nat) : (ch.orBit f b).draws = ch.draws := rfl
@[simp] theorem orBit_tkp (ch : Chip) (f : Field) (b : Nat) : (ch.orBit f b).tkp = ch.tkp := rfl
@[simp] theorem orBit_ceil (ch : Chip) (f : Field) (b : Nat) : (ch.orBit f b).ceil = ch.ceil := rfl
@[simp] theorem orBit_hif (ch : Chip) (f : Field) (b : Nat) : (ch.orBit f b).hif = ch.hif := rfl
@[simp] theorem orBit_xings (ch : Chip) (f : Field) (b : Nat) : (ch.orBit f b).xings = ch.xings := rfl
@[simp] theorem orBit_media (ch : Chip) (f : Field) (b : Nat) : (ch.orBit f b).media = ch.media := rfl
@[simp] theorem orBit_fab (ch : Chip) (f : Field) (b : Nat) : (ch.orBit f b).fab = ch.fab := rfl
@[simp] theorem orBit_trail (ch : Chip) (f : Field) (b : Nat) : (ch.orBit f b).trail = ch.trail := rfl
@[simp] theorem orBit_mc (ch : Chip) (f : Field) (b : Nat) : (ch.orBit f b).mc = ch.mc := rfl
@[simp] theorem orBit_fcu (ch : Chip) (f : Field) (b : Nat) : (ch.orBit f b).fcu = ch.fcu := rfl
@[simp] theorem orBit_coa (ch : Chip) (f : Field) (b : Nat) : (ch.orBit f b).coa = ch.coa := rfl
@[simp] theorem orBit_sen (ch : Chip) (f : Field) (b : Nat) : (ch.orBit f b).sen = ch.sen := rfl
@[simp] theorem orBit_siv (ch : Chip) (f : Field) (b : Nat) : (ch.orBit f b).siv = ch.siv := rfl
@[simp] theorem orBit_hnd (ch : Chip) (f : Field) (b : Nat) : (ch.orBit f b).hnd = ch.hnd := rfl
@[simp] theorem orBit_adp (ch : Chip) (f : Field) (b : Nat) : (ch.orBit f b).adp = ch.adp := rfl
@[simp] theorem orBit_pw (ch : Chip) (f : Field) (b : Nat) : (ch.orBit f b).pw = ch.pw := rfl
@[simp] theorem orBit_dozeAt (ch : Chip) (f : Field) (b : Nat) : (ch.orBit f b).dozeAt = ch.dozeAt := rfl
@[simp] theorem orBit_pixelTap (ch : Chip) (f : Field) (b : Nat) : (ch.orBit f b).pixelTap = ch.pixelTap := rfl
@[simp] theorem orBit_dozeActs (ch : Chip) (f : Field) (b : Nat) : (ch.orBit f b).dozeActs = ch.dozeActs := rfl

/-! ### setClk: a clock bit written -/

@[simp] theorem setClk_pos (ch : Chip) (b : Nat) (on : Bool) : (ch.setClk b on).pos = ch.pos := rfl
@[simp] theorem setClk_mem (ch : Chip) (b : Nat) (on : Bool) : (ch.setClk b on).mem = ch.mem := rfl
@[simp] theorem setClk_poisoned (ch : Chip) (b : Nat) (on : Bool) : (ch.setClk b on).poisoned = ch.poisoned := rfl
@[simp] theorem setClk_out (ch : Chip) (b : Nat) (on : Bool) : (ch.setClk b on).out = ch.out := rfl
@[simp] theorem setClk_faultQ (ch : Chip) (b : Nat) (on : Bool) : (ch.setClk b on).faultQ = ch.faultQ := rfl
@[simp] theorem setClk_draws (ch : Chip) (b : Nat) (on : Bool) : (ch.setClk b on).draws = ch.draws := rfl
@[simp] theorem setClk_tkp (ch : Chip) (b : Nat) (on : Bool) : (ch.setClk b on).tkp = ch.tkp := rfl
@[simp] theorem setClk_ceil (ch : Chip) (b : Nat) (on : Bool) : (ch.setClk b on).ceil = ch.ceil := rfl
@[simp] theorem setClk_hif (ch : Chip) (b : Nat) (on : Bool) : (ch.setClk b on).hif = ch.hif := rfl
@[simp] theorem setClk_media (ch : Chip) (b : Nat) (on : Bool) : (ch.setClk b on).media = ch.media := rfl
@[simp] theorem setClk_fab (ch : Chip) (b : Nat) (on : Bool) : (ch.setClk b on).fab = ch.fab := rfl
@[simp] theorem setClk_trail (ch : Chip) (b : Nat) (on : Bool) : (ch.setClk b on).trail = ch.trail := rfl
@[simp] theorem setClk_mc (ch : Chip) (b : Nat) (on : Bool) : (ch.setClk b on).mc = ch.mc := rfl
@[simp] theorem setClk_fcu (ch : Chip) (b : Nat) (on : Bool) : (ch.setClk b on).fcu = ch.fcu := rfl
@[simp] theorem setClk_coa (ch : Chip) (b : Nat) (on : Bool) : (ch.setClk b on).coa = ch.coa := rfl
@[simp] theorem setClk_sen (ch : Chip) (b : Nat) (on : Bool) : (ch.setClk b on).sen = ch.sen := rfl
@[simp] theorem setClk_siv (ch : Chip) (b : Nat) (on : Bool) : (ch.setClk b on).siv = ch.siv := rfl
@[simp] theorem setClk_hnd (ch : Chip) (b : Nat) (on : Bool) : (ch.setClk b on).hnd = ch.hnd := rfl
@[simp] theorem setClk_adp (ch : Chip) (b : Nat) (on : Bool) : (ch.setClk b on).adp = ch.adp := rfl
@[simp] theorem setClk_pw (ch : Chip) (b : Nat) (on : Bool) : (ch.setClk b on).pw = ch.pw := rfl
@[simp] theorem setClk_dozeAt (ch : Chip) (b : Nat) (on : Bool) : (ch.setClk b on).dozeAt = ch.dozeAt := rfl
@[simp] theorem setClk_pixelTap (ch : Chip) (b : Nat) (on : Bool) : (ch.setClk b on).pixelTap = ch.pixelTap := rfl
@[simp] theorem setClk_dozeActs (ch : Chip) (b : Nat) (on : Bool) : (ch.setClk b on).dozeActs = ch.dozeActs := rfl

/-! ### setRank: the state of a rank written -/

@[simp] theorem setRank_pos (ch : Chip) (p st : Nat) : (ch.setRank p st).pos = ch.pos := rfl
@[simp] theorem setRank_mem (ch : Chip) (p st : Nat) : (ch.setRank p st).mem = ch.mem := rfl
@[simp] theorem setRank_poisoned (ch : Chip) (p st : Nat) : (ch.setRank p st).poisoned = ch.poisoned := rfl
@[simp] theorem setRank_out (ch : Chip) (p st : Nat) : (ch.setRank p st).out = ch.out := rfl
@[simp] theorem setRank_faultQ (ch : Chip) (p st : Nat) : (ch.setRank p st).faultQ = ch.faultQ := rfl
@[simp] theorem setRank_draws (ch : Chip) (p st : Nat) : (ch.setRank p st).draws = ch.draws := rfl
@[simp] theorem setRank_tkp (ch : Chip) (p st : Nat) : (ch.setRank p st).tkp = ch.tkp := rfl
@[simp] theorem setRank_ceil (ch : Chip) (p st : Nat) : (ch.setRank p st).ceil = ch.ceil := rfl
@[simp] theorem setRank_hif (ch : Chip) (p st : Nat) : (ch.setRank p st).hif = ch.hif := rfl
@[simp] theorem setRank_xings (ch : Chip) (p st : Nat) : (ch.setRank p st).xings = ch.xings := rfl
@[simp] theorem setRank_media (ch : Chip) (p st : Nat) : (ch.setRank p st).media = ch.media := rfl
@[simp] theorem setRank_fab (ch : Chip) (p st : Nat) : (ch.setRank p st).fab = ch.fab := rfl
@[simp] theorem setRank_trail (ch : Chip) (p st : Nat) : (ch.setRank p st).trail = ch.trail := rfl
@[simp] theorem setRank_mc (ch : Chip) (p st : Nat) : (ch.setRank p st).mc = ch.mc := rfl
@[simp] theorem setRank_fcu (ch : Chip) (p st : Nat) : (ch.setRank p st).fcu = ch.fcu := rfl
@[simp] theorem setRank_coa (ch : Chip) (p st : Nat) : (ch.setRank p st).coa = ch.coa := rfl
@[simp] theorem setRank_sen (ch : Chip) (p st : Nat) : (ch.setRank p st).sen = ch.sen := rfl
@[simp] theorem setRank_siv (ch : Chip) (p st : Nat) : (ch.setRank p st).siv = ch.siv := rfl
@[simp] theorem setRank_hnd (ch : Chip) (p st : Nat) : (ch.setRank p st).hnd = ch.hnd := rfl
@[simp] theorem setRank_adp (ch : Chip) (p st : Nat) : (ch.setRank p st).adp = ch.adp := rfl
@[simp] theorem setRank_pw (ch : Chip) (p st : Nat) : (ch.setRank p st).pw = ch.pw := rfl
@[simp] theorem setRank_dozeAt (ch : Chip) (p st : Nat) : (ch.setRank p st).dozeAt = ch.dozeAt := rfl
@[simp] theorem setRank_pixelTap (ch : Chip) (p st : Nat) : (ch.setRank p st).pixelTap = ch.pixelTap := rfl
@[simp] theorem setRank_dozeActs (ch : Chip) (p st : Nat) : (ch.setRank p st).dozeActs = ch.dozeActs := rfl

/-! ### stallSync: STALL_LIVE follows the crossings -/

@[simp] theorem stallSync_pos (ch : Chip) : (ch.stallSync).pos = ch.pos := rfl
@[simp] theorem stallSync_mem (ch : Chip) : (ch.stallSync).mem = ch.mem := rfl
@[simp] theorem stallSync_poisoned (ch : Chip) : (ch.stallSync).poisoned = ch.poisoned := rfl
@[simp] theorem stallSync_out (ch : Chip) : (ch.stallSync).out = ch.out := rfl
@[simp] theorem stallSync_faultQ (ch : Chip) : (ch.stallSync).faultQ = ch.faultQ := rfl
@[simp] theorem stallSync_draws (ch : Chip) : (ch.stallSync).draws = ch.draws := rfl
@[simp] theorem stallSync_tkp (ch : Chip) : (ch.stallSync).tkp = ch.tkp := rfl
@[simp] theorem stallSync_ceil (ch : Chip) : (ch.stallSync).ceil = ch.ceil := rfl
@[simp] theorem stallSync_hif (ch : Chip) : (ch.stallSync).hif = ch.hif := rfl
@[simp] theorem stallSync_xings (ch : Chip) : (ch.stallSync).xings = ch.xings := rfl
@[simp] theorem stallSync_media (ch : Chip) : (ch.stallSync).media = ch.media := rfl
@[simp] theorem stallSync_fab (ch : Chip) : (ch.stallSync).fab = ch.fab := rfl
@[simp] theorem stallSync_trail (ch : Chip) : (ch.stallSync).trail = ch.trail := rfl
@[simp] theorem stallSync_mc (ch : Chip) : (ch.stallSync).mc = ch.mc := rfl
@[simp] theorem stallSync_fcu (ch : Chip) : (ch.stallSync).fcu = ch.fcu := rfl
@[simp] theorem stallSync_coa (ch : Chip) : (ch.stallSync).coa = ch.coa := rfl
@[simp] theorem stallSync_sen (ch : Chip) : (ch.stallSync).sen = ch.sen := rfl
@[simp] theorem stallSync_siv (ch : Chip) : (ch.stallSync).siv = ch.siv := rfl
@[simp] theorem stallSync_hnd (ch : Chip) : (ch.stallSync).hnd = ch.hnd := rfl
@[simp] theorem stallSync_adp (ch : Chip) : (ch.stallSync).adp = ch.adp := rfl
@[simp] theorem stallSync_pw (ch : Chip) : (ch.stallSync).pw = ch.pw := rfl
@[simp] theorem stallSync_dozeAt (ch : Chip) : (ch.stallSync).dozeAt = ch.dozeAt := rfl
@[simp] theorem stallSync_pixelTap (ch : Chip) : (ch.stallSync).pixelTap = ch.pixelTap := rfl
@[simp] theorem stallSync_dozeActs (ch : Chip) : (ch.stallSync).dozeActs = ch.dozeActs := rfl

/-! ### sendBy: a writer sends over PCIe -/

@[simp] theorem sendBy_pos (ch : Chip) (w : Nat) (e : Emit) : (ch.sendBy w e).pos = ch.pos := by unfold Chip.sendBy; split <;> rfl
@[simp] theorem sendBy_regs (ch : Chip) (w : Nat) (e : Emit) : (ch.sendBy w e).regs = ch.regs := by unfold Chip.sendBy; split <;> rfl
@[simp] theorem sendBy_mem (ch : Chip) (w : Nat) (e : Emit) : (ch.sendBy w e).mem = ch.mem := by unfold Chip.sendBy; split <;> rfl
@[simp] theorem sendBy_poisoned (ch : Chip) (w : Nat) (e : Emit) : (ch.sendBy w e).poisoned = ch.poisoned := by unfold Chip.sendBy; split <;> rfl
@[simp] theorem sendBy_faultQ (ch : Chip) (w : Nat) (e : Emit) : (ch.sendBy w e).faultQ = ch.faultQ := by unfold Chip.sendBy; split <;> rfl
@[simp] theorem sendBy_draws (ch : Chip) (w : Nat) (e : Emit) : (ch.sendBy w e).draws = ch.draws := by unfold Chip.sendBy; split <;> rfl
@[simp] theorem sendBy_tkp (ch : Chip) (w : Nat) (e : Emit) : (ch.sendBy w e).tkp = ch.tkp := by unfold Chip.sendBy; split <;> rfl
@[simp] theorem sendBy_ceil (ch : Chip) (w : Nat) (e : Emit) : (ch.sendBy w e).ceil = ch.ceil := by unfold Chip.sendBy; split <;> rfl
@[simp] theorem sendBy_hif (ch : Chip) (w : Nat) (e : Emit) : (ch.sendBy w e).hif = ch.hif := by unfold Chip.sendBy; split <;> rfl
@[simp] theorem sendBy_media (ch : Chip) (w : Nat) (e : Emit) : (ch.sendBy w e).media = ch.media := by unfold Chip.sendBy; split <;> rfl
@[simp] theorem sendBy_fab (ch : Chip) (w : Nat) (e : Emit) : (ch.sendBy w e).fab = ch.fab := by unfold Chip.sendBy; split <;> rfl
@[simp] theorem sendBy_trail (ch : Chip) (w : Nat) (e : Emit) : (ch.sendBy w e).trail = ch.trail := by unfold Chip.sendBy; split <;> rfl
@[simp] theorem sendBy_mc (ch : Chip) (w : Nat) (e : Emit) : (ch.sendBy w e).mc = ch.mc := by unfold Chip.sendBy; split <;> rfl
@[simp] theorem sendBy_fcu (ch : Chip) (w : Nat) (e : Emit) : (ch.sendBy w e).fcu = ch.fcu := by unfold Chip.sendBy; split <;> rfl
@[simp] theorem sendBy_coa (ch : Chip) (w : Nat) (e : Emit) : (ch.sendBy w e).coa = ch.coa := by unfold Chip.sendBy; split <;> rfl
@[simp] theorem sendBy_sen (ch : Chip) (w : Nat) (e : Emit) : (ch.sendBy w e).sen = ch.sen := by unfold Chip.sendBy; split <;> rfl
@[simp] theorem sendBy_siv (ch : Chip) (w : Nat) (e : Emit) : (ch.sendBy w e).siv = ch.siv := by unfold Chip.sendBy; split <;> rfl
@[simp] theorem sendBy_hnd (ch : Chip) (w : Nat) (e : Emit) : (ch.sendBy w e).hnd = ch.hnd := by unfold Chip.sendBy; split <;> rfl
@[simp] theorem sendBy_adp (ch : Chip) (w : Nat) (e : Emit) : (ch.sendBy w e).adp = ch.adp := by unfold Chip.sendBy; split <;> rfl
@[simp] theorem sendBy_pw (ch : Chip) (w : Nat) (e : Emit) : (ch.sendBy w e).pw = ch.pw := by unfold Chip.sendBy; split <;> rfl
@[simp] theorem sendBy_dozeAt (ch : Chip) (w : Nat) (e : Emit) : (ch.sendBy w e).dozeAt = ch.dozeAt := by unfold Chip.sendBy; split <;> rfl
@[simp] theorem sendBy_pixelTap (ch : Chip) (w : Nat) (e : Emit) : (ch.sendBy w e).pixelTap = ch.pixelTap := by unfold Chip.sendBy; split <;> rfl
@[simp] theorem sendBy_dozeActs (ch : Chip) (w : Nat) (e : Emit) : (ch.sendBy w e).dozeActs = ch.dozeActs := by unfold Chip.sendBy; split <;> rfl

/-! ### send: something sent over PCIe -/

@[simp] theorem send_pos (ch : Chip) (e : Emit) : (ch.send e).pos = ch.pos := sendBy_pos ..
@[simp] theorem send_regs (ch : Chip) (e : Emit) : (ch.send e).regs = ch.regs := sendBy_regs ..
@[simp] theorem send_mem (ch : Chip) (e : Emit) : (ch.send e).mem = ch.mem := sendBy_mem ..
@[simp] theorem send_poisoned (ch : Chip) (e : Emit) : (ch.send e).poisoned = ch.poisoned := sendBy_poisoned ..
@[simp] theorem send_faultQ (ch : Chip) (e : Emit) : (ch.send e).faultQ = ch.faultQ := sendBy_faultQ ..
@[simp] theorem send_draws (ch : Chip) (e : Emit) : (ch.send e).draws = ch.draws := sendBy_draws ..
@[simp] theorem send_tkp (ch : Chip) (e : Emit) : (ch.send e).tkp = ch.tkp := sendBy_tkp ..
@[simp] theorem send_ceil (ch : Chip) (e : Emit) : (ch.send e).ceil = ch.ceil := sendBy_ceil ..
@[simp] theorem send_hif (ch : Chip) (e : Emit) : (ch.send e).hif = ch.hif := sendBy_hif ..
@[simp] theorem send_media (ch : Chip) (e : Emit) : (ch.send e).media = ch.media := sendBy_media ..
@[simp] theorem send_fab (ch : Chip) (e : Emit) : (ch.send e).fab = ch.fab := sendBy_fab ..
@[simp] theorem send_trail (ch : Chip) (e : Emit) : (ch.send e).trail = ch.trail := sendBy_trail ..
@[simp] theorem send_mc (ch : Chip) (e : Emit) : (ch.send e).mc = ch.mc := sendBy_mc ..
@[simp] theorem send_fcu (ch : Chip) (e : Emit) : (ch.send e).fcu = ch.fcu := sendBy_fcu ..
@[simp] theorem send_coa (ch : Chip) (e : Emit) : (ch.send e).coa = ch.coa := sendBy_coa ..
@[simp] theorem send_sen (ch : Chip) (e : Emit) : (ch.send e).sen = ch.sen := sendBy_sen ..
@[simp] theorem send_siv (ch : Chip) (e : Emit) : (ch.send e).siv = ch.siv := sendBy_siv ..
@[simp] theorem send_hnd (ch : Chip) (e : Emit) : (ch.send e).hnd = ch.hnd := sendBy_hnd ..
@[simp] theorem send_adp (ch : Chip) (e : Emit) : (ch.send e).adp = ch.adp := sendBy_adp ..
@[simp] theorem send_pw (ch : Chip) (e : Emit) : (ch.send e).pw = ch.pw := sendBy_pw ..
@[simp] theorem send_dozeAt (ch : Chip) (e : Emit) : (ch.send e).dozeAt = ch.dozeAt := sendBy_dozeAt ..
@[simp] theorem send_pixelTap (ch : Chip) (e : Emit) : (ch.send e).pixelTap = ch.pixelTap := sendBy_pixelTap ..
@[simp] theorem send_dozeActs (ch : Chip) (e : Emit) : (ch.send e).dozeActs = ch.dozeActs := sendBy_dozeActs ..

/-! ### emit: something driven outside PCIe -/

@[simp] theorem emit_pos (ch : Chip) (e : Emit) : (ch.emit e).pos = ch.pos := rfl
@[simp] theorem emit_regs (ch : Chip) (e : Emit) : (ch.emit e).regs = ch.regs := rfl
@[simp] theorem emit_mem (ch : Chip) (e : Emit) : (ch.emit e).mem = ch.mem := rfl
@[simp] theorem emit_poisoned (ch : Chip) (e : Emit) : (ch.emit e).poisoned = ch.poisoned := rfl
@[simp] theorem emit_faultQ (ch : Chip) (e : Emit) : (ch.emit e).faultQ = ch.faultQ := rfl
@[simp] theorem emit_draws (ch : Chip) (e : Emit) : (ch.emit e).draws = ch.draws := rfl
@[simp] theorem emit_tkp (ch : Chip) (e : Emit) : (ch.emit e).tkp = ch.tkp := rfl
@[simp] theorem emit_ceil (ch : Chip) (e : Emit) : (ch.emit e).ceil = ch.ceil := rfl
@[simp] theorem emit_hif (ch : Chip) (e : Emit) : (ch.emit e).hif = ch.hif := rfl
@[simp] theorem emit_xings (ch : Chip) (e : Emit) : (ch.emit e).xings = ch.xings := rfl
@[simp] theorem emit_media (ch : Chip) (e : Emit) : (ch.emit e).media = ch.media := rfl
@[simp] theorem emit_fab (ch : Chip) (e : Emit) : (ch.emit e).fab = ch.fab := rfl
@[simp] theorem emit_trail (ch : Chip) (e : Emit) : (ch.emit e).trail = ch.trail := rfl
@[simp] theorem emit_mc (ch : Chip) (e : Emit) : (ch.emit e).mc = ch.mc := rfl
@[simp] theorem emit_fcu (ch : Chip) (e : Emit) : (ch.emit e).fcu = ch.fcu := rfl
@[simp] theorem emit_coa (ch : Chip) (e : Emit) : (ch.emit e).coa = ch.coa := rfl
@[simp] theorem emit_sen (ch : Chip) (e : Emit) : (ch.emit e).sen = ch.sen := rfl
@[simp] theorem emit_siv (ch : Chip) (e : Emit) : (ch.emit e).siv = ch.siv := rfl
@[simp] theorem emit_hnd (ch : Chip) (e : Emit) : (ch.emit e).hnd = ch.hnd := rfl
@[simp] theorem emit_adp (ch : Chip) (e : Emit) : (ch.emit e).adp = ch.adp := rfl
@[simp] theorem emit_pw (ch : Chip) (e : Emit) : (ch.emit e).pw = ch.pw := rfl
@[simp] theorem emit_dozeAt (ch : Chip) (e : Emit) : (ch.emit e).dozeAt = ch.dozeAt := rfl
@[simp] theorem emit_pixelTap (ch : Chip) (e : Emit) : (ch.emit e).pixelTap = ch.pixelTap := rfl
@[simp] theorem emit_dozeActs (ch : Chip) (e : Emit) : (ch.emit e).dozeActs = ch.dozeActs := rfl

/-! ### raise: a fault event raised -/

@[simp] theorem raise_pos (ch : Chip) (row src d : Nat) : (ch.raise row src d).pos = ch.pos := rfl
@[simp] theorem raise_regs (ch : Chip) (row src d : Nat) : (ch.raise row src d).regs = ch.regs := rfl
@[simp] theorem raise_mem (ch : Chip) (row src d : Nat) : (ch.raise row src d).mem = ch.mem := rfl
@[simp] theorem raise_poisoned (ch : Chip) (row src d : Nat) : (ch.raise row src d).poisoned = ch.poisoned := rfl
@[simp] theorem raise_out (ch : Chip) (row src d : Nat) : (ch.raise row src d).out = ch.out := rfl
@[simp] theorem raise_draws (ch : Chip) (row src d : Nat) : (ch.raise row src d).draws = ch.draws := rfl
@[simp] theorem raise_tkp (ch : Chip) (row src d : Nat) : (ch.raise row src d).tkp = ch.tkp := rfl
@[simp] theorem raise_ceil (ch : Chip) (row src d : Nat) : (ch.raise row src d).ceil = ch.ceil := rfl
@[simp] theorem raise_hif (ch : Chip) (row src d : Nat) : (ch.raise row src d).hif = ch.hif := rfl
@[simp] theorem raise_xings (ch : Chip) (row src d : Nat) : (ch.raise row src d).xings = ch.xings := rfl
@[simp] theorem raise_media (ch : Chip) (row src d : Nat) : (ch.raise row src d).media = ch.media := rfl
@[simp] theorem raise_fab (ch : Chip) (row src d : Nat) : (ch.raise row src d).fab = ch.fab := rfl
@[simp] theorem raise_trail (ch : Chip) (row src d : Nat) : (ch.raise row src d).trail = ch.trail := rfl
@[simp] theorem raise_mc (ch : Chip) (row src d : Nat) : (ch.raise row src d).mc = ch.mc := rfl
@[simp] theorem raise_fcu (ch : Chip) (row src d : Nat) : (ch.raise row src d).fcu = ch.fcu := rfl
@[simp] theorem raise_coa (ch : Chip) (row src d : Nat) : (ch.raise row src d).coa = ch.coa := rfl
@[simp] theorem raise_sen (ch : Chip) (row src d : Nat) : (ch.raise row src d).sen = ch.sen := rfl
@[simp] theorem raise_siv (ch : Chip) (row src d : Nat) : (ch.raise row src d).siv = ch.siv := rfl
@[simp] theorem raise_hnd (ch : Chip) (row src d : Nat) : (ch.raise row src d).hnd = ch.hnd := rfl
@[simp] theorem raise_adp (ch : Chip) (row src d : Nat) : (ch.raise row src d).adp = ch.adp := rfl
@[simp] theorem raise_pw (ch : Chip) (row src d : Nat) : (ch.raise row src d).pw = ch.pw := rfl
@[simp] theorem raise_dozeAt (ch : Chip) (row src d : Nat) : (ch.raise row src d).dozeAt = ch.dozeAt := rfl
@[simp] theorem raise_pixelTap (ch : Chip) (row src d : Nat) : (ch.raise row src d).pixelTap = ch.pixelTap := rfl
@[simp] theorem raise_dozeActs (ch : Chip) (row src d : Nat) : (ch.raise row src d).dozeActs = ch.dozeActs := rfl

/-! ### msixBy: a writer signals a vector -/

@[simp] theorem msixBy_pos (ch : Chip) (w v : Nat) : (ch.msixBy w v).pos = ch.pos := by unfold Chip.msixBy; split <;> simp
@[simp] theorem msixBy_regs (ch : Chip) (w v : Nat) : (ch.msixBy w v).regs = ch.regs := by unfold Chip.msixBy; split <;> simp
@[simp] theorem msixBy_mem (ch : Chip) (w v : Nat) : (ch.msixBy w v).mem = ch.mem := by unfold Chip.msixBy; split <;> simp
@[simp] theorem msixBy_poisoned (ch : Chip) (w v : Nat) : (ch.msixBy w v).poisoned = ch.poisoned := by unfold Chip.msixBy; split <;> simp
@[simp] theorem msixBy_faultQ (ch : Chip) (w v : Nat) : (ch.msixBy w v).faultQ = ch.faultQ := by unfold Chip.msixBy; split <;> simp
@[simp] theorem msixBy_draws (ch : Chip) (w v : Nat) : (ch.msixBy w v).draws = ch.draws := by unfold Chip.msixBy; split <;> simp
@[simp] theorem msixBy_tkp (ch : Chip) (w v : Nat) : (ch.msixBy w v).tkp = ch.tkp := by unfold Chip.msixBy; split <;> simp
@[simp] theorem msixBy_ceil (ch : Chip) (w v : Nat) : (ch.msixBy w v).ceil = ch.ceil := by unfold Chip.msixBy; split <;> simp
@[simp] theorem msixBy_media (ch : Chip) (w v : Nat) : (ch.msixBy w v).media = ch.media := by unfold Chip.msixBy; split <;> simp
@[simp] theorem msixBy_fab (ch : Chip) (w v : Nat) : (ch.msixBy w v).fab = ch.fab := by unfold Chip.msixBy; split <;> simp
@[simp] theorem msixBy_trail (ch : Chip) (w v : Nat) : (ch.msixBy w v).trail = ch.trail := by unfold Chip.msixBy; split <;> simp
@[simp] theorem msixBy_mc (ch : Chip) (w v : Nat) : (ch.msixBy w v).mc = ch.mc := by unfold Chip.msixBy; split <;> simp
@[simp] theorem msixBy_fcu (ch : Chip) (w v : Nat) : (ch.msixBy w v).fcu = ch.fcu := by unfold Chip.msixBy; split <;> simp
@[simp] theorem msixBy_coa (ch : Chip) (w v : Nat) : (ch.msixBy w v).coa = ch.coa := by unfold Chip.msixBy; split <;> simp
@[simp] theorem msixBy_sen (ch : Chip) (w v : Nat) : (ch.msixBy w v).sen = ch.sen := by unfold Chip.msixBy; split <;> simp
@[simp] theorem msixBy_siv (ch : Chip) (w v : Nat) : (ch.msixBy w v).siv = ch.siv := by unfold Chip.msixBy; split <;> simp
@[simp] theorem msixBy_hnd (ch : Chip) (w v : Nat) : (ch.msixBy w v).hnd = ch.hnd := by unfold Chip.msixBy; split <;> simp
@[simp] theorem msixBy_adp (ch : Chip) (w v : Nat) : (ch.msixBy w v).adp = ch.adp := by unfold Chip.msixBy; split <;> simp
@[simp] theorem msixBy_pw (ch : Chip) (w v : Nat) : (ch.msixBy w v).pw = ch.pw := by unfold Chip.msixBy; split <;> simp
@[simp] theorem msixBy_dozeAt (ch : Chip) (w v : Nat) : (ch.msixBy w v).dozeAt = ch.dozeAt := by unfold Chip.msixBy; split <;> simp
@[simp] theorem msixBy_pixelTap (ch : Chip) (w v : Nat) : (ch.msixBy w v).pixelTap = ch.pixelTap := by unfold Chip.msixBy; split <;> simp
@[simp] theorem msixBy_dozeActs (ch : Chip) (w v : Nat) : (ch.msixBy w v).dozeActs = ch.dozeActs := by unfold Chip.msixBy; split <;> simp

/-! ### msix: a vector signalled -/

@[simp] theorem msix_pos (ch : Chip) (v : Nat) : (ch.msix v).pos = ch.pos := msixBy_pos ..
@[simp] theorem msix_regs (ch : Chip) (v : Nat) : (ch.msix v).regs = ch.regs := msixBy_regs ..
@[simp] theorem msix_mem (ch : Chip) (v : Nat) : (ch.msix v).mem = ch.mem := msixBy_mem ..
@[simp] theorem msix_poisoned (ch : Chip) (v : Nat) : (ch.msix v).poisoned = ch.poisoned := msixBy_poisoned ..
@[simp] theorem msix_faultQ (ch : Chip) (v : Nat) : (ch.msix v).faultQ = ch.faultQ := msixBy_faultQ ..
@[simp] theorem msix_draws (ch : Chip) (v : Nat) : (ch.msix v).draws = ch.draws := msixBy_draws ..
@[simp] theorem msix_tkp (ch : Chip) (v : Nat) : (ch.msix v).tkp = ch.tkp := msixBy_tkp ..
@[simp] theorem msix_ceil (ch : Chip) (v : Nat) : (ch.msix v).ceil = ch.ceil := msixBy_ceil ..
@[simp] theorem msix_media (ch : Chip) (v : Nat) : (ch.msix v).media = ch.media := msixBy_media ..
@[simp] theorem msix_fab (ch : Chip) (v : Nat) : (ch.msix v).fab = ch.fab := msixBy_fab ..
@[simp] theorem msix_trail (ch : Chip) (v : Nat) : (ch.msix v).trail = ch.trail := msixBy_trail ..
@[simp] theorem msix_mc (ch : Chip) (v : Nat) : (ch.msix v).mc = ch.mc := msixBy_mc ..
@[simp] theorem msix_fcu (ch : Chip) (v : Nat) : (ch.msix v).fcu = ch.fcu := msixBy_fcu ..
@[simp] theorem msix_coa (ch : Chip) (v : Nat) : (ch.msix v).coa = ch.coa := msixBy_coa ..
@[simp] theorem msix_sen (ch : Chip) (v : Nat) : (ch.msix v).sen = ch.sen := msixBy_sen ..
@[simp] theorem msix_siv (ch : Chip) (v : Nat) : (ch.msix v).siv = ch.siv := msixBy_siv ..
@[simp] theorem msix_hnd (ch : Chip) (v : Nat) : (ch.msix v).hnd = ch.hnd := msixBy_hnd ..
@[simp] theorem msix_adp (ch : Chip) (v : Nat) : (ch.msix v).adp = ch.adp := msixBy_adp ..
@[simp] theorem msix_pw (ch : Chip) (v : Nat) : (ch.msix v).pw = ch.pw := msixBy_pw ..
@[simp] theorem msix_dozeAt (ch : Chip) (v : Nat) : (ch.msix v).dozeAt = ch.dozeAt := msixBy_dozeAt ..
@[simp] theorem msix_pixelTap (ch : Chip) (v : Nat) : (ch.msix v).pixelTap = ch.pixelTap := msixBy_pixelTap ..
@[simp] theorem msix_dozeActs (ch : Chip) (v : Nat) : (ch.msix v).dozeActs = ch.dozeActs := msixBy_dozeActs ..

/-! ### count: an error counter counts -/

@[simp] theorem count_pos (ch : Chip) (f o : Field) (b : Nat) : (ch.count f o b).pos = ch.pos := by unfold Chip.count; (repeat' split) <;> rfl
@[simp] theorem count_mem (ch : Chip) (f o : Field) (b : Nat) : (ch.count f o b).mem = ch.mem := by unfold Chip.count; (repeat' split) <;> rfl
@[simp] theorem count_poisoned (ch : Chip) (f o : Field) (b : Nat) : (ch.count f o b).poisoned = ch.poisoned := by unfold Chip.count; (repeat' split) <;> rfl
@[simp] theorem count_out (ch : Chip) (f o : Field) (b : Nat) : (ch.count f o b).out = ch.out := by unfold Chip.count; (repeat' split) <;> rfl
@[simp] theorem count_faultQ (ch : Chip) (f o : Field) (b : Nat) : (ch.count f o b).faultQ = ch.faultQ := by unfold Chip.count; (repeat' split) <;> rfl
@[simp] theorem count_draws (ch : Chip) (f o : Field) (b : Nat) : (ch.count f o b).draws = ch.draws := by unfold Chip.count; (repeat' split) <;> rfl
@[simp] theorem count_tkp (ch : Chip) (f o : Field) (b : Nat) : (ch.count f o b).tkp = ch.tkp := by unfold Chip.count; (repeat' split) <;> rfl
@[simp] theorem count_ceil (ch : Chip) (f o : Field) (b : Nat) : (ch.count f o b).ceil = ch.ceil := by unfold Chip.count; (repeat' split) <;> rfl
@[simp] theorem count_hif (ch : Chip) (f o : Field) (b : Nat) : (ch.count f o b).hif = ch.hif := by unfold Chip.count; (repeat' split) <;> rfl
@[simp] theorem count_xings (ch : Chip) (f o : Field) (b : Nat) : (ch.count f o b).xings = ch.xings := by unfold Chip.count; (repeat' split) <;> rfl
@[simp] theorem count_media (ch : Chip) (f o : Field) (b : Nat) : (ch.count f o b).media = ch.media := by unfold Chip.count; (repeat' split) <;> rfl
@[simp] theorem count_fab (ch : Chip) (f o : Field) (b : Nat) : (ch.count f o b).fab = ch.fab := by unfold Chip.count; (repeat' split) <;> rfl
@[simp] theorem count_trail (ch : Chip) (f o : Field) (b : Nat) : (ch.count f o b).trail = ch.trail := by unfold Chip.count; (repeat' split) <;> rfl
@[simp] theorem count_mc (ch : Chip) (f o : Field) (b : Nat) : (ch.count f o b).mc = ch.mc := by unfold Chip.count; (repeat' split) <;> rfl
@[simp] theorem count_fcu (ch : Chip) (f o : Field) (b : Nat) : (ch.count f o b).fcu = ch.fcu := by unfold Chip.count; (repeat' split) <;> rfl
@[simp] theorem count_coa (ch : Chip) (f o : Field) (b : Nat) : (ch.count f o b).coa = ch.coa := by unfold Chip.count; (repeat' split) <;> rfl
@[simp] theorem count_sen (ch : Chip) (f o : Field) (b : Nat) : (ch.count f o b).sen = ch.sen := by unfold Chip.count; (repeat' split) <;> rfl
@[simp] theorem count_siv (ch : Chip) (f o : Field) (b : Nat) : (ch.count f o b).siv = ch.siv := by unfold Chip.count; (repeat' split) <;> rfl
@[simp] theorem count_hnd (ch : Chip) (f o : Field) (b : Nat) : (ch.count f o b).hnd = ch.hnd := by unfold Chip.count; (repeat' split) <;> rfl
@[simp] theorem count_adp (ch : Chip) (f o : Field) (b : Nat) : (ch.count f o b).adp = ch.adp := by unfold Chip.count; (repeat' split) <;> rfl
@[simp] theorem count_pw (ch : Chip) (f o : Field) (b : Nat) : (ch.count f o b).pw = ch.pw := by unfold Chip.count; (repeat' split) <;> rfl
@[simp] theorem count_dozeAt (ch : Chip) (f o : Field) (b : Nat) : (ch.count f o b).dozeAt = ch.dozeAt := by unfold Chip.count; (repeat' split) <;> rfl
@[simp] theorem count_pixelTap (ch : Chip) (f o : Field) (b : Nat) : (ch.count f o b).pixelTap = ch.pixelTap := by unfold Chip.count; (repeat' split) <;> rfl
@[simp] theorem count_dozeActs (ch : Chip) (f o : Field) (b : Nat) : (ch.count f o b).dozeActs = ch.dozeActs := by unfold Chip.count; (repeat' split) <;> rfl

/-! ### watermark: a watermark sees a level -/

@[simp] theorem watermark_pos (ch : Chip) (n h t : Field) (a b d : Nat) : (ch.watermark n h t a b d).pos = ch.pos := by unfold Chip.watermark; dsimp only; (repeat' split) <;> rfl
@[simp] theorem watermark_mem (ch : Chip) (n h t : Field) (a b d : Nat) : (ch.watermark n h t a b d).mem = ch.mem := by unfold Chip.watermark; dsimp only; (repeat' split) <;> rfl
@[simp] theorem watermark_poisoned (ch : Chip) (n h t : Field) (a b d : Nat) : (ch.watermark n h t a b d).poisoned = ch.poisoned := by unfold Chip.watermark; dsimp only; (repeat' split) <;> rfl
@[simp] theorem watermark_out (ch : Chip) (n h t : Field) (a b d : Nat) : (ch.watermark n h t a b d).out = ch.out := by unfold Chip.watermark; dsimp only; (repeat' split) <;> rfl
@[simp] theorem watermark_faultQ (ch : Chip) (n h t : Field) (a b d : Nat) : (ch.watermark n h t a b d).faultQ = ch.faultQ := by unfold Chip.watermark; dsimp only; (repeat' split) <;> rfl
@[simp] theorem watermark_draws (ch : Chip) (n h t : Field) (a b d : Nat) : (ch.watermark n h t a b d).draws = ch.draws := by unfold Chip.watermark; dsimp only; (repeat' split) <;> rfl
@[simp] theorem watermark_tkp (ch : Chip) (n h t : Field) (a b d : Nat) : (ch.watermark n h t a b d).tkp = ch.tkp := by unfold Chip.watermark; dsimp only; (repeat' split) <;> rfl
@[simp] theorem watermark_ceil (ch : Chip) (n h t : Field) (a b d : Nat) : (ch.watermark n h t a b d).ceil = ch.ceil := by unfold Chip.watermark; dsimp only; (repeat' split) <;> rfl
@[simp] theorem watermark_hif (ch : Chip) (n h t : Field) (a b d : Nat) : (ch.watermark n h t a b d).hif = ch.hif := by unfold Chip.watermark; dsimp only; (repeat' split) <;> rfl
@[simp] theorem watermark_xings (ch : Chip) (n h t : Field) (a b d : Nat) : (ch.watermark n h t a b d).xings = ch.xings := by unfold Chip.watermark; dsimp only; (repeat' split) <;> rfl
@[simp] theorem watermark_media (ch : Chip) (n h t : Field) (a b d : Nat) : (ch.watermark n h t a b d).media = ch.media := by unfold Chip.watermark; dsimp only; (repeat' split) <;> rfl
@[simp] theorem watermark_fab (ch : Chip) (n h t : Field) (a b d : Nat) : (ch.watermark n h t a b d).fab = ch.fab := by unfold Chip.watermark; dsimp only; (repeat' split) <;> rfl
@[simp] theorem watermark_trail (ch : Chip) (n h t : Field) (a b d : Nat) : (ch.watermark n h t a b d).trail = ch.trail := by unfold Chip.watermark; dsimp only; (repeat' split) <;> rfl
@[simp] theorem watermark_mc (ch : Chip) (n h t : Field) (a b d : Nat) : (ch.watermark n h t a b d).mc = ch.mc := by unfold Chip.watermark; dsimp only; (repeat' split) <;> rfl
@[simp] theorem watermark_fcu (ch : Chip) (n h t : Field) (a b d : Nat) : (ch.watermark n h t a b d).fcu = ch.fcu := by unfold Chip.watermark; dsimp only; (repeat' split) <;> rfl
@[simp] theorem watermark_coa (ch : Chip) (n h t : Field) (a b d : Nat) : (ch.watermark n h t a b d).coa = ch.coa := by unfold Chip.watermark; dsimp only; (repeat' split) <;> rfl
@[simp] theorem watermark_sen (ch : Chip) (n h t : Field) (a b d : Nat) : (ch.watermark n h t a b d).sen = ch.sen := by unfold Chip.watermark; dsimp only; (repeat' split) <;> rfl
@[simp] theorem watermark_siv (ch : Chip) (n h t : Field) (a b d : Nat) : (ch.watermark n h t a b d).siv = ch.siv := by unfold Chip.watermark; dsimp only; (repeat' split) <;> rfl
@[simp] theorem watermark_hnd (ch : Chip) (n h t : Field) (a b d : Nat) : (ch.watermark n h t a b d).hnd = ch.hnd := by unfold Chip.watermark; dsimp only; (repeat' split) <;> rfl
@[simp] theorem watermark_adp (ch : Chip) (n h t : Field) (a b d : Nat) : (ch.watermark n h t a b d).adp = ch.adp := by unfold Chip.watermark; dsimp only; (repeat' split) <;> rfl
@[simp] theorem watermark_pw (ch : Chip) (n h t : Field) (a b d : Nat) : (ch.watermark n h t a b d).pw = ch.pw := by unfold Chip.watermark; dsimp only; (repeat' split) <;> rfl
@[simp] theorem watermark_dozeAt (ch : Chip) (n h t : Field) (a b d : Nat) : (ch.watermark n h t a b d).dozeAt = ch.dozeAt := by unfold Chip.watermark; dsimp only; (repeat' split) <;> rfl
@[simp] theorem watermark_pixelTap (ch : Chip) (n h t : Field) (a b d : Nat) : (ch.watermark n h t a b d).pixelTap = ch.pixelTap := by unfold Chip.watermark; dsimp only; (repeat' split) <;> rfl
@[simp] theorem watermark_dozeActs (ch : Chip) (n h t : Field) (a b d : Nat) : (ch.watermark n h t a b d).dozeActs = ch.dozeActs := by unfold Chip.watermark; dsimp only; (repeat' split) <;> rfl

/-! ### draw: a free value drawn -/

@[simp] theorem draw_pos (ch : Chip) : (ch.draw.2).pos = ch.pos := rfl
@[simp] theorem draw_regs (ch : Chip) : (ch.draw.2).regs = ch.regs := rfl
@[simp] theorem draw_mem (ch : Chip) : (ch.draw.2).mem = ch.mem := rfl
@[simp] theorem draw_poisoned (ch : Chip) : (ch.draw.2).poisoned = ch.poisoned := rfl
@[simp] theorem draw_out (ch : Chip) : (ch.draw.2).out = ch.out := rfl
@[simp] theorem draw_faultQ (ch : Chip) : (ch.draw.2).faultQ = ch.faultQ := rfl
@[simp] theorem draw_tkp (ch : Chip) : (ch.draw.2).tkp = ch.tkp := rfl
@[simp] theorem draw_ceil (ch : Chip) : (ch.draw.2).ceil = ch.ceil := rfl
@[simp] theorem draw_hif (ch : Chip) : (ch.draw.2).hif = ch.hif := rfl
@[simp] theorem draw_xings (ch : Chip) : (ch.draw.2).xings = ch.xings := rfl
@[simp] theorem draw_media (ch : Chip) : (ch.draw.2).media = ch.media := rfl
@[simp] theorem draw_fab (ch : Chip) : (ch.draw.2).fab = ch.fab := rfl
@[simp] theorem draw_trail (ch : Chip) : (ch.draw.2).trail = ch.trail := rfl
@[simp] theorem draw_mc (ch : Chip) : (ch.draw.2).mc = ch.mc := rfl
@[simp] theorem draw_fcu (ch : Chip) : (ch.draw.2).fcu = ch.fcu := rfl
@[simp] theorem draw_coa (ch : Chip) : (ch.draw.2).coa = ch.coa := rfl
@[simp] theorem draw_sen (ch : Chip) : (ch.draw.2).sen = ch.sen := rfl
@[simp] theorem draw_siv (ch : Chip) : (ch.draw.2).siv = ch.siv := rfl
@[simp] theorem draw_hnd (ch : Chip) : (ch.draw.2).hnd = ch.hnd := rfl
@[simp] theorem draw_adp (ch : Chip) : (ch.draw.2).adp = ch.adp := rfl
@[simp] theorem draw_pw (ch : Chip) : (ch.draw.2).pw = ch.pw := rfl
@[simp] theorem draw_dozeAt (ch : Chip) : (ch.draw.2).dozeAt = ch.dozeAt := rfl
@[simp] theorem draw_pixelTap (ch : Chip) : (ch.draw.2).pixelTap = ch.pixelTap := rfl
@[simp] theorem draw_dozeActs (ch : Chip) : (ch.draw.2).dozeActs = ch.dozeActs := rfl

/-! ### store: bytes stored -/

@[simp] theorem store_pos (ch : Chip) (a : Nat) (bs : List Byte) (p : Bool) : (ch.store a bs p).pos = ch.pos := rfl
@[simp] theorem store_regs (ch : Chip) (a : Nat) (bs : List Byte) (p : Bool) : (ch.store a bs p).regs = ch.regs := rfl
@[simp] theorem store_out (ch : Chip) (a : Nat) (bs : List Byte) (p : Bool) : (ch.store a bs p).out = ch.out := rfl
@[simp] theorem store_faultQ (ch : Chip) (a : Nat) (bs : List Byte) (p : Bool) : (ch.store a bs p).faultQ = ch.faultQ := rfl
@[simp] theorem store_draws (ch : Chip) (a : Nat) (bs : List Byte) (p : Bool) : (ch.store a bs p).draws = ch.draws := rfl
@[simp] theorem store_tkp (ch : Chip) (a : Nat) (bs : List Byte) (p : Bool) : (ch.store a bs p).tkp = ch.tkp := rfl
@[simp] theorem store_ceil (ch : Chip) (a : Nat) (bs : List Byte) (p : Bool) : (ch.store a bs p).ceil = ch.ceil := rfl
@[simp] theorem store_hif (ch : Chip) (a : Nat) (bs : List Byte) (p : Bool) : (ch.store a bs p).hif = ch.hif := rfl
@[simp] theorem store_xings (ch : Chip) (a : Nat) (bs : List Byte) (p : Bool) : (ch.store a bs p).xings = ch.xings := rfl
@[simp] theorem store_media (ch : Chip) (a : Nat) (bs : List Byte) (p : Bool) : (ch.store a bs p).media = ch.media := rfl
@[simp] theorem store_fab (ch : Chip) (a : Nat) (bs : List Byte) (p : Bool) : (ch.store a bs p).fab = ch.fab := rfl
@[simp] theorem store_trail (ch : Chip) (a : Nat) (bs : List Byte) (p : Bool) : (ch.store a bs p).trail = ch.trail := rfl
@[simp] theorem store_mc (ch : Chip) (a : Nat) (bs : List Byte) (p : Bool) : (ch.store a bs p).mc = ch.mc := rfl
@[simp] theorem store_fcu (ch : Chip) (a : Nat) (bs : List Byte) (p : Bool) : (ch.store a bs p).fcu = ch.fcu := rfl
@[simp] theorem store_coa (ch : Chip) (a : Nat) (bs : List Byte) (p : Bool) : (ch.store a bs p).coa = ch.coa := rfl
@[simp] theorem store_sen (ch : Chip) (a : Nat) (bs : List Byte) (p : Bool) : (ch.store a bs p).sen = ch.sen := rfl
@[simp] theorem store_siv (ch : Chip) (a : Nat) (bs : List Byte) (p : Bool) : (ch.store a bs p).siv = ch.siv := rfl
@[simp] theorem store_hnd (ch : Chip) (a : Nat) (bs : List Byte) (p : Bool) : (ch.store a bs p).hnd = ch.hnd := rfl
@[simp] theorem store_adp (ch : Chip) (a : Nat) (bs : List Byte) (p : Bool) : (ch.store a bs p).adp = ch.adp := rfl
@[simp] theorem store_pw (ch : Chip) (a : Nat) (bs : List Byte) (p : Bool) : (ch.store a bs p).pw = ch.pw := rfl
@[simp] theorem store_dozeAt (ch : Chip) (a : Nat) (bs : List Byte) (p : Bool) : (ch.store a bs p).dozeAt = ch.dozeAt := rfl
@[simp] theorem store_pixelTap (ch : Chip) (a : Nat) (bs : List Byte) (p : Bool) : (ch.store a bs p).pixelTap = ch.pixelTap := rfl
@[simp] theorem store_dozeActs (ch : Chip) (a : Nat) (bs : List Byte) (p : Bool) : (ch.store a bs p).dozeActs = ch.dozeActs := rfl

/-! ### setMc: the memory controller changed -/

@[simp] theorem setMc_pos (ch : Chip) (f : MemCtl → MemCtl) : (ch.setMc f).pos = ch.pos := rfl
@[simp] theorem setMc_regs (ch : Chip) (f : MemCtl → MemCtl) : (ch.setMc f).regs = ch.regs := rfl
@[simp] theorem setMc_mem (ch : Chip) (f : MemCtl → MemCtl) : (ch.setMc f).mem = ch.mem := rfl
@[simp] theorem setMc_poisoned (ch : Chip) (f : MemCtl → MemCtl) : (ch.setMc f).poisoned = ch.poisoned := rfl
@[simp] theorem setMc_out (ch : Chip) (f : MemCtl → MemCtl) : (ch.setMc f).out = ch.out := rfl
@[simp] theorem setMc_faultQ (ch : Chip) (f : MemCtl → MemCtl) : (ch.setMc f).faultQ = ch.faultQ := rfl
@[simp] theorem setMc_draws (ch : Chip) (f : MemCtl → MemCtl) : (ch.setMc f).draws = ch.draws := rfl
@[simp] theorem setMc_tkp (ch : Chip) (f : MemCtl → MemCtl) : (ch.setMc f).tkp = ch.tkp := rfl
@[simp] theorem setMc_ceil (ch : Chip) (f : MemCtl → MemCtl) : (ch.setMc f).ceil = ch.ceil := rfl
@[simp] theorem setMc_hif (ch : Chip) (f : MemCtl → MemCtl) : (ch.setMc f).hif = ch.hif := rfl
@[simp] theorem setMc_xings (ch : Chip) (f : MemCtl → MemCtl) : (ch.setMc f).xings = ch.xings := rfl
@[simp] theorem setMc_media (ch : Chip) (f : MemCtl → MemCtl) : (ch.setMc f).media = ch.media := rfl
@[simp] theorem setMc_fab (ch : Chip) (f : MemCtl → MemCtl) : (ch.setMc f).fab = ch.fab := rfl
@[simp] theorem setMc_trail (ch : Chip) (f : MemCtl → MemCtl) : (ch.setMc f).trail = ch.trail := rfl
@[simp] theorem setMc_fcu (ch : Chip) (f : MemCtl → MemCtl) : (ch.setMc f).fcu = ch.fcu := rfl
@[simp] theorem setMc_coa (ch : Chip) (f : MemCtl → MemCtl) : (ch.setMc f).coa = ch.coa := rfl
@[simp] theorem setMc_sen (ch : Chip) (f : MemCtl → MemCtl) : (ch.setMc f).sen = ch.sen := rfl
@[simp] theorem setMc_siv (ch : Chip) (f : MemCtl → MemCtl) : (ch.setMc f).siv = ch.siv := rfl
@[simp] theorem setMc_hnd (ch : Chip) (f : MemCtl → MemCtl) : (ch.setMc f).hnd = ch.hnd := rfl
@[simp] theorem setMc_adp (ch : Chip) (f : MemCtl → MemCtl) : (ch.setMc f).adp = ch.adp := rfl
@[simp] theorem setMc_pw (ch : Chip) (f : MemCtl → MemCtl) : (ch.setMc f).pw = ch.pw := rfl
@[simp] theorem setMc_dozeAt (ch : Chip) (f : MemCtl → MemCtl) : (ch.setMc f).dozeAt = ch.dozeAt := rfl
@[simp] theorem setMc_pixelTap (ch : Chip) (f : MemCtl → MemCtl) : (ch.setMc f).pixelTap = ch.pixelTap := rfl
@[simp] theorem setMc_dozeActs (ch : Chip) (f : MemCtl → MemCtl) : (ch.setMc f).dozeActs = ch.dozeActs := rfl

/-! ### setTrail: the Trail changed -/

@[simp] theorem setTrail_pos (ch : Chip) (f : Trail → Trail) : (ch.setTrail f).pos = ch.pos := rfl
@[simp] theorem setTrail_regs (ch : Chip) (f : Trail → Trail) : (ch.setTrail f).regs = ch.regs := rfl
@[simp] theorem setTrail_mem (ch : Chip) (f : Trail → Trail) : (ch.setTrail f).mem = ch.mem := rfl
@[simp] theorem setTrail_poisoned (ch : Chip) (f : Trail → Trail) : (ch.setTrail f).poisoned = ch.poisoned := rfl
@[simp] theorem setTrail_out (ch : Chip) (f : Trail → Trail) : (ch.setTrail f).out = ch.out := rfl
@[simp] theorem setTrail_faultQ (ch : Chip) (f : Trail → Trail) : (ch.setTrail f).faultQ = ch.faultQ := rfl
@[simp] theorem setTrail_draws (ch : Chip) (f : Trail → Trail) : (ch.setTrail f).draws = ch.draws := rfl
@[simp] theorem setTrail_tkp (ch : Chip) (f : Trail → Trail) : (ch.setTrail f).tkp = ch.tkp := rfl
@[simp] theorem setTrail_ceil (ch : Chip) (f : Trail → Trail) : (ch.setTrail f).ceil = ch.ceil := rfl
@[simp] theorem setTrail_hif (ch : Chip) (f : Trail → Trail) : (ch.setTrail f).hif = ch.hif := rfl
@[simp] theorem setTrail_xings (ch : Chip) (f : Trail → Trail) : (ch.setTrail f).xings = ch.xings := rfl
@[simp] theorem setTrail_media (ch : Chip) (f : Trail → Trail) : (ch.setTrail f).media = ch.media := rfl
@[simp] theorem setTrail_fab (ch : Chip) (f : Trail → Trail) : (ch.setTrail f).fab = ch.fab := rfl
@[simp] theorem setTrail_mc (ch : Chip) (f : Trail → Trail) : (ch.setTrail f).mc = ch.mc := rfl
@[simp] theorem setTrail_fcu (ch : Chip) (f : Trail → Trail) : (ch.setTrail f).fcu = ch.fcu := rfl
@[simp] theorem setTrail_coa (ch : Chip) (f : Trail → Trail) : (ch.setTrail f).coa = ch.coa := rfl
@[simp] theorem setTrail_sen (ch : Chip) (f : Trail → Trail) : (ch.setTrail f).sen = ch.sen := rfl
@[simp] theorem setTrail_siv (ch : Chip) (f : Trail → Trail) : (ch.setTrail f).siv = ch.siv := rfl
@[simp] theorem setTrail_hnd (ch : Chip) (f : Trail → Trail) : (ch.setTrail f).hnd = ch.hnd := rfl
@[simp] theorem setTrail_adp (ch : Chip) (f : Trail → Trail) : (ch.setTrail f).adp = ch.adp := rfl
@[simp] theorem setTrail_pw (ch : Chip) (f : Trail → Trail) : (ch.setTrail f).pw = ch.pw := rfl
@[simp] theorem setTrail_dozeAt (ch : Chip) (f : Trail → Trail) : (ch.setTrail f).dozeAt = ch.dozeAt := rfl
@[simp] theorem setTrail_pixelTap (ch : Chip) (f : Trail → Trail) : (ch.setTrail f).pixelTap = ch.pixelTap := rfl
@[simp] theorem setTrail_dozeActs (ch : Chip) (f : Trail → Trail) : (ch.setTrail f).dozeActs = ch.dozeActs := rfl

/-! ### setLink: a link changed -/

@[simp] theorem setLink_pos (ch : Chip) (l : Nat) (x : Link) : (ch.setLink l x).pos = ch.pos := by unfold Chip.setLink; split <;> rfl
@[simp] theorem setLink_regs (ch : Chip) (l : Nat) (x : Link) : (ch.setLink l x).regs = ch.regs := by unfold Chip.setLink; split <;> rfl
@[simp] theorem setLink_mem (ch : Chip) (l : Nat) (x : Link) : (ch.setLink l x).mem = ch.mem := by unfold Chip.setLink; split <;> rfl
@[simp] theorem setLink_poisoned (ch : Chip) (l : Nat) (x : Link) : (ch.setLink l x).poisoned = ch.poisoned := by unfold Chip.setLink; split <;> rfl
@[simp] theorem setLink_out (ch : Chip) (l : Nat) (x : Link) : (ch.setLink l x).out = ch.out := by unfold Chip.setLink; split <;> rfl
@[simp] theorem setLink_faultQ (ch : Chip) (l : Nat) (x : Link) : (ch.setLink l x).faultQ = ch.faultQ := by unfold Chip.setLink; split <;> rfl
@[simp] theorem setLink_draws (ch : Chip) (l : Nat) (x : Link) : (ch.setLink l x).draws = ch.draws := by unfold Chip.setLink; split <;> rfl
@[simp] theorem setLink_tkp (ch : Chip) (l : Nat) (x : Link) : (ch.setLink l x).tkp = ch.tkp := by unfold Chip.setLink; split <;> rfl
@[simp] theorem setLink_ceil (ch : Chip) (l : Nat) (x : Link) : (ch.setLink l x).ceil = ch.ceil := by unfold Chip.setLink; split <;> rfl
@[simp] theorem setLink_hif (ch : Chip) (l : Nat) (x : Link) : (ch.setLink l x).hif = ch.hif := by unfold Chip.setLink; split <;> rfl
@[simp] theorem setLink_xings (ch : Chip) (l : Nat) (x : Link) : (ch.setLink l x).xings = ch.xings := by unfold Chip.setLink; split <;> rfl
@[simp] theorem setLink_media (ch : Chip) (l : Nat) (x : Link) : (ch.setLink l x).media = ch.media := by unfold Chip.setLink; split <;> rfl
@[simp] theorem setLink_fab (ch : Chip) (l : Nat) (x : Link) : (ch.setLink l x).fab = ch.fab := by unfold Chip.setLink; split <;> rfl
@[simp] theorem setLink_mc (ch : Chip) (l : Nat) (x : Link) : (ch.setLink l x).mc = ch.mc := by unfold Chip.setLink; split <;> rfl
@[simp] theorem setLink_fcu (ch : Chip) (l : Nat) (x : Link) : (ch.setLink l x).fcu = ch.fcu := by unfold Chip.setLink; split <;> rfl
@[simp] theorem setLink_coa (ch : Chip) (l : Nat) (x : Link) : (ch.setLink l x).coa = ch.coa := by unfold Chip.setLink; split <;> rfl
@[simp] theorem setLink_sen (ch : Chip) (l : Nat) (x : Link) : (ch.setLink l x).sen = ch.sen := by unfold Chip.setLink; split <;> rfl
@[simp] theorem setLink_siv (ch : Chip) (l : Nat) (x : Link) : (ch.setLink l x).siv = ch.siv := by unfold Chip.setLink; split <;> rfl
@[simp] theorem setLink_hnd (ch : Chip) (l : Nat) (x : Link) : (ch.setLink l x).hnd = ch.hnd := by unfold Chip.setLink; split <;> rfl
@[simp] theorem setLink_adp (ch : Chip) (l : Nat) (x : Link) : (ch.setLink l x).adp = ch.adp := by unfold Chip.setLink; split <;> rfl
@[simp] theorem setLink_pw (ch : Chip) (l : Nat) (x : Link) : (ch.setLink l x).pw = ch.pw := by unfold Chip.setLink; split <;> rfl
@[simp] theorem setLink_dozeAt (ch : Chip) (l : Nat) (x : Link) : (ch.setLink l x).dozeAt = ch.dozeAt := by unfold Chip.setLink; split <;> rfl
@[simp] theorem setLink_pixelTap (ch : Chip) (l : Nat) (x : Link) : (ch.setLink l x).pixelTap = ch.pixelTap := by unfold Chip.setLink; split <;> rfl
@[simp] theorem setLink_dozeActs (ch : Chip) (l : Nat) (x : Link) : (ch.setLink l x).dozeActs = ch.dozeActs := by unfold Chip.setLink; split <;> rfl

/-! ### setTkp: the Timekeeper changed -/

@[simp] theorem setTkp_pos (ch : Chip) (x : Tkp) : (ch.setTkp x).pos = ch.pos := rfl
@[simp] theorem setTkp_regs (ch : Chip) (x : Tkp) : (ch.setTkp x).regs = ch.regs := rfl
@[simp] theorem setTkp_mem (ch : Chip) (x : Tkp) : (ch.setTkp x).mem = ch.mem := rfl
@[simp] theorem setTkp_poisoned (ch : Chip) (x : Tkp) : (ch.setTkp x).poisoned = ch.poisoned := rfl
@[simp] theorem setTkp_out (ch : Chip) (x : Tkp) : (ch.setTkp x).out = ch.out := rfl
@[simp] theorem setTkp_faultQ (ch : Chip) (x : Tkp) : (ch.setTkp x).faultQ = ch.faultQ := rfl
@[simp] theorem setTkp_draws (ch : Chip) (x : Tkp) : (ch.setTkp x).draws = ch.draws := rfl
@[simp] theorem setTkp_ceil (ch : Chip) (x : Tkp) : (ch.setTkp x).ceil = ch.ceil := rfl
@[simp] theorem setTkp_hif (ch : Chip) (x : Tkp) : (ch.setTkp x).hif = ch.hif := rfl
@[simp] theorem setTkp_xings (ch : Chip) (x : Tkp) : (ch.setTkp x).xings = ch.xings := rfl
@[simp] theorem setTkp_media (ch : Chip) (x : Tkp) : (ch.setTkp x).media = ch.media := rfl
@[simp] theorem setTkp_fab (ch : Chip) (x : Tkp) : (ch.setTkp x).fab = ch.fab := rfl
@[simp] theorem setTkp_trail (ch : Chip) (x : Tkp) : (ch.setTkp x).trail = ch.trail := rfl
@[simp] theorem setTkp_mc (ch : Chip) (x : Tkp) : (ch.setTkp x).mc = ch.mc := rfl
@[simp] theorem setTkp_fcu (ch : Chip) (x : Tkp) : (ch.setTkp x).fcu = ch.fcu := rfl
@[simp] theorem setTkp_coa (ch : Chip) (x : Tkp) : (ch.setTkp x).coa = ch.coa := rfl
@[simp] theorem setTkp_sen (ch : Chip) (x : Tkp) : (ch.setTkp x).sen = ch.sen := rfl
@[simp] theorem setTkp_siv (ch : Chip) (x : Tkp) : (ch.setTkp x).siv = ch.siv := rfl
@[simp] theorem setTkp_hnd (ch : Chip) (x : Tkp) : (ch.setTkp x).hnd = ch.hnd := rfl
@[simp] theorem setTkp_adp (ch : Chip) (x : Tkp) : (ch.setTkp x).adp = ch.adp := rfl
@[simp] theorem setTkp_pw (ch : Chip) (x : Tkp) : (ch.setTkp x).pw = ch.pw := rfl
@[simp] theorem setTkp_dozeAt (ch : Chip) (x : Tkp) : (ch.setTkp x).dozeAt = ch.dozeAt := rfl
@[simp] theorem setTkp_pixelTap (ch : Chip) (x : Tkp) : (ch.setTkp x).pixelTap = ch.pixelTap := rfl
@[simp] theorem setTkp_dozeActs (ch : Chip) (x : Tkp) : (ch.setTkp x).dozeActs = ch.dozeActs := rfl

/-! ### setXing: a crossing changed -/

@[simp] theorem setXing_pos (ch : Chip) (a b : Nat) (f : Xing → Xing) : (ch.setXing a b f).pos = ch.pos := rfl
@[simp] theorem setXing_regs (ch : Chip) (a b : Nat) (f : Xing → Xing) : (ch.setXing a b f).regs = ch.regs := rfl
@[simp] theorem setXing_mem (ch : Chip) (a b : Nat) (f : Xing → Xing) : (ch.setXing a b f).mem = ch.mem := rfl
@[simp] theorem setXing_poisoned (ch : Chip) (a b : Nat) (f : Xing → Xing) : (ch.setXing a b f).poisoned = ch.poisoned := rfl
@[simp] theorem setXing_out (ch : Chip) (a b : Nat) (f : Xing → Xing) : (ch.setXing a b f).out = ch.out := rfl
@[simp] theorem setXing_faultQ (ch : Chip) (a b : Nat) (f : Xing → Xing) : (ch.setXing a b f).faultQ = ch.faultQ := rfl
@[simp] theorem setXing_draws (ch : Chip) (a b : Nat) (f : Xing → Xing) : (ch.setXing a b f).draws = ch.draws := rfl
@[simp] theorem setXing_tkp (ch : Chip) (a b : Nat) (f : Xing → Xing) : (ch.setXing a b f).tkp = ch.tkp := rfl
@[simp] theorem setXing_ceil (ch : Chip) (a b : Nat) (f : Xing → Xing) : (ch.setXing a b f).ceil = ch.ceil := rfl
@[simp] theorem setXing_hif (ch : Chip) (a b : Nat) (f : Xing → Xing) : (ch.setXing a b f).hif = ch.hif := rfl
@[simp] theorem setXing_media (ch : Chip) (a b : Nat) (f : Xing → Xing) : (ch.setXing a b f).media = ch.media := rfl
@[simp] theorem setXing_fab (ch : Chip) (a b : Nat) (f : Xing → Xing) : (ch.setXing a b f).fab = ch.fab := rfl
@[simp] theorem setXing_trail (ch : Chip) (a b : Nat) (f : Xing → Xing) : (ch.setXing a b f).trail = ch.trail := rfl
@[simp] theorem setXing_mc (ch : Chip) (a b : Nat) (f : Xing → Xing) : (ch.setXing a b f).mc = ch.mc := rfl
@[simp] theorem setXing_fcu (ch : Chip) (a b : Nat) (f : Xing → Xing) : (ch.setXing a b f).fcu = ch.fcu := rfl
@[simp] theorem setXing_coa (ch : Chip) (a b : Nat) (f : Xing → Xing) : (ch.setXing a b f).coa = ch.coa := rfl
@[simp] theorem setXing_sen (ch : Chip) (a b : Nat) (f : Xing → Xing) : (ch.setXing a b f).sen = ch.sen := rfl
@[simp] theorem setXing_siv (ch : Chip) (a b : Nat) (f : Xing → Xing) : (ch.setXing a b f).siv = ch.siv := rfl
@[simp] theorem setXing_hnd (ch : Chip) (a b : Nat) (f : Xing → Xing) : (ch.setXing a b f).hnd = ch.hnd := rfl
@[simp] theorem setXing_adp (ch : Chip) (a b : Nat) (f : Xing → Xing) : (ch.setXing a b f).adp = ch.adp := rfl
@[simp] theorem setXing_pw (ch : Chip) (a b : Nat) (f : Xing → Xing) : (ch.setXing a b f).pw = ch.pw := rfl
@[simp] theorem setXing_dozeAt (ch : Chip) (a b : Nat) (f : Xing → Xing) : (ch.setXing a b f).dozeAt = ch.dozeAt := rfl
@[simp] theorem setXing_pixelTap (ch : Chip) (a b : Nat) (f : Xing → Xing) : (ch.setXing a b f).pixelTap = ch.pixelTap := rfl
@[simp] theorem setXing_dozeActs (ch : Chip) (a b : Nat) (f : Xing → Xing) : (ch.setXing a b f).dozeActs = ch.dozeActs := rfl

/-! ### setSen: the Sentry changed -/

@[simp] theorem setSen_pos (ch : Chip) (x : Sentry) : (ch.setSen x).pos = ch.pos := rfl
@[simp] theorem setSen_regs (ch : Chip) (x : Sentry) : (ch.setSen x).regs = ch.regs := rfl
@[simp] theorem setSen_mem (ch : Chip) (x : Sentry) : (ch.setSen x).mem = ch.mem := rfl
@[simp] theorem setSen_poisoned (ch : Chip) (x : Sentry) : (ch.setSen x).poisoned = ch.poisoned := rfl
@[simp] theorem setSen_out (ch : Chip) (x : Sentry) : (ch.setSen x).out = ch.out := rfl
@[simp] theorem setSen_faultQ (ch : Chip) (x : Sentry) : (ch.setSen x).faultQ = ch.faultQ := rfl
@[simp] theorem setSen_draws (ch : Chip) (x : Sentry) : (ch.setSen x).draws = ch.draws := rfl
@[simp] theorem setSen_tkp (ch : Chip) (x : Sentry) : (ch.setSen x).tkp = ch.tkp := rfl
@[simp] theorem setSen_ceil (ch : Chip) (x : Sentry) : (ch.setSen x).ceil = ch.ceil := rfl
@[simp] theorem setSen_hif (ch : Chip) (x : Sentry) : (ch.setSen x).hif = ch.hif := rfl
@[simp] theorem setSen_xings (ch : Chip) (x : Sentry) : (ch.setSen x).xings = ch.xings := rfl
@[simp] theorem setSen_media (ch : Chip) (x : Sentry) : (ch.setSen x).media = ch.media := rfl
@[simp] theorem setSen_fab (ch : Chip) (x : Sentry) : (ch.setSen x).fab = ch.fab := rfl
@[simp] theorem setSen_trail (ch : Chip) (x : Sentry) : (ch.setSen x).trail = ch.trail := rfl
@[simp] theorem setSen_mc (ch : Chip) (x : Sentry) : (ch.setSen x).mc = ch.mc := rfl
@[simp] theorem setSen_fcu (ch : Chip) (x : Sentry) : (ch.setSen x).fcu = ch.fcu := rfl
@[simp] theorem setSen_coa (ch : Chip) (x : Sentry) : (ch.setSen x).coa = ch.coa := rfl
@[simp] theorem setSen_siv (ch : Chip) (x : Sentry) : (ch.setSen x).siv = ch.siv := rfl
@[simp] theorem setSen_hnd (ch : Chip) (x : Sentry) : (ch.setSen x).hnd = ch.hnd := rfl
@[simp] theorem setSen_adp (ch : Chip) (x : Sentry) : (ch.setSen x).adp = ch.adp := rfl
@[simp] theorem setSen_pw (ch : Chip) (x : Sentry) : (ch.setSen x).pw = ch.pw := rfl
@[simp] theorem setSen_dozeAt (ch : Chip) (x : Sentry) : (ch.setSen x).dozeAt = ch.dozeAt := rfl
@[simp] theorem setSen_pixelTap (ch : Chip) (x : Sentry) : (ch.setSen x).pixelTap = ch.pixelTap := rfl
@[simp] theorem setSen_dozeActs (ch : Chip) (x : Sentry) : (ch.setSen x).dozeActs = ch.dozeActs := rfl

/-! ### setHead: a head changed -/

@[simp] theorem setHead_pos (ch : Chip) (h : Nat) (x : Head) : (ch.setHead h x).pos = ch.pos := rfl
@[simp] theorem setHead_regs (ch : Chip) (h : Nat) (x : Head) : (ch.setHead h x).regs = ch.regs := rfl
@[simp] theorem setHead_mem (ch : Chip) (h : Nat) (x : Head) : (ch.setHead h x).mem = ch.mem := rfl
@[simp] theorem setHead_poisoned (ch : Chip) (h : Nat) (x : Head) : (ch.setHead h x).poisoned = ch.poisoned := rfl
@[simp] theorem setHead_out (ch : Chip) (h : Nat) (x : Head) : (ch.setHead h x).out = ch.out := rfl
@[simp] theorem setHead_faultQ (ch : Chip) (h : Nat) (x : Head) : (ch.setHead h x).faultQ = ch.faultQ := rfl
@[simp] theorem setHead_draws (ch : Chip) (h : Nat) (x : Head) : (ch.setHead h x).draws = ch.draws := rfl
@[simp] theorem setHead_tkp (ch : Chip) (h : Nat) (x : Head) : (ch.setHead h x).tkp = ch.tkp := rfl
@[simp] theorem setHead_ceil (ch : Chip) (h : Nat) (x : Head) : (ch.setHead h x).ceil = ch.ceil := rfl
@[simp] theorem setHead_hif (ch : Chip) (h : Nat) (x : Head) : (ch.setHead h x).hif = ch.hif := rfl
@[simp] theorem setHead_xings (ch : Chip) (h : Nat) (x : Head) : (ch.setHead h x).xings = ch.xings := rfl
@[simp] theorem setHead_media (ch : Chip) (h : Nat) (x : Head) : (ch.setHead h x).media = ch.media := rfl
@[simp] theorem setHead_fab (ch : Chip) (h : Nat) (x : Head) : (ch.setHead h x).fab = ch.fab := rfl
@[simp] theorem setHead_trail (ch : Chip) (h : Nat) (x : Head) : (ch.setHead h x).trail = ch.trail := rfl
@[simp] theorem setHead_mc (ch : Chip) (h : Nat) (x : Head) : (ch.setHead h x).mc = ch.mc := rfl
@[simp] theorem setHead_fcu (ch : Chip) (h : Nat) (x : Head) : (ch.setHead h x).fcu = ch.fcu := rfl
@[simp] theorem setHead_sen (ch : Chip) (h : Nat) (x : Head) : (ch.setHead h x).sen = ch.sen := rfl
@[simp] theorem setHead_siv (ch : Chip) (h : Nat) (x : Head) : (ch.setHead h x).siv = ch.siv := rfl
@[simp] theorem setHead_hnd (ch : Chip) (h : Nat) (x : Head) : (ch.setHead h x).hnd = ch.hnd := rfl
@[simp] theorem setHead_adp (ch : Chip) (h : Nat) (x : Head) : (ch.setHead h x).adp = ch.adp := rfl
@[simp] theorem setHead_pw (ch : Chip) (h : Nat) (x : Head) : (ch.setHead h x).pw = ch.pw := rfl
@[simp] theorem setHead_dozeAt (ch : Chip) (h : Nat) (x : Head) : (ch.setHead h x).dozeAt = ch.dozeAt := rfl
@[simp] theorem setHead_pixelTap (ch : Chip) (h : Nat) (x : Head) : (ch.setHead h x).pixelTap = ch.pixelTap := rfl
@[simp] theorem setHead_dozeActs (ch : Chip) (h : Nat) (x : Head) : (ch.setHead h x).dozeActs = ch.dozeActs := rfl

/-! ### setSlot: a graph slot changed -/

@[simp] theorem setSlot_pos (ch : Chip) (k : Nat) (x : Slot) : (ch.setSlot k x).pos = ch.pos := rfl
@[simp] theorem setSlot_regs (ch : Chip) (k : Nat) (x : Slot) : (ch.setSlot k x).regs = ch.regs := rfl
@[simp] theorem setSlot_mem (ch : Chip) (k : Nat) (x : Slot) : (ch.setSlot k x).mem = ch.mem := rfl
@[simp] theorem setSlot_poisoned (ch : Chip) (k : Nat) (x : Slot) : (ch.setSlot k x).poisoned = ch.poisoned := rfl
@[simp] theorem setSlot_out (ch : Chip) (k : Nat) (x : Slot) : (ch.setSlot k x).out = ch.out := rfl
@[simp] theorem setSlot_faultQ (ch : Chip) (k : Nat) (x : Slot) : (ch.setSlot k x).faultQ = ch.faultQ := rfl
@[simp] theorem setSlot_draws (ch : Chip) (k : Nat) (x : Slot) : (ch.setSlot k x).draws = ch.draws := rfl
@[simp] theorem setSlot_tkp (ch : Chip) (k : Nat) (x : Slot) : (ch.setSlot k x).tkp = ch.tkp := rfl
@[simp] theorem setSlot_ceil (ch : Chip) (k : Nat) (x : Slot) : (ch.setSlot k x).ceil = ch.ceil := rfl
@[simp] theorem setSlot_hif (ch : Chip) (k : Nat) (x : Slot) : (ch.setSlot k x).hif = ch.hif := rfl
@[simp] theorem setSlot_xings (ch : Chip) (k : Nat) (x : Slot) : (ch.setSlot k x).xings = ch.xings := rfl
@[simp] theorem setSlot_media (ch : Chip) (k : Nat) (x : Slot) : (ch.setSlot k x).media = ch.media := rfl
@[simp] theorem setSlot_trail (ch : Chip) (k : Nat) (x : Slot) : (ch.setSlot k x).trail = ch.trail := rfl
@[simp] theorem setSlot_mc (ch : Chip) (k : Nat) (x : Slot) : (ch.setSlot k x).mc = ch.mc := rfl
@[simp] theorem setSlot_fcu (ch : Chip) (k : Nat) (x : Slot) : (ch.setSlot k x).fcu = ch.fcu := rfl
@[simp] theorem setSlot_coa (ch : Chip) (k : Nat) (x : Slot) : (ch.setSlot k x).coa = ch.coa := rfl
@[simp] theorem setSlot_sen (ch : Chip) (k : Nat) (x : Slot) : (ch.setSlot k x).sen = ch.sen := rfl
@[simp] theorem setSlot_siv (ch : Chip) (k : Nat) (x : Slot) : (ch.setSlot k x).siv = ch.siv := rfl
@[simp] theorem setSlot_hnd (ch : Chip) (k : Nat) (x : Slot) : (ch.setSlot k x).hnd = ch.hnd := rfl
@[simp] theorem setSlot_adp (ch : Chip) (k : Nat) (x : Slot) : (ch.setSlot k x).adp = ch.adp := rfl
@[simp] theorem setSlot_pw (ch : Chip) (k : Nat) (x : Slot) : (ch.setSlot k x).pw = ch.pw := rfl
@[simp] theorem setSlot_dozeAt (ch : Chip) (k : Nat) (x : Slot) : (ch.setSlot k x).dozeAt = ch.dozeAt := rfl
@[simp] theorem setSlot_pixelTap (ch : Chip) (k : Nat) (x : Slot) : (ch.setSlot k x).pixelTap = ch.pixelTap := rfl
@[simp] theorem setSlot_dozeActs (ch : Chip) (k : Nat) (x : Slot) : (ch.setSlot k x).dozeActs = ch.dozeActs := rfl

/-! ### setInn: an Inn changed -/

@[simp] theorem setInn_pos (ch : Chip) (p : Nat) (x : Inn) : (ch.setInn p x).pos = ch.pos := rfl
@[simp] theorem setInn_regs (ch : Chip) (p : Nat) (x : Inn) : (ch.setInn p x).regs = ch.regs := rfl
@[simp] theorem setInn_mem (ch : Chip) (p : Nat) (x : Inn) : (ch.setInn p x).mem = ch.mem := rfl
@[simp] theorem setInn_poisoned (ch : Chip) (p : Nat) (x : Inn) : (ch.setInn p x).poisoned = ch.poisoned := rfl
@[simp] theorem setInn_out (ch : Chip) (p : Nat) (x : Inn) : (ch.setInn p x).out = ch.out := rfl
@[simp] theorem setInn_faultQ (ch : Chip) (p : Nat) (x : Inn) : (ch.setInn p x).faultQ = ch.faultQ := rfl
@[simp] theorem setInn_draws (ch : Chip) (p : Nat) (x : Inn) : (ch.setInn p x).draws = ch.draws := rfl
@[simp] theorem setInn_tkp (ch : Chip) (p : Nat) (x : Inn) : (ch.setInn p x).tkp = ch.tkp := rfl
@[simp] theorem setInn_ceil (ch : Chip) (p : Nat) (x : Inn) : (ch.setInn p x).ceil = ch.ceil := rfl
@[simp] theorem setInn_hif (ch : Chip) (p : Nat) (x : Inn) : (ch.setInn p x).hif = ch.hif := rfl
@[simp] theorem setInn_xings (ch : Chip) (p : Nat) (x : Inn) : (ch.setInn p x).xings = ch.xings := rfl
@[simp] theorem setInn_media (ch : Chip) (p : Nat) (x : Inn) : (ch.setInn p x).media = ch.media := rfl
@[simp] theorem setInn_trail (ch : Chip) (p : Nat) (x : Inn) : (ch.setInn p x).trail = ch.trail := rfl
@[simp] theorem setInn_mc (ch : Chip) (p : Nat) (x : Inn) : (ch.setInn p x).mc = ch.mc := rfl
@[simp] theorem setInn_fcu (ch : Chip) (p : Nat) (x : Inn) : (ch.setInn p x).fcu = ch.fcu := rfl
@[simp] theorem setInn_coa (ch : Chip) (p : Nat) (x : Inn) : (ch.setInn p x).coa = ch.coa := rfl
@[simp] theorem setInn_sen (ch : Chip) (p : Nat) (x : Inn) : (ch.setInn p x).sen = ch.sen := rfl
@[simp] theorem setInn_siv (ch : Chip) (p : Nat) (x : Inn) : (ch.setInn p x).siv = ch.siv := rfl
@[simp] theorem setInn_hnd (ch : Chip) (p : Nat) (x : Inn) : (ch.setInn p x).hnd = ch.hnd := rfl
@[simp] theorem setInn_adp (ch : Chip) (p : Nat) (x : Inn) : (ch.setInn p x).adp = ch.adp := rfl
@[simp] theorem setInn_pw (ch : Chip) (p : Nat) (x : Inn) : (ch.setInn p x).pw = ch.pw := rfl
@[simp] theorem setInn_dozeAt (ch : Chip) (p : Nat) (x : Inn) : (ch.setInn p x).dozeAt = ch.dozeAt := rfl
@[simp] theorem setInn_pixelTap (ch : Chip) (p : Nat) (x : Inn) : (ch.setInn p x).pixelTap = ch.pixelTap := rfl
@[simp] theorem setInn_dozeActs (ch : Chip) (p : Nat) (x : Inn) : (ch.setInn p x).dozeActs = ch.dozeActs := rfl

/-! ### setCore: the core of a PE changed -/

@[simp] theorem setCore_pos (ch : Chip) (p n : Nat) (x : Core) : (ch.setCore p n x).pos = ch.pos := rfl
@[simp] theorem setCore_regs (ch : Chip) (p n : Nat) (x : Core) : (ch.setCore p n x).regs = ch.regs := rfl
@[simp] theorem setCore_mem (ch : Chip) (p n : Nat) (x : Core) : (ch.setCore p n x).mem = ch.mem := rfl
@[simp] theorem setCore_poisoned (ch : Chip) (p n : Nat) (x : Core) : (ch.setCore p n x).poisoned = ch.poisoned := rfl
@[simp] theorem setCore_out (ch : Chip) (p n : Nat) (x : Core) : (ch.setCore p n x).out = ch.out := rfl
@[simp] theorem setCore_faultQ (ch : Chip) (p n : Nat) (x : Core) : (ch.setCore p n x).faultQ = ch.faultQ := rfl
@[simp] theorem setCore_draws (ch : Chip) (p n : Nat) (x : Core) : (ch.setCore p n x).draws = ch.draws := rfl
@[simp] theorem setCore_tkp (ch : Chip) (p n : Nat) (x : Core) : (ch.setCore p n x).tkp = ch.tkp := rfl
@[simp] theorem setCore_ceil (ch : Chip) (p n : Nat) (x : Core) : (ch.setCore p n x).ceil = ch.ceil := rfl
@[simp] theorem setCore_hif (ch : Chip) (p n : Nat) (x : Core) : (ch.setCore p n x).hif = ch.hif := rfl
@[simp] theorem setCore_xings (ch : Chip) (p n : Nat) (x : Core) : (ch.setCore p n x).xings = ch.xings := rfl
@[simp] theorem setCore_media (ch : Chip) (p n : Nat) (x : Core) : (ch.setCore p n x).media = ch.media := rfl
@[simp] theorem setCore_trail (ch : Chip) (p n : Nat) (x : Core) : (ch.setCore p n x).trail = ch.trail := rfl
@[simp] theorem setCore_mc (ch : Chip) (p n : Nat) (x : Core) : (ch.setCore p n x).mc = ch.mc := rfl
@[simp] theorem setCore_fcu (ch : Chip) (p n : Nat) (x : Core) : (ch.setCore p n x).fcu = ch.fcu := rfl
@[simp] theorem setCore_coa (ch : Chip) (p n : Nat) (x : Core) : (ch.setCore p n x).coa = ch.coa := rfl
@[simp] theorem setCore_sen (ch : Chip) (p n : Nat) (x : Core) : (ch.setCore p n x).sen = ch.sen := rfl
@[simp] theorem setCore_siv (ch : Chip) (p n : Nat) (x : Core) : (ch.setCore p n x).siv = ch.siv := rfl
@[simp] theorem setCore_hnd (ch : Chip) (p n : Nat) (x : Core) : (ch.setCore p n x).hnd = ch.hnd := rfl
@[simp] theorem setCore_adp (ch : Chip) (p n : Nat) (x : Core) : (ch.setCore p n x).adp = ch.adp := rfl
@[simp] theorem setCore_pw (ch : Chip) (p n : Nat) (x : Core) : (ch.setCore p n x).pw = ch.pw := rfl
@[simp] theorem setCore_dozeAt (ch : Chip) (p n : Nat) (x : Core) : (ch.setCore p n x).dozeAt = ch.dozeAt := rfl
@[simp] theorem setCore_pixelTap (ch : Chip) (p n : Nat) (x : Core) : (ch.setCore p n x).pixelTap = ch.pixelTap := rfl
@[simp] theorem setCore_dozeActs (ch : Chip) (p n : Nat) (x : Core) : (ch.setCore p n x).dozeActs = ch.dozeActs := rfl

/-! ### putCore: a core changed -/

@[simp] theorem putCore_pos (ch : Chip) (k : CoreId) (x : Core) : (ch.putCore k x).pos = ch.pos := by cases k <;> rfl
@[simp] theorem putCore_regs (ch : Chip) (k : CoreId) (x : Core) : (ch.putCore k x).regs = ch.regs := by cases k <;> rfl
@[simp] theorem putCore_mem (ch : Chip) (k : CoreId) (x : Core) : (ch.putCore k x).mem = ch.mem := by cases k <;> rfl
@[simp] theorem putCore_poisoned (ch : Chip) (k : CoreId) (x : Core) : (ch.putCore k x).poisoned = ch.poisoned := by cases k <;> rfl
@[simp] theorem putCore_out (ch : Chip) (k : CoreId) (x : Core) : (ch.putCore k x).out = ch.out := by cases k <;> rfl
@[simp] theorem putCore_faultQ (ch : Chip) (k : CoreId) (x : Core) : (ch.putCore k x).faultQ = ch.faultQ := by cases k <;> rfl
@[simp] theorem putCore_draws (ch : Chip) (k : CoreId) (x : Core) : (ch.putCore k x).draws = ch.draws := by cases k <;> rfl
@[simp] theorem putCore_tkp (ch : Chip) (k : CoreId) (x : Core) : (ch.putCore k x).tkp = ch.tkp := by cases k <;> rfl
@[simp] theorem putCore_ceil (ch : Chip) (k : CoreId) (x : Core) : (ch.putCore k x).ceil = ch.ceil := by cases k <;> rfl
@[simp] theorem putCore_hif (ch : Chip) (k : CoreId) (x : Core) : (ch.putCore k x).hif = ch.hif := by cases k <;> rfl
@[simp] theorem putCore_xings (ch : Chip) (k : CoreId) (x : Core) : (ch.putCore k x).xings = ch.xings := by cases k <;> rfl
@[simp] theorem putCore_media (ch : Chip) (k : CoreId) (x : Core) : (ch.putCore k x).media = ch.media := by cases k <;> rfl
@[simp] theorem putCore_trail (ch : Chip) (k : CoreId) (x : Core) : (ch.putCore k x).trail = ch.trail := by cases k <;> rfl
@[simp] theorem putCore_mc (ch : Chip) (k : CoreId) (x : Core) : (ch.putCore k x).mc = ch.mc := by cases k <;> rfl
@[simp] theorem putCore_fcu (ch : Chip) (k : CoreId) (x : Core) : (ch.putCore k x).fcu = ch.fcu := by cases k <;> rfl
@[simp] theorem putCore_coa (ch : Chip) (k : CoreId) (x : Core) : (ch.putCore k x).coa = ch.coa := by cases k <;> rfl
@[simp] theorem putCore_sen (ch : Chip) (k : CoreId) (x : Core) : (ch.putCore k x).sen = ch.sen := by cases k <;> rfl
@[simp] theorem putCore_siv (ch : Chip) (k : CoreId) (x : Core) : (ch.putCore k x).siv = ch.siv := by cases k <;> rfl
@[simp] theorem putCore_hnd (ch : Chip) (k : CoreId) (x : Core) : (ch.putCore k x).hnd = ch.hnd := by cases k <;> rfl
@[simp] theorem putCore_adp (ch : Chip) (k : CoreId) (x : Core) : (ch.putCore k x).adp = ch.adp := by cases k <;> rfl
@[simp] theorem putCore_pw (ch : Chip) (k : CoreId) (x : Core) : (ch.putCore k x).pw = ch.pw := by cases k <;> rfl
@[simp] theorem putCore_dozeAt (ch : Chip) (k : CoreId) (x : Core) : (ch.putCore k x).dozeAt = ch.dozeAt := by cases k <;> rfl
@[simp] theorem putCore_pixelTap (ch : Chip) (k : CoreId) (x : Core) : (ch.putCore k x).pixelTap = ch.pixelTap := by cases k <;> rfl
@[simp] theorem putCore_dozeActs (ch : Chip) (k : CoreId) (x : Core) : (ch.putCore k x).dozeActs = ch.dozeActs := by cases k <;> rfl

/-! ### setTen: a tensor engine changed -/

@[simp] theorem setTen_pos (ch : Chip) (p : Nat) (x : TenEng) : (ch.setTen p x).pos = ch.pos := rfl
@[simp] theorem setTen_regs (ch : Chip) (p : Nat) (x : TenEng) : (ch.setTen p x).regs = ch.regs := rfl
@[simp] theorem setTen_mem (ch : Chip) (p : Nat) (x : TenEng) : (ch.setTen p x).mem = ch.mem := rfl
@[simp] theorem setTen_poisoned (ch : Chip) (p : Nat) (x : TenEng) : (ch.setTen p x).poisoned = ch.poisoned := rfl
@[simp] theorem setTen_out (ch : Chip) (p : Nat) (x : TenEng) : (ch.setTen p x).out = ch.out := rfl
@[simp] theorem setTen_faultQ (ch : Chip) (p : Nat) (x : TenEng) : (ch.setTen p x).faultQ = ch.faultQ := rfl
@[simp] theorem setTen_draws (ch : Chip) (p : Nat) (x : TenEng) : (ch.setTen p x).draws = ch.draws := rfl
@[simp] theorem setTen_tkp (ch : Chip) (p : Nat) (x : TenEng) : (ch.setTen p x).tkp = ch.tkp := rfl
@[simp] theorem setTen_ceil (ch : Chip) (p : Nat) (x : TenEng) : (ch.setTen p x).ceil = ch.ceil := rfl
@[simp] theorem setTen_hif (ch : Chip) (p : Nat) (x : TenEng) : (ch.setTen p x).hif = ch.hif := rfl
@[simp] theorem setTen_xings (ch : Chip) (p : Nat) (x : TenEng) : (ch.setTen p x).xings = ch.xings := rfl
@[simp] theorem setTen_media (ch : Chip) (p : Nat) (x : TenEng) : (ch.setTen p x).media = ch.media := rfl
@[simp] theorem setTen_trail (ch : Chip) (p : Nat) (x : TenEng) : (ch.setTen p x).trail = ch.trail := rfl
@[simp] theorem setTen_mc (ch : Chip) (p : Nat) (x : TenEng) : (ch.setTen p x).mc = ch.mc := rfl
@[simp] theorem setTen_fcu (ch : Chip) (p : Nat) (x : TenEng) : (ch.setTen p x).fcu = ch.fcu := rfl
@[simp] theorem setTen_coa (ch : Chip) (p : Nat) (x : TenEng) : (ch.setTen p x).coa = ch.coa := rfl
@[simp] theorem setTen_sen (ch : Chip) (p : Nat) (x : TenEng) : (ch.setTen p x).sen = ch.sen := rfl
@[simp] theorem setTen_siv (ch : Chip) (p : Nat) (x : TenEng) : (ch.setTen p x).siv = ch.siv := rfl
@[simp] theorem setTen_hnd (ch : Chip) (p : Nat) (x : TenEng) : (ch.setTen p x).hnd = ch.hnd := rfl
@[simp] theorem setTen_adp (ch : Chip) (p : Nat) (x : TenEng) : (ch.setTen p x).adp = ch.adp := rfl
@[simp] theorem setTen_pw (ch : Chip) (p : Nat) (x : TenEng) : (ch.setTen p x).pw = ch.pw := rfl
@[simp] theorem setTen_dozeAt (ch : Chip) (p : Nat) (x : TenEng) : (ch.setTen p x).dozeAt = ch.dozeAt := rfl
@[simp] theorem setTen_pixelTap (ch : Chip) (p : Nat) (x : TenEng) : (ch.setTen p x).pixelTap = ch.pixelTap := rfl
@[simp] theorem setTen_dozeActs (ch : Chip) (p : Nat) (x : TenEng) : (ch.setTen p x).dozeActs = ch.dozeActs := rfl

/-! ### setFlow: a flow changed -/

@[simp] theorem setFlow_pos (ch : Chip) (n : Nat) (x : Flow) : (ch.setFlow n x).pos = ch.pos := rfl
@[simp] theorem setFlow_regs (ch : Chip) (n : Nat) (x : Flow) : (ch.setFlow n x).regs = ch.regs := rfl
@[simp] theorem setFlow_mem (ch : Chip) (n : Nat) (x : Flow) : (ch.setFlow n x).mem = ch.mem := rfl
@[simp] theorem setFlow_poisoned (ch : Chip) (n : Nat) (x : Flow) : (ch.setFlow n x).poisoned = ch.poisoned := rfl
@[simp] theorem setFlow_out (ch : Chip) (n : Nat) (x : Flow) : (ch.setFlow n x).out = ch.out := rfl
@[simp] theorem setFlow_faultQ (ch : Chip) (n : Nat) (x : Flow) : (ch.setFlow n x).faultQ = ch.faultQ := rfl
@[simp] theorem setFlow_draws (ch : Chip) (n : Nat) (x : Flow) : (ch.setFlow n x).draws = ch.draws := rfl
@[simp] theorem setFlow_tkp (ch : Chip) (n : Nat) (x : Flow) : (ch.setFlow n x).tkp = ch.tkp := rfl
@[simp] theorem setFlow_ceil (ch : Chip) (n : Nat) (x : Flow) : (ch.setFlow n x).ceil = ch.ceil := rfl
@[simp] theorem setFlow_hif (ch : Chip) (n : Nat) (x : Flow) : (ch.setFlow n x).hif = ch.hif := rfl
@[simp] theorem setFlow_xings (ch : Chip) (n : Nat) (x : Flow) : (ch.setFlow n x).xings = ch.xings := rfl
@[simp] theorem setFlow_media (ch : Chip) (n : Nat) (x : Flow) : (ch.setFlow n x).media = ch.media := rfl
@[simp] theorem setFlow_trail (ch : Chip) (n : Nat) (x : Flow) : (ch.setFlow n x).trail = ch.trail := rfl
@[simp] theorem setFlow_mc (ch : Chip) (n : Nat) (x : Flow) : (ch.setFlow n x).mc = ch.mc := rfl
@[simp] theorem setFlow_fcu (ch : Chip) (n : Nat) (x : Flow) : (ch.setFlow n x).fcu = ch.fcu := rfl
@[simp] theorem setFlow_coa (ch : Chip) (n : Nat) (x : Flow) : (ch.setFlow n x).coa = ch.coa := rfl
@[simp] theorem setFlow_sen (ch : Chip) (n : Nat) (x : Flow) : (ch.setFlow n x).sen = ch.sen := rfl
@[simp] theorem setFlow_siv (ch : Chip) (n : Nat) (x : Flow) : (ch.setFlow n x).siv = ch.siv := rfl
@[simp] theorem setFlow_hnd (ch : Chip) (n : Nat) (x : Flow) : (ch.setFlow n x).hnd = ch.hnd := rfl
@[simp] theorem setFlow_adp (ch : Chip) (n : Nat) (x : Flow) : (ch.setFlow n x).adp = ch.adp := rfl
@[simp] theorem setFlow_pw (ch : Chip) (n : Nat) (x : Flow) : (ch.setFlow n x).pw = ch.pw := rfl
@[simp] theorem setFlow_dozeAt (ch : Chip) (n : Nat) (x : Flow) : (ch.setFlow n x).dozeAt = ch.dozeAt := rfl
@[simp] theorem setFlow_pixelTap (ch : Chip) (n : Nat) (x : Flow) : (ch.setFlow n x).pixelTap = ch.pixelTap := rfl
@[simp] theorem setFlow_dozeActs (ch : Chip) (n : Nat) (x : Flow) : (ch.setFlow n x).dozeActs = ch.dozeActs := rfl

/-! ### setRing: a ring changed -/

@[simp] theorem setRing_pos (ch : Chip) (n : Nat) (x : Ring) : (ch.setRing n x).pos = ch.pos := rfl
@[simp] theorem setRing_regs (ch : Chip) (n : Nat) (x : Ring) : (ch.setRing n x).regs = ch.regs := rfl
@[simp] theorem setRing_mem (ch : Chip) (n : Nat) (x : Ring) : (ch.setRing n x).mem = ch.mem := rfl
@[simp] theorem setRing_poisoned (ch : Chip) (n : Nat) (x : Ring) : (ch.setRing n x).poisoned = ch.poisoned := rfl
@[simp] theorem setRing_out (ch : Chip) (n : Nat) (x : Ring) : (ch.setRing n x).out = ch.out := rfl
@[simp] theorem setRing_faultQ (ch : Chip) (n : Nat) (x : Ring) : (ch.setRing n x).faultQ = ch.faultQ := rfl
@[simp] theorem setRing_draws (ch : Chip) (n : Nat) (x : Ring) : (ch.setRing n x).draws = ch.draws := rfl
@[simp] theorem setRing_tkp (ch : Chip) (n : Nat) (x : Ring) : (ch.setRing n x).tkp = ch.tkp := rfl
@[simp] theorem setRing_ceil (ch : Chip) (n : Nat) (x : Ring) : (ch.setRing n x).ceil = ch.ceil := rfl
@[simp] theorem setRing_hif (ch : Chip) (n : Nat) (x : Ring) : (ch.setRing n x).hif = ch.hif := rfl
@[simp] theorem setRing_xings (ch : Chip) (n : Nat) (x : Ring) : (ch.setRing n x).xings = ch.xings := rfl
@[simp] theorem setRing_fab (ch : Chip) (n : Nat) (x : Ring) : (ch.setRing n x).fab = ch.fab := rfl
@[simp] theorem setRing_trail (ch : Chip) (n : Nat) (x : Ring) : (ch.setRing n x).trail = ch.trail := rfl
@[simp] theorem setRing_mc (ch : Chip) (n : Nat) (x : Ring) : (ch.setRing n x).mc = ch.mc := rfl
@[simp] theorem setRing_fcu (ch : Chip) (n : Nat) (x : Ring) : (ch.setRing n x).fcu = ch.fcu := rfl
@[simp] theorem setRing_coa (ch : Chip) (n : Nat) (x : Ring) : (ch.setRing n x).coa = ch.coa := rfl
@[simp] theorem setRing_sen (ch : Chip) (n : Nat) (x : Ring) : (ch.setRing n x).sen = ch.sen := rfl
@[simp] theorem setRing_siv (ch : Chip) (n : Nat) (x : Ring) : (ch.setRing n x).siv = ch.siv := rfl
@[simp] theorem setRing_hnd (ch : Chip) (n : Nat) (x : Ring) : (ch.setRing n x).hnd = ch.hnd := rfl
@[simp] theorem setRing_adp (ch : Chip) (n : Nat) (x : Ring) : (ch.setRing n x).adp = ch.adp := rfl
@[simp] theorem setRing_pw (ch : Chip) (n : Nat) (x : Ring) : (ch.setRing n x).pw = ch.pw := rfl
@[simp] theorem setRing_dozeAt (ch : Chip) (n : Nat) (x : Ring) : (ch.setRing n x).dozeAt = ch.dozeAt := rfl
@[simp] theorem setRing_pixelTap (ch : Chip) (n : Nat) (x : Ring) : (ch.setRing n x).pixelTap = ch.pixelTap := rfl
@[simp] theorem setRing_dozeActs (ch : Chip) (n : Nat) (x : Ring) : (ch.setRing n x).dozeActs = ch.dozeActs := rfl

/-! ### setStream: a stream changed -/

@[simp] theorem setStream_pos (ch : Chip) (n : Nat) (x : Stream) : (ch.setStream n x).pos = ch.pos := rfl
@[simp] theorem setStream_regs (ch : Chip) (n : Nat) (x : Stream) : (ch.setStream n x).regs = ch.regs := rfl
@[simp] theorem setStream_mem (ch : Chip) (n : Nat) (x : Stream) : (ch.setStream n x).mem = ch.mem := rfl
@[simp] theorem setStream_poisoned (ch : Chip) (n : Nat) (x : Stream) : (ch.setStream n x).poisoned = ch.poisoned := rfl
@[simp] theorem setStream_out (ch : Chip) (n : Nat) (x : Stream) : (ch.setStream n x).out = ch.out := rfl
@[simp] theorem setStream_faultQ (ch : Chip) (n : Nat) (x : Stream) : (ch.setStream n x).faultQ = ch.faultQ := rfl
@[simp] theorem setStream_draws (ch : Chip) (n : Nat) (x : Stream) : (ch.setStream n x).draws = ch.draws := rfl
@[simp] theorem setStream_tkp (ch : Chip) (n : Nat) (x : Stream) : (ch.setStream n x).tkp = ch.tkp := rfl
@[simp] theorem setStream_ceil (ch : Chip) (n : Nat) (x : Stream) : (ch.setStream n x).ceil = ch.ceil := rfl
@[simp] theorem setStream_hif (ch : Chip) (n : Nat) (x : Stream) : (ch.setStream n x).hif = ch.hif := rfl
@[simp] theorem setStream_xings (ch : Chip) (n : Nat) (x : Stream) : (ch.setStream n x).xings = ch.xings := rfl
@[simp] theorem setStream_fab (ch : Chip) (n : Nat) (x : Stream) : (ch.setStream n x).fab = ch.fab := rfl
@[simp] theorem setStream_trail (ch : Chip) (n : Nat) (x : Stream) : (ch.setStream n x).trail = ch.trail := rfl
@[simp] theorem setStream_mc (ch : Chip) (n : Nat) (x : Stream) : (ch.setStream n x).mc = ch.mc := rfl
@[simp] theorem setStream_fcu (ch : Chip) (n : Nat) (x : Stream) : (ch.setStream n x).fcu = ch.fcu := rfl
@[simp] theorem setStream_coa (ch : Chip) (n : Nat) (x : Stream) : (ch.setStream n x).coa = ch.coa := rfl
@[simp] theorem setStream_sen (ch : Chip) (n : Nat) (x : Stream) : (ch.setStream n x).sen = ch.sen := rfl
@[simp] theorem setStream_siv (ch : Chip) (n : Nat) (x : Stream) : (ch.setStream n x).siv = ch.siv := rfl
@[simp] theorem setStream_hnd (ch : Chip) (n : Nat) (x : Stream) : (ch.setStream n x).hnd = ch.hnd := rfl
@[simp] theorem setStream_adp (ch : Chip) (n : Nat) (x : Stream) : (ch.setStream n x).adp = ch.adp := rfl
@[simp] theorem setStream_pw (ch : Chip) (n : Nat) (x : Stream) : (ch.setStream n x).pw = ch.pw := rfl
@[simp] theorem setStream_dozeAt (ch : Chip) (n : Nat) (x : Stream) : (ch.setStream n x).dozeAt = ch.dozeAt := rfl
@[simp] theorem setStream_pixelTap (ch : Chip) (n : Nat) (x : Stream) : (ch.setStream n x).pixelTap = ch.pixelTap := rfl
@[simp] theorem setStream_dozeActs (ch : Chip) (n : Nat) (x : Stream) : (ch.setStream n x).dozeActs = ch.dozeActs := rfl

/-! ### setKennel: a kennel changed -/

@[simp] theorem setKennel_pos (ch : Chip) (k : Nat) (x : Kennel) : (ch.setKennel k x).pos = ch.pos := rfl
@[simp] theorem setKennel_regs (ch : Chip) (k : Nat) (x : Kennel) : (ch.setKennel k x).regs = ch.regs := rfl
@[simp] theorem setKennel_mem (ch : Chip) (k : Nat) (x : Kennel) : (ch.setKennel k x).mem = ch.mem := rfl
@[simp] theorem setKennel_poisoned (ch : Chip) (k : Nat) (x : Kennel) : (ch.setKennel k x).poisoned = ch.poisoned := rfl
@[simp] theorem setKennel_out (ch : Chip) (k : Nat) (x : Kennel) : (ch.setKennel k x).out = ch.out := rfl
@[simp] theorem setKennel_faultQ (ch : Chip) (k : Nat) (x : Kennel) : (ch.setKennel k x).faultQ = ch.faultQ := rfl
@[simp] theorem setKennel_draws (ch : Chip) (k : Nat) (x : Kennel) : (ch.setKennel k x).draws = ch.draws := rfl
@[simp] theorem setKennel_tkp (ch : Chip) (k : Nat) (x : Kennel) : (ch.setKennel k x).tkp = ch.tkp := rfl
@[simp] theorem setKennel_ceil (ch : Chip) (k : Nat) (x : Kennel) : (ch.setKennel k x).ceil = ch.ceil := rfl
@[simp] theorem setKennel_hif (ch : Chip) (k : Nat) (x : Kennel) : (ch.setKennel k x).hif = ch.hif := rfl
@[simp] theorem setKennel_xings (ch : Chip) (k : Nat) (x : Kennel) : (ch.setKennel k x).xings = ch.xings := rfl
@[simp] theorem setKennel_fab (ch : Chip) (k : Nat) (x : Kennel) : (ch.setKennel k x).fab = ch.fab := rfl
@[simp] theorem setKennel_trail (ch : Chip) (k : Nat) (x : Kennel) : (ch.setKennel k x).trail = ch.trail := rfl
@[simp] theorem setKennel_mc (ch : Chip) (k : Nat) (x : Kennel) : (ch.setKennel k x).mc = ch.mc := rfl
@[simp] theorem setKennel_fcu (ch : Chip) (k : Nat) (x : Kennel) : (ch.setKennel k x).fcu = ch.fcu := rfl
@[simp] theorem setKennel_coa (ch : Chip) (k : Nat) (x : Kennel) : (ch.setKennel k x).coa = ch.coa := rfl
@[simp] theorem setKennel_sen (ch : Chip) (k : Nat) (x : Kennel) : (ch.setKennel k x).sen = ch.sen := rfl
@[simp] theorem setKennel_siv (ch : Chip) (k : Nat) (x : Kennel) : (ch.setKennel k x).siv = ch.siv := rfl
@[simp] theorem setKennel_hnd (ch : Chip) (k : Nat) (x : Kennel) : (ch.setKennel k x).hnd = ch.hnd := rfl
@[simp] theorem setKennel_adp (ch : Chip) (k : Nat) (x : Kennel) : (ch.setKennel k x).adp = ch.adp := rfl
@[simp] theorem setKennel_pw (ch : Chip) (k : Nat) (x : Kennel) : (ch.setKennel k x).pw = ch.pw := rfl
@[simp] theorem setKennel_dozeAt (ch : Chip) (k : Nat) (x : Kennel) : (ch.setKennel k x).dozeAt = ch.dozeAt := rfl
@[simp] theorem setKennel_pixelTap (ch : Chip) (k : Nat) (x : Kennel) : (ch.setKennel k x).pixelTap = ch.pixelTap := rfl
@[simp] theorem setKennel_dozeActs (ch : Chip) (k : Nat) (x : Kennel) : (ch.setKennel k x).dozeActs = ch.dozeActs := rfl

/-! ### setSession: a session changed -/

@[simp] theorem setSession_pos (ch : Chip) (k : Nat) (x : Session) : (ch.setSession k x).pos = ch.pos := rfl
@[simp] theorem setSession_regs (ch : Chip) (k : Nat) (x : Session) : (ch.setSession k x).regs = ch.regs := rfl
@[simp] theorem setSession_mem (ch : Chip) (k : Nat) (x : Session) : (ch.setSession k x).mem = ch.mem := rfl
@[simp] theorem setSession_poisoned (ch : Chip) (k : Nat) (x : Session) : (ch.setSession k x).poisoned = ch.poisoned := rfl
@[simp] theorem setSession_out (ch : Chip) (k : Nat) (x : Session) : (ch.setSession k x).out = ch.out := rfl
@[simp] theorem setSession_faultQ (ch : Chip) (k : Nat) (x : Session) : (ch.setSession k x).faultQ = ch.faultQ := rfl
@[simp] theorem setSession_draws (ch : Chip) (k : Nat) (x : Session) : (ch.setSession k x).draws = ch.draws := rfl
@[simp] theorem setSession_tkp (ch : Chip) (k : Nat) (x : Session) : (ch.setSession k x).tkp = ch.tkp := rfl
@[simp] theorem setSession_ceil (ch : Chip) (k : Nat) (x : Session) : (ch.setSession k x).ceil = ch.ceil := rfl
@[simp] theorem setSession_hif (ch : Chip) (k : Nat) (x : Session) : (ch.setSession k x).hif = ch.hif := rfl
@[simp] theorem setSession_xings (ch : Chip) (k : Nat) (x : Session) : (ch.setSession k x).xings = ch.xings := rfl
@[simp] theorem setSession_fab (ch : Chip) (k : Nat) (x : Session) : (ch.setSession k x).fab = ch.fab := rfl
@[simp] theorem setSession_trail (ch : Chip) (k : Nat) (x : Session) : (ch.setSession k x).trail = ch.trail := rfl
@[simp] theorem setSession_mc (ch : Chip) (k : Nat) (x : Session) : (ch.setSession k x).mc = ch.mc := rfl
@[simp] theorem setSession_fcu (ch : Chip) (k : Nat) (x : Session) : (ch.setSession k x).fcu = ch.fcu := rfl
@[simp] theorem setSession_coa (ch : Chip) (k : Nat) (x : Session) : (ch.setSession k x).coa = ch.coa := rfl
@[simp] theorem setSession_sen (ch : Chip) (k : Nat) (x : Session) : (ch.setSession k x).sen = ch.sen := rfl
@[simp] theorem setSession_siv (ch : Chip) (k : Nat) (x : Session) : (ch.setSession k x).siv = ch.siv := rfl
@[simp] theorem setSession_hnd (ch : Chip) (k : Nat) (x : Session) : (ch.setSession k x).hnd = ch.hnd := rfl
@[simp] theorem setSession_adp (ch : Chip) (k : Nat) (x : Session) : (ch.setSession k x).adp = ch.adp := rfl
@[simp] theorem setSession_pw (ch : Chip) (k : Nat) (x : Session) : (ch.setSession k x).pw = ch.pw := rfl
@[simp] theorem setSession_dozeAt (ch : Chip) (k : Nat) (x : Session) : (ch.setSession k x).dozeAt = ch.dozeAt := rfl
@[simp] theorem setSession_pixelTap (ch : Chip) (k : Nat) (x : Session) : (ch.setSession k x).pixelTap = ch.pixelTap := rfl
@[simp] theorem setSession_dozeActs (ch : Chip) (k : Nat) (x : Session) : (ch.setSession k x).dozeActs = ch.dozeActs := rfl

/-! ### setAud: the audio front end changed, and the level of its feature queue with it -/

@[simp] theorem setAud_pos (ch : Chip) (x : Audio) : (ch.setAud x).pos = ch.pos := rfl
@[simp] theorem setAud_mem (ch : Chip) (x : Audio) : (ch.setAud x).mem = ch.mem := rfl
@[simp] theorem setAud_poisoned (ch : Chip) (x : Audio) : (ch.setAud x).poisoned = ch.poisoned := rfl
@[simp] theorem setAud_out (ch : Chip) (x : Audio) : (ch.setAud x).out = ch.out := rfl
@[simp] theorem setAud_faultQ (ch : Chip) (x : Audio) : (ch.setAud x).faultQ = ch.faultQ := rfl
@[simp] theorem setAud_draws (ch : Chip) (x : Audio) : (ch.setAud x).draws = ch.draws := rfl
@[simp] theorem setAud_tkp (ch : Chip) (x : Audio) : (ch.setAud x).tkp = ch.tkp := rfl
@[simp] theorem setAud_ceil (ch : Chip) (x : Audio) : (ch.setAud x).ceil = ch.ceil := rfl
@[simp] theorem setAud_hif (ch : Chip) (x : Audio) : (ch.setAud x).hif = ch.hif := rfl
@[simp] theorem setAud_xings (ch : Chip) (x : Audio) : (ch.setAud x).xings = ch.xings := rfl
@[simp] theorem setAud_fab (ch : Chip) (x : Audio) : (ch.setAud x).fab = ch.fab := rfl
@[simp] theorem setAud_trail (ch : Chip) (x : Audio) : (ch.setAud x).trail = ch.trail := rfl
@[simp] theorem setAud_mc (ch : Chip) (x : Audio) : (ch.setAud x).mc = ch.mc := rfl
@[simp] theorem setAud_fcu (ch : Chip) (x : Audio) : (ch.setAud x).fcu = ch.fcu := rfl
@[simp] theorem setAud_coa (ch : Chip) (x : Audio) : (ch.setAud x).coa = ch.coa := rfl
@[simp] theorem setAud_sen (ch : Chip) (x : Audio) : (ch.setAud x).sen = ch.sen := rfl
@[simp] theorem setAud_siv (ch : Chip) (x : Audio) : (ch.setAud x).siv = ch.siv := rfl
@[simp] theorem setAud_hnd (ch : Chip) (x : Audio) : (ch.setAud x).hnd = ch.hnd := rfl
@[simp] theorem setAud_adp (ch : Chip) (x : Audio) : (ch.setAud x).adp = ch.adp := rfl
@[simp] theorem setAud_pw (ch : Chip) (x : Audio) : (ch.setAud x).pw = ch.pw := rfl
@[simp] theorem setAud_dozeAt (ch : Chip) (x : Audio) : (ch.setAud x).dozeAt = ch.dozeAt := rfl
@[simp] theorem setAud_pixelTap (ch : Chip) (x : Audio) : (ch.setAud x).pixelTap = ch.pixelTap := rfl
@[simp] theorem setAud_dozeActs (ch : Chip) (x : Audio) : (ch.setAud x).dozeActs = ch.dozeActs := rfl

/-! ### setPorch: the Porch changed -/

@[simp] theorem setPorch_pos (ch : Chip) (x : Porch) : (ch.setPorch x).pos = ch.pos := rfl
@[simp] theorem setPorch_regs (ch : Chip) (x : Porch) : (ch.setPorch x).regs = ch.regs := rfl
@[simp] theorem setPorch_mem (ch : Chip) (x : Porch) : (ch.setPorch x).mem = ch.mem := rfl
@[simp] theorem setPorch_poisoned (ch : Chip) (x : Porch) : (ch.setPorch x).poisoned = ch.poisoned := rfl
@[simp] theorem setPorch_out (ch : Chip) (x : Porch) : (ch.setPorch x).out = ch.out := rfl
@[simp] theorem setPorch_faultQ (ch : Chip) (x : Porch) : (ch.setPorch x).faultQ = ch.faultQ := rfl
@[simp] theorem setPorch_draws (ch : Chip) (x : Porch) : (ch.setPorch x).draws = ch.draws := rfl
@[simp] theorem setPorch_tkp (ch : Chip) (x : Porch) : (ch.setPorch x).tkp = ch.tkp := rfl
@[simp] theorem setPorch_ceil (ch : Chip) (x : Porch) : (ch.setPorch x).ceil = ch.ceil := rfl
@[simp] theorem setPorch_hif (ch : Chip) (x : Porch) : (ch.setPorch x).hif = ch.hif := rfl
@[simp] theorem setPorch_xings (ch : Chip) (x : Porch) : (ch.setPorch x).xings = ch.xings := rfl
@[simp] theorem setPorch_fab (ch : Chip) (x : Porch) : (ch.setPorch x).fab = ch.fab := rfl
@[simp] theorem setPorch_trail (ch : Chip) (x : Porch) : (ch.setPorch x).trail = ch.trail := rfl
@[simp] theorem setPorch_mc (ch : Chip) (x : Porch) : (ch.setPorch x).mc = ch.mc := rfl
@[simp] theorem setPorch_fcu (ch : Chip) (x : Porch) : (ch.setPorch x).fcu = ch.fcu := rfl
@[simp] theorem setPorch_coa (ch : Chip) (x : Porch) : (ch.setPorch x).coa = ch.coa := rfl
@[simp] theorem setPorch_sen (ch : Chip) (x : Porch) : (ch.setPorch x).sen = ch.sen := rfl
@[simp] theorem setPorch_siv (ch : Chip) (x : Porch) : (ch.setPorch x).siv = ch.siv := rfl
@[simp] theorem setPorch_hnd (ch : Chip) (x : Porch) : (ch.setPorch x).hnd = ch.hnd := rfl
@[simp] theorem setPorch_adp (ch : Chip) (x : Porch) : (ch.setPorch x).adp = ch.adp := rfl
@[simp] theorem setPorch_pw (ch : Chip) (x : Porch) : (ch.setPorch x).pw = ch.pw := rfl
@[simp] theorem setPorch_dozeAt (ch : Chip) (x : Porch) : (ch.setPorch x).dozeAt = ch.dozeAt := rfl
@[simp] theorem setPorch_pixelTap (ch : Chip) (x : Porch) : (ch.setPorch x).pixelTap = ch.pixelTap := rfl
@[simp] theorem setPorch_dozeActs (ch : Chip) (x : Porch) : (ch.setPorch x).dozeActs = ch.dozeActs := rfl

/-! ### setHoldR: a holding register for reads written -/

@[simp] theorem setHoldR_pos (ch : Chip) (r : Requester) (o v : Nat) : (ch.setHoldR r o v).pos = ch.pos := by cases r <;> rfl
@[simp] theorem setHoldR_regs (ch : Chip) (r : Requester) (o v : Nat) : (ch.setHoldR r o v).regs = ch.regs := by cases r <;> rfl
@[simp] theorem setHoldR_mem (ch : Chip) (r : Requester) (o v : Nat) : (ch.setHoldR r o v).mem = ch.mem := by cases r <;> rfl
@[simp] theorem setHoldR_poisoned (ch : Chip) (r : Requester) (o v : Nat) : (ch.setHoldR r o v).poisoned = ch.poisoned := by cases r <;> rfl
@[simp] theorem setHoldR_out (ch : Chip) (r : Requester) (o v : Nat) : (ch.setHoldR r o v).out = ch.out := by cases r <;> rfl
@[simp] theorem setHoldR_faultQ (ch : Chip) (r : Requester) (o v : Nat) : (ch.setHoldR r o v).faultQ = ch.faultQ := by cases r <;> rfl
@[simp] theorem setHoldR_draws (ch : Chip) (r : Requester) (o v : Nat) : (ch.setHoldR r o v).draws = ch.draws := by cases r <;> rfl
@[simp] theorem setHoldR_tkp (ch : Chip) (r : Requester) (o v : Nat) : (ch.setHoldR r o v).tkp = ch.tkp := by cases r <;> rfl
@[simp] theorem setHoldR_ceil (ch : Chip) (r : Requester) (o v : Nat) : (ch.setHoldR r o v).ceil = ch.ceil := by cases r <;> rfl
@[simp] theorem setHoldR_xings (ch : Chip) (r : Requester) (o v : Nat) : (ch.setHoldR r o v).xings = ch.xings := by cases r <;> rfl
@[simp] theorem setHoldR_media (ch : Chip) (r : Requester) (o v : Nat) : (ch.setHoldR r o v).media = ch.media := by cases r <;> rfl
@[simp] theorem setHoldR_fab (ch : Chip) (r : Requester) (o v : Nat) : (ch.setHoldR r o v).fab = ch.fab := by cases r <;> rfl
@[simp] theorem setHoldR_trail (ch : Chip) (r : Requester) (o v : Nat) : (ch.setHoldR r o v).trail = ch.trail := by cases r <;> rfl
@[simp] theorem setHoldR_mc (ch : Chip) (r : Requester) (o v : Nat) : (ch.setHoldR r o v).mc = ch.mc := by cases r <;> rfl
@[simp] theorem setHoldR_fcu (ch : Chip) (r : Requester) (o v : Nat) : (ch.setHoldR r o v).fcu = ch.fcu := by cases r <;> rfl
@[simp] theorem setHoldR_coa (ch : Chip) (r : Requester) (o v : Nat) : (ch.setHoldR r o v).coa = ch.coa := by cases r <;> rfl
@[simp] theorem setHoldR_sen (ch : Chip) (r : Requester) (o v : Nat) : (ch.setHoldR r o v).sen = ch.sen := by cases r <;> rfl
@[simp] theorem setHoldR_siv (ch : Chip) (r : Requester) (o v : Nat) : (ch.setHoldR r o v).siv = ch.siv := by cases r <;> rfl
@[simp] theorem setHoldR_hnd (ch : Chip) (r : Requester) (o v : Nat) : (ch.setHoldR r o v).hnd = ch.hnd := by cases r <;> rfl
@[simp] theorem setHoldR_adp (ch : Chip) (r : Requester) (o v : Nat) : (ch.setHoldR r o v).adp = ch.adp := by cases r <;> rfl
@[simp] theorem setHoldR_pw (ch : Chip) (r : Requester) (o v : Nat) : (ch.setHoldR r o v).pw = ch.pw := by cases r <;> rfl
@[simp] theorem setHoldR_dozeAt (ch : Chip) (r : Requester) (o v : Nat) : (ch.setHoldR r o v).dozeAt = ch.dozeAt := by cases r <;> rfl
@[simp] theorem setHoldR_pixelTap (ch : Chip) (r : Requester) (o v : Nat) : (ch.setHoldR r o v).pixelTap = ch.pixelTap := by cases r <;> rfl
@[simp] theorem setHoldR_dozeActs (ch : Chip) (r : Requester) (o v : Nat) : (ch.setHoldR r o v).dozeActs = ch.dozeActs := by cases r <;> rfl

/-! ### setHoldW: a holding register for writes written -/

@[simp] theorem setHoldW_pos (ch : Chip) (r : Requester) (o v : Nat) : (ch.setHoldW r o v).pos = ch.pos := by cases r <;> rfl
@[simp] theorem setHoldW_regs (ch : Chip) (r : Requester) (o v : Nat) : (ch.setHoldW r o v).regs = ch.regs := by cases r <;> rfl
@[simp] theorem setHoldW_mem (ch : Chip) (r : Requester) (o v : Nat) : (ch.setHoldW r o v).mem = ch.mem := by cases r <;> rfl
@[simp] theorem setHoldW_poisoned (ch : Chip) (r : Requester) (o v : Nat) : (ch.setHoldW r o v).poisoned = ch.poisoned := by cases r <;> rfl
@[simp] theorem setHoldW_out (ch : Chip) (r : Requester) (o v : Nat) : (ch.setHoldW r o v).out = ch.out := by cases r <;> rfl
@[simp] theorem setHoldW_faultQ (ch : Chip) (r : Requester) (o v : Nat) : (ch.setHoldW r o v).faultQ = ch.faultQ := by cases r <;> rfl
@[simp] theorem setHoldW_draws (ch : Chip) (r : Requester) (o v : Nat) : (ch.setHoldW r o v).draws = ch.draws := by cases r <;> rfl
@[simp] theorem setHoldW_tkp (ch : Chip) (r : Requester) (o v : Nat) : (ch.setHoldW r o v).tkp = ch.tkp := by cases r <;> rfl
@[simp] theorem setHoldW_ceil (ch : Chip) (r : Requester) (o v : Nat) : (ch.setHoldW r o v).ceil = ch.ceil := by cases r <;> rfl
@[simp] theorem setHoldW_xings (ch : Chip) (r : Requester) (o v : Nat) : (ch.setHoldW r o v).xings = ch.xings := by cases r <;> rfl
@[simp] theorem setHoldW_media (ch : Chip) (r : Requester) (o v : Nat) : (ch.setHoldW r o v).media = ch.media := by cases r <;> rfl
@[simp] theorem setHoldW_fab (ch : Chip) (r : Requester) (o v : Nat) : (ch.setHoldW r o v).fab = ch.fab := by cases r <;> rfl
@[simp] theorem setHoldW_trail (ch : Chip) (r : Requester) (o v : Nat) : (ch.setHoldW r o v).trail = ch.trail := by cases r <;> rfl
@[simp] theorem setHoldW_mc (ch : Chip) (r : Requester) (o v : Nat) : (ch.setHoldW r o v).mc = ch.mc := by cases r <;> rfl
@[simp] theorem setHoldW_fcu (ch : Chip) (r : Requester) (o v : Nat) : (ch.setHoldW r o v).fcu = ch.fcu := by cases r <;> rfl
@[simp] theorem setHoldW_coa (ch : Chip) (r : Requester) (o v : Nat) : (ch.setHoldW r o v).coa = ch.coa := by cases r <;> rfl
@[simp] theorem setHoldW_sen (ch : Chip) (r : Requester) (o v : Nat) : (ch.setHoldW r o v).sen = ch.sen := by cases r <;> rfl
@[simp] theorem setHoldW_siv (ch : Chip) (r : Requester) (o v : Nat) : (ch.setHoldW r o v).siv = ch.siv := by cases r <;> rfl
@[simp] theorem setHoldW_hnd (ch : Chip) (r : Requester) (o v : Nat) : (ch.setHoldW r o v).hnd = ch.hnd := by cases r <;> rfl
@[simp] theorem setHoldW_adp (ch : Chip) (r : Requester) (o v : Nat) : (ch.setHoldW r o v).adp = ch.adp := by cases r <;> rfl
@[simp] theorem setHoldW_pw (ch : Chip) (r : Requester) (o v : Nat) : (ch.setHoldW r o v).pw = ch.pw := by cases r <;> rfl
@[simp] theorem setHoldW_dozeAt (ch : Chip) (r : Requester) (o v : Nat) : (ch.setHoldW r o v).dozeAt = ch.dozeAt := by cases r <;> rfl
@[simp] theorem setHoldW_pixelTap (ch : Chip) (r : Requester) (o v : Nat) : (ch.setHoldW r o v).pixelTap = ch.pixelTap := by cases r <;> rfl
@[simp] theorem setHoldW_dozeActs (ch : Chip) (r : Requester) (o v : Nat) : (ch.setHoldW r o v).dozeActs = ch.dozeActs := by cases r <;> rfl

/-! ### setCfg: configuration space written -/

@[simp] theorem setCfg_pos (ch : Chip) (o v : Nat) : (ch.setCfg o v).pos = ch.pos := rfl
@[simp] theorem setCfg_regs (ch : Chip) (o v : Nat) : (ch.setCfg o v).regs = ch.regs := rfl
@[simp] theorem setCfg_mem (ch : Chip) (o v : Nat) : (ch.setCfg o v).mem = ch.mem := rfl
@[simp] theorem setCfg_poisoned (ch : Chip) (o v : Nat) : (ch.setCfg o v).poisoned = ch.poisoned := rfl
@[simp] theorem setCfg_out (ch : Chip) (o v : Nat) : (ch.setCfg o v).out = ch.out := rfl
@[simp] theorem setCfg_faultQ (ch : Chip) (o v : Nat) : (ch.setCfg o v).faultQ = ch.faultQ := rfl
@[simp] theorem setCfg_draws (ch : Chip) (o v : Nat) : (ch.setCfg o v).draws = ch.draws := rfl
@[simp] theorem setCfg_tkp (ch : Chip) (o v : Nat) : (ch.setCfg o v).tkp = ch.tkp := rfl
@[simp] theorem setCfg_ceil (ch : Chip) (o v : Nat) : (ch.setCfg o v).ceil = ch.ceil := rfl
@[simp] theorem setCfg_xings (ch : Chip) (o v : Nat) : (ch.setCfg o v).xings = ch.xings := rfl
@[simp] theorem setCfg_media (ch : Chip) (o v : Nat) : (ch.setCfg o v).media = ch.media := rfl
@[simp] theorem setCfg_fab (ch : Chip) (o v : Nat) : (ch.setCfg o v).fab = ch.fab := rfl
@[simp] theorem setCfg_trail (ch : Chip) (o v : Nat) : (ch.setCfg o v).trail = ch.trail := rfl
@[simp] theorem setCfg_mc (ch : Chip) (o v : Nat) : (ch.setCfg o v).mc = ch.mc := rfl
@[simp] theorem setCfg_fcu (ch : Chip) (o v : Nat) : (ch.setCfg o v).fcu = ch.fcu := rfl
@[simp] theorem setCfg_coa (ch : Chip) (o v : Nat) : (ch.setCfg o v).coa = ch.coa := rfl
@[simp] theorem setCfg_sen (ch : Chip) (o v : Nat) : (ch.setCfg o v).sen = ch.sen := rfl
@[simp] theorem setCfg_siv (ch : Chip) (o v : Nat) : (ch.setCfg o v).siv = ch.siv := rfl
@[simp] theorem setCfg_hnd (ch : Chip) (o v : Nat) : (ch.setCfg o v).hnd = ch.hnd := rfl
@[simp] theorem setCfg_adp (ch : Chip) (o v : Nat) : (ch.setCfg o v).adp = ch.adp := rfl
@[simp] theorem setCfg_pw (ch : Chip) (o v : Nat) : (ch.setCfg o v).pw = ch.pw := rfl
@[simp] theorem setCfg_dozeAt (ch : Chip) (o v : Nat) : (ch.setCfg o v).dozeAt = ch.dozeAt := rfl
@[simp] theorem setCfg_pixelTap (ch : Chip) (o v : Nat) : (ch.setCfg o v).pixelTap = ch.pixelTap := rfl
@[simp] theorem setCfg_dozeActs (ch : Chip) (o v : Nat) : (ch.setCfg o v).dozeActs = ch.dozeActs := rfl

end Sys2Proof.Machine
end

