-- ==== Sys2Proof/Laws/Tab.lean ====
section
/-! SUPPORT. Sparse tables: what a read gives after a write, and that writes keep keys rising and list no default. -/

namespace Sys2Proof.Machine

/-! ### Reads after writes, in every list -/

@[simp] theorem find_put_self {α : Type} (t : Tab α) (k : Nat) (v : α) : Tab.find (Tab.put t k v) k = some v := by
  induction t with
  | nil => simp [Tab.put, Tab.find]
  | cons e t ih =>
    obtain ⟨k', v'⟩ := e
    simp only [Tab.put]
    split
    · simp [Tab.find]
    · split
      · simp [Tab.find]
      · rename_i h
        simp [Tab.find, Ne.symm h, ih]

theorem find_put_ne {α : Type} (t : Tab α) (k j : Nat) (v : α) (h : j ≠ k) : Tab.find (Tab.put t k v) j = Tab.find t j := by
  induction t with
  | nil => simp [Tab.put, Tab.find, Ne.symm h]
  | cons e t ih =>
    obtain ⟨k', v'⟩ := e
    simp only [Tab.put]
    split
    · simp [Tab.find, Ne.symm h]
    · split
      · rename_i g
        subst g
        simp [Tab.find, Ne.symm h]
      · simp [Tab.find, ih]

@[simp] theorem find_del_self {α : Type} (t : Tab α) (k : Nat) : Tab.find (Tab.del t k) k = none := by
  induction t with
  | nil => rfl
  | cons e t ih =>
    obtain ⟨k', v'⟩ := e
    simp only [Tab.del]
    split
    · exact ih
    · rename_i h
      simp [Tab.find, h, ih]

theorem find_del_ne {α : Type} (t : Tab α) (k j : Nat) (h : j ≠ k) : Tab.find (Tab.del t k) j = Tab.find t j := by
  induction t with
  | nil => rfl
  | cons e t ih =>
    obtain ⟨k', v'⟩ := e
    simp only [Tab.del]
    split
    · rename_i g
      subst g
      simp [Tab.find, Ne.symm h, ih]
    · simp [Tab.find, ih]

@[simp] theorem get_set_self {α : Type} [DecidableEq α] (d : α) (t : Tab α) (k : Nat) (v : α) : Tab.get d (Tab.set d t k v) k = v := by
  unfold Tab.get Tab.set
  split
  · rename_i h
    rw [find_del_self, h]; rfl
  · rw [find_put_self]; rfl

theorem get_set_ne {α : Type} [DecidableEq α] (d e : α) (t : Tab α) (k j : Nat) (v : α) (h : j ≠ k) :
    Tab.get e (Tab.set d t k v) j = Tab.get e t j := by
  unfold Tab.get Tab.set
  split
  · rw [find_del_ne _ _ _ h]
  · rw [find_put_ne _ _ _ _ h]

@[simp] theorem get_put_self {α : Type} (d : α) (t : Tab α) (k : Nat) (v : α) : Tab.get d (Tab.put t k v) k = v := by
  rw [Tab.get, find_put_self]; rfl

theorem get_put_ne {α : Type} (d : α) (t : Tab α) (k j : Nat) (v : α) (h : j ≠ k) : Tab.get d (Tab.put t k v) j = Tab.get d t j := by
  rw [Tab.get, Tab.get, find_put_ne _ _ _ _ h]

@[simp] theorem get_nil {α : Type} (d : α) (k : Nat) : Tab.get d [] k = d := rfl

/-! ### The canonical form -/

/-- Keys above a bound stay above a lower one. -/
theorem above_mono {α : Type} (t : Tab α) (a b : Nat) (h : a ≤ b) (g : Tab.above (some b) t = true) : Tab.above (some a) t = true := by
  cases t with
  | nil => rfl
  | cons e t =>
    simp only [Tab.above, Bool.and_eq_true, decide_eq_true_eq] at g ⊢
    exact ⟨Nat.lt_of_le_of_lt h g.1, g.2⟩

theorem above_put {α : Type} (t : Tab α) (b : Option Nat) (k : Nat) (v : α) (hb : ∀ n, b = some n → n < k)
    (h : Tab.above b t = true) : Tab.above b (Tab.put t k v) = true := by
  induction t generalizing b with
  | nil =>
    cases b with
    | none => rfl
    | some n => simp [Tab.put, Tab.above, hb n rfl]
  | cons e t ih =>
    obtain ⟨k', v'⟩ := e
    have h2 : Tab.above (some k') t = true := by
      cases b with
      | none => exact h
      | some n => simp only [Tab.above, Bool.and_eq_true] at h; exact h.2
    simp only [Tab.put]
    split
    · rename_i g
      cases b with
      | none => simp [Tab.above, g, h2]
      | some n => simp [Tab.above, hb n rfl, g, h2]
    · split
      · rename_i g
        subst g
        cases b with
        | none => simpa [Tab.above] using h2
        | some n => simp [Tab.above, hb n rfl, h2]
      · rename_i g1 g2
        have h3 := ih (some k') (fun n hn => by cases hn; omega) h2
        cases b with
        | none => exact h3
        | some n =>
          simp only [Tab.above, Bool.and_eq_true] at h ⊢
          exact ⟨h.1, h3⟩

theorem above_del {α : Type} (t : Tab α) (b : Option Nat) (k : Nat) (h : Tab.above b t = true) : Tab.above b (Tab.del t k) = true := by
  induction t generalizing b with
  | nil => exact h
  | cons e t ih =>
    obtain ⟨k', v'⟩ := e
    have h2 : Tab.above (some k') t = true := by
      cases b with
      | none => exact h
      | some n => simp only [Tab.above, Bool.and_eq_true] at h; exact h.2
    simp only [Tab.del]
    split
    · cases b with
      | none =>
        apply ih
        cases t with
        | nil => rfl
        | cons e' t =>
          simp only [Tab.above, Bool.and_eq_true] at h2
          exact h2.2
      | some n =>
        simp only [Tab.above, Bool.and_eq_true, decide_eq_true_eq] at h
        exact ih _ (above_mono t n k' (Nat.le_of_lt h.1) h2)
    · cases b with
      | none => exact ih _ h2
      | some n =>
        simp only [Tab.above, Bool.and_eq_true] at h ⊢
        exact ⟨h.1, ih _ h2⟩

theorem above_filter {α : Type} (t : Tab α) (b : Option Nat) (p : Nat × α → Bool) (h : Tab.above b t = true) :
    Tab.above b (t.filter p) = true := by
  induction t generalizing b with
  | nil => exact h
  | cons e t ih =>
    have h2 : Tab.above (some e.1) t = true := by
      cases b with
      | none => exact h
      | some n => simp only [Tab.above, Bool.and_eq_true] at h; exact h.2
    by_cases g : p e = true
    · rw [List.filter_cons_of_pos g]
      cases b with
      | none => exact ih _ h2
      | some n =>
        simp only [Tab.above, Bool.and_eq_true] at h ⊢
        exact ⟨h.1, ih _ h2⟩
    · rw [List.filter_cons_of_neg g]
      cases b with
      | none =>
        apply ih
        cases t with
        | nil => rfl
        | cons e' t =>
          simp only [Tab.above, Bool.and_eq_true] at h2
          exact h2.2
      | some n =>
        simp only [Tab.above, Bool.and_eq_true, decide_eq_true_eq] at h
        exact ih _ (above_mono t n e.1 (Nat.le_of_lt h.1) h2)

theorem mem_put {α : Type} (t : Tab α) (k : Nat) (v : α) (e : Nat × α) (h : e ∈ Tab.put t k v) : e = (k, v) ∨ e ∈ t := by
  induction t with
  | nil => simpa [Tab.put] using h
  | cons e' t ih =>
    obtain ⟨k', v'⟩ := e'
    simp only [Tab.put] at h
    split at h
    · simpa using h
    · split at h
      · rcases List.mem_cons.mp h with h | h
        · exact .inl h
        · exact .inr (List.mem_cons_of_mem _ h)
      · rcases List.mem_cons.mp h with h | h
        · exact .inr (h ▸ List.mem_cons_self ..)
        · exact (ih h).imp id (List.mem_cons_of_mem _)

theorem mem_del {α : Type} (t : Tab α) (k : Nat) (e : Nat × α) (h : e ∈ Tab.del t k) : e ∈ t := by
  induction t with
  | nil => exact h
  | cons e' t ih =>
    obtain ⟨k', v'⟩ := e'
    simp only [Tab.del] at h
    split at h
    · exact List.mem_cons_of_mem _ (ih h)
    · rcases List.mem_cons.mp h with h | h
      · exact h ▸ List.mem_cons_self ..
      · exact List.mem_cons_of_mem _ (ih h)

theorem noDefault_iff {α : Type} [DecidableEq α] (d : α) (t : Tab α) : Tab.noDefault d t = true ↔ ∀ e ∈ t, e.2 ≠ d := by
  simp [Tab.noDefault]

/-- A cell write keeps the canonical form. -/
theorem wf_set {α : Type} [DecidableEq α] (d : α) (t : Tab α) (k : Nat) (v : α) (h : Tab.wf d t = true) : Tab.wf d (Tab.set d t k v) = true := by
  rw [Tab.wf, Bool.and_eq_true] at h ⊢
  obtain ⟨h1, h2⟩ := h
  rw [noDefault_iff] at h2 ⊢
  unfold Tab.set
  split
  · exact ⟨above_del t none k h1, fun e he => h2 e (mem_del t k e he)⟩
  · rename_i hv
    refine ⟨above_put t none k v (fun n hn => by cases hn) h1, fun e he => ?_⟩
    rcases mem_put t k v e he with rfl | he
    · exact hv
    · exact h2 e he

/-- Entries dropped keep the canonical form. -/
theorem wf_filter {α : Type} [DecidableEq α] (d : α) (t : Tab α) (p : Nat × α → Bool) (h : Tab.wf d t = true) : Tab.wf d (t.filter p) = true := by
  rw [Tab.wf, Bool.and_eq_true] at h ⊢
  refine ⟨above_filter t none p h.1, ?_⟩
  rw [noDefault_iff] at *
  exact fun e he => h.2 e ((List.mem_filter.mp he).1)

end Sys2Proof.Machine
end

