-- ==== Sys2Proof/Laws/Memory.lean ====
section
/-! SUPPORT. Register fields and memory bytes: what a read gives after a write, and that every operation that changes the memory of a
chip keeps its canonical form. The memory is changed by stores, by the wipe, and by the release from reset, and by nothing else. -/

namespace Sys2Proof.Machine

open Sys2Proof

/-! ### Register fields -/

@[simp] theorem rd_wr_self (ch : Chip) (f : Field) (v : Nat) : (ch.wr f v).rd f = v % 2 ^ f.width := get_set_self ..

theorem rd_wr_ne (ch : Chip) (f g : Field) (v : Nat) (h : g.key ≠ f.key) : (ch.wr f v).rd g = ch.rd g := get_set_ne _ _ _ _ _ _ h

theorem rd_setFlag_ne (ch : Chip) (f g : Field) (b : Bool) (h : g.key ≠ f.key) : (ch.setFlag f b).rd g = ch.rd g := rd_wr_ne _ _ _ _ h

theorem flag_setFlag_self (ch : Chip) (f : Field) (b : Bool) (h : f.width = 1) : (ch.setFlag f b).flag f = b := by
  simp only [Chip.flag, Chip.setFlag, rd_wr_self, h]
  cases b <;> rfl

/-! ### Bytes -/

/-- A byte of memory after cells are written from address `a` on. -/
theorem get_writeCells (m : List Host.Cell) (a : Nat) (bs : List Byte) (k : Nat) :
    Tab.get memDefault (writeCells m a bs) k = if h : a ≤ k ∧ k - a < bs.length then bs[k - a] else Tab.get memDefault m k := by
  induction bs generalizing m a with
  | nil => simp [writeCells]
  | cons b bs ih =>
    simp only [writeCells, ih]
    by_cases h : a + 1 ≤ k ∧ k - (a + 1) < bs.length
    · have h' : a ≤ k ∧ k - a < (b :: bs).length := ⟨by omega, by simp; omega⟩
      rw [dif_pos h, dif_pos h']
      have e : k - a = k - (a + 1) + 1 := by omega
      simp [e]
    · rw [dif_neg h]
      by_cases g : k = a
      · subst g
        simp
      · rw [get_set_ne _ _ _ _ _ _ g]
        have h' : ¬(a ≤ k ∧ k - a < (b :: bs).length) := by
          simp only [List.length_cons]
          omega
        rw [dif_neg h']

/-- A byte of memory after a store, on a chip without a failed rank. -/
theorem byte_store (ch : Chip) (a : Nat) (bs : List Byte) (p : Bool) (hf : ch.mc.failed = []) (k : Nat) :
    (ch.store a bs p).byte k = if h : a ≤ k ∧ k - a < bs.length then bs[k - a] else ch.byte k := by
  have e : (ch.store a bs p).mem = writeCells ch.mem a bs := by simp [Chip.store, hf]
  rw [Chip.byte, e, get_writeCells]
  rfl

/-! ### The poison list -/

theorem mem_insNat (q : List Nat) (x y : Nat) : y ∈ insNat q x ↔ y = x ∨ y ∈ q := by
  induction q with
  | nil => simp [insNat]
  | cons z q ih =>
    simp only [insNat]
    split
    · simp
    · split
      · rename_i h
        subst h
        simp
      · simp only [List.mem_cons, ih]
        constructor
        · rintro (h | h | h)
          · exact .inr (.inl h)
          · exact .inl h
          · exact .inr (.inr h)
        · rintro (h | h | h)
          · exact .inr (.inl h)
          · exact .inl h
          · exact .inr (.inr h)

theorem contains_insNat (q : List Nat) (x y : Nat) : (insNat q x).contains y = (decide (y = x) || q.contains y) := by
  rw [Bool.eq_iff_iff]
  simp [mem_insNat]

theorem contains_filter_ne (q : List Nat) (x y : Nat) : (q.filter (· != x)).contains y = (q.contains y && decide (y ≠ x)) := by
  rw [Bool.eq_iff_iff]
  simp

/-- The poison of granules after a store over exactly one granule. -/
theorem poisonAfter_one (ps : List Nat) (a n : Nat) (p : Bool) (hg : granules a n = [a]) (hn : granuleSize a ≤ n) (g : Nat) :
    (poisonAfter ps a n p).contains g = if g = a then p else ps.contains g := by
  unfold poisonAfter
  rw [hg]
  simp only [List.foldl_cons, List.foldl_nil]
  cases p with
  | true =>
    simp only [if_true, contains_insNat]
    by_cases h : g = a
    · simp [h]
    · simp [h]
  | false =>
    have h1 : a ≤ a ∧ a + granuleSize a ≤ a + n := ⟨Nat.le_refl a, by omega⟩
    simp only [Bool.false_eq_true, if_false, if_pos h1, contains_filter_ne]
    by_cases h : g = a
    · simp [h]
    · simp [h]

/-! ### The canonical form -/

theorem wf_writeCells (m : List Host.Cell) (a : Nat) (bs : List Byte) (h : Tab.wf memDefault m = true) :
    Tab.wf memDefault (writeCells m a bs) = true := by
  induction bs generalizing m a with
  | nil => exact h
  | cons b bs ih => exact ih _ _ (wf_set _ _ _ _ h)

/-- A store keeps the canonical form. -/
theorem memWf_store (ch : Chip) (a : Nat) (bs : List Byte) (p : Bool) (h : ch.memWf = true) : (ch.store a bs p).memWf = true := by
  unfold Chip.memWf Chip.store
  dsimp only
  split
  · exact wf_writeCells _ _ _ h
  · have key : ∀ (l : List (Byte × Nat)) (m : List Host.Cell), Tab.wf memDefault m = true →
        Tab.wf memDefault (l.foldl (fun m e => if ch.rankGone (a + e.2) then m else Tab.set memDefault m (a + e.2) e.1) m) = true := by
      intro l
      induction l with
      | nil => exact fun _ h => h
      | cons e l ih =>
        intro m hm
        rw [List.foldl_cons]
        apply ih
        split
        · exact hm
        · exact wf_set _ _ _ _ hm
    exact key _ _ h

/-- The wipe keeps the canonical form. -/
theorem memWf_keep (ch : Chip) (p : Host.Cell → Bool) (h : ch.memWf = true) : ({ ch with mem := ch.mem.filter p } : Chip).memWf = true :=
  wf_filter _ _ _ h

theorem memWf_wipeDram (ch : Chip) (h : ch.memWf = true) : ch.wipeDram.memWf = true := wf_filter _ _ _ h

/-- A reset keeps the memory as it is. -/
theorem enterReset_mem (ch : Chip) (regs : Tab Nat) (hif : HostLink) (cause : Nat) : (ch.enterReset regs hif cause).mem = ch.mem := rfl

theorem memWf_enterReset (ch : Chip) (regs : Tab Nat) (hif : HostLink) (cause : Nat) (h : ch.memWf = true) :
    (ch.enterReset regs hif cause).memWf = true := h

/-- The memory after reset is in its canonical form. -/
theorem memWf_reset (c : ChipId) (r : List (Nat × Nat)) : (Chip.reset c r).memWf = true := rfl

end Sys2Proof.Machine
end

