-- ==== Sys2Proof/Laws/Records.lean ====
section
/-! SUPPORT. What the shared operations of the tray leave alone: the queue of commands, and the records of authentication and of the
life cycle that only a few commands change. -/

namespace Sys2Proof.Machine

open Sys2Proof

/-- The records that few commands change: SVN floor, LAST of the key slots, life-cycle state and accepted change, accepted commands,
and what the check of the command in its 250 µs found. -/
def Tray.trust (t : Tray) : Nat × List Nat × Nat × Option Nat × List (Nat × List Byte) × Option (Bool × Nat) :=
  (t.floor, t.last, t.lcs, t.lcsTarget, t.accepted, t.auth.map fun a => (a.secure, a.reason))

/-! ### Operations of the Bupin -/

@[simp] theorem logGen_trust (t : Tray) (code chip : Nat) (d : List Byte) : (t.logGen code chip d).trust = t.trust := rfl
@[simp] theorem logRefusal_trust (t : Tray) (a b c d e : Nat) : (t.logRefusal a b c d e).trust = t.trust := rfl
@[simp] theorem emit_trust (t : Tray) (e : Emit) : (t.emit e).trust = t.trust := rfl
@[simp] theorem reply_trust (t : Tray) (u : Bool) (a b : Nat) (f : List Byte) : (t.reply u a b f).trust = t.trust := rfl
@[simp] theorem pulseWake_trust (t : Tray) : t.pulseWake.trust = t.trust := rfl
@[simp] theorem setBank_trust (t : Tray) (i : Nat) (b : Bank) : (t.setBank i b).trust = t.trust := rfl
@[simp] theorem bankSt_trust (t : Tray) (i st : Nat) : (t.bankSt i st).trust = t.trust := rfl
@[simp] theorem stage_trust (t : Tray) (b : Nat) (c : Option ChipId) (u : Bool) : (t.stage b c u).trust = t.trust := rfl
@[simp] theorem romWrite_trust (t : Tray) (img : List Byte) : (t.romWrite img).trust = t.trust := rfl

@[simp] theorem authReply_trust (t : Tray) (a : AuthRun) : (t.authReply a).trust = t.trust := by
  unfold Tray.authReply; dsimp only; split <;> rfl

@[simp] theorem stageFail_trust (t : Tray) : t.stageFail.trust = t.trust := by
  unfold Tray.stageFail; split <;> rfl

@[simp] theorem stagingReset_trust (t : Tray) (c : ChipId) : (t.stagingReset c).trust = t.trust := by
  have h : ∀ o : Option AuthRun, (o.map fun a => if a.src = c.val then { a with ring := none } else a).map
      (fun a => (a.secure, a.reason)) = o.map fun a => (a.secure, a.reason) := by
    intro o
    cases o with
    | none => rfl
    | some a => by_cases g : a.src = c.val <;> simp [g]
  have k : ∀ x : Tray, x.floor = t.floor → x.last = t.last → x.lcs = t.lcs → x.lcsTarget = t.lcsTarget → x.accepted = t.accepted →
      x.auth = (t.auth.map fun a => if a.src = c.val then { a with ring := none } else a) → x.trust = t.trust := by
    intro x h1 h2 h3 h4 h5 h6
    unfold Tray.trust
    rw [h1, h2, h3, h4, h5, h6, h]
  unfold Tray.stagingReset
  dsimp only
  split
  · split <;> exact k _ rfl rfl rfl rfl rfl rfl
  · exact k _ rfl rfl rfl rfl rfl rfl

@[simp] theorem pend_trust (t : Tray) (b : Nat) : (t.pend b).trust = t.trust := by
  unfold Tray.pend; dsimp only; split <;> rfl

@[simp] theorem alertPin_trust (t old : Tray) : (t.alertPin old).trust = t.trust := by
  unfold Tray.alertPin; split <;> rfl

@[simp] theorem queueEvent_trust (t : Tray) (e : SensorEvent) : (t.queueEvent e).trust = t.trust := by
  unfold Tray.queueEvent; split <;> rfl

theorem foldl_keeps {α β γ : Type} (p : α → γ) (f : α → β → α) (l : List β) (h : ∀ a b, p (f a b) = p a) (a : α) :
    p (l.foldl f a) = p a := by
  induction l generalizing a with
  | nil => rfl
  | cons b l ih => rw [List.foldl_cons, ih, h]

@[simp] theorem sensorNote_trust (t : Tray) (id : Nat) (v : Int) : (t.sensorNote id v).trust = t.trust := by
  unfold Tray.sensorNote
  apply foldl_keeps
  intro t p
  split
  · rfl
  · dsimp only
    split
    · rfl
    · rw [queueEvent_trust]; rfl

@[simp] theorem setWarn_trust (t : Tray) (id place : Nat) (v : Option (BitVec 32)) : (t.setWarn id place v).trust = t.trust := by
  unfold Tray.setWarn; split <;> rfl

@[simp] theorem nextBank_trust (t : Tray) (force : Bool) : (t.nextBank force).trust = t.trust := by
  unfold Tray.nextBank
  extract_lets u r
  have h : u.trust = t.trust := by
    dsimp only [u]
    repeat' split
    all_goals rfl
  split
  · exact h
  · simpa using h

@[simp] theorem tick_trust (t : Tray) : t.tick.trust = t.trust := by
  unfold Tray.tick
  extract_lets u
  split
  · split <;> rfl
  · rfl

/-- A cold start keeps the floor, the counters and the life-cycle state, and ends what was accepted or in its check. -/
theorem cold_trust (t : Tray) (now0 cause : Nat) (force : Bool) :
    (t.cold now0 cause force).trust = (t.floor, t.last, t.lcs, none, [], none) := by
  have h := nextBank_trust t force
  simp only [Tray.trust, Prod.mk.injEq] at h
  simp only [Tray.cold, logGen_trust]
  simp only [Tray.trust, h]
  rfl

/-! ### Operations of the whole tray -/

theorem modChip_chip_self (s : State) (c : ChipId) (f : Chip → Chip) : (s.modChip c f).chip c = f (s.chip c) := by
  rw [modChip_eq, chip_setChip_self]

@[simp] theorem modChip_tray (s : State) (c : ChipId) (f : Chip → Chip) : (s.modChip c f).tray = s.tray := by rw [modChip_eq, setChip_tray]

@[simp] theorem modChip_pending (s : State) (c : ChipId) (f : Chip → Chip) : (s.modChip c f).pending = s.pending := by
  rw [modChip_eq, setChip_pending]

@[simp] theorem modBup_trust (s : State) (c : ChipId) (f : BupChip → BupChip) : (s.modBup c f).tray.trust = s.tray.trust := rfl
@[simp] theorem modBup_pending (s : State) (c : ChipId) (f : BupChip → BupChip) : (s.modBup c f).pending = s.pending := rfl
@[simp] theorem mirror_tray (s : State) : s.mirror.tray = s.tray := rfl
@[simp] theorem mirror_pending (s : State) : s.mirror.pending = s.pending := rfl

@[simp] theorem eachChip_tray (s : State) (cs : List ChipId) (f : Chip → Chip) : (s.eachChip cs f).tray = s.tray :=
  foldl_keeps State.tray _ cs (fun s c => modChip_tray s c f) s

@[simp] theorem eachChip_pending (s : State) (cs : List ChipId) (f : Chip → Chip) : (s.eachChip cs f).pending = s.pending :=
  foldl_keeps State.pending _ cs (fun s c => modChip_pending s c f) s

@[simp] theorem supplySync_trust (s : State) : s.supplySync.tray.trust = s.tray.trust := rfl
@[simp] theorem supplySync_pending (s : State) : s.supplySync.pending = s.pending := rfl
@[simp] theorem supplyFollow_trust (s : State) (c : ChipId) : (s.supplyFollow c).tray.trust = s.tray.trust := rfl
@[simp] theorem supplyFollow_pending (s : State) (c : ChipId) : (s.supplyFollow c).pending = s.pending := rfl

@[simp] theorem logRanks_trust (c : ChipId) (s t : State) : (logRanks c s t).tray.trust = t.tray.trust := by
  unfold logRanks; split <;> rfl

@[simp] theorem logRanks_pending (c : ChipId) (s t : State) : (logRanks c s t).pending = t.pending := by
  unfold logRanks; split <;> rfl

@[simp] theorem logHalt_trust (c : ChipId) (s t : State) : (logHalt c s t).tray.trust = t.tray.trust := by
  unfold logHalt; dsimp only; split <;> rfl

@[simp] theorem logHalt_pending (c : ChipId) (s t : State) : (logHalt c s t).pending = t.pending := by
  unfold logHalt; dsimp only; split <;> rfl

@[simp] theorem warmReset_trust (s : State) (c : ChipId) (cause : Nat) : (s.warmReset c cause).tray.trust = s.tray.trust := by
  unfold State.warmReset
  dsimp only
  repeat' split
  all_goals simp

@[simp] theorem warmReset_pending (s : State) (c : ChipId) (cause : Nat) : (s.warmReset c cause).pending = s.pending := by
  unfold State.warmReset
  dsimp only
  repeat' split
  all_goals simp

theorem coldStart_trust (s : State) (now0 cause : Nat) (force : Bool) :
    (s.coldStart now0 cause force).tray.trust = (s.tray.floor, s.tray.last, s.tray.lcs, none, [], none) := by
  unfold State.coldStart
  rw [supplySync_trust]
  exact cold_trust s.tray now0 cause force

@[simp] theorem coldStart_pending (s : State) (now0 cause : Nat) (force : Bool) : (s.coldStart now0 cause force).pending = s.pending := rfl

@[simp] theorem standby_tray (s : State) : s.standby.tray = s.tray := by
  unfold State.standby; split <;> simp

@[simp] theorem standby_pending (s : State) : s.standby.pending = s.pending := by
  unfold State.standby; split <;> simp

@[simp] theorem writeMigrated_trust (s : State) : s.writeMigrated.tray.trust = s.tray.trust := by
  unfold State.writeMigrated
  dsimp only
  repeat' split
  all_goals rfl

@[simp] theorem writeMigrated_pending (s : State) : s.writeMigrated.pending = s.pending := by
  unfold State.writeMigrated
  dsimp only
  repeat' split
  all_goals rfl

@[simp] theorem readied_trust (s : State) (c : ChipId) : (s.readied c).tray.trust = s.tray.trust := by
  unfold State.readied
  extract_lets t s1 s2
  have h1 : s1.tray.trust = s.tray.trust := by
    dsimp only [s1]
    split
    · exact (congrArg Tray.trust (modChip_tray s c fun ch => ch.raise 34 (source 280 3) t.owedVersion) :)
    · rfl
  have h2 : s2.tray.trust = s.tray.trust := by
    rw [← h1]
    dsimp only [s2]
    rw [standby_tray]
    rfl
  split
  · rw [writeMigrated_trust, h2]
  · exact h2

@[simp] theorem readied_pending (s : State) (c : ChipId) : (s.readied c).pending = s.pending := by
  unfold State.readied
  dsimp only
  repeat' split
  all_goals simp

@[simp] theorem enterDoze_tray (s : State) (c : ChipId) : (s.enterDoze c).tray = s.tray := by
  unfold State.enterDoze; dsimp only; split <;> simp

@[simp] theorem enterDoze_pending (s : State) (c : ChipId) : (s.enterDoze c).pending = s.pending := by
  unfold State.enterDoze; dsimp only; split <;> simp

@[simp] theorem wake_tray (s : State) (cs : List ChipId) (code : Nat) : (s.wake cs code).tray = s.tray := by
  simp [State.wake]

@[simp] theorem wake_pending (s : State) (cs : List ChipId) (code : Nat) : (s.wake cs code).pending = s.pending := by
  simp [State.wake]

@[simp] theorem timerFires_trust (s : State) (c : ChipId) : (s.timerFires c).tray.trust = s.tray.trust := by
  unfold State.timerFires; dsimp only; split <;> simp

@[simp] theorem timerFires_pending (s : State) (c : ChipId) : (s.timerFires c).pending = s.pending := by
  unfold State.timerFires; dsimp only; split <;> simp

@[simp] theorem fwuAll_tray (s : State) (f : Chip → Chip) : (s.fwuAll f).tray = s.tray := rfl
@[simp] theorem fwuAll_pending (s : State) (f : Chip → Chip) : (s.fwuAll f).pending = s.pending := rfl
@[simp] theorem cfgResult_tray (s : State) (r : Nat) : (s.cfgResult r).tray = s.tray := rfl
@[simp] theorem cfgResult_pending (s : State) (r : Nat) : (s.cfgResult r).pending = s.pending := rfl

@[simp] theorem commit_trust (s : State) (n : Nat) (w : Bool) : (s.commit n w).tray.trust = s.tray.trust := by
  rw [State.commit]
  extract_lets
  split
  · rw [cfgResult_tray]
  split
  · rw [cfgResult_tray]; rfl
  split
  · rw [cfgResult_tray]
  split
  · rw [cfgResult_tray]
  split
  · rw [cfgResult_tray]
  exact (congrArg Tray.trust (cfgResult_tray _ _)).trans ((congrArg Tray.trust (modAll_tray _ _)).trans rfl)

@[simp] theorem commit_pending (s : State) (n : Nat) (w : Bool) : (s.commit n w).pending = s.pending := by
  rw [State.commit]
  extract_lets
  split
  · rw [cfgResult_pending]
  split
  · rw [cfgResult_pending]; rfl
  split
  · rw [cfgResult_pending]
  split
  · rw [cfgResult_pending]
  split
  · rw [cfgResult_pending]
  exact (cfgResult_pending _ _).trans (modAll_pending _ _)

@[simp] theorem fwuGo_trust (s : State) (c : ChipId) : (s.fwuGo c).tray.trust = s.tray.trust := by
  unfold State.fwuGo
  dsimp only
  repeat' split
  all_goals simp

@[simp] theorem fwuGo_pending (s : State) (c : ChipId) : (s.fwuGo c).pending = s.pending := by
  unfold State.fwuGo
  dsimp only
  repeat' split
  all_goals simp

@[simp] theorem fwuAbort_trust (s : State) (c : ChipId) : (s.fwuAbort c).tray.trust = s.tray.trust := by
  unfold State.fwuAbort
  repeat' split
  all_goals simp

@[simp] theorem fwuAbort_pending (s : State) (c : ChipId) : (s.fwuAbort c).pending = s.pending := by
  unfold State.fwuAbort
  repeat' split
  all_goals simp

@[simp] theorem regTray_trust (s : State) (c : ChipId) (off v : Nat) : (s.regTray c off v).tray.trust = s.tray.trust := by
  unfold State.regTray
  dsimp only
  repeat' split
  all_goals first | rfl | simp

@[simp] theorem regTray_pending (s : State) (c : ChipId) (off v : Nat) : (s.regTray c off v).pending = s.pending := by
  unfold State.regTray
  dsimp only
  repeat' split
  all_goals simp

@[simp] theorem regWrite_trust (s : State) (c : ChipId) (r : Requester) (off v : Nat) :
    (s.regWrite c r off v).tray.trust = s.tray.trust := by
  simp [State.regWrite]

@[simp] theorem regWrite_pending (s : State) (c : ChipId) (r : Requester) (off v : Nat) : (s.regWrite c r off v).pending = s.pending := by
  simp [State.regWrite]

@[simp] theorem regDone_trust (c : ChipId) (r : RegReq) (s : State) : (regDone c r s).tray.trust = s.tray.trust := by
  unfold regDone; split <;> simp

@[simp] theorem regDone_pending (c : ChipId) (r : RegReq) (s : State) : (regDone c r s).pending = s.pending := by
  unfold regDone; split <;> simp

@[simp] theorem debugAnswer_trust (s : State) (tr : Transport) (st v : Nat) : (s.debugAnswer tr st v).tray.trust = s.tray.trust := rfl
@[simp] theorem debugAnswer_pending (s : State) (tr : Transport) (st v : Nat) : (s.debugAnswer tr st v).pending = s.pending := rfl
@[simp] theorem answer_trust (s : State) (tr : Transport) (a b : Nat) : (s.answer tr a b).tray.trust = s.tray.trust := rfl
@[simp] theorem answer_pending (s : State) (tr : Transport) (a b : Nat) : (s.answer tr a b).pending = s.pending := rfl

@[simp] theorem thermChip_trust (s : State) (c : ChipId) : (s.thermChip c).tray.trust = s.tray.trust := by
  unfold State.thermChip
  dsimp only
  repeat' split
  all_goals simp

@[simp] theorem thermChip_pending (s : State) (c : ChipId) : (s.thermChip c).pending = s.pending := by
  unfold State.thermChip
  dsimp only
  repeat' split
  all_goals simp

@[simp] theorem handChip_pending (s : State) (c : ChipId) (n : Nat) (d : Desc) (r : ReadResult) : (s.handChip c n d r).pending = s.pending := by
  unfold State.handChip
  dsimp only
  repeat' split
  all_goals simp

@[simp] theorem serveCritical_pending (s : State) (r : ReadResult) : (s.serveCritical r).pending = s.pending := by
  unfold State.serveCritical
  dsimp only
  repeat' split
  all_goals simp

@[simp] theorem idle_trust (s : State) : s.idle.tray.trust = s.tray.trust := by
  unfold State.idle
  split
  · rfl
  · exact foldl_keeps (fun t : State => t.tray.trust) _ chipIds (fun t c => logRanks_trust c _ t) _ |>.trans (by simp)

@[simp] theorem idle_pending (s : State) : s.idle.pending = s.pending := by
  unfold State.idle
  split
  · rfl
  · exact foldl_keeps State.pending _ chipIds (fun t c => logRanks_pending c _ t) _ |>.trans (by simp)

end Sys2Proof.Machine
end

