-- ==== Sys2Proof/Laws/Ops.lean ====
section
/-! SUPPORT. Shared operations of several commands: searches that find nothing, tokens that pass or fail their check, and, once for
each shape of command, that it answers a next state with the same queue and the same records of the Bupin. -/

namespace Sys2Proof.Machine

open Sys2Proof

/-! ### Searches -/

theorem pickFirst_none {α : Type} (p : α → Bool) (l : List α) (h : ∀ x ∈ l, p x = false) : pickFirst p l = none := by
  induction l with
  | nil => rfl
  | cons x t ih => simp [pickFirst, h x, ih fun y hy => h y (List.mem_cons_of_mem _ hy)]

theorem findIdx_none {α : Type} (p : α → Bool) (l : List α) (h : ∀ x ∈ l, p x = false) : findIdx p l = none := by
  induction l with
  | nil => rfl
  | cons x t ih => simp [findIdx, h x, ih fun y hy => h y (List.mem_cons_of_mem _ hy)]

/-- A fold whose steps all change nothing. -/
theorem foldl_same {α β : Type} (f : β → α → β) (x : β) (l : List α) (h : ∀ a ∈ l, f x a = x) : l.foldl f x = x := by
  induction l with
  | nil => rfl
  | cons a t ih =>
    rw [List.foldl_cons, h a (List.mem_cons_self ..)]
    exact ih fun b hb => h b (List.mem_cons_of_mem _ hb)

/-! ### Tokens at their check (R264) -/

theorem checked_clean (ch : Chip) (p : Nat) (t u : BitVec 128) (h : checkToken t = .clean u) : ch.checked p t = (some u, ch) := by
  unfold Chip.checked
  split
  next h' => rw [h] at h'; cases h'; rfl
  next h' => rw [h] at h'; cases h'
  next h' => rw [h] at h'; cases h'

theorem checked_uncorrectable (ch : Chip) (p : Nat) (t : BitVec 128) (h : checkToken t = .uncorrectable) :
    ch.checked p t = (none, (ch.checked p t).2) := by
  unfold Chip.checked
  split
  next h' => rw [h] at h'; cases h'
  next h' => rw [h] at h'; cases h'
  next h' => rfl

/-! ### What every shape of command answers -/

/-- The command answers a next state with the queue and the records of `Tray.trust` as they were. -/
def Quiet (s : State) (r : Res) : Prop := ∃ t, r = .next t ∧ t.pending = s.pending ∧ t.tray.trust = s.tray.trust

theorem quiet_next {s t : State} (h : t.pending = s.pending) (g : t.tray.trust = s.tray.trust) : Quiet s (.next t) := ⟨t, rfl, h, g⟩

theorem quiet_onChip (s : State) (c : ChipId) (f : Chip → Chip) : Quiet s (onChip s c f) := by
  unfold onChip; split <;> exact quiet_next (by simp) (by simp)

theorem quiet_onIsland (s : State) (c : ChipId) (f : Chip → Chip) : Quiet s (onIsland s c f) := by
  unfold onIsland; split <;> exact quiet_next (by simp) (by simp)

theorem quiet_onHeld (s : State) (c : ChipId) (f : Chip → Chip) : Quiet s (onHeld s c f) := quiet_next (by simp) (by simp)

theorem quiet_onMem (s : State) (c : ChipId) (f : Chip → Chip) : Quiet s (onMem s c f) := by
  obtain ⟨t, h, a, b⟩ := quiet_onChip s c f
  unfold onMem
  rw [h]
  exact quiet_next (by simp [a]) (by simp [b])

theorem quiet_coreCmd (s : State) (c : ChipId) (k : CoreId) (f : Chip → Chip × RegReq) : Quiet s (coreCmd s c k f) := by
  unfold coreCmd
  dsimp only
  split <;> exact quiet_next (by simp) (by simp)

theorem quiet_coreAct (s : State) (c : ChipId) (k : CoreId) (f : Chip → Chip) : Quiet s (coreAct s c k f) := quiet_coreCmd ..

theorem quiet_onMgmt (s : State) (tr : Transport) (f : State → State) (h : ∀ s, (f s).pending = s.pending)
    (g : ∀ s, (f s).tray.trust = s.tray.trust) : Quiet s (onMgmt s tr f) := by
  unfold onMgmt
  split
  · exact quiet_next (h s) (g s)
  · exact quiet_next rfl rfl

theorem quiet_regAccess (c : ChipId) (r : Requester) (off be : Nat) (ep : Bool) (v : Nat) (s : State) :
    Quiet s (regAccess c r off be ep v s) := by
  unfold regAccess
  dsimp only
  repeat' split
  all_goals exact quiet_next (by simp) (by simp)

/-- Where nothing waits in a core and no store of it is stalled, going on changes nothing (R327, R354). -/
theorem resumed_idle (ch : Chip) (id : CoreId) (h : ch.stalledStores (coreNo id) = 0) (g : (ch.getCore id).deferred = []) :
    ch.resumed id = ch := by
  simp [Chip.resumed, h, g, Chip.resume]

/-! ### Commands of one chip -/

/-- The command changes chip `c` at most, and nothing while that chip is in reset. -/
def Stays (s : State) (c : ChipId) (r : Res) : Prop := ∀ t, r = .next t → SameBut s t c ∧ ((s.chip c).hif.state = .reset → t = s)

theorem stays_onChip (s : State) (c : ChipId) (f : Chip → Chip) : Stays s c (onChip s c f) := by
  intro t h
  unfold onChip at h
  split at h <;> cases h
  · exact ⟨⟨fun _ _ => rfl, rfl, rfl⟩, fun _ => rfl⟩
  · exact ⟨⟨fun d hd => by rw [modChip_eq, chip_setChip_ne _ _ _ _ hd], by simp, by simp⟩, fun h' => absurd h' ‹_›⟩

theorem stays_onIsland (s : State) (c : ChipId) (f : Chip → Chip) : Stays s c (onIsland s c f) := by
  intro t h
  unfold onIsland at h
  split at h <;> cases h
  · exact ⟨⟨fun _ _ => rfl, rfl, rfl⟩, fun _ => rfl⟩
  · exact ⟨⟨fun d hd => by rw [modChip_eq, chip_setChip_ne _ _ _ _ hd], by simp, by simp⟩, fun h' => absurd (Or.inl h') ‹_›⟩

end Sys2Proof.Machine
end

