-- ==== Sys2Proof/Tests/Slice0.lean ====
section
/-! SUPPORT. Tests: ill-formed commands that WellFormed refuses, decoding, single steps with results worked out from the manual, and for
each statement with hypotheses states that meet the hypotheses of its clauses. -/

set_option Elab.async false

namespace Sys2Proof.Tests

open Sys2Proof Sys2Proof.Machine

/-! ### States to start from -/

/-- The state after reset with chip 0 running firmware, changed by `f`. -/
def up (f : Chip → Chip) : State := State.reset.modChip 0 fun ch => f { ch with hif := { ch.hif with state := .firmware } }

/-- The same with chip `c`. -/
def upAt (c : ChipId) (f : Chip → Chip) : State := State.reset.modChip c fun ch => f { ch with hif := { ch.hif with state := .firmware } }

/-- The state after reset with its tray changed by `f`. -/
def bup (f : Tray → Tray) : State := State.reset.modTray f

/-- PE 0 of pack 0. -/
def pe0 : CoreId := .pe 0 0

/-- A graph of two nodes in slot 0: its code is a page at the start of the pack, its scratch the page behind it. -/
def graph2 : Graph := ⟨1, 2, 0, 4, 0, 4096, 4096, [], [], [], [], [], [], [(0, 0, 4096)]⟩

/-- A firing of node 0 of slot 0. -/
def firing0 : Firing := ⟨0, 0, 0, 0, [], 0, false, false, 0, 0, false⟩

/-- Chip 0 runs, its slot 0 is ARMED with `graph2`, and PE 0 of pack 0 runs `firing0`, changed by `f`. -/
def pe (f : Core → Core) : State := up fun ch =>
  (ch.setSlot 0 { Slot.reset with st := .armed, graph := some graph2 }).putCore pe0 (f { Core.reset with st := .running, firing := some firing0 })

/-- Chip 0 runs, with the core of its Steward changed by `f`. -/
def stew (f : Core → Core) : State := up fun ch => ch.putCore .steward (f ch.fab.steward.core)
/-- A descriptor of a ring: opcode at byte 0, flags and cookie 0, `body` from byte 8 on. -/
def descBytes (op : Nat) (body : List Byte) : List Byte := padTo 64 (toLe 8 op ++ body)

/-- The chip READY, with descriptor `b` next on ring 0. -/
def withDesc (b : List Byte) (ch : Chip) : Chip :=
  (((ch.setRing 0 { Ring.reset with typ := 1, size := 16, descs := [newDesc 1 0 b] }).wr (F.RNG_STATE_STATE 0) ringActive).setFlag
    F.HIF_STATUS_READY true).wr F.HIF_STATUS_MODE 1

/-- The same for an INPUT ring, whose descriptors are BUF. -/
def withBuf (b : List Byte) (ch : Chip) : Chip :=
  (((ch.setRing 0 { Ring.reset with typ := 2, size := 16, descs := [newDesc 2 0 b] }).wr (F.RNG_STATE_STATE 0) ringActive).setFlag
    F.HIF_STATUS_READY true).wr F.HIF_STATUS_MODE 1

/-- A stream of kind `k` of graph slot 0 on unit 0. -/
def stream0 (k : Nat) : Stream := ⟨k, 0, 64, 64, 8, 30, [(0, 1000)], 0, 0, 0, 0, 0, 0, [], [], none⟩


/-! ### Ill-formed commands -/

/-- Offsets that the row's access cannot have (R99, R100), accesses that leave a window or cross two regions of BAR2 (R105), none of
length 0. -/
theorem test_wf_accesses :
    [Instr.registerWrite 0 .host 2 15 false 0, .lowDwordRead 0 .host 2, .lowDwordWrite 0 .host 6 15 false 0, .highDwordWrite 0 .host 7 15 false 0,
      .imageWindowWrite 0 0xFFFFFF false [0, 0], .imageWindowWrite 0 0 false [], .debugWindowAccess 0 0 (.read 0), .debugWindowAccess 0 0x3FFFFFF (.read 2),
      .debugWindowAccess 0 0xFFF (.write false [none, none]), .latchWindowAccess 0 2 false false 15 false 0].all (fun i => !i.wf) = true := by decide +kernel

/-- Reads that timed out and yet carry poison, or bring more than was asked for; messages above 1,088 bytes. -/
theorem test_wf_reads :
    let late : ReadResult := ⟨.timeout, true, []⟩
    [Instr.doorbellReadComplete 0 0 late, .descriptorFetchComplete 0 0 late, .graphImageReadComplete 0 0 late, .payloadReadComplete 0 0 late,
      .adaptStart 0 0 late, .adaptCancel 0 0 late, .fwuWriteComplete 0 late true, .critical none late,
      .critical none ⟨.none, false, zeros 513⟩, .critical (some (.smbus 0x48, zeros 1089)) ⟨.none, false, []⟩,
      .secureLogRead (.smbus 0x48) (zeros 1089)].all (fun i => !i.wf) = true := by decide +kernel

/-- Lists of a wrong length, with an element twice, or with a value out of its range. -/
theorem test_wf_lists :
    let h : FlitHdr := ⟨false, 0, 0, false, 0, 0, 0⟩
    let bad : ParamSet := ⟨65, 64, 64, 64, 8, 8, 1, [], true⟩
    let low : ParamSet := ⟨64, 65, 64, 64, 8, 8, 1, [], true⟩
    let au (sets : List ParamSet) (blocks : List Nat) : AuResult := ⟨true, sets, [], 32, 16, 1, 0, blocks, false, [], [], false, false, 0, 1⟩
    let e : LineErr := ⟨[5, 5], 0, false⟩
    [Instr.chipResetRelease 0 [3, 3], .kennelRead 0 0 0, .csiPictureLine 0 0 0 0x2B true [16384], .decodeTakeAu 0 0 [⟨0, 0, 0, true, 0, 0⟩],
      .decodeTakeAu 0 0 [⟨0, 0, 1, true, 0, 0⟩, ⟨0, 0, 1, true, 0, 0⟩], .decodePrescanComplete 0 0 true [bad], .decodePrescanComplete 0 0 true [low],
      .decodeAuComplete 0 0 (au [] [2]), .decodeAuComplete 0 0 (au [] [1, 1]), .decodeAuComplete 0 0 (au [bad] []),
      .tdmFrame 0 0 0 (List.replicate 17 0), .pdmSample 0 ⟨0, List.replicate 17 0⟩, .porchSample 0 ⟨0, List.replicate 5 0⟩, .status 0 0 (zeros 65),
      .dramRead 0 ⟨0, false, false⟩ e, .dramWrite 0 ⟨0, false, false⟩ (zeros 63) false, .dramReadModifyWrite 0 ⟨0, false, false⟩ 63 (zeros 2) false ⟨[], 0, false⟩,
      .dramReadModifyWrite 0 ⟨0, false, false⟩ 0 (zeros 8) false e, .patrolScrubRead 0 0 e, .migrationCopyLine 0 e, .paceMeasure 0 (List.replicate 12 0) 0,
      .faultEvent 0 (some ⟨0, 0, 0⟩), .cci (.smbus 0x48) 0 0 0 1 0 [] none, .cci (.smbus 0x48) 0 0 0 0 1 [] (some []),
      .image (.smbus 0x48) 0 0 (zeros 1025)].all (fun i => !i.wf) = true ∧
    [Instr.slotAnnounce 0 0 h (zeros 55), .slotAbort 0 0 h (zeros 55), .slotActivity 0 0 h (zeros 55), .trailMotion 0 0 h (zeros 57), .trailTokens 0 0 h [],
      .trailClose 0 0 h [], .trailRead 0 0 h [], .trailWrite 0 0 h [], .trailAtomic 0 0 h [], .trailData 0 0 h [], .wack 0 0 h [], .ares 0 0 h [],
      .trailTime 0 0 h [], .links 0 0 h [], .mark 0 0 h [], .markAck 0 0 h [], .sleep 0 0 h [], .trailIdle 0 0 h []].all (fun i => !i.wf) = true := by
  decide +kernel

/-- The same commands with legal operands are well formed. -/
theorem test_wf_accepts :
    [Instr.registerWrite 0 .host 4 15 false 0, .lowDwordRead 0 .host 4, .debugWindowAccess 0 0x3FFFFFF (.read 1), .kennelRead 0 0 1,
      .decodeAuComplete 0 0 ⟨true, [], [], 32, 16, 1, 0, [0, 1], false, [], [], false, false, 0, 1⟩, .dramWrite 0 ⟨0, false, false⟩ (zeros 64) false,
      .dramRead 0 ⟨0, true, false⟩ ⟨[0, 575], 1, false⟩, .faultEvent 0 (some ⟨34, 0, 0⟩), .cci (.smbus 0x48) 0 0 0 0 0 [] none,
      .fanUpdate].all (fun i => i.wf) = true := by decide +kernel

/-- No row of the table gives bits: no word spells a command, and the queue is as it was. -/
theorem test_no_word_spells_a_command : decodeTableWord 32 0 = none ∧ State.reset.withFetchWord 32 0 = State.reset := ⟨rfl, rfl⟩

/-! ### Single steps, with the numbers of the manual's worked examples -/

/-- The chip that a command leaves, where it answers a next state. -/
def did (i : Instr) (s : State) (c : ChipId) : Chip := match exec i s with
  | .next t => t.chip c
  | _ => s.chip c

/-- spec/10, Example 1, steps 1 to 4: the token and its check code. -/
theorem test_token_code : mkToken 5 12 1 2 153 0 = 0xF0300002_6402400C_00000000_00000005#128 := by decide +kernel

/-- spec/10, Example 1, step 6: the flipped bit 94 is corrected, and INN_ECC_CE counts it. -/
theorem test_token_corrected :
    let t := mkToken 5 12 1 2 153 0
    let s := up fun ch => ch.setInn 3 { ch.inn 3 with inputs := [⟨0, 0, t ^^^ (1#128 <<< 94), 0⟩] }
    checkToken (t ^^^ (1#128 <<< 94)) = .corrected t ∧ (did (.innTokenGrant 0 3) s 0).rd (F.INN_ECC_CE_COUNT 3) = 1 := by decide +kernel

/-- spec/10, Example 1, step 5: the set of the tag. -/
theorem test_token_set : innSet 12 2 153 = 235 := by decide

/-- spec/00, Example 3, steps 1 and 2, on INN_ECC_CE of pack 3. -/
theorem test_counter_saturates :
    let c := ((State.reset.chip 0).wr (F.INN_ECC_CE_COUNT 3) 0xFFFFFFFE).count (F.INN_ECC_CE_COUNT 3) (F.INN_OVF_OVF 3) 2
    let d := (c.countN (F.INN_ECC_CE_COUNT 3) (F.INN_OVF_OVF 3) 2 3)
    c.rd (F.INN_ECC_CE_COUNT 3) = 0xFFFFFFFF ∧ c.rd (F.INN_OVF_OVF 3) = 4 ∧ d.rd (F.INN_ECC_CE_COUNT 3) = 0xFFFFFFFF := by decide +kernel

/-- spec/00, Example 2: the notice, its time and the high-water value of a level, on INN_LEVEL of pack 3. -/
theorem test_watermark :
    let lv (c : Chip) (t old new : Nat) := (c.wr F.TKP_NOW_TIME t).watermark (F.INN_STAT_WM_SEEN 3) (F.INN_HWM_MAIN 3) (F.INN_WM_TIME_TIME 3) 3584 old new
    let c := lv (lv (lv (lv (lv (State.reset.chip 0) 1000000 0 3500) 1000250 3500 3600) 1000900 3600 3700) 1001400 3700 3400) 1020000 3400 3650
    c.flag (F.INN_STAT_WM_SEEN 3) = true ∧ c.rd (F.INN_WM_TIME_TIME 3) = 1000250 ∧ c.rd (F.INN_HWM_MAIN 3) = 3700 := by decide +kernel

/-- spec/17, Example 1: the line at offset 0x2_0000_1040 with two spares lies in channel 4, rank 1 at λ 1,198,377, with that TAG. -/
theorem test_dram_line :
    let x := (pe id).chip 0
    let l := x.lineLoc (0x200001040 / 64)
    l.chan = 4 ∧ l.rank = 1 ∧ l.lam = 1198377 ∧ lineTag 9 1198377 = 0x0294E5B4 ∧ lineTag 15 1198377 = 0x0294E5B7 := by decide +kernel

/-- spec/03, Example 1, step 2: MEAS 870 below TARGET 1,024 − 8 raises VDD_CORE by 5 mV. -/
theorem test_pace_step :
    let s := upAt 2 fun ch => ((ch.wr F.PWR_PACE_MEAS_MEAS 870).wr F.PWR_PACE_TARGET_TARGET 1024).wr F.PWR_VCORE_MV 750
    (did (.paceLoopStep 2) s 2).rd F.PWR_VCORE_MV = 755 := by decide +kernel

/-- spec/04, Example 2, steps 1 and 2: the offset and the link delay of a dialogue. -/
theorem test_ptm_offset :
    let s := up fun ch => { ch.wr F.TKP_NOW_TIME 5000001000 with hif := { ch.hif with state := .firmware, ptmT1 := some 5000000000 } }
    let c := did (.ptmResponse 0 8000005000300 400) s 0
    c.rd F.HIF_PTM_OFF_OFFSET = 7995005000000 ∧ c.rd F.HIF_PTM_STAT_LINK_DELAY = 300 := by decide +kernel

/-- spec/04, Example 1, step 5: a write of 2 bytes to HIF_PTM_CTL is discarded and reported. -/
theorem test_short_register_write :
    let s := up fun ch => { ch with hif := { ch.hif with cfg := Tab.set 0 ch.hif.cfg 4 6 } }
    let c := did (.registerWrite 0 .host 0x100 3 false 0xFFFF) s 0
    c.rd F.HIF_ERR_ACCESS = 1 ∧ c.rd F.HIF_ERR_ADDR_OFFSET = 0x40 ∧ c.flag F.HIF_ERR_ADDR_BAR = false ∧ c.rd F.HIF_ERR_ADDR_KIND = 1 := by decide +kernel

/-- spec/18, Example 1, steps 1 and 2: FADD of 1 on TICKET 57 gives LD 57 and leaves 58. -/
theorem test_latch_ticket :
    let s := (pe fun k => k.setQ (lsuPort 11) 1).modChip 0 fun ch => ch.store 0x10010000 (toLe 8 57) false
    let c := did (.fadd 0 ⟨pe0, 0x10010000⟩) s 0
    c.load 0x10010000 8 = 58 ∧ (c.core 0 0).q (lsuPort 15) = 57 := by decide +kernel

/-- spec/23, the Example, step 1: TJ 108.5 °C on E2 throttles: CAP 992, STAGE 1 and CAP_SEEN. -/
theorem test_thermal_throttle :
    let s := upAt 2 fun ch => (((ch.wr F.PWR_TJ_TJ 0x06C8).wr F.PWR_THERM_DEMAND 1024).wr F.PWR_PACE_MEAS_MEAS 1024).wr F.PWR_THERM_CAP 1024
    let c := did .thermalPolicyTick s 2
    c.rd F.PWR_THERM_CAP = 992 ∧ c.rd F.PWR_THERM_STAGE = 1 ∧ c.flag F.PWR_THERM_CAP_SEEN = true ∧ c.rd F.PWR_PACE_TARGET_TARGET = 992 := by decide +kernel

/-! ### Single steps, with numbers worked out from the rules -/

/-- Ports A and B of a unit of PE 0. -/
def ops (n : Nat) (a b : Qword) : State := pe fun k => (k.setQ (portCode n 0) a).setQ (portCode n 1) b

/-- A port after a command. -/
def port (i : Instr) (s : State) (n j : Nat) : Qword := ((did i s 0).core 0 0).q (portCode n j)

/-- ADD wraps, ADDS saturates, SAR keeps the sign, LT is signed and LTU is not (R347). -/
theorem test_alu :
    let top := 0x7FFFFFFFFFFFFFFF#64
    port (.add 0 pe0 false) (ops 1 top 1) 1 3 = 0x8000000000000000 ∧ port (.adds 0 pe0 false) (ops 1 top 1) 1 3 = top ∧
    port (.sar 0 pe0 true) (ops 2 0x8000000000000000 4) 2 3 = 0xF800000000000000 ∧ port (.lt 0 pe0 false) (ops 1 (-1) 0) 1 3 = 1 ∧
    port (.ltu 0 pe0 false) (ops 1 (-1) 0) 1 3 = 0 ∧ port (.clz 0 pe0 false) (ops 1 0 0) 1 3 = 64 := by decide +kernel

/-- MUL of −1 by 2 is −2 in 128 bits; MULU differs in the high half (R348). -/
theorem test_mul :
    port (.mul 0 pe0) (ops 3 (-1) 2) 3 3 = -2 ∧ port (.mul 0 pe0) (ops 3 (-1) 2) 3 4 = -1 ∧ port (.mulu 0 pe0) (ops 3 (-1) 2) 3 4 = 1 := by decide +kernel

/-- 59.29 s plus one frame at 30 frames a second is 1 min: 00:00:59:29 and 00:01:00:00 (R360). -/
theorem test_timecode :
    let s := pe fun k => ((k.setQ (portCode 7 0) 0x00005929).setQ (portCode 7 1) 1).setQ (portCode 7 2) 30
    port (.tcadd 0 pe0) s 7 4 = 0x00010000 ∧ port (.tcadd 0 pe0) s 7 5 = 0 := by decide +kernel

/-- A doubled bit error in a DRAM line makes it poison and counts as uncorrectable (R505 to R507). -/
theorem test_dram_uncorrectable :
    let s := up fun ch => (((ch.wr F.MEM_USABLE_BYTES 0x348000000).wr (F.MEM_RANK_STATE 0) rkActive).wr (F.MEM_RANK_SUBST 0) 0).setClk 0 true
    let c := (did (.dramRead 0 ⟨0, false, false⟩ ⟨[0, 1], 0, false⟩) s 0).dramTurn 0
    c.isPoisoned dramBase = true ∧ c.rd (F.MEM_CH_UE_COUNT 0) = 1 := by decide +kernel

/-- FREEZE has no effect outside DEVELOP (R412). -/
theorem test_freeze_needs_develop :
    let s := up fun ch => ch.wr F.LCS_STATE_STATE 2
    (did (.tensorFreeze 0 11 true) s 0).flag (F.TEN_STAT_FROZEN_LIVE 11) = false := by decide +kernel

/-- A VERDICT for a tag without work is held (R326); the Sentry's timer opens both channels at 4 ms (R459). -/
theorem test_sentry_timer :
    let s := up fun ch => (ch.wr F.TKP_NOW_TIME 4000000).setSen { ch.sen with chanA := true, chanB := true }
    (did (.sentryTimerExpiry 0) s 0).sen.chanA = false ∧ (did (.sentryTimerExpiry 0) s 0).sen.chanB = false := by decide +kernel

/-- The command at the front runs, and the next one waits. -/
theorem test_step_takes_front :
    let s : State := { up id with pending := [.lockstepSelftest 0 true, .fanUpdate] }
    (match step s with
      | .next t => decide (t.pending = [.fanUpdate])
      | _ => false) = true := by decide +kernel

/-! ### Witnesses: steps and reset -/

theorem witness_EmptyQueuePassesOneNanosecond :
    (State.reset.pending = [] ∧ State.reset.tray.power ≠ .off ∧ (∀ c : ChipId, ∀ k < 16, (State.reset.chip c).chanIdle k = true) ∧
      ∀ c : ChipId, ∀ x ∈ (State.reset.chip c).xings, x.held = []) ∧
    ((bup fun t => { t with power := .off }).pending = [] ∧ (bup fun t => { t with power := .off }).tray.power = .off) := by decide

/-! ### Witnesses: units of a core -/

/-- Every pair of operands of a unit lies in the ports of some running chip: the witness of the statements about ALU, MUL, VEC and DEC,
whose clauses split on the operands alone. -/
theorem witness_any_operands (u : Nat) (a b x : Qword) :
    let s := pe fun k => ((k.setQ (portCode u 0) a).setQ (portCode u 1) b).setQ (portCode u 2) x
    Runs s 0 pe0 ∧ Live s 0 ∧ s.portOf 0 pe0 (portCode u 0) = a ∧ s.portOf 0 pe0 (portCode u 1) = b ∧ s.portOf 0 pe0 (portCode u 2) = x := by
  refine ⟨⟨⟨nofun, ?_⟩, rfl⟩, ⟨nofun, ?_⟩, ?_, ?_, ?_⟩
  · show (0 : Nat) < 2
    decide
  · show (0 : Nat) < 2
    decide
  · show Tab.get 0 (Tab.set 0 (Tab.set 0 (Tab.set 0 [] _ a) _ b) _ x) _ = a
    rw [get_set_ne _ _ _ _ _ _ (by simp [portCode]), get_set_ne _ _ _ _ _ _ (by simp [portCode]), get_set_self]
  · show Tab.get 0 (Tab.set 0 (Tab.set 0 (Tab.set 0 [] _ a) _ b) _ x) _ = b
    rw [get_set_ne _ _ _ _ _ _ (by simp [portCode]), get_set_self]
  · show Tab.get 0 (Tab.set 0 (Tab.set 0 (Tab.set 0 [] _ a) _ b) _ x) _ = x
    rw [get_set_self]

/-- Descriptors and addresses at the ends of the ranges of R351 and R498: `usable` is 0x3_4800_0000 with two spare ranks. -/
theorem witness_AluAddressConversions :
    ((pe id).chip 0).pos = 0 ∧ ((pe id).chip 0).usable = 0x348000000 ∧
    (∀ a ∈ [0x347FFFFFF, 2 ^ 48 + 0x7FFFFF, 2 * 2 ^ 48 + 0x1FFFFF, 3 * 2 ^ 48, 2 ^ 50, 0x348000000, 2 ^ 48 + 0x800000, 2 * 2 ^ 48 + 0x200000,
      0x10000000, 0x107FFFFF, 0x100000000, 0x447FFFFFF, 0x200000, 0x10800000, 0x448000000], a < 2 ^ 64) := by decide

/-- Operands of the clauses of DIV (R348): the most negative number by -1, B = 0, and others. -/
theorem witness_MulResults :
    (BitVec.ofInt 64 (-2 ^ 63)).toInt = -2 ^ 63 ∧ (BitVec.ofInt 64 (-1)).toInt = -1 ∧ (7#64 ≠ 0 ∧ ¬ ((7#64).toInt = -2 ^ 63 ∧ (7#64).toInt = -1)) := by
  decide

/-- Packed numbers of the clauses of R360. -/
theorem witness_DecimalResults :
    bcdOk 0x9999999999999999 = true ∧ bcdOk 0 = true ∧ bcdOk 0xA = false ∧ (10 : Nat) ^ 16 - 1 < 10 ^ 16 ∧ (10 : Nat) ^ 16 < 2 ^ 64 := by decide

/-! ### Witnesses: Latch, LSU, tokens and control of a core -/

/-- Nothing waits in PE 0, so going on leaves the chip as it is. -/
theorem witness_resumed : ((pe id).chip 0).resumed pe0 = (pe id).chip 0 ∧ ((stew id).chip 0).resumed .steward = (stew id).chip 0 :=
  ⟨resumed_idle _ _ (by decide +kernel) (by decide +kernel), resumed_idle _ _ (by decide +kernel) (by decide +kernel)⟩

theorem witness_LatchResults : ∀ a ∈ [(0x10000000 : Nat), 0x107FFFF8, 0x100000000, 0x447FFFFF8],
    let ch := ((pe id).chip 0).resumed pe0
    Runs (pe id) 0 pe0 ∧ ch.lsuBusy pe0 (ch.getCore pe0) = false ∧ ch.mustWait 0 (ch.getCore pe0) = false ∧ ch.inShared a 8 = true ∧
    a % 8 = 0 := by decide +kernel

/-- The firing of the second state is provisional: what waits in it stays. -/
theorem witness_LatchOperationsThatDoNotRun :
    let prov := pe fun k => { k with firing := some { firing0 with prov := true } }
    let busy := pe fun k => { k with
      firing := some { firing0 with prov := true }, deferred := List.replicate 16 (.latch 0 0x10000000 0 0 false) }
    let ch (s : State) := (s.chip 0).resumed pe0
    (((pe id).chip 0).stalledStores (coreNo pe0) = 0 ∧ (((pe id).chip 0).getCore pe0).deferred = []) ∧
    (Runs busy 0 pe0 ∧ (ch busy).lsuBusy pe0 ((ch busy).getCore pe0) = true) ∧
    (Runs prov 0 pe0 ∧ (ch prov).lsuBusy pe0 ((ch prov).getCore pe0) = false ∧ (ch prov).inShared 0x0FFFFFF8 8 = false ∧
      (ch prov).inShared 0x10000001 8 = true ∧ (ch prov).inShared 0x10000000 8 = true ∧
      (ch prov).mustWait (coreNo pe0) ((ch prov).getCore pe0) = true) := by decide +kernel

/-- A load and a store through AR0: in SCRATCH they raise nothing and a store goes even from a provisional firing, at 0x10000000 that one
waits, at 0x10800000 a store reaches a device word, at 0x200000 both raise. -/
theorem witness_LsuAccesses :
    let s (a : Qword) := pe fun k => k.setQ (lsuPort 0) a
    let v (a : Qword) := pe fun k => { k.setQ (lsuPort 0) a with firing := some { firing0 with prov := true } }
    let ch (s : State) := (s.chip 0).resumed pe0
    let x (s : State) := (ch s).getCore pe0
    let wl := 3 * 2 ^ 5
    let ws := 3 * 2 ^ 5 + 2 ^ 8
    (∀ t ∈ [s 0x1000, v 0x1000, v 0x10000000, s 0x10800000, s 0x200000], Runs t 0 pe0 ∧ (ch t).lsuBusy pe0 (x t) = false) ∧
    ((lsuDecode wl).isSome = true ∧ (lsuDecode ws).isSome = true) ∧
    ((ch (s 0x1000)).lsuExc pe0 (x (s 0x1000)) wl = none ∧ lsuHeld pe0 (x (s 0x1000)) wl = false ∧ ¬ regBase ≤ physOf pe0 0x1000) ∧
    ((ch (s 0x1000)).lsuExc pe0 (x (s 0x1000)) ws = none ∧ (ch (s 0x1000)).mustWait 0 (x (s 0x1000)) = false ∧ devWord (physOf pe0 0x1000) = false) ∧
    ((x (v 0x1000)).prov = true ∧ (ch (v 0x1000)).inScratch pe0 (x (v 0x1000)) 0x1000 8 = true ∧ (x (v 0x1000)).deferred.any Deferred.isLsu = false) ∧
    ((ch (v 0x10000000)).lsuExc pe0 (x (v 0x10000000)) ws = none ∧ (ch (v 0x10000000)).mustWait 0 (x (v 0x10000000)) = true ∧
      (ch (v 0x10000000)).inScratch pe0 (x (v 0x10000000)) 0x10000000 8 = false) ∧
    ((ch (s 0x10800000)).lsuExc pe0 (x (s 0x10800000)) ws = none ∧ devWord (physOf pe0 0x10800000) = true) ∧
    ((ch (s 0x200000)).lsuExc pe0 (x (s 0x200000)) wl).isSome = true ∧ ((ch (s 0x200000)).lsuExc pe0 (x (s 0x200000)) ws).isSome = true := by
  decide +kernel

theorem witness_TokenEmissions :
    let s := pe fun k => k.setQ (tokPort 1) 1
    let v := pe fun k => { k.setQ (tokPort 1) 1 with firing := some { firing0 with prov := true } }
    let w := pe fun k => { (k.setQ (tokPort 1) 1).setQ (tokPort 3) 32 with firing := some { firing0 with prov := true } }
    let ch (s : State) := (s.chip 0).resumed pe0
    let k (s : State) := (ch s).core 0 0
    let fl (s : State) := ((k s).q (tokPort 3)).toNat
    (∀ t ∈ [s, v, w], Runs t 0 pe0 ∧ ((k t).firing.map (·.slot)) = some 0 ∧ (ch t).graphOf 0 = some graph2 ∧ (k t).tokBusy = false ∧
      bits ((k t).q (tokPort 1)).toNat 0 14 < graph2.nnodes ∧ (bit (fl t) 5 && bit (fl t) 0) = false ∧
      (ch t).tokHeld pe0 (k t) false = false ∧ (ch t).tokHeld pe0 (k t) true = false ∧
      graph2.ctxBase ≤ bits ((k t).q (tokPort 2)).toNat 20 10 ∧ bits ((k t).q (tokPort 2)).toNat 20 10 < graph2.ctxBase + graph2.ctxCount) ∧
    (ch s).mustWait 0 (k s) = false ∧
    ((k v).prov = true ∧ bit (fl v) 5 = false ∧ (k v).deferred.any Deferred.isLsu = false) ∧
    ((ch w).mustWait 0 (k w) = true ∧ bit (fl w) 5 = true) ∧
    graph2.nnodes ≤ bits 2 0 14 ∧ (bit 33 5 && bit 33 0) = true := by decide +kernel

theorem witness_LoopsAndBranches :
    let s := pe fun k => { k.setQ (lbPort 1) 64 with loops := [⟨0, 64, 1, 0⟩], ret := [64] }
    let y (s : State) := ((s.chip 0).resumed pe0).getCore pe0
    let ch := (s.chip 0).resumed pe0
    Runs s 0 pe0 ∧ ((y s).pc + 64 ≤ ((y s).q (lbPort 1)).toNat ∧ ch.codeAt pe0 (y s) 64 = true ∧ (y s).loops.length < 4) ∧
    ((y s).q (lbPort 0)).toNat = 0 ∧ (y (pe fun k => k.setQ (lbPort 0) 1)).q (lbPort 0) ≠ 0 ∧
    ch.codeAt pe0 (y s) 4032 = true ∧ ch.codeAt pe0 (y s) 4096 = false ∧ ch.codeAt pe0 (y s) 1 = false ∧
    ((y s).ret.length < 32 ∧ (y s).ret.length + (y s).spilled < 288) ∧ (y s).loops ≠ [] ∧ (y s).ret ≠ [] ∧
    (y (pe id)).loops = [] ∧ (y (pe id)).ret = [] ∧ (y (pe id)).spilled = 0 ∧ 288 ≤ (y (pe fun k => { k with spilled := 288 })).spilled ∧
    isSteward pe0 = false ∧ Runs (stew id) 0 .steward := by decide +kernel

/-- The Steward with FIRM 1 and FIRM 0; its timer line pending, enabled or not, with IE 1 and 0. -/
theorem witness_StewardSystemOperations :
    let st (s : State) := ((((s.chip 0).resumed .steward).fab.steward.core.q (sysPort 0)).toNat)
    Runs (stew id) 0 .steward ∧ st (stew id) % 2 = 1 ∧ st (stew fun k => k.setQ (sysPort 0) 0) % 2 = 0 ∧
    Runs (stew fun k => k.setQ (sysPort 0) 0) 0 .steward ∧ (((stew id).chip 0).resumed .steward).fab.steward.halted = false := by decide +kernel

theorem witness_StewardInterrupt (c : Chip) (h : (c.fab.steward.core.q (sysPort 7)).toNat ≤ c.now) :
    ((c.fab.steward.core.q (sysPort 6)).toNat = 0 → c.sampleIrq.fab.steward.enabled = 0) ∧
    ((c.fab.steward.core.q (sysPort 6)).toNat = 1 → c.sampleIrq.fab.steward.enabled = 1) := by
  have e (x : Nat) : x % 256 * 2 + 1 < 2 ^ 32 := by omega
  constructor <;> intro g <;> simp only [Chip.sampleIrq, Chip.draw, Steward.enabled, g, h, decide_true, bnat, BitVec.toNat_ofNat] <;>
    simp only [Nat.and_zero, Nat.and_one_is_mod] <;> simp

theorem witness_StewardInterrupt_reset :
    let c := (stew fun k => (k.setQ (sysPort 7) 0).setQ (sysPort 6) 1).chip 0
    let d := (stew fun k => ((k.setQ (sysPort 7) 0).setQ (sysPort 6) 1).setQ (sysPort 0) 3).chip 0
    ((c.resumed .steward).fab.steward.core.q (sysPort 7)).toNat ≤ (c.resumed .steward).now ∧
    ((c.resumed .steward).fab.steward.core.q (sysPort 6)).toNat = 1 ∧
    bit ((c.resumed .steward).fab.steward.core.q (sysPort 0)).toNat 1 = false ∧
    bit ((d.resumed .steward).fab.steward.core.q (sysPort 0)).toNat 1 = true := by decide +kernel

/-- Bundles of moves to G1: of an immediate, which issues, and of LSU.LD, which waits for the Latch operation of a provisional firing
(R340); and a word that is no bundle. -/
theorem witness_BundleIssueAndFiringEnd :
    let code (b : Nat) (f : Core → Core) : State := (pe f).modChip 0 fun ch => ch.store (packBase 0) (toLe 64 b) false
    let go := code (2 ^ 32 * (1 * 2 ^ 44 + 2 ^ 43 + 5)) id
    let waits := code (2 ^ 32 * (1 * 2 ^ 44 + 0x1AF)) fun k => { k with
      firing := some { firing0 with prov := true }, deferred := [.latch 0 0x10000000 0 0 false] }
    let bad := code (2 ^ 7) id
    let issue (s : State) := ((s.chip 0).resumed pe0).issue pe0 (((s.chip 0).resumed pe0).core 0 0)
    (Runs go 0 pe0 ∧ (match issue go with
      | .go _ ws _ _ => ws.all fun w => !isTrigger false w.1
      | _ => false) = true) ∧
    (Runs waits 0 pe0 ∧ issue waits = .wait) ∧
    (Runs bad 0 pe0 ∧ (match issue bad with
      | .exc _ _ => true
      | _ => false) = true) := by decide +kernel

/-- A PE that drains, with and without an abort; a halted Steward. -/
theorem witness_FiringDrain :
    let s := pe fun k => { k with st := .draining }
    let a := pe fun k => { k with st := .draining, aborted := true }
    let y (s : State) := ((s.chip 0).resumed pe0).core 0 0
    let halt := (stew id).modChip 0 fun ch => ch.setHalted true
    (Live s 0 ∧ ((s.chip 0).core 0 0).st = .draining ∧ (y s).st = .draining ∧ (y s).deferred = [] ∧ (y s).exc = none ∧
      ((s.chip 0).resumed pe0).stalledStores 0 = 0 ∧ (y s).firing = some firing0 ∧ (y s).aborted = false) ∧
    (Live a 0 ∧ (y a).aborted = true ∧ (y a).st = .draining ∧ (y a).deferred = [] ∧ (y a).exc = none) ∧
    (Runs halt 0 .steward ∧ ((halt.chip 0).resumed .steward).fab.steward.halted = true) := by decide +kernel

/-! ### Witnesses: registers, the host link and its windows -/

/-- Host accesses with Memory Space on, off, and the ends of the Latch window (R99, R116, R117). -/
theorem witness_RegisterAccesses :
    let on := up fun ch => (ch.setCfg 4 2).wr F.HIF_STATUS_MODE 1
    let win (s : State) := s.modChip 0 fun ch => (ch.setFlag F.LAT_WIN_EN true).setFlag F.LAT_WIN_SPACE true
    Awake on 0 ∧ (on.chip 0).memSpace = true ∧ ((up id).chip 0).memSpace = false ∧ Awake (up id) 0 ∧
    (∀ o ∈ [(0 : Nat), 0x147FFC, 0x150000, 0xFFFFF8], ¬ (0x148000 ≤ o ∧ o < 0x150000) ∧ o < 2 ^ 24) ∧
    (on.chip 0).answers .host F.TKP_NOW_TIME.reg = true ∧ msixDword F.TKP_NOW_TIME.reg = none ∧ pbaDword F.TKP_NOW_TIME.reg = none ∧
    ((findReg F.TKP_NOW_TIME.reg).map fun h => (h.fam.dwords, h.dw)) = some (2, 0) ∧
    ((findReg (F.TKP_NOW_TIME.reg + 4)).map fun h => (h.fam.dwords, h.dw)) = some (2, 1) ∧
    ((on.chip 0).memSpace = true ∧ ((win on).chip 0).winOn = true ∧ ((win on).chip 0).memSpace = true) ∧
    (∀ o ∈ [(0 : Nat), 0x147FF8, 0x150000], inWindow o = false ∧ inWindow (o + 4) = false) ∧
    (on.chip 0).rd F.PWR_STATE_STATE < 2 := by decide +kernel

/-- Each access code of R10 is that of some field of the map. -/
theorem witness_FieldsFollowTheirAccessCodes :
    ∀ a ∈ [Access.rw, .w1c, .rwl, .dbg, .ro, .w1p], (regMap.any fun f => f.fields.any fun s => s.acc == a) = true := by decide +kernel

theorem witness_LinkEvents :
    let ch (s : State) := s.chip 0
    let noClk (s : State) : State := s.modChip 0 fun ch => { ch with hif := { ch.hif with refclk := false } }
    let rd (u : ReadUse) := up fun ch => { ch with hif := { ch.hif with reads := [⟨7, u, 0, 64, false⟩] } }
    ((ch (up id)).hif.refclk = true ∧ Awake (up id) 0) ∧ ((ch State.reset).hif.refclk = true ∧ (ch State.reset).hif.state = .reset) ∧
    ((ch (noClk (up id))).hif.refclk = false ∧ Awake (noClk (up id)) 0) ∧ (ch (up id)).hif.linkUp = false ∧
    (∀ r ∈ (ch (up id)).hif.reads, r.tag ≠ 255) ∧
    (∀ u ∈ [ReadUse.doorbell 0, .descriptor 127, .critical 127, .image 15], (ch (rd u)).hif.reads = [⟨7, u, 0, 64, false⟩] ∧ Awake (rd u) 0) := by decide

theorem witness_PtmAndNotification :
    let ch (s : State) := s.chip 0
    let ptm := up fun ch => ({ ch with hif := { ch.hif with ptmEnable := true, ptmT1 := some 0, ptmDlg := 1, lnRegs := [0] } } : Chip)
    let lost := up fun ch => (ch.wr F.TKP_NOW_TIME 4000000).setFlag F.HIF_PTM_STAT_VALID true
    let doze (v : Nat) := ptm.modChip 0 fun ch => ch.wr F.PWR_STATE_STATE v
    let second := ptm.modChip 0 fun ch => { ch with hif := { ch.hif with ptmDlg := 2 } }
    (Awake ptm 0 ∧ (ch ptm).hif.ptmEnable = true ∧ (ch ptm).hif.ptmT1 = some 0 ∧ (ch ptm).hif.ptmDlg = 1 ∧ (ch ptm).rd F.HIF_PTM_CTL_PERIOD ≠ 0) ∧
    (Awake second 0 ∧ (ch second).hif.ptmT1 = some 0 ∧ (ch second).hif.ptmDlg ≠ 1) ∧ (ch ptm).halted = false ∧ (ch (up id)).hif.ptmT1 = none ∧
    ((ch (up fun ch => ch.wr F.HIF_PTM_CTL_PERIOD 0)).rd F.HIF_PTM_CTL_PERIOD = 0 ∧
      (ch (up fun ch => ch.wr F.HIF_PTM_CTL_PERIOD 1)).rd F.HIF_PTM_CTL_PERIOD ≠ 0) ∧
    ((ch lost).hif.ptmLast + 4000000 * max 1 ((ch (up fun ch => ch.wr F.HIF_PTM_CTL_PERIOD 0)).rd F.HIF_PTM_CTL_PERIOD) ≤ (ch lost).now ∧
      (ch lost).flag F.HIF_PTM_STAT_VALID = true) ∧
    ((ch ptm).hif.lnRegs.contains 0 = true ∧ (ch (up id)).hif.lnRegs.contains 0 = false) ∧ (ch ptm).pwr < 2 ∧
    (ch (doze 2)).pwr = pwrDoze ∧ (ch (doze 3)).pwr = pwrWaking ∧ Awake (doze 2) 0 ∧
    (ch ptm).dbPage + 8 * (ch ptm).ringsPerLine * 0 = (ch ptm).dbPage / (8 * (ch ptm).ringsPerLine) * (8 * (ch ptm).ringsPerLine) := by
  decide

theorem witness_HostWindows :
    let ch (s : State) := s.chip 0
    let st (h : HifState) := up fun ch => { ch with hif := { ch.hif with state := h } }
    let on := up fun ch => (((ch.setCfg 4 2).wr F.HIF_STATUS_MODE 1).setFlag F.LAT_WIN_EN true).setFlag F.LAT_WIN_SPACE true
    let rom := up fun ch => (ch.setCfg 4 2).wr F.HIF_STATUS_MODE 0
    let dev := on.modChip 0 fun ch => ch.wr F.LCS_STATE_STATE 1
    let poi := on.modChip 0 fun ch => { ch with poisoned := [0x10000000] }
    (ch (st .starting)).hif.state = .starting ∧ (ch (st .rom)).hif.state = .rom ∧ Awake on 0 ∧ (ch on).hif.state ≠ .starting ∧
    (bit 2 1 = true ∧ bit 0x8000 15 = true ∧ 0x7B / 4 * 4 = 0x78 ∧ (0x77 : Nat) / 4 * 4 ≠ 0x78) ∧
    ((ch rom).romMode = true ∧ (ch rom).memSpace = true ∧ (ch rom).hif.bmState ≠ 1) ∧ (ch on).romMode = false ∧
    ((ch dev).develop = true ∧ (ch on).develop = false) ∧ ((ch on).winOn = true ∧ (ch on).memSpace = true) ∧
    ((ch on).winWord 0 = some 0x10000000 ∧ (ch on).isPoisoned 0x10000000 = false ∧ (ch on).tapHides 0x10000000 = false) ∧ (ch poi).isPoisoned 0x10000000 = true ∧
    (0x148000 % 8 = 0 ∧ (0x14FFFF : Nat) % 8 ≠ 0 ∧ (0x14FFFF : Nat) < 0x150000) := by decide


/-! ### Witnesses: rings and descriptors -/

theorem witness_RingControl :
    let ch (s : State) := s.chip 0
    let ok := up fun ch => ((((((ch.setFlag F.HIF_STATUS_READY true).wr (F.RNG_SIZE_SIZE 127) 65536).wr (F.RNG_CTL_TYPE 127) 1).wr
      (F.RNG_SQ_BASE_BASE 127) 1).wr (F.RNG_CQ_BASE_BASE 127) 1).wr F.RNG_DB_BASE_BASE 1)
    let at' (v : Nat) := up fun ch => ch.wr (F.RNG_STATE_STATE 127) v
    let irq := up fun ch => (ch.setRing 0 { Ring.reset with unsig := 1 }).wr (F.RNG_IRQ_TIME 0) 1 |>.wr F.TKP_NOW_TIME 1000
    let full := up fun ch => ((ch.setRing 0 { Ring.reset with typ := 3, size := 16 }).wr (F.RNG_CQ_PROD_INDEX 0) 16).wr (F.RNG_STATE_STATE 0) 1
    let halt := up fun ch => ch.wr F.HIF_STATUS_MODE 2
    (Live ok 0 ∧ (ch ok).rd (F.RNG_STATE_STATE 127) = ringDisabled ∧ (ch ok).enableCheck 127 = none) ∧
    ((ch (up id)).enableCheck 127).isSome = true ∧
    ((ch (at' 1)).rd (F.RNG_STATE_STATE 127) = ringActive ∧ (ch (at' 3)).rd (F.RNG_STATE_STATE 127) = ringOverflow) ∧
    ((ch (at' 4)).rd (F.RNG_STATE_STATE 127) = ringDraining ∧ ((ch (at' 4)).ring 127).descs = [] ∧ ((ch (at' 4)).ring 127).fetching = none) ∧
    (Live irq 0 ∧ (ch irq).rd (F.RNG_IRQ_TIME 0) ≠ 0 ∧ ((ch irq).ring 0).unsig ≠ 0 ∧
      ((ch irq).ring 0).oldest + (ch irq).rd (F.RNG_IRQ_TIME 0) * 1000 ≤ (ch irq).now ∧ (ch irq).halted = false ∧
      (ch irq).pcieWaits = false) ∧
    (Live full 0 ∧ (ch full).rd (F.RNG_STATE_STATE 0) = ringActive ∧ ((ch full).ring 0).typ = 3 ∧ (ch full).outFull 0 = true) ∧
    (Live halt 0 ∧ (ch halt).halted = true) := by decide +kernel

theorem witness_DoorbellsAndFetches :
    let ch (s : State) := s.chip 0
    let act := up fun ch => ch.wr (F.RNG_STATE_STATE 0) 1
    let per (p : Nat) := act.modChip 0 fun ch => ch.wr F.RNG_POLL_PERIOD p
    let doze := act.modChip 0 fun ch => ch.wr F.PWR_STATE_STATE 2
    let rd (u : ReadUse) := up fun ch => ({ ch with hif := { ch.hif with reads := [⟨0, u, 0, 64, false⟩] } } : Chip).setRing 127
      { Ring.reset with fetching := some (0xFFFFFFFF, 2) }
    (Awake act 0 ∧ (ch act).halted = false ∧ (ch act).pwr = pwrRun) ∧ (ch (per 1)).rd F.RNG_POLL_PERIOD ≠ 0 ∧
    ((ch (per 0)).rd F.RNG_POLL_PERIOD = 0 ∧ (ch (per 0)).pollLines ≠ []) ∧
    ((ch (act.modChip 0 fun ch => ch.wr F.RNG_POLL_SWEEP 1)).rd F.RNG_POLL_SWEEP ≠ 0) ∧
    (Awake doze 0 ∧ (ch doze).pwr = pwrDoze ∧ (ch (doze.modChip 0 fun ch => ch.wr F.RNG_POLL_DOZE 1)).rd F.RNG_POLL_DOZE ≠ 0) ∧
    ((ch (rd (.doorbell 15))).hif.reads = [⟨0, .doorbell 15, 0, 64, false⟩]) ∧
    ((ch (rd (.descriptor 127))).hif.reads = [⟨0, .descriptor 127, 0, 64, false⟩] ∧
      ((ch (rd (.descriptor 127))).ring 127).fetching = some (0xFFFFFFFF, 2)) := by decide +kernel

/-- Descriptors of every opcode that a ring starts next, with legal fields, at the ends of their ranges. -/
theorem witness_ShortDescriptors :
    let s (b : List Byte) := up (withDesc b)
    let is (op : Nat) (body : List Byte) : Prop := Awake (s (descBytes op body)) 0 ∧
      ((s (descBytes op body)).chip 0).nextDesc 0 op = some (newDesc 1 0 (descBytes op body))
    is opNop [] ∧ ((up id).chip 0).nextDesc 0 opNop = none ∧ descOk (descBytes opNop []) [(8, 56)] = true ∧
    descOk (descBytes opNop [1]) [(8, 56)] = false ∧
    (is opFlowBind [255, 0, 127] ∧ descOk (descBytes opFlowBind [255, 0, 127]) [(11, 53)] = true ∧
      (((s (descBytes opFlowBind [255, 0, 127])).chip 0).startDesc 0 0).outEnabled 127 = false) ∧
    ((up fun ch => (ch.setRing 127 { Ring.reset with typ := 3 }).wr (F.RNG_STATE_STATE 127) 1).chip 0).outEnabled 127 = true ∧
    (is opEpochSet [1] ∧ descOk (descBytes opEpochSet [1]) [(16, 48)] = true) ∧
    (is opFaultAck [255, 0] ∧ descOk (descBytes opFaultAck [255, 0]) [(10, 54)] = true ∧
      ((s (descBytes opFaultAck [255, 0])).chip 0).ackRec 255 = none ∧
      (((up fun ch => (ch.wr (F.FCU_REC_STAT_CLASS 255) 1).setFlag (F.FCU_REC_STAT_SEEN 255) true).chip 0).ackRec 255).isSome = true) ∧
    (is opStreamSet [0, 0, 0, 0, 0x80, 0x96, 0x98, 0] ∧ descOk (descBytes opStreamSet [0, 0, 0, 0, 0x80, 0x96, 0x98, 0]) [(10, 2), (16, 48)] = true ∧
      fieldAt (descBytes opStreamSet [0, 0, 0, 0, 0x80, 0x96, 0x98, 0]) 12 4 = 10000000 ∧
      ((up fun ch => ch.setStream 0 (stream0 2)).chip 0).stream 0 = some (stream0 2) ∧ ((up id).chip 0).stream 0 = none) ∧
    (is opPowerReq [1] ∧ descOk (descBytes opPowerReq [1]) [(9, 55)] = true ∧ ((s (descBytes opPowerReq [1])).chip 0).pwr = pwrRun ∧
      ((up fun ch => ch.wr F.PWR_STATE_STATE 1).chip 0).pwr ≠ pwrRun) := by decide +kernel

/-- BUF: of no stream; of a bitstream whose graph slot is empty, and with a length of 0; of one whose graph is loaded. -/
theorem witness_ShortDescriptors_buf :
    let b (len : Byte) := descBytes opBuf [0, 0, 15, 0, len]
    let s (len : Byte) := (up (withBuf (b len))).modChip 0 fun ch => ch.setStream 0 (stream0 1)
    let ch := (s 1).chip 0
    ch.nextDesc 0 opBuf = some (newDesc 2 0 (b 1)) ∧ ch.ringBlocked 0 = false ∧ ch.fetches = true ∧
    descOk (b 1) [(11, 1), (32, 32)] = true ∧ fieldAt (b 1) 10 1 < 16 ∧ fieldAt (b 1) 12 4 = 1 ∧ fieldAt (b 0) 12 4 = 0 ∧
    ch.bufKennel 0 = some 0 ∧ ch.stream 0 = some (stream0 1) ∧ (ch.kennel 0).fill = none ∧ (ch.slot 0).st = .empty ∧
    (((s 1).modChip 0 fun ch => ch.setSlot 0 { Slot.reset with st := .armed }).chip 0).slot 0 ≠ Slot.reset ∧
    ((up (withBuf (b 1))).chip 0).bufKennel 0 = none := by decide +kernel

/-- The block of a START: one bucket of one sample, on chip 0 alone, tables in DRAM and the credit word in the Common Room. -/
def startBlock : List Byte :=
  padTo 192 ([1, 0, 1, 0, 1, 0, 1, 1] ++ zeros 8 ++ toLe 4 1 ++ toLe 2 1 ++ [1, 0] ++ toLe 4 0 ++ toLe 4 0 ++ toLe 8 0 ++ toLe 8 64 ++ zeros 4 ++
    toLe 4 320 ++ toLe 8 128 ++ toLe 8 (2 ^ 48) ++ zeros 8 ++ toLe 4 16 ++ zeros 28 ++ toLe 2 1)

/-- The long descriptors, with legal fields. -/
theorem witness_LongDescriptors :
    let s (b : List Byte) := up (withDesc b)
    let is (b : List Byte) (op : Nat) : Prop := Live (s b) 0 ∧ ((s b).chip 0).nextDesc 0 op = some (newDesc 1 0 b)
    let opn (kind src dpb bits fps : Byte) (w : Byte) := descBytes opStreamOpen [0, 0, kind, src, w, 0, w, 0, dpb, bits, fps, 0, 1, 0, 0, 0, 0, 0, 0]
    let withS (k : Nat) (x : Stream) := (up id).modChip 0 fun ch => ch.setStream k x
    (∀ b ∈ [opn 1 1 1 8 30 64, opn 2 7 0 12 30 64, opn 3 0 0 0 0 0], is b opStreamOpen ∧ (OpenReq.ofBytes b).legal b = true) ∧
    (OpenReq.ofBytes (opn 4 0 0 0 0 0)).legal (opn 4 0 0 0 0 0) = false ∧
    (is (descBytes opStreamClose [0, 0]) opStreamClose ∧ descOk (descBytes opStreamClose [0, 0]) [(10, 54)] = true) ∧
    ((withS 0 (stream0 3)).chip 0).stream 0 = some (stream0 3) ∧ (stream0 3).closing = none ∧ (stream0 3).live = [] ∧
    (∀ x ∈ [{ stream0 1 with closing := some (0, 0) }, { stream0 2 with live := [⟨0, 0, 0, 0, 0, 1, 0⟩] }],
      ((withS 0 x).chip 0).stream 0 = some x) ∧ (((withS 0 (stream0 2)).chip 0).closeRaw 0).stream 0 = some (stream0 2) ∧
    (is (descBytes opGraphLoad [0, 0, 0, 0, 0, 0, 0, 0, 0, 0, 0, 4, 15]) opGraphLoad ∧
      descOk (descBytes opGraphLoad [0, 0, 0, 0, 0, 0, 0, 0, 0, 0, 0, 4, 15]) [(21, 43)] = true ∧
      fieldAt (descBytes opGraphLoad [0, 0, 0, 0, 0, 0, 0, 0, 0, 0, 0, 4, 15]) 16 4 = 64 * 1048576 ∧ ((up id).chip 0).slot 15 = Slot.reset) ∧
    (is (descBytes opGraphUnload [15]) opGraphUnload ∧ descOk (descBytes opGraphUnload [15]) [(9, 55)] = true) ∧
    (∀ st ∈ [SlotSt.loading, .waiting, .armed], (((up fun ch => ch.setSlot 15 { Slot.reset with st := st }).chip 0).slot 15).st = st) ∧
    (((up fun ch => ch.setSlot 15 { Slot.reset with st := .armed, unload := some (0, 0) }).chip 0).slot 15).unload.isSome = true ∧
    (is (descBytes opJobSubmit [0, 0, 0, 0, 0, 0, 0, 0, 192]) opJobSubmit ∧
      jobHead (newDesc 1 0 (descBytes opJobSubmit [0, 0, 0, 0, 0, 0, 0, 0, 192])) = .inr (0, 192) ∧
      jobHead (newDesc 1 0 (descBytes opJobSubmit [0, 0, 0, 0, 0, 0, 0, 0, 64])) = .inr (0, 64) ∧
      ((s (descBytes opJobSubmit [0, 0, 0, 0, 0, 0, 0, 0, 192])).chip 0).fetches = true) ∧
    (fieldAt (padTo 64 [2, 3]) 0 1 = 2 ∧ fieldAt (padTo 64 [2, 3]) 1 1 = 3 ∧ fieldAt (padTo 64 [2, 3]) 2 62 = 0) ∧
    (((up fun ch => ch.wr (F.ADP_JOB_STATE 3) 1).chip 0).adpLive 3 = true ∧ ((up id).chip 0).adpLive 3 = false ∧
      ((up id).chip 0).startOk (zeros 192) = false ∧ ((up id).chip 0).startOk startBlock = true ∧ startBlock.length = 192) := by decide +kernel


/-! ### Witnesses: ingest, decode, Mosaic, audio -/

/-- A buffer record of 64 bytes. -/
def buf0 : BufRec := ⟨0, 64, 0, 0, 0, false, 0, 0, 1000, false⟩

/-- A session of a 64 × 64 HEVC stream on engine 5, and an access unit of it on that engine. -/
def sess0 : Session := ⟨0, 64, 64, 4, 8, 1, 30, 5, 1, 0, 8192, 64, 64, (0, 0), false, false, [], [], []⟩

def au0 (scanned : Bool) : CurAu := ⟨63, 0, 64, Stamp.zero, false, false, scanned, false, false, 0⟩

/-- Kennel 63 open, with its write position at 64 and its read position at `r`. -/
def ken (r : Nat) (x : Kennel) : State := up fun ch =>
  (((ch.setKennel 63 x).setFlag (F.KEN_STAT_OPEN 63) true).wr (F.KEN_WPOS_VALUE 63) 64).wr (F.KEN_RPOS_VALUE 63) r

theorem witness_KennelOperations :
    let ch (s : State) := s.chip 0
    let s := ken 0 { Kennel.reset with mark := some (0, 64), recs := [buf0] }
    let fill : Fill := ⟨0, 0, 0, 64, 0, 64, 0, 0, false⟩
    let read := (ken 64 { Kennel.reset with fill := some fill }).modChip 0 fun ch =>
      { ch with hif := { ch.hif with reads := [⟨0, .payload 63, 0, 64, false⟩] } }
    let full := (ken 64 { Kennel.reset with waitRead := some 1 }).modChip 0 fun ch => ch.setFlag (F.KEN_STAT_FULL_LIVE 63) true
    let dec (sc : Bool) := full.modChip 0 fun ch => (ch.setSession 63 sess0).setEngine 5 (some (au0 sc))
    let freed (s : State) : Chip := (ch s).kDo 63 fun y =>
      let z := (y.setKennel 63 { (ch s).kennel 63 with mark := none }).setFlag (F.KEN_STAT_FORCE_SEEN 63) true
      z.kRelease 63 (z.kR 63)
    (Live s 0 ∧ (ch s).flag (F.KEN_STAT_OPEN 63) = true ∧ (ch s).kR 63 ≠ (ch s).kW 63 ∧ (ch s).kEos 63 = none ∧
      ((ch s).kennel 63).mark = some (0, 64)) ∧
    (Live (ken 64 Kennel.reset) 0 ∧ (ch (ken 64 Kennel.reset)).kR 63 = (ch (ken 64 Kennel.reset)).kW 63 ∧
      ((ch (ken 64 Kennel.reset)).kennel 63).mark = none) ∧ (ch (up id)).flag (F.KEN_STAT_OPEN 63) = false ∧
    (Live read 0 ∧ (ch read).hif.reads = [⟨0, .payload 63, 0, 64, false⟩] ∧ ((ch read).kennel 63).fill = some fill ∧ (ch read).halted = false) ∧
    (Live full 0 ∧ (ch full).flag (F.KEN_STAT_FULL_LIVE 63) = true ∧ ((ch full).kennel 63).waitRead ≠ none ∧ (ch full).kR 63 = (ch full).kW 63) ∧
    (freed full).session 63 = none ∧ ((freed (full.modChip 0 fun ch => ch.setSession 63 sess0)).onEngine 63 = none ∧
      (freed (full.modChip 0 fun ch => ch.setSession 63 sess0)).session 63 ≠ none) ∧
    (∀ sc : Bool, (freed (dec sc)).session 63 ≠ none ∧ (freed (dec sc)).onEngine 63 = some 5 ∧ (freed (dec sc)).engine 5 = some (au0 sc) ∧
      (au0 sc).scanned = sc) := by decide +kernel

theorem witness_SensorPorts :
    let ch (s : State) := s.chip 0
    let on := up fun ch => ((ch.setFlag (F.CSI_CTL_ENABLE 1) true).wr (F.CSI_CTL_LANES 1) 4).wr (F.RFE_CFG_DT 1 3) 0x2B
    let x : Stream := { stream0 2 with source := 7 }
    let str := on.modChip 0 fun ch => ch.setStream 5 x
    let held : HeldPic := ⟨{ Stamp.zero with stream := 5 }, [], 64, 64, 64, 1, 0, none⟩
    let full := str.modChip 0 fun ch => ch.setMos { ch.mos with held := [held, { held with buf := 1 }, { held with buf := 2 }, { held with buf := 3 }] }
    let f : CsiFrame := ⟨5, Stamp.zero, 0, [], [], false, 0, false⟩
    let f1 : CsiFrame := { f with lines := [[1]], good := [true], width := 1 }
    let f2 : CsiFrame := { f1 with lines := [[1], [1]], good := [true, true] }
    let put (g : CsiFrame) := str.modChip 0 fun ch => ch.setCsi 1 3 (some g)
    let frame (g : Bool) := str.modChip 0 fun ch => (ch.setCsi 1 3 (some { f with gone := g })).wr (F.CSI_CTL_FRAME_TO 1) 1
    (Live on 0 ∧ (ch on).locked = false ∧ (ch on).rd (F.CSI_CTL_LANES 1) = 4 ∧ (ch (up fun ch => ch.wr (F.CSI_CTL_LANES 1) 3)).rd (F.CSI_CTL_LANES 1) = 3) ∧
    ((ch on).csiOn 1 = true ∧ (ch on).csiStream 1 3 = none) ∧
    (Live str 0 ∧ (ch str).csiOn 1 = true ∧ (ch str).csiStream 1 3 = some (5, x) ∧ (ch str).csiFrame 1 3 = none ∧
      ((List.range 4).find? fun b => !(((ch str).addLive ((ch str).sofStamp 1 3 5 x)).rawHeld 5).contains b) = some 0) ∧
    ((ch full).csiStream 1 3 = some (5, x) ∧
      ((List.range 4).find? fun b => !(((ch full).addLive ((ch full).sofStamp 1 3 5 x)).rawHeld 5).contains b) = none) ∧
    (Live (frame false) 0 ∧ (ch (frame false)).csiFrame 1 3 = some f ∧ (ch (frame false)).csiStream 1 3 = some (5, x) ∧
      0x2B = (ch (frame false)).rd (F.RFE_CFG_DT 1 3) ∧ 0x2A ≠ (ch (frame false)).rd (F.RFE_CFG_DT 1 3) ∧ dtBits 0x2B ≠ 0 ∧ f.gone = false ∧
      f.lines = [] ∧ (ch (frame false)).rd (F.CSI_CTL_FRAME_TO 1) ≠ 0) ∧
    (ch (frame true)).csiFrame 1 3 = some { f with gone := true } ∧
    (∀ g ∈ [f1, f2], (ch (put g)).csiFrame 1 3 = some g ∧ (ch (put g)).csiStream 1 3 = some (5, x) ∧ g.gone = false ∧ g.lines ≠ [] ∧ g.width ≠ 0 ∧
      ((ch (put g)).setCsi 1 3 none).stream 5 = some x) ∧ f1.lines.length % 2 = 1 ∧ f2.lines.length % 2 = 0 ∧ dtBits 0x2B ≠ 0 ∧
    (Stamp.stale Stamp.zero 0 = false ∧ Stamp.stale Stamp.zero 1 = true) ∧ (ch (put f2)).now = 0 := by decide +kernel

theorem witness_DecodeEngines :
    let ch (s : State) := s.chip 0
    let s := (ken 0 { Kennel.reset with recs := [buf0] }).modChip 0 fun ch =>
      (((ch.setSession 63 sess0).setStream 0 (stream0 1)).wr (F.DEC_SESS_STAT_STATE 63) sessDecoding).store (ch.kAddr 63 0) [0, 0, 1] false
    let h : AuHead := ⟨63, 0, 64, false, 0, 0⟩
    let eng (sc : Bool) := s.modChip 0 fun ch => ch.setEngine 5 (some (au0 sc))
    let r (blocks : List Nat) (rasl : Bool) (fs : List CodecFeature) : AuResult := ⟨false, [], fs, 64, 64, 1, 0, blocks, false, [], [], false, rasl, 0, 1⟩
    let drain := (s.modChip 0 fun ch => ch.wr (F.DEC_SESS_STAT_STATE 63) sessDraining)
    let idle := s.modChip 0 fun ch => ch.setKennel 63 Kennel.reset
    let big := eng true |>.modChip 0 fun ch => ch.setEngine 5 (some { au0 true with len := ch.bankBytes + 1 })
    (Live s 0 ∧ (ch s).engine 5 = none ∧ (ch s).session 63 = some sess0 ∧ sess0.engine = 5 ∧ ((ch s).trustSkip 63).auFits 5 h = true ∧
      ((ch s).trustSkip 63).session 63 = some sess0 ∧ ((ch s).trustSkip 63).auBuf sess0 h = some (buf0, 0) ∧ sess0.engine ≠ 4) ∧
    ((ch idle).trustSkip 63).auFits 5 h = false ∧
    (Live (eng false) 0 ∧ (ch (eng false)).engine 5 = some (au0 false) ∧ (ch (eng false)).session 63 = some sess0 ∧
      ((ch (eng false)).auCheck 5 (au0 false) sess0 true []).isRight = true) ∧
    ((ch ((eng false).modChip 0 fun ch => ch.wr (F.DEC_SESS_STAT_STATE 63) sessResync)).auCheck 5 (au0 false) sess0 false []).isLeft = true ∧
    (Live (eng true) 0 ∧ (ch (eng true)).engine 5 = some (au0 true) ∧ (au0 true).len ≤ (ch (eng true)).bankBytes) ∧
    (¬ ((ch big).engine 5).any (fun a => a.len ≤ (ch big).bankBytes) = true ∧
      ((ch (big.modChip 0 fun ch => ch.wr (F.DEC_SESS_STAT_STATE 63) sessResync)).auCheck 5 (au0 true) sess0 false []).isLeft = true) ∧
    (∀ b ∈ [[], List.range 16], ∀ rasl : Bool, ∀ fs ∈ [[], [CodecFeature.hevcRange]],
      (ch (eng true)).auResultOk 63 (r b rasl fs) sess0 = true) ∧
    (([CodecFeature.hevcRange].any fun f => !featureOk f) = true) ∧
    (100 * (r [] false []).concealed.length ≤ (ch (eng true)).rd F.DEC_CFG_CONCEAL_MAX * auBlocks (r [] false [])) ∧
    ((ch (eng true)).rd F.DEC_CFG_CONCEAL_MAX * auBlocks (r (List.range 16) false []) < 100 * (r (List.range 16) false []).concealed.length) ∧
    (Live drain 0 ∧ (ch drain).stream sess0.stream = some (stream0 1) ∧ (stream0 1).live = [] ∧ sess0.awaiting = [] ∧
      (ch drain).sessState 63 = sessDraining ∧ (ch drain).onEngine 63 = none ∧ ((ch drain).kennel 63).fill = none) := by decide +kernel

theorem witness_MosaicJobs :
    let ch (s : State) := s.chip 0
    let job : MosJob := ⟨0, 0, none⟩
    let m (x : Mosaic) := up fun ch => ch.setMos x
    let run (ab : Bool) : MosRun := ⟨0, 0, [], [], false, ab⟩
    let held : HeldPic := ⟨Stamp.zero, [], 64, 64, 64, 1, 0, none⟩
    let late := (m { Mosaic.reset with held := [held] }).modChip 0 fun ch => ch.wr F.TKP_NOW_TIME 1
    let prov := pe fun k => { k with firing := some { firing0 with prov := true } }
    (Live (pe id) 0 ∧ ((ch (pe id)).core 0 0).firing = some firing0 ∧ (ch (pe id)).mustWait 0 ((ch (pe id)).core 0 0) = false) ∧
    (Live prov 0 ∧ ((ch prov).core 0 0).firing.isSome = true ∧ (ch prov).mustWait 0 ((ch prov).core 0 0) = true) ∧
    (Live (m { Mosaic.reset with recipes := [job] }) 0 ∧ (ch (m { Mosaic.reset with recipes := [job] })).mos.pickRecipe = true ∧
      (ch (m { Mosaic.reset with recipes := [job] })).mos.run = none) ∧
    ((ch (m { Mosaic.reset with codelet := [job] })).mos.pickRecipe = false ∧ (ch (m { Mosaic.reset with codelet := [job] })).mos.codelet = [job]) ∧
    (∀ ab : Bool, (ch (m { Mosaic.reset with run := some (run ab) })).mos.run = some (run ab) ∧ (run ab).release = [] ∧ (run ab).frames = []) ∧
    (((ch late).mos.held.find? fun h => h.is 0 0) = some held ∧ held.stamp.stale (ch late).now = true ∧ held.stamp.stale 0 = false) := by
  decide +kernel

theorem witness_AudioAndPorch :
    let ch (s : State) := s.chip 0
    let lane := up fun ch => (ch.setFlag (F.AUD_LANE_EN 1) true).wr F.TKP_NOW_TIME 10000000
    let pdm := up fun ch => (ch.setFlag F.AUD_PDM_EN true).wr F.TKP_NOW_TIME 10000000
    let settled := pdm.modChip 0 fun ch => ch.setAud { ch.aud with settle := 128 }
    let bs : BeamSet := ⟨0, 0, 1, 0, 64, 0, 0, 0, 0, ⟨0, 0, 0, 0, 0, 0, 0, 0, 0, 0⟩⟩
    let run (slot : Option Nat) (late : Bool) : BlockRun := ⟨0, if late then Stamp.zero else { Stamp.zero with budget := 20000 }, slot, 0⟩
    let st (cur : List BlockRun) (held : Option Stamp) : AudStream := ⟨255, 0, bs, 0, 64, [⟨0x100000000, held, false⟩], 0, 1000000, cur, [[]], false⟩
    let aud (x : AudStream) := up fun ch => ((ch.setAud { ch.aud with streams := [x] }).wr F.TKP_NOW_TIME 10000000).setStream 255 (stream0 3)
    let armed (x : AudStream) := (aud x).modChip 0 fun ch => ch.setSlot 0 { Slot.reset with st := .armed, graph := some graph2 }
    let ready (s : State) (r : BlockRun) : Bool := decide (Live s 0) && decide ((ch s).audStarts.audOf 255 = some (st [r] none)) &&
      (ch s).audStarts.blockReady (st [r] none) && (ch s).audStarts.audioOn && (ch s).audStarts.now == 10000000
    let job : FeatJob := ⟨0, 0⟩
    let fq := up fun ch => ch.setAud { ch.aud with fq := [job] }
    let prov := pe fun k => { k with firing := some { firing0 with prov := true } }
    (Live lane 0 ∧ (ch lane).audioOn = true ∧ (ch lane).flag (F.AUD_LANE_EN 1) = true ∧ instant 480 ≤ (ch lane).now ∧
      (ch lane).rd (F.AUD_LANE_LAT 1) ≤ 480) ∧ (ch (up id)).flag (F.AUD_LANE_EN 1) = false ∧
    (Live pdm 0 ∧ (ch pdm).audioOn = true ∧ (ch pdm).flag F.AUD_PDM_EN = true ∧ instant 256 + 500000 ≤ (ch pdm).now ∧
      (ch pdm).rd F.AUD_PDM_LAT ≤ 256 ∧ (ch pdm).aud.settle < 128 ∧ 128 ≤ (ch settled).aud.settle ∧ (ch settled).flag F.AUD_PDM_EN = true) ∧
    ((ch (up id)).audStarts.audOf 255 = none) ∧ ready (aud (st [run none true] none)) (run none true) = true ∧
    (∀ late : Bool, ready (aud (st [run (some 0) late] none)) (run (some 0) late) = true ∧ ready (armed (st [run (some 0) late] none)) (run (some 0) late) = true ∧
      (run (some 0) late).stamp.stale 10000000 = late) ∧
    (((ch (aud (st [] none))).slot 0).st ≠ .armed ∧ ((ch (armed (st [] none))).slot 0).st = .armed ∧
      ((ch (aud (st [] none))).audStarts.stream 255).isSome = true) ∧
    ((ch (aud (st [] (some Stamp.zero)))).audOf 255 = some (st [] (some Stamp.zero)) ∧
      (st [] (some Stamp.zero)).slots[0]? = some ⟨0x100000000, some Stamp.zero, false⟩ ∧ Stamp.zero.stale (ch (aud (st [] (some Stamp.zero)))).now = true) ∧
    (Live (pe id) 0 ∧ ((ch (pe id)).core 0 0).firing = some firing0 ∧ (ch (pe id)).mustWait 0 ((ch (pe id)).core 0 0) = false) ∧
    (Live prov 0 ∧ ((ch prov).core 0 0).firing.isSome = true ∧ (ch prov).mustWait 0 ((ch prov).core 0 0) = true) ∧
    (Live fq 0 ∧ (ch fq).aud.frun = none ∧ (ch fq).audioOn = true ∧ ((ch fq).aud.streams.any fun x => (ch fq).blockReady x) = false ∧ (ch fq).aud.fq = [job]) ∧
    ((ch (up fun ch => ch.setAud { ch.aud with frun := some (0, 0) })).aud.frun = some (0, 0)) := by decide +kernel

/-- The Porch off, idle, refractory and listening, with thresholds below and above every score; a handover with HAND_EN 0, and with 1 for a
slot that is armed or waits, with a pool of no room and one of room everywhere. -/
theorem witness_Porch :
    let ch (s : State) := s.chip 0
    let porch (v pre wake : Nat) := up fun ch => { (ch.wr F.PRC_STAT_STATE v).wr F.TKP_NOW_TIME 2000000 with
      regs := (F.PRC_TH_PRE_TH.key, pre) :: (F.PRC_TH_WAKE_TH.key, wake) :: ((ch.wr F.PRC_STAT_STATE v).wr F.TKP_NOW_TIME 2000000).regs }
    let hand (en : Bool) (st : SlotSt) (pool : Nat) := up fun ch => (((ch.setPorch { ch.media.porch with handover := [⟨0, false, 0, 0, 0⟩] }).setFlag
      F.PRC_HAND_HAND_EN en).setSlot (ch.rd F.PRC_HAND_SLOT) { Slot.reset with st := st }).wr F.AUD_CFG_POOL pool
    ((ch (porch prcOff 0 0)).rd F.PRC_STAT_STATE = prcOff ∧ (ch (porch prcIdle 0 0)).rd F.PRC_STAT_STATE = prcIdle ∧ (ch (porch 1 0 0)).pos = 0 ∧
      62500 * 0 + 2000000 ≤ (ch (porch 1 0 0)).now ∧ (ch (porch 1 0 0)).media.porch.ring = [] ∧ Live (porch 1 0 0) 0) ∧
    ((ch (porch prcRefract 0 0)).rd F.PRC_STAT_STATE = prcRefract ∧ (ch (porch prcRefract 0 0)).media.porch.refract ≤ 1 ∧
      1 < (ch ((porch prcRefract 0 0).modChip 0 fun ch => ch.setPorch { ch.media.porch with refract := 2 })).media.porch.refract) ∧
    (prcIdle ≠ prcRefract ∧ 2 ≠ prcIdle ∧ 2 ≠ prcRefract ∧ 2 ≠ prcOff ∧ (ch (porch 2 0 0)).rd F.PRC_STAT_STATE = 2) ∧
    ((ch (porch 2 65536 65536)).rd F.PRC_TH_PRE_TH = 65536 ∧ (ch (porch 2 0 65536)).rd F.PRC_TH_PRE_TH = 0 ∧
      (ch (porch 2 0 65536)).rd F.PRC_TH_WAKE_TH = 65536 ∧ (ch (porch 2 0 0)).rd F.PRC_TH_WAKE_TH = 0) ∧
    ((ch (porch 2 0 0)).rd F.PRC_WAKE_WAKE_N ≠ 0 ∧ (ch ((porch 2 0 0).modChip 0 fun ch => ch.wr F.PRC_WAKE_WAKE_N 0)).rd F.PRC_WAKE_WAKE_N = 0 ∧
      (ch ((porch 2 0 0).modChip 0 fun ch => ch.wr F.PRC_WAKE_WAKE_N 1)).rd F.PRC_WAKE_WAKE_N = 1) ∧
    (∀ en : Bool, ∀ st ∈ [SlotSt.empty, .waiting, .armed], Live (hand en st 0) 0 ∧ (ch (hand en st 0)).media.porch.handover = [⟨0, false, 0, 0, 0⟩] ∧
      (ch (hand en st 0)).pwr = pwrRun ∧ (ch (hand en st 0)).flag F.PRC_HAND_HAND_EN = en ∧
      ((ch (hand en st 0)).slot ((ch (hand en st 0)).rd F.PRC_HAND_SLOT)).st = st) ∧
    ((ch (hand true .armed 0)).rd F.AUD_CFG_POOL = 0 ∧ (ch (hand true .armed 1)).rd F.AUD_CFG_POOL = 1) := by decide +kernel

/-- A handover finds no room in a pool of 0 MiB, and some in an empty pool of 1 MiB, whatever place is taken. -/
theorem witness_Porch_places (c : Chip) (free : Nat) :
    (c.rd F.AUD_CFG_POOL = 0 → c.handPlace free = none) ∧
    (c.rd F.AUD_CFG_POOL = 1 → c.aud.streams = [] → (c.handPlace free).isSome = true) := by
  constructor
  · intro h
    simp [Chip.handPlace, chooseFit, h]
  · intro h g
    simp only [Chip.handPlace, chooseFit, h, g, MiB, List.map_nil, List.all_nil, Option.isSome_map]
    rw [List.filter_eq_self.2 (by simp)]
    simp
    omega

/-! ### Witnesses: Inn, Annex, graphs, Guestbook -/

/-- A graph of one node with two strict ports, at home in pack 0 of chip 0. -/
def graph1 : Graph := { graph2 with nodes := [⟨0, 1, 2, 2, [0, 0], [], 0⟩], place := [⟨0, 0, 1, false⟩] }

/-- A chip with `graph1` ARMED in slot 0 as the owner of context 0. -/
def withGraph1 (ch : Chip) : Chip :=
  ((ch.setSlot 0 { Slot.reset with st := .armed, graph := some graph1 }).setFlag (F.DFX_CTX_MAP_VALID 0) true).wr (F.INN_QUOTA_QUOTA 0 0) 10

/-- Chip 0 runs with `graph1`, and the Inn of pack `p` changed by `f`. -/
def innS (p : Nat) (f : Inn → Inn) : State := up fun ch => let y := withGraph1 ch; y.setInn p (f (y.inn p))

/-- A token of value 5 for port 0 of node `n`, context 0, iteration 0. -/
def tok (n : Nat) : BitVec 128 := mkToken 5 n 0 0 0 0

theorem witness_InnCommands :
    let ch (s : State) := s.chip 0
    let x (t : BitVec 128) : InnIn := ⟨0, 0, t, 0⟩
    let inp (p : Nat) (t : BitVec 128) := innS p fun i => { i with inputs := [x t] }
    let arb (s : State) (p : Nat) (t : BitVec 128) : Bool := ((ch s).inn p).arbitrate = some (x t, { (ch s).inn p with inputs := [], rr := 1 })
    let orphan := up fun ch => ch.setInn 0 { ch.inn 0 with inputs := [x (tok 0)] }
    let bad := (tok 0) ^^^ 3
    let v := mkToken 1 0 0 0 0 32
    let room (r : Bool) : Room := ⟨tok 0, 1, r, 0⟩
    let s3 := innS 0 fun i => { i with rooms := [room true] }
    (Live (up id) 0 ∧ ((ch (up id)).inn 11).arbitrate = none) ∧
    (Live orphan 0 ∧ arb orphan 0 (tok 0) = true ∧ checkToken (tok 0) = .clean (tok 0) ∧ (ch orphan).ctxSlot (Token.context (tok 0)) = none) ∧
    (Live (inp 0 (tok 1)) 0 ∧ arb (inp 0 (tok 1)) 0 (tok 1) = true ∧ checkToken (tok 1) = .clean (tok 1) ∧
      (ch (inp 0 (tok 1))).ctxSlot 0 = some 0 ∧ (ch (inp 0 (tok 1))).nodeOf 0 (Token.node (tok 1)) = none) ∧
    (arb (inp 1 (tok 0)) 1 (tok 0) = true ∧ (ch (inp 1 (tok 0))).nodeOf 0 0 = some ⟨0, 1, 2, 2, [0, 0], [], 0⟩ ∧ (ch (inp 1 (tok 0))).homeHere 0 0 1 = false) ∧
    (arb (inp 0 (tok 0)) 0 (tok 0) = true ∧ (ch (inp 0 (tok 0))).homeHere 0 0 0 = true ∧ Token.kill (tok 0) = false ∧ Token.port (tok 0) < 2 ∧
      Token.sticky (tok 0) = ((NodeDesc.mk 0 1 2 2 [0, 0] [] 0).pkind 0 == pkSticky) ∧ ((ch (inp 0 (tok 0))).inn 0).verdictFor (tok 0) = none ∧
      Token.provisional (tok 0) = false) ∧
    (arb (inp 0 bad) 0 bad = true ∧ checkToken bad = .uncorrectable) ∧
    pickFirst (fun y => Token.kill y.tok) ((ch (inp 0 v)).inn 0).inputs = some (x v, []) ∧
    (∀ y ∈ ((ch (inp 0 (tok 0))).inn 0).inputs, Token.kill y.tok = false) ∧
    (∀ r ∈ ((ch (innS 0 fun i => { i with rooms := [room false] })).inn 0).rooms, r.reserve = false) ∧
    (((ch s3).inn 0).rooms = [room true] ∧ (ch s3).ctxSlot (Token.context (tok 0)) = some 0 ∧ (ch s3).canLodge 0 0 (tok 0) = true) ∧
    ((ch (innS 11 fun i => { i with notices := [(0, 0, 0)] })).inn 11).notices = [(0, 0, 0)] := by decide +kernel

theorem witness_AnnexAndDetector :
    let ch (s : State) := s.chip 0
    let line (ts : List (BitVec 128)) : AnxLine := ⟨0, 0, ts.map fun t => ⟨t, 1, 0⟩⟩
    let pair := [tok 0, mkToken 5 0 1 0 0 0]
    let grp (n : Nat) := innS 0 fun i => { i with annex := [line pair], rooms := List.replicate n ⟨tok 0, 1, true, 0⟩ }
    let d : NodeDesc := ⟨0, 1, 2, 2, [0, 0], [], 0⟩
    let grpOf (s : State) (p : Nat) := (ch s).nextGroup p none fun d g => !(((ch s).inn p).recallable d g).isEmpty
    let back := (grp 0).modChip 0 fun ch => ch.wr F.ANX_RECALL_LEVEL 1
    let dead := (grp 0).modChip 0 fun ch => ch.wr F.TKP_NOW_TIME 50000
    let vd (a : Bool) (t : Nat) := (innS 11 fun i => { i with verdicts := [⟨0, 0, 0, true, 0, a⟩] }).modChip 0 fun ch => ch.wr F.TKP_NOW_TIME t
    let h := (ch (up id)).rd F.DFX_SPEC_CTL_HOLD * 1000
    let doze := up fun ch => ch.wr F.PWR_STATE_STATE pwrEntering
    let ab (q ms : Nat) := innS 0 id |>.modChip 0 fun ch => (ch.setSlot 0 { ch.slot 0 with quiet := q }).wr F.DFX_DL_CTL_ABORT_MS ms
    (Live (up id) 0 ∧ grpOf (up id) 11 = none) ∧
    (∀ n ∈ [0, 255], Live (grp n) 0 ∧ grpOf (grp n) 0 = some (d, (0, 0, 0))) ∧ grpOf (grp 256) 0 = none ∧
    (Live back 0 ∧ (ch back).rd (F.INN_LEVEL_MAIN 0) < (ch back).rd F.ANX_RECALL_LEVEL ∧ (ch back).backTok 0 = some (tok 0, 1)) ∧
    (ch ((grp 0).modChip 0 fun ch => ch.wr F.ANX_RECALL_LEVEL 0)).rd F.ANX_RECALL_LEVEL ≤ (ch (grp 0)).rd (F.INN_LEVEL_MAIN 0) ∧
    (Live dead 0 ∧ (ch dead).blockedWork 0 = true ∧ ((ch dead).slot 0).lastFiring + 50000 ≤ (ch dead).now) ∧
    ((ch (grp 0)).now < ((ch (grp 0)).slot 0).lastFiring + 50000 ∧ (ch (up id)).armed 15 = false) ∧
    (∀ ms ∈ [0, 1], (ch ((up id).modChip 0 fun ch => ch.wr F.DFX_DL_CTL_LINGER_MS ms)).rd F.DFX_DL_CTL_LINGER_MS = ms) ∧ (ch (up id)).backTok 11 = none ∧
    (∀ a : Bool, ((ch (vd a h)).inn 11).verdicts = [⟨0, 0, 0, true, 0, a⟩] ∧ 0 + (ch (vd a h)).rd F.DFX_SPEC_CTL_HOLD * 1000 ≤ (ch (vd a h)).now) ∧
    (0 < h ∧ (ch (vd true (h - 1))).now < 0 + (ch (vd true (h - 1))).rd F.DFX_SPEC_CTL_HOLD * 1000) ∧
    ((ch (up id)).pwr ≠ pwrEntering ∧ Live doze 0 ∧ (ch doze).pwr = pwrEntering) ∧ (∀ n < 16, (ch (up id)).armed n = false) ∧
    (Live (ab 100 1) 0 ∧ (ch (ab 100 1)).rd F.DFX_DL_CTL_ABORT_MS = 1 ∧ 1 * 100 ≤ ((ch (ab 100 1)).slot 0).quiet ∧ (ch (ab 100 1)).armed 0 = true) ∧
    ((ch (ab 100 0)).rd F.DFX_DL_CTL_ABORT_MS = 0 ∧ ((ch (ab 99 1)).slot 0).quiet < (ch (ab 99 1)).rd F.DFX_DL_CTL_ABORT_MS * 100) := by
  refine ⟨?_, ?_, ?_, ?_, ?_, ?_, ?_, ?_, ?_, ?_, ?_, ?_, ?_, ?_, ?_⟩ <;> decide +kernel

/-- A graph image of one node that is at home on chip 1: header, code, node table, placement table. -/
def image1 : List Byte :=
  let body := toLe 4 0x52474C4F ++ toLe 2 1 ++ toLe 2 3 ++ toLe 2 1 ++ toLe 2 0 ++ toLe 2 1 ++ toLe 2 0 ++ toLe 4 64 ++ toLe 4 64 ++ toLe 4 192 ++
    toLe 4 128 ++ toLe 4 128 ++ toLe 4 0 ++ toLe 4 128 ++ toLe 4 128 ++ toLe 4 0 ++ toLe 4 128 ++ toLe 4 0 ++ toLe 4 128
  let nodes := padTo 64 (toLe 4 0 ++ toLe 1 1 ++ toLe 1 1 ++ toLe 2 1 ++ zeros 8 ++ toLe 4 0xFFFFFFFF)
  let img := padTo 128 body ++ nodes ++ toLe 4 0x101
  patch img 124 (toLe 4 (crc32c img))

theorem witness_GraphSlots :
    let ch (s : State) := s.chip 0
    let rd := up fun ch =>
      { ch.setSlot 15 { Slot.reset with st := .loading, load := some (0, 0) } with hif := { ch.hif with reads := [⟨0, .image 15, 0, 64, false⟩] } }
    let z (d : List Byte) := (((ch rd).takeRead (.image 15)).getD (ch rd)).readAer ⟨.none, false, d⟩
    let ab (u : Option (Nat × Nat)) := up fun ch => ch.setSlot 15 { Slot.reset with st := .aborting, unload := u }
    let lk := up fun ch => ch.wr (F.TRL_STAT_STATE 1) trlUp
    let m (code : Nat) := padTo 56 (toLe 1 code ++ toLe 1 15)
    (Awake rd 0 ∧ ((ch rd).takeRead (.image 15)).isSome = true ∧ ((ch rd).slot 15).load = some (0, 0)) ∧
    ((z []).checkImage []).isLeft = true ∧ headerOk [] = false ∧ ((z image1).checkImage image1).isRight = true ∧
    ((ch (up id)).slot 15).st ≠ .aborting ∧
    (∀ u ∈ [none, some (0, 0)], Awake (ab u) 0 ∧ ((ch (ab u)).slot 15).st = .aborting ∧ ((ch (ab u)).slot 15).unload = u ∧
      ∀ p < 12, (ch (ab u)).flag (F.TEN_STAT_HELD p) = false) ∧
    (Awake lk 0 ∧ ∀ code ∈ [1, 2, 3], ((ch lk).arrive 1 (newHdr 0 false) (m code) 3 3).1 = some (m code) ∧ fieldAt (m code) 0 1 = code ∧
      fieldAt (m code) 1 1 = 15) ∧
    (∀ n < 16, ((((ch lk).arrive 1 (newHdr 0 false) (m 3) 3 3).2).slot n).st ≠ .armed) ∧
    ((ch (up id)).arrive 1 (newHdr 0 false) (m 1) 3 3).1 = none := by
  refine ⟨?_, ?_, ?_, ?_, ?_, ?_, ?_, ?_, ?_⟩ <;> decide +kernel

theorem witness_GuestbookCommands :
    let ch (s : State) := s.chip 0
    let prov := pe fun k => { k with firing := some { firing0 with prov := true } }
    let sub : Submission := ⟨255, false, 0, 0, Stamp.zero, false, 0, [], none⟩
    let fl (m t : Nat) := up fun ch => ((ch.wr (F.GBK_FLOW_MODE 255) m).wr F.TKP_NOW_TIME t).setFlow 255 { Flow.reset with held := [sub] }
    let bad := up fun ch => ch.setFlow 255 { Flow.reset with headSet := false }
    let he (store ms t : Nat) := up fun ch => (((ch.setFlag F.GBK_SYSFLOW_HEALTH_EN true).wr F.GBK_TCFG_HEALTH_MS ms).wr F.GBK_CFG_STORE store).wr
      F.TKP_NOW_TIME t
    (Live (pe id) 0 ∧ ((ch (pe id)).core 0 0).firing = some firing0 ∧ (ch (pe id)).mustWait 0 ((ch (pe id)).core 0 0) = false ∧ (ch (pe id)).inShared dramBase 128 = true ∧
      dramBase % 64 = 0 ∧ (ch (pe id)).inShared (2 ^ 48 - 1) 128 = false ∧ (ch (pe id)).inShared (dramBase + 4) 128 = true ∧ (dramBase + 4) % 64 ≠ 0) ∧
    (Live prov 0 ∧ ((ch prov).core 0 0).firing = some { firing0 with prov := true } ∧ (ch prov).mustWait 0 ((ch prov).core 0 0) = true ∧ ((ch (up id)).core 11 15).firing = none) ∧
    (Live (fl 1 0) 0 ∧ (ch (fl 1 0)).flowMode 255 ≠ modePass ∧ ((ch (fl 1 0)).flow 255).headSet = true ∧ (ch (fl 1 0)).headDue 255 = true ∧
      (ch (up id)).flowMode 255 = modePass ∧ ((ch bad).flow 255).headSet = false ∧ (ch (up id)).headDue 255 = false) ∧
    (Live (he 1 1 1000000) 0 ∧ (ch (he 1 1 1000000)).flag F.GBK_SYSFLOW_HEALTH_EN = true ∧ (ch (he 1 1 1000000)).rd F.GBK_TCFG_HEALTH_MS = 1 ∧
      (ch (he 1 1 1000000)).pwr = pwrRun ∧ (ch (he 1 1 1000000)).now % (1 * 1000000) = 0 ∧ (ch (he 1 1 1000000)).healthBlocked 0 = false) ∧
    ((ch (he 0 1 1000000)).healthBlocked 0 = true ∧ (ch (he 1 0 0)).rd F.GBK_TCFG_HEALTH_MS = 0 ∧
      (ch ((up id).modChip 0 fun ch => ch.wr F.PWR_STATE_STATE 1)).pwr ≠ pwrRun ∧ (ch (he 1 1 999999)).now % (1 * 1000000) ≠ 0) := by
  refine ⟨?_, ?_, ?_, ?_, ?_⟩ <;> decide +kernel

/-! ### Witnesses: tensor engines, work queues, DMA, Adapt -/

/-- A block of 128 bytes with `xs` = (offset, length, value). -/
def blk (xs : List (Nat × Nat × Nat)) : List Byte := xs.foldl (fun b x => patch b x.1 (toLe x.2.1 x.2.2)) (zeros 128)

/-- Chip 0 runs with `graph1`; the slot of the head of queue `b` names block `x` at the start of the DRAM. -/
def queued (b : QueueBlock) (x : List Byte) : State := up fun ch =>
  let y := ((withGraph1 ch).setFlag (queueRegs b).en true).wr F.COA_STAT_ROLE roleActive
  (y.store (crBase + 64) (toLe 8 dramBase) false).store dramBase x false

theorem witness_TensorCommands :
    let ch (s : State) := s.chip 0
    let cmd (a : Nat) (t : Bool) : TenCmd := ⟨a, 0, t⟩
    let s (a : Nat) (t : Bool) (b : List Byte) := up fun ch =>
      ((withGraph1 ch).setTen 11 { TenEng.reset with queue := [cmd a t] }).store dramBase b false
    let mat := [(0, 1, topMatmul), (1, 1, 2), (2, 1, 1), (3, 1, 1)]
    let good := blk (mat ++ [(8, 4, 1), (12, 4, 1), (16, 4, 1)])
    let far := blk (mat ++ [(8, 4, 1), (12, 4, 1), (16, 4, 1), (48, 8, 2 ^ 48 - 1)])
    let addrs (x : List Byte) := ((ch (s dramBase true x)).setTen 11 TenEng.reset).tenSync 11 |>.tenAddrs graph1 11 (TenBlk.ofBytes x)
    let take (a : Nat) (t : Bool) (x : List Byte) : Bool := ((ch (s a t x)).ten 11).queue = [cmd a t] && ((ch (s a t x)).ten 11).run = none &&
      !(ch (s a t x)).flag (F.TEN_STAT_FROZEN_LIVE 11) && ((ch (s a t x)).bytes dramBase 128 = x)
    let fits (x : List Byte) (f sh : Bool) : Bool := tenFormatOk x (TenBlk.ofBytes x) = f && tenShapeOk (TenBlk.ofBytes x) = sh && fieldAt x 114 2 = 0
    let running (n : Nat) : TenRun := ⟨0, good, ⟨0, 0, 0, 0, 0, 0⟩, n, false, [], [], 0, []⟩
    let runs (n : Nat) (fz : Bool) := up fun ch => (ch.setTen 11 { TenEng.reset with run := some (running n) }).setFlag (F.TEN_DBG_CTL_FREEZE 11) fz
    let run := runs 100
    let prov := pe fun k => { k with firing := some { firing0 with prov := true } }
    let dev := up fun ch => ch.wr F.LCS_STATE_STATE 1
    (Live (pe id) 0 ∧ ((ch (pe id)).core 0 0).firing = some firing0 ∧ (ch (pe id)).mustWait 0 ((ch (pe id)).core 0 0) = false ∧
      Live prov 0 ∧ ((ch prov).core 0 0).firing.isSome = true ∧ (ch prov).mustWait 0 ((ch prov).core 0 0) = true ∧ ((ch (up id)).core 11 15).firing = none) ∧
    (((ch (up id)).ten 11).queue = [] ∧ ((ch (run true)).ten 11).run.isSome = true ∧ fieldAt (running 0).blk 0 1 = topMatmul ∧
      (ch (up fun ch => ch.setFlag (F.TEN_STAT_FROZEN_LIVE 11) true)).flag (F.TEN_STAT_FROZEN_LIVE 11) = true) ∧
    (take 1 true good = true ∧ (ch (s 1 true good)).tenBlkAt 11 1 = none ∧ Live (s 1 true good) 0) ∧
    (take dramBase true good = true ∧ (ch (s dramBase true good)).tenBlkAt 11 dramBase = some dramBase ∧ fieldAt good 0 1 = topMatmul ∧ topMatmul ≠ topConv ∧
      topMatmul ≠ topDwconv ∧ fieldAt (blk [(0, 1, topConv)]) 0 1 = topConv ∧ fieldAt (blk [(0, 1, topDwconv)]) 0 1 = topDwconv ∧
      fieldAt (blk [(0, 1, topPool)]) 0 1 = topPool ∧ ((ch (s dramBase true good)).slot 0).graph = some graph1) ∧
    (fieldAt (blk (mat ++ [(114, 2, 4)])) 114 2 % 1024 = graph1.ctxBase + graph1.ctxCount ∧ graph1.ctxBase = 0 ∧ graph1.ctxCount = 4) ∧
    (take dramBase false good = true) ∧
    (fits (blk (mat ++ [(7, 1, 1)])) false false = true ∧ take dramBase true (blk (mat ++ [(7, 1, 1)])) = true) ∧
    (fits (blk mat) true false = true ∧ take dramBase true (blk mat) = true) ∧
    (fits far true true = true ∧ take dramBase true far = true ∧ addrs far = none) ∧
    (fits good true true = true ∧ (addrs good).isSome = true) ∧
    (((ch (up id)).ten 11).run = none ∧ ∀ fz : Bool, Live (run fz) 0 ∧ ((ch (run fz)).ten 11).run = some (running 100) ∧
      (running 100).drained = true ∧ (running 0).drained = false ∧ (ch (run fz)).flag (F.TEN_STAT_FROZEN_LIVE 11) = false ∧
      (ch (run fz)).flag (F.TEN_DBG_CTL_FREEZE 11) = fz) ∧
    ((ch (up fun ch => ch.wr F.LCS_STATE_STATE 0)).develop = false ∧ (ch dev).develop = true ∧ ((ch dev).ten 11).run = none) ∧
    (let z := dev.modChip 0 fun ch => ch.setFlag (F.TEN_STAT_FROZEN_LIVE 11) true
     (ch z).flag (F.TEN_STAT_FROZEN_LIVE 11) = true ∧ (ch z).develop = true ∧ (ch z).flag (F.TEN_DBG_CTL_SET 11) = false ∧
       ((ch z).ten 11).float = false ∧ (ch (z.modChip 0 fun ch => ch.setFlag (F.TEN_DBG_CTL_SET 11) true)).flag (F.TEN_DBG_CTL_SET 11) = true) := by
  refine ⟨?_, ?_, ?_, ?_, ?_, ?_, ?_, ?_, ?_, ?_, ?_, ?_, ?_⟩ <;> decide +kernel

theorem witness_QueueJobs :
    let ch (s : State) := s.chip 0
    let took (b : QueueBlock) (x : List Byte) : Bool := ((ch (queued b x)).takeJob b).1 = some ⟨dramBase, x, false, 0⟩ && decide (Live (queued b x) 0)
    let head (b : QueueBlock) (x : List Byte) (jop : Nat) : Bool := let c := ch (queued b x)
      c.load (c.qSlot b (c.qHead b)) 8 = dramBase && c.inShared dramBase 128 && c.load dramBase 1 = jop && fieldAt x 0 1 = jop
    let fields := [(0, 1, 1), (1, 1, 1), (2, 1, 2), (6, 2, 1), (8, 4, 1), (12, 4, 4)]
    let good := blk (fields ++ [(56, 8, dramBase + 0x1000), (64, 8, dramBase + 0x2000), (80, 8, dramBase + 0x3000)])
    let skip := up fun ch => ((ch.setFlag F.HND_Q_BASE_EN true).wr F.HND_CTL_SKIP_US 1).store (crBase + 64 + 8 * 63) (toLe 8 1) false
    let siv := up fun ch => { ch with siv := some ⟨0, tok 0⟩ }
    let hnd := up fun ch => { ch with hnd := { ch.hnd with run := some ⟨0, [tok 0]⟩ } }
    let gen : OccGen := ⟨1, 0, [], false, none⟩
    let coa (r : Option CoaRun) (t : Nat) := up fun ch => { ch.wr F.TKP_NOW_TIME t with coa := { ch.coa with run := r, gens := [gen] } }
    ((ch skip).qEnabled .hound = true ∧ 0 < (ch skip).rd F.HND_CTL_SKIP_US ∧ (ch skip).load ((ch skip).qSlot .hound ((ch skip).qHead .hound)) 8 = 0 ∧
      (ch skip).qOtherFull .hound = true ∧ Live skip 0) ∧
    ((ch (up id)).qEnabled .hound = false ∧ (ch (up id)).qOtherFull .hound = false ∧ (ch hnd).qBusy .hound = true) ∧
    (took .sieve (blk []) = true ∧ sivFieldsOk (blk []) = false) ∧
    (took .sieve (blk fields) = true ∧ sivFieldsOk (blk fields) = true ∧ ((ch (queued .sieve (blk fields))).takeJob .sieve).2.sivAddrOk (blk fields) = false) ∧
    (took .sieve good = true ∧ sivFieldsOk good = true ∧ ((ch (queued .sieve good)).takeJob .sieve).2.sivAddrOk good = true ∧ fieldAt good 1 1 ≠ 4) ∧
    (∀ jop ∈ [2, 3, 4], took .hound (blk [(0, 1, jop)]) = true ∧ head .hound (blk [(0, 1, jop)]) jop = true) ∧
    (∀ jop ∈ [1, 2, 3], took .coachman (blk [(0, 1, jop)]) = true ∧ head .coachman (blk [(0, 1, jop)]) jop = true) ∧
    (Live siv 0 ∧ (ch siv).siv = some ⟨0, tok 0⟩ ∧ (ch (up id)).siv = none) ∧
    (Live hnd 0 ∧ (ch hnd).hnd.run = some ⟨0, [tok 0]⟩ ∧ (ch (up id)).hnd.run = none) ∧
    (let r : CoaRun := ⟨tok 0, 0, blk []⟩
     Live (coa (some r) 0) 0 ∧ (ch (coa (some r) 0)).coa.run = some r ∧ (ch (coa (some r) 0)).coa.gens = [gen] ∧ (ch (up id)).coa.run = none) ∧
    ((ch (coa none 200000001)).coa.gens = [gen] ∧ 0 + 200000000 < (ch (coa none 200000001)).now ∧ (ch (coa none 200000000)).now ≤ 0 + 200000000) := by
  refine ⟨?_, ?_, ?_, ?_, ?_, ?_, ?_, ?_, ?_, ?_, ?_⟩ <;> decide +kernel

/-- FORM 4 with a level table for its one row, and with one for no row; a slot that names no address; each block with its queue off. -/
theorem witness_QueueJobs_taken :
    let ch (s : State) := s.chip 0
    let table (w : Nat) := padTo 64 (toLe 2 w ++ toLe 2 1 ++ toLe 4 1 ++ zeros 32 ++ toLe 1 1)
    let b := blk [(0, 1, 1), (1, 1, 4), (2, 1, 2), (6, 2, 1), (8, 4, 1), (12, 4, 8), (56, 8, dramBase + 0x1000), (64, 8, dramBase + 0x2000),
      (72, 8, dramBase + 0x4000), (80, 8, dramBase + 0x3000)]
    let s (w : Nat) := (queued .sieve b).modChip 0 fun ch => ch.store (dramBase + 0x4000) (table w) false
    let y (w : Nat) := ((ch (s w)).takeJob .sieve).2
    let none' (q : QueueBlock) := (queued q (blk [])).modChip 0 fun ch => ch.store (crBase + 64) (toLe 8 4) false
    (∀ w ∈ [0, 1], ((ch (s w)).takeJob .sieve).1 = some ⟨dramBase, b, false, 0⟩ ∧ sivFieldsOk b = true ∧ (y w).sivAddrOk b = true ∧
      fieldAt b 1 1 = 4 ∧ levelsOk ((y w).bytes (sivTable b) 64) (fieldAt b 8 4) = (w == 1)) ∧
    (∀ q ∈ [QueueBlock.sieve, .hound, .coachman, .dma], ((ch (none' q)).takeJob q).1 = none ∧ (ch (none' q)).qEnabled q = true ∧
      (ch (up id)).qEnabled q = false) := by decide +kernel

theorem witness_DmaAndAdapt :
    let ch (s : State) := s.chip 0
    let run (j n : Nat) (r : List DmaReq) : DmaRun := ⟨0, blk [(0, 1, j), (4, 4, 64)], 0, false, n, r⟩
    let dma (d : DmaRun) := up fun ch => ch.setTrail fun t => { t with dma := some d }
    let took (x : List Byte) (jop : Nat) : Bool := ((ch (queued .dma x)).takeJob .dma).1 = some ⟨dramBase, x, false, 0⟩ &&
      (ch (queued .dma x)).trail.dma = none && (ch (queued .dma x)).dmaHeadJop = jop && ((ch (queued .dma x)).takeJob .dma).2.pos = (ch (queued .dma x)).pos
    let y (x : List Byte) := ((ch (queued .dma x)).takeJob .dma).2
    let fit (x : List Byte) : Bool := (y x).dmaDescOk (fieldAt x 8 8) (fieldAt x 4 4) && (y x).dmaDescOk (fieldAt x 16 8) (fieldAt x 4 4)
    let copy (len dst : Nat) := blk [(0, 1, 1), (4, 4, len), (8, 8, 0), (16, 8, dst)]
    let atom (lop target res : Nat) := blk [(0, 1, 2), (1, 1, lop), (16, 8, target), (48, 8, res)]
    (Live (dma (run 1 64 [])) 0 ∧ (ch (dma (run 1 64 []))).trail.dma = some (run 1 64 []) ∧ (ch (up id)).trail.dma = none ∧ (ch (up id)).dmaHeadJop ≠ 2) ∧
    (took (blk [(0, 1, 1), (2, 2, 1)]) 1 = true ∧ dmaFieldsOk (blk [(0, 1, 1), (2, 2, 1)]) = false) ∧
    (took (copy (maxCopy + 1) 0) 1 = true ∧ maxCopy < fieldAt (copy (maxCopy + 1) 0) 4 4) ∧
    (took (copy 0 0) 1 = true ∧ dmaFieldsOk (copy 0 0) = true ∧ fieldAt (copy 0 0) 4 4 = 0) ∧
    (took (copy maxCopy (2 ^ 48 - 1)) 1 = true ∧ dmaFieldsOk (copy maxCopy (2 ^ 48 - 1)) = true ∧ fieldAt (copy maxCopy (2 ^ 48 - 1)) 4 4 = maxCopy ∧
      fit (copy maxCopy (2 ^ 48 - 1)) = false) ∧
    (took (copy 1 64) 1 = true ∧ dmaFieldsOk (copy 1 64) = true ∧ fit (copy 1 64) = true ∧ descChip 0 = (ch (up id)).pos.val) ∧
    (took (atom 9 0 dramBase) 2 = true ∧ fieldAt (atom 9 0 dramBase) 1 1 = 9) ∧
    (took (atom 8 4 dramBase) 2 = true ∧ dmaFieldsOk (atom 8 4 dramBase) = true ∧ fieldAt (atom 8 4 dramBase) 16 8 % 8 ≠ 0) ∧
    (took (atom 8 8 (dramBase + 8)) 2 = true ∧ dmaFieldsOk (atom 8 8 (dramBase + 8)) = true ∧ (y (atom 8 8 (dramBase + 8))).dmaDescOk 8 8 = true ∧
      (y (atom 8 8 (dramBase + 8))).inShared (dramBase + 8) 8 = true ∧ (dramBase + 8) % 8 = 0 ∧
      (((y (atom 8 8 (dramBase + 8))).dmaStart ⟨dramBase, atom 8 8 (dramBase + 8), false, 0⟩).descAddr none 8 8).isSome = true) ∧
    (Live (dma (run 2 0 [])) 0 ∧ fieldAt (run 2 0 []).blk 0 1 = 2 ∧ fieldAt (run 1 64 []).blk 4 4 ≤ (run 1 64 []).next ∧ (run 1 0 [⟨0, 1, 0, 8⟩]).reqs ≠ []) := by
  refine ⟨?_, ?_, ?_, ?_, ?_, ?_, ?_, ?_, ?_, ?_⟩ <;> decide +kernel

/-- An ATOMIC on chip 1 with the way there open and closed; a job of an unknown operation; the queue empty. -/
theorem witness_DmaAndAdapt_far :
    let ch (s : State) := s.chip 0
    let x := blk [(0, 1, 2), (1, 1, 8), (16, 8, 2 ^ 50), (48, 8, dramBase + 8)]
    let s (on : Bool) := (queued .dma x).modChip 0 fun ch => ch.wr F.TRL_RING_UP (if on then 15 else 0)
    let y (on : Bool) := ((ch (s on)).takeJob .dma).2
    let z (on : Bool) := (y on).dmaStart ⟨dramBase, x, false, 0⟩
    let w (on : Bool) := (z on).setTrail fun t => { t with dma := t.dma.map fun d => { d with reqs := [⟨0, descChip (2 ^ 50), dramBase + 8, 8⟩] } }
    let odd := queued .dma (blk [(0, 1, 5)])
    (∀ on : Bool, ((ch (s on)).takeJob .dma).1 = some ⟨dramBase, x, false, 0⟩ ∧ (ch (s on)).dmaHeadJop = 2 ∧ (y on).dmaDescOk (2 ^ 50) 8 = true ∧
      2 ^ 50 % 8 = 0 ∧ (y on).inShared (dramBase + 8) 8 = true ∧ (z on).descAddr none (2 ^ 50) 8 = none ∧
      ((w on).routeCode (descChip (2 ^ 50)) = 3 ↔ on = false)) ∧
    (((ch odd).takeJob .dma).1 = some ⟨dramBase, blk [(0, 1, 5)], false, 0⟩ ∧ (ch odd).dmaHeadJop ≠ 2) := by decide +kernel

theorem witness_DmaAndAdapt_feeder :
    let ch (s : State) := s.chip 0
    let b : Built := ⟨0, 0, 0, 0, [], false, false⟩
    let job (slots : Nat) : AdpJob := ⟨blk [(7, 1, slots)] ++ zeros 64, ⟨0, 0, 0, 0, [], 0⟩, some b⟩
    let s (st slots deliv : Nat) := up fun ch => { ((withGraph1 ch).wr (F.ADP_JOB_STATE 3) st).wr (F.ADP_DELIV_VALUE 3) deliv with adp := ⟨[(3, job slots)], 0⟩ }
    let ready (x : State) (slots : Nat) : Bool := let c := ch x
      Tab.find c.adp.jobs 3 = some (job slots) && c.feederOn && !c.adpFar (AdpReq.ofBytes (job slots).blk) b &&
        c.load ((c.adpAddr (AdpReq.ofBytes (job slots).blk).credit 8).getD 0) 8 = 0 && (AdpReq.ofBytes (job slots).blk).nslot = slots
    (Live (s adpQueued 2 0) 0 ∧ ((List.range 4).find? fun j => (ch (s adpQueued 2 0)).adpState j == adpQueued) = some 3 ∧
      Tab.find (ch (s adpQueued 2 0)).adp.jobs 3 = some (job 2) ∧ (ch (s adpQueued 2 0)).ctxSlot (AdpReq.ofBytes (job 2).blk).context = some 0 ∧
      (AdpReq.ofBytes (job 2).blk).nnoise = 0 ∧ ((ch (s adpQueued 2 0)).slot 0).st = .armed ∧ (ch (s adpQueued 2 0)).pwr = pwrRun ∧
      ∀ i < 4, (ch (s adpQueued 2 0)).adpState i ≠ adpRunning ∧ (ch (s adpQueued 2 0)).adpState i ≠ adpWaiting) ∧
    (∀ j < 4, (ch (up id)).adpState j ≠ adpQueued) ∧
    ((ch ((s adpQueued 2 0).modChip 0 fun ch => ch.wr F.PWR_STATE_STATE 1)).pwr ≠ pwrRun) ∧
    (Live (s adpRunning 2 1) 0 ∧ (ch (s adpRunning 2 1)).adpIn adpRunning = some 3 ∧ ready (s adpRunning 2 1) 2 = true ∧
      (ch (s adpRunning 2 1)).rd (F.ADP_DELIV_VALUE 3) = 1 ∧ ready (s adpRunning 2 2) 2 = true ∧ (ch (s adpRunning 2 2)).rd (F.ADP_DELIV_VALUE 3) = 2) ∧
    ((ch (up id)).adpIn adpRunning = none ∧ (ch (up id)).adpIn adpWaiting = none) ∧
    ((ch (s adpWaiting 2 1)).adpIn adpWaiting = some 3 ∧ ready (s adpWaiting 2 1) 2 = true) ∧
    ((ch (up id)).flag F.ADP_STAT_LINK_LIVE = false ∧
      (let z := (s adpRunning 2 1).modChip 0 fun ch => ch.setFlag F.ADP_STAT_LINK_LIVE true
       (ch z).flag F.ADP_STAT_LINK_LIVE = true ∧ (ch z).adpIn adpRunning = some 3)) ∧
    ((ch ((s adpRunning 2 1).modChip 0 fun ch => ch.wr F.ADP_CFG_DUTY 0)).feederOn = false) ∧
    (let b1 : Built := { b with samples := [0] }
     let f : AdpJob := ⟨blk [(2, 1, 1)] ++ zeros 64, ⟨0, 0, 0, 0, [], 0⟩, some b1⟩
     let z := up fun ch => ({ (ch.wr (F.ADP_JOB_STATE 3) adpRunning).wr F.TRL_RING_UP 0 with adp := ⟨[(3, f)], 0⟩ } : Chip).store dramBase
       (toLe 8 (2 ^ 50)) false
     (ch z).adpIn adpRunning = some 3 ∧ Tab.find (ch z).adp.jobs 3 = some f ∧ (ch z).feederOn = true ∧ (ch z).adpFar (AdpReq.ofBytes f.blk) b1 = true) ∧
    (∀ len ∈ [0, 1],
      let f : AdpJob := ⟨blk [(4, 1, 1), (7, 1, 2), (40, 8, 0x1000), (48, 2, 1)] ++ zeros 64, ⟨0, 0, 0, 0, [], 0⟩, none⟩
      let r := AdpReq.ofBytes f.blk
      let z := (s adpQueued 2 0).modChip 0 fun ch => ({ ch with adp := ⟨[(3, f)], 0⟩ } : Chip).store (dramBase + 0x1000) (toLe 8 0 ++ toLe 8 len) false
      let e := (ch z).bytes ((((ch z).adpAddr r.noise (16 * r.nnoise)).getD 0) + 16 * 0) 16
      0 < r.nnoise ∧ Tab.find (ch z).adp.jobs 3 = some f ∧ fieldAt e 8 4 = len ∧ fieldAt e 12 4 = 0 ∧
        (ch z).dataOk r (fieldAt e 0 8) (4 * fieldAt e 8 4) = true) ∧
    (let z := (s adpQueued 2 0).modChip 0 fun ch => ch.wr (F.ADP_JOB_STATE 0) adpWaiting
     (ch z).adpState 0 = adpWaiting ∧ ((List.range 4).find? fun j => (ch z).adpState j == adpQueued) = some 3) := by
  refine ⟨?_, ?_, ?_, ?_, ?_, ?_, ?_, ?_, ?_, ?_, ?_⟩ <;> decide +kernel

/-! ### Witnesses: motion -/

theorem witness_MotionBatchesAndEnds :
    let ch (s : State) := s.chip 0
    let smp : Smp := ⟨5, [], 1⟩
    let gen : OccGen := ⟨1, 0, [], false, none⟩
    let s (role st n : Nat) (x : Head) := up fun ch =>
      let y := ((((ch.wr F.COA_STAT_ROLE role).wr (F.COA_HSTAT_STATE 7) st).wr (F.COA_HCFG_BATCH 7) n).setHead 7 x).wr F.TRL_RING_UP 15
      { y with coa := { y.coa with gens := [gen] } }
    let hd (q : List Smp) := s roleActive hdReady 2 { Head.reset with queue := q }
    let e1 := upAt 1 fun ch => ((ch.wr F.COA_STAT_ROLE roleActive).wr (F.COA_HSTAT_STATE 7) hdReady).wr (F.COA_HCFG_BATCH 7) 2
    let stop (x : List Seg) := s roleActive hdStopping 2 { Head.reset with segs := x }
    let seg (b : Bool) : Seg := ⟨0, 1, [], b⟩
    let dis (b : Bool) := up fun ch => ch.setSen { ch.sen with disabling := b }
    let late := s roleActive hdReady 2 { Head.reset with frame := some ⟨5, []⟩ }
    (Live (hd []) 0 ∧ (ch (hd [])).rd F.COA_STAT_ROLE = roleActive ∧ (ch (hd [])).headState 7 ≠ hdDisabled ∧ (ch (hd [])).batch 7 = 2 ∧
      (ch (hd [])).pos.val = 0) ∧
    (Live e1 1 ∧ (e1.chip 1).rd F.COA_STAT_ROLE = roleActive ∧ (e1.chip 1).headState 7 ≠ hdDisabled ∧ (e1.chip 1).batch 7 ≠ 0 ∧ (e1.chip 1).pos.val ≠ 0) ∧
    ((ch (up id)).rd F.COA_STAT_ROLE ≠ roleActive ∧ (ch (up id)).headState 7 = hdDisabled) ∧
    ((ch (s roleActive hdMoving 2 Head.reset)).headState 7 = hdMoving ∧ (ch (hd [])).headState 7 ≠ hdMoving ∧ (ch (hd [])).headState 7 ≠ hdStopping) ∧
    (∀ b : Bool, (ch (stop [seg b])).headState 7 = hdStopping ∧ (ch (stop [seg b])).sen.disabling = false ∧
      ((ch (stop [seg b])).setHeadState 7 hdReady).sen.disabling = false ∧ (afterStop [seg b] [] = [] ↔ b = true)) ∧
    (((ch (hd [])).head 7).queue = [] ∧ ((ch (hd [smp])).head 7).queue = [smp] ∧ [smp].length < 2 ∧
      ((ch (hd [smp, smp, smp])).head 7).queue.take 2 = [smp, smp] ∧ 2 ≤ ((ch (hd [smp, smp, smp])).head 7).queue.length) ∧
    ([smp, smp].all (fun q => (ch (hd [smp, smp])).genFresh q.gen) = true ∧ ((ch (hd [smp, smp])).head 7).queue = [smp, smp] ∧
      [{ smp with gen := 2 }, smp].all (fun q => (ch (hd [{ smp with gen := 2 }, smp])).genFresh q.gen) = false) ∧
    (((ch (hd [])).head 7).frame = none ∧ Live late 0 ∧ ((ch late).head 7).frame = some ⟨5, []⟩) ∧
    (∀ b : Bool, Live (dis b) 0 ∧ (ch (dis b)).sen.disabling = b) ∧ (ch (hd [])).routeCode 2 ≠ 3 := by
  refine ⟨?_, ?_, ?_, ?_, ?_, ?_, ?_, ?_, ?_, ?_⟩ <;> decide +kernel

/-- A head comes to rest while a disable runs, with another head at rest and moving, and without one running. -/
theorem witness_MotionBatchesAndEnds_disable :
    let s (other : Nat) (segs : List Seg) := up fun ch =>
      let y := ((((ch.setFlag (F.COA_HCFG_EN 7) true).setFlag (F.COA_HCFG_EN 6) true).wr (F.COA_HSTAT_STATE 7) hdStopping).wr (F.COA_HSTAT_STATE 6)
        other).setHead 7 { Head.reset with segs := segs }
      y.setSen { y.sen with disabling := true }
    let y (t : State) : Chip := ((t.chip 0).setHead 7 { (t.chip 0).head 7 with
      rest := ((t.chip 0).head 7).stopPose, segs := afterStop ((t.chip 0).head 7).segs [] }).setHeadState 7 hdReady
    (∀ o ∈ [hdReady, hdMoving], ∀ g ∈ [[], [⟨0, 1, [], false⟩]], Live (s o g) 0 ∧ ((s o g).chip 0).headState 7 = hdStopping ∧
      (y (s o g)).sen.disabling = true ∧ ((y (s o g)).allAtRest = true ↔ o = hdReady)) := by decide +kernel

theorem witness_SentryEvents :
    let ch (s : State) := s.chip 0
    let fr (id : Nat) : CanFrame := ⟨id, []⟩
    let bus (id : Nat) := up fun ch => ch.setSen { ch.sen with can0 := [fr id], can1 := [fr id] }
    let good (f : Nat) := canBytes 0 (padTo 16 (toLe 1 0x81 ++ toLe 1 7 ++ toLe 1 f))
    let s := up fun ch => (ch.setFlag (F.COA_HCFG_EN 7) true).wr (F.COA_HSTAT_STATE 7) hdReady
    let time (t : Nat) := up fun ch => (ch.wr F.TKP_NOW_TIME t).setSen { ch.sen with rearm := 0 }
    let loop (a b : Nat) := up fun ch => ch.setSen { ch.sen with openA := a, openB := b }
    (Live (upAt 3 id) 3 ∧ ((upAt 3 id).chip 3).pos.val ≠ 0) ∧
    (Live (up id) 0 ∧ (ch (up id)).pos.val = 0 ∧ (ch (up id)).sen.can0 = [] ∧ (ch (up id)).sen.can1 = []) ∧
    (∀ id ∈ [1, 0x107], Live (bus id) 0 ∧ (ch (bus id)).sen.can0 = [fr id] ∧ (ch (bus id)).sen.can1 = [fr id] ∧ (ch (bus id)).sen.busOff0 = false ∧
      (ch (bus id)).sen.busOff1 = false) ∧
    (Live s 0 ∧ (ch s).nax 7 = 0 ∧ (ch s).flag (F.COA_HCFG_EN 7) = true ∧ ((ch s).head 7).sent = [] ∧ ((ch s).head 7).queue = [] ∧
      (ch s).rd (F.COA_HSAFE_SAFE_ID 7) = 0) ∧
    (∀ f ∈ [0, 1], (good f).length = canLen 20 ∧ fieldAt (good f) 16 4 = crc32 (toLe 4 0 ++ (good f).take 16) ∧ fieldAt (good f) 0 1 = 0x81 ∧
      fieldAt (good f) 1 1 = 7 ∧ bnat (bit (fieldAt (good f) 2 1) 0) = f) ∧
    (fieldAt (zeros 20) 16 4 ≠ crc32 (toLe 4 0 ++ (zeros 20).take 16) ∧ fieldAt (zeros 20) 0 1 ≠ 0x81 ∧ fieldAt (zeros 20) 1 1 ≠ 7 ∧
      (zeros 19).length ≠ canLen 20 ∧ (ch (up id)).flag (F.COA_HCFG_EN 7) = false) ∧
    ((ch (up id)).headState 7 = hdDisabled ∧ (ch s).headState 7 ≠ hdDisabled) ∧
    (∀ b : Bool, (ch (up fun ch => { ch with fab := { ch.fab with steward := { ch.fab.steward with halted := b } } })).fab.steward.halted = b) ∧
    ((ch (time 4000000)).sen.rearm + 4000000 ≤ (ch (time 4000000)).now ∧ (ch (time 3999999)).now < (ch (time 3999999)).sen.rearm + 4000000) ∧
    ((ch (loop 1 1)).sen.openA = 1 ∧ (ch (loop 1 1)).sen.loopA = false ∧ (ch (loop 1 1)).sen.openB = 1 ∧ (ch (loop 1 1)).sen.loopB = false ∧
      (ch (loop 0 0)).sen.openA = 0 ∧ Live (loop 1 1) 0) := by
  refine ⟨?_, ?_, ?_, ?_, ?_, ?_, ?_, ?_, ?_, ?_⟩ <;> decide +kernel

/-- A head is fitted and both loops read open for the second time; a head follows, and strays from, the setpoint of its STATUS. -/
theorem witness_SentryEvents_fitted :
    let ch (s : State) := s.chip 0
    let loop (a b : Nat) := up fun ch => (ch.setFlag (F.COA_HCFG_EN 7) true).setSen { ch.sen with openA := a, openB := b }
    let s (x : Head) (st : Nat) := up fun ch => (((ch.setFlag (F.COA_HCFG_EN 7) true).wr (F.COA_HCFG_NAX 7) 1).wr (F.COA_HSTAT_STATE 7) st).setHead 7 x
    let good (p : Nat) := canBytes 0 (padTo 20 (padTo 16 (toLe 1 0x81 ++ toLe 1 7) ++ toLe 4 p))
    let x (off : Nat) : Head := { Head.reset with sent := [⟨0, [0], 1⟩], off := off }
    let far (p : Int) : Bool := decide ((ch (s (x 1) hdReady)).rd (F.COA_AF_FOLLOW 7 0) < (p - 0).natAbs)
    (Live (loop 1 1) 0 ∧ (ch (loop 1 1)).pos.val = 0 ∧ (∃ n < 8, (ch (loop 1 1)).flag (F.COA_HCFG_EN n) = true) ∧
      (ch (loop 1 1)).sen.openA = 1 ∧ (ch (loop 1 1)).sen.loopA = false ∧ (ch (loop 1 1)).sen.openB = 1 ∧ (ch (loop 1 1)).sen.loopB = false) ∧
    ((∀ n < 8, (ch (up id)).flag (F.COA_HCFG_EN n) = false) ∧ (ch (up fun ch => ch.setSen { ch.sen with openA := 1 })).sen.openA = 1) ∧
    (∀ p ∈ [0, 2 ^ 31 - 1], (good p).length = canLen (16 + 4 * 1 + 4) ∧
      fieldAt (good p) ((good p).length - 4) 4 = crc32 (toLe 4 0 ++ (good p).take ((good p).length - 4)) ∧
      fieldAt (good p) 0 1 = 0x81 ∧ fieldAt (good p) 1 1 = 7 ∧ sgn 32 (fieldAt (good p) 16 4) = p) ∧
    (∀ st ∈ [hdReady, hdDisabled], ∀ off ∈ [0, 1], Live (s (x off) st) 0 ∧ (ch (s (x off) st)).nax 7 = 1 ∧ (ch (s (x off) st)).headState 7 = st ∧
      (((ch (s (x off) st)).head 7).sent ++ ((ch (s (x off) st)).head 7).queue).filter (fun q => q.time == 0 / 1000000 * 1000000) = [⟨0, [0], 1⟩]) ∧
    far 0 = false ∧ far (2 ^ 31 - 1) = true := by
  refine ⟨?_, ?_, ?_, ?_, ?_, ?_⟩ <;> decide +kernel

theorem witness_MotionMessages :
    let p (i n : Nat) := padTo 56 (toLe 1 4 ++ toLe 1 i ++ toLe 1 n)
    let lk (c : ChipId) := upAt c fun ch => ch.wr (F.TRL_STAT_STATE 1) trlUp
    let a (c : ChipId) (i n : Nat) := ((lk c).chip c).arrive 1 (newHdr c.val false) (p i n) 3 4
    (Awake (up id) 0 ∧ ((up id).chip 0 |>.arrive 1 (newHdr 0 false) [] 3 4).1 = none) ∧
    (∀ c ∈ [(0 : ChipId), 2], Awake (lk c) c ∧ (a c 0 2).1 = some (p 0 2) ∧ ((a c 0 2).2.motionPiece 4 0 2 ((p 0 2).drop 8)).1 = none ∧
      (a c 1 2).1 = some (p 1 2) ∧ ((a c 1 2).2.motionPiece 4 1 2 ((p 1 2).drop 8)).1 = some (zeros 48) ∧
      (((a c 1 2).2.motionPiece 4 1 2 ((p 1 2).drop 8)).2.pos = 0 ↔ c = 0)) := by
  refine ⟨?_, ?_⟩ <;> decide +kernel

/-! ### Witnesses: memory controller, clocks, faults -/

theorem witness_MemoryCommands :
    let ch (s : State) := s.chip 0
    let s := up fun ch => ((ch.wr F.MEM_USABLE_BYTES 0x1C0000000).wr (F.MEM_RANK_STATE 0) rkActive).wr (F.MEM_RANK_SUBST 0) 0
    let r (e : LineErr) := readBack (lineTag 0 0) ((ch s).load dramBase 64) ((ch s).isPoisoned dramBase) e
    let reg (f : Chip → Chip) := ch (up f)
    let last := 0x1C0000000 / 64
    let mig (b : Bool) := up fun ch => (ch.setFlag F.MEM_MIG_ACTIVE b).wr F.MEM_MIG_SRC 0
    let req (st : Nat) (q : List Nat) := up fun ch => ((ch.wr F.MEM_MIG_REQ_RANK 31).wr (F.MEM_RANK_STATE 31) st).setMc fun m => { m with queue := q }
    let z := ch (mig true)
    let line0 : DramReq := ⟨.read 0 ⟨[], 0, false⟩, false, false, 0⟩
    let part : DramReq := ⟨.rmw 0 63 [1] true ⟨[], 0, true⟩, true, true, 0⟩
    let full (n : Nat) := fun ch : Chip => (ch.setRdq 0 (List.replicate n line0)).setWrq 0 (List.replicate n line0)
    let clocked (f : Chip → Chip) := reg fun ch => f (((ch.wr F.MEM_USABLE_BYTES 0x1C0000000).wr (F.MEM_RANK_STATE 0) rkActive).setClk 0 true)
    let busy (k : Nat) := reg fun ch => ch.setRdq k [line0]
    (∀ r ∈ [line0, part],
      let y := clocked (full 63)
      y.lineChan 0 = 0 ∧ 0 < y.usable ∧ y.clkRuns 0 = true ∧ (y.xing crDomain 256).st = .run ∧ (y.xing crDomain 256).held = [] ∧
        (y.xing crDomain 256).wait = [] ∧ y.dramRoom 0 r = true ∧ (clocked (full 64)).dramRoom 0 r = false) ∧
    ((clocked fun ch => ch.setClk 0 false).clkRuns 0 = false ∧
      ((clocked fun ch => ch.setXing crDomain 256 fun x => { x with st := .resync }).xing crDomain 256).st ≠ .run ∧
      ((clocked fun ch => ch.setXing crDomain 256 fun x => { x with held := [.dram line0] }).xing crDomain 256).held ≠ [] ∧
      ((clocked fun ch => ch.setXing crDomain 256 fun x => { x with wait := [(231, .dram line0)] }).xing crDomain 256).wait ≠ []) ∧
    ((reg id).chanIdle 15 = true ∧ (busy 15).chanIdle 15 = false ∧
      ((busy 15).rdq 15 ++ (busy 15).wrq 15).any (fun r => r.safety) = false ∧
      (let y := reg fun ch => ch.setWrq 15 [part]
       (y.rdq 15 ++ y.wrq 15).any (fun r => r.safety) = true)) ∧
    (2 ≤ (reg fun ch => ch.wr F.PWR_STATE_STATE 2).rd F.PWR_STATE_STATE) ∧
    (Awake s 0 ∧ (ch s).memRuns = true ∧ (ch s).usable ≤ 64 * (BitVec.ofNat 28 last).toNat ∧ 64 * (BitVec.ofNat 28 (last - 1)).toNat < (ch s).usable) ∧
    ((ch s).lineAt 0 = (0, 0) ∧ (ch s).server 0 0 = some 0 ∧ 0 < (ch s).usable) ∧
    ((r ⟨[], 0, false⟩).cls = 0 ∧ (r ⟨[0], 0, true⟩).cls = mcCe ∧ (r ⟨[], 1, false⟩).cls ≠ 0 ∧ (r ⟨[], 1, false⟩).cls ≠ mcCe) ∧
    (∀ n ∈ [7, 8], Tab.get 0 (reg fun ch => ch.setMc fun m => { m with postponed := Tab.set 0 m.postponed 15 n }).mc.postponed 15 = n) ∧
    ((30#5).toNat ≠ mr4Over ∧ (31#5).toNat = mr4Over) ∧
    ((reg fun ch => ch.wr F.MEM_TEL_PERIOD 0).rd F.MEM_TEL_PERIOD = 0 ∧ (reg fun ch => ch.wr F.MEM_TEL_PERIOD 1).rd F.MEM_TEL_PERIOD ≠ 0) ∧
    ((reg fun ch => ch.wr F.MEM_PD_IDLE 0).rd F.MEM_PD_IDLE = 0 ∧ (reg fun ch => ch.wr F.MEM_PD_IDLE 1).rd F.MEM_PD_IDLE ≠ 0) ∧
    ((reg fun ch => ch.wr F.MEM_SCRUB_HOURS 0).rd F.MEM_SCRUB_HOURS = 0 ∧
      (let y := reg fun ch => ((ch.wr F.MEM_SCRUB_HOURS 1).wr (F.MEM_CH_SCRUB_POS 15) rankLines).wr (F.MEM_RANK_STATE 30) rkActive
       y.rd F.MEM_SCRUB_HOURS ≠ 0 ∧ y.scrubRanks 15 ≠ [] ∧ (let y0 := y.wr (F.MEM_CH_SCRUB_POS 15) 0
         (y0.scrubRanks 15)[y0.rd (F.MEM_CH_SCRUB_POS 15) / rankLines]? = some 30 ∧
           y0.rd (F.MEM_CH_SCRUB_POS 15) + 1 < (y0.scrubRanks 15).length * rankLines) ∧
       (let y1 := (y.wr (F.MEM_RANK_STATE 31) rkSpare).wr (F.MEM_CH_SCRUB_POS 15) (2 * rankLines - 1)
        (y1.scrubRanks 15)[y1.rd (F.MEM_CH_SCRUB_POS 15) / rankLines]? = some 31 ∧ y1.chanIdle 15 = true ∧
          (y1.scrubRanks 15).length * rankLines ≤ y1.rd (F.MEM_CH_SCRUB_POS 15) + 1) ∧
       (reg fun ch => (ch.wr (F.MEM_RANK_STATE 30) rkRetired).wr (F.MEM_RANK_STATE 31) rkRetired).scrubRanks 15 = [])) ∧
    (∀ n ∈ [3, 4], Tab.get 0 (reg fun ch => ch.setMc fun m => { m with deferred := Tab.set 0 m.deferred 31 n }).mc.deferred 31 = n) ∧
    ((ch (req rkActive [])).rd F.PWR_STATE_STATE < 2 ∧ (ch (req rkActive [])).rd F.MEM_MIG_REQ_RANK = 31 ∧ (ch (req rkActive [])).rankState 31 = rkActive ∧
      (ch (req rkActive [])).mc.queue.contains 31 = false ∧ (ch (req rkSpare [])).rankState 31 ≠ rkActive ∧
      (ch (req rkActive [31])).mc.queue.contains 31 = true) ∧
    (∀ b : Bool, (ch (mig b)).flag F.MEM_MIG_ACTIVE = b) ∧
    ((readBack (lineTag 0 0) (z.load (dramBase + z.lineOff (z.rd (F.MEM_RANK_SUBST 0)) 0) 64)
        (z.isPoisoned (dramBase + z.lineOff (z.rd (F.MEM_RANK_SUBST 0)) 0)) ⟨[], 0, false⟩).cls = 0 ∧ z.rd F.MEM_MIG_PTR_P = 0 ∧ 0 + 1 ≠ rankLines) ∧
    (z.chanIdle (z.rd F.MEM_MIG_SRC / 2) = true ∧ z.chanIdle (z.rd F.MEM_MIG_DST / 2) = true ∧
      (let y := z.wr F.MEM_MIG_PTR_P (rankLines - 1); y.rd F.MEM_MIG_PTR_P + 1 = rankLines) ∧
      (let y := z.setRdq 0 [line0]; y.chanIdle (y.rd F.MEM_MIG_SRC / 2) = false) ∧
      (let y := (z.wr F.MEM_MIG_DST 31).setRdq 15 [line0]; y.chanIdle (y.rd F.MEM_MIG_DST / 2) = false)) := by
  refine ⟨?_, ?_, ?_, ?_, ?_, ?_, ?_, ?_, ?_, ?_, ?_, ?_, ?_, ?_, ?_, ?_⟩ <;> decide +kernel

theorem witness_ClocksAndTime :
    let ch (s : State) := s.chip 0
    let reg (f : Chip → Chip) := ch (up f)
    let off := reg fun ch => (ch.setClk 0 false).setClk 19 false
    let on := reg fun ch => (ch.setClk 0 true).setClk 19 true
    let t (n : Nat) := reg fun ch => ch.wr F.TKP_STAT_STATE n
    let pace (m g v : Nat) := reg fun ch => ((ch.wr F.PWR_PACE_MEAS_MEAS m).wr F.PWR_PACE_TARGET_TARGET g).wr F.PWR_VCORE_MV v
    Awake (up id) 0 ∧
    (let ask (d : Nat) := off.setXing crDomain (256 + d) fun x => { x with held := [.dram ⟨.read 0 ⟨[], 0, false⟩, false, false, 0⟩] }
     off.wakeAsked 0 = false ∧ (ask 0).wakeAsked 0 = true ∧ (ask 0).clkRuns 0 = false ∧ (ask 0).pwr ≠ pwrDoze ∧
      (ask 17).wakeAsked 17 = true ∧ (ask 17).clkRuns 17 = false ∧ wakeable 27 = false ∧ on.clkRuns 0 = true ∧
      (reg fun ch => ch.wr F.PWR_STATE_STATE pwrDoze).pwr = pwrDoze) ∧
    (off.stallable 275 = true ∧ off.clkRuns 19 = false ∧ 275 ≠ pcieDomain ∧ off.stallable 511 = false ∧ on.clkRuns 19 = true) ∧
    (let y := (reg fun ch => ch.setClk 16 false).setXing 233 pcieDomain fun x => { x with held := [.dram ⟨.read 0 ⟨[], 0, false⟩, false, false, 0⟩] }
     y.stallable pcieDomain = true ∧ y.clkRuns (pcieDomain - 256) = false ∧ (y.xing 233 pcieDomain).held ≠ [] ∧
      (y.xing 232 pcieDomain).held = []) ∧
    ((on.xing 511 511).held = [] ∧ (on.countN F.DFX_XING_DROP_COUNT F.DFX_XING_STAT_DROP_OVF 0 5).rd F.DFX_XING_STAT_STALL_DOMAIN ≠ 511) ∧
    ((t 0).tkp.fsync[1]? = some ((t 0).fsyncAt 1) ∧
      (reg fun ch => ch.setTkp { ch.tkp with fsync := [true, true] }).tkp.fsync[1]? ≠ some ((reg fun ch => ch.setTkp { ch.tkp with fsync := [true, true] }).fsyncAt 1)) ∧
    ((reg id).paceRuns = true ∧ (reg fun ch => ch.wr F.PWR_STATE_STATE pwrEntering).paceRuns = true ∧
      (reg fun ch => ch.wr F.PWR_STATE_STATE pwrDoze).paceRuns = false ∧
      argMin (fun (e : Nat × Nat) => e.1) ((([] : List (BitVec 16)).take 13).map fun t => (reg id).replica t.toInt).zipIdx = none) ∧
    ((argMin (fun (e : Nat × Nat) => e.1) ((List.replicate 14 (400 : BitVec 16)).take 13 |>.map fun t => (reg id).replica t.toInt).zipIdx).map
      (fun m => m.2) = some 0) ∧
    (let y := ({ pace 0 9 850 with ceil := 99 } : Chip)
     (if y.rd F.PWR_VCORE_MV = 850 ∧ y.rd F.PWR_PACE_MEAS_MEAS < y.rd F.PWR_PACE_TARGET_TARGET then y.ceil + 1 else 0) = 100) ∧
    ((pace 0 9 844).rd F.PWR_PACE_MEAS_MEAS + 8 < (pace 0 9 844).rd F.PWR_PACE_TARGET_TARGET ∧ (pace 0 9 844).rd F.PWR_VCORE_MV < 845 ∧
      (pace 25 0 651).rd F.PWR_PACE_TARGET_TARGET + 24 < (pace 25 0 651).rd F.PWR_PACE_MEAS_MEAS ∧ 650 < (pace 25 0 651).rd F.PWR_VCORE_MV ∧
      (pace 24 0 700).rd F.PWR_PACE_MEAS_MEAS = (pace 24 0 700).rd F.PWR_PACE_TARGET_TARGET + 24) ∧
    ((t 0).rd F.TKP_STAT_STATE = 0 ∧ (t 1).rd F.TKP_STAT_STATE = 1) := by
  refine ⟨?_, ?_, ?_, ?_, ?_, ?_, ?_, ?_, ?_, ?_, ?_⟩ <;> decide +kernel

theorem witness_FaultCommands :
    let ch (s : State) := s.chip 0
    let reg (f : Chip → Chip) := ch (up f)
    let e : FaultEv := ⟨1, 0, 0, 0⟩
    let rec' (cls : Nat) (seen : Bool) := reg fun ch =>
      ((ch.wr F.FCU_ACK_RECORD 255).wr (F.FCU_REC_STAT_CLASS 255) cls).setFlag (F.FCU_REC_STAT_SEEN 255) seen
    let ready (b : Bool) (t : Nat) := reg fun ch => ((ch.setFlag F.HIF_STATUS_READY b).wr F.FCU_WDOG_PERIOD 1).wr F.TKP_NOW_TIME t
    let inj (d row : Nat) := reg fun ch => (ch.wr F.LCS_STATE_STATE d).wr F.FCU_INJECT_ROW row
    let injAt (dom : Nat) := srcReal ((inj 1 34).wr F.FCU_INJECT_SOURCE (source dom 0) |>.rd F.FCU_INJECT_SOURCE)
    (Awake (up id) 0 ∧ (reg id).faultQ = [] ∧ (reg fun ch => { ch with faultQ := [e] }).faultQ = [e]) ∧
    (srcReal 0 = true ∧ srcReal (source 283 0) = true ∧ srcReal (source 284 0) = false ∧ srcReal (source 236 0) = false) ∧
    ((rec' 0 false).rd (F.FCU_REC_STAT_CLASS 255) = 0 ∧ (rec' 1 false).flag (F.FCU_REC_STAT_SEEN 255) = false ∧ (rec' 1 true).rd F.FCU_ACK_RECORD = 255 ∧
      (rec' 1 true).rd (F.FCU_REC_STAT_CLASS 255) ≠ 0 ∧ (rec' 1 true).flag (F.FCU_REC_STAT_SEEN 255) = true ∧ (rec' 1 true).liveNow 255 = false) ∧
    ((rec' 1 false).rd (F.FCU_REC_STAT_CLASS 255) ≠ 0 ∧ (rec' 1 false).liveNow 255 = false) ∧
    ((ready true 1000000).flag F.HIF_STATUS_READY = true ∧ (ready true 1000000).pwr ≠ pwrDoze ∧
      (ready true 1000000).fcu.kicked + (ready true 1000000).rd F.FCU_WDOG_PERIOD * 1000000 ≤ (ready true 1000000).now ∧
      (ready true 999999).now < (ready true 999999).fcu.kicked + (ready true 999999).rd F.FCU_WDOG_PERIOD * 1000000 ∧
      (ready false 0).flag F.HIF_STATUS_READY = false) ∧
    ((inj 1 34).develop = true ∧ (inj 1 34).rd F.FCU_INJECT_ROW = 34 ∧ (inj 1 1).rd F.FCU_INJECT_ROW = 1 ∧ (inj 0 1).develop = false ∧
      (inj 1 0).rd F.FCU_INJECT_ROW = 0 ∧ (inj 1 35).rd F.FCU_INJECT_ROW = 35) ∧ (injAt 235 = true ∧ injAt 511 = false) := by
  refine ⟨?_, ?_, ?_, ?_, ?_, ?_, ?_⟩ <;> decide +kernel

/-! ### Witnesses: Trail -/

theorem witness_TrailFlits :
    let ch (s : State) := s.chip 0
    let lk (f : Chip → Chip) := up fun ch => f (ch.wr (F.TRL_STAT_STATE 1) trlUp)
    let hdr (seq dest : Nat) (hop : Bool) : FlitHdr := { newHdr dest hop with seq := BitVec.ofNat 8 seq }
    let acc (s : State) (h : FlitHdr) := let k := (ch s).link 1
      ((((ch s).setLink 1 { k with expected := (k.expected + 1) % 256, nak := false }).count64 (F.TRL_FLITS_COUNT 1) (F.TRL_STAT_WRAP 1) 0
        (F.TRL_WRAP_COUNT 1) (F.TRL_STAT_WRAP_OVF 1) 0 1).gotAck 1 h.ack.toNat h.nak).gotCredits 1 h.cpool.val h.cred.val
    let at' (s : State) (vc : Nat) := (acc s (hdr 0 0 true)).freeFlit 1 (2 * vc + 1)
    let d (h : FlitHdr) := (h.seq.toNat + 256 - ((ch (lk id)).link 1).expected) % 256
    let out := lk fun ch => ch.setTrail fun t => { t with dma := some ⟨0, blk [(0, 1, 1), (4, 4, 64)], 0, false, 64, [⟨0, 1, dramBase, 48⟩]⟩ }
    let mk (n : Nat) := lk fun ch => ch.setTrail fun t => { t with marks := [2], markSerial := n }
    let bad := lk fun ch => ch.setTrail fun t => { t with badWrites := [(0, 0)] }
    ((at' bad 1).trail.badWrites.contains (fieldAt (padTo 56 []) 7 1 % 4, fieldAt (padTo 56 []) 2 2) = true ∧
      (at' bad 1).descAddr none 0 (min 40 (fieldAt (padTo 56 (zeros 4 ++ toLe 2 40)) 4 2)) = some dramBase ∧
      (at' bad 1).descAddr none (2 ^ 48 - 1) 40 = none ∧ (at' bad 1).descAddr none 1 8 = some (dramBase + 1) ∧
      (at' bad 1).descAddr none (2 ^ 48 - 1) 8 = none ∧ fieldAt (padTo 56 (zeros 6 ++ toLe 1 8)) 6 1 ≤ 8 ∧
      8 < fieldAt (padTo 56 (zeros 6 ++ toLe 1 9)) 6 1 ∧ fieldAt (padTo 56 (zeros 7 ++ toLe 1 1)) 7 1 = 1) ∧
    (Awake (up id) 0 ∧ (ch (up id)).trlState 1 ≠ trlUp ∧ Awake (lk id) 0 ∧ (ch (lk id)).trlState 1 = trlUp) ∧
    (d (hdr 1 0 false) ≠ 0 ∧ d (hdr 127 0 false) = 127 ∧ 128 ≤ d (hdr 128 0 false) ∧ d (hdr 0 0 false) = 0) ∧
    (∀ hop : Bool, (hdr 0 3 hop).dest ≠ (acc (lk id) (hdr 0 3 hop)).pos ∧ (hdr 0 0 hop).dest = (acc (lk id) (hdr 0 0 hop)).pos) ∧
    (fieldAt (padTo 56 []) 48 1 = 0 ∧ ((at' (lk id) 1).descAddr none (2 ^ 48 - 1) 48 = none) ∧ (at' (lk id) 1).descAddr none 0 48 = some dramBase) ∧
    ((at' (lk id) 1).descAddr none 0 (min 40 65535) = some dramBase ∧ (at' (lk id) 1).trail.badWrites = [] ∧ bit (fieldAt (padTo 56 (toLe 2 0x200)) 1 1) 1 = true) ∧
    ((at' (lk id) 1).descAddr none 8 8 = some (dramBase + 8) ∧ (dramBase + 8) % 8 = 0) ∧
    ((at' (lk id) 2).dmaReq 0 = none ∧ (at' out 2).dmaReq 0 = some ⟨0, 1, dramBase, 48⟩) ∧
    ((0 ≠ (at' (mk 1) 3).trail.markSerial) ∧ (at' (mk 0) 3).trail.marks.contains (fieldAt (padTo 56 (toLe 1 1)) 0 1) = false ∧ 0 = (at' (mk 0) 3).trail.markSerial ∧ (at' (mk 0) 3).trail.marks = [fieldAt (padTo 56 (toLe 1 2)) 0 1]) := by
  refine ⟨?_, ?_, ?_, ?_, ?_, ?_, ?_, ?_, ?_⟩ <;> decide +kernel

theorem witness_TrailLinks :
    let ch (s : State) := s.chip 0
    let lk (st : Nat) (f : Link → Link) := up fun ch => (ch.wr (F.TRL_STAT_STATE 1) st).setLink 1 (f (ch.link 1))
    let fl : Flit := ⟨0, 1, newHdr 1 false, []⟩
    let k (s : State) := (ch s).link 1
    let rp (n r : Nat) := lk trlUp fun k => { k with replay := List.replicate n fl, resends := r }
    let pos (q : Nat) := ((BitVec.ofNat 8 q).toNat + 256 - (k (lk trlUp id)).expected) % 256
    let tm (n : Nat) := (lk trlUp id).modChip 0 fun ch => ch.wr F.TRL_GCFG_TIME_MS n
    let full (hop : Bool) := lk trlUp fun k => { k with queues := updAt k.queues 3 fun _ => [{ fl with vc := 3, hdr := newHdr 1 hop }], credits := List.replicate 8 1 }
    (kindListed 0 2 = true ∧ kindListed 0 3 = false ∧ kindListed 3 0 = false ∧ kindListed 3 7 = true) ∧
    (∀ hop : Bool, (k (full hop)).resend = [] ∧ (k (full hop)).replay.length < 128 ∧ (k (full hop)).choose = some 3 ∧
      ((k (full hop)).ready 3).map (fun e => (e.1.hdr.hop, e.2.length)) = some (hop, 0)) ∧
    ((ch (lk trlUp id)).training 1 = false ∧ (ch (lk trlSleep id)).training 1 = true ∧ (ch (lk trlTrain id)).training 1 = true) ∧
    (∀ st ∈ [trlOff, trlTrain, trlUp, trlRetrain, trlSleep, trlDown], Live (lk st id) 0 ∧ (ch (lk st id)).trlState 1 = st) ∧
    (pos 0 = 0 ∧ 128 ≤ pos 128 ∧ pos 127 = 127 ∧ pos 1 ≠ 0) ∧
    ((k (lk trlUp fun k => { k with resend := [fl] })).resend = [fl] ∧ (k (lk trlUp fun k => { k with resend := [fl] })).nak = false) ∧
    ((k (rp 128 0)).resend = [] ∧ (k (rp 128 0)).replay.length = 128 ∧ (k (rp 127 0)).replay.length < 128 ∧ (k (rp 127 0)).choose = none) ∧
    ((k (lk trlUp id)).replay = [] ∧ (k (rp 1 3)).replay ≠ [] ∧ (k (rp 1 3)).resends < 4 ∧ 4 ≤ (k (rp 1 4)).resends) ∧
    ((ch (tm 0)).rd F.TRL_GCFG_TIME_MS = 0 ∧ (ch (tm 1)).rd F.TRL_GCFG_TIME_MS ≠ 0 ∧ (ch (tm 1)).trlState 1 = trlUp) ∧
    ((14#4) ≠ 15 ∧ (14#4) ≠ 3 ∧ (14#4) ≠ 12) ∧
    ((k (lk trlRetrain fun k => { k with attempts := 2 })).attempts < 3 ∧ 3 ≤ (k (lk trlRetrain fun k => { k with attempts := 3 })).attempts) := by
  refine ⟨?_, ?_, ?_, ?_, ?_, ?_, ?_, ?_, ?_, ?_, ?_⟩ <;> decide +kernel

/-! ### Witnesses: power, commands of the tray, firmware, management -/

/-- Every chip runs firmware and is READY, changed by `f`. -/
def allUp (f : Chip → Chip) : State :=
  State.reset.modAll fun _ ch => f ({ ch with hif := { ch.hif with state := .firmware } }.setFlag F.HIF_STATUS_READY true)

theorem witness_PowerAndDoze :
    let hif (x : HifState) (f : Chip → Chip) := State.reset.modChip 0 fun ch => f { ch with hif := { ch.hif with state := x } }
    let wiped (b : Bool) := (hif .starting fun ch => ch.setFlag F.MEM_GSTAT_WIPE_DONE b).chip 0
    let vcore := State.reset.modBup 0 fun b => { b with vcore := true }
    let sup (st : Nat) := (bup fun t => { t with supplies := updAt t.supplies 12 fun x => { x with st := st } }).tray.supplies[12]?
    let ent (b : Bool) := up fun ch => (ch.wr F.PWR_STATE_STATE pwrEntering).setFlag F.PWR_STATE_DEFER_LIVE b
    let sp (s : State) := (List.range 12).foldl (fun (x : Chip) p => x.innDo p fun x => x.dozeSpill p) (s.chip 0)
    let wake (w : Nat) := up fun ch => ch.wr F.PWR_DOZE_TIMER_WAKE_AT w
    let porch := State.reset.modChip 0 fun ch => ch.setPorch { ch.media.porch with raised := true }
    (∀ p ∈ [Supply12.off, .powered, .held], (bup fun t => { t with power := p }).tray.power = p) ∧
    ((10399#16).toNat < 10400 ∧ 13600 < (13601#16).toNat ∧ 10400 ≤ (10400#16).toNat ∧ (13600#16).toNat ≤ 13600) ∧
    (sup supOn = some ⟨supOn, none, 0⟩ ∧ sup supOff = some ⟨supOff, none, 0⟩ ∧ supOff ≠ supOn) ∧
    ((State.reset.chip 0).inReset = true ∧ ((up id).chip 0).inReset = false ∧ State.reset.mayRelease 0 = true ∧ (up id).mayRelease 0 = false) ∧
    ((wiped true).hif.state = .starting ∧ (wiped true).flag F.MEM_GSTAT_WIPE_DONE = true ∧ State.reset.tray.lcs ≠ 4 ∧
      (wiped false).flag F.MEM_GSTAT_WIPE_DONE = false ∧ ((up id).chip 0).hif.state ≠ .starting ∧ (bup fun t => { t with lcs := 4 }).tray.lcs = 4) ∧
    ((649#10).toNat < 650 ∧ 650 ≤ (650#10).toNat ∧ (State.reset.bup 0).vcore = false ∧ (State.reset.chip 0).pwr ≠ pwrDoze ∧ (vcore.bup 0).vcore = true ∧
      ((up fun ch => ch.wr F.PWR_STATE_STATE pwrDoze).chip 0).pwr = pwrDoze ∧ (699#10).toNat < 700 ∧ 700 ≤ (700#10).toNat) ∧
    (State.reset.tray.hears (.smbus 0x48) = true ∧ 16 ≤ (16#8).toNat ∧ (15#8).toNat < 16 ∧
      ((chipsOf 15).all fun d => ((allUp id).chip d).flag F.HIF_STATUS_READY && ((allUp id).chip d).pwr == pwrRun) = true ∧
      ((chipsOf 15).all fun d => ((up id).chip d).flag F.HIF_STATUS_READY && ((up id).chip d).pwr == pwrRun) = false) ∧
    (Awake (ent true) 0 ∧ ((ent true).chip 0).pwr = pwrEntering ∧ ((ent true).chip 0).flag F.PWR_STATE_DEFER_LIVE = true ∧ ((up id).chip 0).pwr ≠ pwrEntering) ∧
    (((ent false).chip 0).inReset = false ∧ ((ent false).chip 0).dozeReady = true ∧ (ent false).tray.auth = none ∧
      ((List.range 12).all fun p => ((sp (ent false)).inn p).spillWait.isEmpty) = true ∧ ((ent true).chip 0).dozeReady = false) ∧
    ((State.reset.chip 0).media.porch.raised = false ∧ (porch.chip 0).media.porch.raised = true ∧
      (chipIds.any fun d => !(porch.chip d).inReset && (porch.chip d).pwr == pwrDoze) = false) ∧
    (((wake 100000000).chip 0).inReset = false ∧ ((wake 100000000).chip 0).rd F.PWR_DOZE_TIMER_WAKE_AT = 100000000 ∧ (wake 100000000).tray.now = 100000000 ∧
      (wake 100000000).tray.power ≠ .off ∧ ((wake 0).chip 0).rd F.PWR_DOZE_TIMER_WAKE_AT = 0 ∧
      (wake 100000001).tray.now < ((wake 100000001).chip 0).rd F.PWR_DOZE_TIMER_WAKE_AT) ∧
    (((up fun ch => ch.wr F.PWR_STATE_STATE pwrWaking).chip 0).inReset = false ∧ ((up fun ch => ch.wr F.PWR_STATE_STATE pwrWaking).chip 0).pwr = pwrWaking ∧
      ((up id).chip 0).pwr ≠ pwrWaking) ∧
    (let al (st : Nat) (b : Bool) := (hif .starting fun ch => (ch.wr F.TKP_STAT_STATE st).setFlag F.TKP_STAT_SLEW_LIVE b).chip 0
     (al 1 false).timeAligned = true ∧ (al 1 true).timeAligned = false ∧ (al 2 false).timeAligned = false) ∧
    (let q (tnow pre : Nat) := up fun ch =>
       ({ (((ch.wr F.PWR_STATE_STATE pwrEntering).setFlag F.PWR_STATE_DEFER_LIVE true).wr F.PRC_WAKE_DEFER 1).setFlag F.PRC_STAT_PRE_LIVE (pre == 1) with
          dozeAt := 5 } : Chip).wr F.TKP_NOW_TIME tnow
     let limit (s : State) := (s.chip 0).dozeAt + (s.chip 0).rd F.PRC_WAKE_DEFER * 1000000
     (q 5 0).porchDefers = false ∧ (q 1000004 1).porchDefers = true ∧ ((q 1000004 1).chip 0).now < limit (q 1000004 1) ∧
       limit (q 1000005 1) ≤ ((q 1000005 1).chip 0).now) ∧
    (let two := porch.modChip 1 fun ch => ({ ch with hif := { ch.hif with state := .firmware } } : Chip).wr F.PWR_STATE_STATE pwrDoze
     (two.chip 0).media.porch.raised = true ∧ (chipIds.any fun d => !(two.chip d).inReset && (two.chip d).pwr == pwrDoze) = true) ∧
    ((bup fun t => { t with power := .off }).tray.power = .off ∧ ((bup fun t => { t with auth := some ⟨4, none, [], false, false, 0⟩ }).tray.auth).isSome = true) := by
  refine ⟨?_, ?_, ?_, ?_, ?_, ?_, ?_, ?_, ?_, ?_, ?_, ?_, ?_, ?_, ?_, ?_⟩ <;> decide +kernel

/-- The bytes of a critical command of a kind with a payload. -/
def cmdB (kind : Nat) (payload : List Byte) : List Byte := padTo 32 (zeros 5 ++ toLe 1 kind) ++ payload

theorem witness_CriticalCommands :
    let run (a : AuthRun) := bup fun t => { t with auth := some a }
    let a (ring : Option (Nat × Nat)) (src r : Nat) : AuthRun := ⟨src, ring, cmdB 1 [], false, false, r⟩
    let ring := (up fun ch => withDesc (descBytes opCritical (zeros 8 ++ toLe 2 48)) ch).modTray fun t => { t with mctp := [⟨false, true, []⟩] }
    let acc (k : Nat) := allUp id |>.modTray fun t => { t with accepted := [(4, cmdB k (toLe 1 1))] }
    let x3 (f : Chip → Chip) := (up fun ch => f (((ch.setFlag (F.COA_HCFG_EN 0) true).wr (F.COA_HCFG_BATCH 0) 1).wr F.COA_STAT_ROLE roleActive |>.setHead 0
      { Head.reset with answered := true })).modTray fun t => { t with accepted := [(4, cmdB 3 (toLe 1 1 ++ zeros 7))] }
    let took (s : State) := (s.takeAccepted fun b => cmdOf b == 3).map fun e =>
      (e.1, (e.2.chip 0).inReset, (e.2.chip 0).halted, (e.2.chip 0).motionCheck ((e.2.chip 0).rd F.COA_STAT_ROLE == roleActive) 1 0)
    let one : MctpCmd := ⟨false, false, cmdB 1 []⟩
    (State.reset.tray.hears .uart = false ∧ State.reset.tray.hears (.smbus 0x48) = true ∧ ring.tray.sources.find? (fun x => ring.hasCritical x) = some 0) ∧
    ((run (a none 4 0)).tray.auth.isSome = true ∧ ∀ c : ChipId, ((run (a none 4 0)).chip c).nextCritical = none) ∧
    (let s := bup fun t => { t with mctp := [one] }
     s.tray.auth = none ∧ s.tray.accepted = [] ∧ s.tray.power ≠ .off ∧ s.tray.mctp = [one] ∧ ∀ c : ChipId, (s.chip c).nextCritical = none) ∧
    (∀ r ∈ [0, 3], (run (a none 4 r)).tray.auth = some (a none 4 r) ∧ (run (a (some (5, 6)) 3 r)).tray.auth = some (a (some (5, 6)) 3 r)) ∧
    (∀ k ∈ [1, 3, 4, 5, 6], State.reset.takeAccepted (fun b => cmdOf b == k) = none ∧
      ((acc k).takeAccepted (fun b => cmdOf b == k)).map (·.1) = some (cmdB k (toLe 1 1))) ∧
    (State.reset.tray.lcsTarget = none ∧ (bup fun t => { t with lcsTarget := some 1 }).tray.lcsTarget = some 1) ∧
    (took (x3 id) = some (cmdB 3 (toLe 1 1 ++ zeros 7), false, false, 0) ∧ took (x3 fun ch => ch.setFlag (F.COA_HCFG_EN 0) false) =
      some (cmdB 3 (toLe 1 1 ++ zeros 7), false, false, 8) ∧ fieldAt (cmdPayload (cmdB 3 (toLe 1 1 ++ zeros 7))) 0 1 = 1 ∧
      fieldAt (cmdPayload (cmdB 3 (toLe 1 1 ++ zeros 7))) 4 4 = 0) ∧
    fieldAt (cmdPayload (cmdB 3 (zeros 8))) 0 1 = 0 ∧
    (let u (uart : Bool) := State.reset.modTray fun t => { t with mctp := t.mctp ++ [⟨uart, true, []⟩] }
     (u false).tray.sources.find? (fun x => (u false).hasCritical x) = some 4 ∧
       ring.tray.sources.find? (fun x => ring.hasCritical x) ≠ some 4) ∧
    (let one := (up fun ch => withDesc (descBytes opCritical (zeros 8 ++ toLe 2 48)) ch).modTray fun t => { t with accepted := [(4, cmdB 3 [])] }
     one.tray.auth = none ∧ (one.tray.accepted.all fun e => cmdOf e.2 != 4) = true ∧ one.tray.power ≠ .off ∧
       (∀ e : ChipId, ((one.chip e).nextCritical.all fun x => (critStatus x.2).isNone) = true) ∧
       one.tray.sources.find? (fun x => one.hasCritical x) = some (0 : ChipId).val ∧ ((one.chip 0).nextCritical.map (·.1)) = some 0) ∧
    (let held := bup fun t => { t with lcsTarget := some 1, power := .held }
     held.tray.power ≠ .powered ∧ (bup fun t => { t with lcsTarget := some 1 }).tray.power = .powered) := by
  refine ⟨?_, ?_, ?_, ?_, ?_, ?_, ?_, ?_, ?_, ?_, ?_⟩ <;> decide +kernel

theorem witness_FirmwareAndConfig :
    let dg := zeros 32
    let acc (k : Nat) (p : List Byte) (f : Tray → Tray) := allUp id |>.modTray fun t => f { t with accepted := [(4, cmdB k p)] }
    let banks (b : Bank) (t : Tray) : Tray := { t with banks := [⟨4, 0, 0, 0, []⟩, b] }
    let act (k : Nat) := toLe 1 k ++ zeros 7 ++ dg
    let err (k : Nat) (f : Tray → Tray) := (((acc 2 (act k) f).modTray fun t => { t with accepted := [] }).tray).activateErr k dg
    let go (st b len src : Nat) (f : Tray → Tray) := (up fun ch =>
      (((ch.wr F.FWU_STAT_STATE st).wr F.FWU_CTL_BANK b).wr F.FWU_LEN_BYTES len).wr F.FWU_SRC_ADDR src).modTray f
    let rg (s : State) := ((s.chip 0).rd F.FWU_STAT_STATE, (s.chip 0).rd F.FWU_CTL_BANK, (s.chip 0).rd F.FWU_LEN_BYTES, (s.chip 0).rd F.FWU_SRC_ADDR)
    let stg (c : Option ChipId) (v : Bool) : Staging := ⟨1, c, v, [], false⟩
    let sg (c : Option ChipId) (v : Bool) := up id |>.modTray fun t => { t with staging := some (stg c v) }
    let trial (r : List Nat) := bup fun t => { t with banks := [⟨4, 0, 0, 0, []⟩, ⟨3, 1, 1, 0, []⟩], readied := r }
    let rom (bm : Nat) (ret : Bool) := State.reset.modChip 0 fun ch => { ch with hif := { ch.hif with state := .rom, bmState := bm, bmRetired := ret } }
    (∀ k ∈ [2, 7], State.reset.takeAccepted (fun b => cmdOf b == k) = none) ∧
    (((acc 2 (act 1) id).takeAccepted fun b => cmdOf b == 2).isSome = true ∧ fieldAt (cmdPayload (cmdB 2 (act 1))) 0 1 = 1 ∧
      ((cmdPayload (cmdB 2 (act 1))).drop 8).take 32 = dg ∧ err 0 id = some feSelf ∧ err 1 id = some feDigest ∧
      err 1 (banks ⟨bkValid, 0, 0, 0, dg⟩) = none ∧ (acc 2 (act 1) (banks ⟨bkValid, 0, 0, 0, dg⟩)).tray.recovery = false ∧
      ((acc 2 (act 1) (banks ⟨bkValid, 0, 0, 0, dg⟩)).tray.pend 1).recovery = false) ∧
    (∀ b : Bool, (bup fun t => { t with cycleDue := b }).tray.cycleDue = b) ∧
    ((State.reset.chip 0).inReset = true ∧ rg (go fwWriting 0 0 0 id) = (fwWriting, 0, 0, 0) ∧ rg (go fwVerifying 0 0 0 id) = (fwVerifying, 0, 0, 0)) ∧
    (((go fwIdle 0 0 0 id).chip 0).inReset = false ∧ fwIdle ≠ fwWriting ∧ fwIdle ≠ fwVerifying ∧ rg (go fwIdle 0 0 0 id) = (fwIdle, 0, 0, 0) ∧
      State.reset.tray.running = 0) ∧
    (rg (go fwIdle 1 0 0 id) = (fwIdle, 1, 0, 0) ∧ (sg none true).tray.staging.isSome = true ∧ (sg none true).tray.running = 0 ∧
      (trial []).tray.trial.isSome = true ∧ (trial []).tray.running = 1) ∧
    (rg (go fwIdle 1 (16 * MiB) 64 id) = (fwIdle, 1, 16 * MiB, 64) ∧ rg (go fwIdle 1 (16 * MiB + 1) 1 id) = (fwIdle, 1, 16 * MiB + 1, 1) ∧
      (go fwIdle 1 0 0 id).tray.staging = none ∧ (go fwIdle 1 0 0 id).tray.trial = none) ∧
    (∀ v : Bool, (sg (some 0) v).tray.staging = some (stg (some 0) v) ∧ (stg (some 0) v).verifying = v ∧ (stg (some 0) v).chip = some 0 ∧
      (stg none v).chip ≠ some 0) ∧
    ((trial [0, 1, 2, 3]).tray.trial = some 1 ∧ (trial [0, 1, 2, 3]).tray.readied.length = 4 ∧ (trial [0]).tray.readied.length ≠ 4 ∧
      (trial []).tray.trial = some 1 ∧ State.reset.tray.trial = none ∧ ∀ d : ChipId, ((trial [0, 1, 2, 3]).chip d).halted = false) ∧
    (Awake (rom 0 false) 0 ∧ ((rom 0 false).chip 0).hif.state = .rom ∧ ((rom 0 false).chip 0).hif.bmState = 0 ∧ ((rom 1 true).chip 0).hif.bmState = 1 ∧
      ((rom 1 true).chip 0).hif.bmRetired = true ∧ ((rom 2 true).chip 0).hif.bmState = 2 ∧ ((up id).chip 0).hif.state ≠ .rom) ∧
    ((511#25).toNat < 512 ∧ 16 * MiB < (16777217#25).toNat ∧ 512 ≤ (512#25).toNat ∧ (16777216#25).toNat ≤ 16 * MiB) ∧
    (∀ m ∈ [1, 2], ((acc 7 (toLe 1 m ++ zeros 7) id).takeAccepted fun b => cmdOf b == 7 && fieldAt (cmdPayload b) 0 1 == m).isSome = true) ∧
    (let busy (s : State) := chipIds.any fun d => ((List.range 16).any fun k => ((s.chip d).slot k).st != .empty) || !(s.chip d).media.streams.isEmpty
     busy (allUp id) = false ∧ busy (pe id) = true) ∧
    (let y (p : Supply12) := (bup fun t => { t with recovery := true, power := p, cycleDue := true }).tray
     (y .powered).recovery = true ∧ (y .powered).power = .powered ∧ (y .held).recovery = true ∧ (y .held).power ≠ .powered ∧
       (y .powered).cycleDue = true) ∧
    (let im (w : Bool) := (rom 1 false).modChip 0 fun ch =>
       (({ ch with hif := { ch.hif with bmLen := 512 } } : Chip).setFlag F.MEM_GSTAT_WIPE_DONE w)
     ((im true).chip 0).hif.bmState = 1 ∧ ((im true).chip 0).hif.bmRetired = false ∧
       imgReason ((im true).chip 0).windowImage ((im true).chip 0).hif.bmFloor [2] ≠ 0 ∧
       ((im false).chip 0).flag F.MEM_GSTAT_WIPE_DONE = false ∧ ((im true).chip 0).flag F.MEM_GSTAT_WIPE_DONE = true) := by
  refine ⟨?_, ?_, ?_, ?_, ?_, ?_, ?_, ?_, ?_, ?_, ?_, ?_, ?_, ?_, ?_⟩ <;> decide +kernel

theorem witness_ManagementMessages :
    let s := State.reset
    let ev : SensorEvent := ⟨13, 0, true, 13000⟩
    let sup := (up id).modTray fun t => { t with supplies := updAt t.supplies 7 fun _ => ⟨supOn, none, 0⟩ }
    let hi (v : Int) : Option (BitVec 32) := some (BitVec.ofInt 32 v)
    (s.tray.hears .uart = false ∧ s.tray.hears (.smbus 0x48) = true) ∧
    ((0#8).toNat = 0 ∧ (255#8).toNat = 255 ∧ 1 ≤ (1#8).toNat ∧ (254#8).toNat ≤ 254 ∧ 32 < (33#8).toNat ∧ (32#8).toNat ≤ 32 ∧ 16 ≤ (16#8).toNat ∧
      (15#8).toNat < 16 ∧ 2 ≤ (2#8).toNat) ∧
    (s.tray.power = .powered ∧ (bup fun t => { t with power := .held }).tray.power ≠ .powered ∧ (bup fun t => { t with power := .held }).tray.hears (.smbus 0x48) = true) ∧
    (chipsOf (0#8).toNat = [] ∧ chipsOf (8#8).toNat = [3] ∧ ((upAt 3 id).chip 3).inReset = false ∧ s.tray.now < (BitVec.ofNat 64 (2 ^ 64 - 1)).toNat) ∧
    (2047 < (2048#16).toNat ∧ (2047#16).toNat ≤ 2047) ∧
    (4 ≤ (4#8).toNat ∧ (3#8).toNat < 4 ∧ (1#8).toNat < 2 ∧ 128 ≤ (128#8).toNat ∧ (127#8).toNat < 128 ∧ ((upAt 3 id).chip (Fin.ofNat 4 3)).pwr < 2 ∧
      sup.tray.supplies[2 * 3 + 1]? = some ⟨supOn, none, 0⟩ ∧ sup.tray.hears (.smbus 0x48) = true) ∧
    (2 ^ 13 ≤ (8192#16).toNat ∧ (8191#16).toNat < 2 ^ 13) ∧
    (s.tray.recovery = false ∧ (bup fun t => { t with recovery := true }).tray.recovery = true ∧ (bup fun t => { t with recovery := true }).tray.lcs ≠ 4 ∧
      (bup fun t => { t with recovery := true }).tray.hears (.smbus 0x48) = true) ∧
    ((s.sensor (33#16).toNat).isSome = true ∧ s.sensor (34#16).toNat = none ∧ s.sensor (0#16).toNat = none) ∧
    ((s.sensor 13).isSome = true ∧ s.tray.warnOk 13 0 (hi 13000) = true ∧ s.tray.warnOk 13 3 none = true ∧ s.tray.warnOk 13 0 (hi 20000000) = false) ∧
    (s.tray.events = [] ∧ (bup fun t => { t with events := [ev] }).tray.events = [ev]) ∧
    (s.tray.stageErr (bnat false) = some feSelf ∧ s.tray.stageErr (bnat true) = none ∧ ([0#8] : List Byte) ≠ [] ∧ ([0#8] : List Byte).length ≤ 16 * MiB) ∧
    (s.tray.hears (.smbus 0x49) = false ∧ (bup fun t => { t with straps := { t.straps with smbAddr := 3 } }).tray.hears (.smbus 0x4B) = true ∧
      (bup fun t => { t with present := true }).tray.hears .uart = true) ∧
    (2 ≤ ((upAt 3 fun ch => ch.wr F.PWR_STATE_STATE 2).chip (Fin.ofNat 4 3)).pwr ∧ s.tray.supplies[2 * 3 + 1]?.map (·.st) ≠ some supOn) := by
  refine ⟨?_, ?_, ?_, ?_, ?_, ?_, ?_, ?_, ?_, ?_, ?_, ?_, ?_, ?_⟩ <;> decide +kernel

theorem witness_BupinWatchAndDebug :
    let s := State.reset
    let tr (f : Tray → Tray) := (bup f).tray
    let dbg (o h : Bool) := upAt 3 fun ch => { ch.setFlag F.PWR_BUP_DEBUG_OPEN o with fab := { ch.fab with steward := { ch.fab.steward with halted := h } } }
    let trial := bup fun t => { t with banks := [⟨4, 0, 0, 0, []⟩, ⟨3, 1, 1, 0, []⟩] }
    ((tr fun t => { t with power := .off }).power = .off ∧ s.tray.power ≠ .off ∧ s.tray.fanLow = false ∧ s.tray.power = .powered) ∧
    ((tr fun t => { t with straps := { t.straps with varAc := true } }).straps.varAc = true ∧ s.tray.straps.varAc = false) ∧
    (∀ d : ChipId, ((allUp id).chip d).sensed = true ∧ sgn 16 (((allUp id).chip d).rd F.PWR_TJ_TJ) ≤ 960) ∧
    ((tr fun t => { t with fanLow := true }).fanLow = true ∧ 1000 ≤ (tr fun t => { t with rpm := 1000 }).rpm ∧ (tr fun t => { t with rpm := 999 }).rpm < 1000) ∧
    ((s.modTray fun t => t.logGen 10 0xFF (toLe 4 0)).tray.trial = none ∧ (trial.modTray fun t => t.logGen 10 0xFF (toLe 4 0)).tray.trial.isSome = true) ∧
    (s.tray.hears (.smbus 0x48) = true ∧ 4 ≤ (4#8).toNat ∧ (3#8).toNat = (3 : ChipId).val) ∧
    ((s.chip 3).hif.state = .reset ∧ ((dbg false false).chip 3).flag F.PWR_BUP_DEBUG_OPEN = false ∧
      2 ≤ ((upAt 3 fun ch => ch.wr F.PWR_STATE_STATE 2).chip 3).pwr) ∧
    (∀ h : Bool, ((dbg true h).chip 3).hif.state ≠ .reset ∧ ((dbg true h).chip 3).pwr < 2 ∧ ((dbg true h).chip 3).flag F.PWR_BUP_DEBUG_OPEN = true ∧
      ((dbg true h).chip 3).fab.steward.halted = h) ∧
    ((s.chip 3).dbgQword (BitVec.ofNat 64 crBase).toNat = true ∧ (s.chip 3).dbgQword (0#64).toNat = true ∧ (7#64).toNat % 8 ≠ 0) ∧
    ((tr fun t => { t with recovery := true }).power = .powered ∧ (trial.modTray fun t => { t with power := .held }).tray.trial.isSome = true ∧
      (trial.modTray fun t => { t with power := .held }).tray.power ≠ .powered) ∧
    (let hid := upAt 3 fun ch => { ch with pixelTap := false }
     let pool := (hid.chip 3).wr F.AUD_CFG_POOL 1
     pool.tapHides pool.audBase = true ∧ pool.dbgQword pool.audBase = true ∧ (hid.chip 3).tapHides 0 = false ∧ (dbg true true |>.chip 3).dbgQword (regBase + 0x1000) = false ∧
       spansIn (regBase + 0x1000) 8 regBase 0x1000000 = true ∧ spansIn (regBase + 0x1000) 8 romBase 0x10000 = false ∧
       (regBase + 0x1000) % 8 = 0 ∧ devWord (devBase + 0x20) = true ∧ (dbg true true |>.chip 3).dbgQword (devBase + 0x20) = false) := by
  refine ⟨?_, ?_, ?_, ?_, ?_, ?_, ?_, ?_, ?_, ?_, ?_⟩ <;> decide +kernel

/-! ### Witnesses: invariants -/

/-- The state that a step answers. -/
def after (s : State) : State := match step s with
  | .next t => t
  | _ => s

/-- Bank B is on trial with SVN 1, and all chips are READY. -/
def trial1 : State := { allUp (fun ch => ch.wr F.HIF_STATUS_MODE 1) with
  tray := { Tray.reset with banks := [⟨4, 0, 0, 0, []⟩, ⟨3, 1, 1, 0, []⟩], readied := [0, 1, 2, 3] }, pending := [.trialSuccess] }

theorem witness_FloorRisesOnlyBySuccessfulTrials :
    step trial1 = .next (after trial1) ∧ (after trial1).tray.floor ≠ trial1.tray.floor ∧ trial1.pending = [.trialSuccess] ∧ trial1.tray.trial = some 1 ∧ trial1.tray.power = .powered ∧
      trial1.tray.readied.length = 4 ∧ ∀ c : ChipId, (trial1.chip c).halted = false := by
  refine ⟨rfl, ?_, ?_, ?_, ?_, ?_, ?_⟩ <;> decide +kernel

/-- A change from BLANK to DEVELOP is under way, and its reset comes next. -/
def life1 : State := { (bup fun t => { t with lcsTarget := some 1 }) with pending := [.lifecycleReset] }

theorem witness_LifeCycleFollowsItsTable :
    life1.LifeCycleInv ∧ step life1 = .next (after life1) ∧ (after life1).tray.lcs ≠ life1.tray.lcs ∧ (bup fun t => { t with lcs := 4 }).LifeCycleInv ∧
      (bup fun t => { t with lcs := 4 }).tray.lcs = 4 := by
  refine ⟨⟨?_, ?_, ?_, ?_⟩, rfl, by decide +kernel, ⟨?_, ?_, ?_, ?_⟩, rfl⟩ <;> intro a <;> simp [life1, bup, State.modTray, State.reset, Tray.reset, lifeCycleTable] <;>
    omega

theorem witness_CountersNeverFall :
    let s : State := { State.reset with pending := [.secureLogRead (.smbus 0x48) []] }
    step s = .next (after s) ∧ s.pending = [.secureLogRead (.smbus 0x48) []] := ⟨rfl, rfl⟩

theorem witness_CommandsStayOnTheirChip :
    homeOf (.dispatchFiring 3 11) = some 3 ∧ exec (.dispatchFiring 3 11) State.reset = .next State.reset ∧ (State.reset.chip 3).hif.state = .reset ∧
      Awake (upAt 3 id) 3 := by
  refine ⟨rfl, rfl, rfl, by decide +kernel⟩

theorem witness_DramLineReadsBack :
    let s := up fun ch => (((ch.wr F.MEM_USABLE_BYTES 0x1C0000000).wr (F.MEM_RANK_STATE 0) rkActive).wr (F.MEM_RANK_SUBST 0) 0).setClk 0 true
    let ch := s.chip 0
    let r : DramReq := ⟨.write 0 (zeros 64) false, false, false, ch.now⟩
    Awake s 0 ∧ ch.memRuns = true ∧ 64 * (0#28).toNat < ch.usable ∧ ch.mc.failed = [] ∧ ch.lineChan 0 = 0 ∧ ch.clkRuns 0 = true ∧
      (ch.xing crDomain 256).st = .run ∧ (ch.xing crDomain 256).held = [] ∧ (ch.xing crDomain 256).wait = [] ∧ ch.dramRoom 0 r = true ∧
      ch.server (ch.lineAt 0).1 (ch.lineAt 0).2 = some 0 ∧ ch.wrq 0 = [] := by
  refine ⟨?_, ?_, ?_, ?_, ?_, ?_, ?_, ?_, ?_, ?_, ?_, ?_⟩ <;> decide +kernel

/-! The statements about ALU and VEC have no hypothesis but that the chip runs; `witness_any_operands` puts any operands in the ports. -/

theorem witness_AluArithmeticResults : Live (pe id) 0 := by decide +kernel
theorem witness_AluLogicAndShiftResults : Live (pe id) 0 := by decide +kernel
theorem witness_AluComparisonAndCountResults : Live (pe id) 0 := by decide +kernel
theorem witness_VecLaneResults : Live (pe id) 0 := by decide +kernel
theorem witness_VecMaskAndReductionResults : Live (pe id) 0 := by decide +kernel

/-- RATE 30 with timecode 0, a count of a day and one frame, and RATE 0 and 101 outside the range. -/
theorem witness_TimecodeResults :
    let s (r a b : Nat) := pe fun k => ((k.setQ (portCode 7 0) (BitVec.ofNat 64 a)).setQ (portCode 7 1) (BitVec.ofNat 64 b)).setQ (portCode 7 2) (BitVec.ofNat 64 r)
    let rate (r : Nat) := ((s r 0 0).portOf 0 pe0 (portCode 7 2)).toNat % 256
    Live (s 30 0 0) 0 ∧ rate 1 = 1 ∧ rate 100 = 100 ∧ rate 0 = 0 ∧ rate 101 = 101 ∧
      ((s 30 0 2592001).portOf 0 pe0 (portCode 7 0)).toNat = 0 ∧ ((s 30 0 2592001).portOf 0 pe0 (portCode 7 1)).toNat = 2592001 ∧
      2592001 ≤ 0 + 2 * (86400 * 30) ∧ 0 + (2 - 1) * (86400 * 30) < 2592001 := by decide +kernel

end Sys2Proof.Tests
end

section
/-! SUPPORT. The unit MUL (R348): what its four commands answer on a chip that acts, the exact meaning of the two result words of
each operation, and the proof of the statement about them. -/

namespace Sys2Proof.Machine

open Sys2Proof

/-! ### What a command of MUL answers -/

/-- The answer of a command of MUL that delivers `r` into RLO and RHI, and changes nothing else. -/
def mulAnswer (s : State) (c : ChipId) (k : CoreId) (r : Qword × Qword) : Res :=
  .next (s.withCore c k fun x => (x.setQ (portCode 3 3) r.1).setQ (portCode 3 4) r.2)

theorem onCore_runMul_live {s : State} {c : ChipId} (h : Live s c) (k : CoreId) (f : Qword → Qword → Qword × Qword) :
    onCore s c k (·.runMul f) = mulAnswer s c k (f (s.portOf c k (portCode 3 0)) (s.portOf c k (portCode 3 1))) :=
  onCore_live h k (·.runMul f)

theorem exec_mul_live {s : State} {c : ChipId} (h : Live s c) (k : CoreId) :
    exec (.mul c k) s = mulAnswer s c k (mulMul (s.portOf c k (portCode 3 0)) (s.portOf c k (portCode 3 1))) :=
  onCore_runMul_live h k mulMul

theorem exec_mulu_live {s : State} {c : ChipId} (h : Live s c) (k : CoreId) :
    exec (.mulu c k) s = mulAnswer s c k (mulMulu (s.portOf c k (portCode 3 0)) (s.portOf c k (portCode 3 1))) :=
  onCore_runMul_live h k mulMulu

theorem exec_div_live {s : State} {c : ChipId} (h : Live s c) (k : CoreId) :
    exec (.div c k) s = mulAnswer s c k (mulDiv (s.portOf c k (portCode 3 0)) (s.portOf c k (portCode 3 1))) :=
  onCore_runMul_live h k mulDiv

theorem exec_divu_live {s : State} {c : ChipId} (h : Live s c) (k : CoreId) :
    exec (.divu c k) s = mulAnswer s c k (mulDivu (s.portOf c k (portCode 3 0)) (s.portOf c k (portCode 3 1))) :=
  onCore_runMul_live h k mulDivu

/-! ### Products -/

theorem prodParts_fst_toNat (x : Int) : ((prodParts x).1.toNat : Int) = x % 2 ^ 64 := by
  rw [prodParts, BitVec.toNat_ofInt]
  omega

/-- The two words hold a number of the range of signed 128-bit words exactly, the high word read as signed. -/
theorem prodParts_toInt (x : Int) (hlo : -2 ^ 127 ≤ x) (hhi : x < 2 ^ 127) :
    (prodParts x).2.toInt * 2 ^ 64 + (prodParts x).1.toNat = x := by
  have high : (prodParts x).2.toInt = x / 2 ^ 64 := BitVec.toInt_ofInt_eq_self (by decide) (by omega) (by omega)
  rw [high, prodParts_fst_toNat, Int.ediv_mul_add_emod]

/-- They hold a number of the range of unsigned 128-bit words exactly, the high word read as unsigned. -/
theorem prodParts_toNat (x : Nat) (h : x < 2 ^ 128) : (prodParts x).2.toNat * 2 ^ 64 + (prodParts x).1.toNat = x := by
  have low := prodParts_fst_toNat x
  have high : ((prodParts x).2.toNat : Int) = x / 2 ^ 64 := by
    rw [prodParts, BitVec.toNat_ofInt]
    omega
  omega

theorem mulMul_toInt (a b : Qword) : (mulMul a b).2.toInt * 2 ^ 64 + (mulMul a b).1.toNat = a.toInt * b.toInt :=
  prodParts_toInt _ (Int.le_trans (by decide) BitVec.le_toInt_mul_toInt) (Int.lt_of_le_of_lt BitVec.toInt_mul_toInt_le (by decide))

theorem mulMulu_toNat (a b : Qword) : (mulMulu a b).2.toNat * 2 ^ 64 + (mulMulu a b).1.toNat = a.toNat * b.toNat :=
  prodParts_toNat _ (Nat.lt_of_lt_of_eq (Nat.mul_lt_mul'' a.isLt b.isLt) (by decide))

/-! ### Signed division -/

theorem mulDiv_zero (a : Qword) : mulDiv a 0 = (0xFFFFFFFFFFFFFFFF, a) := rfl

/-- DIV is the truncating division of bit vectors; the quotient that no word holds, of −2⁶³ by −1, wraps. -/
theorem mulDiv_of_ne_zero {a b : Qword} (hb : b ≠ 0) : mulDiv a b = (a.sdiv b, a.srem b) := by
  have quot : BitVec.ofInt 64 (a.toInt.tdiv b.toInt) = a.sdiv b :=
    BitVec.eq_of_toInt_eq (by rw [BitVec.toInt_ofInt, BitVec.toInt_sdiv])
  rw [mulDiv, if_neg hb, quot, ← BitVec.toInt_srem, BitVec.ofInt_toInt]

theorem sdiv_mul_add_srem_toInt {a b : Qword} (h : ¬ (a.toInt = -2 ^ 63 ∧ b.toInt = -1)) :
    (a.sdiv b).toInt * b.toInt + (a.srem b).toInt = a.toInt := by
  have fits : a ≠ BitVec.intMin 64 ∨ b ≠ -1#64 := by
    rw [← Classical.not_and_iff_not_or_not]
    rintro ⟨rfl, rfl⟩
    exact h (by decide)
  rw [BitVec.toInt_sdiv_of_ne_or_ne a b fits, BitVec.toInt_srem, Int.tdiv_mul_add_tmod]

theorem srem_natAbs_lt (a : Qword) {b : Qword} (hb : b ≠ 0) : (a.srem b).toInt.natAbs < b.toInt.natAbs := by
  have hb' : b.toInt ≠ 0 := fun h => hb (BitVec.eq_of_toInt_eq h)
  rw [BitVec.toInt_srem, Int.natAbs_tmod]
  exact Nat.mod_lt _ (Int.natAbs_pos.mpr hb')

theorem srem_sign (a b : Qword) : a.srem b = 0 ∨ ((a.srem b).toInt < 0 ↔ a.toInt < 0) := by
  have sign := Int.sign_tmod a.toInt b.toInt
  rw [← BitVec.toInt_srem] at sign
  split at sign
  · exact .inl (BitVec.eq_of_toInt_eq (Int.sign_eq_zero_iff_zero.mp sign))
  · right
    rw [← Int.sign_eq_neg_one_iff_neg, sign, Int.sign_eq_neg_one_iff_neg]

theorem mulDiv_overflow {a b : Qword} (ha : a.toInt = -2 ^ 63) (hb : b.toInt = -1) :
    mulDiv a b = (BitVec.ofInt 64 (-2 ^ 63), 0) := by
  obtain rfl : a = BitVec.ofInt 64 (-2 ^ 63) := BitVec.eq_of_toInt_eq (by rw [ha]; decide)
  obtain rfl : b = -1 := BitVec.eq_of_toInt_eq (by rw [hb]; decide)
  decide

/-! ### Unsigned division -/

theorem mulDivu_zero (a : Qword) : mulDivu a 0 = (0xFFFFFFFFFFFFFFFF, a) := rfl

theorem mulDivu_of_ne_zero {a b : Qword} (hb : b ≠ 0) : mulDivu a b = (a / b, a % b) := by
  rw [mulDivu, if_neg hb, BitVec.udiv_def, BitVec.umod_def]

theorem udiv_mul_add_umod_toNat (a b : Qword) : (a / b).toNat * b.toNat + (a % b).toNat = a.toNat := by
  rw [BitVec.toNat_udiv, BitVec.toNat_umod, Nat.div_add_mod']

theorem umod_toNat_lt (a : Qword) {b : Qword} (hb : b ≠ 0) : (a % b).toNat < b.toNat :=
  BitVec.umod_lt a ((BitVec.pos_iff_ne_zero b).mpr hb)

/-! ### The statement -/

/-- Settles O8: MUL, MULU, DIV and DIVU on every pair of operands (R348). -/
theorem mulResults : Obligations.MulResults := by
  intro s c k live a b gives
  have mul : exec (.mul c k) s = mulAnswer s c k (mulMul a b) := exec_mul_live live k
  have mulu : exec (.mulu c k) s = mulAnswer s c k (mulMulu a b) := exec_mulu_live live k
  have div : exec (.div c k) s = mulAnswer s c k (mulDiv a b) := exec_div_live live k
  have divu : exec (.divu c k) s = mulAnswer s c k (mulDivu a b) := exec_divu_live live k
  refine ⟨⟨_, _, mulMul_toInt a b, mul⟩, ⟨_, _, mulMulu_toNat a b, mulu⟩, fun hb fits => ?_, fun ha hb => ?_, fun hb => ?_,
    fun hb => ?_⟩
  · rw [mulDiv_of_ne_zero hb] at div
    exact ⟨_, _, sdiv_mul_add_srem_toInt fits, srem_natAbs_lt a hb, srem_sign a b, div⟩
  · rw [mulDiv_overflow ha hb] at div
    exact div
  · rw [mulDivu_of_ne_zero hb] at divu
    exact ⟨_, _, udiv_mul_add_umod_toNat a b, umod_toNat_lt a hb, divu⟩
  · rw [hb, mulDiv_zero] at div
    rw [hb, mulDivu_zero] at divu
    exact ⟨div, divu⟩

end Sys2Proof.Machine
end

section
/-! SUPPORT. Commands that answer a next state with the queue and the records of `Tray.trust` as they were: all but those that start
the tray cold, hand over or complete a critical command, give one its effect, or end a trial with success. -/

namespace Sys2Proof.Machine

open Sys2Proof

/-! ### Quiet answers put together -/

theorem quiet_next_iff {s t : State} : Quiet s (.next t) ↔ t.pending = s.pending ∧ t.tray.trust = s.tray.trust := by
  constructor
  · rintro ⟨u, hu, hp, ht⟩
    cases hu
    exact ⟨hp, ht⟩
  · rintro ⟨hp, ht⟩
    exact quiet_next hp ht

theorem quiet_self (s : State) : Quiet s (.next s) := quiet_next rfl rfl

theorem quiet_trans {s t : State} {r : Res} (h : Quiet s (.next t)) (g : Quiet t r) : Quiet s r := by
  obtain ⟨hp, ht⟩ := quiet_next_iff.mp h
  obtain ⟨u, hr, gp, gt⟩ := g
  exact ⟨u, hr, gp.trans hp, gt.trans ht⟩

theorem quiet_ite {s t u : State} {p : Prop} [Decidable p] (h : Quiet s (.next t)) (g : Quiet s (.next u)) :
    Quiet s (.next (if p then t else u)) := by
  split
  · exact h
  · exact g

theorem quiet_when {s t : State} {p : Prop} [Decidable p] (h : Quiet s (.next t)) : Quiet s (.next (if p then t else s)) :=
  quiet_ite h (quiet_self s)

theorem quiet_unless {s t : State} {p : Prop} [Decidable p] (h : Quiet s (.next t)) : Quiet s (.next (if p then s else t)) :=
  quiet_ite (quiet_self s) h

theorem quiet_foldl {β : Type} {f : State → β → State} (h : ∀ s b, Quiet s (.next (f s b))) (l : List β) (s : State) :
    Quiet s (.next (l.foldl f s)) := by
  induction l generalizing s with
  | nil => exact quiet_self s
  | cons b l ih => exact quiet_trans (h s b) (ih (f s b))

theorem quiet_modTray {s t : State} {f : Tray → Tray} (hf : ∀ x, (f x).trust = x.trust) (h : Quiet s (.next t)) :
    Quiet s (.next (t.modTray f)) :=
  quiet_trans h (quiet_next rfl (hf t.tray))

theorem quiet_modChip (s : State) (c : ChipId) (f : Chip → Chip) : Quiet s (.next (s.modChip c f)) := quiet_onHeld s c f

theorem quiet_modAll (s : State) (f : ChipId → Chip → Chip) : Quiet s (.next (s.modAll f)) := quiet_next rfl rfl

theorem quiet_mirror (s : State) : Quiet s (.next s.mirror) := quiet_next (mirror_pending s) (congrArg _ (mirror_tray s))

theorem quiet_setChip (s : State) (c : ChipId) (x : Chip) : Quiet s (.next (s.setChip c x)) := quiet_next (by simp) (by simp)

theorem quiet_supplySync {s t : State} (h : Quiet s (.next t)) : Quiet s (.next t.supplySync) :=
  quiet_trans h (quiet_next (supplySync_pending _) (supplySync_trust _))

theorem quiet_answer {s t : State} (tr : Transport) (code st : Nat) (h : Quiet s (.next t)) :
    Quiet s (.next (t.answer tr code st)) :=
  quiet_trans h (quiet_next (answer_pending ..) (answer_trust ..))

theorem quiet_debugAnswer {s t : State} (tr : Transport) (st v : Nat) (h : Quiet s (.next t)) :
    Quiet s (.next (t.debugAnswer tr st v)) :=
  quiet_trans h (quiet_next (debugAnswer_pending ..) (debugAnswer_trust ..))

/-! ### Shapes of commands -/

theorem quiet_sysCmd (s : State) (c : ChipId) (f : Chip → Chip) : Quiet s (sysCmd s c f) := quiet_coreAct ..

theorem quiet_heard {s : State} {tr : Transport} {f : State → State} (h : ∀ u, Quiet u (.next (f u))) : Quiet s (onMgmt s tr f) :=
  quiet_when (h s)

theorem quiet_onDebug {s : State} {tr : Transport} {chip : Byte} {f : ChipId → State → State} (h : ∀ c u, Quiet u (.next (f c u))) :
    Quiet s (onDebug s tr chip f) :=
  quiet_heard fun u => quiet_ite (quiet_next rfl rfl) (quiet_ite (quiet_next rfl rfl) (h _ u))

theorem quiet_withChips {s : State} {tr : Transport} {code : Nat} {chips : Byte} {f : State → List ChipId → State}
    (h : ∀ u cs, Quiet u (.next (f u cs))) : Quiet s (withChips s tr code chips f) :=
  quiet_heard fun u => quiet_ite (quiet_next rfl rfl) (h u _)

/-! ### Power, reset and Doze -/

theorem quiet_warmReset (s : State) (c : ChipId) (cause : Nat) : Quiet s (.next (s.warmReset c cause)) :=
  quiet_next (warmReset_pending ..) (warmReset_trust ..)

theorem quiet_powerFault (mv : BitVec 16) (s : State) : Quiet s (execPowerFault mv s) := by
  have resets := quiet_foldl (fun u c => quiet_warmReset u c rstBupin) chipIds s
  exact quiet_when (quiet_supplySync (quiet_modTray (fun _ => rfl) resets))

theorem quiet_supplyTrip (n : Fin 13) (s : State) : Quiet s (execSupplyTrip n s) := by
  refine quiet_modTray (fun t => ?_) (quiet_self s)
  split <;> rfl

theorem quiet_perstAssert (c : ChipId) (s : State) : Quiet s (execPerstAssert c s) := quiet_next (by simp) (by simp)

theorem quiet_chipResetRelease (c : ChipId) (bad : List (Fin 32)) (s : State) : Quiet s (execChipResetRelease c bad s) :=
  quiet_when (quiet_next (by simp) (by simp))

theorem quiet_firmwareReady (c : ChipId) (s : State) : Quiet s (execFirmwareReady c s) := quiet_when (quiet_next (by simp) (by simp))

theorem quiet_romFallback (c : ChipId) (s : State) : Quiet s (execRomFallback c s) := quiet_when (quiet_next (by simp) (by simp))

theorem quiet_vcoreLow (c : ChipId) (mv : BitVec 10) (s : State) : Quiet s (execVcoreLow c mv s) :=
  quiet_when (quiet_next (by simp) (by simp))

theorem quiet_configRequest (c : ChipId) (wr : Bool) (off : BitVec 12) (be : BitVec 4) (v : Dword) (s : State) :
    Quiet s (execConfigRequest c wr off be v s) := by
  unfold execConfigRequest
  extract_lets ch o
  split
  · exact quiet_self s
  split
  · exact quiet_modChip ..
  split
  · exact quiet_trans (quiet_modChip s c _) (quiet_when (quiet_warmReset ..))
  · exact quiet_modChip ..

theorem quiet_powerReq (c : ChipId) (n : Fin 128) (s : State) : Quiet s (execPowerReq c n s) := by
  unfold execPowerReq
  extract_lets ch
  split
  · exact quiet_self s
  split
  · exact quiet_self s
  · next d _ =>
    refine quiet_trans (quiet_setChip s c (ch.startDesc n.val d.idx)) ?_
    split
    · exact quiet_modChip ..
    split
    · exact quiet_modChip ..
    · exact quiet_next (by simp) (by simp)

theorem quiet_dozeCommit (c : ChipId) (s : State) : Quiet s (execDozeCommit c s) := by
  unfold execDozeCommit
  dsimp only
  split
  · exact quiet_self s
  split
  · exact quiet_next (by simp) (by simp)
  · exact quiet_self s

theorem quiet_wake (s : State) (cs : List ChipId) (code : Nat) : Quiet s (.next (s.wake cs code)) :=
  quiet_next (wake_pending ..) (congrArg _ (wake_tray ..))

theorem quiet_porchWake (s : State) : Quiet s (execPorchWake s) := by
  refine quiet_when ?_
  extract_lets dozed t u
  have woken : Quiet s (.next u) := quiet_trans (quiet_modChip s 0 _) (quiet_wake t chipIds 1)
  exact quiet_trans woken (quiet_when (quiet_modTray pulseWake_trust (quiet_self u)))

theorem quiet_bupinTimerWake (c : ChipId) (s : State) : Quiet s (execBupinTimerWake c s) :=
  quiet_when (quiet_next (by simp) (by simp))

theorem quiet_wakeComplete (c : ChipId) (s : State) : Quiet s (execWakeComplete c s) := quiet_when (quiet_next (by simp) (by simp))

theorem quiet_hostRefclkLoss (c : ChipId) (s : State) : Quiet s (execHostRefclkLoss c s) :=
  quiet_unless (quiet_next (by simp) (by simp))

theorem quiet_faultEvent (c : ChipId) (ext : Option FaultIn) (s : State) : Quiet s (execFaultEvent c ext s) :=
  quiet_unless (quiet_next (by simp) (by simp))

/-! ### Firmware update -/

theorem quiet_fwuWriteComplete (c : ChipId) (res : ReadResult) (flash : Bool) (s : State) :
    Quiet s (execFwuWriteComplete c res flash s) := by
  unfold execFwuWriteComplete
  split
  · refine quiet_unless (quiet_trans (quiet_modChip s c fun ch => (ch.dropReads .container).readAer res) ?_)
    dsimp only
    split
    · exact quiet_next (by simp) (by simp)
    · exact quiet_trans (quiet_modTray (fun _ => rfl) (quiet_self _)) (quiet_modChip ..)
  · exact quiet_self s

theorem quiet_fwuVerifyComplete (s : State) : Quiet s (execFwuVerifyComplete s) := by
  unfold execFwuVerifyComplete
  split
  · refine quiet_unless ?_
    extract_lets r u
    have staged : Quiet s (.next u) :=
      quiet_ite (quiet_modTray (fun _ => rfl) (quiet_self s)) (quiet_modTray stageFail_trust (quiet_self s))
    refine quiet_trans staged ?_
    split
    · exact quiet_trans (quiet_mirror u) (quiet_modChip ..)
    · exact quiet_modTray (fun _ => emit_trust ..) (quiet_mirror u)
  · exact quiet_self s

theorem quiet_bootVerifyComplete (c : ChipId) (s : State) : Quiet s (execBootVerifyComplete c s) := by
  refine quiet_unless (quiet_ite (quiet_modChip ..) (quiet_unless ?_))
  exact quiet_next (by simp) (by simp)

/-- Each use of the read that timed out changes its chip alone, but for that of a container. -/
theorem quiet_completionTimeout (c : ChipId) (tag : BitVec 8) (s : State) : Quiet s (execCompletionTimeout c tag s) := by
  unfold execCompletionTimeout
  split
  · exact quiet_self s
  · next r ch _ =>
    refine quiet_trans (quiet_setChip s c ch) ?_
    dsimp only
    split
    case h_3 => exact quiet_onChip ..
    case h_7 => exact quiet_fwuWriteComplete ..
    all_goals exact quiet_modChip ..

/-! ### Sensors, fans and pins of the Bupin -/

theorem quiet_sensorSample (mv power rpm plate : BitVec 16) (s : State) : Quiet s (execSensorSample mv power rpm plate s) := by
  refine quiet_unless ?_
  extract_lets u
  have sampled : Quiet s (.next u) := by
    refine quiet_modTray (fun t => ?_) (quiet_self s)
    simp only [alertPin_trust, sensorNote_trust]
    rfl
  have steady : Quiet u (.next (u.modTray fun t => { t with fanLow := false })) := quiet_modTray (fun _ => rfl) (quiet_self u)
  exact quiet_trans sampled (quiet_when (quiet_trans steady (quiet_modAll ..)))

theorem quiet_thermalPolicyTick (s : State) : Quiet s (execThermalPolicyTick s) :=
  quiet_when (quiet_foldl (fun u c => quiet_next (thermChip_pending u c) (thermChip_trust u c)) chipIds s)

theorem quiet_fanUpdate (s : State) : Quiet s (execFanUpdate s) := by
  refine quiet_modTray (fun t => ?_) (quiet_self s)
  dsimp only
  split <;> rfl

theorem quiet_fanLow (s : State) : Quiet s (execFanLow s) := by
  refine quiet_unless ?_
  extract_lets u
  have logged : Quiet s (.next u) := quiet_modTray (fun _ => rfl) (quiet_self s)
  exact quiet_trans logged (quiet_modAll ..)

theorem quiet_svPresentChange (p : PinEvent) (s : State) : Quiet s (execSvPresentChange p s) := by
  cases p with
  | svPresent low => exact quiet_next rfl rfl
  | straps pins => exact quiet_next rfl rfl

/-! ### Messages to the Bupin -/

theorem quiet_getSensorReading (tr : Transport) (id : BitVec 16) (s : State) : Quiet s (execGetSensorReading tr id s) :=
  quiet_heard fun _ => quiet_next rfl rfl

theorem quiet_setSensorThresholds (tr : Transport) (id : BitVec 16) (upper lower : Option (BitVec 32)) (s : State) :
    Quiet s (execSetSensorThresholds tr id upper lower s) :=
  quiet_heard fun _ => quiet_ite (quiet_next rfl rfl) (quiet_ite (quiet_next rfl (by simp)) (quiet_next rfl rfl))

theorem quiet_setEventReceiver (tr : Transport) (eid : Byte) (s : State) : Quiet s (execSetEventReceiver tr eid s) := by
  refine quiet_heard fun u => quiet_modTray (fun t => ?_) (quiet_self u)
  split
  · exact alertPin_trust ..
  · rfl

theorem quiet_pollForPlatformEventMessage (tr : Transport) (s : State) : Quiet s (execPollForPlatformEventMessage tr s) := by
  refine quiet_heard fun u => quiet_modTray (fun t => ?_) (quiet_self u)
  split
  · rfl
  · exact alertPin_trust ..

theorem quiet_setEndpointId (tr : Transport) (eid : Byte) (s : State) : Quiet s (execSetEndpointId tr eid s) :=
  quiet_heard fun _ => quiet_ite (quiet_next rfl rfl) (quiet_next rfl rfl)

theorem quiet_identity (tr : Transport) (s : State) : Quiet s (execIdentity tr s) := quiet_heard fun _ => quiet_next rfl rfl

theorem quiet_logRead (tr : Transport) (index : Dword) (count : Byte) (s : State) : Quiet s (execLogRead tr index count s) :=
  quiet_heard fun _ => quiet_ite (quiet_next rfl rfl) (quiet_next rfl rfl)

theorem quiet_cci (tr : Transport) (chip port addr wlen rlen : Byte) (data : List Byte) (answer : Option (List Byte)) (s : State) :
    Quiet s (execCci tr chip port addr wlen rlen data answer s) := by
  refine quiet_heard fun u => quiet_ite (quiet_answer _ _ _ (quiet_self u)) (quiet_ite (quiet_answer _ _ _ (quiet_self u)) ?_)
  have sent := quiet_modTray (fun t => emit_trust t (.cci chip.toNat port.toNat addr.toNat data)) (quiet_self u)
  cases answer with
  | none => exact quiet_answer _ _ _ sent
  | some bs => exact quiet_modTray (fun _ => reply_trust ..) sent

theorem quiet_supply (tr : Transport) (mask : BitVec 16) (on : Byte) (s : State) : Quiet s (execSupply tr mask on s) :=
  quiet_heard fun u => quiet_ite (quiet_next rfl rfl)
    (quiet_answer _ _ _ (quiet_supplySync (quiet_modTray (fun _ => rfl) (quiet_self u))))

theorem quiet_image (tr : Transport) (off : Dword) (final : Byte) (data : List Byte) (s : State) :
    Quiet s (execImage tr off final data s) := by
  refine quiet_heard fun u => quiet_ite (quiet_next rfl rfl) (quiet_ite (quiet_next rfl rfl) (quiet_ite ?_ ?_))
  · exact quiet_answer _ _ _ (quiet_modTray (fun _ => rfl) (quiet_self u))
  · refine quiet_trans (quiet_modTray (fun _ => rfl) (quiet_self u)) (quiet_ite (quiet_answer _ _ _ ?_) (quiet_next rfl rfl))
    exact quiet_next rfl (romWrite_trust ..)

theorem quiet_pldmFirmwareUpdate (tr : Transport) (bank : Bool) (data : List Byte) (flash : Bool) (s : State) :
    Quiet s (execPldmFirmwareUpdate tr bank data flash s) := by
  refine quiet_heard fun u => ?_
  extract_lets b fail
  have failed : ∀ x e, Quiet x (.next (fail x e)) := fun _ _ => quiet_next rfl rfl
  split
  · exact failed u _
  · refine quiet_ite (failed u _) ?_
    refine quiet_trans (quiet_modTray (fun t => stage_trust t b none (isUart tr)) (quiet_self u)) (quiet_ite (quiet_next rfl rfl) ?_)
    have ended := quiet_modTray stageFail_trust (quiet_self (u.modTray fun t => t.stage b none (isUart tr)))
    exact quiet_trans (quiet_trans ended (quiet_mirror _)) (failed _ _)

theorem quiet_bupinDozeRequest (tr : Transport) (chips : Byte) (s : State) : Quiet s (execBupinDozeRequest tr chips s) :=
  quiet_withChips fun u cs => quiet_ite (quiet_answer _ _ _ (quiet_foldl (fun _ _ => quiet_next (by simp) (by simp)) cs u))
    (quiet_next rfl rfl)

theorem quiet_powerWakeRequest (tr : Transport) (chips : Byte) (s : State) : Quiet s (execPowerWakeRequest tr chips s) :=
  quiet_withChips fun _ _ => quiet_next (by simp) (by simp)

theorem quiet_bupinChipReset (tr : Transport) (chips : Byte) (s : State) : Quiet s (execBupinChipReset tr chips s) :=
  quiet_withChips fun u cs => quiet_answer _ _ _ (quiet_foldl (fun v c => quiet_warmReset v c rstBupin) cs u)

theorem quiet_timer (tr : Transport) (chips : Byte) (wakeAt : Qword) (s : State) : Quiet s (execTimer tr chips wakeAt s) :=
  quiet_withChips fun u cs => quiet_answer _ _ _ (quiet_foldl (fun v c => quiet_unless (quiet_ite
    (quiet_next (timerFires_pending v c) (timerFires_trust v c)) (quiet_modChip ..))) cs u)

theorem quiet_pace (tr : Transport) (chips : Byte) (demand : BitVec 16) (s : State) : Quiet s (execPace tr chips demand s) :=
  quiet_withChips fun _ _ => quiet_ite (quiet_next rfl rfl) (quiet_next (by simp) (by simp))

theorem quiet_activateFirmware (tr : Transport) (s : State) : Quiet s (execActivateFirmware tr s) :=
  quiet_heard fun _ => quiet_next rfl rfl

/-! ### DEBUG messages -/

theorem quiet_debugHalt (t : Transport) (chip : Byte) (s : State) : Quiet s (execDebugHalt t chip s) :=
  quiet_onDebug fun _ _ => quiet_debugAnswer _ _ _ (quiet_modChip ..)

theorem quiet_debugStep (t : Transport) (chip : Byte) (s : State) : Quiet s (execDebugStep t chip s) :=
  quiet_onDebug fun _ _ => quiet_ite (quiet_next (by simp) (by simp)) (quiet_next rfl rfl)

theorem quiet_debugResume (t : Transport) (chip : Byte) (s : State) : Quiet s (execDebugResume t chip s) :=
  quiet_onDebug fun _ _ => quiet_debugAnswer _ _ _ (quiet_modChip ..)

theorem quiet_debugRead (t : Transport) (chip : Byte) (addr : Qword) (s : State) : Quiet s (execDebugRead t chip addr s) :=
  quiet_onDebug fun _ _ => quiet_ite (quiet_next rfl rfl) (quiet_ite (quiet_debugAnswer _ _ _ (quiet_setChip ..)) (quiet_next rfl rfl))

theorem quiet_debugWrite (t : Transport) (chip : Byte) (addr value : Qword) (s : State) :
    Quiet s (execDebugWrite t chip addr value s) :=
  quiet_onDebug fun _ _ => quiet_ite (quiet_debugAnswer _ _ _ (quiet_modChip ..)) (quiet_ite (quiet_debugAnswer _ _ _ (quiet_modChip ..))
    (quiet_ite (quiet_next (by simp) (by simp)) (quiet_next rfl rfl)))

/-! ### Every command -/

/-- The commands that may change a record of `Tray.trust`. -/
def changesTrust : Instr → Bool
  | .powerValid .. | .powerRestore .. | .lifecycleReset .. | .activationPowerCycle .. | .trialFailure .. | .bupinWatchdog ..
  | .trayPowerCycle .. | .critical .. | .secureLogRead .. | .criticalComplete .. | .lifecycle .. | .fwActivate ..
  | .motionEnable .. | .debugUnlock .. | .pixelTap .. | .cfgCommit .. | .cfgOpen .. | .keyRotate .. | .trialSuccess .. => true
  | _ => false

/-- Every other command is quiet, by the shape of its meaning. -/
theorem exec_quiet (i : Instr) (s : State) (h : changesTrust i = false) : Quiet s (exec i s) := by
  cases i with
  | powerValid | powerRestore | lifecycleReset | activationPowerCycle | trialFailure | bupinWatchdog | trayPowerCycle | critical
  | secureLogRead | criticalComplete | lifecycle | fwActivate | motionEnable | debugUnlock | pixelTap | cfgCommit | cfgOpen
  | keyRotate | trialSuccess => cases h
  | lowDwordRead | hwmClr | boardSyncEdge | syncLossTimeout | senFsyncEdge | pmStateChange | unexpectedCompletion
  | imageWindowWrite | debugWindowAccess | ptmDialogue | ptmGo | ptmResponse | ptmTimeout | ptmDisable | lnrEnable | lnMessage
  | hostAtomicop | latchWindowAccess | ringEnable | ringDisable | ringDrained | ringReset | doorbellPoll | doorbellFallbackPoll
  | doorbellSweep | dozeDoorbellPoll | doorbellReadComplete | descriptorFetchComplete | nop | graphLoad | graphImageReadComplete
  | graphUnload | graphAbortComplete | streamOpen | streamClose | streamSet | flowBind | epochSet | faultAck | buf
  | payloadReadComplete | irqModerationTimer | outputOverflowTimeout | recordCqWrite | csiEnable | pictureHoldExpiry
  | porchSample | porchFrame | porchHandover | innDupPop | activityExchange | deadlockAbort | tensorFreeze | dramRead | dramWrite
  | dramReadModifyWrite | refresh | mr4Poll | retrainDue | retrainForced | scrubDeadline | channelPowerDown | telemetrySample
  | dramWipeComplete | clockWake | crossingStallTimeout | crossingReset | crossingResync | paceMeasure | paceLoopStep | trailIdle
  | trailBadFlit | flitTransmit | replayTimeout | linksBroadcast | timeExchangeSend | laneFailure | trailRetrain | trainComplete
  | trainAttemptTimeout | fcuAckGo | faultLiveClear | watchdogKick | stewardWatchdogExpiry | lockstepSelftest | faultInject
  | dozeDeferTimeout | bootMailboxGo | csiClockLaneStop | csiClockLaneStart | pcieLinkUp | lnrDisable | malformedTlp
  | receiverError | slotAnnounce | slotAbort | slotActivity | trailMotion | trailTokens | trailClose | trailRead | trailWrite
  | trailAtomic | trailData | wack | ares | trailTime | links | mark | markAck | sleep => exact quiet_onChip ..
  | kennelRead | kennelMark | kennelRewind | kennelRelease | kennelForcedRelease | csiFrameStart | csiFrameEnd | csiPictureLine
  | csiOtherPacket | csiHeaderEccError | csiFrameTimeout | decodeTakeAu | decodePrescanComplete | decodeAuComplete
  | sessionDrained | mosaicSubmit | cropJob | mosaicJobComplete | tdmFrame | pdmSample | audioBlockComplete | audioRelease
  | featureSubmit | featureJob | featureJobComplete | innTokenGrant | annexSpillResume | annexTargetedRecall
  | annexBackgroundRecall | reservePromote | dispatchFiring | loopCloseNotice | deadlockDetect | lingerScan | guestbookSubmit
  | guestbookDeadline | verdict | verdictHoldExpiry | speculationDozeKill | firingDrainComplete | d2a | a2d | tensorSubmit
  | matmul | conv | dwconv | pool | tensorCommandComplete | tensorDebugAccWrite | queueSlotStore | queueSkipTimeout | sieveJob
  | sieveJobComplete | track | fuse | houndJobComplete | occ | occGenerationComplete | occupancyStale | aim
  | setpointBatchHandoff | segmentEnd | stopAtRest | healthSample | linkDownRetry | copy | atomic | dmaJobComplete | adaptStart
  | adaptCancel | adaptJobRun | audioBlockStale | add | sub | opAnd | opOr | xor | andn | shl | shr | sar | rol | eq | ne | lt
  | ltu | le | leu | min | max | minu | maxu | clz | ctz | popc | sext | zext | adds | subs | pack | mul | mulu | div | divu
  | vadd | vsub | vadds | vsubs | vmul | vmulq | vmacq | vmin | vmax | vand | vor | vxor | vshl | vshr | vsar | vcmpeq | vcmplt
  | vsel | vperm | vrsum | vrmax | vrmin | vhadd | vhmul | vhfma | vcvthi | vcvtih | vext | vins | badd | bsub | dadj | b2d | d2b
  | tcadd | tcsub | tcdiff | tc2f | f2tc | ns2tc | stopLoopSample | setpointFrameQueue | setpointTxLate | canFrameTxComplete
  | canTimeFrame | status | canFrameIgnored | statusTimeout | sentryTimerRearm | sentryTimerExpiry | motionDisableTimeout
  | takeover | busOff | busOffRecovery => exact quiet_onIsland ..
  | stewardInterrupt | swap | cas | fadd | fand | opFor | fmax | fmin | decpos | load | emit | emitTagged | loopStart | loopBreak
  | jump | call | ret | opEnd => unfold exec; exact quiet_coreAct ..
  | bundleIssue | lsuLoad | lsuStore => unfold exec; exact quiet_coreCmd ..
  | eret | wfi => unfold exec; exact quiet_sysCmd ..
  | registerWrite | lowDwordWrite | highDwordWrite => exact quiet_regAccess ..
  | patrolScrubRead | migrationGo | migrationCopyLine | rankCeClear => exact quiet_onMem ..
  | hostRefclkReturn | adaptBatchDeliver | adaptCreditPoll | adaptLinkRetry => exact quiet_modChip ..
  | powerLoss | vcoreRecover => exact quiet_when (quiet_next rfl rfl)
  | flr => exact quiet_warmReset ..
  | hostWake => exact quiet_wake ..
  | fwuGo => exact quiet_next (fwuGo_pending ..) (fwuGo_trust ..)
  | fwuAbort => exact quiet_next (fwuAbort_pending ..) (fwuAbort_trust ..)
  | uartBadFrame => exact quiet_self s
  | chipTripRelease => exact quiet_next (modBup_pending ..) (modBup_trust ..)
  | bupinDozeRequest => exact quiet_bupinDozeRequest ..
  | powerWakeRequest => exact quiet_powerWakeRequest ..
  | bupinChipReset => exact quiet_bupinChipReset ..
  | timer => exact quiet_timer ..
  | pace => exact quiet_pace ..
  | setEndpointId => exact quiet_setEndpointId ..
  | identity => exact quiet_identity ..
  | logRead => exact quiet_logRead ..
  | cci => exact quiet_cci ..
  | supply => exact quiet_supply ..
  | image => exact quiet_image ..
  | getSensorReading => exact quiet_getSensorReading ..
  | setSensorThresholds => exact quiet_setSensorThresholds ..
  | setEventReceiver => exact quiet_setEventReceiver ..
  | pollForPlatformEventMessage => exact quiet_pollForPlatformEventMessage ..
  | pldmFirmwareUpdate => exact quiet_pldmFirmwareUpdate ..
  | activateFirmware => exact quiet_activateFirmware ..
  | debugHalt => exact quiet_debugHalt ..
  | debugStep => exact quiet_debugStep ..
  | debugResume => exact quiet_debugResume ..
  | debugRead => exact quiet_debugRead ..
  | debugWrite => exact quiet_debugWrite ..
  | powerFault => exact quiet_powerFault ..
  | supplyTrip => exact quiet_supplyTrip ..
  | perstAssert => exact quiet_perstAssert ..
  | chipResetRelease => exact quiet_chipResetRelease ..
  | firmwareReady => exact quiet_firmwareReady ..
  | romFallback => exact quiet_romFallback ..
  | configRequest => exact quiet_configRequest ..
  | completionTimeout => exact quiet_completionTimeout ..
  | powerReq => exact quiet_powerReq ..
  | vcoreLow => exact quiet_vcoreLow ..
  | faultEvent => exact quiet_faultEvent ..
  | dozeCommit => exact quiet_dozeCommit ..
  | porchWake => exact quiet_porchWake ..
  | bupinTimerWake => exact quiet_bupinTimerWake ..
  | wakeComplete => exact quiet_wakeComplete ..
  | fwuWriteComplete => exact quiet_fwuWriteComplete ..
  | fwuVerifyComplete => exact quiet_fwuVerifyComplete ..
  | bootVerifyComplete => exact quiet_bootVerifyComplete ..
  | sensorSample => exact quiet_sensorSample ..
  | thermalPolicyTick => exact quiet_thermalPolicyTick ..
  | fanUpdate => exact quiet_fanUpdate ..
  | fanLow => exact quiet_fanLow ..
  | hostRefclkLoss => exact quiet_hostRefclkLoss ..
  | svPresentChange => exact quiet_svPresentChange ..

end Sys2Proof.Machine
end

section
/-! SUPPORT. The SVN floor of R654: the commands that are not quiet keep it too, but for the success of a trial, which raises it to the
SVN of the bank on trial. -/

namespace Sys2Proof.Machine

open Sys2Proof

/-! ### The SVN floor -/

/-- The command answers a next state with the same SVN floor. -/
def KeepsFloor (s : State) (r : Res) : Prop := ∃ t, r = .next t ∧ t.tray.floor = s.tray.floor

theorem keepsFloor_next {s t : State} (h : t.tray.floor = s.tray.floor) : KeepsFloor s (.next t) := ⟨t, rfl, h⟩

theorem floor_of_trust {t u : Tray} (h : t.trust = u.trust) : t.floor = u.floor := congrArg Prod.fst h

theorem Quiet.keepsFloor {s : State} {r : Res} (h : Quiet s r) : KeepsFloor s r :=
  let ⟨t, hr, _, ht⟩ := h
  ⟨t, hr, floor_of_trust ht⟩

theorem coldStart_floor (s : State) (now0 cause : Nat) (force : Bool) : (s.coldStart now0 cause force).tray.floor = s.tray.floor :=
  congrArg Prod.fst (coldStart_trust s now0 cause force)

/-- A cold start that happens or not, of a state with its floor as it was. -/
theorem keepsFloor_coldStart {s u : State} {p : Prop} [Decidable p] (now0 cause : Nat) (force : Bool)
    (h : u.tray.floor = s.tray.floor) : KeepsFloor s (.next (if p then u.coldStart now0 cause force else s)) := by
  apply keepsFloor_next
  split
  · exact (coldStart_floor ..).trans h
  · rfl

/-! ### Cold starts -/

theorem keepsFloor_lifecycleReset (s : State) : KeepsFloor s (execLifecycleReset s) := by
  apply keepsFloor_next
  split
  · next x _ =>
    split
    · rfl
    · rw [coldStart_floor]
      show (Tray.erase _ x).floor = _
      unfold Tray.erase
      dsimp only
      repeat' split
      all_goals rfl
  · rfl

theorem keepsFloor_trialFailure (bad : Bool) (s : State) : KeepsFloor s (execTrialFailure bad s) := by
  apply keepsFloor_next
  split
  · split
    · rfl
    · rw [coldStart_floor]
      split
      · exact floor_of_trust (nextBank_trust ..)
      · rfl
  · rfl

theorem keepsFloor_bupinWatchdog (pc : Dword) (s : State) : KeepsFloor s (execBupinWatchdog pc s) := by
  apply keepsFloor_next
  split
  · rfl
  · dsimp only
    split
    · rw [coldStart_floor]; rfl
    · rfl

theorem keepsFloor_trayPowerCycle (tr : Transport) (chips : Byte) (s : State) : KeepsFloor s (execTrayPowerCycle tr chips s) := by
  apply keepsFloor_next
  split
  · dsimp only
    repeat' split
    · rfl
    · rw [coldStart_floor]; rfl
    · rfl
  · rfl

/-! ### Hand-over of critical commands -/

theorem handOver_floor (t : Tray) (src : Nat) (ring : Option (Nat × Nat)) (secure uart : Bool) (b : List Byte) :
    (t.handOver src ring secure uart b).floor = t.floor := rfl

theorem handChip_floor (s : State) (c : ChipId) (n : Nat) (d : Desc) (r : ReadResult) :
    (s.handChip c n d r).tray.floor = s.tray.floor := by
  unfold State.handChip
  dsimp only
  split
  · rw [modChip_tray, modChip_tray]
  · rw [mirror_tray, modTray_tray, handOver_floor, modChip_tray]

theorem serveCritical_floor (s : State) (r : ReadResult) : (s.serveCritical r).tray.floor = s.tray.floor := by
  unfold State.serveCritical
  dsimp only
  split
  · rw [modChip_tray]
  split
  · rfl
  split
  · rfl
  split
  · split
    · exact handChip_floor ..
    · rfl
  · split
    · rfl
    · rfl

theorem keepsFloor_critical (msg : Option (Transport × List Byte)) (res : ReadResult) (s : State) :
    KeepsFloor s (execCritical msg res s) := by
  apply keepsFloor_next
  rw [serveCritical_floor]
  repeat' split
  all_goals rfl

theorem keepsFloor_secureLogRead (tr : Transport) (block : List Byte) (s : State) : KeepsFloor s (execSecureLogRead tr block s) := by
  unfold execSecureLogRead
  split
  · apply keepsFloor_next
    split
    · rw [serveCritical_floor]; rfl
    · rfl
  · exact keepsFloor_next rfl

theorem keepsFloor_criticalComplete (s : State) : KeepsFloor s (execCriticalComplete s) := by
  unfold execCriticalComplete
  split
  · exact keepsFloor_next rfl
  · next a _ =>
    split
    · exact keepsFloor_next rfl
    · extract_lets s1 s2
      have h : s2.tray.floor = s.tray.floor := by
        dsimp only [s1, s2, mirror_tray, modTray_tray]
        repeat' split
        all_goals rfl
      apply keepsFloor_next
      repeat' split
      · rw [modChip_tray, h]
      · exact (floor_of_trust (authReply_trust ..)).trans h
      · exact h

/-! ### Effects of accepted commands -/

theorem takeAccepted_floor {s t : State} {p : List Byte → Bool} {b : List Byte} (h : s.takeAccepted p = some (b, t)) :
    t.tray.floor = s.tray.floor := by
  unfold State.takeAccepted at h
  split at h <;> cases h
  rfl

theorem keepsFloor_effect (s : State) (p : List Byte → Bool) (f : State → List Byte → State)
    (h : ∀ t b, (f t b).tray.floor = t.tray.floor) : KeepsFloor s (s.effect p f) := by
  apply keepsFloor_next
  split
  · next ht => exact (h ..).trans (takeAccepted_floor ht)
  · rfl

theorem keepsFloor_lifecycle (s : State) : KeepsFloor s (execLifecycle s) := by
  apply keepsFloor_effect
  intro t b
  dsimp only
  rw [modChip_tray, modAll_tray]
  rfl

theorem keepsFloor_fwActivate (s : State) : KeepsFloor s (execFwActivate s) := by
  apply keepsFloor_effect
  intro t b
  dsimp only
  have pended : ∀ n c, (Tray.floor { t.tray.pend n with cycleDue := c }) = t.tray.floor := fun n c => floor_of_trust (pend_trust t.tray n)
  repeat' split
  · rw [fwuAll_tray]
  · rw [coldStart_floor]; exact pended ..
  · exact pended ..

theorem keepsFloor_motionEnable (s : State) : KeepsFloor s (execMotionEnable s) := by
  apply keepsFloor_effect
  intro t b
  extract_lets heads e2 u e0
  have h : u.tray.floor = t.tray.floor := congrArg Tray.floor (modChip_tray t 0 _)
  split
  · rw [modChip_tray, h]
  · exact h

theorem keepsFloor_keyRotate (s : State) : KeepsFloor s (execKeyRotate s) := by
  apply keepsFloor_next
  split
  · next b t ht => exact (takeAccepted_floor ht : t.tray.floor = _)
  · rfl

theorem keepsFloor_debugUnlock (s : State) : KeepsFloor s (execDebugUnlock s) :=
  keepsFloor_effect _ _ _ fun t _ => (congrArg Tray.floor (eachChip_tray t _ _) :)

theorem keepsFloor_pixelTap (s : State) : KeepsFloor s (execPixelTap s) :=
  keepsFloor_effect _ _ _ fun _ _ => congrArg Tray.floor (eachChip_tray ..)

theorem keepsFloor_cfgCommit (written : Bool) (s : State) : KeepsFloor s (execCfgCommit written s) :=
  keepsFloor_effect _ _ _ fun _ _ => floor_of_trust (commit_trust ..)

theorem keepsFloor_cfgOpen (s : State) : KeepsFloor s (execCfgOpen s) := by
  apply keepsFloor_effect
  intro t b
  dsimp only
  split <;> rw [cfgResult_tray]
  rfl

/-! ### Steps -/

/-- Every command but TRIAL_SUCCESS keeps the floor. -/
theorem exec_keepsFloor (i : Instr) (s : State) (h : i ≠ .trialSuccess) : KeepsFloor s (exec i s) := by
  cases ht : changesTrust i with
  | false => exact (exec_quiet i s ht).keepsFloor
  | true =>
    cases i with
    | powerValid | powerRestore | activationPowerCycle => exact keepsFloor_coldStart _ _ _ rfl
    | lifecycleReset => exact keepsFloor_lifecycleReset s
    | trialFailure bad => exact keepsFloor_trialFailure bad s
    | bupinWatchdog pc => exact keepsFloor_bupinWatchdog pc s
    | trayPowerCycle tr chips => exact keepsFloor_trayPowerCycle tr chips s
    | critical msg res => exact keepsFloor_critical msg res s
    | secureLogRead tr block => exact keepsFloor_secureLogRead tr block s
    | criticalComplete => exact keepsFloor_criticalComplete s
    | lifecycle => exact keepsFloor_lifecycle s
    | fwActivate => exact keepsFloor_fwActivate s
    | motionEnable => exact keepsFloor_motionEnable s
    | keyRotate => exact keepsFloor_keyRotate s
    | debugUnlock => exact keepsFloor_debugUnlock s
    | pixelTap => exact keepsFloor_pixelTap s
    | cfgCommit written => exact keepsFloor_cfgCommit written s
    | cfgOpen => exact keepsFloor_cfgOpen s
    | trialSuccess => exact absurd rfl h
    | _ => cases ht

/-- The trial of bank `b` succeeds: 12 V is valid, every chip reached READY and none has halted (R656). -/
structure TrialPasses (s : State) (b : Nat) : Prop where
  trial : s.tray.trial = some b
  powered : s.tray.power = .powered
  ready : s.tray.readied.length = 4
  running : ∀ c : ChipId, (s.chip c).halted = false

theorem mem_chipIds (c : ChipId) : c ∈ chipIds := by
  obtain rfl | rfl | rfl | rfl := chipId_cases c <;> decide

theorem getElem?_updAt_ne {α : Type} (l : List α) (f : α → α) {i j : Nat} (h : j ≠ i) : (updAt l i f)[j]? = l[j]? := by
  induction l generalizing i j with
  | nil => rfl
  | cons x l ih =>
    cases i with
    | zero =>
      cases j with
      | zero => exact absurd rfl h
      | succ j => rfl
    | succ i =>
      cases j with
      | zero => rfl
      | succ j => exact ih fun e => h (congrArg _ e)

theorem bank_bankSt_ne (t : Tray) {i j : Nat} (st : Nat) (h : j ≠ i) : (t.bankSt i st).bank j = t.bank j :=
  congrArg (Option.getD · Bank.empty) (getElem?_updAt_ne t.banks _ h)

/-- R656: the floor becomes the larger of itself and the SVN of the bank on trial; the other bank's state does not matter. -/
theorem execTrialSuccess_floor {s : State} {b : Nat} (h : TrialPasses s b) :
    ∃ t, execTrialSuccess s = .next t ∧ t.tray.floor = max s.tray.floor (s.tray.bank b).svn := by
  have hc : s.tray.power = .powered ∧ s.tray.readied.length = 4 ∧ chipIds.all (fun c => !(s.chip c).halted) = true :=
    ⟨h.powered, h.ready, by simp [h.running]⟩
  refine ⟨_, rfl, ?_⟩
  rw [h.trial]
  dsimp only
  rw [if_pos hc, mirror_tray, floor_of_trust (writeMigrated_trust _), modTray_tray]
  split
  · exact congrArg (fun x : Bank => max s.tray.floor x.svn) (bank_bankSt_ne s.tray bkValid (by omega))
  · rfl

theorem execTrialSuccess_same {s : State} (h : ∀ b, ¬TrialPasses s b) : execTrialSuccess s = .next s := by
  unfold execTrialSuccess
  dsimp only
  split
  · next b hb =>
    rw [if_neg]
    rintro ⟨hp, hr, hc⟩
    exact h b ⟨hb, hp, hr, fun c => by simpa using List.all_eq_true.mp hc c (mem_chipIds c)⟩
  · rfl

theorem step_cons {s : State} {i : Instr} {rest : List Instr} (h : s.pending = i :: rest) :
    step s = exec i { s with pending := rest } := by
  unfold step
  rw [h]

theorem step_floor_of_trialPasses {s t : State} {rest : List Instr} {b : Nat} (hp : s.pending = .trialSuccess :: rest)
    (hb : TrialPasses s b) (h : step s = .next t) : t.tray.floor = max s.tray.floor (s.tray.bank b).svn := by
  obtain ⟨u, hu, hf⟩ := execTrialSuccess_floor (s := { s with pending := rest }) ⟨hb.trial, hb.powered, hb.ready, hb.running⟩
  have e : step s = .next u := (step_cons hp).trans hu
  rw [e] at h
  cases h
  exact hf

theorem step_floor_same {s t : State} (hn : ∀ rest b, s.pending = .trialSuccess :: rest → ¬TrialPasses s b)
    (h : step s = .next t) : t.tray.floor = s.tray.floor := by
  cases hp : s.pending with
  | nil =>
    have e : step s = .next s.idle := by unfold step; rw [hp]
    rw [e] at h
    cases h
    exact floor_of_trust (idle_trust s)
  | cons i rest =>
    rw [step_cons hp] at h
    by_cases hi : i = .trialSuccess
    · subst hi
      have e := execTrialSuccess_same (s := { s with pending := rest }) fun b hb =>
        hn rest b hp ⟨hb.trial, hb.powered, hb.ready, hb.running⟩
      cases e.symm.trans h
      rfl
    · obtain ⟨u, hu, hf⟩ := exec_keepsFloor i { s with pending := rest } hi
      cases hu.symm.trans h
      exact hf

/-! ### The statement -/

/-- Settles O54: only TRIAL_SUCCESS with a trial that passes touches the floor, and it takes a maximum (R654, R656). -/
theorem floorRisesOnlyBySuccessfulTrials : Obligations.FloorRisesOnlyBySuccessfulTrials := by
  refine ⟨rfl, fun s t h => ?_⟩
  by_cases hs : ∃ rest b, s.pending = .trialSuccess :: rest ∧ TrialPasses s b
  · obtain ⟨rest, b, hp, hb⟩ := hs
    have rise := step_floor_of_trialPasses hp hb h
    refine ⟨rise ▸ Nat.le_max_left .., fun _ => ⟨rest, b, hp, hb.trial, hb.ready, hb.running⟩, fun _ b' _ hb' _ _ _ => ?_⟩
    cases hb.trial.symm.trans hb'
    exact rise
  · have same := step_floor_same (fun rest b hp hb => hs ⟨rest, b, hp, hb⟩) h
    exact ⟨Nat.le_of_eq same.symm, fun hne => absurd same hne, fun rest b hp ht hw hr hc => absurd ⟨rest, b, hp, ht, hw, hr, hc⟩ hs⟩

end Sys2Proof.Machine
end

section
/-! SUPPORT. The frame of the commands of one chip, by the shape of their meanings, and the step that takes the front of the queue. -/

namespace Sys2Proof.Machine

open Sys2Proof

/-! ### Facts of the logic and of lists -/

theorem eq_beq_decide {α : Type} [BEq α] [LawfulBEq α] [DecidableEq α] (a b : α) : (a == b) = decide (a = b) := by
  by_cases h : a = b
  · rw [decide_eq_true h, beq_iff_eq.mpr h]
  · rw [decide_eq_false h, beq_eq_false_iff_ne.mpr h]

/-- A choice depends on its condition up to equivalence. -/
theorem ite_iff_congr {α : Type} {p q : Prop} [Decidable p] [Decidable q] {x y u v : α} (h : p ↔ q) (hx : x = u) (hy : y = v) :
    (if p then x else y) = if q then u else v := by
  by_cases holds : q
  · rw [if_pos holds, if_pos (h.mpr holds), hx]
  · rw [if_neg holds, if_neg fun hp => holds (h.mp hp), hy]

/-- A choice on either of two conditions asks one after the other. -/
theorem ite_or_else {α : Type} (p q : Prop) [Decidable p] [Decidable q] (x y : α) :
    (if p ∨ q then x else y) = if p then x else if q then x else y := by
  by_cases hp : p
  · rw [if_pos hp, if_pos (.inl hp)]
  · rw [if_neg hp]
    exact ite_iff_congr ⟨fun h => h.resolve_left hp, .inr⟩ rfl rfl

/-- Two steps that agree on the elements of a list fold it to the same value. -/
theorem foldl_congr_mem {α β : Type} (f g : α → β → α) (a : α) {l : List β} (h : ∀ a, ∀ b ∈ l, f a b = g a b) :
    l.foldl f a = l.foldl g a := by
  induction l generalizing a with
  | nil => rfl
  | cons b l ih =>
    rw [List.foldl_cons, List.foldl_cons, h a b (List.mem_cons_self ..)]
    exact ih _ fun a x hx => h a x (List.mem_cons_of_mem _ hx)

/-! ### The two shapes of commands of a chip -/

/-- Every command that `homeOf` places on a chip has one of the two shapes of commands of a chip. -/
theorem homeOf_stays (i : Instr) (s : State) (c : ChipId) (h : homeOf i = some c) : Stays s c (exec i s) := by
  cases i with
  | lowDwordRead | hwmClr | boardSyncEdge | syncLossTimeout | senFsyncEdge | pmStateChange | unexpectedCompletion
  | imageWindowWrite | debugWindowAccess | ptmDialogue | ptmGo | ptmResponse | ptmTimeout | ptmDisable | lnrEnable | lnMessage
  | hostAtomicop | latchWindowAccess | ringEnable | ringDisable | ringDrained | ringReset | doorbellPoll | doorbellFallbackPoll
  | doorbellSweep | dozeDoorbellPoll | doorbellReadComplete | descriptorFetchComplete | nop | graphLoad | graphImageReadComplete
  | graphUnload | graphAbortComplete | streamOpen | streamClose | streamSet | flowBind | epochSet | faultAck | buf
  | payloadReadComplete | irqModerationTimer | outputOverflowTimeout | recordCqWrite | csiEnable | pictureHoldExpiry
  | porchSample | porchFrame | porchHandover | innDupPop | activityExchange | deadlockAbort | tensorFreeze | dramWrite
  | refresh | mr4Poll | retrainDue | retrainForced | scrubDeadline | channelPowerDown | telemetrySample
  | dramWipeComplete | clockWake | crossingStallTimeout | crossingReset | crossingResync | paceMeasure | paceLoopStep | trailIdle
  | trailBadFlit | flitTransmit | replayTimeout | linksBroadcast | timeExchangeSend | laneFailure | trailRetrain | trainComplete
  | trainAttemptTimeout | fcuAckGo | faultLiveClear | watchdogKick | stewardWatchdogExpiry | lockstepSelftest | faultInject
  | dozeDeferTimeout | bootMailboxGo | csiClockLaneStop | csiClockLaneStart | pcieLinkUp | lnrDisable | malformedTlp
  | receiverError | slotAnnounce | slotAbort | slotActivity | trailMotion | trailTokens | trailClose | trailRead | trailWrite
  | trailAtomic | trailData | wack | ares | trailTime | links | mark | markAck | sleep =>
    cases h; exact stays_onChip _ _ _
  | kennelRead | kennelMark | kennelRewind | kennelRelease | kennelForcedRelease | csiFrameStart | csiFrameEnd | csiPictureLine
  | csiOtherPacket | csiHeaderEccError | csiFrameTimeout | decodeTakeAu | decodePrescanComplete | decodeAuComplete
  | sessionDrained | mosaicSubmit | cropJob | mosaicJobComplete | tdmFrame | pdmSample | audioBlockComplete | audioRelease
  | featureSubmit | featureJob | featureJobComplete | innTokenGrant | annexSpillResume | annexTargetedRecall
  | annexBackgroundRecall | reservePromote | dispatchFiring | loopCloseNotice | deadlockDetect | lingerScan | guestbookSubmit
  | guestbookDeadline | verdict | verdictHoldExpiry | speculationDozeKill | firingDrainComplete | d2a | a2d | tensorSubmit
  | matmul | conv | dwconv | pool | tensorCommandComplete | tensorDebugAccWrite | queueSlotStore | queueSkipTimeout | sieveJob
  | sieveJobComplete | track | fuse | houndJobComplete | occ | occGenerationComplete | occupancyStale | aim
  | setpointBatchHandoff | segmentEnd | stopAtRest | healthSample | linkDownRetry | copy | atomic | dmaJobComplete | adaptStart
  | adaptCancel | adaptJobRun | audioBlockStale | add | sub | opAnd | opOr | xor | andn | shl | shr | sar | rol | eq | ne | lt
  | ltu | le | leu | min | max | minu | maxu | clz | ctz | popc | sext | zext | adds | subs | pack | mul | mulu | div | divu
  | vadd | vsub | vadds | vsubs | vmul | vmulq | vmacq | vmin | vmax | vand | vor | vxor | vshl | vshr | vsar | vcmpeq | vcmplt
  | vsel | vperm | vrsum | vrmax | vrmin | vhadd | vhmul | vhfma | vcvthi | vcvtih | vext | vins | badd | bsub | dadj | b2d | d2b
  | tcadd | tcsub | tcdiff | tc2f | f2tc | ns2tc | stopLoopSample | setpointFrameQueue | setpointTxLate | canFrameTxComplete
  | canTimeFrame | status | canFrameIgnored | statusTimeout | sentryTimerRearm | sentryTimerExpiry | motionDisableTimeout
  | takeover | busOff | busOffRecovery => cases h; exact stays_onIsland _ _ _
  | _ => cases h

/-- Settles O59: a command of a chip changes that chip alone, and nothing while it is held in reset (R626). -/
theorem commandsStayOnTheirChip : Obligations.CommandsStayOnTheirChip := fun i s t c h => homeOf_stays i s c h t

/-- Settles O1: a step is defined as the meaning of the command at the front. -/
theorem stepRunsFrontCommand : Obligations.StepRunsFrontCommand := fun _ _ => rfl

end Sys2Proof.Machine
end

section
/-! SUPPORT. The command that the Bupin has in its 250 µs (R647): which bytes it has stays as it is in every command but a cold start,
a hand-over and a completion. Records.lean has the same for its reason. -/

namespace Sys2Proof.Machine

open Sys2Proof

/-- The bytes of the command in its 250 µs. -/
def Tray.authCmd (t : Tray) : Option (List Byte) := t.auth.map AuthRun.cmd

/-! ### Operations of the Bupin -/

@[simp] theorem logGen_authCmd (t : Tray) (code chip : Nat) (d : List Byte) : (t.logGen code chip d).authCmd = t.authCmd := rfl
@[simp] theorem emit_authCmd (t : Tray) (e : Emit) : (t.emit e).authCmd = t.authCmd := rfl
@[simp] theorem reply_authCmd (t : Tray) (u : Bool) (a b : Nat) (f : List Byte) : (t.reply u a b f).authCmd = t.authCmd := rfl
@[simp] theorem pulseWake_authCmd (t : Tray) : t.pulseWake.authCmd = t.authCmd := rfl

@[simp] theorem stageFail_authCmd (t : Tray) : t.stageFail.authCmd = t.authCmd := by
  unfold Tray.stageFail; split <;> rfl

@[simp] theorem stagingReset_authCmd (t : Tray) (c : ChipId) : (t.stagingReset c).authCmd = t.authCmd := by
  have ringless : (t.auth.map fun a => if a.src = c.val then { a with ring := none } else a).map AuthRun.cmd = t.authCmd := by
    rw [Option.map_map, Tray.authCmd]
    congr 1
    funext a
    dsimp only [Function.comp_apply]
    split <;> rfl
  unfold Tray.stagingReset
  dsimp only
  split
  · split <;> exact ringless
  · exact ringless

@[simp] theorem alertPin_authCmd (t old : Tray) : (t.alertPin old).authCmd = t.authCmd := by
  unfold Tray.alertPin; split <;> rfl

@[simp] theorem queueEvent_authCmd (t : Tray) (e : SensorEvent) : (t.queueEvent e).authCmd = t.authCmd := by
  unfold Tray.queueEvent; split <;> rfl

@[simp] theorem sensorNote_authCmd (t : Tray) (id : Nat) (v : Int) : (t.sensorNote id v).authCmd = t.authCmd := by
  unfold Tray.sensorNote
  apply foldl_keeps
  intro t p
  split
  · rfl
  · dsimp only
    split
    · rfl
    · rw [queueEvent_authCmd]; rfl

@[simp] theorem setWarn_authCmd (t : Tray) (id place : Nat) (v : Option (BitVec 32)) : (t.setWarn id place v).authCmd = t.authCmd := by
  unfold Tray.setWarn; split <;> rfl

@[simp] theorem tick_authCmd (t : Tray) : t.tick.authCmd = t.authCmd := by
  unfold Tray.tick
  extract_lets u
  split
  · split <;> rfl
  · rfl

/-! ### Operations of the whole tray -/

@[simp] theorem modBup_authCmd (s : State) (c : ChipId) (f : BupChip → BupChip) : (s.modBup c f).tray.authCmd = s.tray.authCmd := rfl
@[simp] theorem supplySync_authCmd (s : State) : s.supplySync.tray.authCmd = s.tray.authCmd := rfl
@[simp] theorem supplyFollow_authCmd (s : State) (c : ChipId) : (s.supplyFollow c).tray.authCmd = s.tray.authCmd := rfl
@[simp] theorem answer_authCmd (s : State) (tr : Transport) (a b : Nat) : (s.answer tr a b).tray.authCmd = s.tray.authCmd := rfl
@[simp] theorem debugAnswer_authCmd (s : State) (tr : Transport) (st v : Nat) : (s.debugAnswer tr st v).tray.authCmd = s.tray.authCmd := rfl

@[simp] theorem logRanks_authCmd (c : ChipId) (s t : State) : (logRanks c s t).tray.authCmd = t.tray.authCmd := by
  unfold logRanks; split <;> rfl

@[simp] theorem logHalt_authCmd (c : ChipId) (s t : State) : (logHalt c s t).tray.authCmd = t.tray.authCmd := by
  unfold logHalt; dsimp only; split <;> rfl

@[simp] theorem warmReset_authCmd (s : State) (c : ChipId) (cause : Nat) : (s.warmReset c cause).tray.authCmd = s.tray.authCmd := by
  unfold State.warmReset
  dsimp only
  repeat' split
  all_goals simp

@[simp] theorem writeMigrated_authCmd (s : State) : s.writeMigrated.tray.authCmd = s.tray.authCmd := by
  unfold State.writeMigrated
  dsimp only
  repeat' split
  all_goals rfl

@[simp] theorem readied_authCmd (s : State) (c : ChipId) : (s.readied c).tray.authCmd = s.tray.authCmd := by
  unfold State.readied
  extract_lets t s1 s2
  have noted : s1.tray.authCmd = s.tray.authCmd := by
    dsimp only [s1]
    split
    · exact (congrArg Tray.authCmd (modChip_tray s c fun ch => ch.raise 34 (source 280 3) t.owedVersion) :)
    · rfl
  have counted : s2.tray.authCmd = s.tray.authCmd := by
    rw [← noted]
    dsimp only [s2]
    rw [standby_tray]
    rfl
  split
  · rw [writeMigrated_authCmd, counted]
  · exact counted

@[simp] theorem timerFires_authCmd (s : State) (c : ChipId) : (s.timerFires c).tray.authCmd = s.tray.authCmd := by
  unfold State.timerFires; dsimp only; split <;> simp

@[simp] theorem fwuGo_authCmd (s : State) (c : ChipId) : (s.fwuGo c).tray.authCmd = s.tray.authCmd := by
  unfold State.fwuGo
  dsimp only
  repeat' split
  all_goals simp [Tray.authCmd, Tray.stage, Tray.setBank]

@[simp] theorem fwuAbort_authCmd (s : State) (c : ChipId) : (s.fwuAbort c).tray.authCmd = s.tray.authCmd := by
  unfold State.fwuAbort
  repeat' split
  all_goals simp

@[simp] theorem regTray_authCmd (s : State) (c : ChipId) (off v : Nat) : (s.regTray c off v).tray.authCmd = s.tray.authCmd := by
  unfold State.regTray
  dsimp only
  repeat' split
  all_goals first | rfl | simp

@[simp] theorem regWrite_authCmd (s : State) (c : ChipId) (r : Requester) (off v : Nat) :
    (s.regWrite c r off v).tray.authCmd = s.tray.authCmd := by
  simp [State.regWrite]

@[simp] theorem regDone_authCmd (c : ChipId) (r : RegReq) (s : State) : (regDone c r s).tray.authCmd = s.tray.authCmd := by
  unfold regDone; split <;> simp

@[simp] theorem thermChip_authCmd (s : State) (c : ChipId) : (s.thermChip c).tray.authCmd = s.tray.authCmd := by
  unfold State.thermChip
  dsimp only
  repeat' split
  all_goals simp

@[simp] theorem idle_authCmd (s : State) : s.idle.tray.authCmd = s.tray.authCmd := by
  unfold State.idle
  split
  · rfl
  · exact foldl_keeps (fun t : State => t.tray.authCmd) _ chipIds (fun t c => logRanks_authCmd c _ t) _ |>.trans (by simp)

/-! ### Every command -/

theorem foldl_authCmd {f : State → ChipId → State} (h : ∀ t c, (f t c).tray.authCmd = t.tray.authCmd) (s : State) (cs : List ChipId) :
    (cs.foldl f s).tray.authCmd = s.tray.authCmd :=
  foldl_keeps (fun t : State => t.tray.authCmd) f cs h s

/-- The command answers a next state with the same bytes in the check. -/
def KeepsCmd (s : State) (r : Res) : Prop := ∃ t, r = .next t ∧ t.tray.authCmd = s.tray.authCmd

theorem keepsCmd_next {s t : State} (h : t.tray.authCmd = s.tray.authCmd) : KeepsCmd s (.next t) := ⟨t, rfl, h⟩

theorem keepsCmd_self (s : State) : KeepsCmd s (.next s) := keepsCmd_next rfl

theorem keepsCmd_when {s t : State} {p : Prop} [Decidable p] (h : t.tray.authCmd = s.tray.authCmd) :
    KeepsCmd s (.next (if p then t else s)) := by
  apply keepsCmd_next
  split
  · exact h
  · rfl

theorem keepsCmd_unless {s t : State} {p : Prop} [Decidable p] (h : t.tray.authCmd = s.tray.authCmd) :
    KeepsCmd s (.next (if p then s else t)) := by
  apply keepsCmd_next
  split
  · rfl
  · exact h

theorem keepsCmd_modTray {s : State} {f : Tray → Tray} (h : ∀ t, (f t).authCmd = t.authCmd) : KeepsCmd s (.next (s.modTray f)) :=
  keepsCmd_next (h s.tray)

theorem keepsCmd_onChip (s : State) (c : ChipId) (f : Chip → Chip) : KeepsCmd s (onChip s c f) := keepsCmd_unless (by simp)

theorem keepsCmd_coreCmd (s : State) (c : ChipId) (k : CoreId) (f : Chip → Chip × RegReq) : KeepsCmd s (coreCmd s c k f) := by
  apply keepsCmd_next
  split
  · rfl
  · simp

theorem keepsCmd_coreAct (s : State) (c : ChipId) (k : CoreId) (f : Chip → Chip) : KeepsCmd s (coreAct s c k f) := keepsCmd_coreCmd ..

theorem keepsCmd_sysCmd (s : State) (c : ChipId) (f : Chip → Chip) : KeepsCmd s (sysCmd s c f) := keepsCmd_coreAct ..

theorem keepsCmd_onMem (s : State) (c : ChipId) (f : Chip → Chip) : KeepsCmd s (onMem s c f) := by
  apply keepsCmd_next
  split <;> simp

theorem keepsCmd_regAccess (c : ChipId) (r : Requester) (off be : Nat) (ep : Bool) (v : Nat) (s : State) :
    KeepsCmd s (regAccess c r off be ep v s) := by
  unfold regAccess
  dsimp only
  repeat' split
  all_goals exact keepsCmd_next (by simp)

theorem keepsCmd_onMgmt {s : State} {tr : Transport} {f : State → State} (h : ∀ u, (f u).tray.authCmd = u.tray.authCmd) :
    KeepsCmd s (onMgmt s tr f) := by
  apply keepsCmd_next
  split
  · exact h s
  · rfl

theorem keepsCmd_onDebug {s : State} {tr : Transport} {chip : Byte} {f : ChipId → State → State}
    (h : ∀ c u, (f c u).tray.authCmd = u.tray.authCmd) : KeepsCmd s (onDebug s tr chip f) := by
  refine keepsCmd_onMgmt fun u => ?_
  dsimp only
  split
  · rfl
  split
  · rfl
  · exact h _ u

theorem keepsCmd_withChips {s : State} {tr : Transport} {code : Nat} {chips : Byte} {f : State → List ChipId → State}
    (h : ∀ u cs, (f u cs).tray.authCmd = u.tray.authCmd) : KeepsCmd s (withChips s tr code chips f) := by
  refine keepsCmd_onMgmt fun u => ?_
  split
  · rfl
  · exact h u _

theorem homeOf_keepsCmd {i : Instr} {s : State} {c : ChipId} (h : homeOf i = some c) (q : changesTrust i = false) : KeepsCmd s (exec i s) := by
  obtain ⟨t, ht, -⟩ := exec_quiet i s q
  obtain ⟨⟨-, same, -⟩, -⟩ := homeOf_stays i s c h t ht
  exact ⟨t, ht, congrArg Tray.authCmd same⟩

theorem keepsCmd_fwuWriteComplete (c : ChipId) (res : ReadResult) (flash : Bool) (s : State) :
    KeepsCmd s (execFwuWriteComplete c res flash s) := by
  apply keepsCmd_next
  dsimp only
  repeat' split
  all_goals simp
  rfl

theorem keepsCmd_completionTimeout (c : ChipId) (tag : BitVec 8) (s : State) : KeepsCmd s (execCompletionTimeout c tag s) := by
  unfold execCompletionTimeout
  split
  · exact keepsCmd_self s
  · next r ch _ =>
    dsimp only
    split
    case h_3 k _ =>
      apply keepsCmd_next
      split <;> simp
    case h_7 =>
      obtain ⟨t, ht, same⟩ := keepsCmd_fwuWriteComplete c ⟨.timeout, false, []⟩ true (s.setChip c ch)
      exact ⟨t, ht, by rw [same, setChip_tray]⟩
    all_goals exact keepsCmd_next (by simp)

theorem keepsCmd_powerFault (mv : BitVec 16) (s : State) : KeepsCmd s (execPowerFault mv s) := by
  apply keepsCmd_when
  have resets := foldl_authCmd (fun t c => warmReset_authCmd t c rstBupin) s chipIds
  rw [supplySync_authCmd, modTray_tray, logGen_authCmd]
  exact resets

theorem keepsCmd_supplyTrip (n : Fin 13) (s : State) : KeepsCmd s (execSupplyTrip n s) :=
  keepsCmd_modTray fun t => by split <;> rfl

theorem keepsCmd_fanUpdate (s : State) : KeepsCmd s (execFanUpdate s) :=
  keepsCmd_modTray fun t => by dsimp only; split <;> rfl

theorem keepsCmd_porchWake (s : State) : KeepsCmd s (execPorchWake s) :=
  keepsCmd_when (by dsimp only; split <;> simp)

theorem keepsCmd_configRequest (c : ChipId) (wr : Bool) (off : BitVec 12) (be : BitVec 4) (v : Dword) (s : State) :
    KeepsCmd s (execConfigRequest c wr off be v s) := by
  unfold execConfigRequest
  dsimp only
  repeat' split
  all_goals exact keepsCmd_next (by simp)

theorem keepsCmd_powerReq (c : ChipId) (n : Fin 128) (s : State) : KeepsCmd s (execPowerReq c n s) := by
  unfold execPowerReq
  dsimp only
  repeat' split
  all_goals exact keepsCmd_next (by simp)

theorem keepsCmd_dozeCommit (c : ChipId) (s : State) : KeepsCmd s (execDozeCommit c s) := by
  unfold execDozeCommit
  dsimp only
  repeat' split
  all_goals exact keepsCmd_next (by simp)

theorem keepsCmd_fwuVerifyComplete (s : State) : KeepsCmd s (execFwuVerifyComplete s) := by
  apply keepsCmd_next
  dsimp only
  repeat' split
  all_goals simp
  all_goals rfl

theorem keepsCmd_bootVerifyComplete (c : ChipId) (s : State) : KeepsCmd s (execBootVerifyComplete c s) := by
  apply keepsCmd_next
  dsimp only
  repeat' split
  all_goals simp

theorem keepsCmd_sensorSample (mv power rpm plate : BitVec 16) (s : State) : KeepsCmd s (execSensorSample mv power rpm plate s) := by
  apply keepsCmd_unless
  extract_lets u
  have sampled : u.tray.authCmd = s.tray.authCmd := by
    simp only [u, modTray_tray, alertPin_authCmd, sensorNote_authCmd]
    rfl
  clear_value u
  split <;> exact sampled

/-! ### Messages to the Bupin -/

theorem keepsCmd_identity (tr : Transport) (s : State) : KeepsCmd s (execIdentity tr s) := keepsCmd_onMgmt fun _ => rfl

theorem keepsCmd_getSensorReading (tr : Transport) (id : BitVec 16) (s : State) : KeepsCmd s (execGetSensorReading tr id s) :=
  keepsCmd_onMgmt fun _ => rfl

theorem keepsCmd_activateFirmware (tr : Transport) (s : State) : KeepsCmd s (execActivateFirmware tr s) := keepsCmd_onMgmt fun _ => rfl

theorem keepsCmd_setEndpointId (tr : Transport) (eid : Byte) (s : State) : KeepsCmd s (execSetEndpointId tr eid s) :=
  keepsCmd_onMgmt fun _ => by split <;> rfl

theorem keepsCmd_logRead (tr : Transport) (index : Dword) (count : Byte) (s : State) : KeepsCmd s (execLogRead tr index count s) :=
  keepsCmd_onMgmt fun _ => by split <;> rfl

theorem keepsCmd_cci (tr : Transport) (chip port addr wlen rlen : Byte) (data : List Byte) (answer : Option (List Byte)) (s : State) :
    KeepsCmd s (execCci tr chip port addr wlen rlen data answer s) :=
  keepsCmd_onMgmt fun _ => by dsimp only; repeat' split <;> try rfl

theorem keepsCmd_supply (tr : Transport) (mask : BitVec 16) (on : Byte) (s : State) : KeepsCmd s (execSupply tr mask on s) :=
  keepsCmd_onMgmt fun _ => by split <;> rfl

theorem keepsCmd_image (tr : Transport) (off : Dword) (final : Byte) (data : List Byte) (s : State) :
    KeepsCmd s (execImage tr off final data s) :=
  keepsCmd_onMgmt fun _ => by dsimp only; repeat' split <;> try rfl

theorem keepsCmd_setSensorThresholds (tr : Transport) (id : BitVec 16) (upper lower : Option (BitVec 32)) (s : State) :
    KeepsCmd s (execSetSensorThresholds tr id upper lower s) :=
  keepsCmd_onMgmt fun _ => by dsimp only; repeat' split <;> simp

theorem keepsCmd_setEventReceiver (tr : Transport) (eid : Byte) (s : State) : KeepsCmd s (execSetEventReceiver tr eid s) :=
  keepsCmd_onMgmt fun _ => by
    rw [modTray_tray]
    split
    · exact alertPin_authCmd ..
    · rfl

theorem keepsCmd_pollForPlatformEventMessage (tr : Transport) (s : State) : KeepsCmd s (execPollForPlatformEventMessage tr s) :=
  keepsCmd_onMgmt fun _ => by
    rw [modTray_tray]
    split
    · rfl
    · exact alertPin_authCmd ..

theorem keepsCmd_pldmFirmwareUpdate (tr : Transport) (bank : Bool) (data : List Byte) (flash : Bool) (s : State) :
    KeepsCmd s (execPldmFirmwareUpdate tr bank data flash s) :=
  keepsCmd_onMgmt fun u => by
    dsimp only
    split
    · rfl
    split
    · rfl
    split
    · rfl
    · exact stageFail_authCmd ((u.tray).stage (bnat bank) none (isUart tr))

theorem keepsCmd_bupinDozeRequest (tr : Transport) (chips : Byte) (s : State) : KeepsCmd s (execBupinDozeRequest tr chips s) :=
  keepsCmd_withChips fun u cs => by
    split
    · exact foldl_authCmd (fun t c => congrArg Tray.authCmd (enterDoze_tray t c)) u cs
    · rfl

theorem keepsCmd_powerWakeRequest (tr : Transport) (chips : Byte) (s : State) : KeepsCmd s (execPowerWakeRequest tr chips s) :=
  keepsCmd_withChips fun u cs => by rw [answer_authCmd, wake_tray]

theorem keepsCmd_bupinChipReset (tr : Transport) (chips : Byte) (s : State) : KeepsCmd s (execBupinChipReset tr chips s) :=
  keepsCmd_withChips fun u cs => foldl_authCmd (fun t c => warmReset_authCmd t c rstBupin) u cs

theorem keepsCmd_timer (tr : Transport) (chips : Byte) (wakeAt : Qword) (s : State) : KeepsCmd s (execTimer tr chips wakeAt s) :=
  keepsCmd_withChips fun u cs => foldl_authCmd (fun t c => by repeat' split <;> simp) u cs

theorem keepsCmd_pace (tr : Transport) (chips : Byte) (demand : BitVec 16) (s : State) : KeepsCmd s (execPace tr chips demand s) :=
  keepsCmd_withChips fun _ _ => by split <;> simp

theorem keepsCmd_debugHalt (t : Transport) (chip : Byte) (s : State) : KeepsCmd s (execDebugHalt t chip s) :=
  keepsCmd_onDebug fun _ _ => by simp

theorem keepsCmd_debugResume (t : Transport) (chip : Byte) (s : State) : KeepsCmd s (execDebugResume t chip s) :=
  keepsCmd_onDebug fun _ _ => by simp

theorem keepsCmd_debugStep (t : Transport) (chip : Byte) (s : State) : KeepsCmd s (execDebugStep t chip s) :=
  keepsCmd_onDebug fun _ _ => by split <;> simp

theorem keepsCmd_debugRead (t : Transport) (chip : Byte) (addr : Qword) (s : State) : KeepsCmd s (execDebugRead t chip addr s) :=
  keepsCmd_onDebug fun _ _ => by
    dsimp only
    repeat' split
    all_goals simp

theorem keepsCmd_debugWrite (t : Transport) (chip : Byte) (addr value : Qword) (s : State) :
    KeepsCmd s (execDebugWrite t chip addr value s) :=
  keepsCmd_onDebug fun _ _ => by
    dsimp only
    repeat' split
    all_goals simp

/-! ### Every command -/

theorem exec_keepsCmd (i : Instr) (s : State) (h : changesTrust i = false) : KeepsCmd s (exec i s) := by
  cases hc : homeOf i with
  | some c => exact homeOf_keepsCmd hc h
  | none =>
    cases i with
    | registerWrite | lowDwordWrite | highDwordWrite => exact keepsCmd_regAccess ..
    | bundleIssue | lsuLoad | lsuStore => unfold exec; exact keepsCmd_coreCmd ..
    | stewardInterrupt | swap | cas | fadd | fand | opFor | fmax | fmin | decpos | load | emit
    | emitTagged | loopStart | loopBreak | jump | call | ret | opEnd => unfold exec; exact keepsCmd_coreAct ..
    | eret | wfi => unfold exec; exact keepsCmd_sysCmd ..
    | dramRead | dramReadModifyWrite => unfold exec; exact keepsCmd_onChip ..
    | patrolScrubRead | migrationGo | migrationCopyLine | rankCeClear => unfold exec; exact keepsCmd_onMem ..
    | perstAssert | flr | fwuGo | fwuAbort | adaptBatchDeliver | adaptCreditPoll | adaptLinkRetry | hostWake | hostRefclkReturn
    | chipTripRelease | uartBadFrame => exact keepsCmd_next (by simp)
    | chipResetRelease | firmwareReady | romFallback | bupinTimerWake | wakeComplete | vcoreLow => exact keepsCmd_when (by simp)
    | powerLoss | vcoreRecover => exact keepsCmd_when rfl
    | hostRefclkLoss | faultEvent => exact keepsCmd_unless (by simp)
    | fanLow => exact keepsCmd_unless rfl
    | thermalPolicyTick => exact keepsCmd_when (foldl_authCmd thermChip_authCmd s chipIds)
    | powerFault => exact keepsCmd_powerFault ..
    | supplyTrip => exact keepsCmd_supplyTrip ..
    | fanUpdate => exact keepsCmd_fanUpdate s
    | svPresentChange p => cases p <;> exact keepsCmd_next rfl
    | porchWake => exact keepsCmd_porchWake s
    | configRequest => exact keepsCmd_configRequest ..
    | powerReq => exact keepsCmd_powerReq ..
    | dozeCommit => exact keepsCmd_dozeCommit ..
    | completionTimeout => exact keepsCmd_completionTimeout ..
    | fwuWriteComplete => exact keepsCmd_fwuWriteComplete ..
    | fwuVerifyComplete => exact keepsCmd_fwuVerifyComplete s
    | bootVerifyComplete => exact keepsCmd_bootVerifyComplete ..
    | sensorSample => exact keepsCmd_sensorSample ..
    | identity => exact keepsCmd_identity ..
    | getSensorReading => exact keepsCmd_getSensorReading ..
    | activateFirmware => exact keepsCmd_activateFirmware ..
    | setEndpointId => exact keepsCmd_setEndpointId ..
    | logRead => exact keepsCmd_logRead ..
    | cci => exact keepsCmd_cci ..
    | supply => exact keepsCmd_supply ..
    | image => exact keepsCmd_image ..
    | setSensorThresholds => exact keepsCmd_setSensorThresholds ..
    | setEventReceiver => exact keepsCmd_setEventReceiver ..
    | pollForPlatformEventMessage => exact keepsCmd_pollForPlatformEventMessage ..
    | pldmFirmwareUpdate => exact keepsCmd_pldmFirmwareUpdate ..
    | bupinDozeRequest => exact keepsCmd_bupinDozeRequest ..
    | powerWakeRequest => exact keepsCmd_powerWakeRequest ..
    | bupinChipReset => exact keepsCmd_bupinChipReset ..
    | timer => exact keepsCmd_timer ..
    | pace => exact keepsCmd_pace ..
    | debugHalt => exact keepsCmd_debugHalt ..
    | debugResume => exact keepsCmd_debugResume ..
    | debugStep => exact keepsCmd_debugStep ..
    | debugRead => exact keepsCmd_debugRead ..
    | debugWrite => exact keepsCmd_debugWrite ..
    | powerValid | powerRestore | lifecycleReset | activationPowerCycle | trialFailure | bupinWatchdog | trayPowerCycle | critical
    | secureLogRead | criticalComplete | lifecycle | fwActivate | motionEnable | debugUnlock | pixelTap | cfgCommit | cfgOpen
    | keyRotate | trialSuccess => cases h
    | _ => cases hc

end Sys2Proof.Machine
end

section
/-! SUPPORT. What any command may do to the records of authentication and of the life cycle (R633 to R636, R645 to R649): one case for each
way they move, and the statements that follow from these cases alone. -/

namespace Sys2Proof.Machine

open Sys2Proof

/-! ### Ways the records move -/

/-- LAST, life-cycle state and accepted change, accepted commands, and of the command in its check what was found and its bytes. -/
def Tray.life (t : Tray) : List Nat × Nat × Option Nat × List (Nat × List Byte) × Option (Bool × Nat × List Byte) :=
  (t.last, t.lcs, t.lcsTarget, t.accepted, t.auth.map fun a => (a.secure, a.reason, a.cmd))

/-- The records move from those of `t` to those of `u`; only where `hands` holds may a command be handed over. -/
inductive LifeMove (hands : Prop) (t u : Tray) : Prop
  | drops (acc : List (Nat × List Byte)) (sub : acc ⊆ t.accepted) (h : u.life = Tray.life { t with accepted := acc })
  | directs (acc : List (Nat × List Byte)) (sub : acc ⊆ t.accepted) (a : Nat × List Byte) (ha : a ∈ t.accepted) (kind : cmdOf a.2 = 1)
      (h : u.life = Tray.life { t with accepted := acc, lcsTarget := some (lifeCycleTarget a.2) })
  | starts (h : u.life = Tray.life { t with lcsTarget := none, accepted := [], auth := none })
  | changes (x : Nat) (hx : t.lcsTarget = some x) (h : u.life = Tray.life { t with lcs := x, lcsTarget := none, accepted := [], auth := none })
  | hands (hh : hands) (src : Nat) (ring : Option (Nat × Nat)) (secure uart : Bool) (b : List Byte)
      (h : u.life = (t.handOver src ring secure uart b).life)
  | refuses (h : u.life = Tray.life { t with auth := none })
  | accepts (a : AuthRun) (ha : t.auth = some a) (ok : a.reason = 0) (plain : a.secure = false)
      (h : u.life = Tray.life { t with accepted := t.accepted ++ [(a.src, a.cmd)], auth := none })

theorem life_eq_iff {t u : Tray} : u.life = t.life ↔ u.last = t.last ∧ u.lcs = t.lcs ∧ u.lcsTarget = t.lcsTarget ∧
    u.accepted = t.accepted ∧ (u.auth.map fun a => (a.secure, a.reason, a.cmd)) = t.auth.map fun a => (a.secure, a.reason, a.cmd) := by
  simp [Tray.life]

theorem life_of_trust {t u : Tray} (h : u.trust = t.trust) (g : u.authCmd = t.authCmd) : u.life = t.life := by
  simp only [Tray.trust, Prod.mk.injEq] at h
  obtain ⟨-, hlast, hlcs, htarget, hacc, hauth⟩ := h
  refine life_eq_iff.mpr ⟨hlast, hlcs, htarget, hacc, ?_⟩
  cases hu : u.auth <;> cases ht : t.auth <;> simp_all [Tray.authCmd]

theorem LifeMove.same {hands : Prop} {t u : Tray} (h : u.life = t.life) : LifeMove hands t u := .drops t.accepted (fun _ h => h) h


/-! ### What the check of a command ensures -/

theorem checkCmd_zero {t : Tray} {b : List Byte} (h : t.checkCmd b = 0) :
    t.lcs ≠ 4 ∧ t.grants b = true ∧ (t.last[cmdSlot b]?).getD 0 < cmdCounter b := by
  unfold Tray.checkCmd at h
  dsimp only at h
  split at h
  · cases h
  split at h
  · cases h
  split at h
  · cases h
  · next live =>
    split at h
    · cases h
    split at h
    · cases h
    split at h
    · cases h
    · next granted =>
      split at h
      · cases h
      · next fresh => exact ⟨live, by simpa using granted, Nat.lt_of_not_le fresh⟩

theorem checkLogRead_zero {t : Tray} {b : List Byte} (h : t.checkLogRead b = 0) : (t.last[1]?).getD 0 < cmdCounter b := by
  unfold Tray.checkLogRead at h
  dsimp only at h
  split at h
  · cases h
  split at h
  · cases h
  split at h
  · cases h
  split at h
  · cases h
  split at h
  · cases h
  · next fresh => exact Nat.lt_of_not_le fresh

/-- R634: some slot may sign a transition exactly if the table has it. -/
theorem lcsSlots_ne_nil_iff (x y : Nat) : lcsSlots x y ≠ [] ↔ (x, y) ∈ lifeCycleTable := by
  unfold lcsSlots
  split <;> simp_all [lifeCycleTable]

theorem granted_of_checkCmd {t : Tray} {b : List Byte} (h : t.checkCmd b = 0) : LifeCycleGranted t b := by
  intro kind
  have grants := (checkCmd_zero h).2.1
  simp only [Tray.grants, kind, bne_iff_ne] at grants
  exact (lcsSlots_ne_nil_iff ..).mp grants

theorem getElem?_updAt_self {α : Type} (l : List α) (i : Nat) (f : α → α) : (updAt l i f)[i]? = l[i]?.map f := by
  induction l generalizing i with
  | nil => rfl
  | cons x l ih =>
    cases i with
    | zero => rfl
    | succ i => exact ih i

/-- R647: a hand-over raises LAST of the slot of a command that passes, and no other. -/
theorem handOver_last (t : Tray) (src : Nat) (ring : Option (Nat × Nat)) (secure uart : Bool) (b : List Byte) (i : Nat) :
    (t.last[i]?).getD 0 ≤ ((t.handOver src ring secure uart b).last[i]?).getD 0 := by
  have raised : ∀ slot, (t.last[slot]?).getD 0 < cmdCounter b →
      (t.last[i]?).getD 0 ≤ ((updAt t.last slot fun _ => cmdCounter b)[i]?).getD 0 := by
    intro slot fresh
    by_cases hi : i = slot
    · subst hi
      rw [getElem?_updAt_self]
      cases hl : t.last[i]? with
      | none => simp
      | some x => simpa [hl] using Nat.le_of_lt fresh
    · exact Nat.le_of_eq (by rw [getElem?_updAt_ne _ _ hi])
  cases secure with
  | true =>
    show _ ≤ ((if t.checkLogRead b = 0 then updAt t.last 1 fun _ => cmdCounter b else t.last)[i]?).getD 0
    split
    · next ok => exact raised 1 (checkLogRead_zero ok)
    · exact Nat.le_refl _
  | false =>
    show _ ≤ ((if t.checkCmd b = 0 then updAt t.last (cmdSlot b) fun _ => cmdCounter b else t.last)[i]?).getD 0
    split
    · next ok => exact raised (cmdSlot b) (checkCmd_zero ok).2.2
    · exact Nat.le_refl _

/-! ### What every move keeps -/

theorem LifeMove.last_le {hands : Prop} {t u : Tray} (m : LifeMove hands t u) (i : Nat) : (t.last[i]?).getD 0 ≤ (u.last[i]?).getD 0 := by
  cases m with
  | hands _ src ring secure uart b h =>
    rw [(life_eq_iff.mp h).1]
    exact handOver_last ..
  | drops _ _ h | directs _ _ _ _ _ h | starts h | changes _ _ h | refuses h | accepts _ _ _ _ h =>
    exact Nat.le_of_eq (by rw [(life_eq_iff.mp h).1])

theorem LifeMove.hands_of_last_ne {hands : Prop} {t u : Tray} (m : LifeMove hands t u) (ne : u.last ≠ t.last) : hands := by
  cases m with
  | hands hh => exact hh
  | drops _ _ h | directs _ _ _ _ _ h | starts h | changes _ _ h | refuses h | accepts _ _ _ _ h => exact absurd (life_eq_iff.mp h).1 ne

/-- The life-cycle state changes to the target under way alone (R635). -/
theorem LifeMove.lcs {hands : Prop} {t u : Tray} (m : LifeMove hands t u) : u.lcs = t.lcs ∨ t.lcsTarget = some u.lcs := by
  cases m with
  | changes x hx h => exact .inr (by rw [(life_eq_iff.mp h).2.1, hx])
  | drops _ _ h | directs _ _ _ _ _ h | starts h | hands _ _ _ _ _ _ h | refuses h | accepts _ _ _ _ h => exact .inl (life_eq_iff.mp h).2.1

/-- What waits for the life cycle was granted (`State.LifeCycleInv`), as a property of the records alone. -/
structure Tray.LifeInv (t : Tray) : Prop where
  target : ∀ x, t.lcsTarget = some x → (t.lcs, x) ∈ lifeCycleTable
  accepted : ∀ a ∈ t.accepted, LifeCycleGranted t a.2
  auth : ∀ a, t.auth = some a → a.reason = 0 → a.secure = true ∨ LifeCycleGranted t a.cmd
  retired : t.lcs = 4 → t.accepted = [] ∧ ∀ a, t.auth = some a → a.reason = 0 → a.secure = true

theorem lifeCycleInv_iff (s : State) : s.LifeCycleInv ↔ s.tray.LifeInv :=
  ⟨fun ⟨h1, h2, h3, h4⟩ => ⟨h1, h2, h3, h4⟩, fun ⟨h1, h2, h3, h4⟩ => ⟨h1, h2, h3, h4⟩⟩

/-- The invariant depends on the records of `Tray.life` alone. -/
theorem Tray.LifeInv.of_life {t u : Tray} (h : t.LifeInv) (e : u.life = t.life) : u.LifeInv := by
  obtain ⟨-, hlcs, htarget, hacc, hauth⟩ := life_eq_iff.mp e
  have auth : ∀ a, u.auth = some a → ∃ b, t.auth = some b ∧ b.secure = a.secure ∧ b.reason = a.reason ∧ b.cmd = a.cmd := by
    intro a ha
    rw [ha] at hauth
    cases hb : t.auth with
    | none => rw [hb] at hauth; cases hauth
    | some b =>
      rw [hb] at hauth
      simp only [Option.map_some, Option.some.injEq, Prod.mk.injEq] at hauth
      obtain ⟨h1, h2, h3⟩ := hauth
      exact ⟨b, rfl, h1.symm, h2.symm, h3.symm⟩
  constructor
  · rw [hlcs, htarget]
    exact h.target
  · intro a ha kind
    rw [hlcs]
    exact h.accepted a (hacc ▸ ha) kind
  · intro a ha ok
    obtain ⟨b, hb, hsec, hreason, hcmd⟩ := auth a ha
    refine (h.auth b hb (hreason.trans ok)).imp (hsec ▸ ·) fun granted kind => ?_
    rw [hlcs, ← hcmd]
    exact granted (hcmd ▸ kind)
  · intro h4
    obtain ⟨none, sec⟩ := h.retired (hlcs ▸ h4)
    refine ⟨hacc ▸ none, fun a ha ok => ?_⟩
    obtain ⟨b, hb, hsec, hreason, -⟩ := auth a ha
    exact hsec ▸ sec b hb (hreason.trans ok)

theorem lifeInv_idleRecords {t : Tray} (target : t.lcsTarget = none) (accepted : t.accepted = []) (auth : t.auth = none) : t.LifeInv :=
  ⟨by simp [target], by simp [accepted], by simp [auth], by simp [accepted, auth]⟩

theorem Tray.LifeInv.handOver {t : Tray} (h : t.LifeInv) (src : Nat) (ring : Option (Nat × Nat)) (secure uart : Bool) (b : List Byte) :
    (t.handOver src ring secure uart b).LifeInv := by
  refine ⟨h.target, h.accepted, fun a ha ok => ?_, fun h4 => ⟨(h.retired h4).1, fun a ha ok => ?_⟩⟩
  · cases ha
    cases secure with
    | true => exact .inl rfl
    | false => exact .inr (granted_of_checkCmd (t := t) ok)
  · cases ha
    cases secure with
    | true => rfl
    | false => exact absurd h4 (checkCmd_zero ok).1

theorem LifeMove.inv {hands : Prop} {t u : Tray} (m : LifeMove hands t u) (h : t.LifeInv) : u.LifeInv := by
  cases m with
  | drops acc sub e =>
    refine Tray.LifeInv.of_life (t := { t with accepted := acc }) ⟨h.target, fun a ha => h.accepted a (sub ha), h.auth, fun h4 => ?_⟩ e
    obtain ⟨none, sec⟩ := h.retired h4
    exact ⟨List.eq_nil_of_subset_nil (none ▸ sub), sec⟩
  | directs acc sub a ha kind e =>
    refine Tray.LifeInv.of_life (t := { t with accepted := acc, lcsTarget := some (lifeCycleTarget a.2) })
      ⟨fun x hx => ?_, fun a ha => h.accepted a (sub ha), h.auth, fun h4 => ?_⟩ e
    · cases hx
      exact h.accepted a ha kind
    · rw [(h.retired h4).1] at ha
      cases ha
  | starts e => exact (lifeInv_idleRecords rfl rfl rfl).of_life e
  | changes x _ e => exact (lifeInv_idleRecords rfl rfl rfl).of_life e
  | hands _ src ring secure uart b e => exact (h.handOver src ring secure uart b).of_life e
  | refuses e =>
    exact Tray.LifeInv.of_life (t := { t with auth := none }) ⟨h.target, h.accepted, nofun, fun h4 => ⟨(h.retired h4).1, nofun⟩⟩ e
  | accepts a ha ok plain e =>
    have notSecure : ¬a.secure = true := by simp [plain]
    refine Tray.LifeInv.of_life (t := { t with accepted := t.accepted ++ [(a.src, a.cmd)], auth := none })
      ⟨h.target, fun x hx => ?_, nofun, fun h4 => absurd ((h.retired h4).2 a ha ok) notSecure⟩ e
    obtain hx | hx := List.mem_append.mp hx
    · exact h.accepted x hx
    · obtain rfl := List.mem_singleton.mp hx
      exact (h.auth a ha ok).resolve_left notSecure

/-! ### The move of each command -/

/-- The command answers a next state with the queue as it was, and moves the records. -/
def Moves (hands : Prop) (s : State) (r : Res) : Prop := ∃ t, r = .next t ∧ t.pending = s.pending ∧ LifeMove hands s.tray t.tray

theorem moves_next {hands : Prop} {s t : State} (hp : t.pending = s.pending) (m : LifeMove hands s.tray t.tray) : Moves hands s (.next t) :=
  ⟨t, rfl, hp, m⟩

theorem moves_same {hands : Prop} {s t : State} (hp : t.pending = s.pending) (h : t.tray.trust = s.tray.trust)
    (g : t.tray.authCmd = s.tray.authCmd) : Moves hands s (.next t) :=
  moves_next hp (.same (life_of_trust h g))

theorem moves_quiet {hands : Prop} {i : Instr} (s : State) (h : changesTrust i = false) : Moves hands s (exec i s) := by
  obtain ⟨t, ht, hp, trust⟩ := exec_quiet i s h
  obtain ⟨u, hu, cmd⟩ := exec_keepsCmd i s h
  cases ht.symm.trans hu
  rw [ht]
  exact moves_same hp trust cmd

theorem coldStart_life (s : State) (now0 cause : Nat) (force : Bool) :
    (s.coldStart now0 cause force).tray.life = Tray.life { s.tray with lcsTarget := none, accepted := [], auth := none } := by
  have trust := coldStart_trust s now0 cause force
  simp only [Tray.trust, Prod.mk.injEq] at trust
  obtain ⟨-, hlast, hlcs, htarget, hacc, hauth⟩ := trust
  refine life_eq_iff.mpr ⟨hlast, hlcs, htarget, hacc, ?_⟩
  rw [Option.map_eq_none_iff.mp hauth]

/-- A cold start of a state with LAST and life-cycle state as they were. -/
theorem moves_coldStart {hands : Prop} {s u : State} (now0 cause : Nat) (force : Bool) (hp : u.pending = s.pending)
    (hlast : u.tray.last = s.tray.last) (hlcs : u.tray.lcs = s.tray.lcs) : Moves hands s (.next (u.coldStart now0 cause force)) :=
  moves_next hp (.starts ((coldStart_life ..).trans (life_eq_iff.mpr ⟨hlast, hlcs, rfl, rfl, rfl⟩)))

theorem moves_when {hands : Prop} {s t u : State} {p : Prop} [Decidable p] (h : Moves hands s (.next t)) (g : Moves hands s (.next u)) :
    Moves hands s (.next (if p then t else u)) := by
  split
  · exact h
  · exact g

theorem moves_self {hands : Prop} (s : State) : Moves hands s (.next s) := moves_same rfl rfl rfl

/-! ### Cold starts -/

theorem moves_powerValid (pins : BootPins) (s : State) : Moves False s (execPowerValid pins s) :=
  moves_when (moves_coldStart _ _ _ rfl rfl rfl) (moves_self s)

theorem moves_powerRestore (pins : BootPins) (s : State) : Moves False s (execPowerRestore pins s) :=
  moves_when (moves_coldStart _ _ _ rfl rfl rfl) (moves_self s)

theorem moves_activationPowerCycle (s : State) : Moves False s (execActivationPowerCycle s) :=
  moves_when (moves_coldStart _ _ _ rfl rfl rfl) (moves_self s)

theorem moves_bupinWatchdog (pc : Dword) (s : State) : Moves False s (execBupinWatchdog pc s) :=
  moves_when (moves_self s) (moves_when (moves_coldStart _ _ _ rfl rfl rfl) (moves_same rfl rfl rfl))

theorem moves_trayPowerCycle (tr : Transport) (chips : Byte) (s : State) : Moves False s (execTrayPowerCycle tr chips s) :=
  moves_when (moves_when (moves_same rfl rfl rfl) (moves_when (moves_coldStart _ _ _ rfl rfl rfl) (moves_same rfl rfl rfl))) (moves_self s)

theorem nextBank_life (t : Tray) (force : Bool) : (t.nextBank force).life = t.life := by
  refine life_of_trust (nextBank_trust t force) ?_
  unfold Tray.nextBank
  dsimp only
  repeat' split
  all_goals rfl

theorem moves_trialFailure (bad : Bool) (s : State) : Moves False s (execTrialFailure bad s) := by
  unfold execTrialFailure
  split
  · refine moves_when (moves_self s) ?_
    dsimp only
    split
    · obtain ⟨hlast, hlcs, -⟩ := life_eq_iff.mp (nextBank_life s.tray false)
      exact moves_coldStart _ _ _ rfl hlast hlcs
    · exact moves_coldStart _ _ _ rfl rfl rfl
  · exact moves_self s

theorem erase_life (t : Tray) (x : Nat) : (t.erase x).life = t.life := by
  unfold Tray.erase
  dsimp only
  repeat' split
  all_goals rfl

theorem moves_lifecycleReset (s : State) : Moves False s (execLifecycleReset s) := by
  unfold execLifecycleReset
  split
  · next x hx =>
    refine moves_when (moves_self s) (moves_next rfl (.changes x hx ((coldStart_life ..).trans ?_)))
    obtain ⟨hlast, hlcs, -⟩ := life_eq_iff.mp (erase_life { s.tray with lcs := x } x)
    exact life_eq_iff.mpr ⟨hlast, hlcs, rfl, rfl, rfl⟩
  · exact moves_self s

/-! ### Critical commands -/

theorem handChip_moves (s : State) (c : ChipId) (n : Nat) (d : Desc) (res : ReadResult) : Moves True s (.next (s.handChip c n d res)) := by
  refine moves_next (handChip_pending ..) ?_
  unfold State.handChip
  dsimp only
  split
  · exact .same (by rw [modChip_tray, modChip_tray])
  · refine .hands trivial c.val (some (n, d.idx)) false false (padTo (fieldAt d.bytes 16 2) res.data) ?_
    rw [mirror_tray, modTray_tray, modChip_tray]

theorem serveCritical_moves (s : State) (res : ReadResult) : Moves True s (.next (s.serveCritical res)) := by
  refine moves_next (serveCritical_pending ..) ?_
  unfold State.serveCritical
  dsimp only
  split
  · exact .same (by rw [modChip_tray])
  split
  · exact .same rfl
  split
  · exact .same rfl
  split
  · split
    · obtain ⟨t, ht, -, m⟩ := handChip_moves s (Fin.ofNat 4 _) _ _ res
      cases ht
      exact m
    · exact .same rfl
  · split
    · next m rest _ => exact .hands trivial 4 none m.secure m.uart m.cmd rfl
    · exact .same rfl

/-- The queue of commands over MCTP is no part of a move. -/
theorem LifeMove.of_mctp {hands : Prop} {t u : Tray} {q : List MctpCmd} (m : LifeMove hands { t with mctp := q } u) : LifeMove hands t u := by
  cases m with
  | drops acc sub h => exact .drops acc sub h
  | directs acc sub a ha kind h => exact .directs acc sub a ha kind h
  | starts h => exact .starts h
  | changes x hx h => exact .changes x hx h
  | hands hh src ring secure uart b h => exact .hands hh src ring secure uart b h
  | refuses h => exact .refuses h
  | accepts a ha ok plain h => exact .accepts a ha ok plain h

theorem moves_of_mctp {s : State} {q : Tray → List MctpCmd} {res : ReadResult} :
    Moves True s (.next ((s.modTray fun t => { t with mctp := q t }).serveCritical res)) := by
  obtain ⟨t, ht, hp, m⟩ := serveCritical_moves (s.modTray fun t => { t with mctp := q t }) res
  exact ⟨t, ht, hp, m.of_mctp⟩

theorem moves_critical (msg : Option (Transport × List Byte)) (res : ReadResult) (s : State) : Moves True s (execCritical msg res s) := by
  unfold execCritical
  split
  · dsimp only
    split
    · exact moves_of_mctp
    · exact serveCritical_moves s res
  · exact serveCritical_moves s res

theorem moves_secureLogRead (tr : Transport) (block : List Byte) (s : State) : Moves True s (execSecureLogRead tr block s) := by
  unfold execSecureLogRead
  split
  · exact moves_when moves_of_mctp (moves_same rfl rfl rfl)
  · exact moves_self s

theorem authReply_life (t : Tray) (a : AuthRun) : (t.authReply a).life = t.life := by
  unfold Tray.authReply; dsimp only; split <;> rfl

/-- The tray after the 250 µs of the command `a`. -/
def Tray.completed (t : Tray) (a : AuthRun) : Tray :=
  let t : Tray := { t with auth := none }
  if a.reason ≠ 0 then
    t.logRefusal a.src (if a.secure then 0 else cmdOf a.cmd) (if a.secure then 1 else cmdSlot a.cmd) (cmdCounter a.cmd) a.reason
  else if a.secure then t
  else { t with
    accepted := t.accepted ++ [(a.src, a.cmd)]
    lcsTime := if cmdOf a.cmd = 1 then t.now else t.lcsTime }

theorem completed_moves {t u : Tray} {a : AuthRun} (ha : t.auth = some a) (h : u.life = (t.completed a).life) : LifeMove False t u := by
  unfold Tray.completed at h
  dsimp only at h
  split at h
  · exact .refuses h
  · next ok =>
    split at h
    · exact .refuses h
    · next plain => exact .accepts a ha (Classical.not_not.mp ok) (by simpa using plain) h

theorem moves_criticalComplete (s : State) : Moves False s (execCriticalComplete s) := by
  unfold execCriticalComplete
  split
  · exact moves_self s
  · next a ha =>
    split
    · exact moves_self s
    · have key : ∀ u : State, u.pending = s.pending → u.tray.life = (s.tray.completed a).life → Moves False s (.next u) :=
        fun u hp h => moves_next hp (completed_moves ha h)
      extract_lets s1 s2
      have h2 : s2.pending = s.pending ∧ s2.tray.life = (s.tray.completed a).life := ⟨rfl, rfl⟩
      clear_value s2
      obtain ⟨hp, h⟩ := h2
      split
      · exact key _ (by rw [modChip_pending, hp]) (by rw [modChip_tray, h])
      · split
        · exact key _ hp ((authReply_life ..).trans h)
        · exact key _ hp h

/-! ### Effects of accepted commands -/

theorem pickFirst_some {α : Type} {p : α → Bool} {l rest : List α} {a : α} (h : pickFirst p l = some (a, rest)) :
    p a = true ∧ a ∈ l ∧ rest ⊆ l := by
  induction l generalizing rest with
  | nil => cases h
  | cons x l ih =>
    rw [pickFirst] at h
    split at h
    · next hx =>
      cases h
      exact ⟨hx, List.mem_cons_self .., List.subset_cons_self ..⟩
    · obtain ⟨⟨b, r⟩, hr, e⟩ := Option.map_eq_some_iff.mp h
      cases e
      obtain ⟨hp, hm, hsub⟩ := ih hr
      exact ⟨hp, List.mem_cons_of_mem _ hm, List.cons_subset_cons _ hsub⟩

theorem takeAccepted_some {s t : State} {p : List Byte → Bool} {b : List Byte} (h : s.takeAccepted p = some (b, t)) :
    ∃ src rest, p b = true ∧ (src, b) ∈ s.tray.accepted ∧ rest ⊆ s.tray.accepted ∧ t = s.modTray fun t => { t with accepted := rest } := by
  unfold State.takeAccepted at h
  split at h
  · next a rest ha =>
    cases h
    split at ha
    · cases ha
    · obtain ⟨hp, hm, hsub⟩ := pickFirst_some ha
      exact ⟨a.1, rest, hp, hm, hsub, rfl⟩
  · cases h

/-- An effect that moves no record but the accepted command it takes. -/
theorem moves_effect (s : State) (p : List Byte → Bool) (f : State → List Byte → State)
    (h : ∀ t b, (f t b).pending = t.pending ∧ (f t b).tray.life = t.tray.life) : Moves False s (s.effect p f) := by
  unfold State.effect
  split
  · next b t ht =>
    obtain ⟨src, rest, -, -, hsub, rfl⟩ := takeAccepted_some ht
    obtain ⟨hp, hl⟩ := h (s.modTray fun t => { t with accepted := rest }) (cmdPayload b)
    exact moves_next hp (.drops rest hsub hl)
  · exact moves_self s

theorem moves_lifecycle (s : State) : Moves False s (execLifecycle s) := by
  unfold execLifecycle State.effect
  split
  · next b t ht =>
    obtain ⟨src, rest, kind, hm, hsub, rfl⟩ := takeAccepted_some ht
    refine moves_next ?_ (.directs rest hsub (src, b) hm (by simpa using kind) ?_)
    · dsimp only
      rw [modChip_pending]
      rfl
    · dsimp only
      rw [modChip_tray]
      rfl
  · exact moves_self s

theorem pend_life (t : Tray) (b : Nat) : (t.pend b).life = t.life := by
  unfold Tray.pend; dsimp only; split <;> rfl

theorem moves_fwActivate (s : State) : Moves False s (execFwActivate s) := by
  unfold execFwActivate State.effect
  split
  · next b t ht =>
    obtain ⟨src, rest, -, -, hsub, rfl⟩ := takeAccepted_some ht
    dsimp only
    generalize fieldAt (cmdPayload b) 0 1 = bank
    have pended : ∀ due, Tray.life { Tray.pend { s.tray with accepted := rest } bank with cycleDue := due } =
        Tray.life { s.tray with accepted := rest } := fun _ => pend_life ..
    obtain ⟨hlast, hlcs, -⟩ := life_eq_iff.mp (pend_life { s.tray with accepted := rest } bank)
    split
    · exact moves_next rfl (.drops rest hsub rfl)
    · exact moves_when (moves_coldStart _ _ _ rfl hlast hlcs) (moves_next rfl (.drops rest hsub (pended _)))
  · exact moves_self s

theorem moves_keyRotate (s : State) : Moves False s (execKeyRotate s) := by
  unfold execKeyRotate
  split
  · next b t ht =>
    obtain ⟨src, rest, -, -, hsub, rfl⟩ := takeAccepted_some ht
    exact moves_next rfl (.drops rest hsub rfl)
  · exact moves_self s

theorem moves_motionEnable (s : State) : Moves False s (execMotionEnable s) := by
  apply moves_effect
  intro t b
  extract_lets heads e2 u e0
  have hu : u.pending = t.pending ∧ u.tray = t.tray := ⟨modChip_pending t 0 _, modChip_tray t 0 _⟩
  clear_value u
  split
  · exact ⟨by rw [modChip_pending, hu.1], by rw [modChip_tray, hu.2]⟩
  · exact ⟨hu.1, by rw [hu.2]⟩

theorem moves_debugUnlock (s : State) : Moves False s (execDebugUnlock s) :=
  moves_effect _ _ _ fun t _ => ⟨(eachChip_pending t _ _ :), (congrArg Tray.life (eachChip_tray t _ _) :)⟩

theorem moves_pixelTap (s : State) : Moves False s (execPixelTap s) :=
  moves_effect _ _ _ fun _ _ => ⟨eachChip_pending .., congrArg Tray.life (eachChip_tray ..)⟩

theorem commit_authCmd (s : State) (n : Nat) (w : Bool) : (s.commit n w).tray.authCmd = s.tray.authCmd := by
  rw [State.commit]
  extract_lets
  split
  · rw [cfgResult_tray]
  split
  · rw [cfgResult_tray]; rfl
  split
  · rw [cfgResult_tray]
  split
  · rw [cfgResult_tray]
  split
  · rw [cfgResult_tray]
  · exact (congrArg Tray.authCmd (cfgResult_tray _ _)).trans ((congrArg Tray.authCmd (modAll_tray _ _)).trans rfl)

theorem moves_cfgCommit (written : Bool) (s : State) : Moves False s (execCfgCommit written s) :=
  moves_effect _ _ _ fun _ _ => ⟨commit_pending .., life_of_trust (commit_trust ..) (commit_authCmd ..)⟩

theorem moves_cfgOpen (s : State) : Moves False s (execCfgOpen s) := by
  apply moves_effect
  intro t b
  dsimp only
  split <;> exact ⟨rfl, rfl⟩

theorem moves_trialSuccess (s : State) : Moves False s (execTrialSuccess s) := by
  unfold execTrialSuccess
  dsimp only
  split
  · refine moves_when (moves_next ?_ (.same ?_)) (moves_self s)
    · rw [mirror_pending, writeMigrated_pending]; rfl
    · rw [mirror_tray, life_of_trust (writeMigrated_trust _) (writeMigrated_authCmd _), modTray_tray]
      split <;> rfl
  · exact moves_self s

/-! ### Every step -/

/-- The commands that hand over a command of a source (R646, R687). -/
def HandsOver (i : Instr) : Prop := (∃ msg res, i = .critical msg res) ∨ ∃ tr b, i = .secureLogRead tr b

theorem Moves.mono {p q : Prop} {s : State} {r : Res} (h : Moves p s r) (pq : p → q) : Moves q s r := by
  obtain ⟨t, ht, hp, m⟩ := h
  refine ⟨t, ht, hp, ?_⟩
  cases m with
  | drops acc sub h => exact .drops acc sub h
  | directs acc sub a ha kind h => exact .directs acc sub a ha kind h
  | starts h => exact .starts h
  | changes x hx h => exact .changes x hx h
  | hands hh src ring secure uart b h => exact .hands (pq hh) src ring secure uart b h
  | refuses h => exact .refuses h
  | accepts a ha ok plain h => exact .accepts a ha ok plain h

theorem exec_moves (i : Instr) (s : State) : Moves (HandsOver i) s (exec i s) := by
  cases h : changesTrust i with
  | false => exact moves_quiet s h
  | true =>
    cases i with
    | critical msg res => exact (moves_critical msg res s).mono fun _ => .inl ⟨msg, res, rfl⟩
    | secureLogRead tr block => exact (moves_secureLogRead tr block s).mono fun _ => .inr ⟨tr, block, rfl⟩
    | powerValid pins => exact (moves_powerValid pins s).mono False.elim
    | powerRestore pins => exact (moves_powerRestore pins s).mono False.elim
    | activationPowerCycle => exact (moves_activationPowerCycle s).mono False.elim
    | bupinWatchdog pc => exact (moves_bupinWatchdog pc s).mono False.elim
    | trayPowerCycle tr chips => exact (moves_trayPowerCycle tr chips s).mono False.elim
    | trialFailure bad => exact (moves_trialFailure bad s).mono False.elim
    | lifecycleReset => exact (moves_lifecycleReset s).mono False.elim
    | criticalComplete => exact (moves_criticalComplete s).mono False.elim
    | lifecycle => exact (moves_lifecycle s).mono False.elim
    | fwActivate => exact (moves_fwActivate s).mono False.elim
    | keyRotate => exact (moves_keyRotate s).mono False.elim
    | motionEnable => exact (moves_motionEnable s).mono False.elim
    | debugUnlock => exact (moves_debugUnlock s).mono False.elim
    | pixelTap => exact (moves_pixelTap s).mono False.elim
    | cfgCommit written => exact (moves_cfgCommit written s).mono False.elim
    | cfgOpen => exact (moves_cfgOpen s).mono False.elim
    | trialSuccess => exact (moves_trialSuccess s).mono False.elim
    | _ => cases h

theorem step_nil {s : State} (h : s.pending = []) : step s = .next s.idle := by
  unfold step
  rw [h]

/-- A step moves the records, and hands a command over only by a command that does. -/
theorem step_moves {s t : State} (h : step s = .next t) : LifeMove (∃ i rest, s.pending = i :: rest ∧ HandsOver i) s.tray t.tray := by
  cases hp : s.pending with
  | nil =>
    cases (step_nil hp).symm.trans h
    exact .same (life_of_trust (idle_trust s) (idle_authCmd s))
  | cons i rest =>
    obtain ⟨u, hu, -, m⟩ := (exec_moves i { s with pending := rest }).mono fun hands => (⟨i, rest, rfl, hands⟩ : ∃ j r, i :: rest = j :: r ∧ HandsOver j)
    cases hu.symm.trans ((step_cons hp).symm.trans h)
    exact m

/-! ### The statements -/

/-- Settles O55: each move of the records keeps what was granted, and only the target under way becomes the state (R633 to R636). -/
theorem lifeCycleFollowsItsTable : Obligations.LifeCycleFollowsItsTable := by
  intro s t inv h
  have m := step_moves h
  have granted := (lifeCycleInv_iff s).mp inv
  have table : t.tray.lcs = s.tray.lcs ∨ (s.tray.lcs, t.tray.lcs) ∈ lifeCycleTable := m.lcs.imp_right (granted.target _)
  refine ⟨(lifeCycleInv_iff t).mpr (m.inv granted), table, fun h4 => ?_⟩
  obtain same | change := table
  · exact same.trans h4
  · rw [h4] at change
    simp [lifeCycleTable] at change

/-- Settles O56: only a hand-over touches LAST, and it raises the slot of a command that passes its check (R647). -/
theorem countersNeverFall : Obligations.CountersNeverFall := by
  intro s t h
  have m := step_moves h
  refine ⟨m.last_le, fun ne => ?_⟩
  obtain ⟨i, rest, hp, ⟨msg, res, rfl⟩ | ⟨tr, b, rfl⟩⟩ := m.hands_of_last_ne ne
  · exact .inl ⟨msg, res, rest, hp⟩
  · exact .inr ⟨tr, b, rest, hp⟩

/-- Settles O58: each command answers a next state, whatever it moves. -/
theorem everyCommandAnswersNext : Obligations.EveryCommandAnswersNext := fun i s =>
  let ⟨t, ht, hp, _⟩ := exec_moves i s
  ⟨t, ht, hp⟩

/-- Settles O57: in BLANK nothing is under way, accepted or in its check, and no LAST was raised. -/
theorem invariantsHoldAtReset : Obligations.InvariantsHoldAtReset :=
  ⟨(lifeCycleInv_iff _).mpr (lifeInv_idleRecords rfl rfl rfl), rfl, fun i => by
    show ((List.replicate 4 0)[i]?).getD 0 = 0
    rw [List.getElem?_replicate]
    split <;> rfl, rfl⟩

end Sys2Proof.Machine
end

section
/-! SUPPORT. The two ALUs (R347, R351): what their commands answer on a chip that acts, each operation as bits or arithmetic, and the
statements about them. -/

namespace Sys2Proof.Machine

open Sys2Proof

/-! ### What a command of an ALU answers -/

/-- ALU 2 or ALU 1. -/
def aluUnit (u : Bool) : Nat := if u then 2 else 1

/-- The answer of a command of an ALU that delivers `r` into R, and changes nothing else. -/
def aluAnswer (s : State) (c : ChipId) (k : CoreId) (u : Bool) (r : Qword) : Res :=
  .next (s.withCore c k fun x => x.setQ (portCode (aluUnit u) 3) r)

theorem onCore_runAlu_live {s : State} {c : ChipId} (h : Live s c) (k : CoreId) (u : Bool) (f : Qword → Qword → Qword) :
    onCore s c k (·.runAlu u f) =
      aluAnswer s c k u (f (s.portOf c k (portCode (aluUnit u) 0)) (s.portOf c k (portCode (aluUnit u) 1))) :=
  onCore_live h k (·.runAlu u f)

/-! ### Arithmetic -/

theorem aluAdd_eq (a b : Qword) : aluAdd a b = BitVec.ofNat 64 (a.toNat + b.toNat) := by
  rw [aluAdd, BitVec.ofNat_add]
  simp

theorem aluSub_eq (a b : Qword) : aluSub a b = BitVec.ofInt 64 ((a.toNat : Int) - b.toNat) := by
  apply BitVec.eq_of_toInt_eq
  rw [aluSub, BitVec.toInt_sub, BitVec.toInt_ofInt, BitVec.toInt_eq_toNat_bmod, BitVec.toInt_eq_toNat_bmod]
  simp

theorem satI_eq (x : Int) : satI 64 x = max (-2 ^ 63) (min (2 ^ 63 - 1) x) := rfl

theorem aluMin_eq (a b : Qword) : aluMin a b = if a.toInt < b.toInt then a else b := by simp [aluMin, BitVec.slt]
theorem aluMax_eq (a b : Qword) : aluMax a b = if a.toInt < b.toInt then b else a := by simp [aluMax, BitVec.slt]
theorem aluMinu_eq (a b : Qword) : aluMinu a b = if a.toNat < b.toNat then a else b := by simp [aluMinu, BitVec.ult]
theorem aluMaxu_eq (a b : Qword) : aluMaxu a b = if a.toNat < b.toNat then b else a := by simp [aluMaxu, BitVec.ult]

theorem aluPack_eq (a b : Qword) : aluPack a b = a.extractLsb' 0 32 ++ b.extractLsb' 0 32 := by
  apply BitVec.eq_of_toNat_eq
  have low : b.toNat % 2 ^ 32 < 2 ^ 32 := Nat.mod_lt _ (by decide)
  rw [aluPack, BitVec.toNat_append, BitVec.toNat_ofNat, Nat.shiftLeft_eq, BitVec.extractLsb'_toNat, BitVec.extractLsb'_toNat,
    Nat.mul_comm _ (2 ^ 32), Nat.mul_comm _ (2 ^ 32)]
  rw [Nat.shiftRight_zero, Nat.shiftRight_zero, ← Nat.two_pow_add_eq_or_of_lt low]
  omega

/-! ### Bits, shifts and extensions -/

theorem aluShl_eq (a b : Qword) : aluShl a b = BitVec.ofNat 64 (a.toNat * 2 ^ (b.toNat % 64)) := by
  apply BitVec.eq_of_toNat_eq
  rw [aluShl, BitVec.toNat_shiftLeft, Nat.shiftLeft_eq, BitVec.toNat_ofNat]

theorem aluShr_eq (a b : Qword) : aluShr a b = BitVec.ofNat 64 (a.toNat / 2 ^ (b.toNat % 64)) := by
  apply BitVec.eq_of_toNat_eq
  rw [aluShr, BitVec.toNat_ushiftRight, Nat.shiftRight_eq_div_pow, BitVec.toNat_ofNat]
  refine (Nat.mod_eq_of_lt ?_).symm
  exact Nat.lt_of_le_of_lt (Nat.div_le_self ..) a.isLt

theorem aluSar_eq (a b : Qword) : aluSar a b = BitVec.ofInt 64 (a.toInt / 2 ^ (b.toNat % 64)) := by
  rw [aluSar, BitVec.sshiftRight, Int.shiftRight_eq_div_pow]
  simp

theorem getLsbD_aluRol (a b : Qword) {j : Nat} (hj : j < 64) :
    (aluRol a b).getLsbD j = a.getLsbD ((j + 64 - b.toNat % 64) % 64) := by
  have hm : b.toNat % 64 < 64 := Nat.mod_lt _ (by decide)
  rw [aluRol, BitVec.getLsbD_rotateLeft, Nat.mod_mod]
  by_cases h : j < b.toNat % 64
  · simp only [h, decide_true, cond_true]
    congr 1
    omega
  · simp only [h, decide_false, cond_false, hj, decide_true, Bool.true_and]
    congr 1
    omega

theorem getLsbD_aluZext (a b : Qword) {j : Nat} (hj : j < 64) :
    (aluZext a b).getLsbD j = (decide (j ≤ b.toNat % 64) && a.getLsbD j) := by
  rw [aluZext, BitVec.getLsbD_ofNat, Nat.testBit_mod_two_pow, BitVec.testBit_toNat]
  have edge : (j < b.toNat % 64 + 1) ↔ j ≤ b.toNat % 64 := Nat.lt_succ_iff
  simp only [hj, decide_true, Bool.true_and, edge]

theorem sgn_eq_toInt {w : Nat} (hw : 0 < w) (v : Nat) : sgn w v = (BitVec.ofNat w v).toInt := by
  obtain ⟨n, rfl⟩ : ∃ n, w = n + 1 := ⟨w - 1, by omega⟩
  rw [sgn, BitVec.toInt_eq_toNat_cond, BitVec.toNat_ofNat, Nat.add_sub_cancel, Nat.pow_succ]
  have cast : ((2 ^ n : Nat) : Int) = 2 ^ n := Int.natCast_pow 2 n
  split <;> split <;> omega

theorem getLsbD_aluSext (a b : Qword) {j : Nat} (hj : j < 64) :
    (aluSext a b).getLsbD j = a.getLsbD (if j < b.toNat % 64 then j else b.toNat % 64) := by
  have extended : aluSext a b = (BitVec.ofNat (b.toNat % 64 + 1) a.toNat).signExtend 64 := by
    rw [aluSext, sgn_eq_toInt (by omega), BitVec.signExtend]
  rw [extended, BitVec.getLsbD_signExtend, BitVec.msb_eq_getLsbD_last, BitVec.getLsbD_ofNat, BitVec.getLsbD_ofNat, BitVec.testBit_toNat,
    BitVec.testBit_toNat, Nat.add_sub_cancel]
  by_cases h : j < b.toNat % 64
  · simp [hj, h, Nat.lt_add_right 1 h]
  · by_cases e : j = b.toNat % 64
    · simp [e]; omega
    · have above : ¬ j < b.toNat % 64 + 1 := by omega
      simp [hj, h, above]

/-! ### Counts -/

theorem ctz_spec (w v : Nat) (hv : v < 2 ^ w) :
    ctz w v ≤ w ∧ (∀ j, j < ctz w v → v.testBit j = false) ∧ (ctz w v < w → v.testBit (ctz w v) = true) := by
  induction w generalizing v with
  | zero => simp [ctz]
  | succ w ih =>
    rw [ctz]
    split
    · next odd => simp [Nat.testBit_zero, odd]
    · next even =>
      obtain ⟨le, low, high⟩ := ih (v / 2) (by omega)
      refine ⟨by omega, fun j hj => ?_, fun h => ?_⟩
      · cases j with
        | zero => simpa [Nat.testBit_zero] using even
        | succ j => rw [Nat.testBit_succ]; exact low j (by omega)
      · rw [Nat.add_comm, Nat.testBit_succ]
        exact high (by omega)

theorem popcount_eq_countP (w v : Nat) : popcount w v = (List.range w).countP fun j => v.testBit j := by
  induction w generalizing v with
  | zero => rfl
  | succ w ih =>
    have shifted : ((fun j => v.testBit j) ∘ Nat.succ) = fun j => (v / 2).testBit j := by
      funext j
      exact Nat.testBit_succ v j
    rw [popcount, ih, List.range_succ_eq_map, List.countP_cons, List.countP_map, shifted, Nat.testBit_zero, Nat.add_comm]
    congr 1
    simp only [decide_eq_true_eq]
    split <;> omega


theorem aluEq_eq (a b : Qword) : aluEq a b = b2q (decide (a.toNat = b.toNat)) := by
  simp only [aluEq, eq_beq_decide, BitVec.toNat_eq]

theorem aluNe_eq (a b : Qword) : aluNe a b = b2q (decide (a.toNat ≠ b.toNat)) := by
  simp only [aluNe, bne, eq_beq_decide, BitVec.toNat_eq, ne_eq, decide_not]

theorem aluLt_eq (a b : Qword) : aluLt a b = b2q (decide (a.toInt < b.toInt)) := rfl
theorem aluLtu_eq (a b : Qword) : aluLtu a b = b2q (decide (a.toNat < b.toNat)) := rfl
theorem aluLe_eq (a b : Qword) : aluLe a b = b2q (decide (a.toInt ≤ b.toInt)) := rfl
theorem aluLeu_eq (a b : Qword) : aluLeu a b = b2q (decide (a.toNat ≤ b.toNat)) := rfl

/-- CLZ answers the number of zeros above the highest bit that is set. -/
theorem aluClz_spec (a b : Qword) : ∃ z, z ≤ 64 ∧ a.toNat < 2 ^ (64 - z) ∧ (z < 64 → 2 ^ (63 - z) ≤ a.toNat) ∧
    aluClz a b = BitVec.ofNat 64 z := by
  by_cases h : a = 0
  · exact ⟨64, by decide, by simp [h], by simp, by simp [aluClz, h]⟩
  · have ne : a.toNat ≠ 0 := fun e => h (BitVec.eq_of_toNat_eq e)
    have top : Nat.log2 a.toNat < 64 := (Nat.log2_lt ne).mpr a.isLt
    refine ⟨63 - Nat.log2 a.toNat, by omega, ?_, fun _ => ?_, by rw [aluClz, if_neg h]⟩
    · rw [show 64 - (63 - Nat.log2 a.toNat) = Nat.log2 a.toNat + 1 by omega]
      exact Nat.lt_log2_self
    · rw [show 63 - (63 - Nat.log2 a.toNat) = Nat.log2 a.toNat by omega]
      exact Nat.log2_self_le ne

theorem aluPopc_eq (a b : Qword) : aluPopc a b = BitVec.ofNat 64 ((List.range 64).countP fun j => a.getLsbD j) :=
  congrArg (BitVec.ofNat 64) (popcount_eq_countP 64 a.toNat)

/-! ### Addresses -/

theorem onIsland_alu_live {s : State} {c : ChipId} (h : Live s c) (k : CoreId) (u : Bool) (f : Chip → Qword → Qword) :
    (onIsland s c fun ch => ch.putCore k ((ch.getCore k).runAlu u fun a _ => f ch a)) =
      aluAnswer s c k u (f (s.chip c) (s.portOf c k (portCode (aluUnit u) 0))) := onIsland_live h _

theorem exec_d2a_live {s : State} {c : ChipId} (h : Live s c) (k : CoreId) (u : Bool) :
    exec (.d2a c k u) s = aluAnswer s c k u ((s.chip c).aluD2a k (s.portOf c k (portCode (aluUnit u) 0))) :=
  onIsland_alu_live h k u fun ch => ch.aluD2a k

theorem exec_a2d_live {s : State} {c : ChipId} (h : Live s c) (k : CoreId) (u : Bool) :
    exec (.a2d c k u) s = aluAnswer s c k u ((s.chip c).aluA2d k (s.portOf c k (portCode (aluUnit u) 0))) :=
  onIsland_alu_live h k u fun ch => ch.aluA2d k

/-! A descriptor of one byte, by its fields USER's chip (bits 51:50), SPACE (49:48), pack (55:52) and ADDR (47:0). -/

section
variable {ch : Chip} {d : Nat} {pack : Option Nat}

theorem descAddr_dram (mine : bits d 50 2 = ch.pos.val) (space : bits d 48 2 = 0) (fits : bits d 0 48 < ch.usable) :
    ch.descAddr pack d 1 = some (dramBase + bits d 0 48) := by
  simp only [Chip.descAddr, mine, ne_eq, not_true_eq_false, if_false, space]
  exact if_pos fits

theorem descAddr_cr (mine : bits d 50 2 = ch.pos.val) (space : bits d 48 2 = 1) (fits : bits d 0 48 < crSize) :
    ch.descAddr pack d 1 = some (crBase + bits d 0 48) := by
  simp only [Chip.descAddr, mine, ne_eq, not_true_eq_false, if_false, space]
  exact if_pos fits

theorem descAddr_pack (mine : bits d 50 2 = ch.pos.val) (space : bits d 48 2 = 2) (own : pack = some (bits d 52 4))
    (fits : bits d 0 48 < 0x200000) : ch.descAddr pack d 1 = some (packBase (bits d 52 4) + bits d 0 48) := by
  simp only [Chip.descAddr, mine, ne_eq, not_true_eq_false, if_false, space]
  exact if_pos ⟨own, fits⟩

theorem descAddr_none (h : bits d 50 2 ≠ ch.pos.val ∨ bits d 48 2 = 3 ∨ (bits d 48 2 = 2 ∧ pack ≠ some (bits d 52 4)) ∨
    (bits d 48 2 = 2 ∧ 0x200000 ≤ bits d 0 48) ∨ (bits d 48 2 = 1 ∧ crSize ≤ bits d 0 48) ∨
    (bits d 48 2 = 0 ∧ ch.usable ≤ bits d 0 48)) : ch.descAddr pack d 1 = none := by
  by_cases mine : bits d 50 2 = ch.pos.val
  · simp only [Chip.descAddr, mine, ne_eq, not_true_eq_false, if_false]
    obtain h | space | ⟨space, h⟩ | ⟨space, h⟩ | ⟨space, h⟩ | ⟨space, h⟩ := h
    · exact absurd mine h
    · simp only [space]
    · simp only [space]
      exact if_neg fun g => h g.1
    · simp only [space]
      exact if_neg fun g => absurd g.2 (by omega)
    · simp only [space]
      exact if_neg (by omega)
    · simp only [space]
      exact if_neg (by omega)
  · exact if_pos mine

end

/-! A2D of a PE, by the range of the address. -/

theorem inCr_iff (a n : Nat) : inCr a n = true ↔ crBase ≤ a ∧ a + n ≤ crBase + crSize := by simp [inCr]

theorem inDram_iff (ch : Chip) (a n : Nat) : ch.inDram a n = true ↔ dramBase ≤ a ∧ a + n ≤ dramBase + ch.usable := by simp [Chip.inDram]

section
variable (ch : Chip) (p : PackId) (n : PeId) {a : Qword}

theorem aluA2d_cr (lo : crBase ≤ a.toNat) (hi : a.toNat < crBase + crSize) :
    ch.aluA2d (.pe p n) a = BitVec.ofNat 64 (a.toNat - crBase + 2 ^ 48 + ch.pos.val * 2 ^ 50) := by
  have inside : inCr a.toNat 1 = true := (inCr_iff ..).mpr ⟨lo, hi⟩
  simp only [Chip.aluA2d, inside, if_true]

theorem aluA2d_dram (lo : dramBase ≤ a.toNat) (hi : a.toNat < dramBase + ch.usable) :
    ch.aluA2d (.pe p n) a = BitVec.ofNat 64 (a.toNat - dramBase + ch.pos.val * 2 ^ 50) := by
  have outside : inCr a.toNat 1 = false := by
    rw [Bool.eq_false_iff, ne_eq, inCr_iff]
    simp only [crBase, crSize, dramBase] at lo ⊢
    omega
  have inside : ch.inDram a.toNat 1 = true := (inDram_iff ..).mpr ⟨lo, hi⟩
  simp only [Chip.aluA2d, outside, inside, if_true, Bool.false_eq_true, if_false]

theorem aluA2d_sram (hi : a.toNat < 0x200000) :
    ch.aluA2d (.pe p n) a = BitVec.ofNat 64 (a.toNat + 2 * 2 ^ 48 + ch.pos.val * 2 ^ 50 + p.val * 2 ^ 52) := by
  have outside : inCr a.toNat 1 = false := by
    rw [Bool.eq_false_iff, ne_eq, inCr_iff]
    simp only [crBase, crSize]
    omega
  have outside' : ch.inDram a.toNat 1 = false := by
    rw [Bool.eq_false_iff, ne_eq, inDram_iff]
    simp only [dramBase]
    omega
  simp only [Chip.aluA2d, outside, outside', Bool.false_eq_true, if_false]
  exact if_pos hi

theorem aluA2d_none (h : 0x200000 ≤ a.toNat ∧ a.toNat < crBase ∨ crBase + crSize ≤ a.toNat ∧ a.toNat < dramBase ∨
    dramBase + ch.usable ≤ a.toNat) : ch.aluA2d (.pe p n) a = noAddr := by
  have outside : inCr a.toNat 1 = false := by
    rw [Bool.eq_false_iff, ne_eq, inCr_iff]
    simp only [crBase, crSize, dramBase] at h ⊢
    omega
  have outside' : ch.inDram a.toNat 1 = false := by
    rw [Bool.eq_false_iff, ne_eq, inDram_iff]
    simp only [crBase, crSize, dramBase] at h ⊢
    omega
  simp only [Chip.aluA2d, outside, outside', Bool.false_eq_true, if_false]
  exact if_neg (by simp [crBase, crSize, dramBase] at h; omega)

end

/-! ### The statements -/

/-- Settles O4: each operation as arithmetic on A and B (R347). -/
theorem aluArithmeticResults : Obligations.AluArithmeticResults := by
  intro s c k u live n a b gives sat
  have answer := onCore_runAlu_live live k u
  refine ⟨(answer aluAdd).trans ?_, (answer aluSub).trans ?_, answer aluAdds, answer aluSubs, (answer aluMin).trans ?_,
    (answer aluMax).trans ?_, (answer aluMinu).trans ?_, (answer aluMaxu).trans ?_, (answer aluPack).trans ?_⟩
  · rw [aluAdd_eq]; rfl
  · rw [aluSub_eq]; rfl
  · rw [aluMin_eq]; rfl
  · rw [aluMax_eq]; rfl
  · rw [aluMinu_eq]; rfl
  · rw [aluMaxu_eq]; rfl
  · rw [aluPack_eq]; rfl

/-- Settles O5: each operation bit by bit or as arithmetic on A and B (R347). -/
theorem aluLogicAndShiftResults : Obligations.AluLogicAndShiftResults := by
  intro s c k u live n a b m gives ofBits
  have answer := onCore_runAlu_live live k u
  refine ⟨⟨_, fun j hj => ?_, answer aluAnd⟩, ⟨_, fun j hj => ?_, answer aluOr⟩, ⟨_, fun j hj => ?_, answer aluXor⟩,
    ⟨_, fun j hj => ?_, answer aluAndn⟩, (answer aluShl).trans ?_, (answer aluShr).trans ?_, (answer aluSar).trans ?_,
    ⟨_, fun j hj => getLsbD_aluRol a b hj, answer aluRol⟩, ⟨_, fun j hj => getLsbD_aluSext a b hj, answer aluSext⟩,
    ⟨_, fun j hj => getLsbD_aluZext a b hj, answer aluZext⟩⟩
  · exact BitVec.getLsbD_and
  · exact BitVec.getLsbD_or
  · exact BitVec.getLsbD_xor
  · rw [aluAndn, BitVec.getLsbD_and, BitVec.getLsbD_not]
    simp [hj, a, b, n, aluUnit]
  · rw [aluShl_eq]; rfl
  · rw [aluShr_eq]; rfl
  · rw [aluSar_eq]; rfl

/-- Settles O6: comparisons of A and B as numbers, and counts of the bits of A (R347). -/
theorem aluComparisonAndCountResults : Obligations.AluComparisonAndCountResults := by
  intro s c k u live n a b gives flag
  have answer := onCore_runAlu_live live k u
  obtain ⟨le, low, high⟩ := ctz_spec 64 a.toNat a.isLt
  refine ⟨(answer aluEq).trans ?_, (answer aluNe).trans ?_, (answer aluLt).trans ?_, (answer aluLtu).trans ?_, (answer aluLe).trans ?_,
    (answer aluLeu).trans ?_, ?_, ⟨_, le, low, high, answer aluCtz⟩, (answer aluPopc).trans ?_⟩
  · rw [aluEq_eq]; rfl
  · rw [aluNe_eq]; rfl
  · rw [aluLt_eq]; rfl
  · rw [aluLtu_eq]; rfl
  · rw [aluLe_eq]; rfl
  · rw [aluLeu_eq]; rfl
  · obtain ⟨z, le, below, above, e⟩ := aluClz_spec a b
    exact ⟨z, le, below, above, (answer aluClz).trans (by rw [← e]; rfl)⟩
  · rw [aluPopc_eq]; rfl

/-- D2A of a descriptor that names no SRAM of a pack. -/
theorem aluD2a_some {ch : Chip} {p : PackId} {n : PeId} {a : Qword} {x : Nat} (h : ch.descAddr (some p.val) a.toNat 1 = some x)
    (space : bits a.toNat 48 2 ≠ 2) : ch.aluD2a (.pe p n) a = BitVec.ofNat 64 x := by
  simp only [Chip.aluD2a, h, space, if_false]

theorem aluD2a_pack {ch : Chip} {p : PackId} {n : PeId} {a : Qword} {x : Nat} (h : ch.descAddr (some p.val) a.toNat 1 = some x)
    (space : bits a.toNat 48 2 = 2) : ch.aluD2a (.pe p n) a = BitVec.ofNat 64 (bits a.toNat 0 48) := by
  simp only [Chip.aluD2a, h, space, if_true]

theorem aluD2a_none {ch : Chip} {p : PackId} {n : PeId} {a : Qword} (h : ch.descAddr (some p.val) a.toNat 1 = none) :
    ch.aluD2a (.pe p n) a = noAddr := by
  simp only [Chip.aluD2a, h]

/-- Settles O7: D2A by SPACE of the descriptor, A2D by the range of the address (R351). -/
theorem aluAddressConversions : Obligations.AluAddressConversions := by
  intro s c p n u live k ch m a gives addr space mine pack
  have d2a : ∀ {v : Nat}, ch.aluD2a k (s.portOf c k (portCode m 0)) = BitVec.ofNat 64 v → exec (.d2a c k u) s = gives v :=
    fun h => (exec_d2a_live live k u).trans (congrArg (aluAnswer s c k u) h)
  have a2d : ∀ {v : Nat}, ch.aluA2d k (s.portOf c k (portCode m 0)) = BitVec.ofNat 64 v → exec (.a2d c k u) s = gives v :=
    fun h => (exec_a2d_live live k u).trans (congrArg (aluAnswer s c k u) h)
  have field : bits a 0 48 = addr := by simp [bits, addr]
  have ones : noAddr = BitVec.ofNat 64 (2 ^ 64 - 1) := by decide
  refine ⟨fun own sp _ fits => d2a ?_, fun own sp _ fits => d2a ?_, fun own sp pk fits => d2a ?_, fun h => d2a ?_,
    fun lo hi => a2d (aluA2d_cr ch p n lo hi), fun lo hi => a2d (aluA2d_dram ch p n lo hi), fun hi => a2d (aluA2d_sram ch p n hi),
    fun h => a2d ((aluA2d_none ch p n h).trans ones)⟩
  · rw [← field] at fits ⊢
    exact aluD2a_some (descAddr_dram own sp fits) (by rw [show bits a 48 2 = 0 from sp]; decide)
  · rw [← field] at fits ⊢
    exact aluD2a_some (descAddr_cr own sp fits) (by rw [show bits a 48 2 = 1 from sp]; decide)
  · rw [← field] at fits ⊢
    exact aluD2a_pack (descAddr_pack own sp (congrArg some pk.symm) fits) sp
  · refine (aluD2a_none (descAddr_none ?_)).trans ones
    rw [field]
    refine h.imp_right fun h => h.imp_right fun h => h.imp_left fun h => ⟨h.1, fun e => h.2 ?_⟩
    exact (Option.some.inj e).symm

end Sys2Proof.Machine
end

section
/-! SUPPORT. The unit VEC (R349): what its commands answer on a chip that acts, lanes and bits of the two results, and the statements. -/

namespace Sys2Proof.Machine

open Sys2Proof

/-! ### What a command of VEC answers -/

/-- The answer of a command of VEC that delivers `r` into VR and VS, and changes nothing else. -/
def vecAnswer (s : State) (c : ChipId) (k : CoreId) (r : Vec × Qword) : Res :=
  .next (s.withCore c k fun x => (x.setW (portCode 4 5) r.1).setQ (portCode 4 6) r.2)

/-- The operands in the ports of VEC. -/
def State.vecIn (s : State) (c : ChipId) (k : CoreId) : VecIn :=
  ⟨s.vportOf c k (portCode 4 0), s.vportOf c k (portCode 4 1), s.vportOf c k (portCode 4 2), (s.portOf c k (portCode 4 3)).setWidth 32⟩

theorem onCore_runVec_live {s : State} {c : ChipId} (h : Live s c) (k : CoreId) (f : VecIn → Vec × Qword) :
    onCore s c k (·.runVec f) = vecAnswer s c k (f (s.vecIn c k)) :=
  onCore_live h k (·.runVec f)

/-! ### Lanes of a vector -/

theorem getLsbD_lane (v : Vec) (i t : Nat) : (lane v i).getLsbD t = (decide (t < 16) && v.getLsbD (16 * i + t)) := by
  rw [lane, BitVec.getLsbD_extractLsb']

theorem getLsbD_ofLanes (f : Nat → BitVec 16) (b : Nat) (hb : b < 512) : (ofLanes f).getLsbD b = (f (b / 16)).getLsbD (b % 16) := by
  have upTo : ∀ n, n ≤ 32 → ((List.range n).foldl (fun (a : Vec) i => a ||| ((f i).setWidth 512 <<< (16 * i))) 0).getLsbD b =
      (decide (b < 16 * n) && (f (b / 16)).getLsbD (b % 16)) := by
    intro n hn
    induction n with
    | zero => simp
    | succ n ih =>
      rw [List.range_succ, List.foldl_append, List.foldl_cons, List.foldl_nil, BitVec.getLsbD_or, ih (by omega), BitVec.getLsbD_shiftLeft,
        BitVec.getLsbD_setWidth]
      by_cases below : b < 16 * n
      · have : b < 16 * (n + 1) := by omega
        simp [below, this]
      · by_cases here : b < 16 * (n + 1)
        · have lane : b / 16 = n := by omega
          have pos : b % 16 = b - 16 * n := by omega
          have inside : b - 16 * n < 512 := by omega
          simp [below, here, hb, lane, pos, inside]
        · have above : (f n).getLsbD (b - 16 * n) = false := BitVec.getLsbD_of_ge _ _ (by omega)
          simp [below, here, above]
  have all := upTo 32 (Nat.le_refl _)
  rw [decide_eq_true (by omega), Bool.true_and] at all
  exact all

theorem lane_ofLanes (f : Nat → BitVec 16) {j : Nat} (hj : j < 32) : lane (ofLanes f) j = f j := by
  apply BitVec.eq_of_getLsbD_eq
  intro t ht
  rw [getLsbD_lane, getLsbD_ofLanes _ _ (by omega), decide_eq_true ht, Bool.true_and, show (16 * j + t) / 16 = j by omega,
    show (16 * j + t) % 16 = t by omega]

theorem vecIn_mask (s : State) (c : ChipId) (k : CoreId) {j : Nat} (hj : j < 32) :
    (s.vecIn c k).m.getLsbD j = (s.portOf c k (portCode 4 3)).getLsbD j := by
  rw [State.vecIn, BitVec.getLsbD_setWidth, decide_eq_true hj, Bool.true_and]

/-! ### Arithmetic of lanes -/

theorem sat16_eq (x : Int) : sat16 x = BitVec.ofInt 16 (max (-32768) (min 32767 x)) := rfl

theorem lane_add_eq (a b : BitVec 16) : a + b = BitVec.ofNat 16 (a.toNat + b.toNat) := by
  rw [BitVec.ofNat_add]; simp

theorem lane_sub_eq (a b : BitVec 16) : a - b = BitVec.ofInt 16 (a.toInt - b.toInt) := by
  apply BitVec.eq_of_toInt_eq
  rw [BitVec.toInt_sub, BitVec.toInt_ofInt]

theorem lane_mul_eq (a b : BitVec 16) : a * b = BitVec.ofNat 16 (a.toNat * b.toNat) := by
  rw [BitVec.ofNat_mul]; simp

theorem lane_shl_eq (a b : BitVec 16) : a <<< (b.toNat % 16) = BitVec.ofNat 16 (a.toNat * 2 ^ (b.toNat % 16)) := by
  apply BitVec.eq_of_toNat_eq
  rw [BitVec.toNat_shiftLeft, Nat.shiftLeft_eq, BitVec.toNat_ofNat]

theorem lane_shr_eq (a b : BitVec 16) : a >>> (b.toNat % 16) = BitVec.ofNat 16 (a.toNat / 2 ^ (b.toNat % 16)) := by
  apply BitVec.eq_of_toNat_eq
  rw [BitVec.toNat_ushiftRight, Nat.shiftRight_eq_div_pow, BitVec.toNat_ofNat]
  refine (Nat.mod_eq_of_lt ?_).symm
  exact Nat.lt_of_le_of_lt (Nat.div_le_self ..) a.isLt

theorem lane_sar_eq (a b : BitVec 16) : a.sshiftRight (b.toNat % 16) = BitVec.ofInt 16 (a.toInt / 2 ^ (b.toNat % 16)) := by
  rw [BitVec.sshiftRight, Int.shiftRight_eq_div_pow]
  simp

/-! ### Lane-wise operations -/

/-- A command that runs a lane-wise operation `f` delivers lanes of `g`, where the two are equal. -/
theorem lanewise_answer {s : State} {c : ChipId} (h : Live s c) (k : CoreId) (f g : BitVec 16 → BitVec 16 → BitVec 16 → BitVec 16)
    (e : ∀ a b x, f a b x = g a b x) : ∃ v : Vec,
      (∀ j, j < 32 → lane v j = if (s.portOf c k (portCode 4 3)).getLsbD j then
        g (lane (s.vportOf c k (portCode 4 0)) j) (lane (s.vportOf c k (portCode 4 1)) j) (lane (s.vportOf c k (portCode 4 2)) j)
        else lane (s.vportOf c k (portCode 4 0)) j) ∧
      onCore s c k (·.runVec (lanewise f)) = .next (s.withCore c k fun x => (x.setW (portCode 4 5) v).setQ (portCode 4 6) 0) := by
  refine ⟨_, fun j hj => ?_, onCore_runVec_live h k (lanewise f)⟩
  rw [lanewise, lane_ofLanes _ hj, vecIn_mask s c k hj, e]
  rfl

/-- Settles O9: each operation lane by lane, as arithmetic on the lanes of the operands (R349). -/
theorem vecLaneResults : Obligations.VecLaneResults := by
  intro s c k live va vb vc vm sat lanes
  have answer (f g : BitVec 16 → BitVec 16 → BitVec 16 → BitVec 16) (e : ∀ a b x, f a b x = g a b x) := lanewise_answer live k f g e
  have plain (f : BitVec 16 → BitVec 16 → BitVec 16 → BitVec 16) := answer f f fun _ _ _ => rfl
  exact ⟨
    answer (fun a b _ => a + b) (fun a b _ => BitVec.ofNat 16 (a.toNat + b.toNat)) fun a b _ => lane_add_eq a b,
    answer (fun a b _ => a - b) (fun a b _ => BitVec.ofInt 16 (a.toInt - b.toInt)) fun a b _ => lane_sub_eq a b,
    plain fun a b _ => sat (a.toInt + b.toInt),
    plain fun a b _ => sat (a.toInt - b.toInt),
    answer (fun a b _ => a * b) (fun a b _ => BitVec.ofNat 16 (a.toNat * b.toNat)) fun a b _ => lane_mul_eq a b,
    plain fun a b _ => sat ((a.toInt * b.toInt + 0x4000) / 2 ^ 15),
    plain fun a b x => sat (x.toInt + (a.toInt * b.toInt + 0x4000) / 2 ^ 15),
    answer (fun a b _ => if a.slt b then a else b) (fun a b _ => if a.toInt < b.toInt then a else b) fun a b _ => by simp [BitVec.slt],
    answer (fun a b _ => if a.slt b then b else a) (fun a b _ => if a.toInt < b.toInt then b else a) fun a b _ => by simp [BitVec.slt],
    plain fun a b _ => a &&& b,
    plain fun a b _ => a ||| b,
    plain fun a b _ => a ^^^ b,
    answer (fun a b _ => a <<< (b.toNat % 16)) (fun a b _ => BitVec.ofNat 16 (a.toNat * 2 ^ (b.toNat % 16))) fun a b _ => lane_shl_eq a b,
    answer (fun a b _ => a >>> (b.toNat % 16)) (fun a b _ => BitVec.ofNat 16 (a.toNat / 2 ^ (b.toNat % 16))) fun a b _ => lane_shr_eq a b,
    answer (fun a b _ => a.sshiftRight (b.toNat % 16)) (fun a b _ => BitVec.ofInt 16 (a.toInt / 2 ^ (b.toNat % 16))) fun a b _ =>
      lane_sar_eq a b,
    plain fun a b _ => BitVec.ofNat 16 (fp16.add a.toNat b.toNat),
    plain fun a b _ => BitVec.ofNat 16 (fp16.mul a.toNat b.toNat),
    plain fun a b x => BitVec.ofNat 16 (fp16.fma a.toNat b.toNat x.toNat),
    plain fun a _ _ => BitVec.ofInt 16 (halfToInt a.toNat),
    plain fun a _ _ => BitVec.ofNat 16 (fp16.ofInt a.toInt)⟩

/-! ### Comparisons -/

theorem testBit_sumBits (p : Nat → Bool) (n : Nat) :
    (List.range n).foldl (fun a i => a + bnat (p i) * 2 ^ i) 0 < 2 ^ n ∧
      ∀ j, ((List.range n).foldl (fun a i => a + bnat (p i) * 2 ^ i) 0).testBit j = (decide (j < n) && p j) := by
  induction n with
  | zero => simp
  | succ n ih =>
    obtain ⟨lt, ih⟩ := ih
    rw [List.range_succ, List.foldl_append, List.foldl_cons, List.foldl_nil]
    generalize (List.range n).foldl (fun a i => a + bnat (p i) * 2 ^ i) 0 = x at lt ih
    have bit : bnat (p n) ≤ 1 := by cases p n <;> decide
    refine ⟨?_, fun j => ?_⟩
    · have : bnat (p n) * 2 ^ n ≤ 1 * 2 ^ n := Nat.mul_le_mul_right _ bit
      rw [Nat.pow_succ]
      omega
    · rw [Nat.add_comm, Nat.mul_comm, Nat.testBit_two_pow_mul_add _ lt]
      split
      · next below => simp [ih, below, Nat.lt_succ_of_lt below]
      · next high =>
        obtain rfl | above := Nat.eq_or_lt_of_not_lt high
        · rw [Nat.sub_self]
          cases p j <;> simp [bnat]
        · have e : ∃ i, j - n = i + 1 := ⟨j - n - 1, by omega⟩
          obtain ⟨i, e⟩ := e
          have : ¬ j < n + 1 := by omega
          rw [e, Nat.testBit_succ, decide_eq_false this]
          cases p n <;> simp [bnat]

/-- A comparison delivers its lanes and its mask. -/
theorem lanecmp_answer {s : State} {c : ChipId} (h : Live s c) (k : CoreId) (f g : BitVec 16 → BitVec 16 → Bool)
    (e : ∀ a b, f a b = g a b) :
    let va := s.vportOf c k (portCode 4 0)
    let vb := s.vportOf c k (portCode 4 1)
    let vm := s.portOf c k (portCode 4 3)
    ∃ (v : Vec) (q : Qword),
      (∀ j, j < 32 → lane v j = if vm.getLsbD j then (if g (lane va j) (lane vb j) then 0xFFFF#16 else 0#16) else lane va j) ∧
      (∀ j, j < 64 → q.getLsbD j = (decide (j < 32) && vm.getLsbD j && g (lane va j) (lane vb j))) ∧
      onCore s c k (·.runVec (lanecmp f)) = .next (s.withCore c k fun x => (x.setW (portCode 4 5) v).setQ (portCode 4 6) q) := by
  intro va vb vm
  refine ⟨_, _, fun j hj => ?_, fun j hj => ?_, onCore_runVec_live h k (lanecmp f)⟩
  · rw [lanecmp, lane_ofLanes _ hj, vecIn_mask s c k hj, e]
    rfl
  · rw [lanecmp, BitVec.getLsbD_ofNat, decide_eq_true hj, Bool.true_and, (testBit_sumBits _ 32).2, e]
    by_cases low : j < 32
    · rw [vecIn_mask s c k low, Bool.and_assoc]
      rfl
    · simp [low]

/-! ### Selections and moves of qwords -/

theorem lane_vecIns (x : VecIn) {j : Nat} (hj : j < 32) :
    lane (vecIns x).1 j = if x.m.getLsbD j && decide (j / 4 = x.b.toNat % 8) then lane x.c (j % 4) else lane x.a j := by
  have qw : x.b.toNat % 8 < 8 := Nat.mod_lt _ (by decide)
  rw [vecIns, lane_ofLanes _ hj]
  cases x.m.getLsbD j with
  | false => simp
  | true =>
    apply BitVec.eq_of_getLsbD_eq
    intro t ht
    rw [if_pos rfl, Bool.true_and, getLsbD_lane, decide_eq_true ht, Bool.true_and, BitVec.getLsbD_or, BitVec.getLsbD_and, BitVec.getLsbD_not,
      BitVec.getLsbD_shiftLeft, BitVec.getLsbD_shiftLeft, BitVec.getLsbD_setWidth, BitVec.getLsbD_setWidth, BitVec.getLsbD_extractLsb',
      BitVec.getLsbD_allOnes]
    generalize x.b.toNat % 8 = q at qw
    by_cases here : j / 4 = q
    · have pos : 16 * j + t - 64 * q = 16 * (j % 4) + t := by omega
      rw [if_pos (by simpa using here), getLsbD_lane]
      simp [pos, ht, show 16 * j + t < 512 by omega, show ¬16 * j + t < 64 * q by omega, show 16 * (j % 4) + t < 64 by omega,
        show 16 * (j % 4) + t < 512 by omega]
    · rw [if_neg (by simpa using here), getLsbD_lane]
      by_cases below : 16 * j + t < 64 * q
      · simp [below, ht, show 16 * j + t < 512 by omega]
      · simp [below, ht, show 16 * j + t < 512 by omega, show ¬16 * j + t - 64 * q < 64 by omega]

/-! ### Reductions -/

/-- The lanes of `v` that the mask selects, as signed numbers in order. -/
def selected (v : Vec) (m : Nat → Bool) : List Int := ((List.range 32).filter m).map fun j => (lane v j).toInt

theorem reduce_eq (init : Int) (f : Int → Int → Int) (x : VecIn) :
    reduce init f x = (0, BitVec.ofInt 64 ((selected x.a fun j => x.m.getLsbD j).foldl f init)) := by
  rw [reduce, selected, List.foldl_map, List.foldl_filter]

theorem selected_congr (v : Vec) {m m' : Nat → Bool} (h : ∀ j, j < 32 → m j = m' j) : selected v m = selected v m' := by
  rw [selected, selected, List.filter_congr fun j hj => h j (List.mem_range.mp hj)]

theorem selected_bounds {v : Vec} {m : Nat → Bool} {x : Int} (h : x ∈ selected v m) : -32768 ≤ x ∧ x ≤ 32767 := by
  obtain ⟨j, -, rfl⟩ := List.mem_map.mp h
  exact ⟨(lane v j).le_toInt, Int.le_of_lt_add_one (lane v j).toInt_lt⟩

theorem foldl_max_spec (l : List Int) (init : Int) :
    init ≤ l.foldl max init ∧ (∀ x ∈ l, x ≤ l.foldl max init) ∧ (l.foldl max init ∈ l ∨ l.foldl max init = init) := by
  induction l generalizing init with
  | nil => simp
  | cons y l ih =>
    obtain ⟨above, each, found⟩ := ih (max init y)
    rw [List.foldl_cons]
    refine ⟨by omega, fun x hx => ?_, ?_⟩
    · obtain rfl | hx := List.mem_cons.mp hx
      · omega
      · exact each x hx
    · obtain found | found := found
      · exact .inl (List.mem_cons_of_mem _ found)
      · rw [found]
        obtain h | h := Int.le_total init y
        · exact .inl (by rw [Int.max_eq_right h]; exact List.mem_cons_self ..)
        · exact .inr (Int.max_eq_left h)

theorem foldl_min_spec (l : List Int) (init : Int) :
    l.foldl min init ≤ init ∧ (∀ x ∈ l, l.foldl min init ≤ x) ∧ (l.foldl min init ∈ l ∨ l.foldl min init = init) := by
  induction l generalizing init with
  | nil => simp
  | cons y l ih =>
    obtain ⟨above, each, found⟩ := ih (min init y)
    rw [List.foldl_cons]
    refine ⟨by omega, fun x hx => ?_, ?_⟩
    · obtain rfl | hx := List.mem_cons.mp hx
      · omega
      · exact each x hx
    · obtain found | found := found
      · exact .inl (List.mem_cons_of_mem _ found)
      · rw [found]
        obtain h | h := Int.le_total init y
        · exact .inr (Int.min_eq_left h)
        · exact .inl (by rw [Int.min_eq_right h]; exact List.mem_cons_self ..)

/-- A sum from the left is the start added to the sum from the right. -/
theorem foldl_add_eq (l : List Int) (a : Int) : l.foldl (· + ·) a = a + l.foldr (· + ·) 0 := by
  induction l generalizing a with
  | nil => exact (Int.add_zero a).symm
  | cons x l ih => rw [List.foldl_cons, ih, List.foldr_cons, Int.add_assoc]

theorem toInt_ofInt_lane {x : Int} (lo : -32768 ≤ x) (hi : x ≤ 32767) : (BitVec.ofInt 64 x).toInt = x :=
  BitVec.toInt_ofInt_eq_self (by decide) (by omega) (by omega)

/-- Settles O10: comparisons, selections and moves lane by lane, reductions as folds over the selected lanes (R349). -/
theorem vecMaskAndReductionResults : Obligations.VecMaskAndReductionResults := by
  intro s c k live va vb vc vm on vals gives compares fills qw
  have answer := onCore_runVec_live live k
  have picked : selected va (fun j => (s.vecIn c k).m.getLsbD j) = vals := selected_congr va fun j hj => vecIn_mask s c k hj
  have reduced : ∀ init f, reduce init f (s.vecIn c k) = (0, BitVec.ofInt 64 (vals.foldl f init)) := fun init f => by
    rw [reduce_eq, ← picked]; rfl
  have bounds : ∀ x ∈ vals, -32768 ≤ x ∧ x ≤ 32767 := fun x hx => selected_bounds (picked ▸ hx)
  have cmpeq := lanecmp_answer live k (fun a b => a == b) (fun a b => decide (a.toNat = b.toNat)) fun a b => by
    simp only [eq_beq_decide, BitVec.toNat_eq]
  have cmplt := lanecmp_answer live k (fun a b => a.slt b) (fun a b => decide (a.toInt < b.toInt)) fun _ _ => rfl
  refine ⟨cmpeq, cmplt, ⟨_, fun j hj => ?_, answer vecSel⟩, ⟨_, fun j hj => ?_, answer vecPerm⟩, ?_, ?_, ?_, answer vecExt,
    ⟨_, fun j hj => ?_, answer vecIns⟩⟩
  · rw [vecSel, lane_ofLanes _ hj, vecIn_mask s c k hj]
    rfl
  · rw [vecPerm, lane_ofLanes _ hj]
    rfl
  · refine (answer vecRsum).trans ?_
    rw [vecRsum, reduced, foldl_add_eq, Int.zero_add]
    rfl
  · obtain ⟨-, each, found⟩ := foldl_max_spec vals (-32768)
    have value : (BitVec.ofInt 64 (vals.foldl max (-32768))).toInt = vals.foldl max (-32768) := by
      obtain found | found := found
      · exact toInt_ofInt_lane (bounds _ found).1 (bounds _ found).2
      · rw [found]; decide
    refine ⟨BitVec.ofInt 64 (vals.foldl max (-32768)), by rwa [value], by rwa [value], (answer vecRmax).trans ?_⟩
    rw [vecRmax, reduced]
    rfl
  · obtain ⟨-, each, found⟩ := foldl_min_spec vals 32767
    have value : (BitVec.ofInt 64 (vals.foldl min 32767)).toInt = vals.foldl min 32767 := by
      obtain found | found := found
      · exact toInt_ofInt_lane (bounds _ found).1 (bounds _ found).2
      · rw [found]; decide
    refine ⟨BitVec.ofInt 64 (vals.foldl min 32767), by rwa [value], by rwa [value], (answer vecRmin).trans ?_⟩
    rw [vecRmin, reduced]
    rfl
  · rw [lane_vecIns _ hj, vecIn_mask s c k hj]
    rfl

end Sys2Proof.Machine
end

section
/-! SUPPORT. The unit DEC (R360, R361): what its commands answer on a chip that acts, digits and values of packed numbers, frame counts of
timecodes, and the statements. -/

namespace Sys2Proof.Machine

open Sys2Proof

/-! ### What a command of DEC answers -/

/-- The answer of a command of DEC that delivers `r` into R and C, and changes nothing else. -/
def decAnswer (s : State) (c : ChipId) (k : CoreId) (r : DecRes) : Res :=
  .next (s.withCore c k fun x => (x.setQ (portCode 7 4) (BitVec.ofNat 64 r.r)).setQ (portCode 7 5) (BitVec.ofNat 64 r.c))

theorem onCore_runDec_live {s : State} {c : ChipId} (h : Live s c) (k : CoreId) (f : Nat → Nat → Nat → DecRes) :
    onCore s c k (·.runDec f) = decAnswer s c k
      (f (s.portOf c k (portCode 7 0)).toNat (s.portOf c k (portCode 7 1)).toNat ((s.portOf c k (portCode 7 2)).toNat % 256)) :=
  onCore_live h k (·.runDec f)

/-! ### Packed numbers -/

/-- The number with hexadecimal digits `d` below digit `n`. -/
def ofDigits16 (d : Nat → Nat) (n : Nat) : Nat := (List.range n).foldl (fun a i => a + d i * 16 ^ i) 0

theorem ofDigits16_succ (d : Nat → Nat) (n : Nat) : ofDigits16 d (n + 1) = ofDigits16 d n + d n * 16 ^ n := by
  rw [ofDigits16, ofDigits16, List.range_succ, List.foldl_append]
  rfl

theorem ofDigits16_lt {d : Nat → Nat} (hd : ∀ i, d i < 16) (n : Nat) : ofDigits16 d n < 16 ^ n := by
  induction n with
  | zero => exact Nat.one_pos
  | succ n ih =>
    have top : d n * 16 ^ n ≤ 15 * 16 ^ n := Nat.mul_le_mul_right _ (Nat.le_of_lt_succ (hd n))
    rw [ofDigits16_succ, Nat.pow_succ]
    omega

theorem ofDigits16_div_mod {d : Nat → Nat} (hd : ∀ i, d i < 16) {n j : Nat} (hj : j < n) : ofDigits16 d n / 16 ^ j % 16 = d j := by
  induction n with
  | zero => cases hj
  | succ n ih =>
    rw [ofDigits16_succ]
    obtain below | rfl := Nat.lt_or_eq_of_le (Nat.le_of_lt_succ hj)
    · obtain ⟨e, rfl⟩ : ∃ e, n = j + 1 + e := ⟨n - (j + 1), by omega⟩
      have split : d (j + 1 + e) * 16 ^ (j + 1 + e) = 16 ^ j * (16 * (d (j + 1 + e) * 16 ^ e)) := by
        rw [Nat.pow_add, Nat.pow_succ]
        ac_rfl
      rw [split, Nat.add_mul_div_left _ _ (Nat.pow_pos (by decide)), Nat.add_mul_mod_self_left]
      exact ih below
    · rw [Nat.add_mul_div_right _ _ (Nat.pow_pos (by decide)), Nat.div_eq_of_lt (ofDigits16_lt hd j), Nat.zero_add]
      exact Nat.mod_eq_of_lt (hd j)

theorem nib_eq (v j : Nat) : nib v j = v / 16 ^ j % 16 :=
  congrArg (fun m => v / m % 16) (Nat.pow_mul 2 4 j)

theorem nib_ofDigits16 {d : Nat → Nat} (hd : ∀ i, d i < 16) {j : Nat} (hj : j < 16) : nib (ofDigits16 d 16) j = d j := by
  rw [nib_eq, ofDigits16_div_mod hd hj]

/-- Decimal digits of a number below a power of ten add up to it. -/
theorem sumDigits10 (m n : Nat) : (List.range n).foldl (fun a i => a + m / 10 ^ i % 10 * 10 ^ i) 0 = m % 10 ^ n := by
  induction n with
  | zero => simp [Nat.mod_one]
  | succ n ih =>
    rw [List.range_succ, List.foldl_append, ih, Nat.mod_pow_succ, List.foldl_cons, List.foldl_nil, Nat.mul_comm (m / 10 ^ n % 10)]

theorem foldl_congr_range {f g : Nat → Nat → Nat} (n : Nat) (h : ∀ a i, i < n → f a i = g a i) (x : Nat) :
    (List.range n).foldl f x = (List.range n).foldl g x :=
  foldl_congr_mem f g x fun a i hi => h a i (List.mem_range.mp hi)

theorem digit10_lt (m i : Nat) : m / 10 ^ i % 10 < 16 := Nat.lt_trans (Nat.mod_lt _ (by decide)) (by decide)

theorem toBcd_eq (m : Nat) : toBcd m = ofDigits16 (fun i => m / 10 ^ i % 10) 16 := rfl

theorem toBcd_lt (m : Nat) : toBcd m < 2 ^ 64 := ofDigits16_lt (digit10_lt m) 16

theorem nib_toBcd (m : Nat) {j : Nat} (hj : j < 16) : nib (toBcd m) j = m / 10 ^ j % 10 := nib_ofDigits16 (digit10_lt m) hj

theorem bcdOk_toBcd (m : Nat) : bcdOk (toBcd m) = true := by
  rw [bcdOk, List.all_eq_true]
  intro j hj
  rw [nib_toBcd m (List.mem_range.mp hj), decide_eq_true_eq]
  exact Nat.le_of_lt_succ (Nat.mod_lt _ (by decide))

theorem bcdVal_toBcd {m : Nat} (hm : m < 10 ^ 16) : bcdVal (toBcd m) = m := by
  have digits : bcdVal (toBcd m) = (List.range 16).foldl (fun a i => a + m / 10 ^ i % 10 * 10 ^ i) 0 :=
    foldl_congr_range 16 (fun a i hi => by rw [nib_toBcd m hi]) 0
  rw [digits, sumDigits10, Nat.mod_eq_of_lt hm]

/-- C of a result without days whose CARRY is `p`. -/
theorem decC_carry (p : Prop) [Decidable p] : decC (decide p) false 0 = if p then 1 else 0 := by
  by_cases h : p <;> simp [decC, bnat, h]

theorem decInvalid_eq : decInvalid = ⟨0, 2⟩ := rfl

theorem decAdd_ok {a b : Nat} (ha : bcdOk a = true) (hb : bcdOk b = true) :
    decAdd a b = ⟨toBcd ((bcdVal a + bcdVal b) % 10 ^ 16), if 10 ^ 16 ≤ bcdVal a + bcdVal b then 1 else 0⟩ := by
  rw [decAdd, if_pos (by rw [ha, hb]; rfl)]
  dsimp only
  rw [decC_carry]

theorem decSub_ok {a b : Nat} (ha : bcdOk a = true) (hb : bcdOk b = true) :
    decSub a b = ⟨toBcd ((bcdVal a + 10 ^ 16 - bcdVal b) % 10 ^ 16), if bcdVal a < bcdVal b then 1 else 0⟩ := by
  rw [decSub, if_pos (by rw [ha, hb]; rfl)]
  dsimp only
  rw [decC_carry]

theorem decAdd_bad {a b : Nat} (h : (bcdOk a && bcdOk b) = false) : decAdd a b = ⟨0, 2⟩ := by
  rw [decAdd, if_neg (by rw [h]; exact Bool.false_ne_true), decInvalid_eq]

theorem decSub_bad {a b : Nat} (h : (bcdOk a && bcdOk b) = false) : decSub a b = ⟨0, 2⟩ := by
  rw [decSub, if_neg (by rw [h]; exact Bool.false_ne_true), decInvalid_eq]

theorem decD2B_ok {a : Nat} (h : bcdOk a = true) : decD2B a = ⟨bcdVal a, 0⟩ := by
  rw [decD2B, if_pos h]

theorem decD2B_bad {a : Nat} (h : bcdOk a = false) : decD2B a = ⟨0, 2⟩ := by
  rw [decD2B, if_neg (by rw [h]; exact Bool.false_ne_true), decInvalid_eq]

theorem decB2D_small {a : Nat} (h : a < 10 ^ 16) : decB2D a = ⟨toBcd a, 0⟩ := by
  rw [decB2D, if_neg (Nat.not_le.mpr h)]

theorem decB2D_big {a : Nat} (h : 10 ^ 16 ≤ a) : decB2D a = ⟨0x9999999999999999, 1⟩ := by
  rw [decB2D, if_pos h]
  rfl

/-! ### DADJ -/

/-- The carry into digit `i` of DADJ. -/
def adjCarry (a : Nat) : Nat → Nat
  | 0 => 0
  | i + 1 => if 10 ≤ nib a i + adjCarry a i then 1 else 0

/-- Digit `i` that DADJ delivers. -/
def adjDigit (a i : Nat) : Nat := nib a i + adjCarry a i - 10 * adjCarry a (i + 1)

theorem nib_lt (a i : Nat) : nib a i < 16 := Nat.mod_lt _ (by decide)

theorem adjCarry_le (a i : Nat) : adjCarry a i ≤ 1 := by
  cases i with
  | zero => exact Nat.zero_le 1
  | succ i => rw [adjCarry]; split <;> omega

theorem adjDigit_spec (a i : Nat) : adjDigit a i + 10 * adjCarry a (i + 1) = nib a i + adjCarry a i ∧ adjDigit a i < 10 := by
  have small := nib_lt a i
  have carry := adjCarry_le a i
  rw [adjDigit, adjCarry]
  split <;> omega

theorem decAdj_fold (a n : Nat) : (List.range n).foldl (fun (st : Nat × Nat) i =>
    let n := nib a i + st.2
    if n ≥ 10 then (st.1 + (n - 10) * 16 ^ i, 1) else (st.1 + n * 16 ^ i, 0)) (0, 0) = (ofDigits16 (adjDigit a) n, adjCarry a n) := by
  induction n with
  | zero => rfl
  | succ n ih =>
    rw [List.range_succ, List.foldl_append, ih, ofDigits16_succ, List.foldl_cons, List.foldl_nil, adjDigit, adjCarry]
    dsimp only
    split <;> rfl

theorem decAdj_eq (a : Nat) : decAdj a = ⟨ofDigits16 (adjDigit a) 16, adjCarry a 16⟩ := by
  have carry : decC (adjCarry a 16 == 1) false 0 = adjCarry a 16 := by
    have le := adjCarry_le a 16
    obtain e | e : adjCarry a 16 = 0 ∨ adjCarry a 16 = 1 := by omega
    · rw [e]; rfl
    · rw [e]; rfl
  rw [decAdj, decAdj_fold, carry]

/-! ### The statement about packed numbers -/

section
variable {s : State} {c : ChipId} (live : Live s c) (k : CoreId)
include live

theorem exec_badd : exec (.badd c k) s = decAnswer s c k (decAdd (s.portOf c k (portCode 7 0)).toNat (s.portOf c k (portCode 7 1)).toNat) :=
  onCore_runDec_live live k fun a b _ => decAdd a b

theorem exec_bsub : exec (.bsub c k) s = decAnswer s c k (decSub (s.portOf c k (portCode 7 0)).toNat (s.portOf c k (portCode 7 1)).toNat) :=
  onCore_runDec_live live k fun a b _ => decSub a b

theorem exec_d2b : exec (.d2b c k) s = decAnswer s c k (decD2B (s.portOf c k (portCode 7 0)).toNat) :=
  onCore_runDec_live live k fun a _ _ => decD2B a

theorem exec_b2d : exec (.b2d c k) s = decAnswer s c k (decB2D (s.portOf c k (portCode 7 0)).toNat) :=
  onCore_runDec_live live k fun a _ _ => decB2D a

theorem exec_dadj : exec (.dadj c k) s = decAnswer s c k (decAdj (s.portOf c k (portCode 7 0)).toNat) :=
  onCore_runDec_live live k fun a _ _ => decAdj a

end

theorem mod_ten_pow_lt (m : Nat) : m % 10 ^ 16 < 10 ^ 16 := Nat.mod_lt _ (Nat.pow_pos (by decide))

theorem adjDigit_lt (a i : Nat) : adjDigit a i < 16 := Nat.lt_trans (adjDigit_spec a i).2 (by decide)

/-- Settles O11: results by value of the packed operands, and DADJ digit by digit with its carries (R360). -/
theorem decimalResults : Obligations.DecimalResults := by
  intro s c k live a b gives packed
  have pack : ∀ (i : Instr) (v cc : Nat), v < 10 ^ 16 → exec i s = decAnswer s c k ⟨toBcd v, cc⟩ → packed i v cc :=
    fun i v cc hv h => ⟨toBcd v, toBcd_lt v, bcdOk_toBcd v, bcdVal_toBcd hv, h⟩
  have give : ∀ (i : Instr) (r cc : Nat), exec i s = decAnswer s c k ⟨r, cc⟩ → gives i r cc := fun _ _ _ h => h
  clear_value packed gives
  refine ⟨fun ha hb => ⟨pack _ _ _ (mod_ten_pow_lt _) ?_, pack _ _ _ (mod_ten_pow_lt _) ?_⟩, fun ha => give _ _ _ ?_,
    fun h => ⟨give _ _ _ ?_, give _ _ _ ?_⟩, fun ha => give _ _ _ ?_, fun ha => pack _ _ _ ha ?_, fun ha => give _ _ _ ?_,
    ofDigits16 (adjDigit a) 16, adjCarry a, ofDigits16_lt (adjDigit_lt a) 16, rfl, fun j hj => ?_, give _ _ _ ?_⟩
  · rw [exec_badd live, decAdd_ok ha hb]
  · rw [exec_bsub live, decSub_ok ha hb]
  · rw [exec_d2b live, decD2B_ok ha]
  · rw [exec_badd live, decAdd_bad h]
  · rw [exec_bsub live, decSub_bad h]
  · rw [exec_d2b live, decD2B_bad ha]
  · rw [exec_b2d live, decB2D_small ha]
  · rw [exec_b2d live, decB2D_big ha]
  · rw [nib_ofDigits16 (adjDigit_lt a) hj]
    exact ⟨(adjDigit_spec a j).1, (adjDigit_spec a j).2, adjCarry_le a _⟩
  · rw [exec_dadj live, decAdj_eq]

end Sys2Proof.Machine
end

section
/-! SUPPORT. Timecodes of DEC (R360, R361): frame counts and timecodes are inverse below a day, what each command answers with a legal and
with an illegal rate, and the statement. -/

namespace Sys2Proof.Machine

open Sys2Proof

/-! ### Timecodes and frame counts -/

theorem pack2_eq {n : Nat} (h : n < 100) : pack2 n = n / 10 * 16 + n % 10 := by
  rw [pack2, Nat.mod_eq_of_lt (a := n / 10) (by omega)]

theorem pack2_lt {n : Nat} (h : n < 100) : pack2 n < 256 := by
  rw [pack2_eq h]; omega

theorem bcd2_pack2 {n : Nat} (h : n < 100) : bcd2 (pack2 n) = some n := by
  have low : pack2 n % 16 = n % 10 := by rw [pack2_eq h]; omega
  have high : pack2 n / 16 % 16 = n / 10 := by rw [pack2_eq h]; omega
  rw [bcd2, low, high, if_pos (by omega), Option.some.injEq]
  omega

/-- Hours, minutes, seconds and frames of a frame count below a day: their bounds, and the count they make. -/
theorem frames_parts {rate n : Nat} (pos : 1 ≤ rate) (h : n < dayFrames rate) :
    n / rate / 3600 ≤ 23 ∧ n / rate / 60 % 60 ≤ 59 ∧ n / rate % 60 ≤ 59 ∧ n % rate < rate ∧
      ((n / rate / 3600 * 60 + n / rate / 60 % 60) * 60 + n / rate % 60) * rate + n % rate = n := by
  have seconds : n / rate < 86400 := Nat.div_lt_of_lt_mul (by rwa [dayFrames, Nat.mul_comm] at h)
  have whole : (n / rate / 3600 * 60 + n / rate / 60 % 60) * 60 + n / rate % 60 = n / rate := by omega
  refine ⟨by omega, by omega, by omega, Nat.mod_lt _ pos, ?_⟩
  rw [whole, Nat.mul_comm, Nat.div_add_mod]

theorem bits_bytes {h m s f : Nat} (hm : m < 256) (hs : s < 256) (hf : f < 256) (hh : h < 256) :
    bits (h * 2 ^ 24 + m * 2 ^ 16 + s * 2 ^ 8 + f) 24 8 = h ∧ bits (h * 2 ^ 24 + m * 2 ^ 16 + s * 2 ^ 8 + f) 16 8 = m ∧
      bits (h * 2 ^ 24 + m * 2 ^ 16 + s * 2 ^ 8 + f) 8 8 = s ∧ bits (h * 2 ^ 24 + m * 2 ^ 16 + s * 2 ^ 8 + f) 0 8 = f := by
  simp only [bits]
  omega

theorem tcFrames_framesTc {rate n : Nat} (pos : 1 ≤ rate) (le : rate ≤ 100) (h : n < dayFrames rate) :
    tcFrames rate (framesTc rate n) = some n := by
  obtain ⟨hh, mm, ss, ff, whole⟩ := frames_parts pos h
  have h24 := pack2_lt (n := n / rate / 3600) (by omega)
  have h16 := pack2_lt (n := n / rate / 60 % 60) (by omega)
  have h8 := pack2_lt (n := n / rate % 60) (by omega)
  have h0 := pack2_lt (n := n % rate) (by omega)
  have legal : ¬ (rate = 0 ∨ rate > 100 ∨ framesTc rate n ≥ 2 ^ 32) := by
    rw [framesTc]
    omega
  obtain ⟨b24, b16, b8, b0⟩ := bits_bytes h16 h8 h0 h24
  rw [tcFrames, if_neg legal, framesTc, b24, b16, b8, b0, bcd2_pack2 (by omega), bcd2_pack2 (by omega), bcd2_pack2 (by omega), bcd2_pack2 (by omega)]
  dsimp only
  rw [if_pos ⟨hh, mm, ss, ff⟩, whole]

theorem tcFrames_badRate {rate : Nat} (h : rate = 0 ∨ 100 < rate) (tc : Nat) : tcFrames rate tc = none :=
  if_pos (h.imp_right .inl)

/-- The timecode of a frame count below a day, digit by digit. -/
theorem framesTc_digits {rate n : Nat} (pos : 1 ≤ rate) (le : rate ≤ 100) (h : n < dayFrames rate) :
    framesTc rate n = (n / rate / 3600 / 10 * 16 + n / rate / 3600 % 10) * 2 ^ 24 + (n / rate / 60 % 60 / 10 * 16 + n / rate / 60 % 60 % 10) * 2 ^ 16
      + (n / rate % 60 / 10 * 16 + n / rate % 60 % 10) * 2 ^ 8 + (n % rate / 10 * 16 + n % rate % 10) := by
  obtain ⟨hh, mm, ss, ff, -⟩ := frames_parts pos h
  rw [framesTc, pack2_eq (by omega), pack2_eq (by omega), pack2_eq (by omega), pack2_eq (by omega)]

/-! ### Results -/

/-- C with `d` days wrapped. -/
def daysC (d : Nat) : Nat := (if d = 0 then 0 else 1) + min d 0xFFFFFFFF * 2 ^ 32

theorem decC_days (d : Nat) : decC (decide (0 < d)) false d = daysC d := by
  rcases Nat.eq_zero_or_pos d with rfl | pos
  · rfl
  · simp [decC, daysC, bnat, pos, Nat.pos_iff_ne_zero.mp pos]

theorem f2tc_ok {rate : Nat} (pos : 1 ≤ rate) (le : rate ≤ 100) (n : Nat) :
    f2tc rate n = ⟨framesTc rate (n % dayFrames rate), daysC (n / dayFrames rate)⟩ := by
  rw [f2tc, if_neg (by omega)]
  dsimp only
  rw [decC_days]

theorem f2tc_badRate {rate : Nat} (h : rate = 0 ∨ 100 < rate) (n : Nat) : f2tc rate n = ⟨0, 2⟩ := by
  rw [f2tc, if_pos h, decInvalid_eq]

theorem ns2tc_eq (rate a : Nat) : ns2tc rate a = f2tc rate (a * rate / 10 ^ 9) := by
  rw [ns2tc, show (10 : Nat) ^ 9 = 1000000000 from rfl]

theorem tcAdd_of_frames {rate a x : Nat} (h : tcFrames rate a = some x) (b : Nat) : tcAdd rate a b = f2tc rate (x + b) := by
  rw [tcAdd, h]

theorem tc2f_of_frames {rate a x : Nat} (h : tcFrames rate a = some x) : tc2f rate a = ⟨x, 0⟩ := by
  rw [tc2f, h]

theorem tcDiff_of_frames {rate a b x y : Nat} (ha : tcFrames rate a = some x) (hb : tcFrames rate b = some y) :
    tcDiff rate a b = ⟨(x + dayFrames rate - y) % dayFrames rate, 0⟩ := by
  rw [tcDiff, ha, hb]

/-- The days that a subtraction borrows are the fewest that make it possible. -/
theorem borrowed_days {day x b d : Nat} (pos : 0 < day) (enough : b ≤ x + d * day) (least : 0 < d → x + (d - 1) * day < b) :
    (if b ≤ x then 0 else (b - x + day - 1) / day) = d := by
  split
  next none =>
    refine (Nat.eq_zero_of_not_pos fun pos => ?_).symm
    have := least pos
    omega
  next some =>
    obtain ⟨e, rfl⟩ : ∃ e, d = e + 1 := ⟨d - 1, by rcases d with _ | d <;> omega⟩
    have low := least (by omega)
    rw [Nat.add_sub_cancel] at low
    rw [Nat.add_mul] at enough
    exact Nat.div_eq_of_lt_le (by rw [Nat.add_mul]; omega) (by rw [Nat.add_mul, Nat.add_mul]; omega)

theorem tcSub_of_frames {rate a x b d : Nat} (h : tcFrames rate a = some x) (pos : 0 < dayFrames rate) (enough : b ≤ x + d * dayFrames rate)
    (least : 0 < d → x + (d - 1) * dayFrames rate < b) : tcSub rate a b = ⟨framesTc rate (x + d * dayFrames rate - b), daysC d⟩ := by
  rw [tcSub, h]
  dsimp only
  rw [borrowed_days pos enough least, decC_days]

/-! ### The statement about timecodes -/

section
variable {s : State} {c : ChipId} (live : Live s c) (k : CoreId) {a b rate : Nat} (ha : (s.portOf c k (portCode 7 0)).toNat = a)
  (hb : (s.portOf c k (portCode 7 1)).toNat = b) (hr : (s.portOf c k (portCode 7 2)).toNat % 256 = rate)
include live ha hr

theorem exec_f2tc : exec (.f2tc c k) s = decAnswer s c k (f2tc rate a) := by
  subst ha hr; exact onCore_runDec_live live k fun a _ c => f2tc c a

theorem exec_ns2tc : exec (.ns2tc c k) s = decAnswer s c k (ns2tc rate a) := by
  subst ha hr; exact onCore_runDec_live live k fun a _ c => ns2tc c a

theorem exec_tc2f : exec (.tc2f c k) s = decAnswer s c k (tc2f rate a) := by
  subst ha hr; exact onCore_runDec_live live k fun a _ c => tc2f c a

include hb

theorem exec_tcadd : exec (.tcadd c k) s = decAnswer s c k (tcAdd rate a b) := by
  subst ha hb hr; exact onCore_runDec_live live k fun a b c => tcAdd c a b

theorem exec_tcsub : exec (.tcsub c k) s = decAnswer s c k (tcSub rate a b) := by
  subst ha hb hr; exact onCore_runDec_live live k fun a b c => tcSub c a b

theorem exec_tcdiff : exec (.tcdiff c k) s = decAnswer s c k (tcDiff rate a b) := by
  subst ha hb hr; exact onCore_runDec_live live k fun a b c => tcDiff c a b

end

/-- Settles O12: below a day frame counts and timecodes are inverse, and each command is the arithmetic of frame counts (R360, R361). -/
theorem timecodeResults : Obligations.TimecodeResults := by
  intro s c k live a b rate day bcd2 tc gives wraps
  have give : ∀ (i : Instr) (r cc : Nat), exec i s = decAnswer s c k ⟨r, cc⟩ → gives i r cc := fun _ _ _ h => h
  have wrap : ∀ (i : Instr) (r d : Nat), exec i s = decAnswer s c k ⟨r, daysC d⟩ → wraps i r d := fun _ _ _ h => h
  have digits : 1 ≤ rate → rate ≤ 100 → ∀ n, n < day → framesTc rate n = tc n := fun pos le n h => framesTc_digits pos le h
  have frames : day = dayFrames rate := rfl
  have f2 := exec_f2tc live k (a := a) (rate := rate) rfl rfl
  have ns := exec_ns2tc live k (a := a) (rate := rate) rfl rfl
  have t2 := exec_tc2f live k (a := a) (rate := rate) rfl rfl
  have add := exec_tcadd live k (a := a) (b := b) (rate := rate) rfl rfl rfl
  have sub := exec_tcsub live k (a := a) (b := b) (rate := rate) rfl rfl rfl
  have diff := exec_tcdiff live k (a := a) (b := b) (rate := rate) rfl rfl rfl
  clear_value tc wraps gives day a b rate bcd2
  subst frames
  refine ⟨fun pos le => ?_, fun bad => ?_⟩
  · have dayPos : 0 < dayFrames rate := Nat.mul_pos (by decide) pos
    have wrapped : ∀ n, f2tc rate n = ⟨tc (n % dayFrames rate), daysC (n / dayFrames rate)⟩ := fun n => by
      rw [f2tc_ok pos le, digits pos le _ (Nat.mod_lt _ dayPos)]
    refine ⟨wrap _ _ _ (by rw [f2, wrapped]), wrap _ _ _ (by rw [ns, ns2tc_eq, wrapped]), fun x hx isA => ?_⟩
    have fa : tcFrames rate a = some x := by rw [isA, ← digits pos le x hx, tcFrames_framesTc pos le hx]
    refine ⟨give _ _ _ (by rw [t2, tc2f_of_frames fa]), wrap _ _ _ (by rw [add, tcAdd_of_frames fa, wrapped]),
      fun d enough least => wrap _ _ _ ?_, fun y hy isB => give _ _ _ ?_⟩
    · have below : x + d * dayFrames rate - b < dayFrames rate := by
        rcases Nat.eq_zero_or_pos d with rfl | dpos
        · omega
        · obtain ⟨e, rfl⟩ : ∃ e, d = e + 1 := ⟨d - 1, by omega⟩
          have low := least dpos
          rw [Nat.add_sub_cancel] at low
          rw [Nat.add_mul]
          omega
      rw [sub, tcSub_of_frames fa dayPos enough least, digits pos le _ below]
    · have fb : tcFrames rate b = some y := by rw [isB, ← digits pos le y hy, tcFrames_framesTc pos le hy]
      rw [diff, tcDiff_of_frames fa fb]
  · have none := tcFrames_badRate bad
    refine ⟨give _ _ _ ?_, give _ _ _ ?_, give _ _ _ ?_, give _ _ _ ?_, give _ _ _ ?_, give _ _ _ ?_⟩
    · rw [f2, f2tc_badRate bad]
    · rw [ns, ns2tc, f2tc_badRate bad]
    · rw [t2, tc2f, none, decInvalid_eq]
    · rw [add, tcAdd, none, decInvalid_eq]
    · rw [sub, tcSub, none, decInvalid_eq]
    · rw [diff, tcDiff, none, decInvalid_eq]

end Sys2Proof.Machine
end

section
/-! SUPPORT. What a register write does to one field, by its access code (R10, R12). -/

namespace Sys2Proof.Machine

open Sys2Proof

/-- Numbers without a common bit add up to their union. -/
theorem add_eq_or_of_and_eq_zero {x y : Nat} (disjoint : x &&& y = 0) : x + y = x ||| y := by
  have hx : x < 2 ^ (x + y) := Nat.lt_of_le_of_lt (Nat.le_add_right x y) Nat.lt_two_pow_self
  have hy : y < 2 ^ (x + y) := Nat.lt_of_le_of_lt (Nat.le_add_left y x) Nat.lt_two_pow_self
  have words : BitVec.ofNat (x + y) x &&& BitVec.ofNat (x + y) y = 0#(x + y) := by
    rw [← BitVec.ofNat_and, disjoint]
  have sum := congrArg BitVec.toNat (BitVec.add_eq_or_of_and_eq_zero _ _ words)
  rwa [BitVec.toNat_add, BitVec.toNat_or, BitVec.toNat_ofNat, BitVec.toNat_ofNat, Nat.mod_eq_of_lt hx, Nat.mod_eq_of_lt hy,
    Nat.mod_eq_of_lt Nat.lt_two_pow_self] at sum

/-- Taking from `a` the bits of it inside `n` clears them. -/
theorem sub_and_eq_xor (a n : Nat) : a - (a &&& n) = a ^^^ (a &&& n) := by
  have disjoint : (a ^^^ (a &&& n)) &&& (a &&& n) = 0 := Nat.eq_of_testBit_eq fun b => by
    simp only [Nat.testBit_and, Nat.testBit_xor, Nat.zero_testBit]
    cases a.testBit b <;> cases n.testBit b <;> rfl
  have whole : (a ^^^ (a &&& n)) ||| (a &&& n) = a := Nat.eq_of_testBit_eq fun b => by
    simp only [Nat.testBit_and, Nat.testBit_xor, Nat.testBit_or]
    cases a.testBit b <;> cases n.testBit b <;> rfl
  have sum := add_eq_or_of_and_eq_zero disjoint
  rw [whole] at sum
  omega

theorem testBit_sub_and (a n b : Nat) : (a - (a &&& n)).testBit b = (a.testBit b && !n.testBit b) := by
  rw [sub_and_eq_xor, Nat.testBit_xor, Nat.testBit_and]
  cases a.testBit b <;> cases n.testBit b <;> rfl

/-- A field keeps its place, or takes a value. -/
def IsWrite (ch : Chip) (f : Field) (ch' : Chip) : Prop := ch' = ch ∨ ∃ v, ch' = ch.wr f v

theorem writeField_isWrite (ch : Chip) (h : RegHit) (x : Nat) (f : FieldSpec) : IsWrite ch (h.field f) (ch.writeField h x f) := by
  rw [Chip.writeField]
  cases f.acc with
  | rw | w1c => exact .inr ⟨_, rfl⟩
  | rwl =>
    dsimp only
    split
    · exact .inl rfl
    · exact .inr ⟨_, rfl⟩
  | dbg =>
    dsimp only
    split
    · exact .inr ⟨_, rfl⟩
    · exact .inl rfl
  | ro | w1p => exact .inl rfl

theorem IsWrite.rd_ne {ch ch' : Chip} {f : Field} (w : IsWrite ch f ch') (g : Field) (h : g.key ≠ f.key) : ch'.rd g = ch.rd g := by
  obtain rfl | ⟨v, rfl⟩ := w
  · rfl
  · exact rd_wr_ne ch f g v h

theorem IsWrite.frame {ch ch' : Chip} {f : Field} (w : IsWrite ch f ch') :
    ch'.mem = ch.mem ∧ ch'.poisoned = ch.poisoned ∧ ch'.out = ch.out ∧ ch'.hif = ch.hif := by
  obtain rfl | ⟨v, rfl⟩ := w <;> exact ⟨rfl, rfl, rfl, rfl⟩

/-- A field written with bits of its own width holds them. -/
theorem rd_wr_field (ch : Chip) (h : RegHit) (f : FieldSpec) (v : Nat) :
    (ch.wr (h.field f) (v % 2 ^ f.width)).rd (h.field f) = v % 2 ^ f.width := by
  rw [rd_wr_self]
  exact Nat.mod_mod _ _

/-- Settles O21: by access code, and the frame from the one field that is written. -/
theorem fieldsFollowTheirAccessCodes : Obligations.FieldsFollowTheirAccessCodes := by
  intro ch h x f old n ch'
  have frame : IsWrite ch (h.field f) ch' := writeField_isWrite ch h x f
  refine ⟨fun acc => ?_, fun acc b => ?_, fun acc => ?_, fun acc => ?_, fun acc => ?_, frame.rd_ne, frame.frame⟩
  · rw [show ch' = ch.wr (h.field f) n by simp only [ch', Chip.writeField, acc]; rfl]
    exact rd_wr_field ch h f _
  · rw [show ch' = ch.wr (h.field f) (old - (old &&& n)) by simp only [ch', Chip.writeField, acc]; rfl, rd_wr_self,
      show (h.field f).width = f.width from rfl, Nat.testBit_mod_two_pow, testBit_sub_and, Bool.and_assoc]
  · rw [show ch' = if ch.locked then ch else ch.wr (h.field f) n by simp only [ch', Chip.writeField, acc]; rfl]
    split
    · rfl
    · exact rd_wr_field ch h f _
  · rw [show ch' = if ch.develop then ch.wr (h.field f) n else ch by simp only [ch', Chip.writeField, acc]; rfl]
    split
    · exact rd_wr_field ch h f _
    · rfl
  · obtain acc | acc := acc <;> simp only [ch', Chip.writeField, acc]

end Sys2Proof.Machine
end

section
/-! SUPPORT. The LSU of a core: its ports, Latch operations (R534, R538), loads and stores (R350 to R356), and the statements. -/

namespace Sys2Proof.Machine

open Sys2Proof

/-! ### The record of a core -/

theorem put_put {α : Type} (t : Tab α) (k : Nat) (v w : α) : Tab.put (Tab.put t k v) k w = Tab.put t k w := by
  induction t with
  | nil => simp [Tab.put]
  | cons e t ih =>
    obtain ⟨k', v'⟩ := e
    rcases Nat.lt_trichotomy k k' with lt | rfl | gt
    · simp [Tab.put, lt]
    · simp [Tab.put]
    · simp [Tab.put, Nat.not_lt.mpr (Nat.le_of_lt gt), Nat.ne_of_gt gt, ih]

@[simp] theorem getCore_putCore (ch : Chip) (k : CoreId) (x : Core) : (ch.putCore k x).getCore k = x := by
  cases k with
  | pe p n => exact get_put_self ..
  | steward => rfl

@[simp] theorem putCore_putCore (ch : Chip) (k : CoreId) (x y : Core) : (ch.putCore k x).putCore k y = ch.putCore k y := by
  cases k with
  | pe p n => simp only [Chip.putCore, Chip.setCore, put_put]
  | steward => rfl

/-- A core stands in the part of the chip that a change of registers or memory does not touch. -/
theorem getCore_congr {ch ch' : Chip} (h : ch'.fab = ch.fab) (k : CoreId) : ch'.getCore k = ch.getCore k := by
  cases k <;> simp only [Chip.getCore, Chip.core, h]

@[simp] theorem count64_fab (ch : Chip) (f w : Field) (wb : Nat) (c o : Field) (ob n : Nat) : (ch.count64 f w wb c o ob n).fab = ch.fab := by
  unfold Chip.count64
  dsimp only
  split
  · exact wr_fab ..
  · rw [count_fab, orBit_fab, wr_fab]

theorem stewLoad_putCore (ch : Chip) (k : CoreId) (x : Core) (a n : Nat) : (ch.putCore k x).stewLoad a n = ch.stewLoad a n := by
  cases k <;> rfl

theorem anyPoison_putCore (ch : Chip) (k : CoreId) (x : Core) (a n : Nat) : (ch.putCore k x).anyPoison a n = ch.anyPoison a n := by
  cases k <;> rfl

theorem defer_eq (ch : Chip) (k : CoreId) (d : Deferred) :
    ch.defer k d = ch.putCore k { ch.getCore k with deferred := (ch.getCore k).deferred ++ [d] } := rfl

/-! ### Latch operations -/

theorem poison_if (k : Core) (b : Bool) : (if b = true then { k with poison := true } else k) = { k with poison := k.poison || b } := by
  cases b with
  | false => rw [Bool.or_false, if_neg Bool.false_ne_true]
  | true => rw [Bool.or_true, if_pos rfl]

@[simp] theorem setQ_poison (k : Core) (n : Nat) (v : Qword) : (k.setQ n v).poison = k.poison := rfl

/-- A Latch operation that returns: the store, the count, the old value in LD, and the poison of the word. -/
theorem latchBy_eq (ch : Chip) (k : CoreId) {lop a : Nat} {v cmp new : Qword} (poison : Bool)
    (h : latchNew lop (BitVec.ofNat 64 (ch.load a 8)) v cmp = some new) :
    ch.latchBy k lop a v cmp poison = ((ch.store a (toLe 8 new.toNat) poison).latchCount).putCore k
      { (ch.getCore k).setQ (lsuPort 15) (BitVec.ofNat 64 (ch.load a 8)) with poison := (ch.getCore k).poison || ch.isPoisoned a } := by
  have op : ch.latchOp a lop v cmp poison =
      (BitVec.ofNat 64 (ch.load a 8), ch.isPoisoned a, (ch.store a (toLe 8 new.toNat) poison).latchCount) := by
    rw [Chip.latchOp, h]
  have core : ((ch.store a (toLe 8 new.toNat) poison).latchCount).getCore k = ch.getCore k :=
    getCore_congr (by rw [Chip.latchCount, count64_fab, store_fab]) k
  rw [Chip.latchBy, op]
  dsimp only
  rw [core, poison_if, setQ_poison]

section
variable {ch : Chip} {q : LatchReq} (lop : Nat)

theorem latchCmd_busy (h : ch.lsuBusy q.core (ch.getCore q.core) = true) : ch.latchCmd lop q = ch := by
  rw [Chip.latchCmd]
  exact if_pos h

theorem latchCmd_outside (h : ch.lsuBusy q.core (ch.getCore q.core) = false) (out : ch.inShared q.addr.toNat 8 = false) :
    ch.latchCmd lop q = ch.coreExc q.core exAccess q.addr.toNat := by
  simp only [Chip.latchCmd, h, out, Bool.false_eq_true, if_false, Bool.not_false, if_true]

theorem latchCmd_misaligned (h : ch.lsuBusy q.core (ch.getCore q.core) = false) (shared : ch.inShared q.addr.toNat 8 = true)
    (odd : q.addr.toNat % 8 ≠ 0) : ch.latchCmd lop q = ch.coreExc q.core exAlign q.addr.toNat := by
  simp only [Chip.latchCmd, h, shared, Bool.false_eq_true, if_false, Bool.not_true, if_pos odd]

theorem latchCmd_waits (h : ch.lsuBusy q.core (ch.getCore q.core) = false) (shared : ch.inShared q.addr.toNat 8 = true)
    (even : q.addr.toNat % 8 = 0) (wait : ch.mustWait (coreNo q.core) (ch.getCore q.core) = true) :
    ch.latchCmd lop q = ch.defer q.core (.latch lop q.addr.toNat ((ch.getCore q.core).q (lsuPort 11)) ((ch.getCore q.core).q (lsuPort 12))
      (ch.getCore q.core).poison) := by
  simp only [Chip.latchCmd, h, shared, even, wait, Bool.false_eq_true, if_false, Bool.not_true, ne_eq, not_true_eq_false, if_true]

theorem latchCmd_made (h : ch.lsuBusy q.core (ch.getCore q.core) = false) (shared : ch.inShared q.addr.toNat 8 = true)
    (even : q.addr.toNat % 8 = 0) (free : ch.mustWait (coreNo q.core) (ch.getCore q.core) = false) :
    ch.latchCmd lop q = ch.latchBy q.core lop q.addr.toNat ((ch.getCore q.core).q (lsuPort 11)) ((ch.getCore q.core).q (lsuPort 12))
      (ch.getCore q.core).poison := by
  simp only [Chip.latchCmd, h, shared, even, free, Bool.false_eq_true, if_false, Bool.not_true, ne_eq, not_true_eq_false]

end

/-- The nine Latch operations with their codes. -/
def latchOps (c : ChipId) (q : LatchReq) : List (Instr × Nat) :=
  [(.swap c q, 0), (.cas c q, 1), (.fadd c q, 2), (.fand c q, 3), (.opFor c q, 4), (.fmax c q, 5), (.fmin c q, 6), (.decpos c q, 7),
    (.load c q, 8)]

theorem exec_latch {s : State} {c : ChipId} {q : LatchReq} (h : Runs s c q.core) {e : Instr × Nat} (he : e ∈ latchOps c q) :
    exec e.1 s = .next (s.setChip c (((s.chip c).resumed q.core).latchCmd e.2 q)) := by
  have act : ∀ lop, coreAct s c q.core (fun ch => ch.latchCmd lop q) = .next (s.setChip c (((s.chip c).resumed q.core).latchCmd lop q)) :=
    fun lop => coreAct_runs h _
  simp only [latchOps, List.mem_cons, List.not_mem_nil, or_false] at he
  obtain rfl | rfl | rfl | rfl | rfl | rfl | rfl | rfl | rfl := he
  · exact act 0
  · exact act 1
  · exact act 2
  · exact act 3
  · exact act 4
  · exact act 5
  · exact act 6
  · exact act 7
  · exact act 8

theorem slt_iff_toInt (a b : Qword) : a.slt b = true ↔ a.toInt < b.toInt := by
  rw [BitVec.slt, decide_eq_true_eq]

/-- Settles O13: the operation is made at once, and each code of R534 has its new value. -/
theorem latchResults : Obligations.LatchResults := by
  intro s c q runs ch k a free noWait shared even old v cmp gives
  have made : ∀ e ∈ latchOps c q, ∀ new, latchNew e.2 old v cmp = some new → gives e.1 new := by
    intro e he new hn
    exact (exec_latch runs he).trans (by rw [latchCmd_made e.2 free shared even noWait, latchBy_eq _ _ _ hn])
  clear_value gives old v cmp
  simp only [latchOps, List.forall_mem_cons, List.not_mem_nil, false_implies, implies_true, and_true] at made
  obtain ⟨swap, cas, fadd, fand, opFor, fmax, fmin, decpos, load⟩ := made
  refine ⟨swap _ rfl, cas _ rfl, fadd _ ?_, fand _ rfl, opFor _ rfl, fmax _ ?_, fmin _ ?_, decpos _ ?_, load _ rfl⟩
  · rw [BitVec.ofNat_add, BitVec.ofNat_toNat, BitVec.ofNat_toNat, BitVec.setWidth_eq, BitVec.setWidth_eq]
    rfl
  · rw [latchNew]; simp only [slt_iff_toInt]
  · rw [latchNew]; simp only [slt_iff_toInt]
  · have one : BitVec.ofInt 64 (old.toInt - 1) = old - 1 := by
      apply BitVec.eq_of_toInt_eq
      rw [BitVec.toInt_ofInt, BitVec.toInt_sub]
      rfl
    rw [latchNew, one]
    simp only [slt_iff_toInt]
    rfl

/-- Settles O14: the other ways of a Latch operation, and a core in which nothing waits (R346, R353, R354, R357). -/
theorem latchOperationsThatDoNotRun : Obligations.LatchOperationsThatDoNotRun := by
  intro s c q runs ch k a
  refine ⟨fun stores waits => resumed_idle _ _ stores waits, fun e he => ?_⟩
  have run := exec_latch runs (e := e) he
  refine ⟨fun busy => ?_, fun free out => ?_, fun free shared odd => ?_, fun free shared even wait => ?_⟩
  · rw [run, latchCmd_busy e.2 busy]
  · rw [run, latchCmd_outside e.2 free out]
  · rw [run, latchCmd_misaligned e.2 free shared odd]
  · rw [run, latchCmd_waits e.2 free shared even wait, defer_eq]

/-! ### Loads and stores -/

theorem bit_load (op : Nat) : bit (putBits (putBits op 8 1 0) 13 1 0) 8 = false ∧ bit (putBits (putBits op 8 1 0) 13 1 0) 13 = false := by
  simp only [bit, putBits, beq_eq_false_iff_ne]
  omega

theorem bit_store (op : Nat) : bit (putBits (putBits op 8 1 1) 13 1 0) 8 = true ∧ bit (putBits (putBits op 8 1 1) 13 1 0) 13 = false := by
  simp only [bit, putBits, beq_eq_false_iff_ne, beq_iff_eq]
  omega

theorem lsuDecode_bits {w : Nat} {o : LsuOp} (h : lsuDecode w = some o) : o.st = bit w 8 ∧ o.latch = bit w 13 := by
  rw [lsuDecode] at h
  dsimp only at h
  split at h
  · cases h
  · split at h
    · cases h
    · cases h; exact ⟨rfl, rfl⟩

section
variable {ch : Chip} {k : CoreId} {w : Nat} (free : ch.lsuBusy k (ch.getCore k) = false)
include free

theorem lsuCmd_raises {cause addr : Nat} (h : ch.lsuExc k (ch.getCore k) w = some (cause, addr)) :
    ch.lsuCmd k w = (ch.coreExc k cause addr, none) := by
  simp only [Chip.lsuCmd, free, h, Bool.false_eq_true, if_false]

theorem lsuCmd_made (h : ch.lsuExc k (ch.getCore k) w = none) (held : lsuHeld k (ch.getCore k) w = false) :
    ch.lsuCmd k w = ch.lsuRun k w := by
  simp only [Chip.lsuCmd, free, h, held, Bool.false_eq_true, if_false]

end

section
variable {ch : Chip} {k : CoreId} {w : Nat} {o : LsuOp} (dec : lsuDecode w = some o) (plain : o.latch = false)
  (mem : inRegs (physOf k ((ch.getCore k).lsuAddr o).1.toNat) = false)
include dec plain mem

theorem lsuRun_load (load : o.st = false) :
    ch.lsuRun k w = (ch.putCore k (((ch.getCore k).setQ (lsuPort o.ar) ((ch.getCore k).lsuAddr o).2).loaded o
      (ch.stewLoad (physOf k ((ch.getCore k).lsuAddr o).1.toNat) (lsuBytes o.size))
      (ch.anyPoison (physOf k ((ch.getCore k).lsuAddr o).1.toNat) (lsuBytes o.size))), none) := by
  simp only [Chip.lsuRun, dec, plain, mem, load, Bool.false_eq_true, if_false, getCore_putCore, putCore_putCore, stewLoad_putCore,
    anyPoison_putCore]

/-- A store goes out at once, or joins the actions that wait. -/
theorem lsuRun_store (store : o.st = true) :
    ch.lsuRun k w = (if ch.mustWait (coreNo k) (ch.getCore k) && !((ch.getCore k).prov && ch.inScratch k (ch.getCore k)
        ((ch.getCore k).lsuAddr o).1.toNat (lsuBytes o.size) && !(ch.getCore k).deferred.any Deferred.isLsu)
      then (ch.putCore k ((ch.getCore k).setQ (lsuPort o.ar) ((ch.getCore k).lsuAddr o).2)).defer k
        (if devWord (physOf k ((ch.getCore k).lsuAddr o).1.toNat) then
            .device ((physOf k ((ch.getCore k).lsuAddr o).1.toNat - devBase) / 8) ((ch.getCore k).q (lsuPort 11)) (ch.getCore k).poison
          else .store (physOf k ((ch.getCore k).lsuAddr o).1.toNat) ((ch.getCore k).storeData o) (ch.getCore k).poison)
      else (ch.putCore k ((ch.getCore k).setQ (lsuPort o.ar) ((ch.getCore k).lsuAddr o).2)).storeBy k
        (physOf k ((ch.getCore k).lsuAddr o).1.toNat) ((ch.getCore k).storeData o) (ch.getCore k).poison, none) := by
  simp only [Chip.lsuRun, dec, plain, mem, store, Bool.false_eq_true, if_false, if_true]
  split <;> rfl

end

theorem inRegs_eq_false {a : Nat} (h : ¬ (regBase ≤ a ∧ a < regBase + 0x1000000)) : inRegs a = false := by
  rw [inRegs, ← Bool.decide_and, decide_eq_false_iff_not]
  exact h

/-- A store is never held behind what waits, outside the set-up registers. -/
theorem lsuHeld_store {k : CoreId} {x : Core} {w : Nat} {o : LsuOp} (dec : lsuDecode w = some o) (store : o.st = true)
    (mem : inRegs (physOf k (x.lsuAddr o).1.toNat) = false) : lsuHeld k x w = false := by
  simp only [lsuHeld, dec, store, mem, Bool.not_true, Bool.false_and, Bool.or_self]

theorem exec_lsuLoad {s : State} {c : ChipId} {k : CoreId} (h : Runs s c k) (op : Dword) {ch : Chip}
    (r : ((s.chip c).resumed k).lsuCmd k (putBits (putBits op.toNat 8 1 0) 13 1 0) = (ch, none)) :
    exec (.lsuLoad c k op) s = .next (s.setChip c ch) := by
  refine (coreCmd_runs h fun ch => ch.lsuCmd k (putBits (putBits op.toNat 8 1 0) 13 1 0)).trans ?_
  rw [r]
  rfl

theorem exec_lsuStore {s : State} {c : ChipId} {k : CoreId} (h : Runs s c k) (op : Dword) {ch : Chip}
    (r : ((s.chip c).resumed k).lsuCmd k (putBits (putBits op.toNat 8 1 1) 13 1 0) = (ch, none)) :
    exec (.lsuStore c k op) s = .next (s.setChip c ch) := by
  refine (coreCmd_runs h fun ch => ch.lsuCmd k (putBits (putBits op.toNat 8 1 1) 13 1 0)).trans ?_
  rw [r]
  rfl

/-- Whether a store goes out at once. -/
theorem storeWaits_iff (ch : Chip) (k : CoreId) (x : Core) (a n : Nat) :
    (ch.mustWait (coreNo k) x && !(x.prov && ch.inScratch k x a n && !x.deferred.any Deferred.isLsu)) = true ↔
      ¬ (ch.mustWait (coreNo k) x = false ∨ (x.prov = true ∧ ch.inScratch k x a n = true ∧ x.deferred.any Deferred.isLsu = false)) := by
  generalize ch.mustWait (coreNo k) x = m
  generalize x.prov = p
  generalize ch.inScratch k x a n = i
  generalize x.deferred.any Deferred.isLsu = d
  revert m p i d
  decide

/-- Settles O15: a load or a store that raises nothing and waits for nothing is made at the address of R350 (R350 to R356). -/
theorem lsuAccesses : Obligations.LsuAccesses := by
  intro s c k op runs ch x wl ws free
  have load : ∀ ch', ch.lsuCmd k wl = (ch', none) → exec (.lsuLoad c k op) s = .next (s.setChip c ch') := fun ch' => exec_lsuLoad runs op
  have store : ∀ ch', ch.lsuCmd k ws = (ch', none) → exec (.lsuStore c k op) s = .next (s.setChip c ch') := fun ch' => exec_lsuStore runs op
  have loadBits : bit wl 8 = false ∧ bit wl 13 = false := bit_load op.toNat
  have storeBits : bit ws 8 = true ∧ bit ws 13 = false := bit_store op.toNat
  have isCore : ch.getCore k = x := rfl
  clear_value wl ws x ch
  subst isCore
  refine ⟨fun o dec exc held => ?_, fun o dec exc => ?_,
    fun cause addr exc => load _ (lsuCmd_raises free exc), fun cause addr exc => store _ (lsuCmd_raises free exc)⟩
  · intro a n mem
    obtain ⟨st, latch⟩ := lsuDecode_bits dec
    exact load _ ((lsuCmd_made free exc held).trans
      (lsuRun_load dec (latch.trans loadBits.2) (inRegs_eq_false mem) (st.trans loadBits.1)))
  · intro a goes mem ch'
    obtain ⟨st, latch⟩ := lsuDecode_bits dec
    have outside := inRegs_eq_false mem
    have run := (lsuCmd_made free exc (lsuHeld_store dec (st.trans storeBits.1) outside)).trans
      (lsuRun_store dec (latch.trans storeBits.2) outside (st.trans storeBits.1))
    have waits := storeWaits_iff ch k (ch.getCore k) ((ch.getCore k).lsuAddr o).1.toNat (lsuBytes o.size)
    refine ⟨fun go mem => ?_, fun go dev => ?_, fun wait => ?_⟩
    · rw [if_neg (fun h => waits.mp h go), Chip.storeBy, if_neg (by rw [mem]; exact Bool.false_ne_true)] at run
      exact store _ run
    · rw [if_neg (fun h => waits.mp h go), Chip.storeBy, if_pos dev] at run
      exact store _ run
    · rw [if_pos (waits.mpr wait)] at run
      exact store _ run

end Sys2Proof.Machine
end

section
/-! SUPPORT. Bundles, control actions, emissions and the system operations of a core (R338 to R374), and the statements. -/

namespace Sys2Proof.Machine

open Sys2Proof

/-! ### Emissions (R358, R359) -/

section
variable {ch : Chip} {id : CoreId} {tagged : Bool} (free : (ch.getCore id).tokBusy = false)
include free

theorem tokCmd_raises {cause addr : Nat} (h : ch.tokExc id (ch.getCore id) tagged = some (cause, addr)) :
    ch.tokCmd id tagged = ch.coreExc id cause addr := by
  simp only [Chip.tokCmd, free, h, Bool.false_eq_true, if_false]

theorem tokCmd_made (h : ch.tokExc id (ch.getCore id) tagged = none) (held : ch.tokHeld id (ch.getCore id) tagged = false) :
    ch.tokCmd id tagged = ch.tokRun id tagged := by
  simp only [Chip.tokCmd, free, h, held, Bool.false_eq_true, if_false]

end

theorem exec_emit {s : State} {c : ChipId} {k : CoreId} (h : Runs s c k) :
    exec (.emit c k) s = .next (s.setChip c (((s.chip c).resumed k).tokCmd k false)) :=
  coreAct_runs h fun ch => ch.tokCmd k false

theorem exec_emitTagged {s : State} {c : ChipId} {k : CoreId} (h : Runs s c k) :
    exec (.emitTagged c k) s = .next (s.setChip c (((s.chip c).resumed k).tokCmd k true)) :=
  coreAct_runs h fun ch => ch.tokCmd k true

/-- The bits of FL that an emission reads are below bit 6. -/
theorem bit_mod_64 (v : Nat) {b : Nat} (h : b < 6) : bit (v % 64) b = bit v b := by
  have := Nat.testBit_mod_two_pow v 6 b
  rw [show (2 : Nat) ^ 6 = 64 from rfl, decide_eq_true h, Bool.true_and, Nat.testBit_eq_decide_div_mod_eq, Nat.testBit_eq_decide_div_mod_eq] at this
  rw [bit, bit, eq_beq_decide, eq_beq_decide, this]

section
variable {ch : Chip} {p : PackId} {n : PeId} {f : Firing} {g : Graph} {tagged : Bool}
  (firing : (ch.core p.val n.val).firing = some f) (graph : ch.graphOf f.slot = some g)
include firing graph

theorem tokExc_bad (h : g.nnodes ≤ bits ((ch.core p.val n.val).q (tokPort 1)).toNat 0 14 ∨
      (bit ((ch.core p.val n.val).q (tokPort 3)).toNat 5 && bit ((ch.core p.val n.val).q (tokPort 3)).toNat 0) = true) :
    ch.tokExc (.pe p n) (ch.core p.val n.val) tagged = some (exToken, 0) := by
  simp only [Chip.tokExc, firing, Option.bind_some, graph, Core.tokPlan, bit_mod_64 _ (show 5 < 6 by decide),
    bit_mod_64 _ (show 0 < 6 by decide)]
  exact if_pos (h.imp_right .inr)

theorem tokExc_ok (node : bits ((ch.core p.val n.val).q (tokPort 1)).toNat 0 14 < g.nnodes)
    (both : (bit ((ch.core p.val n.val).q (tokPort 3)).toNat 5 && bit ((ch.core p.val n.val).q (tokPort 3)).toNat 0) = false)
    (ctx : tagged = true → g.ctxBase ≤ bits ((ch.core p.val n.val).q (tokPort 2)).toNat 20 10 ∧
      bits ((ch.core p.val n.val).q (tokPort 2)).toNat 20 10 < g.ctxBase + g.ctxCount) :
    ch.tokExc (.pe p n) (ch.core p.val n.val) tagged = none := by
  simp only [Chip.tokExc, firing, Option.bind_some, graph, Core.tokPlan, bit_mod_64 _ (show 5 < 6 by decide),
    bit_mod_64 _ (show 0 < 6 by decide)]
  refine if_neg fun h => ?_
  obtain h | ⟨t, h⟩ | h := h
  · exact absurd node (Nat.not_lt.mpr h)
  · rw [if_pos t] at h; exact h (ctx t)
  · rw [both] at h; exact Bool.false_ne_true h

end

/-- Settles O16: what EMIT and EMIT_TAGGED send, what waits instead, and what raises TOKEN (R354, R358, R359). -/
theorem tokenEmissions : Obligations.TokenEmissions := by
  intro s c p n f g runs ch k firing graph free fl dest tag tok goes sends
  have emit := exec_emit runs
  have emitTagged := exec_emitTagged runs
  have isCore : ch.getCore (.pe p n) = k := rfl
  have prov : k.prov = f.prov := by rw [Core.prov, firing]; rfl
  have waits : (ch.mustWait (coreNo (.pe p n)) k && !(k.prov && !bit fl 5 && !k.deferred.any Deferred.isLsu)) = true ↔ ¬ goes := by
    rw [prov]
    show (ch.mustWait (16 * p.val + n.val) k && _) = true ↔ ¬ (ch.mustWait (16 * p.val + n.val) k = false ∨ _)
    generalize ch.mustWait (16 * p.val + n.val) k = m
    generalize f.prov = pr
    generalize bit fl 5 = b
    generalize k.deferred.any Deferred.isLsu = d
    revert m pr b d
    decide
  have run : ∀ tagged, ch.tokRun (.pe p n) tagged =
      (if (ch.mustWait (coreNo (.pe p n)) k && !(k.prov && !bit fl 5 && !k.deferred.any Deferred.isLsu)) = true then
        ch.defer (.pe p n) (.emit (tok (bit fl 0) (k.tokPlan tagged).ctx (k.tokPlan tagged).iter))
      else ch.emitTok (.pe p n) (tok (bit fl 0 || (k.prov && !bit fl 5)) (k.tokPlan tagged).ctx (k.tokPlan tagged).iter)) := by
    intro tagged
    simp only [Chip.tokRun, isCore, Core.tokPlan, bit_mod_64 _ (show 5 < 6 by decide), bit_mod_64 _ (show 0 < 6 by decide),
      bit_mod_64 _ (show 2 < 6 by decide), bit_mod_64 _ (show 4 < 6 by decide)]
    rfl
  have verdict : goes → (k.prov && !bit fl 5) = f.prov := by
    rintro (now | ⟨p, b, -⟩)
    · have : k.prov = false := by
        simp only [Chip.mustWait, Bool.or_eq_false_iff] at now
        exact now.1.1
      rw [this, ← prov, this, Bool.false_and]
    · rw [prov, p, b]; rfl
  have sent : ∀ (i : Instr) tagged, exec i s = .next (s.setChip c (ch.tokCmd (.pe p n) tagged)) →
      ch.tokExc (.pe p n) k tagged = none → ch.tokHeld (.pe p n) k tagged = false →
      sends i (k.tokPlan tagged).ctx (k.tokPlan tagged).iter := by
    intro i tagged h exc held
    have made := tokCmd_made (ch := ch) (id := .pe p n) free exc held
    refine ⟨fun go => ?_, fun wait => ?_⟩
    · rw [h, made, run, if_neg (fun w => waits.mp w go), verdict go]
    · rw [h, made, run, if_pos (waits.mpr wait), defer_eq, isCore]
  have ctx : k.firing.elim 0 (·.ctx) = f.ctx := by rw [firing]; rfl
  have iter : k.firing.elim 0 (·.iter) = f.iter := by rw [firing]; rfl
  refine ⟨fun node both => ?_, fun h => ?_⟩
  · have ok : ∀ tagged, (tagged = true → g.ctxBase ≤ bits tag 20 10 ∧ bits tag 20 10 < g.ctxBase + g.ctxCount) →
        ch.tokExc (.pe p n) k tagged = none := fun tagged h => tokExc_ok firing graph node both h
    have own : (k.tokPlan false).ctx = f.ctx ∧ (k.tokPlan false).iter = f.iter := ⟨ctx, iter⟩
    have given : (k.tokPlan true).ctx = bits tag 20 10 ∧ (k.tokPlan true).iter = bits tag 0 20 := ⟨rfl, rfl⟩
    have first := sent _ false emit (ok false fun h => absurd h Bool.false_ne_true)
    have second := fun h => sent _ true emitTagged (ok true h)
    rw [own.1, own.2] at first
    rw [given.1, given.2] at second
    exact ⟨first, fun low high => second fun _ => ⟨low, high⟩⟩
  · have bad : ∀ tagged, ch.tokExc (.pe p n) k tagged = some (exToken, 0) := fun tagged => tokExc_bad firing graph h
    have raised : ∀ tagged, ch.tokCmd (.pe p n) tagged = ch.coreExc (.pe p n) exToken 0 := fun tagged =>
      tokCmd_raises (ch := ch) (id := .pe p n) free (bad tagged)
    rw [emit, emitTagged, raised, raised]
    exact ⟨rfl, rfl⟩

/-! ### Control actions (R362 to R368) -/

theorem controlCmd_raises {ch : Chip} {id : CoreId} {x : Control} {cause addr : Nat}
    (h : ch.controlExc id (ch.getCore id) x = some (cause, addr)) : ch.controlCmd id x = ch.coreExc id cause addr := by
  simp only [Chip.controlCmd, h]

theorem controlCmd_made {ch : Chip} {id : CoreId} {x : Control} (h : ch.controlExc id (ch.getCore id) x = none) :
    ch.controlCmd id x = ch.control id x := by
  simp only [Chip.controlCmd, h]

/-- Settles O17: each control action, its exceptions first (R362 to R365, R368, R372). -/
theorem loopsAndBranches : Obligations.LoopsAndBranches := by
  intro s c k t runs ch x gives stop count raises
  have act : ∀ a, coreAct s c k (fun ch => ch.controlCmd k a) = .next (s.setChip c (ch.controlCmd k a)) := fun a => coreAct_runs runs _
  have isCore : ch.getCore k = x := rfl
  have made : ∀ a y, ch.controlExc k x a = none → ch.control k a = ch.putCore k y →
      coreAct s c k (fun ch => ch.controlCmd k a) = .next (s.setChip c (ch.putCore k y)) := fun a y h e => by
    rw [act, controlCmd_made h, e]
  have bad : ∀ a cause addr, ch.controlExc k x a = some (cause, addr) →
      coreAct s c k (fun ch => ch.controlCmd k a) = .next (s.setChip c (ch.coreExc k cause addr)) := fun a cause addr h => by
    rw [act, controlCmd_raises h]
  clear_value ch x
  subst isCore
  refine ⟨fun after code room => ⟨fun some => made .loopStart _ ?_ ?_, fun none => made .loopStart _ ?_ ?_⟩, fun h => bad .loopStart _ _ ?_,
    fun l rest h => made .loopBreak _ ?_ ?_, fun h => bad .loopBreak _ _ ?_,
    fun code => ⟨made (.jump t) _ ?_ ?_, fun room depth => made (.call t) _ ?_ ?_, fun full => bad (.call t) _ _ ?_⟩,
    fun code => ⟨bad (.jump t) _ _ ?_, bad (.call t) _ _ ?_⟩,
    fun y rest h => ⟨fun code => made .ret _ ?_ ?_, fun code => bad .ret _ _ ?_⟩, fun h none => bad .ret _ _ ?_,
    fun pe => made .finish _ ?_ ?_, fun stew => bad .finish _ _ ?_⟩
  · exact if_neg fun h => h.elim (Nat.not_lt.mpr after) fun h =>
      h.elim (fun h => Bool.false_ne_true (h.symm.trans code)) (Nat.not_le.mpr room)
  · exact if_neg some
  · exact if_neg fun h => h.elim (Nat.not_lt.mpr after) fun h =>
      h.elim (fun h => Bool.false_ne_true (h.symm.trans code)) (Nat.not_le.mpr room)
  · exact if_pos none
  · exact if_pos h
  · exact if_neg (by rw [h]; exact Bool.false_ne_true)
  · simp only [Chip.control, h, List.drop_one, List.tail_cons, List.head?_cons, Option.elim_some]
  · exact if_pos (by rw [h]; rfl)
  · exact if_neg (by rw [code]; exact Bool.false_ne_true)
  · rfl
  · simp only [Chip.controlExc, code, Core.depth, Bool.not_true, Bool.false_eq_true, if_false]
    exact if_neg (Nat.not_le.mpr depth)
  · simp only [Chip.control, if_neg (Nat.not_le.mpr room)]
  · simp only [Chip.controlExc, code, Core.depth, Bool.not_true, Bool.false_eq_true, if_false]
    exact if_pos full
  · exact if_pos (by rw [code]; rfl)
  · exact if_pos (by rw [code]; rfl)
  · simp only [Chip.controlExc, Core.depth, Chip.retTop, h, List.length_cons, code, Bool.not_true, Bool.false_eq_true, if_false]
    exact if_neg (by omega)
  · simp only [Chip.control, Chip.retTop, h]
  · simp only [Chip.controlExc, Core.depth, Chip.retTop, h, List.length_cons, code, Bool.not_false, Bool.false_eq_true, if_false, if_true]
    exact if_neg (by omega)
  · exact if_pos (by rw [Core.depth, h, none]; rfl)
  · exact if_neg (by rw [pe]; exact Bool.false_ne_true)
  · rfl
  · exact if_pos stew

end Sys2Proof.Machine
end

section
/-! SUPPORT. The system operations of the Steward (R373, R374), the issue of a bundle and the end of a firing (R338 to R343, R368), and
the statements. -/

namespace Sys2Proof.Machine

open Sys2Proof

/-- The core of a trap with saved program counter, cause and value, that goes on at `pc` (R373). -/
def trapped (k : Core) (epc cause tval pc : Nat) : Core :=
  { (((k.setQ (sysPort 1) (BitVec.ofNat 64 epc)).setQ (sysPort 2) (BitVec.ofNat 64 cause)).setQ (sysPort 3)
      (BitVec.ofNat 64 tval)).setQ (sysPort 0)
        (BitVec.ofNat 64 ((k.q (sysPort 0)).toNat / 16 * 16 + (k.q (sysPort 0)).toNat % 4 * 4 + 1)) with pc := pc }

theorem trapStatus_eq (st : Qword) : trapStatus st = BitVec.ofNat 64 (st.toNat / 16 * 16 + st.toNat % 4 * 4 + 1) := by
  rw [trapStatus]
  congr 1
  simp only [putBits, bits]
  omega

theorem trap_eq (k : Core) (epc cause tval off : Nat) :
    k.trap epc cause tval off = trapped k epc cause tval ((k.q (sysPort 4)).toNat / 2048 * 2048 + off) := by
  rw [Core.trap, trapped, trapStatus_eq]

theorem eret_eq (k : Core) : k.eret =
    { k.setQ (sysPort 0) (BitVec.ofNat 64 ((k.q (sysPort 0)).toNat / 4 * 4 + (k.q (sysPort 0)).toNat / 4 % 4)) with
      pc := (k.q (sysPort 1)).toNat } := by
  have status : putBits (k.q (sysPort 0)).toNat 0 2 (bits (k.q (sysPort 0)).toNat 2 2) =
      (k.q (sysPort 0)).toNat / 4 * 4 + (k.q (sysPort 0)).toNat / 4 % 4 := by
    simp only [putBits, bits]
    omega
  rw [Core.eret, status]

theorem coreExc_steward (ch : Chip) (cause addr : Nat) : ch.coreExc .steward cause addr = ch.putCore .steward
    (trapped ch.fab.steward.core ch.fab.steward.core.pc cause addr ((ch.fab.steward.core.q (sysPort 4)).toNat / 2048 * 2048 + 64 * cause)) := by
  rw [← trap_eq]
  rfl

theorem exec_sys {s : State} {c : ChipId} (h : Runs s c .steward) (f : Chip → Chip) :
    sysCmd s c f = .next (s.setChip c (if ((s.chip c).resumed .steward).fab.steward.core.firm then f ((s.chip c).resumed .steward)
      else ((s.chip c).resumed .steward).coreExc .steward exIllegal 0)) :=
  coreAct_runs h fun ch => if ch.fab.steward.core.firm then f ch else ch.coreExc .steward exIllegal 0

theorem firm_eq (k : Core) : k.firm = decide ((k.q (sysPort 0)).toNat % 2 = 1) := by
  rw [Core.firm, bit, Nat.pow_zero, Nat.div_one, eq_beq_decide]

theorem enabled_lt (w : Steward) : w.enabled < 2 ^ 32 := Nat.lt_of_le_of_lt Nat.and_le_left w.ipend.isLt

theorem bit_eq_testBit (v b : Nat) : bit v b = v.testBit b := by
  rw [bit, eq_beq_decide, Nat.testBit_eq_decide_div_mod_eq]

/-- The lowest set bit of a number. -/
theorem ctz_eq {w v line : Nat} (hv : v < 2 ^ w) (hl : line < w) (set : bit v line = true) (low : ∀ j, j < line → bit v j = false) :
    ctz w v = line := by
  obtain ⟨-, below, at'⟩ := ctz_spec w v hv
  rw [bit_eq_testBit] at set
  rcases Nat.lt_trichotomy (ctz w v) line with lt | eq | gt
  · have := at' (Nat.lt_trans lt hl)
    rw [← bit_eq_testBit, low _ lt] at this
    cases this
  · exact eq
  · rw [below _ gt] at set
    cases set

theorem takeIrq_none {ch : Chip} (h : ch.fab.steward.enabled = 0) : ch.takeIrq = ch := if_pos h

theorem takeIrq_masked {ch : Chip} (h : ch.fab.steward.enabled ≠ 0) (ie : bit (ch.fab.steward.core.q (sysPort 0)).toNat 1 = false) :
    ch.takeIrq = { ch with fab := { ch.fab with steward := { ch.fab.steward with wfi := false } } } := by
  simp only [Chip.takeIrq, if_neg h, ie, Bool.false_eq_true, if_false]

theorem takeIrq_taken {ch : Chip} {line : Nat} (hl : line < 32) (set : bit ch.fab.steward.enabled line = true)
    (low : ∀ j, j < line → bit ch.fab.steward.enabled j = false) (ie : bit (ch.fab.steward.core.q (sysPort 0)).toNat 1 = true) :
    ch.takeIrq = { ch with fab := { ch.fab with steward := { ch.fab.steward with wfi := false, core :=
      (trapped ch.fab.steward.core ch.fab.steward.core.pc (2 ^ 31 + line * 2 ^ 16) 0
        ((ch.fab.steward.core.q (sysPort 4)).toNat / 2048 * 2048 + 0x400)) } } } := by
  have some : ch.fab.steward.enabled ≠ 0 := by
    intro h
    rw [h, bit_eq_testBit, Nat.zero_testBit] at set
    cases set
  simp only [Chip.takeIrq, if_neg some, ie, if_true, ctz_eq (enabled_lt _) hl set low, trap_eq]

theorem exec_stewardInterrupt {s : State} {c : ChipId} (h : Runs s c .steward) :
    exec (.stewardInterrupt c) s = .next (s.setChip c (if ((s.chip c).resumed .steward).fab.steward.halted then (s.chip c).resumed .steward
      else ((s.chip c).resumed .steward).sampleIrq.takeIrq)) :=
  coreAct_runs h fun ch => if ch.fab.steward.halted then ch else ch.sampleIrq.takeIrq

/-- Settles O18: the system operations by mode, the trap, and the interrupt that is taken (R373, R374). -/
theorem stewardSystemOperations : Obligations.StewardSystemOperations := by
  intro s c runs ch k st trp vector
  have eret : exec (.eret c) s = _ := exec_sys runs fun ch => ch.putCore .steward ch.fab.steward.core.eret
  have wfi : exec (.wfi c) s = _ := exec_sys runs fun ch => { ch with fab := { ch.fab with steward :=
    { ch.fab.steward with wfi := true, core := { ch.fab.steward.core with pc := ch.fab.steward.core.pc + 64 } } } }
  have irq := exec_stewardInterrupt runs
  have firm := firm_eq k
  have raised : ch.coreExc .steward exIllegal 0 = ch.putCore .steward (trapped k k.pc 1 0 (vector k + 64)) := coreExc_steward ch exIllegal 0
  refine ⟨fun on => ?_, fun off => ?_, coreExc_steward ch, fun runs => ?_⟩
  · have isFirm : k.firm = true := firm.trans (decide_eq_true on)
    rw [eret, wfi, if_pos isFirm, if_pos isFirm, eret_eq]
    exact ⟨rfl, rfl⟩
  · have notFirm : ¬ k.firm = true := by rw [firm, decide_eq_true_eq]; omega
    rw [eret, wfi, if_neg notFirm, if_neg notFirm, raised]
    exact ⟨rfl, rfl⟩
  · intro w k' set
    rw [if_neg (by rw [runs]; exact Bool.false_ne_true)] at irq
    refine ⟨fun none => ?_, fun some ie => ?_, fun line hl isSet low ie => ?_⟩
    · rw [irq, takeIrq_none none]
    · rw [irq, takeIrq_masked some ie]
    · rw [irq, takeIrq_taken hl isSet low ie]
      rfl

/-! ### Bundles -/

section
variable {ch : Chip} {id : CoreId}

theorem bundle_waits (h : ch.issue id (ch.getCore id) = .wait) : ch.bundle id = (ch, none) := by
  rw [Chip.bundle, h]

theorem bundle_raises {cause addr : Nat} (h : ch.issue id (ch.getCore id) = .exc cause addr) :
    ch.bundle id = (ch.coreExc id cause addr, none) := by
  rw [Chip.bundle, h]

end

/-- A bundle of a PE that issues and writes no trigger. -/
theorem bundle_goes {ch : Chip} {p : PackId} {n : PeId} {b : Nat} {ws : Tab (Nat × MVal)} {k : Core} {x : Control}
    (h : ch.issue (.pe p n) (ch.core p.val n.val) = .go b ws k x) (quiet : ∀ w ∈ ws, isTrigger false w.1 = false) :
    ch.bundle (.pe p n) =
      (((ch.putCore (.pe p n) { k with steps := k.steps + 1 }).control (.pe p n) x).stackHint (.pe p n) (bundleHint b), none) := by
  have none : ws.filter (fun w => isTrigger (isSteward (.pe p n)) w.1) = [] :=
    List.filter_eq_nil_iff.mpr fun w hw => by rw [show isSteward (.pe p n) = false from rfl, quiet w hw]; exact Bool.false_ne_true
  rw [Chip.bundle, show ch.getCore (.pe p n) = ch.core p.val n.val from rfl, h]
  dsimp only
  rw [none]
  rfl

theorem exec_bundleIssue_pe {s : State} {c : ChipId} {p : PackId} {n : PeId} (h : Runs s c (.pe p n)) {ch : Chip}
    (r : ((s.chip c).resumed (.pe p n)).bundle (.pe p n) = (ch, none)) : exec (.bundleIssue c (.pe p n)) s = .next (s.setChip c ch) := by
  refine (coreCmd_runs h fun ch => ch.bundle (.pe p n)).trans ?_
  rw [r]
  rfl

theorem exec_bundleIssue_halted {s : State} {c : ChipId} (h : Runs s c .steward)
    (halted : ((s.chip c).resumed .steward).fab.steward.halted = true) :
    exec (.bundleIssue c .steward) s = .next (s.setChip c ((s.chip c).resumed .steward)) := by
  refine (coreCmd_runs h fun ch => if ch.fab.steward.halted then (ch, none) else ch.stewardStep).trans ?_
  rw [if_pos halted]
  rfl

/-- A PE idle with its reset ports; the kill-list entry of its firing keeps the steps. -/
def Chip.idled (ch : Chip) (p : PackId) (n : PeId) : Chip :=
  let k := ch.core p.val n.val
  let i := ch.inn p.val
  let done (e : KillEntry) : KillEntry := if e.running == some n.val then { e with running := none, steps := k.steps } else e
  (ch.setInn p.val { i with klist := i.klist.map done }).setCore p.val n.val Core.reset

/-- What the end of a firing that has drained does: the PE is idle, and a firing that was not aborted leaves its graph's books. -/
def Chip.drained (ch : Chip) (p : PackId) (n : PeId) : Chip :=
  ch.innDo p.val fun ch =>
    match (ch.core p.val n.val).firing with
    | some f => if (ch.core p.val n.val).aborted then ch.idled p n else (ch.idled p n).firingEnded f
    | none => ch.idled p n

theorem drained_over {ch : Chip} {p : PackId} {n : PeId} (h : (ch.core p.val n.val).aborted = true ∨ (ch.core p.val n.val).firing = none) :
    ch.drained p n = ((ch.idled p n).innSync p.val (ch.inn p.val).main).gapSync := by
  rw [Chip.drained, Chip.innDo]
  obtain aborted | idle := h
  · cases firing : (ch.core p.val n.val).firing with
    | none => rfl
    | some f => dsimp only; rw [if_pos aborted]
  · rw [idle]

theorem drained_ended {ch : Chip} {p : PackId} {n : PeId} {f : Firing} (firing : (ch.core p.val n.val).firing = some f)
    (alive : (ch.core p.val n.val).aborted = false) :
    ch.drained p n = (((ch.idled p n).firingEnded f).innSync p.val (ch.inn p.val).main).gapSync := by
  rw [Chip.drained, Chip.innDo]
  rw [firing]
  dsimp only
  rw [if_neg (by rw [alive]; exact Bool.false_ne_true)]

theorem exec_firingDrainComplete {s : State} {c : ChipId} (live : Live s c) {p : PackId} {n : PeId}
    (drains : ((s.chip c).core p.val n.val).st = .draining) (still : (((s.chip c).resumed (.pe p n)).core p.val n.val).st = .draining)
    (empty : (((s.chip c).resumed (.pe p n)).core p.val n.val).deferred = [])
    (noExc : (((s.chip c).resumed (.pe p n)).core p.val n.val).exc = none)
    (stores : ((s.chip c).resumed (.pe p n)).stalledStores (16 * p.val + n.val) = 0) :
    exec (.firingDrainComplete c p n) s = .next (s.setChip c (((s.chip c).resumed (.pe p n)).drained p n)) := by
  show execFiringDrainComplete c p n s = _
  rw [execFiringDrainComplete, onIsland_live live, if_pos drains]
  dsimp only
  rw [if_neg]
  · rfl
  · rw [still, empty, noExc, stores]
    decide

/-- Settles O19: the three outcomes of a bundle of a PE, a halted Steward, and a firing that has drained (R338 to R343, R368). -/
theorem bundleIssueAndFiringEnd : Obligations.BundleIssueAndFiringEnd := by
  intro s c p n id ch k
  refine ⟨fun runs => ⟨fun wait => ?_, fun cause addr exc => ?_, fun b ws k' x go quiet => ?_⟩, exec_bundleIssue_halted,
    fun live drains still none noExc stores => ?_⟩
  · exact exec_bundleIssue_pe runs (bundle_waits wait)
  · exact exec_bundleIssue_pe runs (bundle_raises exc)
  · exact exec_bundleIssue_pe runs (bundle_goes go quiet)
  · intro i done ch'
    have run := exec_firingDrainComplete live drains still none noExc stores
    have books : ch' = ch.idled p n := by
      have : i.klist.map done = i.klist.map fun e =>
          if e.running == some n.val then { e with running := Option.none, steps := k.steps } else e :=
        List.map_congr_left fun e _ => by simp only [done, beq_iff_eq]
      simp only [ch', this]
      rfl
    refine ⟨fun idle => ?_, fun f firing alive => ?_⟩
    · rw [run, drained_over idle, books]
    · rw [run, drained_ended firing alive, books]

end Sys2Proof.Machine
end

section
/-! SUPPORT. A line of DRAM that is written (R506, R512, R513, R522): what memory and poison hold after it, and the statement. -/

namespace Sys2Proof.Machine

open Sys2Proof

/-! ### What a step leaves of memory -/

/-- Memory, poison and the list of failed ranks are as before. -/
def SameMemory (x y : Chip) : Prop := y.mem = x.mem ∧ y.poisoned = x.poisoned ∧ y.mc.failed = x.mc.failed

theorem SameMemory.trans {x y z : Chip} (h : SameMemory x y) (g : SameMemory y z) : SameMemory x z :=
  ⟨g.1.trans h.1, g.2.1.trans h.2.1, g.2.2.trans h.2.2⟩

theorem sameMemory_count (ch : Chip) (f o : Field) (b : Nat) : SameMemory ch (ch.count f o b) :=
  ⟨count_mem .., count_poisoned .., by rw [count_mc]⟩

theorem sameMemory_count64 (ch : Chip) (f w : Field) (wb : Nat) (c o : Field) (ob n : Nat) : SameMemory ch (ch.count64 f w wb c o ob n) := by
  unfold Chip.count64
  dsimp only
  split
  · exact ⟨rfl, rfl, rfl⟩
  · exact ⟨by rw [count_mem, orBit_mem, wr_mem], by rw [count_poisoned, orBit_poisoned, wr_poisoned], by rw [count_mc, orBit_mc, wr_mc]⟩

theorem setMc_mc (ch : Chip) (f : MemCtl → MemCtl) : (ch.setMc f).mc = f ch.mc := rfl

theorem sameMemory_setMc (ch : Chip) (f : MemCtl → MemCtl) (h : (f ch.mc).failed = ch.mc.failed) : SameMemory ch (ch.setMc f) :=
  ⟨rfl, rfl, h⟩

theorem sameMemory_wr (ch : Chip) (f : Field) (v : Nat) : SameMemory ch (ch.wr f v) := ⟨rfl, rfl, rfl⟩

theorem failed_writes (m : MemCtl) (w : Tab (List DramReq)) : ({ m with writes := w } : MemCtl).failed = m.failed := rfl

theorem failed_openRow (m : MemCtl) (w : Tab Nat) : ({ m with openRow := w } : MemCtl).failed = m.failed := rfl

theorem sameMemory_setWrq (ch : Chip) (k : Nat) (q : List DramReq) : SameMemory ch (ch.setWrq k q) :=
  (sameMemory_setMc ch _ (failed_writes _ _)).trans (sameMemory_wr _ _ _)

theorem sameMemory_openLine (ch : Chip) (l : Nat) : SameMemory ch (ch.openLine l) := by
  unfold Chip.openLine
  split
  · exact sameMemory_setMc ch _ (failed_openRow _ _)
  · exact ⟨rfl, rfl, rfl⟩

theorem sameMemory_countLink (ch : Chip) (k : Nat) (link : Bool) : SameMemory ch (ch.countLink k link) := by
  unfold Chip.countLink
  split
  · exact sameMemory_count ..
  · exact ⟨rfl, rfl, rfl⟩

theorem sameMemory_memUe (ch : Chip) (chan rank cls off tag finder : Nat) : SameMemory ch (ch.memUe chan rank cls off tag finder) := by
  unfold Chip.memUe
  dsimp only
  split
  · exact (sameMemory_count ch _ _ _).trans ⟨rfl, rfl, rfl⟩
  · exact (sameMemory_count ch _ _ _).trans ⟨rfl, rfl, rfl⟩

/-! ### A line written -/

/-- Line `n` holds `data`, poisoned as `poison` says, and no other byte or granule differs from `ch`. -/
def LineWritten (ch : Chip) (n : Nat) (data : List Byte) (poison : Bool) (y : Chip) : Prop :=
  y.mc.failed = [] ∧
  (∀ b, y.byte b = if h : dramBase + 64 * n ≤ b ∧ b - (dramBase + 64 * n) < data.length then data[b - (dramBase + 64 * n)] else ch.byte b) ∧
  ∀ g, y.poisoned.contains g = if g = dramBase + 64 * n then poison else ch.poisoned.contains g

section
variable {ch : Chip} {n : Nat} {data : List Byte} {poison : Bool}

theorem LineWritten.same {x y : Chip} (h : LineWritten ch n data poison x) (s : SameMemory x y) : LineWritten ch n data poison y := by
  obtain ⟨mem, poisoned, failed⟩ := s
  obtain ⟨f, bytes, granules⟩ := h
  exact ⟨failed.trans f, fun b => by rw [← bytes b, Chip.byte, mem, Chip.byte], fun g => by rw [poisoned, granules g]⟩

/-- A line lies in one granule of 64 bytes. -/
theorem granules_line (n : Nat) : granules (dramBase + 64 * n) 64 = [dramBase + 64 * n] := by
  have base : granule (dramBase + 64 * n) = dramBase + 64 * n := by
    rw [granule, if_neg (by simp only [dramBase, crBase]; omega)]
    simp only [dramBase]; omega
  have last : granule (dramBase + 64 * n + 64 - 1) = dramBase + 64 * n := by
    rw [granule, if_neg (by simp only [dramBase, crBase]; omega)]
    simp only [dramBase]; omega
  rw [granules, if_neg (by decide), base, last, Nat.sub_self, Nat.zero_div]
  simp

theorem granuleSize_line (n : Nat) : granuleSize (dramBase + 64 * n) = 64 := if_neg (by simp only [dramBase, crBase]; omega)

/-- Storing the line once more changes nothing of it. -/
theorem lineWritten_store {x : Chip} (len : data.length = 64) (failed : x.mc.failed = [])
    (bytes : ∀ b, ¬ (dramBase + 64 * n ≤ b ∧ b - (dramBase + 64 * n) < data.length) → x.byte b = ch.byte b)
    (granules : ∀ g, g ≠ dramBase + 64 * n → x.poisoned.contains g = ch.poisoned.contains g) :
    LineWritten ch n data poison (x.store (dramBase + 64 * n) data poison) := by
  refine ⟨failed, fun b => ?_, fun g => ?_⟩
  · rw [byte_store _ _ _ _ failed]
    split
    · rfl
    next outside => exact bytes b outside
  · rw [Chip.store]
    show (poisonAfter x.poisoned (dramBase + 64 * n) data.length poison).contains g = _
    rw [poisonAfter_one _ _ _ _ (by rw [len, granules_line]) (Nat.le_of_eq (by rw [granuleSize_line, len]))]
    split
    · rfl
    next other => exact granules g other

theorem LineWritten.again {x : Chip} (h : LineWritten ch n data poison x) (len : data.length = 64) :
    LineWritten ch n data poison (x.store (dramBase + 64 * n) data poison) :=
  lineWritten_store len h.1 (fun b outside => by rw [h.2.1 b, dif_neg outside]) fun g other => by rw [h.2.2 g, if_neg other]

theorem padTo_self {bs : List Byte} {n : Nat} (h : bs.length = n) : padTo n bs = bs := by
  subst h
  rw [padTo, List.take_length, Nat.sub_self, zeros, List.replicate_zero, List.append_nil]

/-- The write that is issued stores the line again, or finds no rank and stores nothing. -/
theorem LineWritten.lineWrite {x : Chip} (h : LineWritten ch n data poison x) (len : data.length = 64) :
    LineWritten ch n data poison (x.lineWrite n data poison) := by
  unfold Chip.lineWrite
  dsimp only
  split
  · exact h.same (sameMemory_memUe ..)
  · rw [padTo_self len]
    exact (h.again len).same (sameMemory_count64 ..)

end

theorem wrq_setWrq (ch : Chip) (k : Nat) (q : List DramReq) : (ch.setWrq k q).wrq k = q := get_set_self ..

@[simp] theorem wrq_store (ch : Chip) (a : Nat) (bs : List Byte) (p : Bool) (k : Nat) : (ch.store a bs p).wrq k = ch.wrq k := rfl

/-- A request that its channel takes at once. -/
theorem dramRequest_taken {ch : Chip} {line : LineReq} {op : DramOp} (runs : ch.memRuns = true) (usable : 64 * line.line.toNat < ch.usable)
    (clk : ch.clkRuns (ch.lineChan line.line.toNat) = true) (run : (ch.xing crDomain (256 + ch.lineChan line.line.toNat)).st = .run)
    (held : (ch.xing crDomain (256 + ch.lineChan line.line.toNat)).held = [])
    (wait : (ch.xing crDomain (256 + ch.lineChan line.line.toNat)).wait = [])
    (room : ch.dramRoom (ch.lineChan line.line.toNat) ⟨op, line.safety, line.link, ch.now⟩ = true) :
    ch.dramRequest line op = ch.dramAccept (ch.lineChan line.line.toNat) ⟨op, line.safety, line.link, ch.now⟩ := by
  rw [Chip.dramRequest, if_pos ⟨usable, runs⟩]
  simp only [Chip.dramArrive, clk, run, held, wait, room, List.isEmpty_nil, beq_self_eq_true, Bool.and_self, if_true]

/-- A full-line write enters its queue behind what waits and is seen by every reader. -/
theorem dramAccept_write (ch : Chip) (k n : Nat) {data : List Byte} (len : data.length = 64) (poison safety link : Bool) (now : Nat) :
    ∃ q, ch.dramAccept k ⟨.write n data poison, safety, link, now⟩ =
        (ch.setWrq k (q ++ [⟨.write n data poison, safety, link, now⟩])).store (dramBase + 64 * n) data poison ∧
      (ch.wrq k = [] → q = []) := by
  refine ⟨(ch.wrq k).filter fun w => !(w.full && w.line == n), ?_, fun h => by rw [h]; rfl⟩
  rw [Chip.dramAccept, if_neg (by exact Bool.false_ne_true), if_pos (by rfl), Chip.seeWrite]
  dsimp only
  rw [padTo_self len]
  rfl

theorem count64_mc (ch : Chip) (f w : Field) (wb : Nat) (c o : Field) (ob n : Nat) : (ch.count64 f w wb c o ob n).mc = ch.mc := by
  unfold Chip.count64
  dsimp only
  split
  · exact wr_mc ..
  · rw [count_mc, orBit_mc, wr_mc]

theorem memUe_mc (ch : Chip) (chan rank cls off tag finder : Nat) : (ch.memUe chan rank cls off tag finder).mc = ch.mc := by
  unfold Chip.memUe
  dsimp only
  split
  · rw [raise_mc, wr_mc, wr_mc, wr_mc, wr_mc, wr_mc, count_mc]
  · rw [raise_mc, wr_mc, wr_mc, wr_mc, wr_mc, wr_mc, count_mc]

theorem lineWrite_mc (ch : Chip) (l : Nat) (data : List Byte) (poison : Bool) : (ch.lineWrite l data poison).mc = ch.mc := by
  unfold Chip.lineWrite
  dsimp only
  split
  · exact memUe_mc ..
  · exact count64_mc ..

/-- A write that is issued while no other write of its line waits. -/
theorem LineWritten.issue {ch x : Chip} {n k : Nat} {data : List Byte} {poison : Bool} (h : LineWritten ch n data poison x)
    (len : data.length = 64) (safety link : Bool) (now : Nat) (last : (x.wrq k).erase ⟨.write n data poison, safety, link, now⟩ = []) :
    LineWritten ch n data poison (x.dramIssue k ⟨.write n data poison, safety, link, now⟩) := by
  have none : ((x.setWrq k []).lineWrite n data poison).wrq k = [] := by
    rw [Chip.wrq, lineWrite_mc]
    exact wrq_setWrq x k []
  have issued : x.dramIssue k ⟨.write n data poison, safety, link, now⟩ =
      (((x.setWrq k []).lineWrite n data poison).openLine n).countLink k link := by
    rw [Chip.dramIssue, if_neg (by exact Bool.false_ne_true), last]
    dsimp only
    rw [none]
    rfl
  rw [issued]
  exact (((h.same (sameMemory_setWrq x k [])).lineWrite len).same (sameMemory_openLine ..)).same (sameMemory_countLink ..)

/-- Settles O60: the write is seen from its acceptance on, and its issue stores the same line once more (R506, R513, R522). -/
theorem dramLineReadsBack : Obligations.DramLineReadsBack := by
  intro s c line data poison p awake ch n a k x r runs usable failed len clk run held wait room served kept
  obtain ⟨q, taken, empty⟩ := dramAccept_write ch k n len poison line.safety line.link ch.now
  have step : exec (.dramWrite c line data poison) s = .next (s.setChip c (ch.dramAccept k r)) := by
    refine (onChip_awake awake fun ch => ch.dramRequest line (.write line.line.toNat data poison)).trans ?_
    rw [dramRequest_taken runs usable clk run held wait room]
  have isKept : ∀ y, LineWritten ch n data poison y → kept y := by
    intro y h
    obtain ⟨f, bytes, granules⟩ := h
    refine ⟨fun i hi => ?_, fun b out => ?_, ?_, fun g other => ?_⟩
    · rw [bytes, dif_pos ⟨Nat.le_add_right _ _, by rw [Nat.add_sub_cancel_left]; exact hi⟩]
      congr 1
      exact Nat.add_sub_cancel_left ..
    · rw [bytes, dif_neg (by rw [len]; omega)]
    · have own : granule (dramBase + 64 * n) = dramBase + 64 * n := by
        rw [granule, if_neg (by simp only [dramBase, crBase]; omega)]
        simp only [dramBase]; omega
      rw [Chip.isPoisoned, Chip.rankGone, f, own, granules, if_pos rfl]
      exact Bool.or_false _
    · rw [granules, if_neg other]
  have written : LineWritten ch n data poison (ch.dramAccept k r) := by
    rw [taken]
    exact lineWritten_store len failed (fun _ _ => rfl) fun _ _ => rfl
  refine ⟨_, step, ⟨fun d hd => chip_setChip_ne _ _ _ _ hd, setChip_tray .., setChip_pending ..⟩, ?_⟩
  rw [chip_setChip_self]
  refine ⟨isKept _ written, ?_, fun none => isKept _ ?_⟩
  · rw [taken, wrq_store, wrq_setWrq]
    exact List.mem_append_right _ (List.mem_singleton.mpr rfl)
  · have queue : (ch.dramAccept k r).wrq k = [r] := by rw [taken, empty none, wrq_store, wrq_setWrq, List.nil_append]
    have emptied : ((ch.dramAccept k r).wrq k).erase r = [] := by rw [queue, List.erase_cons_head]
    exact written.issue len line.safety line.link ch.now emptied

end Sys2Proof.Machine
end

section
/-! SUPPORT. A step on an empty queue, and the state after reset. -/

namespace Sys2Proof.Machine

open Sys2Proof

/-! ### One nanosecond -/

theorem xing_held (ch : Chip) (src dst : Nat) (h : ∀ x ∈ ch.xings, x.held = []) : (ch.xing src dst).held = [] := by
  rw [Chip.xing]
  cases found : ch.xings.find? fun x => x.src == src && x.dst == dst with
  | none => rfl
  | some x => exact h x (List.mem_of_find?_eq_some found)

theorem dramTurn_idle {ch : Chip} {k : Nat} (idle : ch.chanIdle k = true) (held : ∀ x ∈ ch.xings, x.held = []) : ch.dramTurn k = ch := by
  have entered : ch.dramAdmit k = ch := by
    simp only [Chip.dramAdmit, xing_held ch _ _ held, List.isEmpty_nil, Bool.not_true, Bool.and_false, Bool.false_eq_true, if_false]
  simp only [Chip.dramTurn, entered, idle, Bool.not_true, Bool.and_false, Bool.false_eq_true, if_false]

theorem memTurn_idle {ch : Chip} (idle : ∀ k, k < 16 → ch.chanIdle k = true) (held : ∀ x ∈ ch.xings, x.held = []) : ch.memTurn = ch := by
  rw [Chip.memTurn]
  split
  · exact foldl_same _ _ _ fun k hk => dramTurn_idle (idle k (List.mem_range.mp hk)) held
  · rfl

theorem sameMemory_fsync (ch : Chip) (p : Nat) : SameMemory ch (ch.fsync p) := by
  unfold Chip.fsync
  dsimp only
  split
  · exact ⟨rfl, rfl, rfl⟩
  · exact ⟨rfl, rfl, rfl⟩

theorem sameMemory_tick (ch : Chip) (t : Nat) : SameMemory ch (ch.tick t) := by
  unfold Chip.tick
  split
  · exact ⟨rfl, rfl, rfl⟩
  · refine SameMemory.trans (SameMemory.trans ?_ (sameMemory_fsync _ 0)) (sameMemory_fsync _ 1)
    exact ⟨rfl, rfl, rfl⟩

theorem tick_now (t : Tray) : t.tick.now = t.now + 1 := by
  unfold Tray.tick
  dsimp only
  repeat' split
  all_goals rfl

theorem tick_power (t : Tray) : t.tick.power = t.power := by
  unfold Tray.tick
  dsimp only
  repeat' split
  all_goals rfl

theorem logRanks_now (c : ChipId) (s t : State) : (logRanks c s t).tray.now = t.tray.now := by
  unfold logRanks
  split <;> rfl

theorem logRanks_power (c : ChipId) (s t : State) : (logRanks c s t).tray.power = t.tray.power := by
  unfold logRanks
  split <;> rfl

theorem logRanks_chip (c : ChipId) (s t : State) (d : ChipId) : (logRanks c s t).chip d = t.chip d := by
  unfold logRanks
  split <;> rfl

/-- Settles O2: the tray's time moves by one, and a chip whose channels and crossings are empty keeps its memory. -/
theorem emptyQueuePassesOneNanosecond : Obligations.EmptyQueuePassesOneNanosecond := by
  intro s empty
  rw [step_nil empty]
  refine ⟨fun off => ?_, fun on => ⟨_, rfl, ?_, by rw [idle_pending, empty], ?_, fun c idle held => ?_⟩⟩
  · rw [State.idle, if_pos off]
  · rw [State.idle, if_neg on]
    exact (foldl_keeps (fun t : State => t.tray.now) _ chipIds (fun t c => logRanks_now c _ t) _).trans (tick_now _)
  · rw [State.idle, if_neg on]
    exact (foldl_keeps (fun t : State => t.tray.power) _ chipIds (fun t c => logRanks_power c _ t) _).trans (tick_power _)
  · have chip : s.idle.chip c = if (s.chip c).inReset then s.chip c else (s.chip c).memTurn.tick (s.tray.tick).now := by
      rw [State.idle, if_neg on]
      refine (foldl_keeps (fun t : State => t.chip c) _ chipIds (fun t d => logRanks_chip d _ t c) _).trans ?_
      exact modAll_chip ..
    rw [chip, memTurn_idle idle held]
    split
    · exact ⟨rfl, rfl⟩
    · obtain ⟨mem, poisoned, -⟩ := sameMemory_tick (s.chip c) (s.tray.tick).now
      exact ⟨mem, poisoned⟩

/-! ### Reset -/

theorem reset_chip (c : ChipId) : State.reset.chip c = Chip.reset c MemCtl.factory := by
  obtain rfl | rfl | rfl | rfl := chipId_cases c <;> rfl

/-- Settles O3: each clause reads a chip of the state after reset. -/
theorem resetLeavesEveryFieldAtItsResetValue : Obligations.ResetLeavesEveryFieldAtItsResetValue := by
  refine ⟨rfl, fun c => ?_⟩
  rw [reset_chip]
  exact ⟨rfl, get_set_self .., fun f other => get_set_ne _ _ _ _ _ _ other, fun a => rfl, rfl, rfl, rfl⟩

end Sys2Proof.Machine
end

section
/-! SUPPORT. Events of the PCIe link and what the host reads and writes (R95 to R122), and the statements. -/

namespace Sys2Proof.Machine

open Sys2Proof

/-! ### Reads that fail -/

/-- A read that stands first is the one its tag names, and the list is as it was. -/
theorem readFirst_head {ch : Chip} {r : ReadReq} {rest : List ReadReq} {tag : Nat} (reads : ch.hif.reads = r :: rest) (h : r.tag = tag) :
    ch.readFirst tag = some (r, ch) := by
  rw [Chip.readFirst, reads, pickFirst, if_pos (by rw [h]; exact beq_self_eq_true tag), Option.map_some]
  dsimp only
  rw [← reads]

theorem readFirst_none {ch : Chip} {tag : Nat} (h : ∀ r ∈ ch.hif.reads, r.tag ≠ tag) : ch.readFirst tag = none := by
  rw [Chip.readFirst, pickFirst_none _ _ fun r hr => beq_eq_false_iff_ne.mpr (h r hr)]
  rfl

theorem inReset_false {ch : Chip} (h : ch.hif.state ≠ .reset) : ch.inReset = false := beq_eq_false_iff_ne.mpr h

theorem completionTimeout_none {s : State} {c : ChipId} (awake : Awake s c) {tag : BitVec 8}
    (h : (s.chip c).readFirst tag.toNat = none) : exec (.completionTimeout c tag) s = .next s := by
  show execCompletionTimeout c tag s = _
  rw [execCompletionTimeout, inReset_false awake, if_neg Bool.false_ne_true, h]

/-- The read that times out stands first: what asked for it takes the failure. -/
theorem completionTimeout_head {s : State} {c : ChipId} (awake : Awake s c) {tag : BitVec 8} {r : ReadReq} {x : Chip}
    (h : (s.chip c).readFirst tag.toNat = some (r, s.chip c)) (use : match r.use with
      | .doorbell line => x = (s.chip c).doorbellRead line ⟨.timeout, false, []⟩
      | .descriptor n => x = (s.chip c).descRead n ⟨.timeout, false, []⟩
      | .image k => x = (s.chip c).imageRead k ⟨.timeout, false, []⟩
      | .critical n => x = ((s.chip c).dropReads (.critical n)).readAer ⟨.timeout, false, []⟩
      | _ => False) : exec (.completionTimeout c tag) s = .next (s.setChip c x) := by
  show execCompletionTimeout c tag s = _
  rw [execCompletionTimeout, inReset_false awake, if_neg Bool.false_ne_true, h]
  dsimp only
  rw [setChip_self]
  cases kind : r.use with
  | doorbell _ | descriptor _ | image _ | critical _ => rw [kind] at use; subst use; rfl
  | payload _ | job _ | container => rw [kind] at use; exact use.elim

/-- Settles O22: the clock and link events, the errors by name, and reads that fail (R83, R95, R96, R117). -/
theorem linkEvents : Obligations.LinkEvents := by
  intro s c
  dsimp only
  refine ⟨fun clk awake => ?_, fun clk held => ?_, fun clk awake => ?_, fun awake => ⟨fun w g clk down lanes gen => ?_, fun e he => ?_, ?_, ?_,
    fun tag none => ⟨?_, ?_⟩, fun tag r rest reads isTag => ⟨?_, fun line use => ?_, fun n use => ?_, fun n use => ?_, fun k use => ?_⟩⟩⟩
  · show execHostRefclkLoss c s = _
    simp only [execHostRefclkLoss, clk, Bool.true_eq_false, if_false, modChip_eq, inReset_false awake, Bool.false_eq_true]
  · show execHostRefclkLoss c s = _
    simp only [execHostRefclkLoss, clk, Bool.true_eq_false, if_false, modChip_eq, Chip.inReset, held, beq_self_eq_true, if_true]
  · show execHostRefclkReturn c s = _
    simp only [execHostRefclkReturn, onHeld_eq, clk, if_false, inReset_false awake, Bool.false_eq_true]
  · show execPcieLinkUp c w g s = _
    have legal : (w.val == 1 || w.val == 2 || w.val == 4) = true := by
      simpa only [Bool.or_eq_true, beq_iff_eq, or_assoc] using lanes
    have rate : (g.val != 0) = true := bne_iff_ne.mpr gen
    simp only [execPcieLinkUp, onChip_awake awake, clk, down, legal, rate, Bool.not_false, Bool.and_self, if_true]
  · show execReceiverError c e.1 s = _
    have name : linkAer e.1 = e.2 := by
      simp only [List.mem_cons, List.not_mem_nil, or_false] at he
      obtain rfl | rfl | rfl | rfl | rfl | rfl | rfl | rfl := he <;> rfl
    rw [execReceiverError, onChip_awake awake, name]
  · exact onChip_awake awake _
  · exact onChip_awake awake _
  · show execUnexpectedCompletion c tag s = _
    have unasked : ((s.chip c).hif.reads.any fun r => r.tag == tag.toNat) = false :=
      List.any_eq_false.mpr fun r hr h => none r hr (beq_iff_eq.mp h)
    simp only [execUnexpectedCompletion, onChip_awake awake, unasked, Bool.false_eq_true, if_false]
  · exact completionTimeout_none awake (readFirst_none none)
  · show execUnexpectedCompletion c tag s = _
    have asked : ((s.chip c).hif.reads.any fun r => r.tag == tag.toNat) = true := by
      rw [reads, List.any_cons, isTag, beq_self_eq_true, Bool.true_or]
    simp only [execUnexpectedCompletion, onChip_awake awake, asked, if_true, setChip_self]
  · exact completionTimeout_head awake (readFirst_head reads isTag) (by rw [use])
  · exact completionTimeout_head awake (readFirst_head reads isTag) (by rw [use])
  · exact completionTimeout_head awake (readFirst_head reads isTag) (by rw [use])
  · exact completionTimeout_head awake (readFirst_head reads isTag) (by rw [use])

end Sys2Proof.Machine
end

section
/-! SUPPORT. PTM dialogues and Lightweight Notification (R109 to R114, R122, R131). -/

namespace Sys2Proof.Machine

open Sys2Proof

/-- Settles O23: each step of a dialogue, the loss of the correlation, and the LN commands (R109 to R114, R122). -/
theorem ptmAndNotification : Obligations.PtmAndNotification := by
  intro s c awake
  dsimp only
  have act := fun f => onChip_awake awake f
  refine ⟨fun on => ⟨?_, fun period => ?_⟩, fun off => ?_, fun t2 pd t1 asked first => ?_, fun t2 pd t1 asked second => ?_, fun t2 pd none => ?_,
    fun late valid => ?_, act _, fun cls n => act _, act _, fun line => ⟨fun not => ?_, fun runs reg match' => ⟨fun run => ?_, fun doze => ?_⟩⟩⟩
  · show execPtmGo c s = _
    rw [execPtmGo, act, Chip.ptmRequest, if_pos on]
    rfl
  · show execPtmDialogue c s = _
    rw [execPtmDialogue, act, if_neg period, Chip.ptmRequest, if_pos on]
    rfl
  · show execPtmDialogue c s = _
    rw [execPtmDialogue, act, if_pos off, setChip_self]
  · show execPtmResponse c t2 pd s = _
    rw [execPtmResponse, act, asked]
    dsimp only
    rw [if_pos first]
    rfl
  · show execPtmResponse c t2 pd s = _
    rw [execPtmResponse, act, asked]
    dsimp only
    rw [if_neg second]
    rfl
  · show execPtmResponse c t2 pd s = _
    rw [execPtmResponse, act, none]
    dsimp only
    rw [setChip_self]
  · show execPtmTimeout c s = _
    rw [execPtmTimeout, act, if_pos late, Chip.ptmLost, if_pos valid]
  · show execLnMessage c line s = _
    have skip : (!(s.chip c).halted && (s.chip c).hif.lnRegs.contains ((line.toNat - (s.chip c).dbPage) / (8 * (s.chip c).ringsPerLine))) =
        false := by
      obtain halted | unregistered := not
      · rw [halted]; rfl
      · rw [unregistered, Bool.and_false]
    simp only [execLnMessage, act, skip, Bool.false_and, Bool.false_eq_true, if_false, setChip_self]
  · show execLnMessage c line s = _
    have awake' : ¬ ((s.chip c).pwr = pwrDoze ∨ (s.chip c).pwr = pwrWaking) := by
      rw [pwrDoze, pwrWaking]; omega
    simp only [execLnMessage, act, runs, reg, match', Bool.not_false, Bool.and_self, beq_self_eq_true, if_true, if_neg awake']
  · show execLnMessage c line s = _
    simp only [execLnMessage, act, runs, reg, match', Bool.not_false, Bool.and_self, beq_self_eq_true, if_true, if_pos doze]

end Sys2Proof.Machine
end

section
/-! SUPPORT. What the host reads and writes: configuration requests, the windows of BAR2, host atomics (R97, R105, R115 to R122). -/

namespace Sys2Proof.Machine

open Sys2Proof

/-! ### Configuration requests (R97, R122) -/

theorem configRequest_starting {s : State} {c : ChipId} (h : (s.chip c).hif.state = .starting) (wr : Bool) (off : BitVec 12) (be : BitVec 4)
    (v : Dword) : exec (.configRequest c wr off be v) s = .next (s.setChip c ((s.chip c).send (.cpl .crs false []))) := by
  show execConfigRequest c wr off be v s = _
  have out : (s.chip c).inReset = false := inReset_false (by rw [h]; exact HifState.noConfusion)
  simp only [execConfigRequest, out, Bool.false_and, Bool.false_eq_true, if_false, if_pos (Or.inr h : _ ∨ _), modChip_eq]

section
variable {s : State} {c : ChipId} (h : (s.chip c).hif.state = .firmware ∨ (s.chip c).hif.state = .rom) (off : BitVec 12) (be : BitVec 4) (v : Dword)
include h

theorem ready_not : (s.chip c).inReset = false ∧ ¬ ((s.chip c).hif.state = .reset ∨ (s.chip c).hif.state = .starting) := by
  rw [Chip.inReset]
  obtain h | h := h <;> rw [h] <;> decide

theorem configRequest_read : exec (.configRequest c false off be v) s =
    .next (s.setChip c ((s.chip c).send (.cpl .sc false (toLe 4 ((s.chip c).cfgRead (off.toNat / 4 * 4)))))) := by
  show execConfigRequest c false off be v s = _
  obtain ⟨out, ready⟩ := ready_not h
  simp only [execConfigRequest, out, Bool.false_and, Bool.false_eq_true, if_false, if_neg ready, modChip_eq]

theorem configRequest_write : exec (.configRequest c true off be v) s =
    .next (if off.toNat / 4 * 4 = 0x78 ∧ bit be.toNat 1 = true ∧ bit v.toNat 15 = true then
        (s.setChip c (((s.chip c).cfgWrite (off.toNat / 4 * 4) be.toNat v.toNat).send (.cpl .sc false []))).warmReset c rstFlr
      else s.setChip c (((s.chip c).cfgWrite (off.toNat / 4 * 4) be.toNat v.toNat).send (.cpl .sc false []))) := by
  show execConfigRequest c true off be v s = _
  obtain ⟨out, ready⟩ := ready_not h
  simp only [execConfigRequest, out, Bool.false_and, Bool.false_eq_true, if_false, if_neg ready, modChip_eq, if_true]

end

/-! ### The image window (R105, R669) -/

theorem imageStore_some (ch : Chip) (o : Nat) (data : List Byte) : ch.imageStore o (data.map some) = { ch with hif := { ch.hif with
    image := data.zipIdx.foldl (fun (m : Tab Byte) e => Tab.set 0#8 m (o + e.2) e.1) ch.hif.image } } := by
  simp only [Chip.imageStore, List.zipIdx_map, List.foldl_map, Prod.map_fst, Prod.map_snd, id_eq]

theorem imageWindowWrite_open {s : State} {c : ChipId} (awake : Awake s c) {off : BitVec 24} {data : List Byte} (mem : (s.chip c).memSpace = true)
    (rom : (s.chip c).romMode = true) (idle : (s.chip c).hif.bmState ≠ 1) (fits : off.toNat + data.length ≤ 0x1000000) :
    exec (.imageWindowWrite c off false data) s = .next (s.setChip c ((s.chip c).imageStore off.toNat (data.map some))) := by
  show execImageWindowWrite c off false data s = _
  have is : (s.chip c).imageOpen = true := by rw [Chip.imageOpen, rom, Bool.true_and]; exact bne_iff_ne.mpr idle
  rw [execImageWindowWrite, onChip_awake awake, List.take_of_length_le (by omega)]
  simp only [mem, is, Bool.not_true, Bool.false_eq_true, if_false, if_true]

theorem imageWindowWrite_closed {s : State} {c : ChipId} (awake : Awake s c) {off : BitVec 24} {data : List Byte}
    (mem : (s.chip c).memSpace = true) (closed : (s.chip c).romMode = false ∨ (s.chip c).hif.bmState = 1) :
    exec (.imageWindowWrite c off false data) s = .next (s.setChip c ((s.chip c).hifErr 6 true (0x1000000 + off.toNat))) := by
  show execImageWindowWrite c off false data s = _
  have is : (s.chip c).imageOpen = false := by
    rw [Chip.imageOpen]
    obtain rom | busy := closed
    · rw [rom, Bool.false_and]
    · rw [busy]; exact Bool.and_false _
  rw [execImageWindowWrite, onChip_awake awake]
  simp only [mem, is, Bool.not_true, Bool.false_eq_true, if_false]

/-! ### The debug window (R105, R106) -/

/-- Offset `i` of an access of the debug window maps onto a flat address. -/
theorem debugOffset {o : Nat} (low : 0x2000000 ≤ o) (a i : Nat) : a + (o + i - 0x2000000) = a + (o - 0x2000000) + i := by omega

theorem bar2Byte_debug {o : Nat} (low : 0x2000000 ≤ o) (ch : Chip) (a i : Nat) :
    ch.bar2Byte a (o + i) = if ch.develop then ch.dbgByte (a + (o - 0x2000000) + i) else 0#8 := by
  rw [Chip.bar2Byte, if_neg (by omega), if_neg (by omega), if_neg (by omega), debugOffset low]

section
variable {s : State} {c : ChipId} (awake : Awake s c) {off : BitVec 26} {n : Nat} (mem : (s.chip c).memSpace = true)
  (low : 0x2000000 ≤ off.toNat) (high : off.toNat + n ≤ 0x4000000)
include awake mem low high

theorem debugRead : exec (.debugWindowAccess c off (.read n)) s = .next (s.setChip c ((s.chip c).cplData
    ((s.chip c).develop && ((List.range n).map fun i => (s.chip c).rd F.HIF_DBG_BASE_BASE * 2 ^ 25 + (off.toNat - 0x2000000) + i).any fun x =>
      decide (dramBase ≤ x) && (s.chip c).dbgMem x && (s.chip c).isPoisoned x)
    ((List.range n).map fun i => if (s.chip c).develop then
      (s.chip c).dbgByte ((s.chip c).rd F.HIF_DBG_BASE_BASE * 2 ^ 25 + (off.toNat - 0x2000000) + i) else 0#8) n)) := by
  show execDebugWindowAccess c off (.read n) s = _
  have inside : ∀ i, decide (0x2000000 ≤ off.toNat + i) = true := fun i => decide_eq_true (by omega)
  rw [execDebugWindowAccess, onChip_awake awake]
  dsimp only
  rw [Nat.min_eq_left (by omega : n ≤ 0x4000000 - off.toNat), mem, if_neg (by decide)]
  simp only [List.any_map, List.map_map, Function.comp_def, inside, Bool.true_and, bar2Byte_debug low,
    debugOffset low]

theorem debugWrite {data : List (Option Byte)} (len : data.length = n) : exec (.debugWindowAccess c off (.write false data)) s =
    .next (s.setChip c (if (s.chip c).develop then
      (s.chip c).dbgStore ((s.chip c).rd F.HIF_DBG_BASE_BASE * 2 ^ 25 + (off.toNat - 0x2000000)) [] data else s.chip c)) := by
  show execDebugWindowAccess c off (.write false data) s = _
  rw [execDebugWindowAccess, onChip_awake awake]
  dsimp only
  rw [mem, if_neg (by decide), if_neg (by decide), List.take_of_length_le (by omega), Chip.bar2Write, if_neg (by omega), if_neg (by omega),
    if_neg (by omega)]

end

/-! ### Host atomics and the Latch window (R115, R116, R119) -/

section
variable {s : State} {c : ChipId} (awake : Awake s c) {off : BitVec 26} (op : AtomicKind) (v cmp : Qword) {a : Nat}
  (mem : (s.chip c).memSpace = true)
include awake mem

theorem hostAtomicop_unaligned (odd : off.toNat % 8 ≠ 0) :
    exec (.hostAtomicop c false off op .s8 v cmp) s = .next (s.setChip c ((s.chip c).aer .malformedTlp)) := by
  show execHostAtomicop c false off op .s8 v cmp s = _
  rw [execHostAtomicop, onChip_awake awake]
  dsimp only
  rw [mem, if_neg (by decide), show atomicBytes .s8 = 8 from rfl, if_pos odd]

variable (on : (s.chip c).winOn = true) (low : 0x148000 ≤ off.toNat) (high : off.toNat < 0x150000) (even : off.toNat % 8 = 0)
  (word : (s.chip c).winWord ((off.toNat - 0x148000) / 8) = some a) (shown : (s.chip c).tapHides a = false)
include on low high even word shown

theorem hostAtomicop_word : exec (.hostAtomicop c false off op .s8 v cmp) s = .next (s.setChip c
    (if (s.chip c).isPoisoned a then (s.chip c).hostPoison.unsupported
      else ((s.chip c).latchOp a (atomicLop op) v cmp false).2.2.send
        (.cpl .sc false (toLe 8 (BitVec.ofNat 64 ((s.chip c).load a 8)).toNat)))) := by
  show execHostAtomicop c false off op .s8 v cmp s = _
  have below : decide (off.toNat < 0x148000) = false := decide_eq_false (Nat.not_lt.mpr low)
  have above : decide (0x150000 ≤ off.toNat) = false := decide_eq_false (Nat.not_le.mpr high)
  rw [execHostAtomicop, onChip_awake awake]
  dsimp only
  rw [mem, if_neg (by decide), show atomicBytes .s8 = 8 from rfl, if_neg (by rw [even]; decide), below, above, on, if_neg (by decide), word]
  dsimp only
  rw [shown, if_neg Bool.false_ne_true, if_pos rfl]

end

section
variable {s : State} {c : ChipId} (awake : Awake s c) (off : BitVec 15) (be : BitVec 8) (v : Qword) (mem : (s.chip c).memSpace = true)
  (on : (s.chip c).winOn = true)
include awake mem on

theorem latchWindow_write : exec (.latchWindowAccess c off false true be false v) s = .next (s.setChip c ((s.chip c).winWrite
    (off.toNat / 4 * 4 / 8) (off.toNat / 4 * 4 % 8 == 4) (bits be.toNat 0 4) (bits v.toNat 0 32))) := by
  show execLatchWindowAccess c off false true be false v s = _
  rw [execLatchWindowAccess, onChip_awake awake]
  simp only [mem, on, Bool.not_true, Bool.false_eq_true, if_false, if_true, List.foldl_cons, List.foldl_nil, Nat.mul_zero, Nat.add_zero]

theorem latchWindow_read : exec (.latchWindowAccess c off false false be false v) s = .next (s.setChip c
    (((s.chip c).winRead (off.toNat / 4 * 4 / 8) (off.toNat / 4 * 4 % 8 == 4)).2.send
      (.cpl .sc false (toLe 4 ((s.chip c).winRead (off.toNat / 4 * 4 / 8) (off.toNat / 4 * 4 % 8 == 4)).1)))) := by
  show execLatchWindowAccess c off false false be false v s = _
  rw [execLatchWindowAccess, onChip_awake awake]
  simp only [mem, on, Bool.not_true, Bool.false_eq_true, if_false, if_true, List.foldl_cons, List.foldl_nil, Nat.mul_zero, Nat.add_zero,
    List.nil_append]

end

/-- Settles O24: configuration requests, BAR2, host atomics and the Latch window (R97, R105, R115 to R122). -/
theorem hostWindows : Obligations.HostWindows := by
  intro s c
  dsimp only
  refine ⟨fun wr off be v => ⟨fun starting => configRequest_starting starting wr off be v, fun ready => ⟨fun rd => ?_, fun wr' other => ?_,
    fun wr' at' en flr => ?_⟩⟩, fun awake => ⟨fun on d3 => ?_, fun off data mem => ⟨fun rom idle fits => ?_, imageWindowWrite_closed awake mem, ?_⟩,
    fun off n mem low high => ⟨fun closed => ?_, fun open' => ?_, fun data len => ⟨fun open' => ?_, fun closed => ?_⟩⟩,
    fun off op v cmp a mem on low high => ⟨hostAtomicop_unaligned awake op v cmp mem, fun even word shown clean => ?_, fun even word shown bad => ?_⟩,
    fun off be v mem on => ⟨latchWindow_write awake off be v mem on, latchWindow_read awake off be v mem on⟩⟩⟩
  · subst rd
    exact configRequest_read ready off be v
  · subst wr'
    rw [configRequest_write ready, if_neg fun h => other h.1]
  · subst wr'
    rw [configRequest_write ready, if_pos ⟨at', en, flr⟩, at']
  · show execPmStateChange c d3 s = _
    rw [execPmStateChange, onChip_awake awake, if_neg on]
    cases d3 <;> rfl
  · rw [imageWindowWrite_open awake mem rom idle fits, imageStore_some]
  · show execImageWindowWrite c off true data s = _
    rw [execImageWindowWrite, onChip_awake awake]
    simp only [mem, Bool.not_true, Bool.false_eq_true, if_false, if_true]
  · rw [debugRead awake mem low high, closed]
    simp only [Bool.false_and, Bool.false_eq_true, if_false, List.map_const', List.length_range]
    rfl
  · rw [debugRead awake mem low high, open']
    simp only [Bool.true_and, if_true, List.map_map, Function.comp_def]
  · rw [debugWrite awake mem low high len, if_pos open']
  · rw [debugWrite awake mem low high len, if_neg (by rw [closed]; exact Bool.false_ne_true), setChip_self]
  · rw [hostAtomicop_word awake op v cmp mem on low high even word shown, if_neg (by rw [clean]; exact Bool.false_ne_true)]
  · rw [hostAtomicop_word awake op v cmp mem on low high even word shown, if_pos bad]

end Sys2Proof.Machine
end

section
/-! SUPPORT. Accesses to the registers of BAR0 (R21, R99 to R101, R116, R117), the high-water clears, and the statement. -/

namespace Sys2Proof.Machine

open Sys2Proof

/-! ### Dwords -/

theorem lowOff_aligned {o : Nat} (h : o % 4 = 0) : lowOff o % 4 = 0 := by
  rw [lowOff]
  split <;> omega

theorem aligned_self {o : Nat} (h : o % 4 = 0) : o / 4 * 4 = o := by omega

section
variable {s : State} {c : ChipId} (awake : Awake s c) (off be v : Nat) (ep : Bool)
include awake

theorem regAccess_steward : regAccess c .steward off be ep v s = .next (s.regWrite c .steward (off / 4 * 4) v) := by
  simp only [regAccess, inReset_false awake, Bool.false_eq_true, if_false]

theorem regAccess_off (mem : (s.chip c).memSpace = false) :
    regAccess c .host off be ep v s = .next (s.setChip c ((s.chip c).aer .unsupportedRequest)) := by
  simp only [regAccess, inReset_false awake, mem, Bool.false_eq_true, if_false, Bool.not_false, if_true, modChip_eq]

variable (mem : (s.chip c).memSpace = true)
include mem

theorem regAccess_poisoned : regAccess c .host off be true v s =
    .next (s.setChip c (((s.chip c).hifErr 4 false (off / 4 * 4)).aer .poisonedTlp)) := by
  simp only [regAccess, inReset_false awake, mem, Bool.false_eq_true, if_false, Bool.not_true, if_true, modChip_eq]

theorem regAccess_partial (out : inWindow (off / 4 * 4) = false) (part : be ≠ 15) :
    regAccess c .host off be false v s = .next (s.setChip c ((s.chip c).hifErr 1 false (off / 4 * 4))) := by
  simp only [regAccess, inReset_false awake, mem, Bool.false_eq_true, if_false, Bool.not_true, modChip_eq, out, if_pos part]

theorem regAccess_register (out : inWindow (off / 4 * 4) = false) :
    regAccess c .host off 15 false v s = .next (s.regWrite c .host (off / 4 * 4) v) := by
  simp only [regAccess, inReset_false awake, mem, Bool.false_eq_true, if_false, Bool.not_true, out, ne_eq, not_true_eq_false]

theorem regAccess_window (inside : inWindow (off / 4 * 4) = true) (on : (s.chip c).winOn = true) :
    regAccess c .host off be false v s =
      .next (s.setChip c ((s.chip c).winWrite ((off / 4 * 4 - 0x148000) / 8) (off / 4 * 4 % 8 == 4) be v)) := by
  simp only [regAccess, inReset_false awake, mem, Bool.false_eq_true, if_false, Bool.not_true, inside, if_true, on, modChip_eq]

end

theorem inWindow_iff (o : Nat) : inWindow o = true ↔ 0x148000 ≤ o ∧ o < 0x150000 := by
  rw [inWindow, Bool.and_eq_true, decide_eq_true_eq, decide_eq_true_eq]

theorem inWindow_false {o : Nat} (h : ¬ (0x148000 ≤ o ∧ o < 0x150000)) : inWindow o = false :=
  Bool.eq_false_iff.mpr fun is => h ((inWindow_iff o).mp is)

section
variable {s : State} {c : ChipId} (awake : Awake s c) (off : BitVec 24)
include awake

theorem dwordRead_host (mem : (s.chip c).memSpace = true) : exec (.lowDwordRead c .host off) s = .next (s.setChip c
    (((s.chip c).dwordRead .host (off.toNat / 4 * 4)).2.send
      (.cpl .sc false (toLe 4 ((s.chip c).dwordRead .host (off.toNat / 4 * 4)).1)))) := by
  show execLowDwordRead c .host off s = _
  rw [execLowDwordRead, onChip_awake awake]
  dsimp only
  rw [if_pos mem]

theorem dwordRead_off (mem : (s.chip c).memSpace = false) :
    exec (.lowDwordRead c .host off) s = .next (s.setChip c (((s.chip c).aer .unsupportedRequest).send (.cpl .ur false []))) := by
  show execLowDwordRead c .host off s = _
  rw [execLowDwordRead, onChip_awake awake]
  dsimp only
  rw [if_neg (by rw [mem]; exact Bool.false_ne_true)]
  rfl

theorem dwordRead_steward : exec (.lowDwordRead c .steward off) s =
    .next (s.setChip c ((s.chip c).regRead .steward (off.toNat / 4 * 4)).2) := by
  show execLowDwordRead c .steward off s = _
  rw [execLowDwordRead, onChip_awake awake]
  dsimp only
  rw [Chip.dwordRead, if_neg (fun h => Requester.noConfusion h.1)]

end

/-! ### Registers of two dwords (R100, R101) -/

section
variable {ch : Chip} {r : Requester} {off : Nat} {h : RegHit} (ans : ch.answers r off = true) (noMsix : msixDword off = none)
  (noPba : pbaDword off = none) (found : findReg off = some h) (two : h.fam.dwords = 2)
include ans noMsix noPba found two

theorem regWrite_two (v : Nat) : ch.regWrite r off v =
    if h.dw = 0 then ch.setHoldW r off v else ch.regCommit r h off (ch.holdW r (off - 4) + v * 2 ^ 32) := by
  rw [Chip.regWrite, ans, if_neg (by decide), noMsix, noPba, found]
  dsimp only
  rw [two, if_neg (by decide), if_neg (by decide)]

theorem regRead_two : ch.regRead r off =
    if h.dw % 2 = 0 then (bits (ch.readWhole h) (32 * h.dw) 32, ch.setHoldR r off (bits (ch.readWhole h) (32 * (h.dw + 1)) 32))
    else (ch.holdR r (off - 4), ch) := by
  rw [Chip.regRead, ans, if_neg (by decide), noMsix, noPba, found]
  dsimp only
  rw [two, if_neg (by decide)]

end

/-! ### High-water clears (R21) -/

/-- A clear of a register of block `off` acts on the register's family and index. -/
theorem exec_hwmClr {s : State} {c : ChipId} (awake : Awake s c) (w : HwmReg) {h : RegHit} (found : findReg (hwmPlace w).1 = some h)
    (runs : gatedBlock (hwmPlace w).1 = true → (s.chip c).rd F.PWR_STATE_STATE < 2) :
    exec (.hwmClr c w) s = .next (s.setChip c ((s.chip c).regAct .host h (2 ^ (hwmPlace w).2))) := by
  show execHwmClr c w s = _
  rw [execHwmClr, onChip_awake awake]
  dsimp only
  rw [found]
  dsimp only
  split
  next gated => rw [Chip.whenPowered, if_neg (Nat.not_le.mpr (runs gated))]
  next => rfl

/-- Family and index of a register. -/
def regPlace (off : Nat) : Option (Nat × Nat) := (findReg off).map fun h => (h.fam.base, h.idx)

theorem findReg_of_place {off base idx : Nat} (h : regPlace off = some (base, idx)) :
    ∃ hit, findReg off = some hit ∧ hit.fam.base = base ∧ hit.idx = idx := by
  rw [regPlace, Option.map_eq_some_iff] at h
  obtain ⟨hit, found, place⟩ := h
  cases place
  exact ⟨hit, found, rfl, rfl⟩

theorem place_kennel : ∀ k : Fin 64, regPlace (hwmPlace (.kennel k)).1 = some ((F.KEN_STAT_HWM_CLR 0).reg, k.val) := by decide

theorem place_syncMax : regPlace (hwmPlace .syncMax).1 = some (F.TKP_CTL_MAX_CLR.reg, 0) := by decide

theorem place_mosaic : regPlace (hwmPlace .mosaic).1 = some (F.MOS_ERR_HWM_CLR.reg, 0) := by decide

theorem place_inn : ∀ p : PackId, regPlace (hwmPlace (.inn p)).1 = some ((F.INN_WM_HWM_CLR 0).reg, p.val) := by decide

theorem place_annex : ∀ p : PackId, regPlace (hwmPlace (.annex p)).1 = some ((F.ANX_PSTAT_HWM_CLR 0).reg, p.val) := by decide

section
variable (ch : Chip) {h : RegHit}

theorem regAct_syncMax (base : h.fam.base = F.TKP_CTL_MAX_CLR.reg) :
    ch.regAct .host h (2 ^ 0) = ch.wr F.TKP_SYNC_MAX_MAX (sgn 16 (ch.rd F.TKP_SYNC_ERR_E)).natAbs := by
  simp only [Chip.regAct, RegHit.isReg, base]
  rfl

theorem regAct_kennel (base : h.fam.base = (F.KEN_STAT_HWM_CLR 0).reg) :
    ch.regAct .host h (2 ^ 6) = ch.wr (F.KEN_HWM_BYTES h.idx) (ch.rd (F.KEN_LEVEL_BYTES h.idx)) := by
  simp only [Chip.regAct, RegHit.isReg, base]
  rfl

theorem regAct_mosaic (base : h.fam.base = F.MOS_ERR_HWM_CLR.reg) :
    ch.regAct .host h (2 ^ 9) = ch.wr F.MOS_QHWM_LEVEL (ch.rd F.MOS_STAT_QLEVEL) := by
  simp only [Chip.regAct, RegHit.isReg, base]
  rfl

theorem regAct_inn (base : h.fam.base = (F.INN_WM_HWM_CLR 0).reg) :
    ch.regAct .host h (2 ^ 16) = ch.wr (F.INN_HWM_MAIN h.idx) (ch.rd (F.INN_LEVEL_MAIN h.idx)) := by
  simp only [Chip.regAct, RegHit.isReg, base]
  rfl

theorem regAct_annex (base : h.fam.base = (F.ANX_PSTAT_HWM_CLR 0).reg) :
    ch.regAct .host h (2 ^ 5) = ch.wr (F.ANX_HWM_TOKENS h.idx) (ch.rd (F.ANX_USED_TOKENS h.idx)) := by
  simp only [Chip.regAct, RegHit.isReg, base]
  rfl

end

/-- Settles O20: the checks of an access, the halves of a 64-bit register, and the high-water clears (R21, R99 to R101, R116, R117). -/
theorem registerAccesses : Obligations.RegisterAccesses := by
  intro s c awake
  dsimp only
  refine ⟨fun off be ep v => ?_, fun off => ?_, fun r off v h ans noMsix noPba found two => ⟨fun low => ⟨?_, ?_⟩, fun high => ⟨?_, ?_⟩⟩,
    fun k runs => ?_, ?_, fun runs => ?_, fun p runs => ⟨?_, ?_⟩⟩
  · have o4 : off.toNat / 4 * 4 % 4 = 0 := Nat.mul_mod_left _ _
    have low := aligned_self (lowOff_aligned o4)
    have high : (lowOff (off.toNat / 4 * 4) + 4) / 4 * 4 = lowOff (off.toNat / 4 * 4) + 4 := by
      have := lowOff_aligned o4; omega
    refine ⟨regAccess_steward awake off.toNat be.toNat v.toNat ep, (regAccess_steward awake _ be.toNat v.toNat ep).trans ?_,
      (regAccess_steward awake _ be.toNat v.toNat ep).trans ?_,
      regAccess_off awake off.toNat be.toNat v.toNat ep, fun mem isEp => ?_, fun mem noEp out => ⟨fun part => ?_, fun whole => ?_⟩, fun mem noEp lo hi on => ?_,
      fun mem noEp outLow outHigh whole => ⟨?_, ?_⟩⟩
    · rw [low]
    · rw [high]
    · subst isEp
      exact regAccess_poisoned awake _ _ _ mem
    · subst noEp
      exact regAccess_partial awake _ _ _ mem (inWindow_false out) fun h => part (BitVec.eq_of_toNat_eq h)
    · subst noEp whole
      exact regAccess_register awake _ _ mem (inWindow_false out)
    · subst noEp
      exact regAccess_window awake _ _ _ mem ((inWindow_iff _).mpr ⟨lo, hi⟩) on
    · subst noEp whole
      refine (regAccess_register awake _ _ mem (by rw [low]; exact outLow)).trans ?_
      rw [low]
    · subst noEp whole
      refine (regAccess_register awake _ _ mem (by rw [high]; exact outHigh)).trans ?_
      rw [high]
  · refine ⟨fun mem out => ?_, fun mem lo hi on => ?_, dwordRead_off awake off, dwordRead_steward awake off⟩
    · rw [dwordRead_host awake off mem, Chip.dwordRead, if_neg (by rw [inWindow_false out]; exact fun h => Bool.false_ne_true h.2)]
    · rw [dwordRead_host awake off mem, Chip.dwordRead, if_pos ⟨rfl, (inWindow_iff _).mpr ⟨lo, hi⟩⟩, if_pos on]
  · rw [regWrite_two ans noMsix noPba found two, if_pos low]
  · rw [regRead_two ans noMsix noPba found two, low]
    rfl
  · rw [regWrite_two ans noMsix noPba found two, high, if_neg (by decide)]
  · rw [regRead_two ans noMsix noPba found two, high]
    rfl
  · obtain ⟨h, found, base, idx⟩ := findReg_of_place (place_kennel k)
    rw [exec_hwmClr awake _ found fun _ => runs, ← idx]
    exact congrArg (fun x => Host.Outcome.next (s.setChip c x)) (regAct_kennel _ base)
  · obtain ⟨h, found, base, -⟩ := findReg_of_place place_syncMax
    rw [exec_hwmClr awake _ found fun gated => absurd gated (by decide)]
    exact congrArg (fun x => Host.Outcome.next (s.setChip c x)) (regAct_syncMax _ base)
  · obtain ⟨h, found, base, -⟩ := findReg_of_place place_mosaic
    rw [exec_hwmClr awake _ found fun _ => runs]
    exact congrArg (fun x => Host.Outcome.next (s.setChip c x)) (regAct_mosaic _ base)
  · obtain ⟨h, found, base, idx⟩ := findReg_of_place (place_inn p)
    rw [exec_hwmClr awake _ found fun _ => runs, ← idx]
    exact congrArg (fun x => Host.Outcome.next (s.setChip c x)) (regAct_inn _ base)
  · obtain ⟨h, found, base, idx⟩ := findReg_of_place (place_annex p)
    rw [exec_hwmClr awake _ found fun _ => runs, ← idx]
    exact congrArg (fun x => Host.Outcome.next (s.setChip c x)) (regAct_annex _ base)

end Sys2Proof.Machine
end

section
/-! SUPPORT. Rings: their states, doorbells and descriptor reads (R130 to R144, R154, R155, R157), and the statements. -/

namespace Sys2Proof.Machine

open Sys2Proof

/-! ### The states of a ring -/

theorem whenPowered_runs {ch : Chip} (h : ch.rd F.PWR_STATE_STATE < 2) (off v : Nat) (f : Chip → Chip) : ch.whenPowered off v f = f ch :=
  if_neg (Nat.not_le.mpr h)

section
variable {ch : Chip} {n : Nat}

theorem ringEnable_bad (st : ch.rd (F.RNG_STATE_STATE n) = ringDisabled) {e : Field} (bad : ch.enableCheck n = some e) :
    ch.ringEnable n = (ch.setFlag (F.RNG_CTL_ENABLE n) false).setFlag e true := by
  have state : ch.ringState n = ringDisabled := st
  rw [Chip.ringEnable, state, if_neg (by decide), if_neg (by decide), bad]

theorem ringEnable_ok (st : ch.rd (F.RNG_STATE_STATE n) = ringDisabled) (ok : ch.enableCheck n = none) :
    ch.ringEnable n = (((((ch.setRing n { Ring.reset with
        typ := ch.rd (F.RNG_CTL_TYPE n), gen := ch.rd (F.RNG_CTL_GEN n), size := ch.rd (F.RNG_SIZE_SIZE n),
        sqBase := 64 * ch.rd (F.RNG_SQ_BASE_BASE n), cqBase := 64 * ch.rd (F.RNG_CQ_BASE_BASE n) }).wr (F.RNG_SQ_CONS_INDEX n) 0).wr
          (F.RNG_CQ_PROD_INDEX n) 0).wr (F.RNG_STATE_STATE n) ringActive).setFlag (F.RNG_CTL_ENABLE n) true).lnUpdate := by
  have state : ch.ringState n = ringDisabled := st
  rw [Chip.ringEnable, state, if_neg (by decide), if_neg (by decide), ok]

end

/-- Settles O25: the commands of a ring by its state (R136 to R144, R154, R155). -/
theorem ringControl : Obligations.RingControl := by
  intro s c n live
  have act := fun f => onChip_awake live.1 f
  have runs : (s.chip c).rd F.PWR_STATE_STATE < 2 := live.2
  dsimp only
  refine ⟨fun st ok => ?_, fun st e bad => ?_, fun st => ?_, fun st none idle => ?_, ?_, fun time unsig due on free => ?_, fun st typ full => ?_,
    fun f => ⟨fun on free => ?_, fun off => ?_⟩⟩
  · show execRingEnable c n s = _
    rw [execRingEnable, act, whenPowered_runs runs, ringEnable_ok st ok]
  · show execRingEnable c n s = _
    rw [execRingEnable, act, whenPowered_runs runs, ringEnable_bad st bad]
  · show execRingDisable c n s = _
    rw [execRingDisable, act, whenPowered_runs runs, Chip.ringDisable]
    exact congrArg (fun x => Host.Outcome.next (s.setChip c x)) (if_pos st)
  · show execRingDrained c n s = _
    rw [execRingDrained, act, Chip.ringIdle, if_pos ⟨st, none, idle⟩]
  · show execRingReset c n s = _
    rw [execRingReset, act, whenPowered_runs runs]
  · show execIrqModerationTimer c n s = _
    rw [execIrqModerationTimer, act]
    exact congrArg (fun x => Host.Outcome.next (s.setChip c x)) (if_pos ⟨time, unsig, due, on, free⟩)
  · show execOutputOverflowTimeout c n s = _
    rw [execOutputOverflowTimeout, act, if_pos ⟨st, typ, full⟩]
    rfl
  · show execRecordCqWrite c f s = _
    have go : ¬ ((s.chip c).pwr = pwrDoze ∨ (s.chip c).halted = true ∨ (s.chip c).pcieWaits = true) := by
      rw [on, free]
      rintro (doze | h | h)
      · exact absurd runs (by rw [show (s.chip c).rd F.PWR_STATE_STATE = pwrDoze from doze]; decide)
      · cases h
      · cases h
    rw [execRecordCqWrite, act, if_neg go]
  · show execRecordCqWrite c f s = _
    rw [execRecordCqWrite, act, if_pos (.inr off), setChip_self]

/-! ### Reads that return -/

@[simp] theorem issueRead_regs (ch : Chip) (r : ReadReq) : (ch.issueRead r).regs = ch.regs := by
  unfold Chip.issueRead
  split
  · exact send_regs ..
  · rfl

@[simp] theorem issueRead_media (ch : Chip) (r : ReadReq) : (ch.issueRead r).media = ch.media := by
  unfold Chip.issueRead
  split
  · exact send_media ..
  · rfl

@[simp] theorem setReads_regs (ch : Chip) (rs : List ReadReq) : (ch.setReads rs).regs = ch.regs :=
  foldl_keeps Chip.regs _ _ (fun ch r => issueRead_regs ch r) _

@[simp] theorem setReads_media (ch : Chip) (rs : List ReadReq) : (ch.setReads rs).media = ch.media :=
  foldl_keeps Chip.media _ _ (fun ch r => issueRead_media ch r) _

@[simp] theorem aer_regs (ch : Chip) (e : AerErr) : (ch.aer e).regs = ch.regs := by
  unfold Chip.aer
  dsimp only
  repeat' split
  all_goals simp only [send_regs]

/-- MODE reads the same where the registers are the same. -/
theorem halted_congr {x y : Chip} (h : y.regs = x.regs) : y.halted = x.halted := by
  rw [Chip.halted, Chip.halted, Chip.rd, Chip.rd, h]

theorem ring_congr {x y : Chip} (h : y.media = x.media) (n : Nat) : y.ring n = x.ring n := by
  rw [Chip.ring, Chip.ring, h]

theorem takeRead_head {ch : Chip} {r : ReadReq} {rest : List ReadReq} {use : ReadUse} (reads : ch.hif.reads = r :: rest) (h : r.use = use) :
    ch.takeRead use = some (ch.setReads rest) := by
  rw [Chip.takeRead, reads, pickFirst, if_pos (by rw [h]; exact beq_self_eq_true use)]

theorem readAer_ok (ch : Chip) (data : List Byte) : ch.readAer ⟨.none, false, data⟩ = ch := rfl

theorem readAer_timeout (ch : Chip) (data : List Byte) : ch.readAer ⟨.timeout, false, data⟩ = ch.aer .completionTimeout := rfl

theorem readAer_poisoned (ch : Chip) (data : List Byte) : ch.readAer ⟨.none, true, data⟩ = ch.aer .poisonedTlp := rfl

section
variable {ch : Chip} {r : ReadReq} {rest : List ReadReq} (reads : ch.hif.reads = r :: rest) (data : List Byte)
include reads

theorem doorbellRead_ok {line : Nat} (use : r.use = .doorbell line) (on : ch.halted = false) :
    ch.doorbellRead line ⟨.none, false, data⟩ = (ch.setReads rest).doorbells line data := by
  simp only [Chip.doorbellRead, takeRead_head reads use, readAer_ok, on, and_self, if_true]

theorem doorbellRead_timeout {line : Nat} (use : r.use = .doorbell line) :
    ch.doorbellRead line ⟨.timeout, false, data⟩ = (ch.setReads rest).aer .completionTimeout := by
  simp only [Chip.doorbellRead, takeRead_head reads use, readAer_timeout, reduceCtorEq, false_and, if_false]

variable {n at' cnt : Nat} (use : r.use = .descriptor n) (fetching : ((ch.setReads rest).ring n).fetching = some (at', cnt))
include use fetching

theorem descRead_taken (res : ReadResult) : ch.descRead n res =
    (if ((ch.setReads rest).readAer res).halted then (ch.setReads rest).readAer res
    else if res.fail ≠ .none then ((ch.setReads rest).readAer res).descFail n at' stHostReadErr true res.ep
    else if res.ep then ((ch.setReads rest).readAer res).descFail n at' stHostPoison false true
    else
      let c := (ch.setReads rest).readAer res
      let q := c.ring n
      let ds := (List.range cnt).map fun j => newDesc q.typ ((at' + j) % 2 ^ 32) (padTo 64 ((res.data.drop (64 * j)).take 64))
      let x := (c.setRing n { q with fetching := none, descs := q.descs ++ ds }).wr (F.RNG_SQ_CONS_INDEX n) (at' + cnt)
      (x.flushDone n (q.descs.length + cnt)).ringFetch n) := by
  rw [ring_congr (setReads_media ..)] at fetching
  rw [Chip.descRead, takeRead_head reads use, fetching]

variable (on : ch.halted = false)
include on

theorem descRead_ok : ch.descRead n ⟨.none, false, data⟩ =
    (let c := ch.setReads rest
    let q := c.ring n
    let ds := (List.range cnt).map fun j => newDesc q.typ ((at' + j) % 2 ^ 32) (padTo 64 ((data.drop (64 * j)).take 64))
    let x := (c.setRing n { q with fetching := none, descs := q.descs ++ ds }).wr (F.RNG_SQ_CONS_INDEX n) (at' + cnt)
    (x.flushDone n (q.descs.length + cnt)).ringFetch n) := by
  have live : (ch.setReads rest).halted = false := (halted_congr (setReads_regs ..)).trans on
  rw [descRead_taken reads use fetching, readAer_ok, live]
  rfl

theorem descRead_poisoned : ch.descRead n ⟨.none, true, data⟩ =
    ((ch.setReads rest).aer .poisonedTlp).descFail n at' stHostPoison false true := by
  have live : ((ch.setReads rest).aer .poisonedTlp).halted = false :=
    (halted_congr ((aer_regs ..).trans (setReads_regs ..))).trans on
  rw [descRead_taken reads use fetching, readAer_poisoned, live]
  rfl

theorem descRead_timeout : ch.descRead n ⟨.timeout, false, data⟩ =
    ((ch.setReads rest).aer .completionTimeout).descFail n at' stHostReadErr true false := by
  have live : ((ch.setReads rest).aer .completionTimeout).halted = false :=
    (halted_congr ((aer_regs ..).trans (setReads_regs ..))).trans on
  rw [descRead_taken reads use fetching, readAer_timeout, live]
  rfl

end

/-- Settles O26: polls by their conditions, and the reads of doorbells and descriptors (R130 to R135, R154, R157). -/
theorem doorbellsAndFetches : Obligations.DoorbellsAndFetches := by
  intro s c awake
  have act := fun f => onChip_awake awake f
  dsimp only
  intro on
  refine ⟨fun run period => ?_, fun run period some => ?_, fun run sweep => ?_, fun doze period => ?_, fun r rest data reads =>
    ⟨fun line use => ?_, fun line use => ?_, fun n at' cnt use fetching => ⟨?_, ?_, ?_⟩⟩⟩
  · show execDoorbellPoll c s = _
    rw [execDoorbellPoll, act, if_pos ⟨run, on, period⟩]
  · show execDoorbellFallbackPoll c s = _
    rw [execDoorbellFallbackPoll, act, if_pos ⟨run, on, period, some⟩]
  · show execDoorbellSweep c s = _
    rw [execDoorbellSweep, act, if_pos ⟨run, on, sweep⟩]
  · show execDozeDoorbellPoll c s = _
    rw [execDozeDoorbellPoll, act, if_pos ⟨doze, on, period⟩]
  · show execDoorbellReadComplete c line _ s = _
    rw [execDoorbellReadComplete, act, doorbellRead_ok reads data use on]
  · show execDoorbellReadComplete c line _ s = _
    rw [execDoorbellReadComplete, act, doorbellRead_timeout reads data use]
  · show execDescriptorFetchComplete c n _ s = _
    rw [execDescriptorFetchComplete, act, descRead_ok reads data use fetching on]
  · show execDescriptorFetchComplete c n _ s = _
    rw [execDescriptorFetchComplete, act, descRead_poisoned reads data use fetching on]
  · show execDescriptorFetchComplete c n _ s = _
    rw [execDescriptorFetchComplete, act, descRead_timeout reads data use fetching on]

end Sys2Proof.Machine
end

section
/-! SUPPORT. Descriptors that start and complete (R146 to R157, R190, R283 to R290, R583), and the statements. -/

namespace Sys2Proof.Machine

open Sys2Proof

/-! ### The descriptor that a ring starts -/

theorem runDesc_some {ch : Chip} {n op : Nat} {d : Desc} (h : ch.nextDesc n op = some d) (f : Chip → Desc → Chip) :
    ch.runDesc n op f = f (ch.startDesc n d.idx) d := by
  rw [Chip.runDesc, h]

theorem runDesc_none {ch : Chip} {n op : Nat} (h : ch.nextDesc n op = none) (f : Chip → Desc → Chip) : ch.runDesc n op f = ch := by
  rw [Chip.runDesc, h]

theorem nextDesc_opcode {ch : Chip} {n op : Nat} {d : Desc} (h : ch.nextDesc n op = some d) : d.opcode = op := by
  rw [Chip.nextDesc] at h
  dsimp only at h
  split at h
  · split at h
    next is =>
      cases h
      exact is.1
    · cases h
  · cases h

/-! ### Short descriptors -/

theorem budget_legal {b : List Byte} (ok : descOk b [(10, 2), (16, 48)] = true) (low : 1 ≤ fieldAt b 12 4) (high : fieldAt b 12 4 ≤ 10000000) :
    (!descOk b [(10, 2), (16, 48)] || fieldAt b 12 4 == 0 || decide (maxBudget < fieldAt b 12 4)) = false := by
  rw [ok, beq_eq_false_iff_ne.mpr (by omega : fieldAt b 12 4 ≠ 0), decide_eq_false (show ¬ maxBudget < fieldAt b 12 4 from Nat.not_lt.mpr high)]
  rfl

theorem powerReq_started {s : State} {c : ChipId} {n : Fin 128} {d : Desc} (awake : Awake s c)
    (h : (s.chip c).nextDesc n.val opPowerReq = some d) : exec (.powerReq c n) s =
      if (!descOk d.bytes [(9, 55)] || fieldAt d.bytes 8 1 != 1) = true then
        .next (s.setChip c (((s.chip c).startDesc n.val d.idx).completeSt n.val d.idx stBadDesc))
      else if (s.chip c).pwr ≠ pwrRun then .next (s.setChip c (((s.chip c).startDesc n.val d.idx).completeSt n.val d.idx stBusy))
      else .next ((s.setChip c { (s.chip c).startDesc n.val d.idx with pw := some (n.val, d.idx) }).enterDoze c) := by
  show execPowerReq c n s = _
  rw [execPowerReq, inReset_false awake, if_neg Bool.false_ne_true, h]
  simp only [modChip_eq, chip_setChip_self, setChip_setChip]

section
variable {s : State} {c : ChipId} {n : Fin 128} {d : Desc}

theorem buf_started (awake : Awake s c) (h : (s.chip c).nextDesc n.val opBuf = some d) (free : (s.chip c).ringBlocked n.val = false)
    (fetches : (s.chip c).fetches = true)
    (idle : ∀ k, (s.chip c).bufKennel (fieldAt d.bytes 8 2) = some k → ((s.chip c).kennel k).fill = none) :
    exec (.buf c n) s = .next (s.setChip c (((s.chip c).startDesc n.val d.idx).bufStart n.val d)) := by
  show execBuf c n s = _
  rw [execBuf, onChip_awake awake, h]
  dsimp only
  rw [free, fetches]
  cases kennel : (s.chip c).bufKennel (fieldAt d.bytes 8 2) with
  | none => rfl
  | some k =>
    simp only [idle k kennel, Option.isSome_none, Bool.or_self, Bool.not_true, Bool.false_eq_true, if_false]

theorem only_idle {ch : Chip} {i k : Nat} (kennel : ch.bufKennel i = some k) (empty : (ch.kennel k).fill = none) :
    ∀ j, ch.bufKennel i = some j → (ch.kennel j).fill = none := fun j is => by
  rw [kennel] at is
  cases is
  exact empty

section
variable {ch : Chip} (ok : descOk d.bytes [(11, 1), (32, 32)] = true) (buf : fieldAt d.bytes 10 1 < 16) (len : fieldAt d.bytes 12 4 ≤ 0x1000000)
include ok buf len

theorem buf_legal : (!descOk d.bytes [(11, 1), (32, 32)] || decide (16 ≤ fieldAt d.bytes 10 1) ||
    decide (0x1000000 < fieldAt d.bytes 12 4)) = false := by
  rw [ok, decide_eq_false (Nat.not_le.mpr buf), decide_eq_false (Nat.not_lt.mpr len)]
  rfl

theorem bufStart_noStream (none : ch.bufKennel (fieldAt d.bytes 8 2) = none) :
    ch.bufStart n.val d = ch.completeId n.val d.idx stBadStream (fieldAt d.bytes 8 2) := by
  rw [Chip.bufStart]
  dsimp only
  rw [buf_legal ok buf len, if_neg Bool.false_ne_true, none]

theorem bufStart_stream {k : Nat} {y : Stream} (kennel : ch.bufKennel (fieldAt d.bytes 8 2) = some k)
    (stream : ch.stream (fieldAt d.bytes 8 2) = some y) : ch.bufStart n.val d =
      if fieldAt d.bytes 12 4 = 0 then ch.completeId n.val d.idx stEmpty (fieldAt d.bytes 8 2)
      else if (ch.slot y.graph).st = .empty then
        (ch.setKennel k { ch.kennel k with discont := true }).completeId n.val d.idx stNoFlow (fieldAt d.bytes 8 2)
      else
        (ch.setKennel k { ch.kennel k with fill := some ⟨n.val, d.idx, fieldAt d.bytes 16 8, fieldAt d.bytes 12 4, 0, 0,
          fieldAt d.bytes 24 8, fieldAt d.bytes 10 1, false⟩ }).kFill k := by
  rw [Chip.bufStart]
  dsimp only
  rw [buf_legal ok buf len, if_neg Bool.false_ne_true, kennel]
  dsimp only
  rw [stream]
  rfl

end

end

/-- Settles O27: each short descriptor by its fields (R146 to R157). -/
theorem shortDescriptors : Obligations.ShortDescriptors := by
  intro s c n d awake
  have act := fun f => onChip_awake awake f
  dsimp only
  refine ⟨fun h => ?_, fun h => ?_, fun h => ⟨fun ok f r on => ?_, fun bad => ?_⟩, fun h ok => ?_, fun h ok => ⟨fun y rec => ?_, fun none => ?_⟩,
    fun h ok => ⟨fun bad => ?_, fun low high => ⟨fun none => ?_, fun y some => ?_, fun z y some => ?_⟩⟩,
    fun h => ⟨fun bad => ?_, fun ok op busy => ?_, fun ok op run => ?_⟩,
    fun h free fetches ok buf len => ⟨fun none => ?_, fun k y kennel stream empty => ⟨fun zero => ?_, fun some noGraph => ?_, fun some graph => ?_⟩⟩⟩
  · show execNop c n s = _
    rw [execNop, act, runDesc_some h]
    rfl
  · show execNop c n s = _
    rw [execNop, act, runDesc_none h, setChip_self]
  · show execFlowBind c n s = _
    rw [execFlowBind, act, runDesc_some h]
    dsimp only
    rw [ok, decide_eq_true f, decide_eq_true r, on, if_pos (by rfl)]
    rfl
  · show execFlowBind c n s = _
    have not : (descOk d.bytes [(11, 53)] && decide (fieldAt d.bytes 8 2 < 256) && decide (fieldAt d.bytes 10 1 < 128) &&
        ((s.chip c).startDesc n.val d.idx).outEnabled (fieldAt d.bytes 10 1)) = false := by
      obtain h | h | h | h := bad
      · rw [h, Bool.false_and, Bool.false_and, Bool.false_and]
      · rw [decide_eq_false (Nat.not_lt.mpr h), Bool.and_false, Bool.false_and, Bool.false_and]
      · rw [decide_eq_false (Nat.not_lt.mpr h), Bool.and_false, Bool.false_and]
      · rw [h, Bool.and_false]
    rw [execFlowBind, act, runDesc_some h]
    dsimp only
    rw [not, if_neg Bool.false_ne_true]
    rfl
  · show execEpochSet c n s = _
    rw [execEpochSet, act, runDesc_some h, ok, if_pos rfl]
  · show execFaultAck c n s = _
    rw [execFaultAck, act, runDesc_some h, ok, if_pos rfl, rec]
    rfl
  · show execFaultAck c n s = _
    rw [execFaultAck, act, runDesc_some h, ok, if_pos rfl, none]
    rfl
  · show execStreamSet c n s = _
    have not : (!descOk d.bytes [(10, 2), (16, 48)] || fieldAt d.bytes 12 4 == 0 || decide (maxBudget < fieldAt d.bytes 12 4)) = true := by
      obtain zero | big := bad
      · rw [zero, beq_self_eq_true, Bool.or_true, Bool.true_or]
      · rw [decide_eq_true (show maxBudget < fieldAt d.bytes 12 4 from big), Bool.or_true]
    rw [execStreamSet, act, runDesc_some h]
    dsimp only
    rw [not, if_pos rfl]
    rfl
  · show execStreamSet c n s = _
    rw [execStreamSet, act, runDesc_some h]
    dsimp only
    rw [budget_legal ok low high, if_neg Bool.false_ne_true, none]
    rfl
  · show execStreamSet c n s = _
    rw [execStreamSet, act, runDesc_some h]
    dsimp only
    rw [budget_legal ok low high, if_neg Bool.false_ne_true, some]
    rfl
  · rw [Chip.budgetSet, if_pos (show d.opcode = opStreamSet ∧ stOk = stOk from ⟨nextDesc_opcode h, rfl⟩)]
    dsimp only
    rw [some]
  · have not : (!descOk d.bytes [(9, 55)] || fieldAt d.bytes 8 1 != 1) = true := by
      obtain bad | other := bad
      · rw [bad]; rfl
      · rw [bne_iff_ne.mpr other, Bool.or_true]
    rw [powerReq_started awake h, if_pos not]
    rfl
  · rw [powerReq_started awake h, if_neg (by rw [ok, op]; decide), if_pos busy]
    rfl
  · rw [powerReq_started awake h, if_neg (by rw [ok, op]; decide), if_neg (Classical.not_not.mpr run)]
  · have idle : ∀ k, (s.chip c).bufKennel (fieldAt d.bytes 8 2) = .some k → ((s.chip c).kennel k).fill = .none := fun k is => by
      rw [none] at is; cases is
    rw [buf_started awake h free fetches idle, bufStart_noStream (ch := (s.chip c).startDesc n.val d.idx) ok buf len none]
    rfl
  · rw [buf_started awake h free fetches (only_idle kennel empty), bufStart_stream (ch := (s.chip c).startDesc n.val d.idx) ok buf len kennel stream, if_pos zero]
    rfl
  · rw [buf_started awake h free fetches (only_idle kennel empty), bufStart_stream (ch := (s.chip c).startDesc n.val d.idx) ok buf len kennel stream,
      if_neg (Nat.pos_iff_ne_zero.mp some)]
    exact congrArg (fun x => Host.Outcome.next (s.setChip c x)) (if_pos noGraph)
  · rw [buf_started awake h free fetches (only_idle kennel empty), bufStart_stream (ch := (s.chip c).startDesc n.val d.idx) ok buf len kennel stream,
      if_neg (Nat.pos_iff_ne_zero.mp some)]
    exact congrArg (fun x => Host.Outcome.next (s.setChip c x)) (if_neg graph)

/-! ### Streams and graphs -/

/-- A stream that closes: what it has not yet read is cut, and its last frame is waited for. -/
def Stream.closed (y : Stream) (n idx : Nat) : Stream :=
  { y with live := y.live.filter (fun f => !y.done.contains f.frame), done := [], closing := some (n, idx) }

section
variable {s : State} {c : ChipId} {n : Fin 128} {d : Desc} (live : Live s c)
include live

theorem streamClose_bad (h : (s.chip c).nextDesc n.val opStreamClose = some d) (ok : descOk d.bytes [(10, 54)] = true)
    (bad : ∀ y, ((s.chip c).startDesc n.val d.idx).stream (fieldAt d.bytes 8 2) = some y → y.closing ≠ none) :
    exec (.streamClose c n) s =
      .next (s.setChip c (((s.chip c).startDesc n.val d.idx).completeId n.val d.idx stBadStream (fieldAt d.bytes 8 2))) := by
  show execStreamClose c n s = _
  rw [execStreamClose, onChip_awake live.1, runDesc_some h]
  dsimp only
  rw [ok, if_neg (by decide)]
  cases stream : ((s.chip c).startDesc n.val d.idx).stream (fieldAt d.bytes 8 2) with
  | none => rfl
  | some y =>
    dsimp only
    rw [if_pos (bad y stream)]

theorem streamClose_open (h : (s.chip c).nextDesc n.val opStreamClose = some d) (ok : descOk d.bytes [(10, 54)] = true) {y y' : Stream} {z : Chip}
    (stream : ((s.chip c).startDesc n.val d.idx).stream (fieldAt d.bytes 8 2) = some y) (opened : y.closing = none)
    (raw : (if y.kind = 2 then ((s.chip c).startDesc n.val d.idx).closeRaw y.source else (s.chip c).startDesc n.val d.idx) = z)
    (now : z.stream (fieldAt d.bytes 8 2) = some y') :
    exec (.streamClose c n) s = .next (s.setChip c
      (if y'.kind = 1 then (z.setStream (fieldAt d.bytes 8 2) (y'.closed n.val d.idx)).closeBits y'.unit
      else if (y'.closed n.val d.idx).live = [] then
        ((z.setStream (fieldAt d.bytes 8 2) (y'.closed n.val d.idx)).closeNow (fieldAt d.bytes 8 2)).gbkFreed
      else z.setStream (fieldAt d.bytes 8 2) (y'.closed n.val d.idx))) := by
  show execStreamClose c n s = _
  rw [execStreamClose, onChip_awake live.1, runDesc_some h]
  dsimp only
  rw [ok, if_neg (by decide), stream]
  dsimp only
  rw [if_neg (Classical.not_not.mpr opened), raw, now]
  rfl

end

section
variable {s : State} {c : ChipId} {n : Fin 128} {d : Desc} (live : Live s c)
include live

theorem graphLoad_legal (h : (s.chip c).nextDesc n.val opGraphLoad = some d) (ok : descOk d.bytes [(21, 43)] = true)
    (align : fieldAt d.bytes 8 8 % 64 = 0) (len : fieldAt d.bytes 16 4 ≤ 64 * 1048576) (k : fieldAt d.bytes 20 1 < 16) :
    exec (.graphLoad c n) s = .next (s.setChip c (
      if fieldAt d.bytes 16 4 = 0 then ((s.chip c).startDesc n.val d.idx).completeSt n.val d.idx stEmpty
      else if (((s.chip c).startDesc n.val d.idx).slot (fieldAt d.bytes 20 1)).st ≠ .empty then
        ((s.chip c).startDesc n.val d.idx).completeSt n.val d.idx stBusy
      else
        ((((s.chip c).startDesc n.val d.idx).setSlot (fieldAt d.bytes 20 1) { ((s.chip c).startDesc n.val d.idx).slot (fieldAt d.bytes 20 1) with
          st := .loading, load := some (n.val, d.idx) }).slotSync (fieldAt d.bytes 20 1)).hostRead (.image (fieldAt d.bytes 20 1))
            (fieldAt d.bytes 8 8) (fieldAt d.bytes 16 4))) := by
  show execGraphLoad c n s = _
  rw [execGraphLoad, onChip_awake live.1, runDesc_some h]
  dsimp only
  rw [ok, align, decide_eq_false (show ¬ 64 * MiB < fieldAt d.bytes 16 4 from Nat.not_lt.mpr len),
    decide_eq_false (show ¬ 15 < fieldAt d.bytes 20 1 by omega), if_neg (by decide)]

theorem graphUnload_legal (h : (s.chip c).nextDesc n.val opGraphUnload = some d) (ok : descOk d.bytes [(9, 55)] = true)
    (k : fieldAt d.bytes 8 1 < 16) :
    exec (.graphUnload c n) s = .next (s.setChip c (
      if (((s.chip c).startDesc n.val d.idx).slot (fieldAt d.bytes 8 1)).st = .empty then
        ((s.chip c).startDesc n.val d.idx).completeSt n.val d.idx stBadDesc
      else if (((s.chip c).startDesc n.val d.idx).slot (fieldAt d.bytes 8 1)).st = .loading ∨
          (((s.chip c).startDesc n.val d.idx).slot (fieldAt d.bytes 8 1)).unload.isSome = true then
        ((s.chip c).startDesc n.val d.idx).completeSt n.val d.idx stBusy
      else
        (((s.chip c).startDesc n.val d.idx).abortSlot (fieldAt d.bytes 8 1) true).setSlot (fieldAt d.bytes 8 1)
          { (((s.chip c).startDesc n.val d.idx).abortSlot (fieldAt d.bytes 8 1) true).slot (fieldAt d.bytes 8 1) with
            unload := some (n.val, d.idx) })) := by
  show execGraphUnload c n s = _
  rw [execGraphUnload, onChip_awake live.1, runDesc_some h]
  dsimp only
  simp only [ok, decide_eq_false (show ¬ 15 < fieldAt d.bytes 8 1 by omega), Bool.not_true, Bool.false_or, beq_iff_eq]

end

/-- A job descriptor whose block was read. -/
theorem jobSubmit_read {ch : Chip} {n : Nat} {d : Desc} {addr : Nat} {b : List Byte} (h : ch.nextDesc n opJobSubmit = some d)
    (head : jobHead d = .inr (addr, b.length)) (fetches : ch.fetches = true) {mine : List Byte → Bool} (is : mine b = true)
    (f : Chip → Desc → List Byte → Nat × Chip) :
    ch.jobSubmit n ⟨.none, false, b⟩ mine f =
      (f (((ch.startDesc n d.idx).hostRead (.job n) addr b.length).dropReads (.job n)) d b).2.complete n d.idx fun e =>
        { e with status := (f (((ch.startDesc n d.idx).hostRead (.job n) addr b.length).dropReads (.job n)) d b).1, nbytes := b.length,
                 poison := false } := by
  simp only [Chip.jobSubmit, h, head, padTo_self rfl, fetches, is, Bool.not_true, Bool.and_false, Bool.or_self, Bool.false_eq_true, if_false,
    readAer_ok, if_true]

/-- Settles O28: each long descriptor by its fields and the state of what it names (R148, R157, R190, R283 to R290, R583). -/
theorem longDescriptors : Obligations.LongDescriptors := by
  intro s c n d live
  have act := fun f => onChip_awake live.1 f
  have isl := fun f => onIsland_live live f
  dsimp only
  refine ⟨fun h => ⟨fun bad => ?_, fun legal busy => ?_, fun legal none => ⟨fun kind => ?_, fun kind => ?_, fun kind => ?_⟩⟩,
    fun h ok => ⟨fun none => ?_, fun y stream closing => ?_, fun y stream opened => ⟨fun kind => ?_, fun kind y' now kind' => ?_, fun kind => ?_⟩⟩,
    fun h ok align len k => ⟨fun zero => ?_, fun some busy => ?_, fun some free => ?_⟩,
    fun h ok k => ⟨fun empty => ?_, fun loading => ?_, fun full pending => ?_, fun full loaded free => ?_⟩,
    fun addr b h head fetches => ⟨fun mine len ok busy => ?_, fun mine len bad => ?_, fun mine len ok free => ?_, fun mine len j zero busy => ?_⟩⟩
  · show execStreamOpen c n s = _
    rw [execStreamOpen, act, runDesc_some h]
    dsimp only
    rw [bad, if_pos (by rfl)]
    rfl
  · show execStreamOpen c n s = _
    rw [execStreamOpen, act, runDesc_some h]
    dsimp only
    rw [legal, if_neg (by decide), if_pos busy]
    rfl
  · show execStreamOpen c n s = _
    rw [execStreamOpen, act, runDesc_some h]
    dsimp only
    rw [legal, if_neg (by decide), if_neg (by rw [none]; decide), if_pos kind]
  · show execStreamOpen c n s = _
    rw [execStreamOpen, act, runDesc_some h]
    dsimp only
    rw [legal, if_neg (by decide), if_neg (by rw [none]; decide), if_neg (by rw [kind]; decide), if_pos kind]
    rfl
  · show execStreamOpen c n s = _
    rw [execStreamOpen, act, runDesc_some h]
    dsimp only
    rw [legal, if_neg (by decide), if_neg (by rw [none]; decide), if_neg (by rw [kind]; decide), if_neg (by rw [kind]; decide)]
    rfl
  · exact streamClose_bad live h ok fun y is => by rw [none] at is; cases is
  · exact streamClose_bad live h ok fun z is => by rw [stream] at is; cases is; exact closing
  · rw [streamClose_open live h ok stream opened (if_neg (by rw [kind]; decide)) stream, if_pos kind]
    rfl
  · rw [streamClose_open live h ok stream opened (if_pos kind) now, if_neg (by rw [kind']; decide)]
    refine ⟨fun some => ?_, fun empty => ?_⟩
    · exact congrArg (fun x => Host.Outcome.next (s.setChip c x)) (if_neg some)
    · exact congrArg (fun x => Host.Outcome.next (s.setChip c x)) (if_pos empty)
  · rw [streamClose_open live h ok stream opened (if_neg (by rw [kind]; decide)) stream, if_neg (by rw [kind]; decide)]
    refine ⟨fun some => ?_, fun empty => ?_⟩
    · exact congrArg (fun x => Host.Outcome.next (s.setChip c x)) (if_neg some)
    · exact congrArg (fun x => Host.Outcome.next (s.setChip c x)) (if_pos empty)
  · rw [graphLoad_legal live h ok align len k, if_pos zero]
    rfl
  · rw [graphLoad_legal live h ok align len k, if_neg (Nat.pos_iff_ne_zero.mp some), if_pos busy]
    rfl
  · rw [graphLoad_legal live h ok align len k, if_neg (Nat.pos_iff_ne_zero.mp some), if_neg (Classical.not_not.mpr free)]
  · rw [graphUnload_legal live h ok k, if_pos empty]
    rfl
  · rw [graphUnload_legal live h ok k, if_neg (by rw [loading]; decide), if_pos (.inl loading)]
    rfl
  · rw [graphUnload_legal live h ok k, if_neg full, if_pos (.inr pending)]
    rfl
  · rw [graphUnload_legal live h ok k, if_neg full, if_neg (by rw [free]; exact fun h => h.elim loaded Bool.false_ne_true)]
  · show execAdaptStart c n _ s = _
    rw [execAdaptStart, isl, jobSubmit_read h head fetches (mine := fun b => fieldAt b 0 1 != 2) (bne_iff_ne.mpr mine)]
    dsimp only
    rw [if_neg (not_or.mpr ⟨Classical.not_not.mpr len, by rw [ok]; decide⟩), if_pos busy]
  · show execAdaptStart c n _ s = _
    rw [execAdaptStart, isl, jobSubmit_read h head fetches (mine := fun b => fieldAt b 0 1 != 2) (bne_iff_ne.mpr mine)]
    dsimp only
    rw [if_pos (.inr bad)]
  · show execAdaptStart c n _ s = _
    rw [execAdaptStart, isl, jobSubmit_read h head fetches (mine := fun b => fieldAt b 0 1 != 2) (bne_iff_ne.mpr mine)]
    dsimp only
    rw [if_neg (not_or.mpr ⟨Classical.not_not.mpr len, by rw [ok]; decide⟩), if_neg (by rw [free]; decide)]
    rfl
  · show execAdaptCancel c n _ s = _
    rw [execAdaptCancel, isl, jobSubmit_read h head fetches (mine := fun b => fieldAt b 0 1 == 2) (beq_iff_eq.mpr mine)]
    dsimp only
    rw [if_neg (not_or.mpr ⟨Classical.not_not.mpr len, not_or.mpr ⟨Nat.not_le.mpr j, not_or.mpr ⟨Classical.not_not.mpr zero, by rw [busy]; decide⟩⟩⟩)]

end Sys2Proof.Machine
end

section
/-! SUPPORT. The Kennels: the reader's operations, the payload, and the forced release (R157 to R167, R191, R194). -/

namespace Sys2Proof.Machine

open Sys2Proof

theorem kRead_bytes {ch : Chip} {k n : Nat} (pos : 0 < n) (ne : ch.kR k ≠ ch.kW k) :
    ch.kRead k n = ch.kDo k fun y =>
      (y.setKennel k (Kennel.endMark { ch.kennel k with
        waitRead := none
        lastRead := ch.kBytes k (ch.kR k) (min n ((ch.kEos k).elim (ch.kW k) (fun e => min (ch.kW k) e) - ch.kR k))
        readEnd := decide (ch.kEos k = some (ch.kR k + min n ((ch.kEos k).elim (ch.kW k) (fun e => min (ch.kW k) e) - ch.kR k))) }
          (ch.kR k + min n ((ch.kEos k).elim (ch.kW k) (fun e => min (ch.kW k) e) - ch.kR k)) (ch.kL k))).wr (F.KEN_RPOS_VALUE k)
        (ch.kR k + min n ((ch.kEos k).elim (ch.kW k) (fun e => min (ch.kW k) e) - ch.kR k)) := by
  rw [Chip.kRead]
  dsimp only
  rw [if_neg (Nat.pos_iff_ne_zero.mp pos), if_neg ne]
  have ends : ∀ x, (ch.kEos k == some x) = decide (ch.kEos k = some x) := fun x => by rw [Bool.eq_iff_iff, beq_iff_eq, decide_eq_true_eq]
  simp only [ends]
  cases ch.kEos k <;> rfl

section
variable {s : State} {c : ChipId} (live : Live s c) {k : Fin 64}
include live

theorem payloadReadComplete_fill {q : ReadReq} {rest : List ReadReq} {f : Fill} {res : ReadResult} (reads : (s.chip c).hif.reads = q :: rest)
    (use : q.use = .payload k.val) (fill : ((s.chip c).kennel k.val).fill = some f) (on : (s.chip c).halted = false) :
    exec (.payloadReadComplete c k res) s = .next (s.setChip c ((((s.chip c).setReads rest).readAer res).payload k.val f res)) := by
  have run : ((s.chip c).setReads rest).halted = false := (halted_congr (setReads_regs ..)).trans on
  show execPayloadReadComplete c k res s = _
  rw [execPayloadReadComplete, onChip_awake live.1, takeRead_head reads use, fill]
  dsimp only
  rw [run, if_neg Bool.false_ne_true]

end

/-- The chip after a forced release, before what it means for a session of a decode engine. -/
def Chip.forced (ch : Chip) (k : Nat) : Chip :=
  ch.kDo k fun c =>
    let x := c.kennel k
    ((c.setKennel k { x with mark := none }).setFlag (F.KEN_STAT_FORCE_SEEN k) true).kRelease k (c.kR k)

/-- The release goes up to R, which the note of the forced release leaves as it is. -/
theorem forced_eq (ch : Chip) (k : Nat) : (ch.kDo k fun y =>
    let z := (y.setKennel k { ch.kennel k with mark := none }).setFlag (F.KEN_STAT_FORCE_SEEN k) true
    z.kRelease k (z.kR k)) = ch.forced k := by
  have same : ((ch.setKennel k { ch.kennel k with mark := none }).setFlag (F.KEN_STAT_FORCE_SEEN k) true).kR k = ch.kR k := by
    refine rd_setFlag_ne _ _ _ _ ?_
    simp only [F.KEN_RPOS_VALUE, F.KEN_STAT_FORCE_SEEN]
    omega
  rw [Chip.kDo, Chip.forced, Chip.kDo]
  dsimp only
  rw [same]

theorem forced_if {ch : Chip} {k : Nat} (full : ch.flag (F.KEN_STAT_FULL_LIVE k) = true) (waits : (ch.kennel k).waitRead ≠ none)
    (at' : ch.kR k = ch.kW k) : (ch.flag (F.KEN_STAT_FULL_LIVE k) && (ch.kennel k).waitRead.isSome && ch.kR k == ch.kW k) = true := by
  rw [full, Option.isSome_iff_ne_none.mpr waits, at', beq_self_eq_true]
  rfl

section
variable {s : State} {c : ChipId} (live : Live s c) {k : Fin 64} (full : (s.chip c).flag (F.KEN_STAT_FULL_LIVE k.val) = true)
  (waits : ((s.chip c).kennel k.val).waitRead ≠ none) (at' : (s.chip c).kR k.val = (s.chip c).kW k.val)
include live full waits at'

theorem forcedRelease_noSession (idle : ((s.chip c).forced k.val).session k.val = none) :
    exec (.kennelForcedRelease c k) s = .next (s.setChip c ((s.chip c).forced k.val)) := by
  show execKennelForcedRelease c k s = _
  rw [Chip.forced] at idle ⊢
  rw [execKennelForcedRelease, onIsland_live live]
  dsimp only at idle ⊢
  rw [if_pos (forced_if full waits at'), idle]

/-- The unit of a session that outgrew its Kennel is noted, and its session resynchronises. -/
def outgrown (ch : Chip) (k : Nat) : Chip := ((ch.setFlag (F.DEC_ERR_OVERSIZE k) true).resync k true).auEnd k

theorem forcedRelease_noEngine (busy : ((s.chip c).forced k.val).session k.val ≠ none)
    (off : ((s.chip c).forced k.val).onEngine k.val = none) :
    exec (.kennelForcedRelease c k) s = .next (s.setChip c (outgrown ((s.chip c).forced k.val) k.val)) := by
  show execKennelForcedRelease c k s = _
  obtain ⟨x, session⟩ := Option.ne_none_iff_exists'.mp busy
  rw [Chip.forced] at session off ⊢
  rw [execKennelForcedRelease, onIsland_live live]
  dsimp only at session off ⊢
  rw [if_pos (forced_if full waits at'), session]
  dsimp only
  rw [off]
  rfl

theorem forcedRelease_engine (busy : ((s.chip c).forced k.val).session k.val ≠ none) {e : Nat} {a : CurAu}
    (on : ((s.chip c).forced k.val).onEngine k.val = some e) (unit : ((s.chip c).forced k.val).engine e = some a) :
    exec (.kennelForcedRelease c k) s = .next (s.setChip c (if a.scanned then (s.chip c).forced k.val
      else outgrown ((((s.chip c).forced k.val).setKennel k.val { ((s.chip c).forced k.val).kennel k.val with waitRead := none }).setEngine e none)
        k.val)) := by
  show execKennelForcedRelease c k s = _
  obtain ⟨x, session⟩ := Option.ne_none_iff_exists'.mp busy
  rw [Chip.forced] at session on unit ⊢
  rw [execKennelForcedRelease, onIsland_live live]
  dsimp only at session on unit ⊢
  rw [if_pos (forced_if full waits at'), session]
  dsimp only
  rw [on]
  dsimp only
  rw [unit, outgrown]
  dsimp only
  by_cases scanned : a.scanned = true
  · rw [if_pos scanned, if_pos scanned]
  · rw [if_neg scanned, if_neg scanned]

end

/-- Settles O29: the reader's operations on an open Kennel, the payload, and the forced release (R157 to R167, R191, R194). -/
theorem kennelOperations : Obligations.KennelOperations := by
  intro s c k n live
  have isl := fun f => onIsland_live live f
  dsimp only
  refine ⟨fun opened => ⟨fun zero => ?_, fun pos none => ?_, fun pos some => ?_, ?_, fun m len mark pos => ?_, fun none => ?_, ?_⟩,
    fun closed => ⟨?_, ?_, ?_, ?_⟩, fun q rest f res reads use fill on => payloadReadComplete_fill live reads use fill on,
    fun full waits at' => ?_⟩
  · show execKennelRead c k n s = _
    rw [execKennelRead, isl, if_pos opened, Chip.kRead, if_pos zero]
  · show execKennelRead c k n s = _
    rw [execKennelRead, isl, if_pos opened, Chip.kRead, if_neg (Nat.pos_iff_ne_zero.mp pos), if_pos none]
  · show execKennelRead c k n s = _
    rw [execKennelRead, isl, if_pos opened, kRead_bytes pos some]
  · show execKennelMark c k n s = _
    rw [execKennelMark, isl, if_pos opened, Chip.kMark, Chip.kDo, Chip.kDo]
  · show execKennelRewind c k s = _
    simp only [execKennelRewind, isl, opened, if_true, Chip.kRewind, mark, if_neg pos, Chip.kDo]
  · show execKennelRewind c k s = _
    rw [execKennelRewind, isl, if_pos opened, Chip.kRewind, none]
    dsimp only
    rw [setChip_self]
  · show execKennelRelease c k n s = _
    rw [execKennelRelease, isl, if_pos opened]
    rfl
  · show execKennelRead c k n s = _
    rw [execKennelRead, isl, if_neg (by rw [closed]; exact Bool.false_ne_true), setChip_self]
  · show execKennelMark c k n s = _
    rw [execKennelMark, isl, if_neg (by rw [closed]; exact Bool.false_ne_true), setChip_self]
  · show execKennelRewind c k s = _
    rw [execKennelRewind, isl, if_neg (by rw [closed]; exact Bool.false_ne_true), setChip_self]
  · show execKennelRelease c k n s = _
    rw [execKennelRelease, isl, if_neg (by rw [closed]; exact Bool.false_ne_true), setChip_self]
  · rw [forced_eq]
    refine ⟨forcedRelease_noSession live full waits at', forcedRelease_noEngine live full waits at', fun e a busy on unit => ?_⟩
    rw [forcedRelease_engine live full waits at' busy on unit]
    refine ⟨fun scanned => ?_, fun fresh => ?_⟩
    · rw [if_pos scanned]
    · rw [if_neg (by rw [fresh]; exact Bool.false_ne_true)]
      rfl

end Sys2Proof.Machine
end

section
/-! SUPPORT. Sensor ports: what each packet does (R171 to R176, R181, R183), and the statement. -/

namespace Sys2Proof.Machine

open Sys2Proof

/-! ### The enable of a port -/

theorem del_put {α : Type} (t : Tab α) (k : Nat) (v : α) : Tab.del (Tab.put t k v) k = Tab.del t k := by
  induction t with
  | nil => simp [Tab.put, Tab.del]
  | cons e t ih =>
    obtain ⟨k', v'⟩ := e
    rcases Nat.lt_trichotomy k k' with lt | rfl | gt
    · simp [Tab.put, Tab.del, lt]
    · simp [Tab.put, Tab.del]
    · simp [Tab.put, Tab.del, Nat.not_lt.mpr (Nat.le_of_lt gt), Nat.ne_of_gt gt, Nat.ne_of_lt gt, ih]

/-- A flag that is set and then cleared to its reset value 0 is the flag cleared. -/
theorem setFlag_clear (ch : Chip) (f : Field) (width : f.width = 1) (rst : f.rst = 0) : (ch.setFlag f true).setFlag f false = ch.setFlag f false := by
  simp only [Chip.setFlag, Chip.wr, width, rst, Tab.set]
  simp [del_put, bnat]

theorem csiEnable_open {s : State} {c : ChipId} (awake : Awake s c) (p : Fin 2) (unlocked : (s.chip c).locked = false) :
    exec (.csiEnable c p) s = .next (s.setChip c (((s.chip c).setFlag (F.CSI_CTL_ENABLE p.val) true).csiLanes p.val)) := by
  show execCsiEnable c p s = _
  rw [execCsiEnable, onChip_awake awake, if_neg (by rw [unlocked]; exact Bool.false_ne_true)]

theorem lanes_setFlag (ch : Chip) (p : Nat) (b : Bool) : (ch.setFlag (F.CSI_CTL_ENABLE p) b).rd (F.CSI_CTL_LANES p) = ch.rd (F.CSI_CTL_LANES p) := by
  refine rd_setFlag_ne _ _ _ _ ?_
  simp only [F.CSI_CTL_ENABLE, F.CSI_CTL_LANES]
  omega

theorem csiLanes_legal {ch : Chip} {p : Nat} (lanes : ch.rd (F.CSI_CTL_LANES p) = 1 ∨ ch.rd (F.CSI_CTL_LANES p) = 2 ∨ ch.rd (F.CSI_CTL_LANES p) = 4) :
    (ch.setFlag (F.CSI_CTL_ENABLE p) true).csiLanes p = ch.setFlag (F.CSI_CTL_ENABLE p) true := by
  rw [Chip.csiLanes, lanes_setFlag, if_pos (.inr lanes)]

theorem csiLanes_illegal {ch : Chip} {p : Nat} (n1 : ch.rd (F.CSI_CTL_LANES p) ≠ 1) (n2 : ch.rd (F.CSI_CTL_LANES p) ≠ 2)
    (n4 : ch.rd (F.CSI_CTL_LANES p) ≠ 4) : (ch.setFlag (F.CSI_CTL_ENABLE p) true).csiLanes p =
      (ch.setFlag (F.CSI_CTL_ENABLE p) false).setFlag (F.CSI_STAT_CFG_SEEN p) true := by
  have on : (ch.setFlag (F.CSI_CTL_ENABLE p) true).flag (F.CSI_CTL_ENABLE p) = true := flag_setFlag_self _ _ _ rfl
  rw [Chip.csiLanes, lanes_setFlag, on, if_neg (by rintro (h | h | h | h) <;> contradiction), setFlag_clear _ _ rfl rfl]

/-! ### Packets -/

section
variable {s : State} {c : ChipId} (live : Live s c) {p : Fin 2} {vc : Fin 4} (on : (s.chip c).csiOn p.val = true)
include live on

theorem frameStart_none (none : (s.chip c).csiStream p.val vc.val = none) :
    exec (.csiFrameStart c p vc) s = .next (s.setChip c ((s.chip c).csiIgn p.val)) := by
  show execCsiFrameStart c p vc s = _
  rw [execCsiFrameStart, onIsland_live live]
  dsimp only
  rw [on, if_neg (by decide), none]

theorem frameEnd_none (none : (s.chip c).csiStream p.val vc.val = none) :
    exec (.csiFrameEnd c p vc) s = .next (s.setChip c ((s.chip c).csiIgn p.val)) := by
  show execCsiFrameEnd c p vc s = _
  rw [execCsiFrameEnd, onIsland_live live]
  dsimp only
  rw [on, if_neg (by decide), none]

theorem pictureLine_none (none : (s.chip c).csiStream p.val vc.val = none ∨ (s.chip c).csiFrame p.val vc.val = none) (dt : BitVec 6) (ok : Bool)
    (xs : List Nat) : exec (.csiPictureLine c p vc dt ok xs) s = .next (s.setChip c ((s.chip c).csiIgn p.val)) := by
  show execCsiPictureLine c p vc dt ok xs s = _
  rw [execCsiPictureLine, onIsland_live live]
  dsimp only
  rw [on, if_neg (by decide)]
  obtain none | none := none
  · rw [none]
  · rw [none]
    cases (s.chip c).csiStream p.val vc.val <;> rfl

/-- Which other packets are silent, as the model computes it. -/
def silentPacket (d : Nat) : Bool := d == 2 || d == 3 || (decide (8 ≤ d) && decide (d ≤ 15)) || d == 0x12

theorem otherPacket (dt : BitVec 6) : exec (.csiOtherPacket c p vc dt) s = .next (s.setChip c
    (if silentPacket dt.toNat && ((s.chip c).csiStream p.val vc.val).isSome then s.chip c else (s.chip c).csiIgn p.val)) := by
  show execCsiOtherPacket c p vc dt s = _
  rw [execCsiOtherPacket, onIsland_live live]
  dsimp only
  rw [on, if_neg (by decide)]
  rfl

/-- A frame start on an open channel: the frame before it is truncated, and the new one takes a free buffer. -/
theorem frameStart_stream (open' : ((s.chip c).csiStream p.val vc.val).isSome = true) {sn : Nat} {x : Stream}
    (after : ((s.chip c).csiTruncate p.val vc.val).csiStream p.val vc.val = some (sn, x)) {y : Chip} {st : Stamp}
    (stamp : ((s.chip c).csiTruncate p.val vc.val).sofStamp p.val vc.val sn x = st)
    (lives : ((s.chip c).csiTruncate p.val vc.val).addLive st = y) :
    (∀ b, ((List.range 4).find? fun b => !(y.rawHeld sn).contains b) = some b →
      exec (.csiFrameStart c p vc) s = .next (s.setChip c (y.setCsi p.val vc.val (some ⟨sn, st, 0, [], [], false, b, false⟩)))) ∧
    (((List.range 4).find? fun b => !(y.rawHeld sn).contains b) = none → exec (.csiFrameStart c p vc) s =
      .next (s.setChip c ((y.dropFrame st 3 1 (rfeDomain p.val)).setCsi p.val vc.val (some ⟨sn, st, 0, [], [], false, 0, true⟩)))) := by
  obtain ⟨e, stream⟩ := Option.isSome_iff_exists.mp open'
  subst stamp lives
  refine ⟨fun b free => ?_, fun full => ?_⟩
  · show execCsiFrameStart c p vc s = _
    rw [execCsiFrameStart, onIsland_live live]
    dsimp only
    rw [on, if_neg (by decide), stream]
    dsimp only
    rw [after]
    dsimp only
    rw [free]
  · show execCsiFrameStart c p vc s = _
    rw [execCsiFrameStart, onIsland_live live]
    dsimp only
    rw [on, if_neg (by decide), stream]
    dsimp only
    rw [after]
    dsimp only
    rw [full]

section
variable {sn : Nat} {x : Stream} {f : CsiFrame} (stream : (s.chip c).csiStream p.val vc.val = some (sn, x))
  (frame : (s.chip c).csiFrame p.val vc.val = some f)
include stream frame

theorem pictureLine_frame (dt : BitVec 6) (ok : Bool) (xs : List Nat) :
    exec (.csiPictureLine c p vc dt ok xs) s = .next (s.setChip c (
      if dt.toNat ≠ (s.chip c).rd (F.RFE_CFG_DT p.val vc.val) then (s.chip c).csiIgn p.val
      else if f.gone then s.chip c
      else (s.chip c).csiLine p.val vc.val x f
        (some (xs.map fun v => v % 2 ^ (if dtBits dt.toNat = 0 then 8 else dtBits dt.toNat))) ok)) := by
  show execCsiPictureLine c p vc dt ok xs s = _
  rw [execCsiPictureLine, onIsland_live live]
  dsimp only
  rw [on, if_neg (by decide), stream, frame]

/-- The end of a frame that does not deliver a picture. -/
theorem frameEnd_noPicture (h : f.gone = true ∨ f.lines = [] ∨ f.width = 0 ∨
      (dtBits ((s.chip c).rd (F.RFE_CFG_DT p.val vc.val)) ≠ 0 ∧ f.lines.length % 2 = 1)) :
    exec (.csiFrameEnd c p vc) s = .next (s.setChip c (
      if f.gone then (s.chip c).setCsi p.val vc.val none
      else if f.lines = [] ∨ f.width = 0 then ((s.chip c).setCsi p.val vc.val none).frameGone f.stream f.stamp.frame
      else ((((s.chip c).setCsi p.val vc.val none).setFlag (F.CSI_STAT_DIM_SEEN p.val) true).csiReport p.val vc.val).frameGone f.stream
        f.stamp.frame)) := by
  show execCsiFrameEnd c p vc s = _
  rw [execCsiFrameEnd, onIsland_live live]
  dsimp only
  rw [on, if_neg (by decide), stream, frame]
  dsimp only
  by_cases gone : f.gone = true
  · rw [if_pos gone, if_pos gone]
  · rw [if_neg gone, if_neg gone]
    simp only [List.isEmpty_iff]
    by_cases none : f.lines = [] ∨ f.width = 0
    · rw [if_pos none, if_pos none]
    · rw [if_neg none, if_neg none]
      have odd := (h.resolve_left gone)
      rw [← or_assoc] at odd
      exact congrArg (fun x => Host.Outcome.next (s.setChip c x)) (if_pos (odd.resolve_left none))

/-- The end of a frame with a picture: checkpoint 3, or the picture is written and delivered. -/
theorem frameEnd_picture (alive : f.gone = false) (lines : f.lines ≠ []) (width : f.width ≠ 0)
    (even : dtBits ((s.chip c).rd (F.RFE_CFG_DT p.val vc.val)) = 0 ∨ f.lines.length % 2 = 0) {w : Stream}
    (stream' : ((s.chip c).setCsi p.val vc.val none).stream f.stream = some w) {st : Stamp}
    (stamp : { f.stamp with fflags := f.stamp.fflags ||| (if f.concealed then 2 ^ ffConcealed else 0) } = st) {z : Chip}
    (noted : ((s.chip c).setCsi p.val vc.val none).setStream f.stream
      { w with live := w.live.map fun (l : Stamp) => if l.frame = st.frame then st else l } = z) :
    exec (.csiFrameEnd c p vc) s = .next (s.setChip c (if st.stale z.now then z.dropFrame st 3 0 (rfeDomain p.val)
      else (z.rfeWrite p.val vc.val x { f with stamp := st }).1.deliver (z.rfeWrite p.val vc.val x { f with stamp := st }).2)) := by
  subst stamp noted
  have none : ¬ (f.lines.isEmpty = true ∨ f.width = 0) := not_or.mpr ⟨fun h => lines (List.isEmpty_iff.mp h), width⟩
  have odd : ¬ (dtBits (((s.chip c).setCsi p.val vc.val .none).rd (F.RFE_CFG_DT p.val vc.val)) ≠ 0 ∧ f.lines.length % 2 = 1) := fun h =>
    even.elim h.1 fun e => by omega
  show execCsiFrameEnd c p vc s = _
  rw [execCsiFrameEnd, onIsland_live live]
  dsimp only
  rw [on, if_neg (by decide), stream, frame]
  dsimp only
  rw [if_neg (by rw [alive]; exact Bool.false_ne_true), if_neg none, if_neg odd, stream']

theorem headerError_frame (alive : f.gone = false) : exec (.csiHeaderEccError c p (some vc)) s =
    .next (s.setChip c (((s.chip c).csiCrc p.val).csiLine p.val vc.val x f none false)) := by
  have media : ((s.chip c).csiCrc p.val).media = (s.chip c).media := count_media ..
  have stream' : ((s.chip c).csiCrc p.val).csiStream p.val vc.val = some (sn, x) := by rw [Chip.csiStream, media]; exact stream
  have frame' : ((s.chip c).csiCrc p.val).csiFrame p.val vc.val = some f := by rw [Chip.csiFrame, media]; exact frame
  show execCsiHeaderEccError c p (some vc) s = _
  rw [execCsiHeaderEccError, onIsland_live live]
  dsimp only
  rw [on, if_neg (by decide), stream', frame']
  dsimp only
  rw [if_neg (by rw [alive]; exact Bool.false_ne_true)]

end

end

theorem frameTimeout_frame {s : State} {c : ChipId} (live : Live s c) {p : Fin 2} {vc : Fin 4} {f : CsiFrame}
    (frame : (s.chip c).csiFrame p.val vc.val = some f) (timer : (s.chip c).rd (F.CSI_CTL_FRAME_TO p.val) ≠ 0) (alive : f.gone = false) :
    exec (.csiFrameTimeout c p vc) s =
      .next (s.setChip c ((((s.chip c).csiDiscard p.val vc.val f false).csiTrunc p.val).csiReport p.val vc.val)) := by
  show execCsiFrameTimeout c p vc s = _
  rw [execCsiFrameTimeout, onIsland_live live, if_neg timer, Chip.csiTruncate, frame]
  dsimp only
  rw [if_neg (by rw [alive]; exact Bool.false_ne_true)]

theorem silentPacket_iff (d : Nat) : silentPacket d = true ↔ d = 2 ∨ d = 3 ∨ (8 ≤ d ∧ d ≤ 15) ∨ d = 0x12 := by
  simp only [silentPacket, Bool.or_eq_true, Bool.and_eq_true, beq_iff_eq, decide_eq_true_eq, or_assoc]

/-- Settles O30: the enable, and each packet by the channel's stream and frame (R171 to R176, R181, R183). -/
theorem sensorPorts : Obligations.SensorPorts := by
  intro s c p vc live
  dsimp only
  refine ⟨fun unlocked => ⟨fun lanes => ?_, fun n1 n2 n4 => ?_⟩,
    fun on none => ⟨frameStart_none live on none, frameEnd_none live on none, fun dt ok xs => pictureLine_none live on (.inl none) dt ok xs,
      fun dt => ?_⟩,
    fun on open' sn x after => ⟨fun idle => ?_, frameStart_stream live on open' after rfl rfl⟩,
    fun on open' idle dt ok xs => pictureLine_none live on (.inr idle) dt ok xs, fun on open' dt => ⟨fun quiet => ?_, fun loud => ?_⟩,
    fun on sn x f stream frame => ⟨fun dt ok xs other => ?_, fun dt ok xs same alive => ?_, fun dt ok xs same gone => ?_, fun gone => ?_,
      fun alive empty => ?_, fun alive lines width odd => ?_, fun alive lines width even w stream' => ⟨fun stale => ?_, fun fresh => ?_⟩,
      headerError_frame live on stream frame, frameTimeout_frame live frame⟩, fun on => ?_⟩
  · rw [csiEnable_open live.1 p unlocked, csiLanes_legal lanes]
  · rw [csiEnable_open live.1 p unlocked, csiLanes_illegal n1 n2 n4]
  · rw [otherPacket live on, none, Option.isSome_none, Bool.and_false]
    rfl
  · rw [Chip.csiTruncate, idle]
  · rw [otherPacket live on, open', (silentPacket_iff _).mpr quiet, if_pos (by rfl), setChip_self]
  · rw [otherPacket live on, if_neg fun h => loud ((silentPacket_iff _).mp ((Bool.and_eq_true _ _).mp h).1)]
    rfl
  · rw [pictureLine_frame live on stream frame, if_pos other]
    rfl
  · rw [pictureLine_frame live on stream frame, if_neg (Classical.not_not.mpr same), if_neg (by rw [alive]; exact Bool.false_ne_true)]
  · rw [pictureLine_frame live on stream frame, if_neg (Classical.not_not.mpr same), if_pos gone, setChip_self]
  · rw [frameEnd_noPicture live on stream frame (.inl gone), if_pos gone]
  · rw [frameEnd_noPicture live on stream frame (.inr (by rw [← or_assoc]; exact .inl empty)),
      if_neg (by rw [alive]; exact Bool.false_ne_true), if_pos empty]
  · rw [frameEnd_noPicture live on stream frame (.inr (.inr (.inr odd))), if_neg (by rw [alive]; exact Bool.false_ne_true),
      if_neg (not_or.mpr ⟨lines, width⟩)]
  · rw [frameEnd_picture live on stream frame alive lines width even stream' rfl rfl]
    exact congrArg (fun x => Host.Outcome.next (s.setChip c x)) (if_pos stale)
  · rw [frameEnd_picture live on stream frame alive lines width even stream' rfl rfl]
    exact congrArg (fun x => Host.Outcome.next (s.setChip c x)) (if_neg fun h => Bool.false_ne_true (fresh.symm.trans h))
  · show execCsiHeaderEccError c p none s = _
    rw [execCsiHeaderEccError, onIsland_live live]
    dsimp only
    rw [on, if_neg (by decide)]
    rfl

end Sys2Proof.Machine
end

section
/-! SUPPORT. Decode engines: taking, checking and finishing an access unit (R198 to R207, R213), and the statement. -/

namespace Sys2Proof.Machine

open Sys2Proof

theorem awake_of_live {s : State} {c : ChipId} (live : Live s c) : (s.chip c).awake = true := by
  have power := live.2
  simp only [Chip.awake, Chip.pwr, pwrRun, pwrEntering, Bool.or_eq_true, beq_iff_eq]
  omega

/-! ### An engine takes an access unit -/

/-- The chip after the scan: what it skips is released in the sessions of the engine alone. -/
def Chip.decodeSkips (ch : Chip) (e : Nat) (aus : List AuHead) : Chip :=
  aus.foldl (fun (c : Chip) h => if (c.session h.sess.val).any fun x => x.engine == e then c.trustSkip h.sess.val else c) ch

section
variable {s : State} {c : ChipId} (live : Live s c) {e : Fin 6} (idle : (s.chip c).engine e.val = none)
include live idle

theorem decodeTakeAu_none {aus : List AuHead}
    (first : argMin (fun h => ((s.chip c).decodeSkips e.val aus).auDeadline h)
      (aus.filter fun h => ((s.chip c).decodeSkips e.val aus).auFits e.val h) = none) :
    exec (.decodeTakeAu c e aus) s = .next (s.setChip c ((s.chip c).decodeSkips e.val aus)) := by
  show execDecodeTakeAu c e aus s = _
  rw [execDecodeTakeAu, onIsland_live live, if_neg (by simp [idle, awake_of_live live])]
  dsimp only
  rw [foldl_congr_mem _ (fun (c : Chip) h => if (c.session h.sess.val).any fun x => x.engine == e.val then c.trustSkip h.sess.val else c)
    (s.chip c) fun y h _ => ?_]
  · rw [Chip.decodeSkips] at first ⊢
    rw [first]
  · cases y.session h.sess.val with
    | none => rfl
    | some x => by_cases mine : x.engine = e.val <;> simp [mine]

theorem decodeTakeAu_some {aus : List AuHead} {h : AuHead} {x : Session} {b : BufRec} {j : Nat}
    (first : argMin (fun h => ((s.chip c).decodeSkips e.val aus).auDeadline h)
      (aus.filter fun h => ((s.chip c).decodeSkips e.val aus).auFits e.val h) = some h)
    (sess : ((s.chip c).decodeSkips e.val aus).session h.sess.val = some x)
    (buf : ((s.chip c).decodeSkips e.val aus).auBuf x h = some (b, j)) :
    exec (.decodeTakeAu c e aus) s = .next (s.setChip c (((s.chip c).decodeSkips e.val aus).auTake e.val x h b j)) := by
  show execDecodeTakeAu c e aus s = _
  rw [execDecodeTakeAu, onIsland_live live, if_neg (by simp [idle, awake_of_live live])]
  dsimp only
  rw [foldl_congr_mem _ (fun (c : Chip) h => if (c.session h.sess.val).any fun x => x.engine == e.val then c.trustSkip h.sess.val else c)
    (s.chip c) fun y h _ => ?_]
  · rw [Chip.decodeSkips] at first sess buf ⊢
    rw [first]
    dsimp only
    rw [sess]
    dsimp only
    rw [buf]
  · cases y.session h.sess.val with
    | none => rfl
    | some x => by_cases mine : x.engine = e.val <;> simp [mine]

/-- An access unit of another engine's session is neither taken nor skipped. -/
theorem decodeTakeAu_foreign {h : AuHead} {x : Session} (sess : (s.chip c).session h.sess.val = some x) (foreign : x.engine ≠ e.val) :
    exec (.decodeTakeAu c e [h]) s = .next s := by
  have skips : (s.chip c).decodeSkips e.val [h] = s.chip c := by simp [Chip.decodeSkips, sess, foreign]
  have misfit : (s.chip c).auFits e.val h = false := by simp [Chip.auFits, sess, foreign]
  refine (decodeTakeAu_none live idle ?_).trans ?_
  · simp [skips, misfit, argMin]
  · rw [skips, setChip_self]

theorem decodeTakeAu_nil : exec (.decodeTakeAu c e []) s = .next s :=
  (decodeTakeAu_none live idle rfl).trans (by rw [Chip.decodeSkips, List.foldl_nil, setChip_self])

end

/-! ### Its checks and its end -/

section
variable {s : State} {c : ChipId} (live : Live s c) {e : Fin 6} {a : CurAu} {x : Session}
  (busy : (s.chip c).engine e.val = some a) (sess : (s.chip c).session a.sess = some x)
include live busy sess

theorem prescan_ends {rap : Bool} {sets : List ParamSet} {y : Chip} (fresh : a.scanned = false)
    (check : (s.chip c).auCheck e.val a x rap sets = .inl y) :
    exec (.decodePrescanComplete c e rap sets) s = .next (s.setChip c y) := by
  show execDecodePrescanComplete c e rap sets s = _
  rw [execDecodePrescanComplete, onIsland_live live]
  rw [busy]
  simp only [fresh, Bool.false_eq_true, if_false, sess, check]

theorem prescan_passes {rap : Bool} {sets : List ParamSet} {y : Chip} (fresh : a.scanned = false)
    (check : (s.chip c).auCheck e.val a x rap sets = .inr y) :
    exec (.decodePrescanComplete c e rap sets) s =
      .next (s.setChip c ((y.kRewind a.sess).setEngine e.val (some { a with scanned := true, rap := rap }))) := by
  show execDecodePrescanComplete c e rap sets s = _
  rw [execDecodePrescanComplete, onIsland_live live]
  rw [busy]
  simp only [fresh, Bool.false_eq_true, if_false, sess, check]

section
variable (scanned : a.scanned = true) {r : AuResult} (ok : (s.chip c).auResultOk a.sess r x = true)
include scanned ok

/-- An access unit larger than its bank is checked when its decode ends. -/
theorem auComplete_refused {y : Chip} (large : ¬ a.len ≤ (s.chip c).bankBytes) (check : (s.chip c).auCheck e.val a x (r.rap || x.codec == 4) r.sets = .inl y) :
    exec (.decodeAuComplete c e r) s = .next (s.setChip c y) := by
  show execDecodeAuComplete c e r s = _
  rw [execDecodeAuComplete, onIsland_live live]
  dsimp only
  rw [busy]
  dsimp only
  rw [sess]
  dsimp only
  rw [scanned, ok, if_neg (by decide), decide_eq_true (Nat.lt_of_not_le large), if_pos rfl, if_pos rfl, check]

/-- What the decode of an access unit comes to once its checks passed (R203 to R206). -/
def Chip.auOutcome (ch : Chip) (e : Nat) (a : CurAu) (x : Session) (r : AuResult) (rap : Bool) : Chip :=
  if r.features.any (fun f => !featureOk f) then (ch.setFlag (F.DEC_ERR_UNSUPPORTED a.sess) true).auStop e a
  else if r.rasl then (((ch.auRelease e a).outFirst a.sess r.out).eosFlush a).auEnd a.sess
  else if ch.rd F.DEC_CFG_CONCEAL_MAX * auBlocks r < 100 * r.concealed.length then
    (ch.setFlag (F.DEC_ERR_CONCEAL_MAX a.sess) true).auStop e a
  else ((ch.auPicture a x r rap).auRelease e a).auEnd a.sess

theorem auComplete_passed
    (passed : a.len ≤ (s.chip c).bankBytes ∨
      (s.chip c).auCheck e.val a x ((if a.len ≤ (s.chip c).bankBytes then a.rap else r.rap) || x.codec == 4) r.sets = .inr (s.chip c)) :
    exec (.decodeAuComplete c e r) s = .next (s.setChip c ((s.chip c).auOutcome e.val a x r
      ((if a.len ≤ (s.chip c).bankBytes then a.rap else r.rap) || x.codec == 4))) := by
  show execDecodeAuComplete c e r s = _
  rw [execDecodeAuComplete, onIsland_live live]
  dsimp only
  rw [busy]
  dsimp only
  rw [sess]
  dsimp only
  rw [scanned, ok, if_neg (by decide)]
  by_cases small : a.len ≤ (s.chip c).bankBytes
  · rw [decide_eq_false (Nat.not_lt.mpr small), if_neg Bool.false_ne_true, if_neg Bool.false_ne_true, if_pos small]
    rfl
  · rw [decide_eq_true (Nat.lt_of_not_le small), if_pos rfl, if_pos rfl, if_neg small]
    rw [if_neg small] at passed
    rw [passed.resolve_left small]
    rfl

end
end

/-- Settles O31: the engines take, check, finish and free as one lemma per case says. -/
theorem decodeEngines : Obligations.DecodeEngines := by
  unfold Obligations.DecodeEngines
  intro s c e live
  dsimp only
  refine ⟨fun idle aus => ⟨decodeTakeAu_none live idle, fun h x b j => decodeTakeAu_some live idle⟩,
    fun idle h x => decodeTakeAu_foreign live idle, decodeTakeAu_nil live, fun a x busy sess => ⟨fun fresh rap sets y => prescan_ends live busy sess fresh,
      fun fresh rap sets y => prescan_passes live busy sess fresh, fun scanned r ok => ⟨fun large y check => ?_, fun passed => ?_⟩⟩, ?_⟩
  · rw [if_neg large] at check
    exact auComplete_refused live busy sess scanned ok large check
  · rw [auComplete_passed live busy sess scanned ok passed]
    refine ⟨fun bad => ?_, fun good => ⟨fun rasl => ?_, fun rasl many => ?_, fun rasl few => ?_⟩⟩
    · rw [Chip.auOutcome, if_pos bad]
    · rw [Chip.auOutcome, good, if_neg Bool.false_ne_true, if_pos rasl]
    · rw [Chip.auOutcome, good, if_neg Bool.false_ne_true, rasl, if_neg Bool.false_ne_true, if_pos many]
    · rw [Chip.auOutcome, good, if_neg Bool.false_ne_true, rasl, if_neg Bool.false_ne_true, if_neg (Nat.not_lt.mpr few)]
  · intro k x y sess stream gone drained draining off unread
    show execSessionDrained c k s = _
    rw [execSessionDrained, onIsland_live live]
    dsimp only
    rw [sess]
    dsimp only
    rw [stream]
    simp only [gone, drained, draining, off, unread, and_self, if_true]

end Sys2Proof.Machine
end

section
/-! SUPPORT. Stores to a device word, and the jobs of Mosaic (R216 to R229). -/

namespace Sys2Proof.Machine

open Sys2Proof

/-! ### A store of a running firing to a device word (R218, R249, R391) -/

section
variable {ch : Chip} {p n w : Nat} {v : Qword} {go : Chip → Firing → Bool → Chip} {f : Firing}
  (firing : (ch.core p n).firing = some f)
include firing

theorem deviceCmd_runs (free : ch.mustWait (16 * p + n) (ch.core p n) = false) :
    ch.deviceCmd p n w v go = go ch f (ch.core p n).poison := by
  rw [Chip.deviceCmd]
  rw [firing]
  simp only [free, Bool.false_eq_true, if_false]

theorem deviceCmd_waits (waits : ch.mustWait (16 * p + n) (ch.core p n) = true) :
    ch.deviceCmd p n w v go =
      ch.setCore p n { ch.core p n with deferred := (ch.core p n).deferred ++ [.device w v (ch.core p n).poison] } := by
  rw [Chip.deviceCmd]
  dsimp only
  rw [firing]
  simp only [waits, if_true]

end

/-! ### The job queues -/

section
variable {s : State} {c : ChipId} (live : Live s c)
include live

theorem cropJob_recipe {j : MosJob} {rest : List MosJob} (idle : (s.chip c).mos.run = none) (pick : (s.chip c).mos.pickRecipe = true)
    (queue : (s.chip c).mos.recipes = j :: rest) :
    exec (.cropJob c) s =
      .next (s.setChip c (((s.chip c).setMos { (s.chip c).mos with recipes := rest, lastRecipe := true }).mosRun j)) := by
  show execCropJob c s = _
  rw [execCropJob, onIsland_live live]
  dsimp only
  rw [idle, if_neg (by decide), pick, if_pos rfl, queue]

theorem cropJob_codelet {j : MosJob} {rest : List MosJob} (idle : (s.chip c).mos.run = none) (pick : (s.chip c).mos.pickRecipe = false)
    (queue : (s.chip c).mos.codelet = j :: rest) :
    exec (.cropJob c) s =
      .next (s.setChip c (((s.chip c).setMos { (s.chip c).mos with codelet := rest, lastRecipe := false }).mosRun j)) := by
  show execCropJob c s = _
  rw [execCropJob, onIsland_live live]
  dsimp only
  rw [idle, if_neg (by decide), pick, if_neg Bool.false_ne_true, queue]

theorem cropJob_busy {r : MosRun} (busy : (s.chip c).mos.run = some r) : exec (.cropJob c) s = .next s := by
  show execCropJob c s = _
  rw [execCropJob, onIsland_live live]
  dsimp only
  rw [busy, Option.isSome_some, if_pos rfl, setChip_self]

theorem pictureHoldExpiry_held {stream : Fin 256} {frame : BitVec 32} {h : HeldPic}
    (held : ((s.chip c).mos.held.find? fun h => h.is stream.val frame.toNat) = some h) :
    exec (.pictureHoldExpiry c stream frame) s =
      .next (s.setChip c (if h.stamp.stale (s.chip c).now then (s.chip c).returnPic stream.val frame.toNat else s.chip c)) := by
  show execPictureHoldExpiry c stream frame s = _
  rw [execPictureHoldExpiry, onChip_awake live.1, held]

end

/-- Settles O32. -/
theorem mosaicJobs : Obligations.MosaicJobs := by
  unfold Obligations.MosaicJobs
  intro s c live
  have isl := fun f => onIsland_live live f
  dsimp only
  refine ⟨fun p n addr f firing => ⟨fun free => ?_, fun waits => ?_⟩, fun idle pick j rest => cropJob_recipe live idle pick,
    fun idle pick j rest => cropJob_codelet live idle pick, fun r busy => ⟨cropJob_busy live busy, fun going => ?_, fun aborted => ?_⟩,
    fun stream frame h held => ⟨fun stale => ?_, fun fresh => ?_⟩⟩
  · show execMosaicSubmit c p n addr s = _
    rw [execMosaicSubmit, isl, deviceCmd_runs firing free]
  · show execMosaicSubmit c p n addr s = _
    rw [execMosaicSubmit, isl, deviceCmd_waits firing waits]
  · show execMosaicJobComplete c s = _
    rw [execMosaicJobComplete, isl]
    simp only [busy, going, Bool.false_eq_true, if_false] <;> rfl
  · show execMosaicJobComplete c s = _
    rw [execMosaicJobComplete, isl]
    simp only [busy, aborted, if_true]
  · rw [pictureHoldExpiry_held live held, stale, if_pos rfl]
  · rw [pictureHoldExpiry_held live held, fresh, if_neg Bool.false_ne_true, setChip_self]

end Sys2Proof.Machine
end

section
/-! SUPPORT. Audio capture, blocks and features, and the Porch (R230 to R268). -/

namespace Sys2Proof.Machine

open Sys2Proof

section
variable {s : State} {c : ChipId} (live : Live s c)
include live

/-! ### Capture -/

theorem tdmFrame_off {lane : Fin 2} (n : Nat) (slots : List (BitVec 32))
    (off : (s.chip c).audioOn = false ∨ (s.chip c).flag (F.AUD_LANE_EN lane.val) = false) : exec (.tdmFrame c lane n slots) s = .next s := by
  show execTdmFrame c lane n slots s = _
  rw [execTdmFrame, onIsland_live live]
  dsimp only
  rw [if_pos (by rcases off with h | h <;> simp [h]), setChip_self]

/-! ### Feature jobs -/

theorem featureJob_head {j : FeatJob} {rest : List FeatJob} (idle : (s.chip c).aud.frun = none) (on : (s.chip c).audioOn = true)
    (unready : ((s.chip c).aud.streams.any fun x => (s.chip c).blockReady x) = false) (queue : (s.chip c).aud.fq = j :: rest) :
    exec (.featureJob c) s = .next (s.setChip c (((s.chip c).setAud { (s.chip c).aud with fq := rest }).featRun j)) := by
  show execFeatureJob c s = _
  rw [execFeatureJob, onIsland_live live]
  simp only [idle, on, unready, queue, Option.isSome_none, Bool.not_true, Bool.or_self, Bool.false_eq_true, if_false]

/-! ### A complete block -/

theorem blockComplete_none {stream : Fin 256} (gone : (s.chip c).audStarts.audOf stream.val = none) :
    exec (.audioBlockComplete c stream) s = .next (s.setChip c (s.chip c).audStarts) := by
  show execAudioBlockComplete c stream s = _
  rw [execAudioBlockComplete, onIsland_live live]
  dsimp only
  rw [gone]

end

/-- A random draw changes no media. -/
theorem media_drawnIf (p : Prop) [Decidable p] (ch : Chip) : (if p then ch.draw.2 else ch).media = ch.media := by
  split <;> rfl

/-- The stream of the block stays open while its record is written. -/
theorem stream_blockWritten {z : Chip} {k : Nat} {v : Stream} (a : AudStream) (r : BlockRun) (st : Stamp) (xs : List (List (BitVec 32)))
    (addr : Nat) : (((((z.setStream k v).blockRec a r st xs).2.store addr ((z.setStream k v).blockRec a r st xs).1 false)).stream k) = some v := by
  have put : (z.setStream k v).stream k = some v := find_put_self _ _ _
  rw [Chip.stream, store_media, Chip.blockRec]
  exact (congrArg (fun m : Media => Tab.find m.streams k) (media_drawnIf _ (z.setStream k v))).trans put

theorem now_setAud (ch : Chip) (a : Audio) : (ch.setAud a).now = ch.now :=
  rd_wr_ne _ _ _ _ (by decide)

/-! ### The Porch -/

section
variable {s : State} {c : ChipId} (live : Live s c)
include live

theorem porchSample_rest (m : PorchIn) (rest : (s.chip c).pos ≠ 0 ∨ (s.chip c).rd F.PRC_STAT_STATE = prcOff) :
    exec (.porchSample c m) s = .next s := by
  show execPorchSample c m s = _
  rw [execPorchSample, onChip_awake live.1]
  dsimp only
  rw [if_pos (rest.elim .inl fun h => .inr (.inl h)), setChip_self]

theorem porchFrame_rest (rest : (s.chip c).pos ≠ 0 ∨ (s.chip c).rd F.PRC_STAT_STATE = prcOff) :
    exec (.porchFrame c) s = .next s := by
  show execPorchFrame c s = _
  rw [execPorchFrame, onChip_awake live.1]
  dsimp only
  rw [if_pos rest, setChip_self]

end

/-- Settles O33. -/
theorem audioAndPorch : Obligations.AudioAndPorch := by
  unfold Obligations.AudioAndPorch
  intro s c live
  have act := fun f => onChip_awake live.1 f
  have isl := fun f => onIsland_live live f
  dsimp only
  refine ⟨fun lane n slots => tdmFrame_off live n slots, ?tdm, ?pdm, fun stream => blockComplete_none live, ?block, ?stale, ?release,
    ?submit, fun idle on unready j rest => featureJob_head live idle on unready, ?done,
    fun rest => ⟨porchFrame_rest live rest, fun m => porchSample_rest live m rest⟩, fun first on => ⟨?sample, ?frame⟩, ?handover⟩
  case tdm =>
    intro lane n slots on enabled due started
    show execTdmFrame c lane n slots s = _
    rw [execTdmFrame, isl]
    dsimp only
    rw [if_neg (by simp [on, enabled, due, started])]
  case pdm =>
    intro x on enabled due started
    refine ⟨fun settling => ?_, fun settled => ?_⟩
    · show execPdmSample c x s = _
      rw [execPdmSample, isl]
      dsimp only
      rw [if_neg (by simp [on, enabled, due, started]), if_pos settling]
    · show execPdmSample c x s = _
      rw [execPdmSample, isl]
      dsimp only
      rw [if_neg (by simp [on, enabled, due, started]), if_neg (Nat.not_lt.mpr settled)]
  case block =>
    intro stream x r rest here cur ready on
    have run : ∀ y, execAudioBlockComplete c stream s = y → exec (.audioBlockComplete c stream) s = y := fun y h => h
    refine ⟨fun unplaced => ?_, fun i v placed open' => ⟨fun late => ?_, fun fresh unarmed => ?_, fun fresh armed => ?_⟩⟩
    · refine run _ ?_
      rw [execAudioBlockComplete, isl]
      simp only [here, cur, ready, on, unplaced, Bool.not_true, Bool.or_self, Bool.false_eq_true, if_false]
    all_goals
      refine run _ ?_
      rw [execAudioBlockComplete, isl]
      simp only [here, cur, ready, on, placed, open', Bool.not_true, Bool.or_self, Bool.false_eq_true, if_false]
      have now : ∀ a v, (((s.chip c).audStarts.setAud a).setStream stream.val v).now = (s.chip c).audStarts.now :=
        fun a _ => now_setAud _ a
    · rw [now, if_pos late]
    · rw [now, if_neg (by rw [Bool.not_eq_true]; exact fresh), stream_blockWritten, Option.map_some, Option.getD_some, if_neg (by simpa using unarmed)]
      simp only [beq_eq_false_iff_ne.mpr unarmed]
    · rw [now, if_neg (by rw [Bool.not_eq_true]; exact fresh), stream_blockWritten, Option.map_some, Option.getD_some]
      simp only [beq_iff_eq.mpr armed, if_true]
  case stale =>
    intro stream slot x b st here slots held unread late
    show execAudioBlockStale c stream slot s = _
    rw [execAudioBlockStale, isl]
    simp only [here, slots, held, unread, late, Bool.not_false, Bool.and_self, if_true]
  case release =>
    intro addr
    show execAudioRelease c addr s = _
    rw [execAudioRelease, isl]
  case submit =>
    intro p n addr f firing
    refine ⟨fun free => ?_, fun waits => ?_⟩
    · show execFeatureSubmit c p n addr s = _
      rw [execFeatureSubmit, isl, deviceCmd_runs firing free]
    · show execFeatureSubmit c p n addr s = _
      rw [execFeatureSubmit, isl, deviceCmd_waits firing waits]
  case done =>
    intro j t busy
    show execFeatureJobComplete c s = _
    rw [execFeatureJobComplete, isl, busy]
  case sample =>
    intro x due newer
    show execPorchSample c x s = _
    rw [execPorchSample, act]
    dsimp only
    rw [if_neg (by simp [newer, first, on, due])]
  case frame =>
    have keep : ∀ v (g : Field), g.key ≠ F.PRC_STAT_SCORE.key → ((s.chip c).wr F.PRC_STAT_SCORE v).rd g = (s.chip c).rd g :=
      fun v g h => rd_wr_ne _ _ _ _ h
    have run : ∀ y, execPorchFrame c s = y → exec (.porchFrame c) s = y := fun y h => h
    refine ⟨fun low => run _ ?_, fun refract last => run _ ?_, fun refract more => run _ ?_, fun i r l h => run _ ?_,
      fun i r l h w => run _ ?_, fun i r l h w => run _ ?_⟩
    all_goals
      rw [execPorchFrame, act]
      dsimp only
      rw [if_neg (by simp only [not_or, Classical.not_not]; exact ⟨first, on⟩), keep _ F.PRC_TH_PRE_TH (by decide), keep _ F.PRC_TH_WAKE_TH (by decide),
        keep _ F.PRC_WAKE_WAKE_N (by decide)]
    · by_cases idle : (s.chip c).rd F.PRC_STAT_STATE = prcIdle
      · rw [if_pos idle]
      · obtain ⟨active, low⟩ := low.resolve_left idle
        rw [if_neg idle, if_neg active, if_pos low]
    · rw [if_neg (by rw [refract]; decide), if_pos refract, if_pos last]
    · rw [if_neg (by rw [refract]; decide), if_pos refract, if_neg (Nat.not_le.mpr more)]
    · rw [if_neg i, if_neg r, if_neg l, if_pos (Nat.lt_of_not_le h)]
    · rw [if_neg i, if_neg r, if_neg l, if_neg (Nat.not_lt.mpr h), if_pos w]
    · rw [if_neg i, if_neg r, if_neg l, if_neg (Nat.not_lt.mpr h), if_neg w]
  case handover =>
    intro w rest queue run
    refine ⟨fun off => ?_, fun enabled armed => ⟨fun full => ?_, fun at' place => ?_⟩, fun enabled present unarmed => ?_⟩
    · show execPorchHandover c s = _
      rw [execPorchHandover, act]
      simp only [queue, run, ne_eq, not_true_eq_false, if_false]
      rw [if_pos off]
    · show execPorchHandover c s = _
      rw [execPorchHandover, act]
      simp only [queue, run, ne_eq, not_true_eq_false, if_false, enabled, armed, Bool.true_eq_false, false_or, reduceCtorEq, full]
    · show execPorchHandover c s = _
      rw [execPorchHandover, act]
      simp only [queue, run, ne_eq, not_true_eq_false, if_false, enabled, armed, Bool.true_eq_false, false_or, reduceCtorEq, place]
    · show execPorchHandover c s = _
      rw [execPorchHandover, act]
      simp only [queue, run, ne_eq, not_true_eq_false, if_false, enabled, Bool.true_eq_false, false_or, present, unarmed,
        not_false_eq_true, if_true, setChip_self]

end Sys2Proof.Machine
end

section
/-! SUPPORT. The commands of an Inn (R277 to R291, R305, R309). -/

namespace Sys2Proof.Machine

open Sys2Proof

theorem findIdx_congr {α : Type} {f g : α → Bool} (same : ∀ a, f a = g a) (l : List α) : findIdx f l = findIdx g l := by
  rw [funext same]

theorem inn_setInn (ch : Chip) (p : Nat) (i : Inn) : (ch.setInn p i).inn p = i := get_put_self _ _ _ _

/-! ### What a granted token comes to -/

section
variable {ch : Chip} {p : Nat} {x : InnIn} {t : BitVec 128}

theorem grant_clean (fresh : x.back = 0) (check : checkToken x.tok = .clean t) : ch.grant p x = ch.grantTok p x t := by
  rw [Chip.grant, if_neg (Classical.not_not.mpr fresh), checked_clean _ _ _ _ check]

theorem grant_uncorrectable (fresh : x.back = 0) (check : checkToken x.tok = .uncorrectable) : ch.grant p x = (ch.checked p x.tok).2 := by
  rw [Chip.grant, if_neg (Classical.not_not.mpr fresh), checked_uncorrectable _ _ _ check]

theorem grantTok_orphan (free : ch.ctxSlot (Token.context t) = none) :
    ch.grantTok p x t = ch.count F.DFX_ORPHAN_COUNT F.DFX_STAT_ORPHAN_OVF 0 := by
  rw [Chip.grantTok, free]

theorem grantTok_nodeless {k : Nat} (owned : ch.ctxSlot (Token.context t) = some k) (gone : ch.nodeOf k (Token.node t) = none) :
    ch.grantTok p x t = ch.badToken p k t := by
  rw [Chip.grantTok, owned]
  dsimp only
  rw [gone]

theorem grantTok_away {k : Nat} {d : NodeDesc} (owned : ch.ctxSlot (Token.context t) = some k)
    (node : ch.nodeOf k (Token.node t) = some d) (away : ch.homeHere k (Token.node t) p = false) :
    ch.grantTok p x t = ch.badToken p k t := by
  rw [Chip.grantTok, owned]
  simp only [node, away, Bool.not_false, if_true]

theorem grantTok_taken {k : Nat} {d : NodeDesc} (owned : ch.ctxSlot (Token.context t) = some k)
    (node : ch.nodeOf k (Token.node t) = some d) (home : ch.homeHere k (Token.node t) p = true) (live : Token.kill t = false)
    (port : Token.port t < d.nports) (kind : Token.sticky t = (d.pkind (Token.port t) == pkSticky))
    (unjudged : (ch.inn p).verdictFor t = none) (certain : Token.provisional t = false) :
    ch.grantTok p x t = ch.take p k d t x.mc x.back := by
  rw [Chip.grantTok, owned]
  simp only [node, home, live, unjudged, certain, Bool.not_true, Bool.false_eq_true, if_false, false_and]
  rw [if_neg (by rw [not_or, Classical.not_not]; exact ⟨Nat.not_le.mpr port, kind⟩)]

end

/-! ### The commands -/

section
variable {s : State} {c : ChipId} {p : PackId} (live : Live s c)
include live

theorem innTokenGrant_none (empty : ((s.chip c).inn p.val).arbitrate = none) : exec (.innTokenGrant c p) s = .next s := by
  show execInnTokenGrant c p s = _
  rw [execInnTokenGrant, onIsland_live live]
  rw [empty, setChip_self]

theorem innTokenGrant_some {x : InnIn} {j : Inn} (first : ((s.chip c).inn p.val).arbitrate = some (x, j)) :
    exec (.innTokenGrant c p) s = .next (s.setChip c ((s.chip c).innDo p.val fun y => (y.setInn p.val j).grant p.val x)) := by
  show execInnTokenGrant c p s = _
  rw [execInnTokenGrant, onIsland_live live, first]

theorem reservePromote_none (settled : ∀ r ∈ ((s.chip c).inn p.val).rooms, r.reserve = false) : exec (.reservePromote c p) s = .next s := by
  show execReservePromote c p s = _
  rw [execReservePromote, onIsland_live live]
  dsimp only
  rw [findIdx_none _ _ fun r hr => by rw [settled r hr, Bool.false_and], setChip_self]

theorem reservePromote_some {n : Nat}
    (first : findIdx (fun r => r.reserve && ((s.chip c).ctxSlot (Token.context r.tok)).any fun k => (s.chip c).canLodge p.val k r.tok)
      ((s.chip c).inn p.val).rooms = some n) :
    exec (.reservePromote c p) s = .next (s.setChip c ((s.chip c).innDo p.val fun y => y.setInn p.val { (s.chip c).inn p.val with
      rooms := updAt ((s.chip c).inn p.val).rooms n fun r => { r with reserve := false } })) := by
  show execReservePromote c p s = _
  rw [execReservePromote, onIsland_live live]
  dsimp only
  rw [findIdx_congr (g := fun r => r.reserve && ((s.chip c).ctxSlot (Token.context r.tok)).any fun k => (s.chip c).canLodge p.val k r.tok)
    fun r => ?_, first]
  cases (s.chip c).ctxSlot (Token.context r.tok) <;> rfl

end

/-- Settles O34. -/
theorem innCommands : Obligations.InnCommands := by
  unfold Obligations.InnCommands
  intro s c p live
  have act := fun f => onChip_awake live.1 f
  have isl := fun f => onIsland_live live f
  dsimp only
  refine ⟨innTokenGrant_none live, fun x j => innTokenGrant_some live, fun x j first fresh => ⟨fun t check => ⟨fun free => ?_,
    fun k owned gone => ?_, fun k d owned node => ⟨fun away => ?_, fun home alive port kind unjudged certain => ?_⟩⟩, fun check => ?_⟩,
    fun x rest pick => ?verdict, fun all => ?noverdict, reservePromote_none live, fun n => reservePromote_some live, ?dispatch, ?pop,
    fun empty => ?_, fun slot loop ctx rest queue => ?_⟩
  · rw [innTokenGrant_some live first, Chip.innDo, grant_clean fresh check,
      grantTok_orphan (ch := (s.chip c).setInn p.val j) free]
  · rw [innTokenGrant_some live first, Chip.innDo, grant_clean fresh check,
      grantTok_nodeless (ch := (s.chip c).setInn p.val j) owned gone]
  · rw [innTokenGrant_some live first, Chip.innDo, grant_clean fresh check,
      grantTok_away (ch := (s.chip c).setInn p.val j) owned node away]
  · rw [innTokenGrant_some live first, Chip.innDo, grant_clean fresh check,
      grantTok_taken (ch := (s.chip c).setInn p.val j) owned node home alive port kind (by rw [inn_setInn]; exact unjudged) certain, fresh]
  · rw [innTokenGrant_some live first, Chip.innDo, grant_uncorrectable fresh check]
  case verdict =>
    show execVerdict c p s = _
    rw [execVerdict, isl]
    simp only [pick]
    rfl
  case noverdict =>
    show execVerdict c p s = _
    rw [execVerdict, isl]
    simp only [pickFirst_none _ _ all, setChip_self]
  case dispatch =>
    show execDispatchFiring c p s = _
    rw [execDispatchFiring, isl]
    rfl
  case pop =>
    show execInnDupPop c p s = _
    rw [execInnDupPop, act, whenPowered_runs live.2, Chip.dupPop, Chip.innDo]
    simp only [List.drop_one]
  · show execLoopCloseNotice c p s = _
    rw [execLoopCloseNotice, isl]
    simp only [empty, setChip_self]
  · show execLoopCloseNotice c p s = _
    rw [execLoopCloseNotice, isl]
    simp only [queue]
    rfl

end Sys2Proof.Machine
end

section
/-! SUPPORT. Spills, recalls, the detector and held verdicts (R302 to R316, R326, R336). -/

namespace Sys2Proof.Machine

open Sys2Proof

section
variable {s : State} {c : ChipId} (live : Live s c)
include live

theorem lingerScan_off (off : (s.chip c).rd F.DFX_DL_CTL_LINGER_MS = 0) : exec (.lingerScan c) s = .next s := by
  show execLingerScan c s = _
  rw [execLingerScan, onIsland_live live]
  dsimp only
  rw [if_pos off, setChip_self]

theorem backgroundRecall_none {p : PackId} (none : (s.chip c).backTok p.val = .none) : exec (.annexBackgroundRecall c p) s = .next s := by
  show execAnnexBackgroundRecall c p s = _
  rw [execAnnexBackgroundRecall, onIsland_live live, none]
  dsimp only
  rw [ite_self, setChip_self]

theorem deadlockDetect_rest {k : Fin 16} (rest : ((s.chip c).blockedWork k.val && decide (((s.chip c).slot k.val).lastFiring + 50000 ≤ (s.chip c).now)) = false) :
    exec (.deadlockDetect c k) s = .next s := by
  show execDeadlockDetect c k s = _
  rw [execDeadlockDetect, onIsland_live live]
  dsimp only
  rw [rest, if_neg Bool.false_ne_true, setChip_self]

theorem deadlockAbort_rest {k : Fin 16} (rest : ¬ ((s.chip c).rd F.DFX_DL_CTL_ABORT_MS ≠ 0 ∧
    (s.chip c).rd F.DFX_DL_CTL_ABORT_MS * 100 ≤ ((s.chip c).slot k.val).quiet ∧ (s.chip c).armed k.val = true)) :
    exec (.deadlockAbort c k) s = .next s := by
  show execDeadlockAbort c k s = _
  rw [execDeadlockAbort, onChip_awake live.1]
  dsimp only
  rw [if_neg rest, setChip_self]

end

theorem blockedWork_unarmed {ch : Chip} {k : Nat} (h : ch.armed k = false) : ch.blockedWork k = false := by
  rw [Chip.blockedWork, h, Bool.false_and]

theorem nextInterval_unarmed {ch : Chip} {k : Nat} (h : ch.armed k = false) : ch.nextInterval k = ch := by
  have idle : (ch.slot k).st ≠ .armed := beq_eq_false_iff_ne.mp h
  rw [Chip.nextInterval]
  exact if_neg idle

/-! ### The linger scan of a pack (R316) -/

/-- The report of a token that waited too long. -/
def Chip.lingerReport (q : Nat) (x : Chip) (r : Room) : Chip :=
  (((x.wr F.DFX_LINGER_LAST_TOKEN r.tok.toNat).count F.DFX_LINGER_COUNT F.DFX_DL_STAT_OVF 1).setFlag F.DFX_DL_STAT_LINGER_SEEN true).raise 11
    (source (18 * q + 17) ((x.ctxSlot (Token.context r.tok)).elim 0 slotQual)) (r.tok.toNat / 2 ^ 64 + r.tok.toNat % 2 ^ 64 * 2 ^ 64)

/-- The rooms that `old` names are freed and reported. -/
def Chip.lingerDrop (x : Chip) (q : Nat) (old : Room → Bool) : Chip :=
  x.innDo q fun y => ((x.inn q).rooms.filter old).foldl (Chip.lingerReport q)
    (y.setInn q { x.inn q with rooms := (x.inn q).rooms.filter fun r => !old r })

theorem filter_never {α : Type} (l : List α) : l.filter (fun _ => false) = [] :=
  List.filter_eq_nil_iff.mpr fun _ _ => Bool.false_ne_true

theorem lingerStep_congr {rooms : List Room} {x : Chip} {f g : Room → Bool} {act : (Room → Bool) → Chip} (same : ∀ r, f r = g r) :
    (if (rooms.filter f).isEmpty then x else act f) = if rooms.filter g = [] then x else act g := by
  rw [funext same]
  exact ite_iff_congr List.isEmpty_iff rfl rfl

/-- Settles O35. -/
theorem annexAndDetector : Obligations.AnnexAndDetector := by
  unfold Obligations.AnnexAndDetector
  intro s c p k live
  have act := fun f => onChip_awake live.1 f
  have isl := fun f => onIsland_live live f
  dsimp only
  have exchange : ∀ sent : Chip, sent = ((List.range 4).filter fun d => d != (s.chip c).pos.val && !((List.range 16).filter fun n =>
      (s.chip c).armed n && ((s.chip c).graphOf n).any fun g => bit g.chips d).isEmpty).foldl (fun (x : Chip) d =>
        x.sendFlit d 3 3 (slotMsg 3 0 0 0 0
          (((List.range 16).filter fun n => (s.chip c).armed n && ((s.chip c).graphOf n).any fun g => bit g.chips d).foldl
            (fun a n => if ((s.chip c).ownBits n).1 then orBit a n else a) 0)
          (((List.range 16).filter fun n => (s.chip c).armed n && ((s.chip c).graphOf n).any fun g => bit g.chips d).foldl
            (fun a n => if ((s.chip c).ownBits n).2 then orBit a n else a) 0))) (s.chip c) →
      exec (.activityExchange c) s = .next (s.setChip c ((List.range 16).foldl (fun (x : Chip) n => x.nextInterval n) sent)) := by
    rintro sent rfl
    show execActivityExchange c s = _
    rw [execActivityExchange, act]
    have named : ∀ (o : Option Graph) d, (o.elim false fun g => bit g.chips d) = o.any fun g => bit g.chips d :=
      fun o d => by cases o <;> rfl
    simp only [named]
  refine ⟨?resume, ⟨fun gone => ?_, fun d g found => ?_⟩, fun high => ?_, fun e low found => ?_, backgroundRecall_none live,
    fun blocked due => ?_, fun early => deadlockDetect_rest live ?_, fun idle => deadlockDetect_rest live ?_, lingerScan_off live,
    fun on => ?linger, ?hold, fun awake => ?_, fun entering => ?_, fun idle => ?_, exchange _ rfl, fun on quiet armed => ?_,
    fun off => deadlockAbort_rest live fun h => h.1 off, fun early => deadlockAbort_rest live fun h => absurd h.2.1 (Nat.not_le.mpr early),
    fun idle => deadlockAbort_rest live fun h => absurd (h.2.2.symm.trans idle) (by decide)⟩
  case resume =>
    show execAnnexSpillResume c p s = _
    rw [execAnnexSpillResume, isl]
    rfl
  · show execAnnexTargetedRecall c p s = _
    rw [execAnnexTargetedRecall, isl]
    simp only [gone, setChip_self]
  · show execAnnexTargetedRecall c p s = _
    rw [execAnnexTargetedRecall, isl]
    simp only [found]
    rfl
  · show execAnnexBackgroundRecall c p s = _
    rw [execAnnexBackgroundRecall, isl, if_neg (Nat.not_lt.mpr high), setChip_self]
  · show execAnnexBackgroundRecall c p s = _
    rw [execAnnexBackgroundRecall, isl, if_pos low, found]
    rfl
  · show execDeadlockDetect c k s = _
    rw [execDeadlockDetect, isl]
    dsimp only
    rw [blocked, decide_eq_true due, Bool.and_self, if_pos rfl]
  · rw [decide_eq_false (Nat.not_le.mpr early), Bool.and_false]
  · rw [blockedWork_unarmed idle, Bool.false_and]
  case linger =>
    show execLingerScan c s = _
    rw [execLingerScan, isl]
    dsimp only
    rw [if_neg on]
    refine congrArg (fun x => Host.Outcome.next (s.setChip c x)) (foldl_congr_mem _ _ _ fun x q _ => ?_)
    refine lingerStep_congr (g := fun r => !Token.sticky r.tok && decide (r.since + (s.chip c).rd F.DFX_DL_CTL_LINGER_MS * 1000000 < x.now) &&
      (x.ctxSlot (Token.context r.tok)).all fun k => x.armed k) (act := x.lingerDrop q) fun r => ?_
    cases x.ctxSlot (Token.context r.tok) <;> rfl
  case hold =>
    show execVerdictHoldExpiry c p s = _
    rw [execVerdictHoldExpiry, isl]
  · show execSpeculationDozeKill c s = _
    rw [execSpeculationDozeKill, isl, if_neg awake, setChip_self]
  · show execSpeculationDozeKill c s = _
    rw [execSpeculationDozeKill, isl, if_pos entering]
  · rw [exchange (s.chip c) ?_]
    · rw [foldl_same _ _ _ fun n hn => nextInterval_unarmed (idle n (List.mem_range.mp hn)), setChip_self]
    · have none : ∀ d, ((List.range 16).filter fun n => (s.chip c).armed n && ((s.chip c).graphOf n).any fun g => bit g.chips d) = [] :=
        fun d => List.filter_eq_nil_iff.mpr fun n hn => by rw [idle n (List.mem_range.mp hn), Bool.false_and]; exact Bool.false_ne_true
      simp only [none, List.isEmpty_nil, Bool.not_true, Bool.and_false, filter_never, List.foldl_nil]
  · show execDeadlockAbort c k s = _
    rw [execDeadlockAbort, act]
    dsimp only
    rw [if_pos ⟨on, quiet, armed⟩]

end Sys2Proof.Machine
end

section
/-! SUPPORT. Graph slots: images, aborts and the messages of the other chips (R275, R298, R315). -/

namespace Sys2Proof.Machine

open Sys2Proof

/-! ### A flit that arrives -/

section
variable {s : State} {c : ChipId} (awake : Awake s c) {l : Fin 2} {h : FlitHdr} {pl : List Byte} {vc kind : Nat} {y : Chip}
  (act : Chip → List Byte → Chip)
include awake

theorem onFlit_here {msg : List Byte} (here : (s.chip c).arrive l.val h pl vc kind = (some msg, y)) :
    onFlit s c l h pl vc kind act = .next (s.setChip c (act y msg)) := by
  rw [onFlit, onChip_awake awake, here]

theorem onFlit_passes (passes : (s.chip c).arrive l.val h pl vc kind = (none, y)) :
    onFlit s c l h pl vc kind act = .next (s.setChip c y) := by
  rw [onFlit, onChip_awake awake, passes]

end

/-! ### An image that was read -/

section
variable {ch y : Chip} {k n i : Nat} {data : List Byte} {ep : Bool} (read : ch.takeRead (.image k) = some y)
  (load : (ch.slot k).load = some (n, i))
include read load

theorem imageRead_good {g : Graph} (good : (y.readAer ⟨.none, ep, data⟩).checkImage data = .inr g) :
    ch.imageRead k ⟨.none, ep, data⟩ = ((((y.readAer ⟨.none, ep, data⟩).install k g data).complete n i fun d =>
      { d with status := stOk, nbytes := data.length, detail := 0, poison := ep }).tryArm k) := by
  simp only [Chip.imageRead, read, load, good, ne_eq, not_true_eq_false, if_false]

theorem imageRead_failed {fail : ReadFail} (failed : fail ≠ .none) :
    ch.imageRead k ⟨fail, ep, data⟩ = ((y.readAer ⟨fail, ep, data⟩).slotEmpty k).complete n i fun d =>
      { d with status := stHostReadErr, nbytes := data.length, detail := 0, poison := ep } := by
  simp only [Chip.imageRead, read, load, failed, ne_eq, not_false_eq_true, if_true]

end

/-! ### The end of an abort -/

/-- The tensor engines that the slot held are free again. -/
def Chip.tensorsFreed (ch : Chip) (k : Nat) : Chip :=
  (List.range 12).foldl (fun (x : Chip) p =>
    if x.flag (F.TEN_STAT_HELD p) && x.rd (F.TEN_STAT_SLOT p) == k then (x.setFlag (F.TEN_STAT_HELD p) false).wr (F.TEN_STAT_SLOT p) 0
    else x) ch

theorem tensorsFreed_none {ch : Chip} {k : Nat} (none : ∀ p < 12, ch.flag (F.TEN_STAT_HELD p) = false) : ch.tensorsFreed k = ch :=
  foldl_same _ _ _ fun p hp => by rw [none p (List.mem_range.mp hp), Bool.false_and, if_neg Bool.false_ne_true]

section
variable {s : State} {c : ChipId} (awake : Awake s c) {k : Fin 16}
include awake

theorem abortComplete_rest (rest : ((s.chip c).slot k.val).st ≠ .aborting) : exec (.graphAbortComplete c k) s = .next s := by
  show execGraphAbortComplete c k s = _
  rw [execGraphAbortComplete, onChip_awake awake]
  dsimp only
  rw [if_neg rest, setChip_self]

variable (aborting : ((s.chip c).slot k.val).st = .aborting)
include aborting

theorem abortComplete_plain (plain : ((s.chip c).slot k.val).unload = none) :
    exec (.graphAbortComplete c k) s = .next (s.setChip c (((s.chip c).tensorsFreed k.val).slotEmpty k.val)) := by
  show execGraphAbortComplete c k s = _
  rw [execGraphAbortComplete, onChip_awake awake]
  dsimp only
  rw [if_pos aborting, plain]
  rfl

theorem abortComplete_unload {n i : Nat} (unload : ((s.chip c).slot k.val).unload = some (n, i)) :
    exec (.graphAbortComplete c k) s =
      .next (s.setChip c ((((s.chip c).tensorsFreed k.val).slotEmpty k.val).completeSt n i stOk)) := by
  show execGraphAbortComplete c k s = _
  rw [execGraphAbortComplete, onChip_awake awake]
  dsimp only
  rw [if_pos aborting, unload]
  rfl

end

/-- Settles O36. -/
theorem graphSlots : Obligations.GraphSlots := by
  unfold Obligations.GraphSlots
  intro s c k awake
  have act := fun f => onChip_awake awake f
  dsimp only
  refine ⟨fun y n i data ep read load => ⟨fun g good => ?_, fun node bad => ?_, fun fail failed => ?_⟩, abortComplete_rest awake,
    fun aborting => ⟨tensorsFreed_none, abortComplete_plain awake aborting, fun n i => abortComplete_unload awake aborting⟩,
    fun l h pl msg y here => ⟨fun code legal => ?_, fun code legal => ?_, fun code => ?_, fun other => ?_, fun other => ?_, fun other => ?_⟩,
    fun l h pl y passes => ⟨onFlit_passes awake _ passes, onFlit_passes awake _ passes, onFlit_passes awake _ passes⟩⟩
  · show execGraphImageReadComplete c k _ s = _
    rw [execGraphImageReadComplete, act, imageRead_good read load good]
  · show execGraphImageReadComplete c k _ s = _
    rw [execGraphImageReadComplete, act]
    simp only [Chip.imageRead, read, load, bad, ne_eq, not_true_eq_false, if_false]
  · show execGraphImageReadComplete c k _ s = _
    rw [execGraphImageReadComplete, act, imageRead_failed read load failed]
  · show execSlotAnnounce c l h pl s = _
    rw [execSlotAnnounce, onFlit_here awake _ here, if_pos ⟨code, legal⟩]
    cases h.hop <;> rfl
  · show execSlotAbort c l h pl s = _
    rw [execSlotAbort, onFlit_here awake _ here, if_pos ⟨code, legal⟩]
  · show execSlotActivity c l h pl s = _
    rw [execSlotActivity, onFlit_here awake _ here, if_pos code]
    refine congrArg (fun x => Host.Outcome.next (s.setChip c x)) (foldl_congr_mem _ _ _ fun x n _ => ?_)
    dsimp only
    refine ite_iff_congr ?_ rfl rfl
    cases (x.slot n).graph <;> simp
  · show execSlotAnnounce c l h pl s = _
    rw [execSlotAnnounce, onFlit_here awake _ here, if_neg fun h => other h.1]
  · show execSlotAbort c l h pl s = _
    rw [execSlotAbort, onFlit_here awake _ here, if_neg fun h => other h.1]
  · show execSlotActivity c l h pl s = _
    rw [execSlotActivity, onFlit_here awake _ here, if_neg other]

/-! ### The Guestbook (R318 to R323, R492 to R494) -/

section
variable {s : State} {c : ChipId} (live : Live s c)
include live

theorem guestbookDeadline_rest {f : Fin 256}
    (rest : (s.chip c).flowMode f.val = modePass ∨ ((s.chip c).flow f.val).headSet = false ∨ (s.chip c).headDue f.val = false) :
    exec (.guestbookDeadline c f) s = .next s := by
  show execGuestbookDeadline c f s = _
  rw [execGuestbookDeadline, onIsland_live live]
  rw [if_neg ?_, setChip_self]
  rintro ⟨mode, set, due, -⟩
  rcases rest with h | h | h
  · exact mode h
  · exact absurd (set.symm.trans h) (by decide)
  · exact absurd (due.symm.trans h) (by decide)

theorem healthSample_rest (rest : (s.chip c).rd F.GBK_TCFG_HEALTH_MS = 0 ∨ (s.chip c).pwr ≠ pwrRun ∨
    (s.chip c).now % ((s.chip c).rd F.GBK_TCFG_HEALTH_MS * 1000000) ≠ 0) : exec (.healthSample c) s = .next s := by
  show execHealthSample c s = _
  rw [execHealthSample, onIsland_live live]
  dsimp only
  rw [if_neg ?_, setChip_self]
  rintro ⟨-, ms, run, due⟩
  rcases rest with h | h | h
  · exact ms h
  · exact h run
  · exact h due

end

/-- Settles O37. -/
theorem guestbookCommands : Obligations.GuestbookCommands := by
  unfold Obligations.GuestbookCommands
  intro s c live
  have isl := fun f => onIsland_live live f
  dsimp only
  refine ⟨fun p n addr => ⟨fun f firing free => ⟨fun shared aligned => ?_, fun misplaced => ?_⟩, fun f firing waits => ?_, fun idle => ?_⟩,
    fun f => ⟨fun mode set due => ?_, fun h => guestbookDeadline_rest live (.inl h), fun h => guestbookDeadline_rest live (.inr (.inl h)),
      fun h => guestbookDeadline_rest live (.inr (.inr h))⟩,
    fun on ms run due => ⟨fun free => ?_, fun blocked => ?_⟩, fun h => healthSample_rest live (.inl h),
    fun h => healthSample_rest live (.inr (.inl h)), fun h => healthSample_rest live (.inr (.inr h))⟩
  · show execGuestbookSubmit c p n addr s = _
    rw [execGuestbookSubmit, isl, deviceCmd_runs firing free, Chip.gbkStore, if_pos ⟨shared, aligned⟩]
  · show execGuestbookSubmit c p n addr s = _
    rw [execGuestbookSubmit, isl, deviceCmd_runs firing free, Chip.gbkStore, if_neg]
    rintro ⟨shared, aligned⟩
    exact misplaced.elim (fun h => absurd (shared.symm.trans h) (by decide)) fun h => h aligned
  · show execGuestbookSubmit c p n addr s = _
    rw [execGuestbookSubmit, isl, deviceCmd_waits firing waits]
  · show execGuestbookSubmit c p n addr s = _
    rw [execGuestbookSubmit, isl, Chip.deviceCmd]
    simp only [idle, setChip_self]
  · show execGuestbookDeadline c f s = _
    rw [execGuestbookDeadline, isl, if_pos ⟨mode, set, due, Nat.ne_of_lt live.2⟩]
  · show execHealthSample c s = _
    rw [execHealthSample, isl]
    dsimp only
    rw [if_pos ⟨on, ms, run, due⟩, free, if_neg Bool.false_ne_true]
  · show execHealthSample c s = _
    rw [execHealthSample, isl]
    dsimp only
    rw [if_pos ⟨on, ms, run, due⟩, blocked, if_pos rfl]
    rw [count_fab]

end Sys2Proof.Machine
end

section
/-! SUPPORT. Tensor engines: their queue, their checks and their tiles (R386 to R389, R402, R406, R412). -/

namespace Sys2Proof.Machine

open Sys2Proof

theorem next_congr {s : State} {c : ChipId} {x y : Chip} (h : x = y) : (.next (s.setChip c x) : Res) = .next (s.setChip c y) := by
  rw [h]

theorem next_stay {s : State} {c : ChipId} {x : Chip} (h : x = s.chip c) : (.next (s.setChip c x) : Res) = .next s := by
  rw [h, setChip_self]

/-! ### A token that a block sends leaves the tensor engines as they are -/

theorem tens_queueFlit (ch : Chip) (l : Nat) (f : Flit) : (ch.queueFlit l f).fab.tens = ch.fab.tens := by
  simp only [Chip.queueFlit, Chip.setLink]
  split <;> rfl

theorem tens_countN (ch : Chip) (f ovf : Field) (b n : Nat) : (ch.countN f ovf b n).fab.tens = ch.fab.tens := by
  cases n with
  | zero => rfl
  | succ n =>
    rw [Chip.countN]
    split <;> rfl

theorem tens_sendFlit (ch : Chip) (dest vc kind : Nat) (pl : List Byte) : (ch.sendFlit dest vc kind pl).fab.tens = ch.fab.tens := by
  rw [Chip.sendFlit]
  split
  · exact tens_queueFlit ..
  · exact tens_queueFlit ..
  · exact tens_countN ..

theorem tens_trailCheck {ch y : Chip} {t : BitVec 128} {o : Option (BitVec 128)} (h : ch.trailCheck t = (o, y)) :
    y.fab.tens = ch.fab.tens := by
  unfold Chip.trailCheck at h
  split at h <;> (cases h; rfl)

theorem tens_sendToken (ch : Chip) (dest : Nat) (t : BitVec 128) : (ch.sendToken dest t).fab.tens = ch.fab.tens := by
  unfold Chip.sendToken
  split
  next u y check => exact (tens_sendFlit y dest 0 1 _).trans (tens_trailCheck check)
  next y check => exact tens_trailCheck check

theorem tens_blockToken (ch : Chip) (t : BitVec 128) : (ch.blockToken t).fab.tens = ch.fab.tens := by
  rw [Chip.blockToken]
  cases ch.ctxSlot (Token.context t) with
  | none => rfl
  | some k =>
    dsimp only
    cases ch.placeOf k (Token.node t) with
    | none => dsimp only; split <;> rfl
    | some pl =>
      dsimp only
      split
      · rfl
      · split
        · rfl
        · exact tens_sendToken ..

theorem ten_congr {x y : Chip} (same : y.fab.tens = x.fab.tens) (p : Nat) : y.ten p = x.ten p := by
  rw [Chip.ten, Chip.ten, same]

theorem ten_tenRefuse (ch : Chip) (p addr st : Nat) (blk : Option (List Byte)) (q : Nat) : (ch.tenRefuse p addr st blk).ten q = ch.ten q := by
  have kept : ∀ (f : Field), ((((ch.setFlag f true).count (F.TEN_REFUSED_COUNT p) (F.TEN_ERR_OVF p) 0).wr (F.TEN_LAST_CMD_ADDR p) addr)).fab.tens =
      ch.fab.tens := fun f => congrArg Fabric.tens (count_fab (ch.setFlag f true) _ _ _)
  unfold Chip.tenRefuse
  cases blk with
  | none => exact ten_congr (kept _) q
  | some b => exact ten_congr ((tens_blockToken _ _).trans (kept _)) q

theorem ten_setTen (ch : Chip) (p : Nat) (e : TenEng) : (ch.setTen p e).ten p = e := get_put_self _ _ _ _

theorem ten_wr (ch : Chip) (f : Field) (v p : Nat) : (ch.wr f v).ten p = ch.ten p := rfl

/-! ### The queue -/

section
variable {ch : Chip} {p n : Nat} {tops : Nat → Bool}

theorem tenTiles_frozen (frozen : ch.flag (F.TEN_STAT_FROZEN_LIVE p) = true) : ch.tenTiles p n = ch := by
  cases n with
  | zero => rfl
  | succ n =>
    rw [Chip.tenTiles]
    cases (ch.ten p).run with
    | none => rfl
    | some r => simp only [frozen, Bool.or_true, if_true]

theorem tenTake_empty (empty : (ch.ten p).queue = []) : ch.tenTake p tops = ch := by
  rw [Chip.tenTake]
  simp only [empty]

theorem tenTake_stays (stays : ((ch.ten p).run.isSome || ch.flag (F.TEN_STAT_FROZEN_LIVE p)) = true) : ch.tenTake p tops = ch := by
  rw [Chip.tenTake]
  cases (ch.ten p).queue with
  | nil => rfl
  | cons cmd rest => simp only [stays, if_true]

theorem tenGo_of_idle (idle : ((ch.tenTake p tops).ten p).run = none) : ch.tenGo p n tops = ch.tenTake p tops := by
  rw [Chip.tenGo]
  simp only [idle]

theorem tenGo_idle (empty : (ch.ten p).queue = []) (idle : (ch.ten p).run = none) : ch.tenGo p n tops = ch :=
  (tenGo_of_idle (by rw [tenTake_empty empty]; exact idle)).trans (tenTake_empty empty)

theorem tenGo_frozen (frozen : ch.flag (F.TEN_STAT_FROZEN_LIVE p) = true) : ch.tenGo p n tops = ch := by
  rw [Chip.tenGo, tenTake_stays (by rw [frozen, Bool.or_true])]
  cases (ch.ten p).run with
  | none => rfl
  | some r => simp only [tenTiles_frozen frozen, ite_self]

theorem tenGo_busy {r : TenRun} (busy : (ch.ten p).run = some r) :
    ch.tenGo p n tops = if tops (fieldAt r.blk 0 1) then ch.tenTiles p n else ch := by
  rw [Chip.tenGo, tenTake_stays (by rw [busy, Option.isSome_some, Bool.true_or])]
  simp only [busy]

end

/-! ### The head command of an idle engine -/

/-- The engine's queue after its head command left. -/
def Chip.tenPopped (ch : Chip) (p : Nat) (rest : List TenCmd) : Chip := (ch.setTen p { ch.ten p with queue := rest }).tenSync p

section
variable {ch : Chip} {p n : Nat} {tops : Nat → Bool} {cmd : TenCmd} {rest : List TenCmd} (queue : (ch.ten p).queue = cmd :: rest)
  (idle : (ch.ten p).run = none) (frozen : ch.flag (F.TEN_STAT_FROZEN_LIVE p) = false)

include idle in
theorem tenPopped_idle : ((ch.tenPopped p rest).ten p).run = none := by
  have run : ∀ y : Chip, ((y.tenSync p).ten p).run = (y.ten p).run := fun y => by
    rw [Chip.tenSync]
    rw [ten_wr, ten_setTen]
  exact (run _).trans ((congrArg TenEng.run (ten_setTen ch p _)).trans idle)

include queue idle frozen

theorem tenTake_nowhere (nowhere : ch.tenBlkAt p cmd.addr = none) (top : tops 0 = true) :
    ch.tenTake p tops = (ch.tenPopped p rest).tenRefuse p cmd.addr tenBadAddr none := by
  have zero : fieldAt [] 0 1 = 0 := rfl
  have takes : ((ch.ten p).run.isSome || ch.flag (F.TEN_STAT_FROZEN_LIVE p)) = false := by rw [idle, frozen]; rfl
  rw [Chip.tenTake]
  simp only [queue, takes, nowhere, top, zero, Option.elim_none, Bool.not_true, Bool.false_eq_true, if_false]
  rfl

theorem tenTake_nowhere_other (nowhere : ch.tenBlkAt p cmd.addr = none) (top : tops 0 = false) : ch.tenTake p tops = ch := by
  have zero : fieldAt [] 0 1 = 0 := rfl
  have takes : ((ch.ten p).run.isSome || ch.flag (F.TEN_STAT_FROZEN_LIVE p)) = false := by rw [idle, frozen]; rfl
  rw [Chip.tenTake]
  simp only [queue, takes, nowhere, top, zero, Option.elim_none, Bool.not_false, Bool.false_eq_true, if_false, if_true]

variable {at' : Nat} (here : ch.tenBlkAt p cmd.addr = some at')
include here

theorem tenTake_other (top : tops (fieldAt (ch.bytes at' 128) 0 1) = false) : ch.tenTake p tops = ch := by
  have takes : ((ch.ten p).run.isSome || ch.flag (F.TEN_STAT_FROZEN_LIVE p)) = false := by rw [idle, frozen]; rfl
  rw [Chip.tenTake]
  simp only [queue, takes, here, top, Option.elim_some, Bool.not_false, Bool.false_eq_true, if_false, if_true]

variable (top : tops (fieldAt (ch.bytes at' 128) 0 1) = true)
include top

theorem tenTake_gone (gone : (ch.slot cmd.slot).graph = none) : ch.tenTake p tops = ch.tenPopped p rest := by
  have takes : ((ch.ten p).run.isSome || ch.flag (F.TEN_STAT_FROZEN_LIVE p)) = false := by rw [idle, frozen]; rfl
  rw [Chip.tenTake]
  simp only [queue, takes, here, top, gone, Option.elim_some, Bool.not_true, Bool.false_eq_true, if_false]
  rfl

/-- The checks of the head command, in their order (R387, R388). -/
def Chip.tenChecked (y ch : Chip) (p : Nat) (cmd : TenCmd) (at' : Nat) (g : Graph) : Chip :=
  let blk := ch.bytes at' 128
  let ctx := fieldAt blk 114 2 % 1024
  if ctx < g.ctxBase ∨ g.ctxBase + g.ctxCount ≤ ctx then
    (y.wr (F.TEN_LAST_CMD_ADDR p) cmd.addr).raise 33 (source (18 * p + 16) (slotQual cmd.slot)) cmd.addr
  else if cmd.tensor = false then y.tenRefuse p cmd.addr tenBadShape (some blk)
  else if tenFormatOk blk (TenBlk.ofBytes blk) = false then y.tenRefuse p cmd.addr tenBadFormat (some blk)
  else if tenShapeOk (TenBlk.ofBytes blk) = false then y.tenRefuse p cmd.addr tenBadShape (some blk)
  else (y.tenAddrs g p (TenBlk.ofBytes blk)).elim (y.tenRefuse p cmd.addr tenBadAddr (some blk)) fun a =>
    y.tenStart p cmd.slot blk (ch.anyPoison at' 128) a

theorem tenTake_checked {g : Graph} (graph : (ch.slot cmd.slot).graph = some g) :
    ch.tenTake p tops = (ch.tenPopped p rest).tenChecked ch p cmd at' g := by
  have takes : ((ch.ten p).run.isSome || ch.flag (F.TEN_STAT_FROZEN_LIVE p)) = false := by rw [idle, frozen]; rfl
  rw [Chip.tenTake]
  simp only [queue, takes, here, top, graph, Option.elim_some, Bool.not_true, Bool.false_eq_true, if_false]
  rw [← Chip.tenPopped, Chip.tenChecked]
  cases (ch.tenPopped p rest).tenAddrs g p (TenBlk.ofBytes (ch.bytes at' 128)) <;> rfl

end

/-- Only a command that starts leaves the engine busy. -/
theorem tenGo_unstarted {ch x : Chip} {p n : Nat} {tops : Nat → Bool} (take : ch.tenTake p tops = x) (idle : (x.ten p).run = none) :
    ch.tenGo p n tops = x := by
  rw [tenGo_of_idle (by rw [take]; exact idle), take]

theorem tenStart_run (y : Chip) (p slot : Nat) (blk : List Byte) (poison : Bool) (a : TenAddr) :
    ((y.tenStart p slot blk poison a).ten p).run = some ⟨slot, blk, a, 0, poison, [], [], 0, []⟩ :=
  congrArg TenEng.run ((ten_congr (x := y.setTen p _) rfl p).trans (ten_setTen y p _))

theorem tenGo_started {ch y : Chip} {p n slot : Nat} {tops : Nat → Bool} {blk : List Byte} {poison : Bool} {a : TenAddr}
    (take : ch.tenTake p tops = y.tenStart p slot blk poison a) (top : tops (fieldAt blk 0 1) = true) :
    ch.tenGo p n tops = (y.tenStart p slot blk poison a).tenTiles p n := by
  rw [Chip.tenGo]
  simp only [take, tenStart_run, top, if_true]

/-! ### Completion and the debug port -/

section
variable {s : State} {c : ChipId} (live : Live s c) {p : PackId}
include live

theorem tensorComplete_none (idle : ((s.chip c).ten p.val).run = none) : exec (.tensorCommandComplete c p) s = .next s := by
  show execTensorCommandComplete c p s = _
  rw [execTensorCommandComplete, onIsland_live live]
  dsimp only
  rw [idle, setChip_self]

theorem tensorComplete_rest {r : TenRun} (busy : ((s.chip c).ten p.val).run = some r)
    (rest : r.drained = false ∨ (s.chip c).flag (F.TEN_STAT_FROZEN_LIVE p.val) = true) :
    exec (.tensorCommandComplete c p) s = .next s := by
  have stays : (!r.drained || (s.chip c).flag (F.TEN_STAT_FROZEN_LIVE p.val)) = true := by rcases rest with h | h <;> simp [h]
  show execTensorCommandComplete c p s = _
  rw [execTensorCommandComplete, onIsland_live live]
  simp only [busy, stays, if_true, setChip_self]

theorem tensorFreeze_closed (closed : (s.chip c).develop = false) (on : Bool) : exec (.tensorFreeze c p on) s = .next s := by
  show execTensorFreeze c p on s = _
  rw [execTensorFreeze, onChip_awake live.1, closed, if_neg Bool.false_ne_true, setChip_self]

theorem tensorFreeze_open (open' : (s.chip c).develop = true) (on : Bool) :
    exec (.tensorFreeze c p on) s = .next (s.setChip c ((s.chip c).tenFreeze p.val on)) := by
  show execTensorFreeze c p on s = _
  rw [execTensorFreeze, onChip_awake live.1, open', if_pos rfl, whenPowered_runs live.2]

end

theorem tenFreeze_stops {ch : Chip} {p : Nat} (going : ∀ r, (ch.ten p).run = some r → r.drained = false) :
    ch.tenFreeze p true = (ch.setFlag (F.TEN_DBG_CTL_FREEZE p) true).setFlag (F.TEN_STAT_FROZEN_LIVE p) true := by
  have undrained : (ch.ten p).run.elim false (·.drained) = false := by
    cases run : (ch.ten p).run with
    | none => rfl
    | some r => exact going r run
  rw [Chip.tenFreeze]
  exact (if_neg (by decide)).trans (if_neg ((Bool.not_eq_true _).mpr undrained))

theorem tenFreeze_drained {ch : Chip} {p : Nat} {r : TenRun} (busy : (ch.ten p).run = some r) (drained : r.drained = true) :
    ch.tenFreeze p true = ch.setFlag (F.TEN_DBG_CTL_FREEZE p) true := by
  have done : (ch.ten p).run.elim false (·.drained) = true := by rw [busy]; exact drained
  rw [Chip.tenFreeze]
  exact (if_neg (by decide)).trans (if_pos done)

/-! ### The rows of TOP -/

/-- Each row runs the engine on the commands of its TOP. -/
theorem tenRows_run {s : State} {c : ChipId} (live : Live s c) {p : TenSteps} {r : Instr × (Nat → Bool)}
    (row : r ∈ [(Instr.conv c p, fun t => t == topConv), (.dwconv c p, fun t => t == topDwconv), (.pool c p, fun t => t == topPool),
      (.matmul c p, fun t => t != topConv && t != topDwconv && t != topPool)]) :
    exec r.1 s = .next (s.setChip c ((s.chip c).tenGo p.pack.val p.tiles r.2)) := by
  simp only [List.mem_cons, List.not_mem_nil, or_false] at row
  rcases row with rfl | rfl | rfl | rfl <;> exact onIsland_live live _

/-- Settles O38. -/
theorem tensorCommands : Obligations.TensorCommands := by
  unfold Obligations.TensorCommands
  intro s c p live
  have isl := fun f => onIsland_live live f
  dsimp only
  refine ⟨fun n addr f firing => ⟨fun free => ?_, fun waits => ?_⟩, fun n addr unfired => ?_, fun r row => ?rows, tensorComplete_none live,
    fun r busy => ⟨tensorComplete_rest live busy, fun drained going freeze => ?_, fun drained going on => ?_⟩, tensorFreeze_closed live,
    fun open' => ?_, fun open' going => ?_, fun r open' busy drained => ?_, fun v => ⟨fun shut => ?_, fun frozen open' set => ?_, fun frozen open' set => ?_⟩⟩
  · show execTensorSubmit c p.pack n addr s = _
    rw [execTensorSubmit, isl, deviceCmd_runs firing free]
    rfl
  · show execTensorSubmit c p.pack n addr s = _
    rw [execTensorSubmit, isl, deviceCmd_waits firing waits]
  · show execTensorSubmit c p.pack n addr s = _
    rw [execTensorSubmit, isl, Chip.deviceCmd]
    simp only [unfired, setChip_self]
  case rows =>
    rw [tenRows_run live row]
    refine ⟨fun empty idle => next_stay (tenGo_idle empty idle), fun frozen => next_stay (tenGo_frozen frozen),
      fun x busy top => next_congr ((tenGo_busy busy).trans (if_pos top)),
      fun x busy top => next_stay ((tenGo_busy busy).trans (if_neg ((Bool.not_eq_true _).mpr top))),
      fun cmd rest queue idle going => ?_⟩
    have popped : (((s.chip c).tenPopped p.pack.val rest).ten p.pack.val).run = none := tenPopped_idle idle
    have refused : ∀ addr st blk, ((((s.chip c).tenPopped p.pack.val rest).tenRefuse p.pack.val addr st blk).ten p.pack.val).run = none :=
      fun addr st blk => (congrArg TenEng.run (ten_tenRefuse _ _ _ _ _ _)).trans popped
    refine ⟨fun nowhere top => next_congr (tenGo_unstarted (tenTake_nowhere queue idle going nowhere top) (refused _ _ _)),
      fun nowhere top => next_stay (tenGo_unstarted (tenTake_nowhere_other queue idle going nowhere top) idle), fun at' here =>
        ⟨fun top => next_stay (tenGo_unstarted (tenTake_other queue idle going here top) idle),
          fun top gone => next_congr (tenGo_unstarted (tenTake_gone queue idle going here top gone) popped), fun g top graph => ?_⟩⟩
    have take := tenTake_checked queue idle going here top graph
    rw [Chip.tenChecked] at take
    refine ⟨fun outside => ?_, fun low high => ?_⟩
    · rw [if_pos outside] at take
      exact next_congr (tenGo_unstarted take popped)
    · rw [if_neg (by omega)] at take
      refine ⟨fun other => ?_, fun tensor bad => ?_, fun tensor format bad => ?_, fun tensor format shape bad => ?_,
        fun a tensor format shape addrs => ?_⟩
      · rw [if_pos other] at take
        exact next_congr (tenGo_unstarted take (refused _ _ _))
      all_goals rw [tensor, if_neg (by decide)] at take
      · rw [if_pos bad] at take
        exact next_congr (tenGo_unstarted take (refused _ _ _))
      all_goals rw [format, if_neg (by decide)] at take
      · rw [if_pos bad] at take
        exact next_congr (tenGo_unstarted take (refused _ _ _))
      all_goals rw [shape, if_neg (by decide)] at take
      · rw [show ((s.chip c).tenPopped p.pack.val rest).tenAddrs g p.pack.val _ = none from bad] at take
        exact next_congr (tenGo_unstarted take (refused _ _ _))
      · rw [show ((s.chip c).tenPopped p.pack.val rest).tenAddrs g p.pack.val _ = some a from addrs] at take
        exact next_congr (tenGo_started take top)
  · show execTensorCommandComplete c p.pack s = _
    rw [execTensorCommandComplete, isl]
    simp only [busy, drained, going, Bool.not_true, Bool.or_self, Bool.false_eq_true, if_false]
    exact next_congr (if_pos freeze)
  · show execTensorCommandComplete c p.pack s = _
    rw [execTensorCommandComplete, isl]
    simp only [busy, drained, going, Bool.not_true, Bool.or_self, Bool.false_eq_true, if_false]
    exact next_congr (if_neg ((Bool.not_eq_true _).mpr on))
  · rw [tensorFreeze_open live open']
    rfl
  · rw [tensorFreeze_open live open', tenFreeze_stops going]
  · rw [tensorFreeze_open live open', tenFreeze_drained busy drained]
  · show execTensorDebugAccWrite c p.pack v s = _
    rw [execTensorDebugAccWrite, isl, Chip.tenAccWrite, if_neg (by rcases shut with h | h <;> simp [h]), setChip_self]
  · show execTensorDebugAccWrite c p.pack v s = _
    rw [execTensorDebugAccWrite, isl, Chip.tenAccWrite, if_pos (by rw [frozen, open']; rfl)]
    exact next_congr (if_neg ((Bool.not_eq_true _).mpr set))
  · show execTensorDebugAccWrite c p.pack v s = _
    rw [execTensorDebugAccWrite, isl, Chip.tenAccWrite, if_pos (by rw [frozen, open']; rfl)]
    exact next_congr (if_pos set)

end Sys2Proof.Machine
end

section
/-! SUPPORT. The work queues and the jobs of Sieve, Hound and Coachman (R415 to R419, R430 to R446). -/

namespace Sys2Proof.Machine

open Sys2Proof

/-! ### The head of a queue -/

/-- A block whose queue is off, or that runs a job, or whose head slot is 0, takes no job. -/
theorem takeJob_none {ch : Chip} {b : QueueBlock} (h : ch.qEnabled b = false ∨ ch.qBusy b = true ∨ ch.load (ch.qSlot b (ch.qHead b)) 8 = 0) :
    ch.takeJob b = (none, ch) := by
  rw [Chip.takeJob]
  rcases h with off | busy | empty
  · rw [if_pos (by rw [off]; rfl)]
  · rw [if_pos (by rw [busy, Bool.or_true])]
  · simp only [empty, if_true, ite_self]

/-- The JOP of the head command of Hound. -/
def Chip.hndHead (ch : Chip) : Nat :=
  let a := ch.load (ch.qSlot .hound (ch.qHead .hound)) 8
  if ch.inShared a 128 then ch.load a 1 else 0

theorem hndHead_shared {ch : Chip} (shared : ch.inShared (ch.load (ch.qSlot .hound (ch.qHead .hound)) 8) 128 = true) :
    ch.hndHead = ch.load (ch.load (ch.qSlot .hound (ch.qHead .hound)) 8) 1 := by
  rw [Chip.hndHead]
  exact if_pos shared

section
variable {ch y : Chip} {jop : Nat} {run : Chip → QJob → Chip}

theorem hndTake_other (other : ch.hndHead ≠ jop) (known : ch.hndHead = 2 ∨ ch.hndHead = 3) : ch.hndTake jop run = ch := by
  rw [Chip.hndTake]
  exact if_pos ⟨other, known⟩

theorem hndTake_none (mine : ch.hndHead = jop ∨ (ch.hndHead ≠ 2 ∧ ch.hndHead ≠ 3)) (take : ch.takeJob .hound = (none, y)) :
    ch.hndTake jop run = y := by
  have own : ¬ (ch.hndHead ≠ jop ∧ (ch.hndHead = 2 ∨ ch.hndHead = 3)) := by omega
  rw [Chip.hndTake]
  exact (if_neg own).trans (by rw [take])

theorem hndTake_some {j : QJob} (mine : ch.hndHead = jop ∨ (ch.hndHead ≠ 2 ∧ ch.hndHead ≠ 3)) (take : ch.takeJob .hound = (some j, y)) :
    ch.hndTake jop run =
      if fieldAt j.blk 0 1 = jop then run y j else y.qRefuse .hound j 40 (listWord 1 0 (fieldAt j.blk 56 4)) := by
  have own : ¬ (ch.hndHead ≠ jop ∧ (ch.hndHead = 2 ∨ ch.hndHead = 3)) := by omega
  rw [Chip.hndTake]
  exact (if_neg own).trans (by rw [take])

end

/-- The JOP of the head command of Coachman. -/
def Chip.coaHead (ch : Chip) : Nat :=
  let a := ch.load (ch.qSlot .coachman (ch.qHead .coachman)) 8
  if ch.inShared a 128 then ch.load a 1 else 0

theorem coaHead_shared {ch : Chip} (shared : ch.inShared (ch.load (ch.qSlot .coachman (ch.qHead .coachman)) 8) 128 = true) :
    ch.coaHead = ch.load (ch.load (ch.qSlot .coachman (ch.qHead .coachman)) 8) 1 := by
  rw [Chip.coaHead]
  exact if_pos shared

theorem coaHead_iff {ch : Chip} {n : Nat} (pos : n ≠ 0) : ch.coaHead = n ↔
    ch.inShared (ch.load (ch.qSlot .coachman (ch.qHead .coachman)) 8) 128 ∧ ch.load (ch.load (ch.qSlot .coachman (ch.qHead .coachman)) 8) 1 = n := by
  rw [Chip.coaHead]
  split
  next shared => exact ⟨fun h => ⟨shared, h⟩, fun h => h.2⟩
  next shared => exact ⟨fun h => absurd h.symm pos, fun h => absurd h.1 shared⟩

section
variable {s : State} {c : ChipId} (live : Live s c) {y : Chip}
include live

theorem occ_other (other : (s.chip c).coaHead = 2) : exec (.occ c) s = .next s := by
  show execOcc c s = _
  rw [execOcc, onIsland_live live]
  exact next_stay (if_pos ((coaHead_iff (by decide)).mp other))

theorem occ_none (mine : (s.chip c).coaHead ≠ 2) (take : (s.chip c).takeJob .coachman = (none, y)) :
    exec (.occ c) s = .next (s.setChip c y) := by
  show execOcc c s = _
  rw [execOcc, onIsland_live live]
  exact next_congr ((if_neg fun h => mine ((coaHead_iff (by decide)).mpr h)).trans (by rw [take]))

theorem occ_some {j : QJob} (mine : (s.chip c).coaHead ≠ 2) (take : (s.chip c).takeJob .coachman = (some j, y)) :
    exec (.occ c) s = .next (s.setChip c (if fieldAt j.blk 0 1 = 1 then y.occJob j else y.coaRefuse j 1)) := by
  show execOcc c s = _
  rw [execOcc, onIsland_live live]
  exact next_congr ((if_neg fun h => mine ((coaHead_iff (by decide)).mpr h)).trans (by rw [take]))

theorem aim_other (other : (s.chip c).coaHead = 1) : exec (.aim c) s = .next s := by
  show execAim c s = _
  rw [execAim, onIsland_live live]
  exact next_stay (if_pos ((coaHead_iff (by decide)).mp other))

theorem aim_none (mine : (s.chip c).coaHead ≠ 1) (take : (s.chip c).takeJob .coachman = (none, y)) :
    exec (.aim c) s = .next (s.setChip c y) := by
  show execAim c s = _
  rw [execAim, onIsland_live live]
  exact next_congr ((if_neg fun h => mine ((coaHead_iff (by decide)).mpr h)).trans (by rw [take]))

theorem aim_some {j : QJob} (mine : (s.chip c).coaHead ≠ 1) (take : (s.chip c).takeJob .coachman = (some j, y)) :
    exec (.aim c) s = .next (s.setChip c (if fieldAt j.blk 0 1 = 2 then y.aimJob j else y.coaRefuse j 1)) := by
  show execAim c s = _
  rw [execAim, onIsland_live live]
  exact next_congr ((if_neg fun h => mine ((coaHead_iff (by decide)).mpr h)).trans (by rw [take]))

theorem track_run {x : Chip} (h : (s.chip c).hndTake 2 Chip.trackJob = x) : exec (.track c) s = .next (s.setChip c x) := by
  show execTrack c s = _
  rw [execTrack, onIsland_live live, h]

theorem fuse_run {x : Chip} (h : (s.chip c).hndTake 3 Chip.fuseJob = x) : exec (.fuse c) s = .next (s.setChip c x) := by
  show execFuse c s = _
  rw [execFuse, onIsland_live live, h]

/-! ### Sieve -/

variable {j : QJob} (take : (s.chip c).takeJob .sieve = (some j, y))
include take

theorem sieveJob_taken : exec (.sieveJob c) s = .next (s.setChip c
    (let refuse (st : Nat) : Chip := y.qRefuse .sieve j 88 (listWord st 0 (fieldAt j.blk 96 4))
     if !sivFieldsOk j.blk then refuse 1
     else if !y.sivAddrOk j.blk then refuse 2
     else if fieldAt j.blk 1 1 == 4 && !levelsOk (y.bytes (sivTable j.blk) 64) (fieldAt j.blk 8 4) then
       (refuse 1).qPoison .sieve (y.anyPoison (sivTable j.blk) 64)
     else y.sivBody j)) := by
  show execSieveJob c s = _
  rw [execSieveJob, onIsland_live live, take]

end

/-- Settles O39. -/
theorem queueJobs : Obligations.QueueJobs := by
  unfold Obligations.QueueJobs
  intro s c live
  have isl := fun f => onIsland_live live f
  dsimp only
  refine ⟨fun b i v => ?store, fun b => ⟨fun on us empty full => ?skip, fun rest => ?wait⟩, ?idle,
    fun j y take => ⟨fun bad => ?_, fun fields bad => ?_, fun fields addr level => ?_, fun fields addr form level => ?_⟩, fun y take => ?_,
    fun r busy => ?_, fun free => ?_, ?hound, ?houndNone, fun r busy => ?_, fun free => ?_, ?coachman, ?coachmanNone,
    fun r g rest busy gens => ?_, fun free => ?_, fun empty => ⟨?_, ?_⟩, fun g rest gens => ⟨fun late => ?_, fun fresh => ?_⟩⟩
  case store =>
    show execQueueSlotStore c b i v s = _
    rw [execQueueSlotStore, isl, Chip.qStore, Chip.qSlot, Nat.mod_eq_of_lt i.isLt]
    rfl
  case skip =>
    show execQueueSkipTimeout c b s = _
    rw [execQueueSkipTimeout, isl, if_pos (by simp only [on, us, empty, full, decide_true, beq_self_eq_true, Bool.and_self])]
  case wait =>
    show execQueueSkipTimeout c b s = _
    rw [execQueueSkipTimeout, isl, if_neg ?_, setChip_self]
    simp only [Bool.and_eq_true, decide_eq_true_eq, beq_iff_eq]
    rintro ⟨⟨⟨on, us⟩, empty⟩, full⟩
    rcases rest with h | h | h | h
    · exact absurd (on.symm.trans h) (by decide)
    · omega
    · exact h empty
    · exact absurd (full.symm.trans h) (by decide)
  case idle =>
    intro r row i mem rest
    simp only [List.mem_cons, List.not_mem_nil, or_false] at row
    rcases row with rfl | rfl | rfl
    · obtain rfl := List.mem_singleton.mp mem
      show execSieveJob c s = _
      rw [execSieveJob, isl, takeJob_none rest, setChip_self]
    · simp only [List.mem_cons, List.not_mem_nil, or_false] at mem
      have hound : ∀ jop run, (s.chip c).hndTake jop run = s.chip c := fun jop run => by
        rw [Chip.hndTake, takeJob_none rest]
        exact ite_self _
      rcases mem with rfl | rfl
      · exact (track_run live (hound _ _)).trans (next_stay rfl)
      · exact (fuse_run live (hound _ _)).trans (next_stay rfl)
    · simp only [List.mem_cons, List.not_mem_nil, or_false] at mem
      rcases mem with rfl | rfl
      · by_cases other : (s.chip c).coaHead = 2
        · exact occ_other live other
        · exact (occ_none live other (takeJob_none rest)).trans (next_stay rfl)
      · by_cases other : (s.chip c).coaHead = 1
        · exact aim_other live other
        · exact (aim_none live other (takeJob_none rest)).trans (next_stay rfl)
  · rw [sieveJob_taken live take]
    simp only [bad, Bool.not_false, if_true]
  · rw [sieveJob_taken live take]
    simp only [fields, bad, Bool.not_false, Bool.not_true, Bool.false_eq_true, if_false, if_true]
  · rw [sieveJob_taken live take]
    have whole : (fieldAt j.blk 1 1 == 4 && !levelsOk (y.bytes (sivTable j.blk) 64) (fieldAt j.blk 8 4)) = false := by
      rcases level with h | h
      · rw [beq_eq_false_iff_ne.mpr h, Bool.false_and]
      · rw [h, Bool.not_true, Bool.and_false]
    simp only [fields, addr, whole, Bool.not_true, Bool.false_eq_true, if_false]
  · rw [sieveJob_taken live take]
    simp only [fields, addr, form, level, beq_self_eq_true, Bool.not_true, Bool.not_false, Bool.and_self, Bool.false_eq_true, if_false, if_true]
  · show execSieveJob c s = _
    rw [execSieveJob, isl, take]
  · show execSieveJobComplete c s = _
    rw [execSieveJobComplete, isl, busy]
    rfl
  · show execSieveJobComplete c s = _
    rw [execSieveJobComplete, isl, free, setChip_self]
  case hound =>
    intro j y take shared same
    have head : (s.chip c).hndHead = fieldAt j.blk 0 1 := (hndHead_shared shared).trans same
    refine ⟨fun two => ⟨track_run live ?_, (fuse_run live (hndTake_other ?_ ?_)).trans (next_stay rfl)⟩,
      fun three => ⟨fuse_run live ?_, (track_run live (hndTake_other ?_ ?_)).trans (next_stay rfl)⟩,
      fun n2 n3 => ⟨track_run live ?_, fuse_run live ?_⟩⟩
    · rw [hndTake_some (.inl (head.trans two)) take, if_pos two]
    · rw [head, two]; decide
    · exact .inl (head.trans two)
    · rw [hndTake_some (.inl (head.trans three)) take, if_pos three]
    · rw [head, three]; decide
    · exact .inr (head.trans three)
    · rw [hndTake_some (.inr ⟨head ▸ n2, head ▸ n3⟩) take, if_neg n2]
    · rw [hndTake_some (.inr ⟨head ▸ n2, head ▸ n3⟩) take, if_neg n3]
  case houndNone =>
    intro y take
    refine ⟨?_, ?_⟩
    · by_cases three : (s.chip c).hndHead = 3
      · exact ((track_run live (hndTake_other (by omega) (.inr three))).trans (next_stay rfl)).trans (if_pos three).symm
      · exact (track_run live (hndTake_none (by omega) take)).trans (if_neg three).symm
    · by_cases two : (s.chip c).hndHead = 2
      · exact ((fuse_run live (hndTake_other (by omega) (.inl two))).trans (next_stay rfl)).trans (if_pos two).symm
      · exact (fuse_run live (hndTake_none (by omega) take)).trans (if_neg two).symm
  · show execHoundJobComplete c s = _
    rw [execHoundJobComplete, isl, busy]
    rfl
  · show execHoundJobComplete c s = _
    rw [execHoundJobComplete, isl, free, setChip_self]
  case coachman =>
    intro j y take shared same
    have head : (s.chip c).coaHead = fieldAt j.blk 0 1 := (coaHead_shared shared).trans same
    refine ⟨fun one => ⟨(occ_some live ?_ take).trans ?_, aim_other live (head.trans one)⟩,
      fun two => ⟨(aim_some live ?_ take).trans ?_, occ_other live (head.trans two)⟩,
      fun n1 n2 => ⟨(occ_some live (head ▸ n2) take).trans ?_, (aim_some live (head ▸ n1) take).trans ?_⟩⟩
    · rw [head, one]; decide
    · rw [if_pos one]
    · rw [head, two]; decide
    · rw [if_pos two]
    · rw [if_neg n1]
    · rw [if_neg n2]
  case coachmanNone =>
    intro y take
    refine ⟨?_, ?_⟩
    · by_cases other : (s.chip c).coaHead = 2
      · exact (occ_other live other).trans (if_pos other).symm
      · exact (occ_none live other take).trans (if_neg other).symm
    · by_cases other : (s.chip c).coaHead = 1
      · exact (aim_other live other).trans (if_pos other).symm
      · exact (aim_none live other take).trans (if_neg other).symm
  · show execOccGenerationComplete c s = _
    rw [execOccGenerationComplete, isl]
    simp only [busy, gens]
    rfl
  · show execOccGenerationComplete c s = _
    rw [execOccGenerationComplete, isl]
    simp only [free, setChip_self]
  · show execOccGenerationComplete c s = _
    rw [execOccGenerationComplete, isl]
    cases (s.chip c).coa.run <;> exact next_stay (by rw [empty])
  · show execOccupancyStale c s = _
    rw [execOccupancyStale, isl]
    simp only [empty, setChip_self]
  · show execOccupancyStale c s = _
    rw [execOccupancyStale, isl, gens]
    exact next_congr (if_pos late)
  · show execOccupancyStale c s = _
    rw [execOccupancyStale, isl, gens]
    exact next_stay (if_neg (Nat.not_lt.mpr fresh))

end Sys2Proof.Machine
end

section
/-! SUPPORT. The DMA engine and the Adapt feeder (R554 to R556, R560, R575, R579). -/

namespace Sys2Proof.Machine

open Sys2Proof

/-- The low `n` bytes of a number do not see what is cut above them. -/
theorem toLe_mod (n v : Nat) : toLe n (v % 2 ^ (8 * n)) = toLe n v := by
  induction n generalizing v with
  | zero => rfl
  | succ n ih =>
    have dvd : (2 : Nat) ^ 8 ∣ 256 * 2 ^ (8 * n) := Nat.dvd_mul_right 256 _
    have split : 2 ^ (8 * (n + 1)) = 256 * 2 ^ (8 * n) := (Nat.pow_add 2 (8 * n) 8).trans (Nat.mul_comm ..)
    rw [toLe, toLe, split, Nat.mod_mul_right_div_self, ih]
    congr 1
    refine BitVec.eq_of_toNat_eq ?_
    rw [BitVec.toNat_ofNat, BitVec.toNat_ofNat, Nat.mod_mod_of_dvd _ dvd]

section
variable {s : State} {c : ChipId} (live : Live s c)
include live

/-! ### Copies -/

theorem copy_running (busy : (s.chip c).trail.dma.isSome = true) : exec (.copy c) s = .next (s.setChip c ((s.chip c).dmaPump 16)) := by
  show execCopy c s = _
  rw [execCopy, onIsland_live live, if_pos busy]

theorem copy_other (idle : (s.chip c).trail.dma = none) (other : (s.chip c).dmaHeadJop = 2) : exec (.copy c) s = .next s := by
  show execCopy c s = _
  rw [execCopy, onIsland_live live, idle, if_neg (by decide), if_pos other, setChip_self]

theorem atomic_other (other : (s.chip c).trail.dma.isSome = true ∨ (s.chip c).dmaHeadJop ≠ 2) : exec (.atomic c) s = .next s := by
  show execAtomic c s = _
  rw [execAtomic, onIsland_live live, if_pos other, setChip_self]

variable (idle : (s.chip c).trail.dma = none) {y : Chip}
include idle

theorem copy_none (mine : (s.chip c).dmaHeadJop ≠ 2) (take : (s.chip c).takeJob .dma = (none, y)) :
    exec (.copy c) s = .next (s.setChip c y) := by
  show execCopy c s = _
  rw [execCopy, onIsland_live live, idle, if_neg (by decide), if_neg mine, take]

theorem atomic_none (mine : (s.chip c).dmaHeadJop = 2) (take : (s.chip c).takeJob .dma = (none, y)) :
    exec (.atomic c) s = .next (s.setChip c y) := by
  show execAtomic c s = _
  rw [execAtomic, onIsland_live live, if_neg (by simp [idle, mine]), take]

/-- What a COPY job that was taken comes to (R554, R555). -/
def Chip.copyTaken (y : Chip) (j : QJob) : Chip :=
  let len := fieldAt j.blk 4 4
  let src := fieldAt j.blk 8 8
  let dst := fieldAt j.blk 16 8
  if fieldAt j.blk 0 1 ≠ 1 ∨ dmaFieldsOk j.blk = false ∨ maxCopy < len then y.qRefuse .dma j 40 (dmaWord j.blk dmaBadJob)
  else if len = 0 then y.qToken (jobToken j.blk 40 (dmaWord j.blk dmaEmpty) j.poison)
  else if y.dmaDescOk src len = false ∨ y.dmaDescOk dst len = false ∨ (descChip src ≠ y.pos.val ∧ descChip dst ≠ y.pos.val) then
    y.qRefuse .dma j 40 (dmaWord j.blk dmaBadAddr)
  else (y.dmaStart j).dmaPump 16

theorem copy_some {j : QJob} (mine : (s.chip c).dmaHeadJop ≠ 2) (take : (s.chip c).takeJob .dma = (some j, y)) :
    exec (.copy c) s = .next (s.setChip c (y.copyTaken j)) := by
  show execCopy c s = _
  rw [execCopy, onIsland_live live, idle, if_neg (by decide), if_neg mine, take]
  rfl

/-! ### Atomics -/

/-- What an ATOMIC job with good fields comes to (R554 to R556). -/
def Chip.atomicRun (y : Chip) (j : QJob) : Chip :=
  let lop := fieldAt j.blk 1 1
  let target := fieldAt j.blk 16 8
  let res := fieldAt j.blk 48 8
  let v := BitVec.ofNat 64 (fieldAt j.blk 24 8)
  let cmp := BitVec.ofNat 64 (fieldAt j.blk 32 8)
  let z := y.dmaStart j
  match z.descAddr none target 8 with
  | some a =>
    let r := z.latchOp a lop v cmp j.poison
    (r.2.2.store res (toLe 8 r.1.toNat) r.2.1).setTrail fun t =>
      { t with dma := t.dma.map fun d => { d with poison := d.poison || r.2.1 } }
  | none =>
    let w := z.setTrail fun t => { t with dma := t.dma.map fun d => { d with reqs := [⟨0, descChip target, res, 8⟩] } }
    if w.routeCode (descChip target) = 3 then w.dmaLost fun x => x == descChip target
    else w.sendFlit (descChip target) 1 3 (w.reqPayload j.poison false 0 8 lop target (toLe 8 v.toNat ++ toLe 8 cmp.toNat))

/-- What an ATOMIC job that was taken comes to. -/
def Chip.atomicTaken (y : Chip) (j : QJob) : Chip :=
  let target := fieldAt j.blk 16 8
  let res := fieldAt j.blk 48 8
  if dmaFieldsOk j.blk = false ∨ 9 ≤ fieldAt j.blk 1 1 then y.qRefuse .dma j 40 (dmaWord j.blk dmaBadJob)
  else if y.dmaDescOk target 8 = false ∨ target % 8 ≠ 0 ∨ res % 8 ≠ 0 ∨ y.inShared res 8 = false then
    y.qRefuse .dma j 40 (dmaWord j.blk dmaBadAddr)
  else y.atomicRun j

theorem atomic_some {j : QJob} (mine : (s.chip c).dmaHeadJop = 2) (take : (s.chip c).takeJob .dma = (some j, y)) :
    exec (.atomic c) s = .next (s.setChip c (y.atomicTaken j)) := by
  show execAtomic c s = _
  rw [execAtomic, onIsland_live live, if_neg (by simp [idle, mine]), take]
  rfl

end

/-! ### The Adapt feeder -/

section
variable {s : State} {c : ChipId}

theorem batchDeliver_none (idle : (s.chip c).adpIn adpRunning = none) : exec (.adaptBatchDeliver c) s = .next s := by
  show execAdaptBatchDeliver c s = _
  rw [execAdaptBatchDeliver, modChip_eq, idle, setChip_self]

theorem batchDeliver_some {j : Nat} (running : (s.chip c).adpIn adpRunning = some j) :
    exec (.adaptBatchDeliver c) s = .next (s.setChip c (s.adpDeliver (s.chip c) j)) := by
  show execAdaptBatchDeliver c s = _
  rw [execAdaptBatchDeliver, modChip_eq, running]

theorem creditPoll_none (idle : (s.chip c).adpIn adpWaiting = none) : exec (.adaptCreditPoll c) s = .next s := by
  show execAdaptCreditPoll c s = _
  rw [execAdaptCreditPoll, modChip_eq, idle, setChip_self]

theorem creditPoll_some {j : Nat} (waiting : (s.chip c).adpIn adpWaiting = some j) :
    exec (.adaptCreditPoll c) s = .next (s.setChip c (s.adpDeliver (s.chip c) j)) := by
  show execAdaptCreditPoll c s = _
  rw [execAdaptCreditPoll, modChip_eq, waiting]

end

section
variable {s : State} {ch : Chip} {j : Nat} {job : AdpJob} {b : Built} (found : Tab.find ch.adp.jobs j = some job) (built : job.built = some b)
include found built

theorem adpDeliver_off (off : ch.feederOn = false) : s.adpDeliver ch j = ch.adpSync := by
  simp only [State.adpDeliver, found, built, off, Bool.not_false, if_true]

theorem adpDeliver_far (on : ch.feederOn = true) (far : ch.adpFar (AdpReq.ofBytes job.blk) b = true) :
    s.adpDeliver ch j = (ch.wr (F.ADP_JOB_STATE j) adpRunning).setFlag F.ADP_STAT_LINK_LIVE true := by
  simp only [State.adpDeliver, found, built, on, far, Bool.not_true, Bool.false_eq_true, if_false, if_true]

theorem adpDeliver_near (on : ch.feederOn = true) (near : ch.adpFar (AdpReq.ofBytes job.blk) b = false) :
    s.adpDeliver ch j =
      (let r := AdpReq.ofBytes job.blk
       let n := ch.rd (F.ADP_DELIV_VALUE j)
       let v := ch.load ((ch.adpAddr r.credit 8).getD 0) 8
       let y := if n < v then ch.setFlag F.ADP_STAT_CREDIT_SEEN true else ch
       if n - min n v < r.nslot then s.adpWrite (y.wr (F.ADP_JOB_STATE j) adpRunning) j job b
       else (y.wr (F.ADP_JOB_STATE j) adpWaiting).adpSync) := by
  simp only [State.adpDeliver, found, built, on, near, Bool.not_true, Bool.false_eq_true, if_false]

end

/-- The noise clip number `i` of a request is usable (R577). -/
def Chip.clipOk (ch : Chip) (r : AdpReq) (i : Nat) : Bool :=
  let e := ch.bytes ((ch.adpAddr r.noise (16 * r.nnoise)).getD 0 + 16 * i) 16
  decide (1 ≤ fieldAt e 8 4) && decide (fieldAt e 8 4 ≤ 2880000) && fieldAt e 12 4 == 0 && ch.dataOk r (fieldAt e 0 8) (4 * fieldAt e 8 4)

/-- The feeder runs or waits with another job. -/
def Chip.feederBusy (ch : Chip) : Bool := (List.range 4).any fun j => ch.adpState j == adpRunning || ch.adpState j == adpWaiting

theorem feederBusy_eq_true {ch : Chip} : ch.feederBusy = true ↔ ∃ i < 4, ch.adpState i = adpRunning ∨ ch.adpState i = adpWaiting := by
  simp only [Chip.feederBusy, List.any_eq_true, List.mem_range, Bool.or_eq_true, beq_iff_eq]

section
variable {s : State} {c : ChipId} (live : Live s c)
include live

theorem adaptJobRun_none (unqueued : ∀ j < 4, (s.chip c).adpState j ≠ adpQueued) : exec (.adaptJobRun c) s = .next s := by
  have none : ((List.range 4).find? fun j => (s.chip c).adpState j == adpQueued) = none :=
    List.find?_eq_none.mpr fun j hj => by rw [beq_iff_eq]; exact unqueued j (List.mem_range.mp hj)
  show execAdaptJobRun c s = _
  rw [execAdaptJobRun, onIsland_live live]
  dsimp only
  rw [none, setChip_self]

theorem adaptJobRun_first {j k : Nat} {job : AdpJob} (first : ((List.range 4).find? fun j => (s.chip c).adpState j == adpQueued) = some j)
    (found : Tab.find (s.chip c).adp.jobs j = some job) (slot : (s.chip c).ctxSlot (AdpReq.ofBytes job.blk).context = some k) :
    exec (.adaptJobRun c) s = .next (s.setChip c
      (if (s.chip c).feederBusy || ((s.chip c).slot k).st != .armed || (s.chip c).pwr != pwrRun then s.chip c
       else
         let y := ((s.chip c).wr (F.ADP_JOB_STATE j) adpRunning).wr (F.ADP_JOB_SLOT j) k
         if (List.range (AdpReq.ofBytes job.blk).nnoise).any fun i => !(s.chip c).clipOk (AdpReq.ofBytes job.blk) i then y.adpEnd j adpAborted
         else (y.store ((y.adpAddr (AdpReq.ofBytes job.blk).credit 8).getD 0) (zeros 8) false).adpBuild j)) := by
  show execAdaptJobRun c s = _
  rw [execAdaptJobRun, onIsland_live live]
  simp only [first, found, slot]
  rfl

end

theorem dmaComplete_some {s : State} {c : ChipId} (live : Live s c) {d : DmaRun} (busy : (s.chip c).trail.dma = some d) :
    exec (.dmaJobComplete c) s = .next (s.setChip c
      (if d.reqs.isEmpty && (decide (fieldAt d.blk 0 1 = 2) || decide (fieldAt d.blk 4 4 ≤ d.next)) then
        (((s.chip c).setTrail fun t => { t with dma := none }).setFlag F.TRL_DMA_STAT_BUSY false).blockToken
          (jobToken d.blk 40 (dmaWord d.blk d.status) d.poison)
       else s.chip c)) := by
  show execDmaJobComplete c s = _
  rw [execDmaJobComplete, onIsland_live live, busy]
  rfl

/-- Settles O40. -/
theorem dmaAndAdapt : Obligations.DmaAndAdapt := by
  unfold Obligations.DmaAndAdapt
  intro s c live
  have isl := fun f => onIsland_live live f
  dsimp only
  refine ⟨fun busy => ⟨copy_running live busy, atomic_other live (.inl busy)⟩, copy_other live, fun other => atomic_other live (.inr other),
    fun j y idle head take one pos => ?copy, fun j y idle head take other => ?_, fun y idle take => ⟨?_, ?_⟩,
    fun j y idle head take => ?atomic, fun d busy => ⟨fun out whole => ?_, fun rest => ?_⟩, fun idle => ?_,
    adaptJobRun_none live, fun j job k first found slot => ?jobRun, fun j job b running found built => ?batch, batchDeliver_none,
    fun j job b waiting found built on near low room => ?_, creditPoll_none, fun j => creditPoll_some, fun idle on => ?_, fun off => ?_,
    fun j on running => ?_⟩
  case copy =>
    rw [copy_some live idle (by rw [head]; decide) take, Chip.copyTaken, ← pos]
    refine ⟨fun bad => next_congr (if_pos (.inr bad)), fun fields empty => next_congr ?_, fun fields some' short unfit => next_congr ?_,
      fun fields some' short fit => next_congr ?_⟩
    · refine (if_neg ?_).trans (if_pos empty)
      rw [empty, one, fields]
      decide
    · refine (if_neg ?_).trans ((if_neg (by omega)).trans (if_pos ?_))
      · rw [one, fields]
        simp only [ne_eq, not_true_eq_false, Bool.true_eq_false, false_or]
        omega
      · simpa only [Bool.and_eq_false_iff, Bool.or_eq_false_iff, beq_eq_false_iff_ne, or_assoc] using unfit
    · refine (if_neg ?_).trans ((if_neg (by omega)).trans (if_neg ?_))
      · rw [one, fields]
        simp only [ne_eq, not_true_eq_false, Bool.true_eq_false, false_or]
        omega
      · simp only [Bool.and_eq_true, Bool.or_eq_true, beq_iff_eq] at fit
        obtain ⟨⟨source, target⟩, own⟩ := fit
        rw [source, target]
        simp only [Bool.true_eq_false, false_or]
        exact fun away => own.elim away.1 away.2
  · rw [copy_some live idle head take, Chip.copyTaken]
    exact next_congr (if_pos (.inl other))
  · by_cases head : (s.chip c).dmaHeadJop = 2
    · rw [copy_other live idle head, if_pos head]
    · rw [copy_none live idle head take, if_neg head]
  · by_cases head : (s.chip c).dmaHeadJop = 2
    · rw [atomic_none live idle head take, if_pos head]
    · rw [atomic_other live (.inr head), if_neg head]
  case atomic =>
    rw [atomic_some live idle head take, Chip.atomicTaken]
    refine ⟨fun bad => next_congr (if_pos bad), fun fields legal => ?_⟩
    have good : ¬ (dmaFieldsOk j.blk = false ∨ 9 ≤ fieldAt j.blk 1 1) := by rw [fields]; simp; omega
    refine ⟨fun bad => next_congr ((if_neg good).trans (if_pos bad)), fun a ok aligned res shared here => ?_, fun ok aligned res shared away => ?_⟩
    · refine next_congr ((if_neg good).trans ((if_neg (by simp [ok, aligned, res, shared])).trans ?_))
      rw [Chip.atomicRun]
      simp only [here]
    · have lawful : ¬ (y.dmaDescOk (fieldAt j.blk 16 8) 8 = false ∨ fieldAt j.blk 16 8 % 8 ≠ 0 ∨ fieldAt j.blk 48 8 % 8 ≠ 0 ∨
          y.inShared (fieldAt j.blk 48 8) 8 = false) := by simp [ok, aligned, res, shared]
      refine ⟨fun lost => next_congr ((if_neg good).trans ((if_neg lawful).trans ?_)), fun route => next_congr ((if_neg good).trans ((if_neg lawful).trans ?_))⟩
      · rw [Chip.atomicRun]
        simp only [away]
        exact if_pos lost
      · rw [Chip.atomicRun]
        simp only [away, BitVec.toNat_ofNat]
        refine (if_neg route).trans ?_
        rw [toLe_mod 8, toLe_mod 8]
  · rw [dmaComplete_some live busy, if_pos]
    rw [out]
    rcases whole with h | h <;> simp [h]
  · rw [dmaComplete_some live busy, if_neg ?_, setChip_self]
    simp only [Bool.and_eq_true, Bool.or_eq_true, List.isEmpty_iff, decide_eq_true_eq]
    rintro ⟨out, whole⟩
    rcases rest with h | ⟨more, copy⟩
    · exact h out
    · exact whole.elim copy fun h => absurd h (Nat.not_le.mpr more)
  · show execDmaJobComplete c s = _
    rw [execDmaJobComplete, isl, idle, setChip_self]
  case jobRun =>
    rw [adaptJobRun_first live first found slot]
    refine ⟨fun rest => next_stay (if_pos ?_), fun busy => next_stay (if_pos ?_), fun free armed run => ?_⟩
    · simp only [Bool.or_eq_true, bne_iff_ne]
      exact rest.elim (fun h => .inl (.inr h)) .inr
    · rw [feederBusy_eq_true.mpr busy, Bool.true_or, Bool.true_or]
    · have idle : (s.chip c).feederBusy = false := by
        rw [← Bool.not_eq_true, feederBusy_eq_true]
        rintro ⟨i, hi, h⟩
        exact h.elim (free i hi).1 (free i hi).2
      rw [idle, armed, run, if_neg (by decide)]
      refine ⟨fun bad => next_congr (if_pos ?_), fun good => next_congr (if_neg ?_)⟩
      · obtain ⟨i, hi, h⟩ := bad
        exact List.any_eq_true.mpr ⟨i, List.mem_range.mpr hi, by rw [Bool.not_eq_true']; exact h⟩
      · rw [List.any_eq_true]
        rintro ⟨i, hi, h⟩
        have ok : (s.chip c).clipOk (AdpReq.ofBytes job.blk) i = true := good i (List.mem_range.mp hi)
        rw [ok] at h
        exact absurd h (by decide)
  case batch =>
    rw [batchDeliver_some running]
    refine ⟨fun off => by rw [adpDeliver_off found built off], fun on far => by rw [adpDeliver_far found built on far], fun on near => ?_⟩
    rw [adpDeliver_near found built on near]
    exact ⟨fun room => next_congr (if_pos room), fun full => next_congr (if_neg (Nat.not_lt.mpr full))⟩
  · rw [creditPoll_some waiting, adpDeliver_near found built on near]
    dsimp only
    rw [Nat.min_eq_right low, if_pos room, if_neg (Nat.not_lt.mpr low)]
  · show execAdaptLinkRetry c s = _
    rw [execAdaptLinkRetry, modChip_eq, if_pos on, idle]
  · show execAdaptLinkRetry c s = _
    rw [execAdaptLinkRetry, modChip_eq, if_neg ((Bool.not_eq_true _).mpr off), setChip_self]
  · show execAdaptLinkRetry c s = _
    rw [execAdaptLinkRetry, modChip_eq, if_pos on, running]

end Sys2Proof.Machine
end

section
/-! SUPPORT. Batches, frames and the ends of motion (R455 to R458, R462, R465, R471). -/

namespace Sys2Proof.Machine

open Sys2Proof

theorem onSentry_elsewhere {s : State} {c : ChipId} (live : Live s c) (other : (s.chip c).pos.val ≠ 0) (f : Chip → Chip) :
    onSentry s c f = .next s := by
  rw [onSentry, onIsland_live live, if_neg other, setChip_self]

section
variable {s : State} {c : ChipId} {h : Fin 8} (live : Live s c)
include live

/-! ### Batches -/

theorem batchHandoff_rest (rest : (s.chip c).rd F.COA_STAT_ROLE ≠ roleActive ∨ (s.chip c).headState h.val = hdDisabled ∨
    (s.chip c).batch h.val = 0) : exec (.setpointBatchHandoff c h) s = .next s := by
  show execSetpointBatchHandoff c h s = _
  rw [execSetpointBatchHandoff, onIsland_live live, if_pos rest, setChip_self]

theorem batchHandoff_runs (run : ¬ ((s.chip c).rd F.COA_STAT_ROLE ≠ roleActive ∨ (s.chip c).headState h.val = hdDisabled ∨
    (s.chip c).batch h.val = 0)) :
    exec (.setpointBatchHandoff c h) s = .next (s.setChip c
      (let handed := (s.chip c).setHead h.val
         { (s.chip c).head h.val with next := ((s.chip c).head h.val).next + (s.chip c).batch h.val * 1000000 }
       if handed.pos.val = 0 then handed.takeBatch h.val ((s.chip c).nextBatch h.val)
       else handed.sendMotion 0 5 (padTo 64 (handed.setpointBytes h.val 0 ((s.chip c).nextBatch h.val))))) := by
  show execSetpointBatchHandoff c h s = _
  rw [execSetpointBatchHandoff, onIsland_live live, if_neg run]

/-! ### Ends of motion -/

/-- A head that comes to rest: READY at its stop pose, with the segments behind the stop. -/
def Chip.headStopped (ch : Chip) (h : Nat) : Chip :=
  (ch.setHead h { ch.head h with rest := (ch.head h).stopPose, segs := afterStop (ch.head h).segs [] }).setHeadState h hdReady

theorem stopAtRest_rest (other : (s.chip c).headState h.val ≠ hdStopping) : exec (.stopAtRest c h) s = .next s := by
  show execStopAtRest c h s = _
  rw [execStopAtRest, onIsland_live live]
  exact next_stay (if_neg other)

theorem stopAtRest_runs (stopping : (s.chip c).headState h.val = hdStopping) :
    exec (.stopAtRest c h) s = .next (s.setChip c
      (let y := (s.chip c).headStopped h.val
       if y.sen.disabling && y.allAtRest then y.finishDisable
       else if (afterStop ((s.chip c).head h.val).segs []).isEmpty then y else y.setHeadState h.val hdMoving)) := by
  show execStopAtRest c h s = _
  rw [execStopAtRest, onIsland_live live]
  exact next_congr (if_pos stopping)

end

section
variable {s : State} {c : ChipId} {h : Fin 8} (live : Live s c) (first : (s.chip c).pos.val = 0)
include live first

/-! ### Frames -/

theorem frameQueue_rest (rest : (s.chip c).headState h.val = hdDisabled ∨ (s.chip c).batch h.val = 0) :
    exec (.setpointFrameQueue c h) s = .next s := by
  show execSetpointFrameQueue c h s = _
  rw [execSetpointFrameQueue, onSentry_live live first]
  exact next_stay (if_pos rest)

variable (on : (s.chip c).headState h.val ≠ hdDisabled) (some' : (s.chip c).batch h.val ≠ 0)
include on some'

theorem frameQueue_empty (empty : ((s.chip c).head h.val).queue = []) :
    exec (.setpointFrameQueue c h) s = .next (s.setChip c ((s.chip c).safeStop 29 h.val 2 h.val 0)) := by
  show execSetpointFrameQueue c h s = _
  rw [execSetpointFrameQueue, onSentry_live live first]
  refine next_congr ((if_neg (not_or.mpr ⟨on, some'⟩)).trans ?_)
  simp only [empty, List.take_nil]

/-- What the samples of a batch come to, `s0` the first of them (R457, R458). -/
def Chip.batchFrame (ch : Chip) (h : Nat) (s0 : Smp) (xs : List Smp) : Chip :=
  if xs.length < ch.batch h then ch.safeStop 29 h 2 h s0.time
  else if (xs.all fun q => ch.genFresh q.gen) = false then ch.safeStop 29 h 3 h s0.time
  else
    let data := canBytes (ch.rd (F.COA_HSAFE_SAFE_ID h)) (ch.setpointBytes h (ch.head h).seq xs)
    let y := ch.setHead h { ch.head h with frame := some ⟨s0.time, data⟩, seq := ((ch.head h).seq + 1) % 2 ^ 32 }
    y.queueCan (y.rd (F.COA_HCFG_BUS h)) ⟨0x100 + h, data⟩

theorem frameQueue_some {s0 : Smp} {rest : List Smp} (batch : ((s.chip c).head h.val).queue.take ((s.chip c).batch h.val) = s0 :: rest) :
    exec (.setpointFrameQueue c h) s = .next (s.setChip c ((s.chip c).batchFrame h.val s0 (s0 :: rest))) := by
  show execSetpointFrameQueue c h s = _
  rw [execSetpointFrameQueue, onSentry_live live first]
  refine next_congr ((if_neg (not_or.mpr ⟨on, some'⟩)).trans ?_)
  simp only [batch]
  rfl

end

section
variable {s : State} {c : ChipId} (live : Live s c) (first : (s.chip c).pos.val = 0)
include live first

theorem takeover_rest (rest : (s.chip c).rd F.COA_STAT_ROLE ≠ roleActive ∨ (s.chip c).routeCode 2 = 3) :
    exec (.takeover c) s = .next s := by
  show execTakeover c s = _
  rw [execTakeover, onSentry_live live first, if_pos rest, setChip_self]

end

/-- Settles O41. -/
theorem motionBatchesAndEnds : Obligations.MotionBatchesAndEnds := by
  unfold Obligations.MotionBatchesAndEnds
  intro s c h live
  have isl := fun f => onIsland_live live f
  dsimp only
  refine ⟨batchHandoff_rest live, fun role on some' => ⟨fun first => ?_, fun other => ?_⟩, fun moving => ?_, fun still => ?_,
    stopAtRest_rest live, fun stopping idle idle' => ⟨fun empty => ?_, fun more => ?_⟩,
    fun stopping => ⟨fun disabling rest => ?_, fun disabling unrest => ?_⟩,
    fun other => ⟨onSentry_elsewhere live other _, onSentry_elsewhere live other _, onSentry_elsewhere live other _, onSentry_elsewhere live other _⟩,
    fun first => ⟨frameQueue_rest live first, fun on some' => ⟨frameQueue_empty live first on some', fun s0 rest queue short => ?_,
      fun s0 rest batch full => ⟨fun stale => ?_, fun fresh => ?_⟩⟩, fun none => ?_, fun f frame => ?_, fun on => ?_, fun off => ?_,
      takeover_rest live first, fun role route => ?_⟩⟩
  · rw [batchHandoff_runs live (by simp [role, on, some'])]
    exact next_congr (if_pos first)
  · rw [batchHandoff_runs live (by simp [role, on, some'])]
    exact next_congr (if_neg other)
  · show execSegmentEnd c h s = _
    rw [execSegmentEnd, isl]
    exact next_congr (if_pos moving)
  · show execSegmentEnd c h s = _
    rw [execSegmentEnd, isl]
    exact next_stay (if_neg still)
  · rw [stopAtRest_runs live stopping]
    refine next_congr ((if_neg ?_).trans (if_pos (List.isEmpty_iff.mpr empty)))
    rw [show ((s.chip c).headStopped h.val).sen.disabling = false from idle', Bool.false_and]
    decide
  · rw [stopAtRest_runs live stopping]
    refine next_congr ((if_neg ?_).trans (if_neg fun empty => more (List.isEmpty_iff.mp empty)))
    rw [show ((s.chip c).headStopped h.val).sen.disabling = false from idle', Bool.false_and]
    decide
  · rw [stopAtRest_runs live stopping]
    refine next_congr (if_pos ?_)
    exact Bool.and_eq_true_iff.mpr ⟨disabling, rest⟩
  · rw [stopAtRest_runs live stopping]
    refine next_congr ((if_neg ?_).trans (ite_iff_congr List.isEmpty_iff rfl rfl))
    rw [show ((s.chip c).headStopped h.val).allAtRest = false from unrest, Bool.and_false]
    decide
  · have batch : ((s.chip c).head h.val).queue.take ((s.chip c).batch h.val) = s0 :: rest := by
      rw [List.take_of_length_le (Nat.le_of_lt short), queue]
    rw [frameQueue_some live first on some' batch, Chip.batchFrame]
    exact next_congr (if_pos (by rw [← queue]; exact short))
  · rw [frameQueue_some live first on some' batch, Chip.batchFrame]
    refine next_congr ((if_neg ?_).trans (if_pos (by rw [← batch]; exact stale)))
    rw [← batch, List.length_take, Nat.min_eq_left full]
    exact Nat.lt_irrefl _
  · rw [frameQueue_some live first on some' batch, Chip.batchFrame]
    refine next_congr ((if_neg ?_).trans ((if_neg (by rw [← batch, fresh]; decide)).trans (by rw [← batch])))
    rw [← batch, List.length_take, Nat.min_eq_left full]
    exact Nat.lt_irrefl _
  · show execSetpointTxLate c h s = _
    rw [execSetpointTxLate, onSentry_live live first]
    dsimp only
    rw [none, setChip_self]
  · show execSetpointTxLate c h s = _
    rw [execSetpointTxLate, onSentry_live live first]
    dsimp only
    rw [frame]
  · show execMotionDisableTimeout c s = _
    rw [execMotionDisableTimeout, onSentry_live live first, if_pos on]
  · show execMotionDisableTimeout c s = _
    rw [execMotionDisableTimeout, onSentry_live live first, off, if_neg (by decide), setChip_self]
  · show execTakeover c s = _
    rw [execTakeover, onSentry_live live first, if_neg (not_or.mpr ⟨Classical.not_not.mpr role, route⟩)]

end Sys2Proof.Machine
end

section
/-! SUPPORT. The Sentry: CAN frames, STATUS, its timer and the stop loops (R47, R459, R460, R466, R469, R700), and the messages between
the Coachmen (R464, R465, R558). -/

namespace Sys2Proof.Machine

open Sys2Proof

/-! ### A frame of a bus went out -/

/-- The frames that wait on a bus. -/
def Sentry.queue (q : Sentry) (bus : Bool) : List CanFrame := if bus then q.can1 else q.can0

def Sentry.off (q : Sentry) (bus : Bool) : Bool := if bus then q.busOff1 else q.busOff0

def Sentry.setQueue (q : Sentry) (bus : Bool) (l : List CanFrame) : Sentry := if bus then { q with can1 := l } else { q with can0 := l }

/-- What the Sentry notes of a frame that went out. -/
def Chip.canNoted (y : Chip) (bus : Bool) (id sof : Nat) : Chip :=
  if id = 0x10 then
    (List.range 8).foldl (fun (x : Chip) n => if x.rd (F.COA_HCFG_BUS n) = bnat bus then x.setHead n { x.head n with answered := false } else x)
      (y.setSen { y.sen with prevSof := updAt y.sen.prevSof (bnat bus) fun _ => sof })
  else if 0x100 ≤ id ∧ id < 0x108 then y.markSent (id - 0x100)
  else y

/-- A readback that differs stops motion (R469). -/
def Chip.canChecked (z : Chip) (id : Nat) (same : Bool) : Chip :=
  if same then z
  else if 0x100 ≤ id ∧ id < 0x108 then z.safeStop 28 (id - 0x100) 6 (id - 0x100) 0
  else z.safeStop 28 8 6 15 0

section
variable {s : State} {c : ChipId} (live : Live s c) (first : (s.chip c).pos.val = 0)
include live first

theorem canTx_rest {bus : Bool} {sof : Qword} {rb : Bool}
    (rest : (s.chip c).sen.queue bus = [] ∨ (s.chip c).sen.off bus = true) : exec (.canFrameTxComplete c bus sof rb) s = .next s := by
  show execCanFrameTxComplete c bus sof rb s = _
  rw [execCanFrameTxComplete, onSentry_live live first]
  rw [Sentry.queue, Sentry.off] at rest
  rcases rest with empty | off
  · simp only [empty, setChip_self]
  · cases queue : (if bus then (s.chip c).sen.can1 else (s.chip c).sen.can0) with
    | nil => simp only [queue, setChip_self]
    | cons f rest => simp only [queue, off, setChip_self]

theorem canTx_front {bus : Bool} {f : CanFrame} {rest : List CanFrame} (sof : Qword) (rb : Bool)
    (queue : (s.chip c).sen.queue bus = f :: rest) (on : (s.chip c).sen.off bus = false) :
    exec (.canFrameTxComplete c bus sof rb) s = .next (s.setChip c
      (((((s.chip c).setSen ((s.chip c).sen.setQueue bus rest)).emit (.can (bnat bus) f.id f.data)).canNoted bus f.id sof.toNat).canChecked
        f.id rb)) := by
  show execCanFrameTxComplete c bus sof rb s = _
  rw [execCanFrameTxComplete, onSentry_live live first]
  rw [Sentry.queue] at queue
  rw [Sentry.off] at on
  simp only [queue, on]
  rfl

end

theorem canNoted_setpoint (y : Chip) (bus : Bool) (h : Fin 8) (sof : Nat) : y.canNoted bus (0x100 + h.val) sof = y.markSent h.val := by
  rw [Chip.canNoted, if_neg (by omega), if_pos (by omega), Nat.add_sub_cancel_left]

theorem canChecked_setpoint (z : Chip) (h : Fin 8) : z.canChecked (0x100 + h.val) false = z.safeStop 28 h.val 6 h.val 0 := by
  rw [Chip.canChecked, if_neg (by decide), if_pos (by omega), Nat.add_sub_cancel_left]


/-! ### STATUS (R466, R469) -/

/-- The Sentry accepts a STATUS frame of the head. -/
def Chip.statusGood (ch : Chip) (h : Nat) (data : List Byte) : Bool :=
  let l := canLen (16 + 4 * ch.nax h + 4)
  decide (data.length = l) && fieldAt data (l - 4) 4 == crc32 (toLe 4 (ch.rd (F.COA_HSAFE_SAFE_ID h)) ++ data.take (l - 4)) &&
    fieldAt data 0 1 == 0x81 && fieldAt data 1 1 == h && ch.flag (F.COA_HCFG_EN h)

/-- The axes that a STATUS frame reports. -/
def Chip.statusPos (ch : Chip) (h : Nat) (data : List Byte) : List Int :=
  (List.range (ch.nax h)).map fun a => sgn 32 (fieldAt data (16 + 4 * a) 4)

/-- The sample that a STATUS frame is compared with. -/
def Head.statusRef (x : Head) (data : List Byte) : Option Smp :=
  ((x.sent ++ x.queue).filter fun q => q.time == fieldAt data 8 8 / 1000000 * 1000000).getLast?

/-- A STATUS frame is farther from a sample than FOLLOW allows. -/
def Chip.statusFar (ch : Chip) (h : Nat) (data : List Byte) (q : Smp) : Bool :=
  (List.range (ch.nax h)).any fun a =>
    decide (ch.rd (F.COA_AF_FOLLOW h a) < ((((ch.statusPos h data)[a]?).getD 0) - ((q.pos[a]?).getD 0)).natAbs)

/-- The head with a STATUS recorded. -/
def Chip.statusHead (ch : Chip) (h : Nat) (data : List Byte) (off : Nat) : Chip :=
  ch.setHead h { ch.head h with
    reported := ch.statusPos h data, statusTime := ch.now, fault := bit (fieldAt data 2 1) 0, answered := true, off := off }

/-- What an accepted STATUS comes to. -/
def Chip.statusAnswer (ch : Chip) (h : Nat) (data : List Byte) (off : Nat) : Chip :=
  if bit (fieldAt data 2 1) 0 = true ∨ (2 ≤ off ∧ (ch.statusHead h data off).headState h ≠ hdDisabled) then
    (ch.statusHead h data off).safeStop 28 h 5 h (fieldAt data 8 8)
  else ch.statusHead h data off

theorem statusGood_iff {ch : Chip} {h : Nat} {data : List Byte} : ch.statusGood h data = true ↔
    data.length = canLen (16 + 4 * ch.nax h + 4) ∧
    fieldAt data (canLen (16 + 4 * ch.nax h + 4) - 4) 4 =
      crc32 (toLe 4 (ch.rd (F.COA_HSAFE_SAFE_ID h)) ++ data.take (canLen (16 + 4 * ch.nax h + 4) - 4)) ∧
    fieldAt data 0 1 = 0x81 ∧ fieldAt data 1 1 = h ∧ ch.flag (F.COA_HCFG_EN h) = true := by
  simp only [Chip.statusGood, Bool.and_eq_true, decide_eq_true_eq, beq_iff_eq, and_assoc]

section
variable {s : State} {c : ChipId} (live : Live s c) (first : (s.chip c).pos.val = 0) {h : Fin 8} {data : List Byte}
include live first

theorem status_bad (bad : (s.chip c).statusGood h.val data ≠ true) :
    exec (.status c h data) s = .next (s.setChip c ((s.chip c).count F.SEN_CRCERR_COUNT F.SEN_STAT_OVF 1)) := by
  rw [ne_eq, Bool.not_eq_true, Chip.statusGood] at bad
  show execStatus c h data s = _
  rw [execStatus, onSentry_live live first]
  simp only [bad, Bool.not_false, if_true]

variable (good : (s.chip c).statusGood h.val data = true)
include good

theorem status_none (none : ((s.chip c).head h.val).statusRef data = none) :
    exec (.status c h data) s = .next (s.setChip c ((s.chip c).statusAnswer h.val data 0)) := by
  rw [Chip.statusGood] at good
  rw [Head.statusRef] at none
  show execStatus c h data s = _
  rw [execStatus, onSentry_live live first]
  simp only [good, none, Bool.not_true, Bool.false_eq_true, if_false]
  exact next_congr (ite_or_else ..).symm

theorem status_some {q : Smp} (some' : ((s.chip c).head h.val).statusRef data = some q) :
    exec (.status c h data) s = .next (s.setChip c ((s.chip c).statusAnswer h.val data
      (if (s.chip c).statusFar h.val data q then ((s.chip c).head h.val).off + 1 else 0))) := by
  rw [Chip.statusGood] at good
  rw [Head.statusRef] at some'
  show execStatus c h data s = _
  rw [execStatus, onSentry_live live first]
  simp only [good, some', Bool.not_true, Bool.false_eq_true, if_false]
  exact next_congr (ite_or_else ..).symm

end

/-! ### The stop loops (R700) -/

section
variable {s : State} (live : Live s 0) (first : (s.chip 0).pos.val = 0)
include live first

/-- A head is configured. -/
def Chip.fitted (ch : Chip) : Bool := (List.range 8).any fun n => ch.flag (F.COA_HCFG_EN n)

/-- The readings of the loops are kept. -/
def Chip.loopsRead (ch : Chip) (na nb : Nat) : Chip :=
  ch.setSen { ch.sen with openA := na, openB := nb, loopA := decide (2 ≤ na), loopB := decide (2 ≤ nb) }

/-- A loop that opens stops motion. -/
def Chip.loopStop (ch : Chip) (row : Nat) (new : Bool) : Chip := if new then ch.safeStop 28 row 9 15 0 else ch

theorem stopLoop_run (a b : LoopReading) :
    exec (.stopLoopSample a b) s = .next (s.setChip 0
      ((((s.chip 0).loopsRead (loopCount a (s.chip 0).sen.openA) (loopCount b (s.chip 0).sen.openB)).loopStop 9
        ((s.chip 0).fitted && decide (2 ≤ loopCount a (s.chip 0).sen.openA) && !(s.chip 0).sen.loopA)).loopStop 10
        ((s.chip 0).fitted && decide (2 ≤ loopCount b (s.chip 0).sen.openB) && !(s.chip 0).sen.loopB))) := by
  show execStopLoopSample a b s = _
  rw [execStopLoopSample, onSentry_live live first]
  rfl

end

theorem loopStop_new (ch : Chip) (row n : Nat) (fit was : Bool) : ch.loopStop row (fit && decide (2 ≤ n) && !was) =
    if fit = true ∧ 2 ≤ n ∧ was = false then ch.safeStop 28 row 9 15 0 else ch := by
  rw [Chip.loopStop]
  refine ite_iff_congr ?_ rfl rfl
  simp only [Bool.and_eq_true, decide_eq_true_eq, Bool.not_eq_true', and_assoc]

/-- A loop of fewer than two open readings stops nothing. -/
theorem loopStop_low {ch : Chip} {row n : Nat} {fit was : Bool} (low : n < 2) : ch.loopStop row (fit && decide (2 ≤ n) && !was) = ch := by
  rw [loopStop_new, if_neg fun h => absurd h.2.1 (Nat.not_le.mpr low)]

theorem fitted_none {ch : Chip} (none : ∀ n < 8, ch.flag (F.COA_HCFG_EN n) = false) : ch.fitted = false :=
  List.any_eq_false.mpr fun n hn => by rw [none n (List.mem_range.mp hn)]; exact Bool.false_ne_true

theorem fitted_some {ch : Chip} (some' : ∃ n < 8, ch.flag (F.COA_HCFG_EN n) = true) : ch.fitted = true := by
  obtain ⟨n, hn, h⟩ := some'
  exact List.any_eq_true.mpr ⟨n, List.mem_range.mpr hn, h⟩

/-- Settles O42. -/
theorem sentryEvents : Obligations.SentryEvents := by
  unfold Obligations.SentryEvents
  intro s c h live
  dsimp only
  refine ⟨fun other bus sof rb data => ?_, fun first => ?_, ?loops⟩
  · have away := fun f => onSentry_elsewhere live other f
    exact ⟨away _, away _, away _, away _, away _, away _, away _, away _, away _⟩
  · have sentry := fun f => onSentry_live live first f
    refine ⟨fun sof rb rest => canTx_rest live first rest, fun sof rb rest => canTx_rest live first rest,
      fun f rest sof queue on id => ⟨?_, ?_⟩, fun f rest sof queue on id => ⟨?_, ?_⟩, fun f rest sof queue on id => ⟨?_, ?_⟩,
      fun bus f rest sof rb queue on => ?_, ?time, fun data => ?status, ?_, fun off => ?_, fun on => ?_, fun going => ?_, fun halted => ?_,
      fun late => ?_, fun early => ?_, ?_, ?_, ?_, ?_⟩
    · rw [canTx_front live first (bus := false) sof true queue on, id, canNoted_setpoint]
      rfl
    · rw [canTx_front live first (bus := false) sof false queue on, id, canNoted_setpoint, canChecked_setpoint]
      rfl
    · rw [canTx_front live first (bus := true) sof true queue on, id, canNoted_setpoint]
      rfl
    · rw [canTx_front live first (bus := true) sof false queue on, id, canNoted_setpoint, canChecked_setpoint]
      rfl
    · rw [canTx_front live first (bus := false) sof true queue on, id]
      rfl
    · rw [canTx_front live first (bus := false) sof false queue on, id]
      rfl
    · rw [canTx_front live first sof rb queue on]
      rfl
    case time =>
      show execCanTimeFrame c s = _
      rw [execCanTimeFrame, sentry]
      rfl
    case status =>
      have bad : ¬ _ → exec (.status c h data) s = _ := fun h' => status_bad live first (h' ∘ statusGood_iff.mp)
      refine ⟨fun len => bad fun h' => len h'.1, fun crc => bad fun h' => crc h'.2.1, fun type => bad fun h' => type h'.2.2.1,
        fun head => bad fun h' => head h'.2.2.2.1, fun off => bad fun h' => absurd (off.symm.trans h'.2.2.2.2) (by decide),
        fun len crc type head on sent queue => ⟨fun fault => ?_, fun sound => ?_⟩, fun len crc type head on => ?_⟩
      all_goals have good : (s.chip c).statusGood h.val data = true := statusGood_iff.mpr ⟨len, crc, type, head, on⟩
      · have none : ((s.chip c).head h.val).statusRef data = none := by rw [Head.statusRef, sent, queue]; rfl
        rw [status_none live first good none, Chip.statusAnswer, if_pos (.inl fault)]
        rw [Chip.statusHead, fault]
        rfl
      · have none : ((s.chip c).head h.val).statusRef data = none := by rw [Head.statusRef, sent, queue]; rfl
        rw [status_none live first good none, Chip.statusAnswer, if_neg (by rw [sound]; simp)]
        rfl
      · refine ⟨fun none => ?_, fun q some' near => ?_, fun q some' far => ?_⟩
        · exact status_none live first good none
        · exact (status_some live first good some').trans (by rw [show (s.chip c).statusFar h.val data q = false from near]; rfl)
        · exact (status_some live first good some').trans (by rw [show (s.chip c).statusFar h.val data q = true from far]; rfl)
    · exact sentry _
    · show execStatusTimeout c h s = _
      rw [execStatusTimeout, sentry, if_pos off, setChip_self]
    · show execStatusTimeout c h s = _
      rw [execStatusTimeout, sentry, if_neg on]
    · show execSentryTimerRearm c s = _
      rw [execSentryTimerRearm, sentry, going, if_neg (by decide)]
    · show execSentryTimerRearm c s = _
      rw [execSentryTimerRearm, sentry, halted, if_pos rfl, setChip_self]
    · show execSentryTimerExpiry c s = _
      rw [execSentryTimerExpiry, sentry, if_pos late]
      rfl
    · show execSentryTimerExpiry c s = _
      rw [execSentryTimerExpiry, sentry, if_neg (Nat.not_le.mpr early), setChip_self]
    all_goals exact sentry _
  case loops =>
    rintro rfl first
    refine ⟨?_, fun a b => ?_, fun one was fit => ?_, fun one was fit => ?_, fun unfit one => ?_, fun none => ?_⟩
    · rw [stopLoop_run live first, loopCount, loopCount, loopStop_low (by decide), loopStop_low (by decide)]
      rfl
    · rw [stopLoop_run live first, loopStop_new, loopStop_new]
      rfl
    · rw [stopLoop_run live first, loopCount, loopCount, one, loopStop_low (n := 0) (by decide), loopStop_new,
        if_pos ⟨fitted_some fit, by decide, was⟩]
      rfl
    · rw [stopLoop_run live first, loopCount, loopCount, one, loopStop_low (n := 0) (by decide), loopStop_new,
        if_pos ⟨fitted_some fit, by decide, was⟩]
      rfl
    · rw [stopLoop_run live first, loopCount, loopCount, one, fitted_none unfit]
      rfl
    · rw [stopLoop_run live first, loopCount, loopCount, none, loopStop_low (by decide), loopStop_low (by decide)]
      rfl

/-- Settles O43. -/
theorem motionMessages : Obligations.MotionMessages := by
  unfold Obligations.MotionMessages
  intro s c l h pl awake
  dsimp only
  refine ⟨fun y passes => onFlit_passes awake _ passes, fun y p z here piece => ?_, fun y p d z here piece => ⟨fun first => ?_, fun other => ?_⟩⟩
  · show execTrailMotion c l h pl s = _
    rw [execTrailMotion, onFlit_here awake _ here]
    dsimp only
    rw [piece]
  · show execTrailMotion c l h pl s = _
    rw [execTrailMotion, onFlit_here awake _ here]
    dsimp only
    rw [piece]
    exact next_congr (congrArg (fun e => z.motionMsg e _ d) (if_pos first))
  · show execTrailMotion c l h pl s = _
    rw [execTrailMotion, onFlit_here awake _ here]
    dsimp only
    rw [piece]
    exact next_congr (congrArg (fun e => z.motionMsg e _ d) (if_neg other))

end Sys2Proof.Machine
end

section
/-! SUPPORT. The memory controller (R505 to R526): requests, lines, refreshes, the scrubber and migrations. -/

namespace Sys2Proof.Machine

open Sys2Proof

/-! ### A request -/

theorem dramArrive_waits {ch : Chip} {k : Nat} {q : DramReq} (busy : ch.clkRuns k = false ∨ (ch.xing crDomain (256 + k)).st ≠ .run ∨
    (ch.xing crDomain (256 + k)).held ≠ [] ∨ (ch.xing crDomain (256 + k)).wait ≠ [] ∨ ch.dramRoom k q = false) :
    ch.dramArrive k q = ch.setXing crDomain (256 + k) fun x => x.put (!ch.clkRuns k) crDomain (.dram q) := by
  rw [Chip.dramArrive]
  refine if_neg ?_
  simp only [Bool.and_eq_true, beq_iff_eq, List.isEmpty_iff]
  rintro ⟨⟨⟨⟨clk, run⟩, held⟩, wait⟩, room⟩
  rcases busy with h | h | h | h | h
  · exact absurd (clk.symm.trans h) (by decide)
  · exact h run
  · exact h held
  · exact h wait
  · exact absurd (room.symm.trans h) (by decide)

/-! ### A line that is read, written or merged -/

section
variable {ch : Chip} {l p : Nat} (served : ch.server (ch.lineAt l).1 (ch.lineAt l).2 = some p)
include served

theorem lineWrite_served (data : List Byte) (poison : Bool) :
    ch.lineWrite l data poison = (ch.store (dramBase + 64 * l) (padTo 64 data) poison).countWr (p / 2) := by
  rw [Chip.lineWrite]
  simp only [served]

/-- The line as it comes back from its rank. -/
def Chip.lineBack (ch : Chip) (l p : Nat) (e : LineErr) : LineRes :=
  readBack (lineTag p (ch.lineAt l).2) (ch.load (dramBase + 64 * l) 64) (ch.isPoisoned (dramBase + 64 * l)) e

/-- The read of a line counted. -/
def Chip.lineCounted (ch : Chip) (p : Nat) (e : LineErr) : Chip := (ch.countRd (p / 2)).countLink (p / 2) e.link

theorem demandRead_served (e : LineErr) :
    ch.demandRead l e =
      if (ch.lineBack l p e).cls = 0 then ch.lineCounted p e
      else if (ch.lineBack l p e).cls = mcCe then
        (((ch.lineCounted p e).store (dramBase + 64 * l) (toLe 64 (ch.lineBack l p e).data) (ch.lineBack l p e).poison).countWr (p / 2)).memCe p
          (64 * l) (lineTag p (ch.lineAt l).2) fdRead
      else
        ((((ch.lineCounted p e).store (dramBase + 64 * l) (toLe 64 (ch.lineBack l p e).data) true).countWr (p / 2)).memUe (p / 2) (p % 2)
          (ch.lineBack l p e).cls (64 * l) (lineTag p (ch.lineAt l).2) fdRead).ueRank p := by
  rw [Chip.demandRead]
  simp only [served]
  rfl

theorem lineMerge_served (o : Nat) (data : List Byte) (poison : Bool) (e : LineErr) :
    ch.lineMerge l o data poison e =
      let y := ((ch.lineCounted p e).store (dramBase + 64 * l) (patch (toLe 64 (ch.lineBack l p e).data) o (data.take (64 - o)))
        ((ch.lineBack l p e).poison || poison)).countWr (p / 2)
      if (ch.lineBack l p e).cls = 0 then y
      else if (ch.lineBack l p e).cls = mcCe then y.memCe p (64 * l) (lineTag p (ch.lineAt l).2) fdWrite
      else (y.memUe (p / 2) (p % 2) (ch.lineBack l p e).cls (64 * l) (lineTag p (ch.lineAt l).2) fdWrite).ueRank p := by
  rw [Chip.lineMerge]
  simp only [served]
  rfl

end

/-- The retraining steps that rank `r` has deferred (R519). -/
def Chip.retrainDeferred (ch : Chip) (r n : Nat) : Chip := ch.setMc fun m => { m with deferred := Tab.set 0 m.deferred r n }

/-! ### Refresh and the periodic commands of a channel -/

/-- An idle channel holds no request of the safety class. -/
theorem safe_of_idle {ch : Chip} {k : Nat} (idle : ch.chanIdle k = true) : ((ch.rdq k ++ ch.wrq k).any fun r => r.safety) = false := by
  simp only [Chip.chanIdle, Bool.and_eq_true, List.isEmpty_iff] at idle
  rw [idle.1, idle.2]
  rfl

/-- A channel refreshed: nothing is postponed any more. -/
def Chip.refreshed (ch : Chip) (k : Nat) : Chip :=
  (((ch.setFlag (F.MEM_CH_STAT_PD_LIVE k) false).setClk k true).closeRows k).setMc fun m => { m with postponed := Tab.set 0 m.postponed k 0 }

section
variable {s : State} {c : ChipId} (awake : Awake s c) (runs : (s.chip c).memRuns = true) {k : Fin 16} {d : Fin 3}
include awake runs

theorem refresh_done (free : (d.val = 0 ∧ (s.chip c).chanIdle k.val = true) ∨ (d.val ≠ 1 ∧
    (((s.chip c).rdq k.val ++ (s.chip c).wrq k.val).any fun r => r.safety) = false ∧ 8 ≤ Tab.get 0 (s.chip c).mc.postponed k.val)) :
    exec (.refresh c k d) s = .next (s.setChip c ((s.chip c).refreshed k.val)) := by
  show execRefresh c k d s = _
  rw [execRefresh, onChip_awake awake]
  refine next_congr ((if_neg (by rw [runs]; decide)).trans (if_pos ?_))
  rcases free with ⟨quiet, idle⟩ | ⟨plain, safe, limit⟩
  · exact .inl (by rw [quiet, idle]; rfl)
  · exact .inr ⟨by rw [safe, Bool.or_false, beq_eq_false_iff_ne]; exact plain, limit⟩

theorem refresh_postponed (busy : d.val ≠ 0 ∨ (s.chip c).chanIdle k.val = false) (room : Tab.get 0 (s.chip c).mc.postponed k.val < 8) :
    exec (.refresh c k d) s = .next (s.setChip c ((s.chip c).setMc fun m =>
      { m with postponed := Tab.set 0 m.postponed k.val (Tab.get 0 (s.chip c).mc.postponed k.val + 1) })) := by
  show execRefresh c k d s = _
  rw [execRefresh, onChip_awake awake]
  refine next_congr ((if_neg (by rw [runs]; decide)).trans ((if_neg ?_).trans (if_pos room)))
  rintro (free | ⟨-, limit⟩)
  · rw [Bool.or_eq_false_iff, bne_eq_false_iff_eq, Bool.not_eq_false'] at free
    exact busy.elim (fun h => h free.1) fun h => absurd (free.2.symm.trans h) (by decide)
  · exact absurd limit (Nat.not_le.mpr room)

theorem refresh_limit (safe : d.val = 1 ∨ (((s.chip c).rdq k.val ++ (s.chip c).wrq k.val).any fun r => r.safety) = true)
    (limit : 8 ≤ Tab.get 0 (s.chip c).mc.postponed k.val) : exec (.refresh c k d) s = .next s := by
  show execRefresh c k d s = _
  rw [execRefresh, onChip_awake awake]
  refine next_stay ((if_neg (by rw [runs]; decide)).trans ((if_neg ?_).trans (if_neg (Nat.not_lt.mpr limit))))
  rintro (free | ⟨plain, -⟩)
  · rw [Bool.or_eq_false_iff, bne_eq_false_iff_eq, Bool.not_eq_false'] at free
    rcases safe with one | safe
    · omega
    · exact absurd (safe.symm.trans (safe_of_idle free.2)) (by decide)
  · rw [Bool.or_eq_false_iff, beq_eq_false_iff_ne] at plain
    rcases safe with one | safe
    · exact plain.1 one
    · exact absurd (safe.symm.trans plain.2) (by decide)

/-- One rank's temperature as MR4 shows it (R518). -/
def Chip.mr4Rank (ch : Chip) (k e v : Nat) : Chip :=
  let y := ch.setMc fun m => { m with mr4 := Tab.set 0 m.mr4 (2 * k + e) v }
  if v = mr4Over then (y.setFlag (F.MEM_CH_STAT_THERM_SEEN k) true).raise 21 (source (256 + k) e) v else y

theorem mr4Poll_ranks (r0 r1 : BitVec 5) :
    exec (.mr4Poll c k r0 r1) s = .next (s.setChip c (((s.chip c).mr4Rank k.val 0 r0.toNat).mr4Rank k.val 1 r1.toNat)) := by
  show execMr4Poll c k r0 r1 s = _
  rw [execMr4Poll, onChip_awake awake]
  exact next_congr (if_neg (by rw [runs]; decide))

omit runs in
theorem telemetry_off (idle : Bool) (r0 r1 : BitVec 5) (off : (s.chip c).rd F.MEM_TEL_PERIOD = 0) :
    exec (.telemetrySample c k idle r0 r1) s = .next s := by
  show execTelemetrySample c k idle r0 r1 s = _
  rw [execTelemetrySample, onChip_awake awake, if_pos (.inl off), setChip_self]

theorem telemetry_on (idle : Bool) (r0 r1 : BitVec 5) (on : (s.chip c).rd F.MEM_TEL_PERIOD ≠ 0) :
    exec (.telemetrySample c k idle r0 r1) s = .next (s.setChip c
      (if idle && (s.chip c).chanIdle k.val then
        ((s.chip c).wr (F.MEM_CH_TEMP_MR4_R0 k.val) r0.toNat).wr (F.MEM_CH_TEMP_MR4_R1 k.val) r1.toNat
       else (s.chip c).count (F.MEM_CH_TEL_SKIP_COUNT k.val) (F.MEM_CH_STAT_OVF k.val) 5)) := by
  show execTelemetrySample c k idle r0 r1 s = _
  rw [execTelemetrySample, onChip_awake awake, if_neg (not_or.mpr ⟨on, by rw [runs]; decide⟩)]

omit runs in
theorem powerDown_rest (rest : (s.chip c).rd F.MEM_PD_IDLE = 0 ∨ (s.chip c).chanIdle k.val = false) :
    exec (.channelPowerDown c k) s = .next s := by
  show execChannelPowerDown c k s = _
  rw [execChannelPowerDown, onChip_awake awake, if_pos (rest.imp_right .inr), setChip_self]

omit runs in
theorem scrubRead_rest {e : LineErr} (rest : (s.chip c).rd F.MEM_SCRUB_HOURS = 0 ∨ (s.chip c).scrubRanks k.val = [] ∨
    (s.chip c).chanIdle k.val = false) : exec (.patrolScrubRead c k e) s = .next (logRanks c s (s.setChip c (s.chip c))) := by
  show execPatrolScrubRead c k e s = _
  rw [execPatrolScrubRead, onMem_awake awake]
  dsimp only
  rw [if_pos (rest.imp_right .inr)]

/-- The scrubber goes on behind its line, or ends its pass (R514, R515). -/
def Chip.scrubNext (y ch : Chip) (k : Nat) : Chip :=
  let pos := ch.rd (F.MEM_CH_SCRUB_POS k)
  if pos + 1 < (ch.scrubRanks k).length * rankLines then y.wr (F.MEM_CH_SCRUB_POS k) (pos + 1)
  else (((y.wr (F.MEM_CH_SCRUB_POS k) 0).wr (F.MEM_CH_PASSES_COUNT k) (min max32 (y.rd (F.MEM_CH_PASSES_COUNT k) + 1))).setFlag
    (F.MEM_CH_STAT_SCRUB_LATE_LIVE k) false).lateSync

theorem scrubRead_line {e : LineErr} {p : Nat} (on : (s.chip c).rd F.MEM_SCRUB_HOURS ≠ 0) (some' : (s.chip c).scrubRanks k.val ≠ [])
    (idle : (s.chip c).chanIdle k.val = true)
    (rank : ((s.chip c).scrubRanks k.val)[(s.chip c).rd (F.MEM_CH_SCRUB_POS k.val) / rankLines]? = some p) :
    exec (.patrolScrubRead c k e) s = .next (logRanks c s (s.setChip c
      (((s.chip c).scrubLine p ((s.chip c).rd (F.MEM_CH_SCRUB_POS k.val) % rankLines) e).scrubNext (s.chip c) k.val))) := by
  show execPatrolScrubRead c k e s = _
  rw [execPatrolScrubRead, onMem_awake awake]
  dsimp only
  rw [if_neg (by simp [on, some', idle, runs]), rank]
  rfl

theorem retrainDue_counts (r : Fin 32) (idle : Bool) :
    exec (.retrainDue c r idle) s = .next (s.setChip c ((s.chip c).retrainDeferred r.val
      (if idle && (s.chip c).chanIdle (r.val / 2) then 0 else Tab.get 0 (s.chip c).mc.deferred r.val + 1))) := by
  show execRetrainDue c r idle s = _
  rw [execRetrainDue, onChip_awake awake]
  dsimp only
  rw [if_neg (by rw [runs]; decide)]
  rfl

end

/-! ### Migrations -/

section
variable {s : State} {c : ChipId} (awake : Awake s c) (runs : (s.chip c).memRuns = true)
include awake

theorem migrationGo_runs (power : (s.chip c).rd F.PWR_STATE_STATE < 2) :
    exec (.migrationGo c) s = .next (logRanks c s (s.setChip c (s.chip c).migrationGo)) := by
  show execMigrationGo c s = _
  rw [execMigrationGo, onMem_awake awake, whenPowered_runs power]

theorem migrationCopy_rest {e : LineErr} (rest : (s.chip c).flag F.MEM_MIG_ACTIVE = false ∨
    (s.chip c).chanIdle ((s.chip c).rd F.MEM_MIG_SRC / 2) = false ∨ (s.chip c).chanIdle ((s.chip c).rd F.MEM_MIG_DST / 2) = false) :
    exec (.migrationCopyLine c e) s = .next (logRanks c s (s.setChip c (s.chip c))) := by
  show execMigrationCopyLine c e s = _
  rw [execMigrationCopyLine, onMem_awake awake]
  dsimp only
  rw [if_pos (rest.imp_right .inr)]

end

/-- Settles O44. -/
theorem memoryCommands : Obligations.MemoryCommands := by
  unfold Obligations.MemoryCommands
  intro s c awake runs
  have act := fun f => onChip_awake awake f
  dsimp only
  refine ⟨fun line e o data poison r row => ?requests, fun l p e o data poison served => ?lines, fun k => ?channel, fun r => ?retrain,
    fun power => ⟨fun bad => ?_, fun active free => ?_⟩, fun dozing => ?_, fun e => migrationCopy_rest awake, fun e on src dst => ?copy, ?_⟩
  case requests =>
    have run : exec r.1 s = .next (s.setChip c ((s.chip c).dramRequest line r.2)) := by
      simp only [List.mem_cons, List.not_mem_nil, or_false] at row
      rcases row with rfl | rfl | rfl <;> exact onChip_awake awake _
    rw [run]
    refine ⟨fun beyond => next_stay (if_neg fun h => absurd h.1 (Nat.not_lt.mpr beyond)),
      fun usable clk on held wait room => next_congr (dramRequest_taken runs usable clk on held wait room),
      fun usable busy => next_congr ((if_pos ⟨usable, runs⟩).trans (dramArrive_waits busy))⟩
  case lines =>
    have merge := fun data poison => lineMerge_served (ch := s.chip c) served o.val data poison e
    have read := demandRead_served (ch := s.chip c) served e
    refine ⟨lineWrite_served served data poison, fun clean => ⟨read.trans (if_pos clean), (merge _ _).trans (if_pos clean)⟩,
      fun ce => ?_, fun dirty other => ?_⟩
    · have dirty : ((s.chip c).lineBack l p e).cls ≠ 0 := fun h => absurd (h.symm.trans ce) (by decide)
      exact ⟨read.trans ((if_neg dirty).trans (if_pos ce)), (merge _ _).trans ((if_neg dirty).trans (if_pos ce))⟩
    · exact ⟨read.trans ((if_neg dirty).trans (if_neg other)), (merge _ _).trans ((if_neg dirty).trans (if_neg other))⟩
  case channel =>
    refine ⟨fun idle => refresh_done awake runs (.inl ⟨rfl, idle⟩), fun d plain safe limit =>
      refresh_done awake runs (.inr ⟨fun h => plain (Fin.ext h), safe, limit⟩), fun d busy room =>
      refresh_postponed awake runs (busy.imp_left fun h h' => h (Fin.ext h')) room, fun d safe limit =>
      refresh_limit awake runs (safe.imp_left fun h => congrArg Fin.val h) limit, fun r0 r1 n0 n1 => ?_, fun r0 r1 over0 n1 => ?_,
      fun r0 r1 => mr4Poll_ranks awake runs r0 r1, fun r0 r1 on => ⟨fun idle => ?_, fun busy => ?_, ?_⟩,
      fun idle r0 r1 off => telemetry_off awake idle r0 r1 off, fun off => powerDown_rest awake (.inl off), fun busy => powerDown_rest awake (.inr busy),
      fun on idle => ?_, fun off e => ⟨?_, scrubRead_rest awake (.inl off)⟩, fun on => ?_, fun e rest => scrubRead_rest awake (.inr rest),
      fun e p on some' idle rank => ⟨fun inside => ?_, fun last => ?_⟩, fun r v => ?_⟩
    · rw [mr4Poll_ranks awake runs, Chip.mr4Rank, Chip.mr4Rank]
      exact next_congr ((if_neg n1).trans (congrArg (fun y : Chip => y.setMc _) (if_neg n0)))
    · rw [mr4Poll_ranks awake runs, Chip.mr4Rank, Chip.mr4Rank, over0]
      exact next_congr ((if_neg n1).trans (congrArg (fun y : Chip => y.setMc _) (if_pos rfl)))
    · rw [telemetry_on awake runs _ _ _ on, if_pos (by rw [idle]; rfl)]
    · rw [telemetry_on awake runs _ _ _ on, if_neg (by rw [busy]; decide)]
    · rw [telemetry_on awake runs _ _ _ on, Bool.false_and, if_neg (by decide)]
    · show execChannelPowerDown c k s = _
      rw [execChannelPowerDown, act, if_neg (by simp [on, idle, runs])]
    · show execScrubDeadline c k s = _
      rw [execScrubDeadline, act, if_pos off, setChip_self]
    · show execScrubDeadline c k s = _
      rw [execScrubDeadline, act, if_neg on]
    · rw [scrubRead_line awake runs on some' idle rank, Chip.scrubNext]
      exact congrArg (fun y => Host.Outcome.next (logRanks c s (s.setChip c y))) (if_pos inside)
    · rw [scrubRead_line awake runs on some' idle rank, Chip.scrubNext]
      exact congrArg (fun y => Host.Outcome.next (logRanks c s (s.setChip c y))) (if_neg (Nat.not_lt.mpr last))
    · exact onMem_awake awake _
  case retrain =>
    have due := retrainDue_counts awake runs r
    refine ⟨fun idle => (due true).trans ?_, fun busy => (due true).trans ?_, (due false).trans ?_, fun few => ?_, fun many => ?_⟩
    · rw [idle]
      rfl
    · rw [busy]
      rfl
    · rfl
    · show execRetrainForced c r s = _
      rw [execRetrainForced, act, if_neg (fun h => absurd h.1 (Nat.not_le.mpr few)), setChip_self]
    · show execRetrainForced c r s = _
      rw [execRetrainForced, act, if_pos ⟨many, runs⟩]
  · rw [migrationGo_runs awake power, Chip.migrationGo]
    exact congrArg (fun y => Host.Outcome.next (logRanks c s (s.setChip c y))) (if_pos bad)
  · rw [migrationGo_runs awake power, Chip.migrationGo]
    refine congrArg (fun y => Host.Outcome.next (logRanks c s (s.setChip c y))) (if_neg ?_)
    rw [free]
    exact not_or.mpr ⟨Classical.not_not.mpr active, by decide⟩
  · show execMigrationGo c s = _
    rw [execMigrationGo, onMem_awake awake, Chip.whenPowered, if_pos dozing]
  case copy =>
    have run : exec (.migrationCopyLine c e) s = _ := onMem_awake awake _
    rw [run]
    dsimp only
    rw [if_neg (by simp [on, src, dst, runs])]
    exact ⟨fun more => congrArg (fun y => Host.Outcome.next (logRanks c s (s.setChip c y))) (if_neg more),
      fun last => congrArg (fun y => Host.Outcome.next (logRanks c s (s.setChip c y))) (if_pos last)⟩
  · exact act _

end Sys2Proof.Machine
end

section
/-! SUPPORT. Clocks, crossings, pace and board time (R75 to R95, R181 to R184). -/

namespace Sys2Proof.Machine

open Sys2Proof

section
variable {s : State} {c : ChipId} (awake : Awake s c)
include awake

/-! ### Clocks and crossings -/

theorem clockWake_rest {d : Fin 28} (rest : ((s.chip c).wakeAsked d.val && !(s.chip c).clkRuns d.val && (s.chip c).pwr != pwrDoze) = false) :
    exec (.clockWake c d) s = .next s := by
  show execClockWake c d s = _
  rw [execClockWake, onChip_awake awake, rest, if_neg (by decide), setChip_self]

theorem clockWake_runs {d : Fin 28} (asked : (s.chip c).wakeAsked d.val = true) (stopped : (s.chip c).clkRuns d.val = false)
    (power : (s.chip c).pwr ≠ pwrDoze) :
    exec (.clockWake c d) s = .next (s.setChip c (if d.val < 16 then ((s.chip c).setClk d.val true).setFlag (F.MEM_CH_STAT_PD_LIVE d.val) false
      else (s.chip c).setClk d.val true)) := by
  show execClockWake c d s = _
  rw [execClockWake, onChip_awake awake]
  exact next_congr (if_pos (by simp [asked, stopped, power]))

theorem stallTimeout_rest {src dst : Fin 512} (rest : ((s.chip c).stallable dst.val && !(s.chip c).clkRuns (dst.val - 256) &&
    (dst.val != pcieDomain || !((s.chip c).xing src.val dst.val).held.isEmpty)) = false) :
    exec (.crossingStallTimeout c src dst) s = .next s := by
  show execCrossingStallTimeout c src dst s = _
  rw [execCrossingStallTimeout, onChip_awake awake]
  dsimp only
  rw [rest, if_neg (by decide), setChip_self]

/-! ### Pace -/

theorem paceMeasure_none {temps : List (BitVec 16)} {tj : BitVec 16}
    (none : argMin (fun (e : Nat × Nat) => e.1) (((temps.take 13).map fun t => (s.chip c).replica t.toInt).zipIdx) = none) :
    exec (.paceMeasure c temps tj) s = .next s := by
  show execPaceMeasure c temps tj s = _
  rw [execPaceMeasure, onChip_awake awake]
  rw [none, setChip_self]

/-- The voltage that the pace loop asks for (R181). -/
def Chip.paceStep (ch : Chip) : Nat :=
  let m := ch.rd F.PWR_PACE_MEAS_MEAS
  let t := ch.rd F.PWR_PACE_TARGET_TARGET
  let v := ch.rd F.PWR_VCORE_MV
  if m + 8 < t ∧ v < 850 then v + 5 else if t + 24 < m ∧ 650 < v then v - 5 else v

/-- The periods at the ceiling, with a voltage of `v`. -/
def Chip.paceCeil (ch : Chip) (v : Nat) : Nat :=
  if v = 850 ∧ ch.rd F.PWR_PACE_MEAS_MEAS < ch.rd F.PWR_PACE_TARGET_TARGET then ch.ceil + 1 else 0

/-- The chip at a voltage of `v` after `n` periods at the ceiling. -/
def Chip.pacedAt (ch : Chip) (v n : Nat) : Chip := (({ ch with ceil := n } : Chip).wr F.PWR_VCORE_MV v).paceSync

theorem paceLoop_runs (on : (s.chip c).paceRuns = true) :
    exec (.paceLoopStep c) s = .next (s.setChip c
      (let v := (s.chip c).paceStep
       let n := (s.chip c).paceCeil v
       let y := (s.chip c).pacedAt v n
       if n = 100 then ((y.setFlag F.PWR_PACE_STAT_CEIL_SEEN true).wr F.PWR_THERM_CAP
         (min (y.rd F.PWR_THERM_CAP) (8 * ((s.chip c).rd F.PWR_PACE_MEAS_MEAS / 8)))).raise 22 (source 280 4) v
       else y)) := by
  show execPaceLoopStep c s = _
  rw [execPaceLoopStep, onChip_awake awake, on, if_neg (by decide)]
  rfl

/-- Below the ceiling the loop sets the voltage and no more. -/
theorem paceLoop_below {v : Nat} (on : (s.chip c).paceRuns = true) (step : (s.chip c).paceStep = v) (below : (s.chip c).paceCeil v = 0) :
    exec (.paceLoopStep c) s = .next (s.setChip c ((s.chip c).pacedAt v 0)) := by
  rw [paceLoop_runs awake on]
  dsimp only
  rw [step, below, if_neg (by decide)]

end

/-- Settles O45. -/
theorem clocksAndTime : Obligations.ClocksAndTime := by
  unfold Obligations.ClocksAndTime
  intro s c awake
  have act := fun f => onChip_awake awake f
  dsimp only
  refine ⟨fun d => ⟨fun asked stopped power => ⟨fun high => ?_, fun channel => ?_⟩, fun unasked => clockWake_rest awake ?_,
      fun fixed => clockWake_rest awake ?_, fun running => clockWake_rest awake ?_, fun dozing => clockWake_rest awake ?_⟩,
    fun src dst => ⟨fun able stopped other => ?_, fun pcie empty => stallTimeout_rest awake ?_, fun unable => stallTimeout_rest awake ?_,
      fun running => stallTimeout_rest awake ?_, fun n => ?_, ?_⟩,
    fun p => ⟨act _, act _, fun same => ?_, fun edge => ?_⟩, fun temps tj => ⟨paceMeasure_none awake, fun m on low => ?_⟩,
    fun off temps tj => ⟨?_, ?_⟩, fun on => ⟨⟨fun below => ?_, fun ceiling => ?_⟩, fun slow room => ?_, fun fast room => ?_, fun low high => ?_⟩,
    ⟨fun unset => ?_, fun set => act _⟩, fun run => ?_, fun other => ?_⟩
  · rw [clockWake_runs awake asked stopped power, if_neg (Nat.not_lt.mpr high)]
  · rw [clockWake_runs awake asked stopped power, if_pos channel]
  · rw [unasked]
    rfl
  · rw [Chip.wakeAsked, fixed]
    rfl
  · rw [running]
    simp
  · rw [dozing]
    simp
  · show execCrossingStallTimeout c src dst s = _
    rw [execCrossingStallTimeout, act]
    exact next_congr (if_pos (by simpa [able, stopped] using other))
  · rw [empty, pcie]
    simp
  · rw [unable]
    rfl
  · rw [running]
    simp
  · exact act _
  · exact act _
  · show execSenFsyncEdge c p s = _
    rw [execSenFsyncEdge, act]
    exact next_stay (if_pos same)
  · show execSenFsyncEdge c p s = _
    rw [execSenFsyncEdge, act]
    exact next_congr (if_neg edge)
  · show execPaceMeasure c temps tj s = _
    rw [execPaceMeasure, act]
    rw [low]
    exact next_congr (if_pos on)
  · show execPaceMeasure c temps tj s = _
    rw [execPaceMeasure, act]
    simp only [off, Bool.false_eq_true, if_false]
    cases argMin (fun (e : Nat × Nat) => e.1) (((temps.take 13).map fun t => (s.chip c).replica t.toInt).zipIdx) <;> exact next_stay rfl
  · show execPaceLoopStep c s = _
    rw [execPaceLoopStep, act, off, if_pos rfl, setChip_self]
  · rw [paceLoop_runs awake on]
    exact next_congr (if_neg below)
  · rw [paceLoop_runs awake on]
    exact next_congr (if_pos ceiling)
  · refine paceLoop_below awake on ?_ ?_
    · exact if_pos ⟨slow, by omega⟩
    · exact if_neg fun h => by omega
  · refine paceLoop_below awake on ?_ ?_
    · exact (if_neg fun h => by omega).trans (if_pos ⟨fast, room⟩)
    · exact if_neg fun h => by omega
  · refine paceLoop_below awake on ?_ ?_
    · exact (if_neg fun h => by omega).trans (if_neg fun h => by omega)
    · exact if_neg fun h => by omega
  · show execBoardSyncEdge c s = _
    rw [execBoardSyncEdge, act, Chip.syncEdge]
    exact next_congr (if_pos unset)
  · show execSyncLossTimeout c s = _
    rw [execSyncLossTimeout, act, if_pos run]
  · show execSyncLossTimeout c s = _
    rw [execSyncLossTimeout, act, if_neg other, setChip_self]

end Sys2Proof.Machine
end

section
/-! SUPPORT. The fault unit (R593 to R615). -/

namespace Sys2Proof.Machine

open Sys2Proof

/-! ### Events -/

theorem audioEcc_faultQ (ch : Chip) (row src : Nat) : (ch.audioEcc row src).faultQ = ch.faultQ := by
  rw [Chip.audioEcc]
  split
  · rfl
  · split <;> rfl

theorem audioEcc_now (ch : Chip) (row src : Nat) : (ch.audioEcc row src).now = ch.now := by
  rw [Chip.audioEcc]
  split
  · rfl
  · split <;> rfl

theorem logHalt_self (c : ChipId) (s : State) : logHalt c s s = s := by
  rw [logHalt]
  exact if_pos (Bool.or_not_self _)

/-- The collector takes the oldest event of a chip. -/
def Chip.faultNext (ch : Chip) : Chip :=
  match ch.faultQ with
  | [] => ch
  | e :: rest => ({ ch with faultQ := rest } : Chip).takeFault e

theorem faultNext_nil {ch : Chip} (empty : ch.faultQ = []) : ch.faultNext = ch := by
  rw [Chip.faultNext, empty]

theorem faultNext_cons {ch : Chip} {e : FaultEv} {rest : List FaultEv} (queue : ch.faultQ = e :: rest) :
    ch.faultNext = (({ ch with faultQ := rest } : Chip).collect e).2.react (({ ch with faultQ := rest } : Chip).collect e).1 e := by
  rw [Chip.faultNext, queue]
  rfl

/-- An event that is raised on an empty queue is the next one. -/
theorem faultNext_raise {ch : Chip} (empty : ch.faultQ = []) (row src detail : Nat) :
    (ch.raise row src detail).faultNext =
      (ch.collect ⟨row, src, detail, ch.now⟩).2.react (ch.collect ⟨row, src, detail, ch.now⟩).1 ⟨row, src, detail, ch.now⟩ := by
  have queue : (ch.raise row src detail).faultQ = [⟨row, src, detail, ch.now⟩] := by rw [Chip.raise]; dsimp only; rw [empty]; rfl
  have popped : ({ ch.raise row src detail with faultQ := [] } : Chip) = ch := by rw [Chip.raise, ← empty]
  rw [faultNext_cons queue, popped]

theorem faultNext_raise_behind {ch : Chip} {e0 : FaultEv} {rest : List FaultEv} (queue : ch.faultQ = e0 :: rest) (row src detail : Nat) :
    (ch.raise row src detail).faultNext =
      (({ ch with faultQ := rest ++ [⟨row, src, detail, ch.now⟩] } : Chip).collect e0).2.react
        (({ ch with faultQ := rest ++ [⟨row, src, detail, ch.now⟩] } : Chip).collect e0).1 e0 := by
  have behind : (ch.raise row src detail).faultQ = e0 :: (rest ++ [⟨row, src, detail, ch.now⟩]) := by
    rw [Chip.raise]; dsimp only; rw [queue]; rfl
  rw [faultNext_cons behind]
  rfl

section
variable {s : State} {c : ChipId} (awake : Awake s c)
include awake

theorem faultEvent_none : exec (.faultEvent c none) s = .next (logHalt c s (s.setChip c (s.chip c).faultNext)) := by
  show execFaultEvent c none s = _
  rw [execFaultEvent, inReset_false awake, if_neg Bool.false_ne_true, modChip_eq]
  rfl

theorem faultEvent_unreal {f : FaultIn} (unreal : f.row.val = 0 ∨ srcReal f.source.toNat = false) :
    exec (.faultEvent c (some f)) s = .next (logHalt c s (s.setChip c (s.chip c).faultNext)) := by
  show execFaultEvent c (some f) s = _
  rw [execFaultEvent, inReset_false awake, if_neg Bool.false_ne_true, modChip_eq]
  dsimp only
  rw [if_pos unreal]
  rfl

theorem faultEvent_real {f : FaultIn} (row : f.row.val ≠ 0) (real : srcReal f.source.toNat = true) :
    exec (.faultEvent c (some f)) s = .next (logHalt c s (s.setChip c
      (((s.chip c).audioEcc f.row.val f.source.toNat).raise f.row.val f.source.toNat f.detail.toNat).faultNext)) := by
  show execFaultEvent c (some f) s = _
  rw [execFaultEvent, inReset_false awake, if_neg Bool.false_ne_true, modChip_eq]
  dsimp only
  rw [if_neg (not_or.mpr ⟨row, by rw [real]; decide⟩)]
  rfl

/-! ### The Steward's watchdog and self-tests -/

theorem watchdogExpiry_rest (rest : (s.chip c).flag F.HIF_STATUS_READY = false ∨ (s.chip c).pwr = pwrDoze ∨
    (s.chip c).now < (s.chip c).fcu.kicked + (s.chip c).rd F.FCU_WDOG_PERIOD * 1000000) :
    exec (.stewardWatchdogExpiry c) s = .next s := by
  show execStewardWatchdogExpiry c s = _
  rw [execStewardWatchdogExpiry, onChip_awake awake, if_neg ?_, setChip_self]
  rintro ⟨ready, power, due⟩
  rcases rest with h | h | h
  · exact absurd (ready.symm.trans h) (by decide)
  · exact power h
  · exact absurd due (Nat.not_le.mpr h)

theorem selftest_unready (unready : (s.chip c).flag F.HIF_STATUS_READY = false) (ok : Bool) : exec (.lockstepSelftest c ok) s = .next s := by
  show execLockstepSelftest c ok s = _
  rw [execLockstepSelftest, onChip_awake awake, unready, if_neg Bool.false_ne_true, setChip_self]

theorem selftest_ready (ready : (s.chip c).flag F.HIF_STATUS_READY = true) (ok : Bool) :
    exec (.lockstepSelftest c ok) s = .next (s.setChip c (if ok then { s.chip c with
        fab := { (s.chip c).fab with steward := { (s.chip c).fab.steward with selftest := (s.chip c).fab.steward.selftest + 1 } } }
      else (s.chip c).raise 27 (source 229 0) (s.chip c).fab.steward.core.pc)) := by
  show execLockstepSelftest c ok s = _
  rw [execLockstepSelftest, onChip_awake awake, if_pos ready]

end

theorem ackRec_bad {ch : Chip} {i : Nat} (bad : 256 ≤ i ∨ ch.rd (F.FCU_REC_STAT_CLASS i) = 0 ∨ ch.flag (F.FCU_REC_STAT_SEEN i) = false) :
    ch.ackRec i = none :=
  if_pos bad

/-- Settles O46. -/
theorem faultCommands : Obligations.FaultCommands := by
  unfold Obligations.FaultCommands
  intro s c awake
  have act := fun f => onChip_awake awake f
  dsimp only
  refine ⟨fun empty => ?_, fun e rest queue => ?_, fun f unreal empty => ?_, fun f row real => ⟨fun empty => ?_, fun e0 rest queue => ?_⟩,
    fun i here => ⟨fun bad => ?_, fun legal used seen => ?_⟩, fun i => ⟨fun rest => ?_, fun used gone => ⟨fun seen => ?_, fun told => ?_⟩⟩,
    act _, act _, fun ready power due => ?_, watchdogExpiry_rest awake, fun ready => ?_, fun ready => ?_, selftest_unready awake,
    fun open' low high real => ?_, fun bad => ?_⟩
  · rw [faultEvent_none awake, faultNext_nil empty, setChip_self, logHalt_self]
  · rw [faultEvent_none awake, faultNext_cons queue]
  · rw [faultEvent_unreal awake unreal, faultNext_nil empty, setChip_self, logHalt_self]
  · rw [faultEvent_real awake row real, faultNext_raise (by rw [audioEcc_faultQ]; exact empty), audioEcc_now]
  · rw [faultEvent_real awake row real, faultNext_raise_behind (by rw [audioEcc_faultQ]; exact queue), audioEcc_now]
  · show execFcuAckGo c s = _
    rw [execFcuAckGo, act, Chip.fcuAckGo, ← here, ackRec_bad bad]
  · show execFcuAckGo c s = _
    rw [execFcuAckGo, act, Chip.fcuAckGo, ← here, Chip.ackRec, if_neg (by simp [used, seen, legal])]
  · show execFaultLiveClear c i s = _
    rw [execFaultLiveClear, act, if_pos rest, setChip_self]
  · show execFaultLiveClear c i s = _
    rw [execFaultLiveClear, act, if_neg (by simp [used, gone]), if_pos seen]
  · show execFaultLiveClear c i s = _
    rw [execFaultLiveClear, act, if_neg (by simp [used, gone]), told, if_neg Bool.false_ne_true]
  · show execStewardWatchdogExpiry c s = _
    rw [execStewardWatchdogExpiry, act, if_pos ⟨ready, power, due⟩]
  · rw [selftest_ready awake ready, if_neg Bool.false_ne_true]
  · rw [selftest_ready awake ready, if_pos rfl]
  · show execFaultInject c s = _
    rw [execFaultInject, act, Chip.faultInject]
    exact next_congr (if_pos ⟨open', low, high, real⟩)
  · show execFaultInject c s = _
    rw [execFaultInject, act, Chip.faultInject]
    refine next_stay (if_neg ?_)
    rintro ⟨open', low, high, real⟩
    rcases bad with h | h | h | h
    · exact absurd (open'.symm.trans h) (by decide)
    · omega
    · omega
    · exact absurd (real.symm.trans h) (by decide)

end Sys2Proof.Machine
end

section
/-! SUPPORT. Flits that arrive over a Trail link (R543 to R555). -/

namespace Sys2Proof.Machine

open Sys2Proof

/-! ### How a link takes a flit -/

/-- The chip with the flit accepted on the link. -/
def Chip.flitTaken (ch : Chip) (l : Nat) (h : FlitHdr) : Chip :=
  (((ch.setLink l { ch.link l with expected := ((ch.link l).expected + 1) % 256, nak := false }).count64 (F.TRL_FLITS_COUNT l)
    (F.TRL_STAT_WRAP l) 0 (F.TRL_WRAP_COUNT l) (F.TRL_STAT_WRAP_OVF l) 0 1).gotAck l h.ack.toNat h.nak).gotCredits l h.cpool.val h.cred.val

/-- How far a flit is ahead of the one the link expects. -/
def Chip.flitAhead (ch : Chip) (l : Nat) (h : FlitHdr) : Nat := (h.seq.toNat + 256 - (ch.link l).expected) % 256

section
variable {ch : Chip} {l : Nat} {h : FlitHdr}

theorem receive_down (down : ch.trlState l ≠ trlUp) : ch.receive l h = (false, ch) := by
  rw [Chip.receive]
  exact if_pos down

theorem receive_taken (up : ch.trlState l = trlUp) (next : ch.flitAhead l h = 0) : ch.receive l h = (true, ch.flitTaken l h) := by
  rw [Chip.receive]
  exact (if_neg (Classical.not_not.mpr up)).trans (if_pos next)

theorem receive_ahead (up : ch.trlState l = trlUp) (skip : ch.flitAhead l h ≠ 0) (near : ch.flitAhead l h < 128) :
    ch.receive l h = (false, ch.setLink l { ch.link l with nak := true }) := by
  rw [Chip.receive]
  exact (if_neg (Classical.not_not.mpr up)).trans ((if_neg skip).trans (if_pos near))

theorem receive_behind (up : ch.trlState l = trlUp) (behind : 128 ≤ ch.flitAhead l h) : ch.receive l h = (false, ch) := by
  have skip : ch.flitAhead l h ≠ 0 := fun h => by omega
  rw [Chip.receive]
  exact (if_neg (Classical.not_not.mpr up)).trans ((if_neg skip).trans (if_neg (Nat.not_lt.mpr behind)))

variable {pl : List Byte} {vc kind : Nat}

theorem arrive_untaken {y : Chip} (untaken : ch.receive l h = (false, y)) : ch.arrive l h pl vc kind = (none, y) := by
  rw [Chip.arrive, untaken]

theorem arrive_here (up : ch.trlState l = trlUp) (next : ch.flitAhead l h = 0) (here : h.dest = (ch.flitTaken l h).pos) :
    ch.arrive l h pl vc kind = (some (padTo 56 pl), (ch.flitTaken l h).freeFlit l (2 * vc + bnat h.hop)) := by
  rw [Chip.arrive, receive_taken up next]
  exact if_pos (congrArg Fin.val here)

theorem arrive_hopped (up : ch.trlState l = trlUp) (next : ch.flitAhead l h = 0) (away : h.dest ≠ (ch.flitTaken l h).pos)
    (hop : h.hop = true) : ch.arrive l h pl vc kind = (none, ((ch.flitTaken l h).freeFlit l (2 * vc + 1)).trailDrop l 1) := by
  rw [Chip.arrive, receive_taken up next]
  exact (if_neg fun e => away (Fin.ext e)).trans (if_pos hop)

theorem arrive_relayed (up : ch.trlState l = trlUp) (next : ch.flitAhead l h = 0) (away : h.dest ≠ (ch.flitTaken l h).pos)
    (first : h.hop = false) : ch.arrive l h pl vc kind = (none, (ch.flitTaken l h).relay l ⟨vc, kind, h, padTo 56 pl⟩) := by
  rw [Chip.arrive, receive_taken up next]
  exact (if_neg fun e => away (Fin.ext e)).trans (if_neg (by rw [first]; decide))

end

/-- Each row runs the arrival of a flit of its virtual channel and KIND. -/
theorem flitRows_run {s : State} {c : ChipId} {l : Fin 2} {h : FlitHdr} {pl : List Byte} {r : Nat × Nat × Instr}
    (row : r ∈ [(0, 1, Instr.trailTokens c l h pl), (0, 2, .trailClose c l h pl), (1, 1, .trailRead c l h pl),
      (1, 2, .trailWrite c l h pl), (1, 3, .trailAtomic c l h pl), (2, 1, .trailData c l h pl), (2, 2, .wack c l h pl),
      (2, 3, .ares c l h pl), (3, 1, .trailTime c l h pl), (3, 2, .links c l h pl), (3, 5, .mark c l h pl),
      (3, 6, .markAck c l h pl), (3, 7, .sleep c l h pl)]) : ∃ act, exec r.2.2 s = onFlit s c l h pl r.1 r.2.1 act := by
  simp only [List.mem_cons, List.not_mem_nil, or_false] at row
  rcases row with rfl | rfl | rfl | rfl | rfl | rfl | rfl | rfl | rfl | rfl | rfl | rfl | rfl <;> exact ⟨_, rfl⟩

theorem trailIdle_run {s : State} {c : ChipId} {l : Fin 2} {h : FlitHdr} {pl : List Byte} {b : Bool} {y : Chip} (awake : Awake s c)
    (got : (s.chip c).receive l.val h = (b, y)) : exec (.trailIdle c l h pl) s = .next (s.setChip c y) := by
  show execTrailIdle c l h pl s = _
  rw [execTrailIdle, onChip_awake awake, got]

/-! ### What a flit does where it is delivered -/

section
variable {s : State} {c : ChipId} {l : Fin 2} {h : FlitHdr} {pl p : List Byte} {x : Chip} (awake : Awake s c)
include awake

section
variable (here : (s.chip c).arrive l.val h pl 1 1 = (some p, x))
include here

theorem trailRead_bad (bad : x.descAddr none (fieldAt p 8 8) (fieldAt p 4 2) = none) : exec (.trailRead c l h pl) s =
    .next (s.setChip c (x.sendFlit (fieldAt p 7 1 % 4) 2 1 (respPayload false (fieldAt p 2 2) 0 0 1 []))) := by
  show execTrailRead c l h pl s = _
  rw [execTrailRead, onFlit_here awake _ here]
  dsimp only
  rw [bad]
  rfl

theorem trailRead_good {a : Nat} (good : x.descAddr none (fieldAt p 8 8) (fieldAt p 4 2) = some a) : exec (.trailRead c l h pl) s =
    .next (s.setChip c ((List.range ((fieldAt p 4 2 + 47) / 48)).foldl (fun (x : Chip) i =>
      let n := min 48 (fieldAt p 4 2 - 48 * i)
      x.sendFlit (fieldAt p 7 1 % 4) 2 1
        (respPayload (x.anyPoison (a + 48 * i) n) (fieldAt p 2 2) (48 * i) n 0 (x.bytes (a + 48 * i) n))) x)) := by
  show execTrailRead c l h pl s = _
  rw [execTrailRead, onFlit_here awake _ here]
  dsimp only
  rw [good]

end

section
variable (here : (s.chip c).arrive l.val h pl 1 2 = (some p, x))
include here

/-- What a write comes to, stored as `y`, where `bad` tells of a write of its TAG that was out of range (R555). -/
def Chip.writeDone (y : Chip) (p : List Byte) (bad : Bool) : Chip :=
  let src := fieldAt p 7 1 % 4
  let tag := fieldAt p 2 2
  let rest := y.trail.badWrites.filter fun e => e != (src, tag)
  if bit (fieldAt p 1 1) 1 then
    (y.setTrail fun t => { t with badWrites := rest }).sendFlit src 2 2 (respPayload false tag 0 0 (if bad then 1 else 0) [])
  else if bad then y.setTrail fun t => { t with badWrites := rest ++ [(src, tag)] }
  else y

theorem trailWrite_good {a : Nat} (good : x.descAddr none (fieldAt p 8 8) (min 40 (fieldAt p 4 2)) = some a) :
    exec (.trailWrite c l h pl) s = .next (s.setChip c
      ((x.store a ((p.drop 16).take (min 40 (fieldAt p 4 2))) (bit (fieldAt p 1 1) 0)).writeDone p
        (x.trail.badWrites.contains (fieldAt p 7 1 % 4, fieldAt p 2 2)))) := by
  show execTrailWrite c l h pl s = _
  rw [execTrailWrite, onFlit_here awake _ here]
  dsimp only
  rw [good]
  rfl

theorem trailWrite_bad (bad : x.descAddr none (fieldAt p 8 8) (min 40 (fieldAt p 4 2)) = none) :
    exec (.trailWrite c l h pl) s = .next (s.setChip c (x.writeDone p true)) := by
  show execTrailWrite c l h pl s = _
  rw [execTrailWrite, onFlit_here awake _ here]
  dsimp only
  rw [bad]
  rfl

end

section
variable (here : (s.chip c).arrive l.val h pl 1 3 = (some p, x))
include here

theorem trailAtomic_none (bad : x.descAddr none (fieldAt p 8 8) 8 = none) : exec (.trailAtomic c l h pl) s =
    .next (s.setChip c (x.sendFlit (fieldAt p 7 1 % 4) 2 3 (respPayload false (fieldAt p 2 2) 0 0 1 []))) := by
  show execTrailAtomic c l h pl s = _
  rw [execTrailAtomic, onFlit_here awake _ here]
  dsimp only
  rw [bad]
  rfl

theorem trailAtomic_bad {a : Nat} (found : x.descAddr none (fieldAt p 8 8) 8 = some a) (bad : a % 8 ≠ 0 ∨ 8 < fieldAt p 6 1) :
    exec (.trailAtomic c l h pl) s =
      .next (s.setChip c (x.sendFlit (fieldAt p 7 1 % 4) 2 3 (respPayload false (fieldAt p 2 2) 0 0 1 []))) := by
  show execTrailAtomic c l h pl s = _
  rw [execTrailAtomic, onFlit_here awake _ here]
  dsimp only
  rw [found]
  exact next_congr (if_neg fun h => bad.elim (fun g => g h.1) fun g => absurd h.2 (Nat.not_le.mpr g))

theorem trailAtomic_good {a : Nat} (found : x.descAddr none (fieldAt p 8 8) 8 = some a) (aligned : a % 8 = 0) (op : fieldAt p 6 1 ≤ 8) :
    exec (.trailAtomic c l h pl) s = .next (s.setChip c
      (let r := x.latchOp a (fieldAt p 6 1) (BitVec.ofNat 64 (fieldAt p 16 8)) (BitVec.ofNat 64 (fieldAt p 24 8)) (bit (fieldAt p 1 1) 0)
       r.2.2.sendFlit (fieldAt p 7 1 % 4) 2 3 (respPayload r.2.1 (fieldAt p 2 2) 0 8 0 (toLe 8 r.1.toNat)))) := by
  show execTrailAtomic c l h pl s = _
  rw [execTrailAtomic, onFlit_here awake _ here]
  dsimp only
  rw [found]
  exact next_congr (if_pos ⟨aligned, op⟩)

end

section
variable (here : (s.chip c).arrive l.val h pl 2 1 = (some p, x))
include here

theorem trailData_none (unasked : x.dmaReq (fieldAt p 2 2) = none) : exec (.trailData c l h pl) s = .next (s.setChip c x) := by
  show execTrailData c l h pl s = _
  rw [execTrailData, onFlit_here awake _ here]
  dsimp only
  rw [unasked]

theorem trailData_some {r : DmaReq} (asked : x.dmaReq (fieldAt p 2 2) = some r) :
    exec (.trailData c l h pl) s = .next (s.setChip c (if fieldAt p 7 1 = 1 then x.dmaAnswer (fieldAt p 2 2) 0 true false
      else (x.store (r.dst + fieldAt p 4 2) ((p.drop 8).take (min 48 (fieldAt p 6 1))) (bit (fieldAt p 1 1) 0)).dmaAnswer (fieldAt p 2 2)
        (min 48 (fieldAt p 6 1)) false (bit (fieldAt p 1 1) 0))) := by
  show execTrailData c l h pl s = _
  rw [execTrailData, onFlit_here awake _ here]
  dsimp only
  rw [asked]
  rfl

end

section
variable (here : (s.chip c).arrive l.val h pl 2 2 = (some p, x))
include here

theorem wack_none (unasked : x.dmaReq (fieldAt p 2 2) = none) : exec (.wack c l h pl) s = .next (s.setChip c x) := by
  show execWack c l h pl s = _
  rw [execWack, onFlit_here awake _ here]
  dsimp only
  rw [unasked]

theorem wack_some {r : DmaReq} (asked : x.dmaReq (fieldAt p 2 2) = some r) :
    exec (.wack c l h pl) s = .next (s.setChip c (x.dmaAnswer (fieldAt p 2 2) r.left (fieldAt p 7 1 == 1) false)) := by
  show execWack c l h pl s = _
  rw [execWack, onFlit_here awake _ here]
  dsimp only
  rw [asked]
  rfl

end

section
variable (here : (s.chip c).arrive l.val h pl 2 3 = (some p, x))
include here

theorem ares_none (unasked : x.dmaReq (fieldAt p 2 2) = none) : exec (.ares c l h pl) s = .next (s.setChip c x) := by
  show execAres c l h pl s = _
  rw [execAres, onFlit_here awake _ here]
  dsimp only
  rw [unasked]

theorem ares_some {r : DmaReq} (asked : x.dmaReq (fieldAt p 2 2) = some r) :
    exec (.ares c l h pl) s = .next (s.setChip c (if fieldAt p 7 1 = 1 then x.dmaAnswer (fieldAt p 2 2) 0 true false
      else (x.store r.dst ((p.drop 8).take 8) (bit (fieldAt p 1 1) 0)).dmaAnswer (fieldAt p 2 2) r.left false (bit (fieldAt p 1 1) 0))) := by
  show execAres c l h pl s = _
  rw [execAres, onFlit_here awake _ here]
  dsimp only
  rw [asked]
  rfl

end

theorem markAck_run (here : (s.chip c).arrive l.val h pl 3 6 = (some p, x)) :
    exec (.markAck c l h pl) s = .next (s.setChip c (if fieldAt p 2 2 = x.trail.markSerial ∧ x.trail.marks.contains (fieldAt p 0 1) then
      let rest := x.trail.marks.filter fun v => v != fieldAt p 0 1
      (x.setTrail fun t => { t with marks := rest, detour := !rest.isEmpty }).routeSync
    else x)) :=
  onFlit_here awake _ here

end

/-- Settles O47. -/
theorem trailFlits : Obligations.TrailFlits := by
  unfold Obligations.TrailFlits
  intro s c l h pl awake
  dsimp only
  refine ⟨fun r row => ?rows, fun up next => trailIdle_run awake (receive_taken up next), fun untaken => ?idle,
    fun up skip near => trailIdle_run awake (receive_ahead up skip near), fun up next here => ?acts⟩
  case rows =>
    obtain ⟨act, run⟩ := flitRows_run (s := s) row
    rw [run]
    refine ⟨fun down => ?_, fun up => ⟨fun skip near => ?_, fun behind => ?_, fun next away hop => ?_, fun next away first => ?_⟩⟩
    · exact (onFlit_passes awake _ (arrive_untaken (receive_down down))).trans (next_stay rfl)
    · exact onFlit_passes awake _ (arrive_untaken (receive_ahead up skip near))
    · exact (onFlit_passes awake _ (arrive_untaken (receive_behind up behind))).trans (next_stay rfl)
    · exact onFlit_passes awake _ (arrive_hopped up next away hop)
    · exact onFlit_passes awake _ (arrive_relayed up next away first)
  case idle =>
    by_cases up : (s.chip c).trlState l.val = trlUp
    · exact (trailIdle_run awake (receive_behind up (untaken.resolve_left (Classical.not_not.mpr up)))).trans (next_stay rfl)
    · exact (trailIdle_run awake (receive_down up)).trans (next_stay rfl)
  case acts =>
    have run : ∀ vc kind act, onFlit s c l h pl vc kind act =
        .next (s.setChip c (act (((s.chip c).flitTaken l.val h).freeFlit l.val (2 * vc + bnat h.hop)) (padTo 56 pl))) :=
      fun vc kind act => onFlit_here awake act (arrive_here up next here)
    have got : ∀ vc kind, (s.chip c).arrive l.val h pl vc kind =
        (some (padTo 56 pl), ((s.chip c).flitTaken l.val h).freeFlit l.val (2 * vc + bnat h.hop)) := fun vc kind => arrive_here up next here
    refine ⟨run 0 1 _, run 0 2 _, trailRead_bad awake (got 1 1), fun a => trailRead_good awake (got 1 1),
      ⟨fun a good => ⟨fun last => ?_, fun more bad => ?_, fun more sound => ?_⟩, fun bad => ⟨fun last => ?_, fun more => ?_⟩⟩,
      fun a found aligned op => trailAtomic_good awake (got 1 3) found aligned op, fun a found bad => trailAtomic_bad awake (got 1 3) found bad,
      trailAtomic_none awake (got 1 3),
      fun none => ⟨trailData_none awake (got 2 1) none, wack_none awake (got 2 2) none, ares_none awake (got 2 3) none⟩,
      fun r req => ?answers, run 3 1 _, run 3 2 _, run 3 5 _, fun other => (markAck_run awake (got 3 6)).trans (next_congr ?_),
      fun other => (markAck_run awake (got 3 6)).trans (next_congr ?_),
      fun serial mark => (markAck_run awake (got 3 6)).trans (next_congr (if_pos ⟨serial, mark⟩)), run 3 7 _⟩
    · refine (trailWrite_good awake (got 1 2) good).trans (next_congr ?_)
      exact if_pos last
    · refine (trailWrite_good awake (got 1 2) good).trans (next_congr ?_)
      exact (if_neg (by rw [more]; decide)).trans (if_pos bad)
    · refine (trailWrite_good awake (got 1 2) good).trans (next_congr ?_)
      exact (if_neg (by rw [more]; decide)).trans (if_neg ((Bool.not_eq_true _).mpr sound))
    · refine (trailWrite_bad awake (got 1 2) bad).trans (next_congr ?_)
      exact if_pos last
    · refine (trailWrite_bad awake (got 1 2) bad).trans (next_congr ?_)
      exact (if_neg (by rw [more]; decide)).trans (if_pos rfl)
    case answers =>
      refine ⟨fun bad => ⟨(trailData_some awake (got 2 1) req).trans (next_congr (if_pos bad)),
          (ares_some awake (got 2 3) req).trans (next_congr (if_pos bad)), (wack_some awake (got 2 2) req).trans (next_congr ?_)⟩,
        fun good => ⟨(trailData_some awake (got 2 1) req).trans (next_congr (if_neg good)),
          (ares_some awake (got 2 3) req).trans (next_congr (if_neg good)), (wack_some awake (got 2 2) req).trans (next_congr ?_)⟩⟩
      · rw [bad]
        rfl
      · rw [beq_eq_false_iff_ne.mpr good]
        rfl
    · exact if_neg fun h => other h.1
    · exact if_neg fun h => absurd (h.2.symm.trans other) (by decide)

end Sys2Proof.Machine
end

section
/-! SUPPORT. The states of a Trail link: transmission, replay and training (R541 to R553, R561). -/

namespace Sys2Proof.Machine

open Sys2Proof

/-! ### Transmission -/

section
variable {ch : Chip} {l : Nat}

theorem transmit_down (down : ch.trlState l ≠ trlUp) : ch.transmit l = ch := by
  rw [Chip.transmit]
  exact if_pos down

variable (up : ch.trlState l = trlUp)
include up

theorem transmit_again {f : Flit} {rest : List Flit} (again : (ch.link l).resend = f :: rest) :
    ch.transmit l = (ch.setLink l { ch.link l with
      resend := rest, nakTime := if (ch.link l).nak then some ch.now else (ch.link l).nakTime }).emit
        (.flit l (flitWire { f with hdr := { f.hdr with ack := BitVec.ofNat 8 ((ch.link l).expected + 255), nak := (ch.link l).nak } })) := by
  rw [Chip.transmit]
  refine (if_neg (Classical.not_not.mpr up)).trans ?_
  simp only [again]

variable (fresh : (ch.link l).resend = [])
include fresh

theorem transmit_full (full : 128 ≤ (ch.link l).replay.length) : ch.transmit l = ch := by
  rw [Chip.transmit]
  refine (if_neg (Classical.not_not.mpr up)).trans ?_
  simp only [fresh]
  exact if_pos full

variable (room : (ch.link l).replay.length < 128)
include room

theorem transmit_idle (none : (ch.link l).choose = none) :
    ch.transmit l = (ch.setLink l { ch.link l with waited := [0, 0, 0, 0] }).launch l idleFlit := by
  rw [Chip.transmit]
  refine (if_neg (Classical.not_not.mpr up)).trans ?_
  simp only [fresh]
  refine (if_neg (Nat.not_le.mpr room)).trans ?_
  simp only [none]

/-- The link once the flit `f` of virtual channel `v` left its queue. -/
def Link.sent (k : Link) (v : Nat) (f : Flit) (q : List Flit) : Link :=
  { k with
    queues := updAt k.queues v fun _ => q
    credits := updAt k.credits (2 * v + bnat f.hdr.hop) (· - 1)
    waited := (List.range 4).map fun u => if u != v && (k.ready u).isSome then (k.waited[u]?).getD 0 + 1 else 0 }

theorem transmit_chosen {v : Nat} {f : Flit} {q : List Flit} (chosen : (ch.link l).choose = some v)
    (ready : (ch.link l).ready v = some (f, q)) :
    ch.transmit l = (let y := (ch.setLink l ((ch.link l).sent v f q)).launch l f
      if f.hdr.hop then y.freeFlit (1 - l) (2 * v) else y) := by
  rw [Chip.transmit]
  refine (if_neg (Classical.not_not.mpr up)).trans ?_
  simp only [fresh]
  refine (if_neg (Nat.not_le.mpr room)).trans ?_
  simp only [chosen, ready, Link.sent, fresh]

end

/-! ### Bad flits, replay and training -/

section
variable {s : State} {c : ChipId} {l : Fin 2} (live : Live s c)
include live

theorem badFlit_down (down : (s.chip c).trlState l.val ≠ trlUp) (b : BadFlit) : exec (.trailBadFlit c l b) s = .next s := by
  show execTrailBadFlit c l b s = _
  rw [execTrailBadFlit, onChip_awake live.1]
  exact next_stay (if_pos down)

theorem replayTimeout_rest (rest : (s.chip c).trlState l.val ≠ trlUp ∨ ((s.chip c).link l.val).replay = []) :
    exec (.replayTimeout c l) s = .next s := by
  show execReplayTimeout c l s = _
  rw [execReplayTimeout, onChip_awake live.1]
  exact next_stay (if_pos rest)

theorem replayTimeout_up (up : (s.chip c).trlState l.val = trlUp) (unacknowledged : ((s.chip c).link l.val).replay ≠ []) :
    exec (.replayTimeout c l) s = .next (s.setChip c
      (if 4 ≤ ((s.chip c).link l.val).resends then (s.chip c).retrain l.val else (s.chip c).resendAll l.val)) := by
  show execReplayTimeout c l s = _
  rw [execReplayTimeout, onChip_awake live.1]
  exact next_congr (if_neg (not_or.mpr ⟨Classical.not_not.mpr up, unacknowledged⟩))

theorem timeExchange_rest (rest : (s.chip c).rd F.TRL_GCFG_TIME_MS = 0 ∨ (s.chip c).trlState l.val ≠ trlUp) :
    exec (.timeExchangeSend c l) s = .next s := by
  show execTimeExchangeSend c l s = _
  rw [execTimeExchangeSend, onChip_awake live.1, if_pos rest, setChip_self]

variable (up : (s.chip c).trlState l.val = trlUp)
include up

theorem badFlit_sequence (q : BitVec 8) :
    exec (.trailBadFlit c l (.sequence q)) s = .next (s.setChip c
      (let d := (q.toNat + 256 - ((s.chip c).link l.val).expected) % 256
       if d = 0 ∨ 128 ≤ d then s.chip c else (s.chip c).setLink l.val { (s.chip c).link l.val with nak := true })) := by
  show execTrailBadFlit c l (.sequence q) s = _
  rw [execTrailBadFlit, onChip_awake live.1]
  exact next_congr (if_neg (Classical.not_not.mpr up))

theorem badFlit_listed {x : FlitHdr} {vc : Fin 4} {kind : Fin 8} (listed : kindListed vc.val kind.val = true) :
    exec (.trailBadFlit c l (.unlisted x vc kind)) s = .next s := by
  show execTrailBadFlit c l (.unlisted x vc kind) s = _
  rw [execTrailBadFlit, onChip_awake live.1]
  exact next_stay ((if_neg (Classical.not_not.mpr up)).trans (if_pos listed))

theorem badFlit_unlisted {x : FlitHdr} {vc : Fin 4} {kind : Fin 8} (unlisted : kindListed vc.val kind.val = false)
    (next : (s.chip c).flitAhead l.val x = 0) : exec (.trailBadFlit c l (.unlisted x vc kind)) s =
      .next (s.setChip c ((((s.chip c).flitTaken l.val x).freeFlit l.val (2 * vc.val + bnat x.hop)).trailDrop l.val 1)) := by
  show execTrailBadFlit c l (.unlisted x vc kind) s = _
  rw [execTrailBadFlit, onChip_awake live.1]
  refine next_congr ((if_neg (Classical.not_not.mpr up)).trans ((if_neg (by rw [unlisted]; decide)).trans ?_))
  rw [receive_taken up next]

end

theorem trained_rest {ch : Chip} {l : Nat} {lanes : BitVec 4} (resume : Bool) (exp : Nat)
    (rest : ch.training l = false ∨ (lanes ≠ 15 ∧ lanes ≠ 3 ∧ lanes ≠ 12)) : ch.trained l lanes.toNat resume exp = ch := by
  rw [Chip.trained]
  refine if_neg ?_
  rintro ⟨training, width⟩
  rcases rest with idle | ⟨n15, n3, n12⟩
  · exact absurd (training.symm.trans idle) (by decide)
  · rcases width with h | h | h
    · exact n15 (BitVec.eq_of_toNat_eq h)
    · exact n3 (BitVec.eq_of_toNat_eq h)
    · exact n12 (BitVec.eq_of_toNat_eq h)

/-- Settles O48. -/
theorem trailLinks : Obligations.TrailLinks := by
  unfold Obligations.TrailLinks
  intro s c l live
  have act := fun f => onChip_awake live.1 f
  have transmit : exec (.flitTransmit c l) s = .next (s.setChip c ((s.chip c).transmit l.val)) := act _
  have retrain : exec (.trailRetrain c l) s = .next (s.setChip c ((s.chip c).retrain l.val)) :=
    (act _).trans (next_congr (whenPowered_runs live.2 ..))
  dsimp only
  refine ⟨fun down b => ⟨badFlit_down live down b, transmit.trans (next_stay (transmit_down down)), replayTimeout_rest live (.inl down),
      timeExchange_rest live (.inr down)⟩, fun up => ⟨?crc, fun q => ⟨fun far => ?_, fun skip near => ?_⟩,
      fun x vc kind => ⟨badFlit_listed live up, badFlit_unlisted live up⟩,
      fun f rest again => transmit.trans (next_congr (transmit_again up again)), fun v f q fresh room chosen ready => ⟨fun first => ?_, fun hop => ?_⟩,
      fun fresh full => transmit.trans (next_stay (transmit_full up fresh full)),
      fun fresh room none => transmit.trans (next_congr (transmit_idle up fresh room none)), fun acked => replayTimeout_rest live (.inr acked),
      fun open' few => ?_, fun open' many => ?_, fun off => timeExchange_rest live (.inl off), fun on => ?_⟩, act _,
    fun lane lock errs => ⟨fun still => ?_, fun on => ⟨fun locked few => ?_, fun failed => ?_⟩⟩,
    fun up => retrain.trans (next_congr (if_pos up)), fun down => retrain.trans (next_stay (if_neg down)),
    fun lanes resume exp => ⟨fun idle => (act _).trans (next_stay (trained_rest resume _ (.inl idle))),
      fun n15 n3 n12 => (act _).trans (next_stay (trained_rest resume _ (.inr ⟨n15, n3, n12⟩))), act _⟩,
    fun n1 n3 => ?_, fun on => ⟨fun few => ?_, fun many => ?_⟩, fun up => ?_, fun down => ?_⟩
  case crc =>
    show execTrailBadFlit c l .crc s = _
    rw [execTrailBadFlit, act]
    exact next_congr (if_neg (Classical.not_not.mpr up))
  · exact (badFlit_sequence live up q).trans (next_stay (if_pos far))
  · exact (badFlit_sequence live up q).trans (next_congr (if_neg (not_or.mpr ⟨skip, Nat.not_le.mpr near⟩)))
  · rw [transmit, transmit_chosen up fresh room chosen ready]
    exact next_congr (if_neg (by rw [first]; decide))
  · rw [transmit, transmit_chosen up fresh room chosen ready]
    exact next_congr (if_pos hop)
  · exact (replayTimeout_up live up open').trans (next_congr (if_neg (Nat.not_le.mpr few)))
  · exact (replayTimeout_up live up open').trans (next_congr (if_pos many))
  · show execTimeExchangeSend c l s = _
    rw [execTimeExchangeSend, act, if_neg (not_or.mpr ⟨on, Classical.not_not.mpr up⟩)]
  · show execLaneFailure c l lane lock errs s = _
    rw [execLaneFailure, act]
    exact next_stay (if_pos still)
  · show execLaneFailure c l lane lock errs s = _
    rw [execLaneFailure, act]
    refine next_congr ((if_neg ?_).trans (if_neg ?_))
    · simp only [trlUp, trlTrain, trlRetrain, trlOff, trlSleep, trlDown] at on ⊢
      omega
    · rw [locked, decide_eq_false (Nat.not_le.mpr few)]
      decide
  · show execLaneFailure c l lane lock errs s = _
    rw [execLaneFailure, act]
    refine next_congr ((if_neg ?_).trans (if_pos ?_))
    · simp only [trlUp, trlTrain, trlRetrain, trlOff, trlSleep, trlDown] at on ⊢
      omega
    · rw [Bool.or_eq_true, Bool.not_eq_true', decide_eq_true_eq]
      exact failed
  · show execTrainAttemptTimeout c l s = _
    rw [execTrainAttemptTimeout, act]
    exact next_stay (if_neg (not_or.mpr ⟨n1, n3⟩))
  · show execTrainAttemptTimeout c l s = _
    rw [execTrainAttemptTimeout, act]
    exact next_congr ((if_pos on).trans (if_neg (Nat.not_le.mpr few)))
  · show execTrainAttemptTimeout c l s = _
    rw [execTrainAttemptTimeout, act]
    exact next_congr ((if_pos on).trans (if_pos many))
  · show execLinkDownRetry c l s = _
    rw [execLinkDownRetry, onIsland_live live, if_neg up, setChip_self]
  · show execLinkDownRetry c l s = _
    rw [execLinkDownRetry, onIsland_live live, if_pos down]
    rfl

end Sys2Proof.Machine
end

section
/-! SUPPORT. Input power, resets, start and Doze (R31, R49 to R51, R121, R618 to R640, R683). -/

namespace Sys2Proof.Machine

open Sys2Proof

/-- A step whose condition fails changes nothing. -/
theorem next_ite_neg {p : Prop} [Decidable p] {s t : State} (h : ¬ p) : (.next (if p then t else s) : Res) = .next s := by
  rw [if_neg h]

theorem next_ite_pos {p : Prop} [Decidable p] {s t : State} (h : p) : (.next (if p then t else s) : Res) = .next t := by
  rw [if_pos h]

/-! ### Chips -/

theorem warmReset_held {s : State} {c : ChipId} (held : (s.chip c).inReset = true) (cause : Nat) : s.warmReset c cause = s := by
  rw [State.warmReset]
  exact if_pos held

theorem firmwareReady_rest {s : State} {c : ChipId} (rest : (s.chip c).hif.state ≠ .starting ∨ (s.chip c).flag F.MEM_GSTAT_WIPE_DONE = false ∨
    (s.chip c).timeAligned = false ∨ s.tray.lcs = 4) : exec (.firmwareReady c) s = .next s := by
  refine next_ite_neg ?_
  rintro ⟨starting, wiped, aligned, unretired⟩
  rcases rest with h | h | h | h
  · exact h starting
  · exact absurd (wiped.symm.trans h) (by decide)
  · exact absurd (aligned.symm.trans h) (by decide)
  · exact unretired h

theorem vcoreLow_rest {s : State} {c : ChipId} {mv : BitVec 10} (rest : 650 ≤ mv.toNat ∨ (s.bup c).vcore = true ∨ (s.chip c).pwr = pwrDoze ∨
    s.tray.power = .off) : exec (.vcoreLow c mv) s = .next s := by
  refine next_ite_neg ?_
  rintro ⟨low, unseen, power, on⟩
  rcases rest with h | h | h | h
  · exact absurd low (Nat.not_lt.mpr h)
  · exact absurd (unseen.symm.trans h) (by decide)
  · exact power h
  · exact on h

section
variable {s : State} {c : ChipId} {mv : BitVec 10} (low : mv.toNat < 650) (unseen : (s.bup c).vcore = false) (power : (s.chip c).pwr ≠ pwrDoze)
  (on : s.tray.power ≠ .off)
include low unseen power on

/-- A chip whose core voltage is too low is held in reset, and the Bupin logs it. -/
def State.vcoreHeld (u : State) (c : ChipId) (mv : Nat) : State :=
  ((u.modBup c fun b => { b with vcore := true }).warmReset c rstBupin).modTray fun x => x.logGen 3 c.val (toLe 2 mv)

theorem vcoreLow_reset (held : (s.chip c).inReset = true) : exec (.vcoreLow c mv) s = .next (s.vcoreHeld c mv.toNat) := by
  refine (next_ite_pos ⟨low, unseen, power, on⟩).trans ?_
  rw [modChip_eq, if_pos held, setChip_self]
  dsimp only
  rw [logHalt_self]
  rfl

theorem vcoreLow_runs (runs : (s.chip c).inReset = false) : exec (.vcoreLow c mv) s =
    .next ((logHalt c s (s.setChip c (((s.chip c).raise 22 (source 280 4) mv.toNat).takeFaults))).vcoreHeld c mv.toNat) := by
  refine (next_ite_pos ⟨low, unseen, power, on⟩).trans ?_
  rw [modChip_eq, if_neg (by rw [runs]; decide)]
  rfl

end

/-! ### Doze -/

section
variable {s : State} {tr : Transport} (heard : s.tray.hears tr = true) {chips : Byte}
include heard

theorem dozeRequest_bad (bad : 16 ≤ chips.toNat) : exec (.bupinDozeRequest tr chips) s = .next (s.answer tr 5 mgBadReq) := by
  show execBupinDozeRequest tr chips s = _
  rw [execBupinDozeRequest, withChips, onMgmt_heard heard, if_pos bad]

theorem dozeRequest_good (good : chips.toNat < 16) : exec (.bupinDozeRequest tr chips) s =
    .next (if (chipsOf chips.toNat).all (fun d => (s.chip d).flag F.HIF_STATUS_READY && (s.chip d).pwr == pwrRun) then
        ((chipsOf chips.toNat).foldl (fun (s : State) d => s.enterDoze d) s).answer tr 5 mgOk
      else s.answer tr 5 mgBusy) := by
  show execBupinDozeRequest tr chips s = _
  rw [execBupinDozeRequest, withChips, onMgmt_heard heard, if_neg (Nat.not_le.mpr good)]

end

section
variable {s : State} {c : ChipId}

/-- An effect that leaves the chip as it is changes nothing, in reset or not. -/
theorem onChip_stays {f : Chip → Chip} (stays : f (s.chip c) = s.chip c) : onChip s c f = .next s := by
  by_cases held : (s.chip c).hif.state = .reset
  · exact onChip_held held f
  · exact (onChip_awake held f).trans (next_stay stays)

theorem dozeDefer_rest (rest : (s.chip c).pwr ≠ pwrEntering ∨ (s.chip c).flag F.PWR_STATE_DEFER_LIVE = false ∨
    (s.porchDefers = true ∧ (s.chip c).now < (s.chip c).dozeAt + (s.chip 0).rd F.PRC_WAKE_DEFER * 1000000)) :
    exec (.dozeDeferTimeout c) s = .next s := by
  refine onChip_stays (if_neg ?_)
  rintro ⟨entering, live, over'⟩
  rcases rest with h | h | ⟨defers, early⟩
  · exact h entering
  · exact absurd (live.symm.trans h) (by decide)
  · exact over'.elim (fun h => absurd (defers.symm.trans h) (by decide)) fun h => absurd early (Nat.not_lt.mpr h)

theorem dozeDefer_ends (awake : Awake s c) (entering : (s.chip c).pwr = pwrEntering) (live : (s.chip c).flag F.PWR_STATE_DEFER_LIVE = true)
    (ends : s.porchDefers = false ∨ (s.chip c).dozeAt + (s.chip 0).rd F.PRC_WAKE_DEFER * 1000000 ≤ (s.chip c).now) :
    exec (.dozeDeferTimeout c) s = .next (s.setChip c (s.chip c).endDefer) := by
  show execDozeDeferTimeout c s = _
  rw [execDozeDeferTimeout, onChip_awake awake, if_pos ⟨entering, live, ends⟩]

theorem dozeCommit_rest (rest : (s.chip c).inReset = true ∨ (s.chip c).dozeReady = false ∨ s.tray.auth.isSome = true) :
    exec (.dozeCommit c) s = .next s := by
  show execDozeCommit c s = _
  rw [execDozeCommit]
  dsimp only
  rw [if_pos (by rcases rest with h | h | h <;> simp [h])]

end

/-- Settles O49. -/
theorem powerAndDoze : Obligations.PowerAndDoze := by
  unfold Obligations.PowerAndDoze
  intro s c
  dsimp only
  refine ⟨fun p => ⟨next_ite_pos, next_ite_neg, next_ite_pos, next_ite_neg⟩,
    fun mv => ⟨fun on range => next_ite_pos ⟨on, range⟩, fun other => next_ite_neg fun h => other h.1, fun low high => next_ite_neg ?_⟩,
    next_ite_pos, next_ite_neg, fun n x supply => ⟨fun on => ?_, fun off => ?_⟩, rfl, rfl, fun held => congrArg _ (warmReset_held held rstFlr),
    fun bad => ⟨fun no => next_ite_neg (by rw [no]; decide), next_ite_pos⟩, fun starting wiped aligned lcs => next_ite_pos ⟨starting, wiped, aligned, lcs⟩,
    firmwareReady_rest, next_ite_pos, next_ite_neg,
    fun mv => ⟨vcoreLow_rest, fun low unseen power on => ⟨vcoreLow_reset low unseen power on, vcoreLow_runs low unseen power on⟩,
      fun low => next_ite_neg (Nat.not_le.mpr low), next_ite_pos⟩,
    fun tr chips heard => ⟨dozeRequest_bad heard, fun good => ⟨fun all => ?_, fun busy => ?_⟩⟩,
    fun awake entering live => ⟨dozeDefer_ends awake entering live, fun defers early => dozeDefer_rest (.inr (.inr ⟨defers, early⟩))⟩,
    fun idle => dozeDefer_rest (.inr (.inl idle)), fun other => dozeDefer_rest (.inl other), dozeCommit_rest,
    fun runs ready unauthorised => ⟨fun empty => ?_, fun waits => ?_⟩, rfl, fun quiet => next_ite_neg (by rw [quiet]; decide),
    fun raised awake => ?_, fun raised dozed => ?_, ⟨fun runs set due on => next_ite_pos ⟨runs, set, due, on⟩, fun rest => next_ite_neg ?_⟩,
    fun runs waking => next_ite_pos ⟨runs, waking⟩, fun rest => next_ite_neg ?_⟩
  · have narrow : ¬ (mv.toNat < 10400 ∨ 13600 < mv.toNat) := by omega
    exact fun h => narrow h.2
  · show execSupplyTrip n s = _
    rw [execSupplyTrip]
    refine congrArg (fun t => Host.Outcome.next { s with tray := t }) (if_pos ?_)
    rw [supply, Option.any_some, beq_iff_eq]
    exact on
  · show execSupplyTrip n s = _
    rw [execSupplyTrip]
    refine congrArg (fun t => Host.Outcome.next { s with tray := t }) (if_neg ?_)
    rw [supply, Option.any_some, beq_iff_eq]
    exact off
  · rw [dozeRequest_good heard good, if_pos all]
  · rw [dozeRequest_good heard good, if_neg ((Bool.not_eq_true _).mpr busy)]
  · show execDozeCommit c s = _
    rw [execDozeCommit]
    dsimp only
    rw [if_neg (by simp [runs, ready, unauthorised])]
    exact if_pos empty
  · show execDozeCommit c s = _
    rw [execDozeCommit]
    dsimp only
    rw [if_neg (by simp [runs, ready, unauthorised])]
    exact if_neg ((Bool.not_eq_true _).mpr waits)
  · refine (next_ite_pos raised).trans (congrArg _ ?_)
    exact if_neg ((Bool.not_eq_true _).mpr awake)
  · refine (next_ite_pos raised).trans (congrArg _ ?_)
    exact if_pos dozed
  · rintro ⟨runs, set, due, on⟩
    rcases rest with h | h | h | h
    · exact set h
    · exact absurd due (Nat.not_le.mpr h)
    · exact absurd (runs.symm.trans h) (by decide)
    · exact on h
  · exact fun h => rest.elim (fun g => absurd (h.1.symm.trans g) (by decide)) fun g => g h.2

end Sys2Proof.Machine
end

section
/-! SUPPORT. Critical commands: the round-robin, the completion and the effects (R635, R642, R646 to R652, R670, R685). -/

namespace Sys2Proof.Machine

open Sys2Proof

/-! ### The round-robin -/

/-- The first CRITICAL descriptor that fails its check, with what completes it: the first part of `serveCritical`. -/
def State.refusedCritical (s : State) : Option (ChipId × Nat × Nat × Nat) :=
  chipIds.findSome? fun c => match (s.chip c).nextCritical with
    | some (n, d) => (critStatus d).map fun st => (c, n, d.idx, st)
    | none => none

theorem refusedCritical_none {s : State}
    (sound : ∀ (e : ChipId) m q, (s.chip e).nextCritical = some (m, q) → critStatus q = none) : s.refusedCritical = none := by
  rw [State.refusedCritical, List.findSome?_eq_none_iff]
  intro c _
  cases next : (s.chip c).nextCritical with
  | none => rfl
  | some nd => exact congrArg (Option.map fun st => (c, nd.1, nd.2.idx, st)) (sound c nd.1 nd.2 next)

theorem refusedCritical_idle {s : State} (idle : ∀ c : ChipId, (s.chip c).nextCritical = none) : s.refusedCritical = none :=
  refusedCritical_none fun e _ _ next => absurd ((idle e).symm.trans next) (by simp)

/-- What keeps the round-robin from handing a command over. -/
def State.critBusy (s : State) : Bool :=
  s.tray.auth.isSome || s.tray.accepted.any (fun a => cmdOf a.2 == 4) || s.tray.power == .off

theorem critBusy_false {s : State} (free : s.tray.auth = none) (keys : ∀ a ∈ s.tray.accepted, cmdOf a.2 ≠ 4)
    (on : s.tray.power ≠ .off) : s.critBusy = false := by
  have noKey : s.tray.accepted.any (fun a => cmdOf a.2 == 4) = false :=
    List.any_eq_false.mpr fun a ha => by simpa using keys a ha
  rw [State.critBusy, free, noKey]
  simpa using on

/-- The command that the source `src` of the round-robin hands over. -/
def State.handNext (s : State) (res : ReadResult) (src : Nat) : State :=
  if src < 4 then
    match (s.chip (Fin.ofNat 4 src)).nextCritical with
    | some (n, d) => s.handChip (Fin.ofNat 4 src) n d res
    | none => s
  else match s.tray.mctp with
    | m :: rest => (s.modTray fun t => ({ t with mctp := rest } : Tray).handOver 4 none m.secure m.uart m.cmd).mirror
    | [] => s

/-- With no descriptor to refuse, a busy round-robin does nothing. -/
theorem serveCritical_busy {s : State} (res : ReadResult) (sound : s.refusedCritical = none) (busy : s.critBusy = true) :
    s.serveCritical res = s := by
  unfold State.serveCritical
  dsimp only
  split
  next refused => exact absurd (sound.symm.trans refused) (by simp)
  next => exact if_pos busy

/-- With no descriptor to refuse, a free round-robin hands over the command of its next source. -/
theorem serveCritical_hands {s : State} {src : Nat} (res : ReadResult) (sound : s.refusedCritical = none) (free : s.critBusy = false)
    (turn : s.tray.sources.find? (fun x => s.hasCritical x) = some src) : s.serveCritical res = s.handNext res src := by
  unfold State.serveCritical
  dsimp only
  split
  next refused => exact absurd (sound.symm.trans refused) (by simp)
  next =>
    refine (if_neg ((Bool.not_eq_true _).mpr free)).trans ?_
    rw [turn]
    rfl

theorem handNext_chip {s : State} {c : ChipId} {n : Nat} {d : Desc} (res : ReadResult)
    (next : (s.chip c).nextCritical = some (n, d)) : s.handNext res c.val = s.handChip c n d res := by
  have here : Fin.ofNat 4 c.val = c := Fin.ofNat_val_eq_self c
  rw [State.handNext, if_pos c.isLt, here, next]

theorem handNext_mctp {s : State} {m : MctpCmd} {rest : List MctpCmd} (res : ReadResult) (head : s.tray.mctp = m :: rest) :
    s.handNext res 4 = (s.modTray fun t => ({ t with mctp := rest } : Tray).handOver 4 none m.secure m.uart m.cmd).mirror := by
  rw [State.handNext, if_neg (by decide), head]

/-- Where no chip asks and a command came over MCTP, only the source 4 has one. -/
theorem hasCritical_mctp {s : State} {x : Nat} (idle : ∀ c : ChipId, (s.chip c).nextCritical = none)
    (waits : s.tray.mctp ≠ []) : s.hasCritical x = decide (4 ≤ x) := by
  rw [State.hasCritical]
  split
  next chip => rw [idle, decide_eq_false (by omega)]; rfl
  next mctp => rw [decide_eq_true (by omega)]; simpa using waits

/-- Every turn of the round-robin asks the source 4. -/
theorem sources_mctp (t : Tray) : t.sources.find? (fun x => decide (4 ≤ x)) = some 4 := by
  have turn : ∀ k : Fin 5, ((List.range 5).map fun i => (k.val + 1 + i) % 5).find? (fun x => decide (4 ≤ x)) = some 4 := by decide
  have same : t.sources = (List.range 5).map fun i => (t.lastSrc % 5 + 1 + i) % 5 :=
    List.map_congr_left fun i _ => by omega
  rw [same]
  exact turn ⟨t.lastSrc % 5, Nat.mod_lt _ (by decide)⟩

/-! ### The completion -/

/-- What the end of the 250 µs leaves of the command: a log entry where it was refused, the command itself where it was accepted. -/
def State.judged (s : State) (a : AuthRun) : State :=
  (s.modTray fun t =>
    let t : Tray := { t with auth := none }
    if a.reason ≠ 0 then
      t.logRefusal a.src (if a.secure then 0 else cmdOf a.cmd) (if a.secure then 1 else cmdSlot a.cmd) (cmdCounter a.cmd) a.reason
    else if a.secure then t
    else { t with
      accepted := t.accepted ++ [(a.src, a.cmd)]
      lcsTime := if cmdOf a.cmd = 1 then t.now else t.lcsTime }).mirror

/-- The answer to the source of the command. -/
def State.critAnswered (s : State) (a : AuthRun) : State :=
  match a.ring with
  | some (n, i) => s.modChip (Fin.ofNat 4 a.src) fun ch => ch.authDone n i (a.reason == 0)
  | none => if a.src = 4 then s.modTray fun t => t.authReply a else s

theorem criticalComplete_runs {s : State} {a : AuthRun} (auth : s.tray.auth = some a) (on : s.tray.power ≠ .off) :
    execCriticalComplete s = .next ((s.judged a).critAnswered a) := by
  rw [execCriticalComplete, auth]
  exact if_neg on

theorem judged_secure {s : State} {a : AuthRun} (secure : a.secure = true) : s.judged a =
    if a.reason = 0 then (s.modTray fun t => { t with auth := none }).mirror
    else (s.modTray fun t => ({ t with auth := none } : Tray).logRefusal a.src 0 1 (cmdCounter a.cmd) a.reason).mirror := by
  rw [State.judged]
  by_cases accepted : a.reason = 0 <;> simp only [accepted, secure, if_true, if_false, ne_eq, not_true, not_false_eq_true]

theorem judged_command {s : State} {a : AuthRun} (plain : a.secure = false) : s.judged a =
    if a.reason = 0 then (s.modTray fun t => { t with
      auth := none, accepted := t.accepted ++ [(a.src, a.cmd)], lcsTime := if cmdOf a.cmd = 1 then t.now else t.lcsTime }).mirror
    else (s.modTray fun t => ({ t with auth := none } : Tray).logRefusal a.src (cmdOf a.cmd) (cmdSlot a.cmd)
      (cmdCounter a.cmd) a.reason).mirror := by
  rw [State.judged]
  by_cases accepted : a.reason = 0 <;>
    simp only [accepted, plain, if_true, if_false, ne_eq, not_true, not_false_eq_true, Bool.false_eq_true]

theorem critAnswered_ring {s : State} {a : AuthRun} {n i : Nat} (ring : a.ring = some (n, i)) :
    s.critAnswered a = s.modChip (Fin.ofNat 4 a.src) fun x => x.authDone n i (a.reason == 0) := by
  rw [State.critAnswered, ring]

theorem critAnswered_mctp {s : State} {a : AuthRun} (ring : a.ring = none) (src : a.src = 4) :
    s.critAnswered a = s.modTray fun t => t.authReply a := by
  rw [State.critAnswered, ring]
  exact if_pos src

theorem critAnswered_steward {s : State} {a : AuthRun} (ring : a.ring = none) (src : a.src ≠ 4) : s.critAnswered a = s := by
  rw [State.critAnswered, ring]
  exact if_neg src

/-! ### The effects -/

theorem effect_taken {s u : State} {p : List Byte → Bool} {b : List Byte} (f : State → List Byte → State)
    (taken : s.takeAccepted p = some (b, u)) : s.effect p f = .next (f u (cmdPayload b)) := by
  rw [State.effect, taken]

theorem effect_none {s : State} {p : List Byte → Bool} (f : State → List Byte → State) (idle : s.takeAccepted p = none) :
    s.effect p f = .next s := by
  rw [State.effect, idle]

/-- E0 after MOTION_ENABLE, where E2 stands as `e2`. -/
def Chip.motionAnswered (ch e2 : Chip) (p : List Byte) : Chip :=
  let heads := fieldAt p 0 1
  if ch.inReset || ch.halted then ch
  else if heads = 0 then ((ch.wr F.SEN_STAT_EN_RESULT 0).beginDisable).motionStatus 0xFF 2 ch.now
  else
    let active := ch.rd F.COA_STAT_ROLE == roleActive || (ch.sen.fromE2 && e2.rd F.COA_STAT_ROLE == roleActive)
    let r := ch.motionCheck active heads (fieldAt p 4 4)
    let c := ch.wr F.SEN_STAT_EN_RESULT r
    let c := if r = 0 then c.enableHeads heads else c
    c.motionStatus 0xFF 2 c.now

/-- E0 becomes `x`; while E2 plans and the enable passed, E2 enables too. -/
def State.motionBoth (u : State) (x : Chip) (heads : Nat) : State :=
  if x.sen.fromE2 = true ∧ x.inReset = false ∧ x.halted = false ∧ x.rd F.SEN_STAT_EN_RESULT = 0
  then (u.setChip 0 x).modChip 2 fun z => z.partnerEnable x heads else u.setChip 0 x

theorem motionEnable_taken {s u : State} {b : List Byte} (taken : s.takeAccepted (fun b => cmdOf b == 3) = some (b, u)) :
    execMotionEnable s =
      .next (u.motionBoth ((u.chip 0).motionAnswered (u.chip 2) (cmdPayload b)) (fieldAt (cmdPayload b) 0 1)) := by
  rw [execMotionEnable, effect_taken _ taken]
  dsimp only
  rw [modChip_eq, chip_setChip_self]
  rfl

theorem motionEnable_stopped {s u : State} {b : List Byte} (taken : s.takeAccepted (fun b => cmdOf b == 3) = some (b, u))
    (stopped : (u.chip 0).inReset = true ∨ (u.chip 0).halted = true) : execMotionEnable s = .next u := by
  have same : (u.chip 0).motionAnswered (u.chip 2) (cmdPayload b) = u.chip 0 := by
    rw [Chip.motionAnswered]
    exact if_pos (by simpa using stopped)
  rw [motionEnable_taken taken, same, State.motionBoth, setChip_self]
  refine congrArg _ (if_neg ?_)
  rintro ⟨_, runs, goes, _⟩
  rcases stopped with h | h
  · exact absurd (runs.symm.trans h) (by decide)
  · exact absurd (goes.symm.trans h) (by decide)

section
variable {ch e2 : Chip} {p : List Byte} (runs : ch.inReset = false) (goes : ch.halted = false)
include runs goes

theorem motionAnswered_disable (all : fieldAt p 0 1 = 0) :
    ch.motionAnswered e2 p = ((ch.wr F.SEN_STAT_EN_RESULT 0).beginDisable).motionStatus 0xFF 2 ch.now := by
  rw [Chip.motionAnswered, runs, goes]
  exact if_pos all

theorem motionAnswered_passed {r : Nat} (heads : fieldAt p 0 1 ≠ 0)
    (result : ch.motionCheck (ch.rd F.COA_STAT_ROLE == roleActive || (ch.sen.fromE2 && e2.rd F.COA_STAT_ROLE == roleActive))
      (fieldAt p 0 1) (fieldAt p 4 4) = r) (passed : r = 0) :
    ch.motionAnswered e2 p = ((ch.wr F.SEN_STAT_EN_RESULT r).enableHeads (fieldAt p 0 1)).motionStatus 0xFF 2
      ((ch.wr F.SEN_STAT_EN_RESULT r).enableHeads (fieldAt p 0 1)).now := by
  rw [Chip.motionAnswered, runs, goes]
  refine (if_neg heads).trans ?_
  rw [result, if_pos passed]

theorem motionAnswered_failed {r : Nat} (heads : fieldAt p 0 1 ≠ 0)
    (result : ch.motionCheck (ch.rd F.COA_STAT_ROLE == roleActive || (ch.sen.fromE2 && e2.rd F.COA_STAT_ROLE == roleActive))
      (fieldAt p 0 1) (fieldAt p 4 4) = r) (failed : r ≠ 0) :
    ch.motionAnswered e2 p = (ch.wr F.SEN_STAT_EN_RESULT r).motionStatus 0xFF 2 (ch.wr F.SEN_STAT_EN_RESULT r).now := by
  rw [Chip.motionAnswered, runs, goes]
  refine (if_neg heads).trans ?_
  rw [result, if_neg failed]

end

/-- Settles O50: the round-robin, the completion and each effect, by the state of what waits. -/
theorem criticalCommands : Obligations.CriticalCommands := by
  unfold Obligations.CriticalCommands
  intro s
  dsimp only
  refine ⟨fun tr block => ⟨fun deaf => ?_, fun heard => ⟨fun other => ?_, fun turn => ?_⟩⟩,
    fun res => ⟨rfl, fun tr block deaf => ?_, fun tr block heard => ?_⟩,
    fun res c n d free keys on sound turn next => ?_, fun res busy idle => ?_, fun m rest res free none_ on head idle => ?_,
    fun idle => ?_, fun a auth on secure ring src => ?_, fun a auth on plain => ⟨fun n i ring => ?_, fun ring src => ?_, fun ring src => ?_⟩,
    fun idle => ?_, fun idle => ?_, fun idle => ?_, fun idle => ?_, fun idle => ?_, fun b u taken => ?_, fun idle => ?_, fun x target on => ?_,
    fun b u taken => ?_, fun b u taken => ?_, fun b u taken => ?_,
    fun b u taken stopped => motionEnable_stopped taken stopped,
    fun b u taken runs goes => ⟨fun all => ?_, fun heads passed => ?_, fun heads failed => ?_⟩⟩
  · show execSecureLogRead tr block s = _
    rw [execSecureLogRead]
    exact if_neg ((Bool.not_eq_true _).mpr deaf)
  · show execSecureLogRead tr block s = _
    rw [execSecureLogRead]
    exact (if_pos heard).trans (congrArg _ (if_neg other))
  · show execSecureLogRead tr block s = _
    rw [execSecureLogRead]
    exact (if_pos heard).trans (congrArg _ (if_pos turn))
  · show execCritical (some (tr, block)) res s = _
    rw [execCritical]
    exact congrArg (fun u : State => Host.Outcome.next (u.serveCritical res)) (if_neg ((Bool.not_eq_true _).mpr deaf))
  · show execCritical (some (tr, block)) res s = _
    rw [execCritical]
    exact congrArg (fun u : State => Host.Outcome.next (u.serveCritical res)) (if_pos heard)
  · exact congrArg _ ((serveCritical_hands res (refusedCritical_none sound) (critBusy_false free keys on) turn).trans
      (handNext_chip res next))
  · exact congrArg _ (serveCritical_busy res (refusedCritical_idle idle) (by rw [State.critBusy, busy]; rfl))
  · have keys : ∀ a ∈ s.tray.accepted, cmdOf a.2 ≠ 4 := by simp [none_]
    have turn : s.tray.sources.find? (fun x => s.hasCritical x) = some 4 := by
      simp only [hasCritical_mctp idle (by simp [head] : s.tray.mctp ≠ [])]
      exact sources_mctp s.tray
    exact congrArg _ ((serveCritical_hands res (refusedCritical_idle idle) (critBusy_false free keys on) turn).trans
      (handNext_mctp res head))
  · show execCriticalComplete s = _
    unfold execCriticalComplete
    split
    next => rfl
    next a auth => exact if_pos (idle.resolve_left (by simp [auth]))
  · refine (criticalComplete_runs auth on).trans (congrArg _ ?_)
    rw [critAnswered_mctp ring src, judged_secure secure]
  · refine (criticalComplete_runs auth on).trans (congrArg _ ?_)
    rw [critAnswered_ring ring, judged_command plain]
  · refine (criticalComplete_runs auth on).trans (congrArg _ ?_)
    rw [critAnswered_mctp ring src, judged_command plain]
  · refine (criticalComplete_runs auth on).trans (congrArg _ ?_)
    rw [critAnswered_steward ring src, judged_command plain]
  · show execLifecycle s = _
    rw [execLifecycle, effect_none _ idle]
  · show execMotionEnable s = _
    rw [execMotionEnable, effect_none _ idle]
  · show execKeyRotate s = _
    rw [execKeyRotate, idle]
  · show execDebugUnlock s = _
    rw [execDebugUnlock, effect_none _ idle]
  · show execPixelTap s = _
    rw [execPixelTap, effect_none _ idle]
  · show execLifecycle s = _
    rw [execLifecycle, effect_taken _ taken]
  · show execLifecycleReset s = _
    unfold execLifecycleReset
    split
    next x target => exact next_ite_pos (idle.resolve_left (by simp [target]))
    next => rfl
  · show execLifecycleReset s = _
    rw [execLifecycleReset, target]
    exact next_ite_neg (Classical.not_not.mpr on)
  · show execKeyRotate s = _
    rw [execKeyRotate, taken]
  · show execDebugUnlock s = _
    rw [execDebugUnlock, effect_taken _ taken]
  · show execPixelTap s = _
    rw [execPixelTap, effect_taken _ taken]
  · refine (motionEnable_taken taken).trans (congrArg _ ?_)
    rw [motionAnswered_disable runs goes all]
    rfl
  · refine (motionEnable_taken taken).trans (congrArg _ ?_)
    rw [motionAnswered_passed runs goes heads rfl passed]
    rfl
  · refine (motionEnable_taken taken).trans (congrArg _ ?_)
    rw [motionAnswered_failed runs goes heads rfl failed]
    rfl

end Sys2Proof.Machine
end

section
/-! SUPPORT. Firmware banks, trials, the boot mailbox and the configuration (R653 to R662, R669 to R673). -/

namespace Sys2Proof.Machine

open Sys2Proof

/-! ### Activation -/

theorem fwActivate_refused {s u : State} {b : List Byte} {e : Nat} (taken : s.takeAccepted (fun b => cmdOf b == 2) = some (b, u))
    (err : u.tray.activateErr (fieldAt (cmdPayload b) 0 1) (((cmdPayload b).drop 8).take 32) = some e) :
    execFwActivate s = .next (u.fwuAll fun x => x.orBit F.FWU_ERR_ERR e) := by
  rw [execFwActivate, effect_taken _ taken]
  dsimp only
  rw [err]

theorem fwActivate_pends {s u : State} {b : List Byte} (taken : s.takeAccepted (fun b => cmdOf b == 2) = some (b, u))
    (fine : u.tray.activateErr (fieldAt (cmdPayload b) 0 1) (((cmdPayload b).drop 8).take 32) = none) {y : State}
    (pends : (u.modTray fun t => { t.pend (fieldAt (cmdPayload b) 0 1) with
      cycleDue := fieldAt (cmdPayload b) 1 1 == 1 && !t.recovery }).mirror = y) :
    execFwActivate s = .next (if y.tray.recovery = true ∧ y.tray.power = .powered then y.coldStart 0 rstCold true else y) := by
  rw [execFwActivate, effect_taken _ taken]
  dsimp only
  rw [fine]
  dsimp only
  rw [pends]

/-! ### Staging -/

section
variable {s : State} {c : ChipId} (runs : (s.chip c).inReset = false) (unwritten : (s.chip c).rd F.FWU_STAT_STATE ≠ fwWriting)
  (unverified : (s.chip c).rd F.FWU_STAT_STATE ≠ fwVerifying)
include runs unwritten unverified

theorem fwuGo_refused {e : Nat} (err : s.tray.stageErr ((s.chip c).rd F.FWU_CTL_BANK) = some e) : s.fwuGo c =
    s.modChip c fun x => x.fwuState (if e = feSelf then fwFailed else (s.chip c).rd F.FWU_STAT_STATE) (some e) := by
  rw [State.fwuGo]
  refine (if_neg (by simp [runs, unwritten, unverified])).trans ?_
  rw [err]

theorem fwuGo_starts (fine : s.tray.stageErr ((s.chip c).rd F.FWU_CTL_BANK) = none) : s.fwuGo c =
    if (s.chip c).rd F.FWU_LEN_BYTES = 0 ∨ 16 * MiB < (s.chip c).rd F.FWU_LEN_BYTES ∨ (s.chip c).rd F.FWU_SRC_ADDR % 64 ≠ 0 then
      s.modChip c fun x => x.fwuState fwFailed (some feLen)
    else (s.modTray fun t => t.stage ((s.chip c).rd F.FWU_CTL_BANK) (some c) false).mirror.modChip c fun x =>
      (x.wr F.FWU_STAT_STATE fwWriting).hostRead .container ((s.chip c).rd F.FWU_SRC_ADDR) ((s.chip c).rd F.FWU_LEN_BYTES) := by
  rw [State.fwuGo]
  refine (if_neg (by simp [runs, unwritten, unverified])).trans ?_
  rw [fine]

end

theorem stageErr_self {t : Tray} {b : Nat} (self : b = t.running) : t.stageErr b = some feSelf := by
  rw [Tray.stageErr]
  exact if_pos self

theorem stageErr_busy {t : Tray} {b : Nat} (other : b ≠ t.running) (busy : t.staging.isSome = true ∨ t.trial.isSome = true) :
    t.stageErr b = some feBusy := by
  rw [Tray.stageErr, if_neg other]
  exact if_pos (by simpa using busy)

theorem stageErr_none {t : Tray} {b : Nat} (other : b ≠ t.running) (idle : t.staging = none) (settled : t.trial = none) :
    t.stageErr b = none := by
  rw [Tray.stageErr, if_neg other, idle, settled]
  rfl

theorem fwuAbort_foreign {s : State} {c : ChipId} (foreign : ∀ g, s.tray.staging = some g → g.chip ≠ some c) : s.fwuAbort c = s := by
  unfold State.fwuAbort
  split
  next g staging => exact if_neg (foreign g staging)
  next => rfl

theorem fwuAbort_own {s : State} {c : ChipId} {g : Staging} (staging : s.tray.staging = some g) (own : g.chip = some c) :
    s.fwuAbort c = (s.modTray Tray.stageFail).mirror.modChip c fun x => (x.dropReads .container).fwuState fwFailed (some feAbort) := by
  rw [State.fwuAbort, staging]
  exact if_pos own

/-- Only the chip that stages writes. -/
theorem fwuWriteComplete_stays {s : State} {c : ChipId} (res : ReadResult) (flash : Bool)
    (h : ∀ g, s.tray.staging = some g → g.chip ≠ some c ∨ g.verifying = true) : execFwuWriteComplete c res flash s = .next s := by
  unfold execFwuWriteComplete
  split
  next g staging => exact next_ite_pos (h g staging)
  next => rfl

section
variable {s : State} {c : ChipId} {g : Staging} (staging : s.tray.staging = some g) (own : g.chip = some c)
  (writes : g.verifying = false) {res : ReadResult}
include staging own writes

/-- What the end of a staging's read does, where it fails with `e`. -/
theorem fwuWriteComplete_fails (flash : Bool) {e : Nat}
    (bad : (if res.fail ≠ .none ∨ res.ep = true then some feRead else if flash then none else some feFlash) = some e) :
    execFwuWriteComplete c res flash s = .next (((s.modChip c fun x => (x.dropReads .container).readAer res).modTray
      Tray.stageFail).mirror.modChip c fun x => x.fwuState fwFailed (some e)) := by
  rw [execFwuWriteComplete, staging]
  refine congrArg _ ((if_neg (by simp [own, writes])).trans ?_)
  dsimp only
  rw [bad]

theorem fwuWriteComplete_writes (read : res.fail = .none) (clean : res.ep = false) {u : State}
    (answered : (s.modChip c fun x => (x.dropReads .container).readAer res) = u) : execFwuWriteComplete c res true s =
      .next ((u.modTray fun t => { t with
        staging := some { g with verifying := true, data := padTo ((u.chip c).rd F.FWU_LEN_BYTES) res.data } }).modChip c fun x =>
          x.wr F.FWU_STAT_STATE fwVerifying) := by
  rw [execFwuWriteComplete, staging]
  refine congrArg _ ((if_neg (by simp [own, writes])).trans ?_)
  dsimp only
  rw [answered, if_neg (by simp [read, clean]), if_pos rfl]

end

theorem fwuVerifyComplete_stays {s : State} (h : ∀ g, s.tray.staging = some g → g.verifying = false ∨ s.tray.power = .off) :
    execFwuVerifyComplete s = .next s := by
  unfold execFwuVerifyComplete
  split
  next g staging => exact next_ite_pos (h g staging)
  next => rfl

section
variable {s : State} {g : Staging} (staging : s.tray.staging = some g) (verifies : g.verifying = true) (on : s.tray.power ≠ .off)
include staging verifies on

theorem fwuVerifyComplete_chip {d : ChipId} (source : g.chip = some d) {r : Nat}
    (verdict : imgReason g.data s.tray.floor [1, 2, 3] = r) : execFwuVerifyComplete s =
      if r = 0 then .next ((s.modTray fun t => { t.setBank g.bank (Bank.ofImage g.data) with
        staging := none }).mirror.modChip d fun x => x.fwuState fwStaged none)
      else .next ((s.modTray Tray.stageFail).mirror.modChip d fun x => x.fwuState fwFailed (some (fwuErrOf r))) := by
  rw [execFwuVerifyComplete, staging]
  refine (congrArg _ (if_neg (by simp [verifies, on]))).trans ?_
  dsimp only
  rw [source, verdict]
  by_cases good : r = 0 <;> simp only [good, if_true, if_false]

theorem fwuVerifyComplete_pldm (source : g.chip = none) {r : Nat}
    (verdict : imgReason g.data s.tray.floor [1, 2, 3] = r) : execFwuVerifyComplete s =
      .next ((if r = 0 then (s.modTray fun t => { t.setBank g.bank (Bank.ofImage g.data) with staging := none }).mirror
        else (s.modTray Tray.stageFail).mirror).modTray fun t => t.emit (.pldm g.uart 0x17 r [])) := by
  rw [execFwuVerifyComplete, staging]
  refine (congrArg _ (if_neg (by simp [verifies, on]))).trans ?_
  dsimp only
  rw [source, verdict]
  by_cases good : r = 0 <;> simp only [good, if_true, if_false]

end

/-! ### Trials -/

theorem trialSuccess_stays {s : State} (h : s.tray.trial = none ∨ s.tray.power ≠ .powered ∨ s.tray.readied.length ≠ 4 ∨
    ∃ d : ChipId, (s.chip d).halted = true) : execTrialSuccess s = .next s := by
  unfold execTrialSuccess
  dsimp only
  split
  next b trial =>
    refine next_ite_neg ?_
    rintro ⟨on, ready, running⟩
    rcases h with h | h | h | ⟨d, h⟩
    · exact absurd (trial.symm.trans h) (by simp)
    · exact h on
    · exact h ready
    · have goes := List.all_eq_true.mp running d (mem_chipIds d)
      simp [h] at goes
  next => rfl

theorem trialFailure_stays {s : State} (bad : Bool) (h : s.tray.trial = none ∨ s.tray.power ≠ .powered) :
    execTrialFailure bad s = .next s := by
  unfold execTrialFailure
  split
  next b trial => exact next_ite_pos (h.resolve_left (by simp [trial]))
  next => rfl

theorem trialFailure_restarts {s : State} {b : Nat} (bad : Bool) (trial : s.tray.trial = some b) (on : s.tray.power = .powered) :
    execTrialFailure bad s = .next ((if bad then s.modTray fun t => (t.nextBank false).setBank b Bank.empty else s).coldStart 0
      rstCold false) := by
  rw [execTrialFailure, trial]
  exact next_ite_neg (Classical.not_not.mpr on)

/-! ### The boot mailbox -/

theorem bootVerifyComplete_stays {s : State} {c : ChipId} (h : (s.chip c).hif.state ≠ .rom ∨ (s.chip c).hif.bmState ≠ 1) :
    execBootVerifyComplete c s = .next s := by
  rw [execBootVerifyComplete]
  exact next_ite_pos h

section
variable {s : State} {c : ChipId} (rom : (s.chip c).hif.state = .rom) (waits : (s.chip c).hif.bmState = 1) {r : Nat}
  (verdict : (if (s.chip c).hif.bmRetired then imRetired else imgReason (s.chip c).windowImage (s.chip c).hif.bmFloor [2]) = r)
include rom waits verdict

theorem bootVerifyComplete_refused (bad : r ≠ 0) : execBootVerifyComplete c s =
    .next (s.setChip c ((s.chip c).bootRefuse r (fieldAt (s.chip c).windowImage 8 4))) := by
  rw [execBootVerifyComplete]
  dsimp only
  rw [if_neg (by simp [rom, waits]), verdict, if_pos bad]
  rfl

theorem bootVerifyComplete_waits (good : r = 0)
    (unready : (s.chip c).flag F.MEM_GSTAT_WIPE_DONE = false ∨ (s.chip c).timeAligned = false) :
    execBootVerifyComplete c s = .next s := by
  rw [execBootVerifyComplete]
  dsimp only
  rw [if_neg (by simp [rom, waits]), verdict, if_neg (Classical.not_not.mpr good)]
  exact next_ite_pos unready

theorem bootVerifyComplete_runs (good : r = 0) (wiped : (s.chip c).flag F.MEM_GSTAT_WIPE_DONE = true)
    (aligned : (s.chip c).timeAligned = true) : execBootVerifyComplete c s =
      .next (((s.setChip c (((({ s.chip c with hif := { (s.chip c).hif with bmState := 2, bmReason := 0 } } : Chip).cfgApply
        s.tray).firmwareUp).msix 135)).readied c).supplyFollow c) := by
  rw [execBootVerifyComplete]
  dsimp only
  rw [if_neg (by simp [rom, waits]), verdict, if_neg (Classical.not_not.mpr good), if_neg (by simp [wiped, aligned])]
  rfl

end

/-- Settles O51: firmware, boot mailbox and configuration, by the state of the bank, the staging, the trial and the mailbox. -/
theorem firmwareAndConfig : Obligations.FirmwareAndConfig := by
  unfold Obligations.FirmwareAndConfig
  intro s c
  dsimp only
  refine ⟨fun idle => ?_, fun b u taken => ⟨fun e err => fwActivate_refused taken err, fun fine => ⟨fun off => ?_, fun recovery on => ?_⟩⟩,
    fun due on => next_ite_pos ⟨due, on⟩, fun off => next_ite_neg ?_,
    ⟨fun off => ?_, fun runs unwritten unverified => ⟨fun self => ?_, fun other busy => ?_, fun other idle settled => ⟨fun bad => ?_,
      fun filled fits aligned => ?_⟩⟩⟩,
    fun foreign => ⟨?_, fun res flash => fwuWriteComplete_stays res flash fun g h => .inl (foreign g h)⟩,
    fun g staging own => ⟨?_, fun verifying res flash => fwuWriteComplete_stays res flash fun g' h => .inr ?_,
      fun writes res => ⟨fun bad flash => fwuWriteComplete_fails staging own writes flash (if_pos bad), fun read clean => ?_,
        fun read clean => fwuWriteComplete_writes staging own writes read clean rfl⟩⟩,
    fun idle => fwuVerifyComplete_stays fun g h => idle.imp (fun n => absurd (h.symm.trans n) (by simp)) id,
    fun g staging writes => fwuVerifyComplete_stays fun g' h => .inl ?_,
    fun g staging verifies on => ⟨fun d source => fwuVerifyComplete_chip staging verifies on source rfl,
      fun source => fwuVerifyComplete_pldm staging verifies on source rfl⟩,
    fun idle => ⟨trialSuccess_stays (idle.imp id .inl), fun bad => trialFailure_stays bad idle⟩,
    fun b trial => ⟨fun unready => trialSuccess_stays (.inr (.inr unready)), fun on ready running => ?_,
      fun on => ⟨trialFailure_restarts false trial on, trialFailure_restarts true trial on⟩⟩,
    fun awake len => ?_, bootVerifyComplete_stays,
    fun rom waits retired => bootVerifyComplete_refused rom waits (if_pos retired) (by decide),
    fun rom waits live => ⟨bootVerifyComplete_refused rom waits (if_neg ((Bool.not_eq_true _).mpr live)),
      bootVerifyComplete_waits rom waits (if_neg ((Bool.not_eq_true _).mpr live)),
      bootVerifyComplete_runs rom waits (if_neg ((Bool.not_eq_true _).mpr live))⟩,
    fun w idle => ?_, fun w b u taken => ?_, fun idle => ?_, fun b u taken => ⟨fun busy => ?_, fun free => ?_⟩⟩
  · show execFwActivate s = _
    rw [execFwActivate, effect_none _ idle]
  · show execFwActivate s = _
    rw [fwActivate_pends taken fine rfl, if_neg]
    exact fun h => off.elim (fun g => absurd (h.1.symm.trans g) (by decide)) fun g => g h.2
  · show execFwActivate s = _
    rw [fwActivate_pends taken fine rfl, if_pos ⟨recovery, on⟩]
  · exact fun h => off.elim (fun g => absurd (h.1.symm.trans g) (by decide)) fun g => g h.2
  · refine congrArg _ (if_pos ?_)
    rcases off with h | h | h <;> simp [h]
  · exact congrArg _ (fwuGo_refused runs unwritten unverified (stageErr_self self))
  · exact congrArg _ (fwuGo_refused runs unwritten unverified (stageErr_busy other busy))
  · exact congrArg _ ((fwuGo_starts runs unwritten unverified (stageErr_none other idle settled)).trans (if_pos bad))
  · refine congrArg _ ((fwuGo_starts runs unwritten unverified (stageErr_none other idle settled)).trans (if_neg ?_))
    omega
  · exact congrArg _ (fwuAbort_foreign foreign)
  · exact congrArg _ (fwuAbort_own staging own)
  · rw [Option.some.inj (h.symm.trans staging)]
    exact verifying
  · exact fwuWriteComplete_fails staging own writes false (by rw [if_neg (by simp [read, clean])]; rfl)
  · rw [Option.some.inj (h.symm.trans staging)]
    exact writes
  · show execTrialSuccess s = _
    rw [execTrialSuccess]
    dsimp only
    rw [trial]
    exact next_ite_pos ⟨on, ready, List.all_eq_true.mpr fun d _ => by rw [running d]; rfl⟩
  · have act := fun f => onChip_awake awake f
    refine ⟨fun stays => ?_, fun rom idle done => ⟨fun bad => ?_, fun least most => ?_⟩⟩ <;> show execBootMailboxGo c len s = _ <;>
      rw [execBootMailboxGo, act]
    · exact next_congr (if_pos stays)
    · exact next_congr ((if_neg (by simp [rom, idle, done])).trans (if_pos bad))
    · exact next_congr ((if_neg (by simp [rom, idle, done])).trans (if_neg fun h => h.elim (Nat.not_lt.mpr least) (Nat.not_lt.mpr most)))
  · show execCfgCommit w s = _
    rw [execCfgCommit, effect_none _ idle]
  · show execCfgCommit w s = _
    rw [execCfgCommit, effect_taken _ taken]
  · show execCfgOpen s = _
    rw [execCfgOpen, effect_none _ idle]
  · show execCfgOpen s = _
    rw [execCfgOpen, effect_taken _ taken]
    exact congrArg _ (if_pos busy)
  · show execCfgOpen s = _
    rw [execCfgOpen, effect_taken _ taken]
    exact congrArg _ (if_neg ((Bool.not_eq_true _).mpr free))

end Sys2Proof.Machine
end

section
/-! SUPPORT. The management messages of the Bupin (R622, R674 to R680, R687, R690). -/

namespace Sys2Proof.Machine

open Sys2Proof

theorem withChips_deaf {s : State} {tr : Transport} (deaf : s.tray.hears tr = false) {r : Res} {code : Nat} {chips : Byte}
    {f : State → List ChipId → State} (command : r = withChips s tr code chips f) : r = .next s := by
  rw [command, withChips, onMgmt_deaf deaf]

section
variable {s : State} {tr : Transport} (heard : s.tray.hears tr = true)
include heard

/-- What a message to chips does that the Bupin hears, where it names a chip that does not exist. -/
theorem withChips_bad {r : Res} {code : Nat} {chips : Byte} {f : State → List ChipId → State} (wide : 16 ≤ chips.toNat)
    (command : r = withChips s tr code chips f) : r = .next (s.answer tr code mgBadReq) := by
  rw [command, withChips, onMgmt_heard heard]
  exact next_ite_pos wide

/-- What a message to chips does that the Bupin hears, where it names chips that exist. -/
theorem withChips_good {r : Res} {code : Nat} {chips : Byte} {f : State → List ChipId → State} {t : State}
    (good : chips.toNat < 16) (command : r = withChips s tr code chips f) (does : f s (chipsOf chips.toNat) = t) : r = .next t := by
  rw [command, withChips, onMgmt_heard heard, ← does]
  exact next_ite_neg (Nat.not_le.mpr good)

end

/-- A supply that is directed on or off: directed on it leaves a trip. -/
def ConnSupply.directed (x : ConnSupply) (on : Bool) : ConnSupply :=
  { x with force := some on, st := if on && x.st == supTripped then supOff else x.st }

section
variable {s : State} {tr : Transport} (heard : s.tray.hears tr = true)
include heard

theorem setEndpointId_names {b : Byte} (least : 1 ≤ b.toNat) (most : b.toNat ≤ 254) : execSetEndpointId tr b s =
    .next (s.modTray fun t => ({ t with eid := b.toNat } : Tray).emit (.pldm (isUart tr) 1 0 [b.toNat])).mirror := by
  rw [execSetEndpointId, onMgmt_heard heard]
  exact next_ite_pos ⟨least, most⟩

theorem setEndpointId_bad {b : Byte} (bad : b.toNat = 0 ∨ b.toNat = 255) : execSetEndpointId tr b s =
    .next (s.modTray fun t => t.emit (.pldm (isUart tr) 1 2 [])) := by
  rw [execSetEndpointId, onMgmt_heard heard]
  exact next_ite_neg (by omega)

theorem logRead_reads {index : Dword} {b : Byte} (least : 1 ≤ b.toNat) (most : b.toNat ≤ 32) : execLogRead tr index b s =
    .next (s.modTray fun t => t.reply (isUart tr) 3 mgOk
      (toLe 4 t.log.next ++ toLe 4 t.log.lost ++ (t.log.read index.toNat b.toNat).flatMap LogEnt.bytes)) := by
  rw [execLogRead, onMgmt_heard heard]
  exact next_ite_pos ⟨least, most⟩

theorem logRead_bad {index : Dword} {b : Byte} (bad : b.toNat = 0 ∨ 32 < b.toNat) :
    execLogRead tr index b s = .next (s.answer tr 3 mgBadReq) := by
  rw [execLogRead, onMgmt_heard heard]
  exact next_ite_neg (by omega)

theorem setEventReceiver_names {b : Byte} (least : 1 ≤ b.toNat) (most : b.toNat ≤ 254) : execSetEventReceiver tr b s =
    .next (s.modTray fun t => (({ t with receiver := some b.toNat } : Tray).alertPin t).emit (.pldm (isUart tr) 4 0 [])) := by
  rw [execSetEventReceiver, onMgmt_heard heard]
  exact congrArg (fun t => Host.Outcome.next { s with tray := t }) (if_pos (And.intro least most))

theorem setEventReceiver_bad {b : Byte} (bad : b.toNat = 0 ∨ b.toNat = 255) : execSetEventReceiver tr b s =
    .next (s.modTray fun t => t.emit (.pldm (isUart tr) 4 2 [])) := by
  rw [execSetEventReceiver, onMgmt_heard heard]
  have outside : ¬ (1 ≤ b.toNat ∧ b.toNat ≤ 254) := by omega
  exact congrArg (fun t => Host.Outcome.next { s with tray := t }) (if_neg outside)

theorem pollEvent_empty (empty : s.tray.events = []) : execPollForPlatformEventMessage tr s =
    .next (s.modTray fun t => t.emit (.pldm (isUart tr) 0x0B 0 [])) := by
  rw [execPollForPlatformEventMessage, onMgmt_heard heard, State.modTray]
  rw [empty]
  rfl

theorem pollEvent_oldest {e : SensorEvent} {rest : List SensorEvent} (events : s.tray.events = e :: rest) :
    execPollForPlatformEventMessage tr s = .next (s.modTray fun t => (({ t with events := rest } : Tray).alertPin t).emit
      (.pldm (isUart tr) 0x0B 0 [(e.id : Nat), (e.threshold : Nat), (bnat e.beyond : Nat), e.value])) := by
  rw [execPollForPlatformEventMessage, onMgmt_heard heard, State.modTray]
  rw [events]
  rfl

/-- The timer of one chip. -/
def State.timerSet (w : Nat) (u : State) (c : ChipId) : State :=
  if (u.chip c).inReset = true then u
  else if w ≠ 0 ∧ w ≤ u.tray.now then u.timerFires c
  else u.modChip c fun x => x.wr F.PWR_DOZE_TIMER_WAKE_AT w

section
variable {b : Byte} (good : b.toNat < 16)
include good

theorem timer_sets (q : Qword) : execTimer tr b q s =
    .next (((chipsOf b.toNat).foldl (State.timerSet q.toNat) s).answer tr 6 mgOk) := by
  rw [execTimer]
  exact withChips_good heard good rfl rfl

theorem timer_later {q : Qword} {c : ChipId} (one : chipsOf b.toNat = [c]) (runs : (s.chip c).inReset = false)
    (later : s.tray.now < q.toNat) : execTimer tr b q s =
      .next ((s.modChip c fun x => x.wr F.PWR_DOZE_TIMER_WAKE_AT q.toNat).answer tr 6 mgOk) := by
  rw [timer_sets heard good, one, List.foldl_cons, List.foldl_nil, State.timerSet, if_neg ((Bool.not_eq_true _).mpr runs),
    if_neg fun h => Nat.not_le.mpr later h.2]

theorem trayPowerCycle_heard : execTrayPowerCycle tr b s = .next (if s.tray.power = .powered
    then (s.answer tr 5 mgOk).coldStart 0 rstCold false else s.answer tr 5 mgNotAllowed) := by
  rw [execTrayPowerCycle]
  exact withChips_good heard good rfl rfl

theorem pace_heard (w : BitVec 16) : execPace tr b w s = .next (if 2047 < w.toNat then s.answer tr 7 mgBadReq
    else (s.eachChip (chipsOf b.toNat) fun x => if x.inReset then x else x.wr F.PWR_THERM_DEMAND w.toNat).answer tr 7 mgOk) := by
  rw [execPace]
  exact withChips_good heard good rfl rfl

end

theorem supply_bad {w : BitVec 16} {b : Byte} (bad : 2 ^ 13 ≤ w.toNat ∨ 2 ≤ b.toNat) :
    execSupply tr w b s = .next (s.answer tr 10 mgBadReq) := by
  rw [execSupply, onMgmt_heard heard]
  exact next_ite_pos bad

theorem supply_directs {w : BitVec 16} {b : Byte} (mask : w.toNat < 2 ^ 13) (on : b.toNat < 2) :
    execSupply tr w b s = .next ((s.modTray fun t => { t with
      supplies := t.supplies.zipIdx.map fun e => if bit w.toNat e.2 then e.1.directed (b.toNat == 1) else e.1 }).supplySync.answer tr 10
        mgOk) := by
  rw [execSupply, onMgmt_heard heard]
  exact next_ite_neg fun h => h.elim (Nat.not_le.mpr mask) (Nat.not_le.mpr on)

theorem cci_impossible {chip port addr wlen rlen : Byte} {data : List Byte} {answer : Option (List Byte)}
    (bad : 4 ≤ chip.toNat ∨ 2 ≤ port.toNat ∨ 128 ≤ addr.toNat ∨ 32 < wlen.toNat ∨ 32 < rlen.toNat ∨ data.length ≠ wlen.toNat) :
    execCci tr chip port addr wlen rlen data answer s = .next (s.answer tr 8 mgBadReq) := by
  rw [execCci, onMgmt_heard heard]
  exact next_ite_pos bad

section
variable {chip port addr wlen rlen : Byte} {data : List Byte} {answer : Option (List Byte)}
  (possible : ¬ (4 ≤ chip.toNat ∨ 2 ≤ port.toNat ∨ 128 ≤ addr.toNat ∨ 32 < wlen.toNat ∨ 32 < rlen.toNat ∨ data.length ≠ wlen.toNat))
include possible

/-- A transfer to a sensor without power is not allowed. -/
theorem cci_unpowered (dark : 2 ≤ (s.chip (Fin.ofNat 4 chip.toNat)).pwr ∨
      (s.tray.supplies[2 * chip.toNat + port.toNat]?).map (·.st) ≠ some supOn) :
    execCci tr chip port addr wlen rlen data answer s = .next (s.answer tr 8 mgNotAllowed) := by
  rw [execCci, onMgmt_heard heard]
  dsimp only
  rw [if_neg possible]
  exact next_ite_pos dark

/-- A transfer to a sensor with power leaves the Bupin. -/
theorem cci_sends (chips : (s.chip (Fin.ofNat 4 chip.toNat)).pwr < 2)
    (on : (s.tray.supplies[2 * chip.toNat + port.toNat]?).map (·.st) = some supOn) {sent : State}
    (sends : (s.modTray fun t => t.emit (.cci chip.toNat port.toNat addr.toNat data)) = sent) :
    execCci tr chip port addr wlen rlen data answer s = .next (answer.elim (sent.answer tr 8 mgBadReq) fun bs =>
      sent.modTray fun t => t.reply (isUart tr) 8 mgOk (padTo rlen.toNat bs)) := by
  rw [execCci, onMgmt_heard heard]
  dsimp only
  rw [if_neg possible, if_neg (not_or.mpr ⟨Nat.not_le.mpr chips, Classical.not_not.mpr on⟩), sends]
  cases answer <;> rfl

end

theorem image_notAllowed {d : Dword} {b : Byte} {xs : List Byte} (closed : s.tray.recovery = false ∨ s.tray.lcs = 4) :
    execImage tr d b xs s = .next (s.answer tr 16 mgNotAllowed) := by
  rw [execImage, onMgmt_heard heard]
  exact next_ite_pos closed

section
variable {d : Dword} {b : Byte} {xs : List Byte} (recovery : s.tray.recovery = true) (live : s.tray.lcs ≠ 4)
include recovery live

theorem image_bad (bad : 1024 < xs.length ∨ 16 * MiB < d.toNat + xs.length ∨ 2 ≤ b.toNat) :
    execImage tr d b xs s = .next (s.answer tr 16 mgBadReq) := by
  rw [execImage, onMgmt_heard heard]
  dsimp only
  rw [if_neg (by simp [recovery, live])]
  exact next_ite_pos bad

section
variable (fits : xs.length ≤ 1024) (whole : d.toNat + xs.length ≤ 16 * MiB) {img : List Byte}
  (patched : patch (padTo (max s.tray.image.length d.toNat) s.tray.image) d.toNat xs = img)
include fits whole patched

theorem image_kept (more : b.toNat = 0) :
    execImage tr d b xs s = .next ((s.modTray fun t => { t with image := img }).answer tr 16 mgOk) := by
  rw [execImage, onMgmt_heard heard]
  dsimp only
  rw [if_neg (by simp [recovery, live]), patched, more, if_neg (by simpa using ⟨fits, whole⟩)]
  rfl

theorem image_ends (final : b.toNat = 1) {ended : State} (ends : (s.modTray fun t => { t with image := [] }) = ended) :
    execImage tr d b xs s = .next (if imgReason img s.tray.floor [1, 2, 3] = 0
      then ((ended.modTray fun t => t.romWrite img).mirror).answer tr 16 mgOk else ended.answer tr 16 mgBadReq) := by
  rw [execImage, onMgmt_heard heard]
  dsimp only
  rw [if_neg (by simp [recovery, live]), patched, final, if_neg (by simpa using ⟨fits, whole⟩), ends]
  rfl

end

end

section
variable {w : BitVec 16}

theorem getSensorReading_known {r : Int × Int} (reads : s.sensor w.toNat = some r) : execGetSensorReading tr w s =
    .next (s.modTray fun t => t.emit (.pldm (isUart tr) 0x11 0 [w.toNat, r.1, r.2])) := by
  rw [execGetSensorReading, onMgmt_heard heard]
  rw [reads]

theorem getSensorReading_unknown (unknown : s.sensor w.toNat = none) : execGetSensorReading tr w s =
    .next (s.modTray fun t => t.emit (.pldm (isUart tr) 0x11 0x80 [])) := by
  rw [execGetSensorReading, onMgmt_heard heard]
  rw [unknown]

theorem setSensorThresholds_unknown (up lo : Option (BitVec 32)) (unknown : s.sensor w.toNat = none) :
    execSetSensorThresholds tr w up lo s = .next (s.modTray fun t => t.emit (.pldm (isUart tr) 0x12 0x80 [])) := by
  rw [execSetSensorThresholds, onMgmt_heard heard]
  exact next_ite_pos unknown

theorem setSensorThresholds_known {r : Int × Int} (up lo : Option (BitVec 32)) (reads : s.sensor w.toNat = some r) :
    execSetSensorThresholds tr w up lo s = .next (if (s.tray.warnOk w.toNat 0 up && s.tray.warnOk w.toNat 3 lo) = true
      then s.modTray fun t => ((t.setWarn w.toNat 0 up).setWarn w.toNat 3 lo).emit (.pldm (isUart tr) 0x12 0 [])
      else s.modTray fun t => t.emit (.pldm (isUart tr) 0x12 2 [])) := by
  rw [execSetSensorThresholds, onMgmt_heard heard]
  exact next_ite_neg (by simp [reads])

end

section
variable {bank : Bool} {xs : List Byte}

theorem pldmFirmwareUpdate_refused {e : Nat} (flash : Bool) (err : s.tray.stageErr (bnat bank) = some e) :
    execPldmFirmwareUpdate tr bank xs flash s = .next (s.modTray fun t => t.emit (.pldm (isUart tr) 0x13 1 [(e : Nat)])) := by
  rw [execPldmFirmwareUpdate, onMgmt_heard heard]
  dsimp only
  rw [err]

variable (fine : s.tray.stageErr (bnat bank) = none)
include fine

theorem pldmFirmwareUpdate_size (flash : Bool) (bad : xs = [] ∨ 16 * MiB < xs.length) :
    execPldmFirmwareUpdate tr bank xs flash s = .next (s.modTray fun t => t.emit (.pldm (isUart tr) 0x13 1 [(feLen : Nat)])) := by
  rw [execPldmFirmwareUpdate, onMgmt_heard heard]
  dsimp only
  rw [fine]
  exact next_ite_pos bad

theorem pldmFirmwareUpdate_fails (filled : xs ≠ []) (fits : xs.length ≤ 16 * MiB) : execPldmFirmwareUpdate tr bank xs false s =
    .next ((((s.modTray fun t => t.stage (bnat bank) none (isUart tr)).modTray Tray.stageFail).mirror).modTray fun t =>
      t.emit (.pldm (isUart tr) 0x13 1 [(feFlash : Nat)])) := by
  rw [execPldmFirmwareUpdate, onMgmt_heard heard]
  dsimp only
  rw [fine]
  exact next_ite_neg (not_or.mpr ⟨filled, Nat.not_lt.mpr fits⟩)

theorem pldmFirmwareUpdate_stages (filled : xs ≠ []) (fits : xs.length ≤ 16 * MiB) : execPldmFirmwareUpdate tr bank xs true s =
    .next ((s.modTray fun t => t.stage (bnat bank) none (isUart tr)).modTray fun t => ({ t with
      staging := t.staging.map fun g => { g with verifying := true, data := xs } } : Tray).emit
        (.pldm (isUart tr) 0x13 0 [])).mirror := by
  rw [execPldmFirmwareUpdate, onMgmt_heard heard]
  dsimp only
  rw [fine]
  exact next_ite_neg (not_or.mpr ⟨filled, Nat.not_lt.mpr fits⟩)

end

end

section
variable {s : State} {tr : Transport} (deaf : s.tray.hears tr = false)
include deaf

theorem onDebug_deaf {r : Res} {chip : Byte} {f : ChipId → State → State} (command : r = onDebug s tr chip f) : r = .next s := by
  rw [command, onDebug, onMgmt_deaf deaf]

/-- What every management message does on a transport that the Bupin does not hear. -/
theorem messages_deaf (b b2 b3 b4 b5 : Byte) (w : BitVec 16) (d : Dword) (q : Qword) (xs : List Byte) (ob : Option (List Byte))
    (od od2 : Option (BitVec 32)) (fl : Bool) :
    exec (.setEndpointId tr b) s = .next s ∧ exec (.identity tr) s = .next s ∧ exec (.logRead tr d b) s = .next s ∧
    exec (.powerWakeRequest tr b) s = .next s ∧ exec (.bupinChipReset tr b) s = .next s ∧ exec (.trayPowerCycle tr b) s = .next s ∧
    exec (.timer tr b q) s = .next s ∧ exec (.pace tr b w) s = .next s ∧ exec (.cci tr b b2 b3 b4 b5 xs ob) s = .next s ∧
    exec (.supply tr w b) s = .next s ∧ exec (.image tr d b xs) s = .next s ∧ exec (.getSensorReading tr w) s = .next s ∧
    exec (.setSensorThresholds tr w od od2) s = .next s ∧ exec (.setEventReceiver tr b) s = .next s ∧
    exec (.pollForPlatformEventMessage tr) s = .next s ∧ exec (.pldmFirmwareUpdate tr fl xs fl) s = .next s ∧
    exec (.activateFirmware tr) s = .next s ∧ exec (.debugHalt tr b) s = .next s :=
  ⟨show execSetEndpointId tr b s = _ from onMgmt_deaf deaf _,
    show execIdentity tr s = _ from onMgmt_deaf deaf _,
    show execLogRead tr d b s = _ from onMgmt_deaf deaf _,
    show execPowerWakeRequest tr b s = _ from withChips_deaf deaf rfl,
    show execBupinChipReset tr b s = _ from withChips_deaf deaf rfl,
    show execTrayPowerCycle tr b s = _ from withChips_deaf deaf rfl,
    show execTimer tr b q s = _ from withChips_deaf deaf rfl,
    show execPace tr b w s = _ from withChips_deaf deaf rfl,
    show execCci tr b b2 b3 b4 b5 xs ob s = _ from onMgmt_deaf deaf _,
    show execSupply tr w b s = _ from onMgmt_deaf deaf _,
    show execImage tr d b xs s = _ from onMgmt_deaf deaf _,
    show execGetSensorReading tr w s = _ from onMgmt_deaf deaf _,
    show execSetSensorThresholds tr w od od2 s = _ from onMgmt_deaf deaf _,
    show execSetEventReceiver tr b s = _ from onMgmt_deaf deaf _,
    show execPollForPlatformEventMessage tr s = _ from onMgmt_deaf deaf _,
    show execPldmFirmwareUpdate tr fl xs fl s = _ from onMgmt_deaf deaf _,
    show execActivateFirmware tr s = _ from onMgmt_deaf deaf _,
    show execDebugHalt tr b s = _ from onDebug_deaf deaf rfl⟩

end

/-- Settles O52: the messages, by the transport that hears them and their fields. -/
theorem managementMessages : Obligations.ManagementMessages := by
  unfold Obligations.ManagementMessages
  intro s tr
  dsimp only
  refine ⟨rfl, fun deaf => messages_deaf deaf,
    fun heard b w q => ⟨setEndpointId_names heard, setEndpointId_bad heard,
      show execIdentity tr s = _ from onMgmt_heard heard _,
      fun index => ⟨logRead_bad heard, logRead_reads heard⟩,
      fun wide => ⟨show execPowerWakeRequest tr b s = _ from withChips_bad heard wide rfl,
        show execBupinChipReset tr b s = _ from withChips_bad heard wide rfl,
        show execTrayPowerCycle tr b s = _ from withChips_bad heard wide rfl,
        show execTimer tr b q s = _ from withChips_bad heard wide rfl,
        show execPace tr b w s = _ from withChips_bad heard wide rfl⟩,
      fun good => ⟨show execPowerWakeRequest tr b s = _ from withChips_good heard good rfl rfl,
        show execBupinChipReset tr b s = _ from withChips_good heard good rfl rfl,
        fun on => (trayPowerCycle_heard heard good).trans (next_ite_pos on),
        fun off => (trayPowerCycle_heard heard good).trans (next_ite_neg off), timer_sets heard good q,
        fun empty => (timer_sets heard good q).trans (by rw [empty]; rfl),
        fun c one runs later => timer_later heard good one runs later,
        fun fast => (pace_heard heard good w).trans (next_ite_pos fast),
        fun fits => (pace_heard heard good w).trans (next_ite_neg (Nat.not_lt.mpr fits))⟩,
      fun chip port addr wlen rlen data answer => ⟨fun bad => cci_impossible heard ?_,
        fun bad => cci_impossible heard (.inr (.inr (.inr (.inr (.inr bad))))),
        fun chips ports addrs writes reads full => ⟨fun dark => cci_unpowered heard ?_ dark, fun powered on => ⟨fun bs answered => ?_,
          fun silent => ?_⟩⟩⟩,
      supply_bad heard, supply_directs heard, fun d xs closed => image_notAllowed heard closed,
      fun d xs recovery live => ⟨image_bad heard recovery live, fun fits whole more => image_kept heard recovery live fits whole rfl more,
        fun fits whole final => ⟨fun good => ?_, fun bad => ?_⟩⟩,
      fun r reads => getSensorReading_known heard reads,
      fun unknown => ⟨getSensorReading_unknown heard unknown, fun up lo => setSensorThresholds_unknown heard up lo unknown⟩,
      fun r up lo reads => ⟨fun upper lower => ?_, fun bad => ?_⟩,
      setEventReceiver_names heard, setEventReceiver_bad heard, pollEvent_empty heard, fun e rest events => pollEvent_oldest heard events,
      fun e bank xs flash err => pldmFirmwareUpdate_refused heard flash err,
      fun bank flash fine => pldmFirmwareUpdate_size heard fine flash (.inl rfl),
      fun bank xs flash fine long => pldmFirmwareUpdate_size heard fine flash (.inr long),
      fun bank xs fine filled fits => pldmFirmwareUpdate_fails heard fine filled fits,
      fun bank xs fine filled fits => pldmFirmwareUpdate_stages heard fine filled fits,
      show execActivateFirmware tr s = _ from onMgmt_heard heard _⟩⟩
  · rcases bad with h | h | h | h | h <;> simp [h]
  · omega
  · refine (cci_sends heard (by omega) powered on rfl).trans ?_
    rw [answered]
    rfl
  · refine (cci_sends heard (by omega) powered on rfl).trans ?_
    rw [silent]
    rfl
  · exact (image_ends heard recovery live fits whole rfl final rfl).trans (next_ite_pos good)
  · exact (image_ends heard recovery live fits whole rfl final rfl).trans (next_ite_neg bad)
  · exact (setSensorThresholds_known heard up lo reads).trans (next_ite_pos (by rw [upper, lower]; rfl))
  · refine (setSensorThresholds_known heard up lo reads).trans (next_ite_neg ?_)
    rcases bad with h | h <;> simp [h]

end Sys2Proof.Machine
end

section
/-! SUPPORT. What the Bupin watches, and the debug port (R48, R679 to R685, R687, R690). -/

namespace Sys2Proof.Machine

open Sys2Proof

/-! ### The fan -/

/-- The hottest of the four chips, as the Bupin knows them. -/
def State.hottest (s : State) : Int :=
  chipIds.foldl (fun (a : Int) c => max a (if (s.chip c).sensed then sgn 16 ((s.chip c).rd F.PWR_TJ_TJ) else sgn 16 (s.bup c).tj)) 0

theorem fanUpdate_fanless {s : State} (rest : s.tray.straps.varAc = true ∨ s.tray.power = .off) : execFanUpdate s = .next s := by
  have off : (s.tray.straps.varAc || s.tray.power == .off) = true := by simpa using rest
  rw [execFanUpdate, State.modTray]
  exact congrArg (fun t => Host.Outcome.next { s with tray := t }) (if_pos off)

theorem fanUpdate_follows {s : State} (fan : s.tray.straps.varAc = false) (on : s.tray.power ≠ .off) : execFanUpdate s =
    .next (s.modTray fun t => { t with duty := (clampI 240 800 (240 + (s.hottest - 960))).toNat }) := by
  have turns : ¬ (s.tray.straps.varAc || s.tray.power == .off) = true := by simp [fan, on]
  rw [execFanUpdate, State.modTray]
  exact congrArg (fun t => Host.Outcome.next { s with tray := t }) (if_neg turns)

/-- The maximum of values that are at most `m` is at most `m`. -/
theorem foldl_max_le {α : Type} {f : α → Int} {m : Int} (xs : List α) (h : ∀ x, f x ≤ m) {a : Int} (ha : a ≤ m) :
    xs.foldl (fun a x => max a (f x)) a ≤ m := by
  induction xs generalizing a with
  | nil => exact ha
  | cons x xs ih => exact ih (Int.max_le.mpr ⟨ha, h x⟩)

/-- A tray at or below 96 °C turns its fan at 30 %. -/
theorem fanUpdate_cool {s : State} (fan : s.tray.straps.varAc = false) (on : s.tray.power ≠ .off)
    (cool : ∀ d : ChipId, (s.chip d).sensed = true ∧ sgn 16 ((s.chip d).rd F.PWR_TJ_TJ) ≤ 960) :
    execFanUpdate s = .next (s.modTray fun t => { t with duty := 240 }) := by
  have least : s.hottest ≤ 960 := by
    refine foldl_max_le _ (fun d => ?_) (by decide)
    rw [if_pos (cool d).1]
    exact (cool d).2
  have duty : (clampI 240 800 (240 + (s.hottest - 960))).toNat = 240 := by
    rw [clampI]
    omega
  rw [fanUpdate_follows fan on, duty]

/-! ### The debug port -/

section
variable {s : State} {tr : Transport} {chip : Byte} {f : ChipId → State → State} (heard : s.tray.hears tr = true)
include heard

theorem onDebug_unknown (wide : 4 ≤ chip.toNat) : onDebug s tr chip f = .next (s.debugAnswer tr mgBadReq 0) := by
  rw [onDebug, onMgmt_heard heard]
  exact next_ite_pos wide

variable {c : ChipId} (names : chip.toNat = c.val)
include names

theorem onDebug_closed (closed : (s.chip c).hif.state = .reset ∨ 2 ≤ (s.chip c).pwr ∨ (s.chip c).flag F.PWR_BUP_DEBUG_OPEN = false) :
    onDebug s tr chip f = .next (s.debugAnswer tr mgNotAllowed 0) := by
  rw [onDebug, onMgmt_heard heard]
  dsimp only
  rw [names, if_neg (by omega), Fin.ofNat_val_eq_self]
  exact next_ite_pos closed

theorem onDebug_open (runs : (s.chip c).hif.state ≠ .reset) (awake : (s.chip c).pwr < 2)
    (port : (s.chip c).flag F.PWR_BUP_DEBUG_OPEN = true) : onDebug s tr chip f = .next (f c s) := by
  rw [onDebug, onMgmt_heard heard]
  dsimp only
  rw [names, if_neg (by omega), Fin.ofNat_val_eq_self]
  exact next_ite_neg (by simp [runs, awake, port])

end

/-- A qword of memory is aligned. -/
theorem dbgQword_misaligned {ch : Chip} {a : Nat} (odd : a % 8 ≠ 0) : ch.dbgQword a = false := by
  rw [Chip.dbgQword, beq_eq_false_iff_ne.mpr odd]
  rfl

section
variable {s : State} {tr : Transport} {chip : Byte} (heard : s.tray.hears tr = true) {c : ChipId} (names : chip.toNat = c.val)
  (runs : (s.chip c).hif.state ≠ .reset) (awake : (s.chip c).pwr < 2) (port : (s.chip c).flag F.PWR_BUP_DEBUG_OPEN = true)
include heard names runs awake port

theorem debugHalt_open : execDebugHalt tr chip s = .next ((s.setChip c ((s.chip c).setHalted true)).debugAnswer tr mgOk 0) := by
  rw [execDebugHalt, onDebug_open heard names runs awake port]
  rfl

theorem debugResume_open : execDebugResume tr chip s = .next ((s.setChip c ((s.chip c).setHalted false)).debugAnswer tr mgOk 0) := by
  rw [execDebugResume, onDebug_open heard names runs awake port]
  rfl

theorem debugStep_running (goes : (s.chip c).fab.steward.halted = false) :
    execDebugStep tr chip s = .next (s.debugAnswer tr mgBadReq 0) := by
  rw [execDebugStep, onDebug_open heard names runs awake port]
  exact next_ite_neg ((Bool.not_eq_true _).mpr goes)

theorem debugStep_halted (stopped : (s.chip c).fab.steward.halted = true) : execDebugStep tr chip s =
    .next ((regDone c (s.chip c).stewardStep.2 (s.setChip c (s.chip c).stewardStep.1)).debugAnswer tr mgOk 0) := by
  rw [execDebugStep, onDebug_open heard names runs awake port]
  exact next_ite_pos stopped

theorem debugRead_memory {a : Qword} (memory : (s.chip c).dbgQword a.toNat = true) : execDebugRead tr chip a s =
    .next ((s.setChip c (s.chip c)).debugAnswer tr mgOk (if (s.chip c).tapHides a.toNat = true then 0
      else (s.chip c).stewLoad a.toNat 8)) := by
  rw [execDebugRead, onDebug_open heard names runs awake port, setChip_self]
  dsimp only
  rw [memory, Bool.true_or, if_pos rfl, Bool.true_and]

theorem debugRead_register {a : Qword} (aligned : a.toNat % 8 = 0) (register : spansIn a.toNat 8 regBase 0x1000000 = true)
    (other : (s.chip c).dbgQword a.toNat = false) (noRom : spansIn a.toNat 8 romBase 0x10000 = false)
    {lo hi : Nat × Chip} (low : (s.chip c).regRead .steward (a.toNat - regBase) = lo)
    (high : lo.2.regRead .steward (a.toNat - regBase + 4) = hi) :
    execDebugRead tr chip a s = .next ((s.setChip c hi.2).debugAnswer tr mgOk (lo.1 + hi.1 * 2 ^ 32)) := by
  rw [execDebugRead, onDebug_open heard names runs awake port]
  dsimp only
  rw [other, noRom, Bool.and_false, Bool.or_false, if_neg Bool.false_ne_true, aligned, register, if_pos (by decide), low, high]

theorem debugRead_misaligned {a : Qword} (odd : a.toNat % 8 ≠ 0) : execDebugRead tr chip a s = .next (s.debugAnswer tr mgBadReq 0) := by
  have no : (a.toNat % 8 == 0) = false := beq_eq_false_iff_ne.mpr odd
  rw [execDebugRead, onDebug_open heard names runs awake port]
  dsimp only
  rw [dbgQword_misaligned odd, no, Bool.false_and, Bool.or_false, if_neg Bool.false_ne_true, Bool.false_and, if_neg Bool.false_ne_true]

theorem debugWrite_memory {a : Qword} (v : Qword) (memory : (s.chip c).dbgQword a.toNat = true) : execDebugWrite tr chip a v s =
    .next ((s.setChip c ((s.chip c).store a.toNat (toLe 8 v.toNat) false)).debugAnswer tr mgOk 0) := by
  rw [execDebugWrite, onDebug_open heard names runs awake port]
  exact next_ite_pos memory

theorem debugWrite_device {a : Qword} (v : Qword) (device : devWord a.toNat = true) (other : (s.chip c).dbgQword a.toNat = false) :
    execDebugWrite tr chip a v s =
      .next ((s.setChip c ((s.chip c).deviceStore .steward ((a.toNat - devBase) / 8) v false)).debugAnswer tr mgOk 0) := by
  rw [execDebugWrite, onDebug_open heard names runs awake port]
  exact (next_ite_neg ((Bool.not_eq_true _).mpr other)).trans (next_ite_pos device)

end

/-- Settles O53: the watch of the Bupin, by what it reads, and the debug port, by whether it is open. -/
theorem bupinWatchAndDebug : Obligations.BupinWatchAndDebug := by
  unfold Obligations.BupinWatchAndDebug
  intro s c tr chip
  dsimp only
  refine ⟨fun off => ⟨fun mv p r pl => next_ite_pos off, fun pc => next_ite_pos off⟩,
    fun mv p r pl on => ⟨fun rest => (next_ite_neg on).trans (next_ite_neg ?_),
      fun low turns => (next_ite_neg on).trans (next_ite_pos ⟨low, turns⟩)⟩,
    next_ite_pos, next_ite_neg, rfl, fanUpdate_fanless, fanUpdate_follows, fanUpdate_cool,
    fun rest => next_ite_pos rest, fun fan high low on => next_ite_neg ?_,
    fun pc on => ⟨fun rest => (next_ite_neg on).trans (next_ite_neg ?_), fun trial powered => (next_ite_neg on).trans
      (next_ite_pos ⟨trial, powered⟩)⟩, fun low => rfl, fun pins => rfl,
    fun heard => ⟨fun wide => ?_, fun names closed => ?_, fun names runs awake port => ⟨debugHalt_open heard names runs awake port,
      debugResume_open heard names runs awake port, debugStep_running heard names runs awake port,
      debugStep_halted heard names runs awake port, fun a memory => ⟨fun shown => ?_, fun hidden => ?_, fun v =>
        debugWrite_memory heard names runs awake port v memory⟩,
      fun a aligned register other noRom => debugRead_register heard names runs awake port aligned register other noRom rfl rfl,
      fun a v => debugWrite_device heard names runs awake port v, fun a odd => debugRead_misaligned heard names runs awake port odd⟩⟩⟩
  · exact fun h => rest.elim (fun g => absurd (h.1.symm.trans g) (by decide)) fun g => Nat.not_le.mpr g h.2
  · simp [fan, high, low, on]
  · rintro ⟨trial, powered⟩
    exact rest.elim (fun g => absurd (trial.symm.trans (congrArg Option.isSome g)) (by decide)) fun g => g powered
  · exact ⟨show execDebugHalt tr chip s = _ from onDebug_unknown heard wide,
      show execDebugStep tr chip s = _ from onDebug_unknown heard wide,
      show execDebugResume tr chip s = _ from onDebug_unknown heard wide,
      fun a => show execDebugRead tr chip a s = _ from onDebug_unknown heard wide,
      fun a v => show execDebugWrite tr chip a v s = _ from onDebug_unknown heard wide⟩
  · exact ⟨show execDebugHalt tr chip s = _ from onDebug_closed heard names closed,
      show execDebugStep tr chip s = _ from onDebug_closed heard names closed,
      show execDebugResume tr chip s = _ from onDebug_closed heard names closed,
      fun a => show execDebugRead tr chip a s = _ from onDebug_closed heard names closed,
      fun a v => show execDebugWrite tr chip a v s = _ from onDebug_closed heard names closed⟩
  · exact (debugRead_memory heard names runs awake port memory).trans (by rw [if_neg ((Bool.not_eq_true _).mpr shown)])
  · exact (debugRead_memory heard names runs awake port memory).trans (by rw [if_pos hidden])

end Sys2Proof.Machine
end
